-- ==== Sys2Proof/Word.lean ====
section
/-! DEFINITION. The word of the Plitar N9: 64 bits (R47, R164), bytes of 8 bits stored little-endian (R6). -/

namespace Sys2Proof

/-- A 64-bit value: a lane register, an instruction word, an address (R47, R106, R164). -/
abbrev Word := BitVec 64

/-- One byte of memory (R6). -/
abbrev Byte := BitVec 8

end Sys2Proof
end

