-- ==== Sys2Proof/Syntax.lean ====
section
/-! DEFINITION. The abstract syntax of the Dorard ISA 1.0: operands, modifier fields and one constructor of
`Instr` per row of opcode_table.json. Rows that are instruction words carry the fields of their format
(R164-R183); rows that are events of the device carry what names the event. -/

namespace Sys2Proof

/-- The guard of a full word: predicate `p`, inverted when `neg` (R166). -/
structure Guard where
  p   : BitVec 7
  neg : Bool
deriving DecidableEq, Repr

/-- The guard that every thread meets: p0, not inverted (R166). -/
def Guard.always : Guard := ⟨0, false⟩

/-- A 10-bit operand specifier (R170). -/
inductive Operand where
  | lane    (i : BitVec 7)
  | const   (k : BitVec 6)
  | special (i : BitVec 6)
  | pred    (i : BitVec 7)
  | scoped  (level : BitVec 4) (index : BitVec 5)
deriving DecidableEq, Repr

/-- Element layout of the integer instructions (R72). -/
inductive IntW where
  | w64 | w32 | w16x4 | w8x8 | w32x2
deriving DecidableEq, Repr

/-- Float layout `fmt` (R221). -/
inductive FFmt where
  | f64 | f32 | f32x2 | f16x4 | bf16x4
deriving DecidableEq, Repr

/-- Rounding mode `rm` (R80). -/
inductive RM where
  | rne | rtz | rdn | rup | rna | dyn
deriving DecidableEq, Repr

/-- Operators of scoped writes, lehr registers, SCAN and REDUCE, in code order (R64). -/
inductive RedOp where
  | addN64 | addI64 | minI64 | maxI64 | minN64 | maxN64 | faddF64 | faddF32
  | fmulF64 | fminF64 | fmaxF64 | fminF32 | fmaxF32 | and | or | xor
deriving DecidableEq, Repr

/-- Access width of LD and ST (R175). -/
inductive MemW where
  | b8 | b16 | b32 | b64
deriving DecidableEq, Repr

/-- Integer modifier (R173). -/
structure IntMod where
  w   : IntW
  sg  : Bool
  sat : Bool
deriving DecidableEq, Repr

/-- Float modifier of the instructions that round (R174). -/
structure FMod where
  fmt : FFmt
  rm  : RM
  ftz : Bool
deriving DecidableEq, Repr

/-- `OP d, a` of the integer group (R191). -/
structure Int2 where
  g : Guard
  m : IntMod
  d : Operand
  a : Operand
deriving DecidableEq, Repr

/-- `OP d, a, b` of the integer group (R191). -/
structure Int3 where
  g : Guard
  m : IntMod
  d : Operand
  a : Operand
  b : Operand
deriving DecidableEq, Repr

/-- `OP d, a, b, c` of the integer group (R191). -/
structure Int4 where
  g : Guard
  m : IntMod
  d : Operand
  a : Operand
  b : Operand
  c : Operand
deriving DecidableEq, Repr

/-- Integer immediate form (R176, R197). -/
structure IntI where
  g   : Guard
  w32 : Bool
  sg  : Bool
  sat : Bool
  d   : Operand
  a   : Operand
  imm : BitVec 24
deriving DecidableEq, Repr

/-- Four operands and no modifier: BPERM and SEL (R200, R201). -/
structure Plain4 where
  g : Guard
  d : Operand
  a : Operand
  b : Operand
  c : Operand
deriving DecidableEq, Repr

/-- CMP and LEA: layout, signedness and a three-bit field `x` (`cc` or `sh`, R202, R204). -/
structure Int4x where
  g  : Guard
  w  : IntW
  sg : Bool
  x  : BitVec 3
  d  : Operand
  a  : Operand
  b  : Operand
  c  : Operand
deriving DecidableEq, Repr

/-- CMPI (R203). -/
structure CmpI where
  g   : Guard
  cc  : BitVec 3
  d   : Operand
  a   : Operand
  imm : BitVec 24
deriving DecidableEq, Repr

/-- MOV (R205): `rd` marks an upward reduction with operator `red`, `acc` an accumulating one. -/
structure MovF where
  g   : Guard
  w   : IntW
  sg  : Bool
  rd  : Bool
  acc : Bool
  red : RedOp
  d   : Operand
  a   : Operand
deriving DecidableEq, Repr

/-- MOVL and ADDL (R206). -/
structure LongI where
  g   : Guard
  sel : BitVec 2
  d   : Operand
  imm : BitVec 32
deriving DecidableEq, Repr

/-- PLOG (R207) with its truth table, PSET (R208) with `inv` in bit 0 of `x`. -/
structure PredF where
  g : Guard
  x : BitVec 4
  d : Operand
  a : Operand
  b : Operand
deriving DecidableEq, Repr

/-- Float forms with `fmt`, `rm`, `ftz` (R220). -/
structure Flt2 where
  g : Guard
  m : FMod
  d : Operand
  a : Operand
deriving DecidableEq, Repr

/-- `OP d, a, b` with `fmt`, `rm`, `ftz` (R220). -/
structure Flt3 where
  g : Guard
  m : FMod
  d : Operand
  a : Operand
  b : Operand
deriving DecidableEq, Repr

/-- `OP d, a, b, c` with `fmt`, `rm`, `ftz` (R220). -/
structure Flt4 where
  g : Guard
  m : FMod
  d : Operand
  a : Operand
  b : Operand
  c : Operand
deriving DecidableEq, Repr

/-- FMIN and FMAX (R224). -/
structure FMinMax where
  g   : Guard
  fmt : FFmt
  ftz : Bool
  num : Bool
  d   : Operand
  a   : Operand
  b   : Operand
deriving DecidableEq, Repr

/-- FABS, FNEG, FCLASS, FGETEXP, FGETMANT: no rounding mode (R174). -/
structure FUn where
  g   : Guard
  fmt : FFmt
  ftz : Bool
  d   : Operand
  a   : Operand
deriving DecidableEq, Repr

/-- FSIGN (R225). -/
structure FBin where
  g   : Guard
  fmt : FFmt
  ftz : Bool
  d   : Operand
  a   : Operand
  b   : Operand
deriving DecidableEq, Repr

/-- FCMP (R226). -/
structure FCmp where
  g   : Guard
  fmt : FFmt
  cc  : BitVec 3
  ftz : Bool
  d   : Operand
  a   : Operand
  b   : Operand
  c   : Operand
deriving DecidableEq, Repr

/-- Special functions: the three bits of `rm` are neither checked nor used (R174, R240, R241). -/
structure SfuF where
  g   : Guard
  fmt : FFmt
  rm  : BitVec 3
  ftz : Bool
  d   : Operand
  a   : Operand
deriving DecidableEq, Repr

/-- CVTF and UNPACK: source format code and position (R232, R239). -/
structure CvtF where
  g   : Guard
  m   : FMod
  sf  : BitVec 4
  pos : BitVec 4
  d   : Operand
  a   : Operand
  b   : Operand
deriving DecidableEq, Repr

/-- CVTFI and CVTIF: integer width code and signedness (R233, R234). -/
structure CvtI where
  g  : Guard
  m  : FMod
  iw : BitVec 2
  si : Bool
  d  : Operand
  a  : Operand
deriving DecidableEq, Repr

/-- CVTN (R235): `rm` neither checked nor used. -/
structure CvtN where
  g   : Guard
  fmt : FFmt
  rm  : BitVec 3
  ftz : Bool
  df  : BitVec 4
  pos : BitVec 4
  d   : Operand
  a   : Operand
  b   : Operand
deriving DecidableEq, Repr

/-- SCALEEST (R236). -/
structure ScaleF where
  g   : Guard
  fmt : FFmt
  ftz : Bool
  tf  : BitVec 4
  d   : Operand
  a   : Operand
deriving DecidableEq, Repr

/-- CBDEC (R237). -/
structure CbDec where
  g    : Guard
  m    : FMod
  slot : BitVec 3
  scl  : Bool
  pos  : BitVec 4
  d    : Operand
  a    : Operand
  b    : Operand
deriving DecidableEq, Repr

/-- PACK: `n4` is mode 1 (R238). -/
structure PackF where
  g  : Guard
  n4 : Bool
  d  : Operand
  a  : Operand
  b  : Operand
deriving DecidableEq, Repr

/-- Forms with a level, a small mode field and an immediate: VOTE, BALLOT, SHFL, LSHIFT, COMPACT, MATCH,
ELECT (R209, R210, R243). Unused fields are zero or v0. -/
structure LvlF where
  g    : Guard
  lvl  : BitVec 4
  mode : BitVec 2
  d    : Operand
  a    : Operand
  b    : Operand
  imm  : BitVec 6
deriving DecidableEq, Repr

/-- SCAN and REDUCE (R247). -/
structure ScanF where
  g    : Guard
  lvl  : BitVec 4
  red  : RedOp
  excl : Bool
  rm   : RM
  d    : Operand
  a    : Operand
deriving DecidableEq, Repr

/-- LD and LR (R252, R258). -/
structure LdF where
  g   : Guard
  w   : MemW
  sx  : Bool
  cp  : BitVec 2
  d   : Operand
  a   : Operand
  off : BitVec 20
deriving DecidableEq, Repr

/-- ST, and PREF with `d` unused (R252, R254). -/
structure StF where
  g   : Guard
  w   : MemW
  cp  : BitVec 2
  d   : Operand
  a   : Operand
  off : BitVec 20
deriving DecidableEq, Repr

/-- LDP and STP (R252); CCTL with its operation in `x` (R255). -/
structure MemX where
  g   : Guard
  x   : BitVec 2
  d   : Operand
  a   : Operand
  off : BitVec 20
deriving DecidableEq, Repr

/-- LDX (R256). -/
structure LdxF where
  g   : Guard
  w   : MemW
  cp  : BitVec 2
  lvl : BitVec 4
  d   : Operand
  a   : Operand
deriving DecidableEq, Repr

/-- ATOM (R257); `w64` false is 32 bits. -/
structure AtomF where
  g   : Guard
  w64 : Bool
  aop : BitVec 4
  d   : Operand
  a   : Operand
  b   : Operand
  c   : Operand
deriving DecidableEq, Repr

/-- SC (R258). -/
structure ScF where
  g   : Guard
  w64 : Bool
  cp  : BitVec 2
  d   : Operand
  a   : Operand
  b   : Operand
deriving DecidableEq, Repr

/-- FENCE (R259). -/
structure FenceF where
  g   : Guard
  lvl : BitVec 4
  acq : Bool
  rel : Bool
deriving DecidableEq, Repr

/-- A level and one operand: BARA, BARW, MBAR (R263); BAR and QUIESCE use the level alone. -/
structure LvlOp where
  g   : Guard
  lvl : BitVec 4
  o   : Operand
deriving DecidableEq, Repr

/-- BAR and QUIESCE (R263). -/
structure LvlOnly where
  g   : Guard
  lvl : BitVec 4
deriving DecidableEq, Repr

/-- LEHRW: register `h<lvl>.<k>`, operator and window minus one (R268). -/
structure LehrWF where
  g   : Guard
  lvl : BitVec 4
  k   : BitVec 3
  red : RedOp
  wm1 : BitVec 6
deriving DecidableEq, Repr

/-- LEHRPUSH and LEHRREAD (R268). -/
structure LehrF where
  g   : Guard
  lvl : BitVec 4
  k   : BitVec 3
  o   : Operand
deriving DecidableEq, Repr

/-- LEHRCLR (R268). -/
structure LehrC where
  g   : Guard
  lvl : BitVec 4
  k   : BitVec 3
deriving DecidableEq, Repr

/-- One guarded operand: WORKNEXT, EMIT, COSWAP (R263, R212), HALT (R351). -/
structure One where
  g : Guard
  o : Operand
deriving DecidableEq, Repr

/-- WAITSEQ and WAITVAL (R271); `cc` is zero for WAITSEQ. -/
structure WaitF where
  g   : Guard
  lvl : BitVec 4
  acq : Bool
  cc  : BitVec 3
  d   : Operand
  a   : Operand
  b   : Operand
deriving DecidableEq, Repr

/-- NBRPUSH and NBRPOP (R272). -/
structure NbrF where
  g   : Guard
  dir : BitVec 2
  ch  : BitVec 2
  o   : Operand
deriving DecidableEq, Repr

/-- Control forms with an operand and an offset (R212); `neg` is BRU's. -/
structure CtlF where
  g   : Guard
  neg : Bool
  a   : Operand
  off : BitVec 32
deriving DecidableEq, Repr

/-- BRA (R213). -/
structure BraF where
  g   : Guard
  off : BitVec 32
deriving DecidableEq, Repr

/-- TRAP and BKPT (R352). -/
structure TrapF where
  g : Guard
  a : Operand
  k : BitVec 8
deriving DecidableEq, Repr

/-- SYSRD and SYSWR (R353). -/
structure SysF where
  g   : Guard
  o   : Operand
  idx : BitVec 12
deriving DecidableEq, Repr

/-- GRPSEL, with `x` = `by` (R354), and TLBINV, with `x` = `scope` (R358; `d` unused). -/
structure GrpF where
  g : Guard
  x : Bool
  d : Operand
  a : Operand
deriving DecidableEq, Repr

/-- GRPRD d, a, b and GRPWR a, b, c (R355). -/
structure Grp3 where
  g : Guard
  x : Operand
  y : Operand
  z : Operand
deriving DecidableEq, Repr

/-- GRPRES (R356). -/
structure GrpRes where
  g    : Guard
  skip : Bool
deriving DecidableEq, Repr

/-- The fields of XC beside `fn` (R274). -/
structure XcF where
  g      : Guard
  d      : Operand
  a      : Operand
  b      : Operand
  stream : BitVec 4
  lvl    : BitVec 4
deriving DecidableEq, Repr

/-- The half opcodes of R178, in code order. -/
inductive Hop where
  | nop | mov | add | addi | sub | and | or | xor | shli | shri | sari | min | max | mul
  | faddF32 | fmulF32 | faddF64 | fmulF64 | fminF64 | fmaxF64 | fminF32 | fmaxF32 | movi
deriving DecidableEq, Repr

/-- The fields of one half of a paired word beside its `hop` (R177). -/
structure HalfF where
  gn  : Bool
  g   : BitVec 3
  d   : BitVec 7
  s   : BitVec 7
  imm : BitVec 7
deriving DecidableEq, Repr

/-- A half with its operation (R177). A paired word is written by half A's row, with half B as argument. -/
structure Half where
  hop : Hop
  f   : HalfF
deriving DecidableEq, Repr

/-- A stream of an engine: `eng` 0 matrix, 1 copy, 2 stream, 3 fabric; `unit` is the core, or the context for
the fabric engine (R278). -/
structure StreamRef where
  eng    : BitVec 2
  unit   : Nat
  stream : BitVec 4
deriving DecidableEq, Repr

/-- An 80-byte flit as received (R395). -/
abbrev Flit := List Byte

/-- One constructor per row of opcode_table.json. -/
inductive Instr where
  | add (f : Int3) | addi (f : IntI) | sub (f : Int3) | addc (f : Int4) (ci : Bool) | subb (f : Int4) (ci : Bool)
  | mul (f : Int3) | mulh (f : Int3) | mad (f : Int4) | madw (f : Int4) | div (f : Int3) | rem (f : Int3)
  | abs (f : Int2) | min (f : Int3) | max (f : Int3) | clamp (f : Int4) | addmin (f : Int4) | addmax (f : Int4)
  | and (f : Int3) | or (f : Int3) | xor (f : Int3) | andn (f : Int3) | orn (f : Int3)
  | andi (f : IntI) | ori (f : IntI) | xori (f : IntI)
  | shl (f : Int3) | shr (f : Int3) | sar (f : Int3) | rol (f : Int3) | shli (f : IntI) | shri (f : IntI) | sari (f : IntI)
  | bfx (f : Int3) | bfi (f : Int4) | popc (f : Int2) | clz (f : Int2) | ctz (f : Int2) | brev (f : Int2)
  | bperm (f : Plain4) | sel (f : Plain4) | cmp (f : Int4x) | cmpi (f : CmpI) | lea (f : Int4x) | mov (f : MovF)
  | plog (f : PredF) | vote (f : LvlF) | ballot (f : LvlF) | pset (f : PredF)
  | fadd (f : Flt3) | fsub (f : Flt3) | fmul (f : Flt3) | ffma (f : Flt4) | ffms (f : Flt4) | fnma (f : Flt4)
  | fmin (f : FMinMax) | fmax (f : FMinMax) | fabs (f : FUn) | fneg (f : FUn) | fsign (f : FBin)
  | fcmp (f : FCmp) | fclass (f : FUn) | fdiv (f : Flt3) | fsqrt (f : Flt2) | frnd (f : Flt2) | fscale (f : Flt3)
  | fgetexp (f : FUn) | fgetmant (f : FUn) | twosum (f : Flt4) | faddmin (f : Flt4)
  | cvtf (f : CvtF) | cvtfi (f : CvtI) | cvtif (f : CvtI) | cvtn (f : CvtN) | scaleest (f : ScaleF)
  | cbdec (f : CbDec) | pack (f : PackF) | unpack (f : CvtF)
  | exp2 (f : SfuF) | log2 (f : SfuF) | sinpi (f : SfuF) | cospi (f : SfuF) | tanh (f : SfuF) | sigm (f : SfuF)
  | erf (f : SfuF) | rcp (f : SfuF) | rsqrt (f : SfuF) | silu (f : SfuF) | rcpseed (f : SfuF) | rsqseed (f : SfuF)
  | shfl (f : LvlF) | lshift (f : LvlF) | scan (f : ScanF) | reduce (f : ScanF)
  | compact (f : LvlF) | match_ (f : LvlF) | elect (f : LvlF)
  | rendezvousComplete (core slot tid : Nat)
  | ld (f : LdF) | st (f : StF) | ldp (f : MemX) | stp (f : MemX) | ldx (f : LdxF)
  | ldxTransferLanded (core slot idx : Nat)
  | pref (f : StF) | atom (f : AtomF) | lr (f : LdF) | sc (f : ScF) | fence (f : FenceF) | cctl (f : MemX)
  | bar (f : LvlOnly) | bara (f : LvlOp) | barw (f : LvlOp) | mbar (f : LvlOp) | quiesce (f : LvlOnly)
  | barrierPhaseComplete (core slot tid level : Nat)
  | chunkend (g : Guard) | lehrw (f : LehrWF) | lehrpush (f : LehrF)
  | lehrOccupancyEnd (core slot level node k : Nat)
  | lehrread (f : LehrF) | lehrclr (f : LehrC) | worknext (f : One)
  | mailboxFill (core slot m : Nat)
  | emit (f : One) | waitseq (f : WaitF) | waitval (f : WaitF)
  | waitReevaluation (core slot tid : Nat)
  | nbrpush (f : NbrF) | nbrpop (f : NbrF)
  | bra (f : BraF) | bru (f : CtlF) | jmp (f : CtlF) | call (f : CtlF) | calli (f : CtlF) | ret (f : CtlF)
  | coswap (f : One) | exit (g : Guard) | yield (g : Guard) | nop (g : Guard) | pcget (f : CtlF)
  | movl (f : LongI) | addl (f : LongI)
  | pairNop (a : HalfF) (b : Half) | pairMov (a : HalfF) (b : Half) | pairAdd (a : HalfF) (b : Half)
  | pairAddi (a : HalfF) (b : Half) | pairSub (a : HalfF) (b : Half) | pairAnd (a : HalfF) (b : Half)
  | pairOr (a : HalfF) (b : Half) | pairXor (a : HalfF) (b : Half) | pairShli (a : HalfF) (b : Half)
  | pairShri (a : HalfF) (b : Half) | pairSari (a : HalfF) (b : Half) | pairMin (a : HalfF) (b : Half)
  | pairMax (a : HalfF) (b : Half) | pairMul (a : HalfF) (b : Half) | pairFaddF32 (a : HalfF) (b : Half)
  | pairFmulF32 (a : HalfF) (b : Half) | pairFaddF64 (a : HalfF) (b : Half) | pairFmulF64 (a : HalfF) (b : Half)
  | pairFminF64 (a : HalfF) (b : Half) | pairFmaxF64 (a : HalfF) (b : Half) | pairFminF32 (a : HalfF) (b : Half)
  | pairFmaxF32 (a : HalfF) (b : Half) | pairMovi (a : HalfF) (b : Half)
  | mma (x : XcF) | mfmt (x : XcF) | accz (x : XcF) | accld (x : XcF) | accst (x : XcF) | cbload (x : XcF)
  | scload (x : XcF) | msync (x : XcF) | copy (x : XcF) | copymma (x : XcF) | gather (x : XcF) | scatter (x : XcF)
  | expand (x : XcF) | fill (x : XcF) | publish (x : XcF) | rcopy (x : XcF) | chain (x : XcF) | tail (x : XcF)
  | seq (x : XcF) | coll (x : XcF) | arm (x : XcF) | cntrd (x : XcF) | cntadd (x : XcF) | disarm (x : XcF)
  | chainEntryExecute (r : StreamRef) | engineCommandComplete (r : StreamRef) | engineDeferredFault (r : StreamRef)
  | counterChange (ctx counter : Nat) (addend : Word)
  | trap (f : TrapF) | bkpt (f : TrapF) | sysrd (f : SysF) | syswr (f : SysF) | eret (g : Guard)
  | grpsel (f : GrpF) | grprd (f : Grp3) | grpwr (f : Grp3) | grpres (f : GrpRes) | tlbinv (f : GrpF) | halt (f : One)
  | streamRetry (ctx : Nat) (value : Word) | streamCancel (ctx : Nat) (value : Word)
  | chunkTimeLimit (core : Nat) | chunkCommit (core : Nat) | phaseMerge (ctx record : Nat)
  | blockRetire (core slot : Nat) | launchRetire (ctx record : Nat)
  | doorbell (off : Nat) (value : Word)
  | packetNop (ctx queue : Nat) | launchPacket (ctx queue : Nat) | decrPacket (ctx queue : Nat)
  | setdet (ctx queue : Nat) | qfence (ctx queue : Nat) | queueWaitRelease (ctx queue : Nat)
  | unassignedPacket (ctx queue : Nat)
  | schedulingPass (part : Nat)
  | bindPlace (core : Nat) (rec : BitVec 256) | bindResume (core : Nat) (rec : BitVec 256)
  | bindPreempt (core : Nat) (rec : BitVec 256)
  | preemptSquashTimeout (core : Nat) | preemptComplete (core : Nat)
  | preemptionReserveReached (ctx record : Nat) | deadlinePassed (ctx record : Nat)
  | translationRequestService (part : Nat) | translationAnswer (part tag : Nat)
  | laserWarmUpDone (m : Nat) | drainEnd (link : Nat) | memoryLinkTrained (link : Nat)
  | retrainComplete (port : Nat) | replayTimeout (port : Nat)
  | nakRepeatTimeout (port : Nat) | idleAckTimer (port : Nat) | routeUnreachable (entry rank : Nat)
  | deviceReset (value : Word) | powerOn | functionLevelReset
  | firmwareWrite | firmwareSwitch | firmwareSlot (b : Bool) | firmwareSwitchResumed | firmwareSwitchTimeout
  | contextCreatedWrite (ctx : Nat) (value : Word) | translationAnswerWrite (ctx : Nat) (value : Word)
  | invalidationWrite (ctx : Nat) (value : Word) | forwardedTrapResume (ctx : Nat) (value : Word)
  | stepListAddress (ctx : Nat) (value : Word) | bindRecordWrite (ctx core : Nat) (value : Word)
  | registerWrite (off : Nat) (value : Word)
  | groupCreate (entry : Nat) (value : Word) | groupDelete (entry : Nat) (value : Word)
  | portEnable (port : Nat) (value : Word) | restripeWrite (port : Nat) (value : Word)
  | portCounterClear (port counter : Nat)
  | laserEnable (m : Nat) (value : Word) | laserModuleFailure (m : Nat) (removed : Bool)
  | drain (link : Nat) | restore (link : Nat)
  | quarantineRelease (addr : Word) | memoryLinkRetrain (link : Nat)
  | thermalThrottle | overTemperatureStop (die : Nat) (temp : Nat)
  | lossOfLight (port : Nat) (lost : BitVec 16)
  | dataFlit (port : Nat) (f : Flit) | commandHeader (port : Nat) (f : Flit) | counterUpdate (port : Nat) (f : Flit)
  | idleFlit (port : Nat) (f : Flit) | nak (port : Nat) (f : Flit) | lossOfLightNotice (port : Nat) (f : Flit)
  | training (port : Nat) (f : Flit) | bar2Access (off : Nat) (write : Bool) (value : Word)
  | laserModuleInserted (m : Nat) | memoryModuleRemoved (link : Nat)
  | memoryModuleInserted (link size : Nat)
deriving DecidableEq, Repr

end Sys2Proof
end

