-- ==== Sys2Proof/WellFormed.lean ====
section
/-! DEFINITION. Well-formed instructions: an instruction word is well formed when its fields meet the conditions of
R182 that do not depend on the launch (subcode 0x06 depends on `lanes` and is checked when the word issues); an event
is well formed when what it names exists on the device. -/

namespace Sys2Proof

/-- The physical domains, in code order (R4). -/
inductive Domain where
  | lane | octet | warp | core | cluster | die | package | reach
deriving DecidableEq, Repr

/-- The `bind` code of a domain (R4). -/
def Domain.code : Domain → Nat
  | .lane => 0 | .octet => 1 | .warp => 2 | .core => 3 | .cluster => 4 | .die => 5 | .package => 6 | .reach => 7

/-- The domain of a `bind` code (R4). -/
def Domain.ofCode (n : Nat) : Domain :=
  match n with
  | 0 => .lane | 1 => .octet | 2 => .warp | 3 => .core | 4 => .cluster | 5 => .die | 6 => .package | _ => .reach

/-- A guard names one of p0 to p95 (R166). -/
def Guard.ok (g : Guard) : Bool := g.p.toNat < 96

/-- An operand is not a reserved specifier (R170). -/
def Operand.ok : Operand → Bool
  | .lane _ => true
  | .const _ => true
  | .special i => i.toNat < 45 || i.toNat == 63
  | .pred i => i.toNat < 96
  | .scoped l _ => l.toNat != 0

/-- `s.none` (R69, R170). -/
def Operand.none_ : Operand := .special 63

/-- The specifier of an unused field (R169). -/
def Operand.unused : Operand := .lane 0

/-- What an operand slot accepts (R171, R172 and each instruction's own rule). -/
inductive SlotKind where
  /-- Not used: holds 0x000 (R169). -/
  | unused
  /-- Any source (R171). -/
  | src
  /-- A predicate slot (R171). -/
  | pred
  /-- A destination: lane register, predicate or `s.none` (R172). -/
  | dst
  /-- The destination of MOV (R172, R205). -/
  | dstMov
  /-- The destination of PLOG and PSET (R207, R208). -/
  | predDst
  /-- A lane register or `s.none`. -/
  | laneOrNone
  /-- A lane register. -/
  | lane
  /-- The first of a pair of lane registers, at most `top` (R216, R252). -/
  | pair (top : Nat)
  /-- The first of `n` parameter registers (R274). -/
  | params (n : Nat)
deriving DecidableEq, Repr

/-- The specifier kinds that a slot accepts; a refusal is ILLEGAL subcode 0x05 (R182). -/
def SlotKind.accepts : SlotKind → Operand → Bool
  | .unused, o => o == .unused
  | .src, _ => true
  | .pred, .pred _ => true
  | .pred, _ => false
  | .dst, .lane _ => true
  | .dst, .pred _ => true
  | .dst, .special i => i.toNat == 63
  | .dst, _ => false
  | .dstMov, .lane _ => true
  | .dstMov, .pred _ => true
  | .dstMov, .scoped _ _ => true
  | .dstMov, .special i => i.toNat == 63 || i.toNat == 37 || i.toNat == 38
  | .dstMov, .const _ => false
  | .predDst, .pred _ => true
  | .predDst, .special i => i.toNat == 63
  | .predDst, _ => false
  | .laneOrNone, .lane _ => true
  | .laneOrNone, .special i => i.toNat == 63
  | .laneOrNone, _ => false
  | .lane, .lane _ => true
  | .lane, _ => false
  | .pair top, .lane i => i.toNat ≤ top
  | .pair _, _ => false
  | .params 0, o => o == .unused
  | .params _, .lane _ => true
  | .params _, _ => false

/-- Lane register `i` is present with `lanes` groups of eight (R47). -/
def lanePresent (lanes i : Nat) : Bool := i < 8 * lanes - 2 || (126 ≤ i && i < 128)

/-- Every lane register that a slot reads or writes is present; a failure is ILLEGAL subcode 0x06 (R182, R274). -/
def SlotKind.present (lanes : Nat) : SlotKind → Operand → Bool
  | .unused, _ => true
  | .pair _, .lane i => lanePresent lanes i.toNat && lanePresent lanes (i.toNat + 1)
  | .params n, .lane i => n == 0 || (List.range n).all (fun j => lanePresent lanes (i.toNat + j))
  | _, .lane i => lanePresent lanes i.toNat
  | _, _ => true

/-- A slot takes an operand: no reserved specifier, an accepted kind and, with all registers present, no register
past v127 (R170-R172, R274). -/
def SlotKind.takes (k : SlotKind) (o : Operand) : Bool := o.ok && k.accepts o && k.present 16 o

/-- The number of elements of a float layout (R221). -/
def FFmt.ne : FFmt → Nat
  | .f64 => 1 | .f32 => 1 | .f32x2 => 2 | .f16x4 => 4 | .bf16x4 => 4

/-- `ftz` is not set with f64 (R83, R174). -/
def ftzOk (fmt : FFmt) (ftz : Bool) : Bool := !(ftz && fmt == .f64)

/-- The number of elements of a conversion format code (R230). -/
def convNe (code : Nat) : Nat :=
  match code with
  | 0 => 1 | 1 => 1 | 2 => 2 | 3 => 4 | 4 => 4 | 9 => 16 | _ => 8

/-- `pos` lies in its range when `ns` source and `nd` destination elements meet (R231). -/
def posOk (ns nd pos : Nat) : Bool := if nd ≤ ns then pos < ns / nd else pos < nd / ns

/-- The destination kind of a conversion: when the source has fewer elements, the others are kept, so the
destination is a lane register or `s.none` (R231). -/
def convDst (ns nd : Nat) : SlotKind := if nd ≤ ns then .dst else .laneOrNone

/-- The integer widths that go with a float layout (R233). -/
def ityOk (fmt : FFmt) (iw : Nat) : Bool :=
  match fmt with
  | .f64 => true | .f32 => true | .f32x2 => iw == 1 | .f16x4 => iw == 2 | .bf16x4 => iw == 2

/-- `ctl` registers that exist, by index (R345). -/
def ctlExists (i : Nat) : Bool := i ≤ 6 || (8 ≤ i && i ≤ 16) || (0x100 ≤ i && i ≤ 0x10F)

/-- `ctl` registers that SYSWR may name (R345). -/
def ctlWritable (i : Nat) : Bool :=
  ctlExists i && !(i == 5 || i == 8 || i == 9 || i == 0xD || i == 0xE || i == 0xF)

/-! ### One check per operand form -/

def Int2.ok (ws : List IntW) (sat : Bool) (f : Int2) : Bool :=
  f.g.ok && ws.contains f.m.w && (sat || !f.m.sat) && SlotKind.dst.takes f.d && SlotKind.src.takes f.a

def Int3.ok (ws : List IntW) (sat : Bool) (f : Int3) : Bool :=
  f.g.ok && ws.contains f.m.w && (sat || !f.m.sat) && SlotKind.dst.takes f.d && SlotKind.src.takes f.a
    && SlotKind.src.takes f.b

def Int4.ok (ws : List IntW) (sat : Bool) (kc : SlotKind) (f : Int4) : Bool :=
  f.g.ok && ws.contains f.m.w && (sat || !f.m.sat) && SlotKind.dst.takes f.d && SlotKind.src.takes f.a
    && SlotKind.src.takes f.b && kc.takes f.c

def IntI.ok (sat shift : Bool) (f : IntI) : Bool :=
  f.g.ok && (sat || !f.sat) && SlotKind.dst.takes f.d && SlotKind.src.takes f.a
    && (!shift || f.imm.toNat < 256)

def Plain4.ok (kc : SlotKind) (f : Plain4) : Bool :=
  f.g.ok && SlotKind.dst.takes f.d && SlotKind.src.takes f.a && SlotKind.src.takes f.b && kc.takes f.c

def Int4x.ok (ws : List IntW) (kc : SlotKind) (f : Int4x) : Bool :=
  f.g.ok && ws.contains f.w && SlotKind.dst.takes f.d && SlotKind.src.takes f.a && SlotKind.src.takes f.b
    && kc.takes f.c

def CmpI.ok (f : CmpI) : Bool := f.g.ok && SlotKind.dst.takes f.d && SlotKind.src.takes f.a

/-- An operand names a scoped register. -/
def Operand.isScoped : Operand → Bool
  | .scoped _ _ => true
  | _ => false

/-- R205: `rd` needs w64 and a scoped destination, `acc` needs `rd`, and without `rd` the operator code is zero. -/
def MovF.ok (f : MovF) : Bool :=
  f.g.ok && [IntW.w64, IntW.w32].contains f.w && SlotKind.dstMov.takes f.d && SlotKind.src.takes f.a
    && (if f.rd then f.w == .w64 && f.d.isScoped else !f.acc && f.red == .addN64)

def LongI.ok (top : Nat) (f : LongI) : Bool := f.g.ok && f.sel.toNat ≤ top && SlotKind.dst.takes f.d

def PredF.ok (ks : SlotKind) (top : Nat) (f : PredF) : Bool :=
  f.g.ok && f.x.toNat ≤ top && SlotKind.predDst.takes f.d && ks.takes f.a && ks.takes f.b

def FMod.ok (m : FMod) : Bool := ftzOk m.fmt m.ftz

def Flt2.ok (f : Flt2) : Bool := f.g.ok && f.m.ok && SlotKind.dst.takes f.d && SlotKind.src.takes f.a

def Flt3.ok (f : Flt3) : Bool :=
  f.g.ok && f.m.ok && SlotKind.dst.takes f.d && SlotKind.src.takes f.a && SlotKind.src.takes f.b

def Flt4.ok (kc : SlotKind) (f : Flt4) : Bool :=
  f.g.ok && f.m.ok && SlotKind.dst.takes f.d && SlotKind.src.takes f.a && SlotKind.src.takes f.b && kc.takes f.c

def FMinMax.ok (f : FMinMax) : Bool :=
  f.g.ok && ftzOk f.fmt f.ftz && SlotKind.dst.takes f.d && SlotKind.src.takes f.a && SlotKind.src.takes f.b

def FUn.ok (f : FUn) : Bool :=
  f.g.ok && ftzOk f.fmt f.ftz && SlotKind.dst.takes f.d && SlotKind.src.takes f.a

def FBin.ok (f : FBin) : Bool :=
  f.g.ok && ftzOk f.fmt f.ftz && SlotKind.dst.takes f.d && SlotKind.src.takes f.a && SlotKind.src.takes f.b

def FCmp.ok (f : FCmp) : Bool :=
  f.g.ok && ftzOk f.fmt f.ftz && SlotKind.dst.takes f.d && SlotKind.src.takes f.a && SlotKind.src.takes f.b
    && SlotKind.pred.takes f.c

def SfuF.ok (fmts : List FFmt) (f : SfuF) : Bool :=
  f.g.ok && fmts.contains f.fmt && ftzOk f.fmt f.ftz && SlotKind.dst.takes f.d && SlotKind.src.takes f.a

/-- The layouts of the special functions (R240). -/
def sfuFmts : List FFmt := [.f32, .f32x2, .f16x4, .bf16x4]

/-- The layouts of the seeds (R241). -/
def seedFmts : List FFmt := [.f64, .f32]

/-- R232 and R239; `lo` is the least source format code. -/
def CvtF.ok (lo : Nat) (f : CvtF) : Bool :=
  let ns := convNe f.sf.toNat
  let nd := f.m.fmt.ne
  f.g.ok && f.m.ok && lo ≤ f.sf.toNat && f.sf.toNat ≤ 9 && !(f.m.ftz && f.sf.toNat == 0)
    && posOk ns nd f.pos.toNat && (convDst ns nd).takes f.d && SlotKind.src.takes f.a
    && (if f.sf.toNat ≤ 4 then SlotKind.unused else SlotKind.src).takes f.b

def CvtI.ok (f : CvtI) : Bool :=
  f.g.ok && f.m.ok && ityOk f.m.fmt f.iw.toNat && SlotKind.dst.takes f.d && SlotKind.src.takes f.a

def CvtN.ok (f : CvtN) : Bool :=
  let ns := f.fmt.ne
  let nd := convNe f.df.toNat
  f.g.ok && ftzOk f.fmt f.ftz && 5 ≤ f.df.toNat && f.df.toNat ≤ 9 && posOk ns nd f.pos.toNat
    && SlotKind.laneOrNone.takes f.d && SlotKind.src.takes f.a && SlotKind.src.takes f.b

def ScaleF.ok (f : ScaleF) : Bool :=
  f.g.ok && ftzOk f.fmt f.ftz && 5 ≤ f.tf.toNat && f.tf.toNat ≤ 9 && SlotKind.dst.takes f.d && SlotKind.src.takes f.a

def CbDec.ok (f : CbDec) : Bool :=
  f.g.ok && f.m.ok && posOk 16 f.m.fmt.ne f.pos.toNat && SlotKind.dst.takes f.d && SlotKind.src.takes f.a
    && (if f.scl then SlotKind.src else SlotKind.unused).takes f.b

def PackF.ok (f : PackF) : Bool :=
  f.g.ok && SlotKind.dst.takes f.d && SlotKind.src.takes f.a
    && (if f.n4 then SlotKind.src else SlotKind.unused).takes f.b

/-- The FS forms of R209, R210 and R243: `top` is the largest mode, `imm` whether imm6 is used. -/
def LvlF.ok (top : Nat) (ka kb : SlotKind) (imm : Bool) (f : LvlF) : Bool :=
  f.g.ok && f.mode.toNat ≤ top && SlotKind.dst.takes f.d && ka.takes f.a && kb.takes f.b && (imm || f.imm == 0)

/-- The operators whose rounding `rm` selects (R247). -/
def RedOp.rounds : RedOp → Bool
  | .faddF64 => true | .faddF32 => true | .fmulF64 => true | _ => false

def ScanF.ok (scan : Bool) (f : ScanF) : Bool :=
  f.g.ok && f.rm != .dyn && (f.red.rounds || f.rm == .rne) && (scan || !f.excl) && SlotKind.dst.takes f.d
    && SlotKind.src.takes f.a

def LdF.ok (ws : List MemW) (f : LdF) : Bool :=
  f.g.ok && ws.contains f.w && SlotKind.dst.takes f.d && SlotKind.src.takes f.a

def StF.ok (kd : SlotKind) (f : StF) : Bool := f.g.ok && kd.takes f.d && SlotKind.src.takes f.a

def MemX.ok (kd : SlotKind) (f : MemX) : Bool := f.g.ok && kd.takes f.d && SlotKind.src.takes f.a

def LdxF.ok (f : LdxF) : Bool := f.g.ok && SlotKind.src.takes f.d && SlotKind.src.takes f.a

def AtomF.ok (f : AtomF) : Bool :=
  f.g.ok && f.aop.toNat ≤ 12 && SlotKind.laneOrNone.takes f.d && SlotKind.src.takes f.a && SlotKind.src.takes f.b
    && (if f.aop.toNat == 9 then SlotKind.src else SlotKind.unused).takes f.c

def ScF.ok (f : ScF) : Bool := f.g.ok && SlotKind.dst.takes f.d && SlotKind.src.takes f.a && SlotKind.src.takes f.b

def LvlOp.ok (k : SlotKind) (f : LvlOp) : Bool := f.g.ok && k.takes f.o

def WaitF.ok (cc : Bool) (f : WaitF) : Bool :=
  f.g.ok && (f.acq || f.lvl == 0) && (cc || f.cc == 0) && SlotKind.dst.takes f.d && SlotKind.src.takes f.a
    && SlotKind.src.takes f.b

/-- The offset of an FB word is a multiple of 8 (R168). -/
def offOk (off : BitVec 32) : Bool := off.toNat % 8 == 0

def CtlF.ok (ka : SlotKind) (neg : Bool) (f : CtlF) : Bool :=
  f.g.ok && (neg || !f.neg) && ka.takes f.a && offOk f.off

def TrapF.ok (f : TrapF) : Bool := f.g.ok && SlotKind.src.takes f.a

/-- The parameter count of each engine function, and whether `b` is used (R274 and each function's rule). -/
def xcShape : Instr → Option (Nat × Bool)
  | .mma _ => some (5, false) | .mfmt _ => some (1, false) | .accz _ => some (1, false) | .accld _ => some (3, false)
  | .accst _ => some (3, false) | .cbload _ => some (2, false) | .scload _ => some (2, false)
  | .msync _ => some (2, false) | .copy _ => some (4, false) | .copymma _ => some (10, false)
  | .gather _ => some (5, false) | .scatter _ => some (5, false) | .expand _ => some (3, false)
  | .fill _ => some (3, false) | .publish _ => some (0, false) | .rcopy _ => some (5, false)
  | .chain _ => some (6, false) | .tail _ => some (2, true) | .seq _ => some (2, true) | .coll _ => some (1, false)
  | .arm _ => some (3, false) | .cntrd _ => some (1, false) | .cntadd _ => some (2, false)
  | .disarm _ => some (1, false)
  | _ => none

def XcF.ok (n : Nat) (b : Bool) (lvl : Bool) (x : XcF) : Bool :=
  x.g.ok && SlotKind.laneOrNone.takes x.d && (SlotKind.params n).takes x.a
    && (if b then SlotKind.src else SlotKind.unused).takes x.b && (lvl || x.lvl == 0)

/-! ### Paired words -/

/-- The half reads its destination (R178). -/
def Hop.readsD : Hop → Bool
  | .nop => false | .mov => false | .movi => false | _ => true

/-- The half uses `s` (R178). -/
def Hop.readsS : Hop → Bool
  | .nop => false | .addi => false | .shli => false | .shri => false | .sari => false | .movi => false | _ => true

/-- The half uses `imm7` (R178). -/
def Hop.usesImm : Hop → Bool
  | .addi => true | .shli => true | .shri => true | .sari => true | .movi => true | _ => false

/-- The fields that R178 marks zero are zero; a breach is ILLEGAL subcode 0x0B. -/
def Half.fieldsOk (h : Half) : Bool :=
  (h.hop.readsS || h.f.s == 0) && (h.hop.usesImm || h.f.imm == 0)
    && (h.hop != .nop || (h.f.d == 0 && h.f.g == 0 && !h.f.gn))

/-- The registers a half reads. -/
def Half.reads (h : Half) : List Nat :=
  (if h.hop.readsD then [h.f.d.toNat] else []) ++ (if h.hop.readsS then [h.f.s.toNat] else [])

/-- The register a half writes. -/
def Half.dest (h : Half) : Option Nat := if h.hop == .nop then none else some h.f.d.toNat

/-- Every register of a half is present (R177). -/
def Half.present (lanes : Nat) (h : Half) : Bool :=
  (h.reads ++ h.dest.toList).all (lanePresent lanes)

/-- Pairing rule 1: destinations in different banks (R179). -/
def pairRule1 (a b : Half) : Bool :=
  match a.dest, b.dest with
  | some x, some y => x % 4 != y % 4
  | _, _ => true

/-- Pairing rule 2: at most two distinct registers read in each bank (R179). -/
def pairRule2 (a b : Half) : Bool :=
  let rs := (a.reads ++ b.reads).dedup
  (List.range 4).all (fun k => (rs.filter (fun r => r % 4 == k)).length ≤ 2)

/-- Pairing rule 3: half B does not read half A's destination (R179). -/
def pairRule3 (a b : Half) : Bool :=
  match a.dest with
  | some x => !b.reads.contains x
  | none => true

/-- A well-formed paired word (R177-R179). -/
def pairOk (a b : Half) : Bool :=
  a.fieldsOk && b.fieldsOk && pairRule1 a b && pairRule2 a b && pairRule3 a b

/-- The half operation of the row that names a paired word. -/
def Instr.halves : Instr → Option (Half × Half)
  | .pairNop a b => some (⟨.nop, a⟩, b) | .pairMov a b => some (⟨.mov, a⟩, b) | .pairAdd a b => some (⟨.add, a⟩, b)
  | .pairAddi a b => some (⟨.addi, a⟩, b) | .pairSub a b => some (⟨.sub, a⟩, b) | .pairAnd a b => some (⟨.and, a⟩, b)
  | .pairOr a b => some (⟨.or, a⟩, b) | .pairXor a b => some (⟨.xor, a⟩, b) | .pairShli a b => some (⟨.shli, a⟩, b)
  | .pairShri a b => some (⟨.shri, a⟩, b) | .pairSari a b => some (⟨.sari, a⟩, b) | .pairMin a b => some (⟨.min, a⟩, b)
  | .pairMax a b => some (⟨.max, a⟩, b) | .pairMul a b => some (⟨.mul, a⟩, b)
  | .pairFaddF32 a b => some (⟨.faddF32, a⟩, b) | .pairFmulF32 a b => some (⟨.fmulF32, a⟩, b)
  | .pairFaddF64 a b => some (⟨.faddF64, a⟩, b) | .pairFmulF64 a b => some (⟨.fmulF64, a⟩, b)
  | .pairFminF64 a b => some (⟨.fminF64, a⟩, b) | .pairFmaxF64 a b => some (⟨.fmaxF64, a⟩, b)
  | .pairFminF32 a b => some (⟨.fminF32, a⟩, b) | .pairFmaxF32 a b => some (⟨.fmaxF32, a⟩, b)
  | .pairMovi a b => some (⟨.movi, a⟩, b)
  | _ => none

/-- All five integer layouts. -/
def allW : List IntW := [.w64, .w32, .w16x4, .w8x8, .w32x2]

/-- The two scalar integer layouts. -/
def scalarW : List IntW := [.w64, .w32]

/-! ### Events -/

/-- A core number of the device (R2). -/
def coreOk (c : Nat) : Bool := c < 384

/-- A context number (R69). -/
def ctxOk (c : Nat) : Bool := c < 64

/-- A fibre port number (R393). -/
def portOk (p : Nat) : Bool := p < 64

/-- A link of 16 ports to another die or memory link number, 0 to 31 (R427). -/
def linkOk (l : Nat) : Bool := l < 32

/-- A flit has 80 bytes (R395). -/
def flitOk (f : Flit) : Bool := f.length == 80

/-- A stream exists: the unit is a core, or a context for the fabric engine (R278). -/
def StreamRef.ok (r : StreamRef) : Bool := if r.eng == 3 then ctxOk r.unit else coreOk r.unit

/-- Well-formed instructions (R182) and events. -/
def Instr.wf : Instr → Bool
  | .add f => f.ok allW true | .addi f => f.ok true false | .sub f => f.ok allW true
  | .addc f _ => f.ok scalarW false .pred | .subb f _ => f.ok scalarW false .pred
  | .mul f => f.ok allW true | .mulh f => f.ok allW false | .mad f => f.ok allW true .src
  | .madw f => f.ok [.w32, .w16x4, .w8x8] true .src | .div f => f.ok allW false | .rem f => f.ok allW false
  | .abs f => f.ok allW true | .min f => f.ok allW false | .max f => f.ok allW false
  | .clamp f => f.ok allW false .src | .addmin f => f.ok allW true .src | .addmax f => f.ok allW true .src
  | .and f => f.ok allW false | .or f => f.ok allW false | .xor f => f.ok allW false
  | .andn f => f.ok allW false | .orn f => f.ok allW false
  | .andi f => f.ok false false | .ori f => f.ok false false | .xori f => f.ok false false
  | .shl f => f.ok allW false | .shr f => f.ok allW false | .sar f => f.ok allW false | .rol f => f.ok allW false
  | .shli f => f.ok false true | .shri f => f.ok false true | .sari f => f.ok false true
  | .bfx f => f.ok scalarW false | .bfi f => f.ok scalarW false .src
  | .popc f => f.ok allW false | .clz f => f.ok allW false | .ctz f => f.ok allW false | .brev f => f.ok allW false
  | .bperm f => f.ok .src | .sel f => f.ok .pred
  | .cmp f => f.ok allW .pred | .cmpi f => f.ok | .lea f => f.ok scalarW .src | .mov f => f.ok
  | .plog f => f.ok .pred 15 | .pset f => f.ok .src 1
  | .vote f => f.ok 2 .src .unused false | .ballot f => f.ok 0 .src .unused true
  | .fadd f => f.ok | .fsub f => f.ok | .fmul f => f.ok
  | .ffma f => f.ok .src | .ffms f => f.ok .src | .fnma f => f.ok .src
  | .fmin f => f.ok | .fmax f => f.ok | .fabs f => f.ok | .fneg f => f.ok | .fsign f => f.ok
  | .fcmp f => f.ok | .fclass f => f.ok | .fdiv f => f.ok | .fsqrt f => f.ok | .frnd f => f.ok | .fscale f => f.ok
  | .fgetexp f => f.ok | .fgetmant f => f.ok | .twosum f => f.ok .laneOrNone | .faddmin f => f.ok .src
  | .cvtf f => f.ok 0 | .cvtfi f => f.ok | .cvtif f => f.ok | .cvtn f => f.ok | .scaleest f => f.ok
  | .cbdec f => f.ok | .pack f => f.ok | .unpack f => f.ok 5
  | .exp2 f => f.ok sfuFmts | .log2 f => f.ok sfuFmts | .sinpi f => f.ok sfuFmts | .cospi f => f.ok sfuFmts
  | .tanh f => f.ok sfuFmts | .sigm f => f.ok sfuFmts | .erf f => f.ok sfuFmts | .rcp f => f.ok sfuFmts
  | .rsqrt f => f.ok sfuFmts | .silu f => f.ok sfuFmts | .rcpseed f => f.ok seedFmts | .rsqseed f => f.ok seedFmts
  | .shfl f => f.ok 3 .src .src false | .lshift f => f.ok 1 .src .src true
  | .scan f => f.ok true | .reduce f => f.ok false
  | .compact f => f.ok 0 .src .dst false | .match_ f => f.ok 0 .src .unused true
  | .elect f => f.ok 0 .unused .unused false
  | .ld f => f.ok [.b8, .b16, .b32, .b64] | .lr f => f.ok [.b32, .b64]
  | .st f => f.ok .src | .pref f => f.ok .unused
  | .ldp f => f.ok (.pair 126) | .stp f => f.ok (.pair 126) | .cctl f => f.ok .unused
  | .ldx f => f.ok | .atom f => f.ok | .sc f => f.ok | .fence f => f.g.ok
  | .bar f => f.g.ok | .bara f => f.ok .dst | .barw f => f.ok .src | .mbar f => f.ok .src | .quiesce f => f.g.ok
  | .chunkend g => g.ok | .lehrw f => f.g.ok | .lehrpush f => f.g.ok && SlotKind.src.takes f.o
  | .lehrread f => f.g.ok && SlotKind.dst.takes f.o | .lehrclr f => f.g.ok
  | .worknext f => f.g.ok && SlotKind.lane.takes f.o | .emit f => f.g.ok && SlotKind.src.takes f.o
  | .waitseq f => f.ok false | .waitval f => f.ok true
  | .nbrpush f => f.g.ok && SlotKind.src.takes f.o | .nbrpop f => f.g.ok && SlotKind.dst.takes f.o
  | .bra f => f.g.ok && offOk f.off | .bru f => f.ok .pred true | .jmp f => f.ok .src false
  | .call f => f.ok .laneOrNone false | .calli f => f.ok .lane false | .ret f => f.ok .src false
  | .coswap f => f.g.ok && (SlotKind.pair 124).takes f.o
  | .exit g => g.ok | .yield g => g.ok | .nop g => g.ok | .pcget f => f.ok .dst false
  | .movl f => f.ok 3 | .addl f => f.ok 1
  | .pairNop a b => pairOk ⟨.nop, a⟩ b | .pairMov a b => pairOk ⟨.mov, a⟩ b | .pairAdd a b => pairOk ⟨.add, a⟩ b
  | .pairAddi a b => pairOk ⟨.addi, a⟩ b | .pairSub a b => pairOk ⟨.sub, a⟩ b | .pairAnd a b => pairOk ⟨.and, a⟩ b
  | .pairOr a b => pairOk ⟨.or, a⟩ b | .pairXor a b => pairOk ⟨.xor, a⟩ b | .pairShli a b => pairOk ⟨.shli, a⟩ b
  | .pairShri a b => pairOk ⟨.shri, a⟩ b | .pairSari a b => pairOk ⟨.sari, a⟩ b | .pairMin a b => pairOk ⟨.min, a⟩ b
  | .pairMax a b => pairOk ⟨.max, a⟩ b | .pairMul a b => pairOk ⟨.mul, a⟩ b
  | .pairFaddF32 a b => pairOk ⟨.faddF32, a⟩ b | .pairFmulF32 a b => pairOk ⟨.fmulF32, a⟩ b
  | .pairFaddF64 a b => pairOk ⟨.faddF64, a⟩ b | .pairFmulF64 a b => pairOk ⟨.fmulF64, a⟩ b
  | .pairFminF64 a b => pairOk ⟨.fminF64, a⟩ b | .pairFmaxF64 a b => pairOk ⟨.fmaxF64, a⟩ b
  | .pairFminF32 a b => pairOk ⟨.fminF32, a⟩ b | .pairFmaxF32 a b => pairOk ⟨.fmaxF32, a⟩ b
  | .pairMovi a b => pairOk ⟨.movi, a⟩ b
  | .mma x => x.ok 5 false true | .mfmt x => x.ok 1 false true | .accz x => x.ok 1 false true
  | .accld x => x.ok 3 false true | .accst x => x.ok 3 false true | .cbload x => x.ok 2 false true
  | .scload x => x.ok 2 false true | .msync x => x.ok 2 false true | .copy x => x.ok 4 false true
  | .copymma x => x.ok 10 false true | .gather x => x.ok 5 false true | .scatter x => x.ok 5 false true
  | .expand x => x.ok 3 false true | .fill x => x.ok 3 false true | .publish x => x.ok 0 false true
  | .rcopy x => x.ok 5 false true | .chain x => x.ok 6 false true | .tail x => x.ok 2 true false
  | .seq x => x.ok 2 true true | .coll x => x.ok 1 false true | .arm x => x.ok 3 false true
  | .cntrd x => x.ok 1 false true | .cntadd x => x.ok 2 false true | .disarm x => x.ok 1 false true
  | .trap f => f.ok | .bkpt f => f.ok
  | .sysrd f => f.g.ok && ctlExists f.idx.toNat && SlotKind.dst.takes f.o
  | .syswr f => f.g.ok && ctlWritable f.idx.toNat && SlotKind.src.takes f.o
  | .eret g => g.ok | .grpsel f => f.g.ok && SlotKind.dst.takes f.d && SlotKind.src.takes f.a
  | .grprd f => f.g.ok && SlotKind.dst.takes f.x && SlotKind.src.takes f.y && SlotKind.src.takes f.z
  | .grpwr f => f.g.ok && SlotKind.src.takes f.x && SlotKind.src.takes f.y && SlotKind.src.takes f.z
  | .grpres f => f.g.ok
  | .tlbinv f => f.g.ok && SlotKind.unused.takes f.d && (if f.x then SlotKind.unused else SlotKind.src).takes f.a
  | .halt f => f.g.ok && SlotKind.src.takes f.o
  -- events
  | .rendezvousComplete c _ _ => coreOk c | .ldxTransferLanded c _ _ => coreOk c
  | .barrierPhaseComplete c _ _ l => coreOk c && l < 16 | .lehrOccupancyEnd c _ l _ k => coreOk c && l < 16 && k < 8
  | .mailboxFill c _ m => coreOk c && m < 16 | .waitReevaluation c _ _ => coreOk c
  | .chainEntryExecute r => r.ok | .engineCommandComplete r => r.ok | .engineDeferredFault r => r.ok
  | .counterChange x c _ => ctxOk x && c < 1024
  | .streamRetry x _ => ctxOk x | .streamCancel x _ => ctxOk x
  | .chunkTimeLimit c => coreOk c | .chunkCommit c => coreOk c | .phaseMerge x _ => ctxOk x
  | .blockRetire c _ => coreOk c | .launchRetire x _ => ctxOk x | .doorbell _ _ => true
  | .packetNop x _ => ctxOk x | .launchPacket x _ => ctxOk x | .decrPacket x _ => ctxOk x | .setdet x _ => ctxOk x
  | .qfence x _ => ctxOk x | .queueWaitRelease x _ => ctxOk x | .unassignedPacket x _ => ctxOk x
  | .schedulingPass p => p < 8
  | .bindPlace c _ => coreOk c | .bindResume c _ => coreOk c | .bindPreempt c _ => coreOk c
  | .preemptSquashTimeout c => coreOk c | .preemptComplete c => coreOk c
  | .preemptionReserveReached x _ => ctxOk x | .deadlinePassed x _ => ctxOk x
  | .translationRequestService p => p < 8 | .translationAnswer p _ => p < 8
  | .deviceReset _ => true | .powerOn => true | .functionLevelReset => true
  | .firmwareWrite => true | .firmwareSwitch => true | .firmwareSlot _ => true | .firmwareSwitchResumed => true
  | .firmwareSwitchTimeout => true
  | .contextCreatedWrite x _ => ctxOk x | .translationAnswerWrite x _ => ctxOk x | .invalidationWrite x _ => ctxOk x
  | .forwardedTrapResume x _ => ctxOk x | .stepListAddress x _ => ctxOk x
  | .bindRecordWrite x c _ => ctxOk x && coreOk c | .registerWrite _ _ => true
  | .groupCreate e _ => e < 256 | .groupDelete e _ => e < 256
  | .portEnable p _ => portOk p | .restripeWrite p _ => portOk p | .portCounterClear p _ => portOk p
  | .laserEnable m _ => m < 16 | .laserWarmUpDone m => m < 16 | .laserModuleFailure m _ => m < 16
  | .drain l => linkOk l | .restore l => linkOk l | .drainEnd l => linkOk l
  | .quarantineRelease _ => true | .memoryLinkRetrain l => linkOk l
  | .thermalThrottle => true | .overTemperatureStop _ _ => true
  | .lossOfLight p _ => portOk p | .dataFlit p f => portOk p && flitOk f | .commandHeader p f => portOk p && flitOk f
  | .counterUpdate p f => portOk p && flitOk f | .idleFlit p f => portOk p && flitOk f
  | .nak p f => portOk p && flitOk f | .lossOfLightNotice p f => portOk p && flitOk f
  | .training p f => portOk p && flitOk f | .retrainComplete p => portOk p | .replayTimeout p => portOk p
  | .nakRepeatTimeout p => portOk p | .idleAckTimer p => portOk p | .routeUnreachable e _ => e < 256
  | .bar2Access _ _ _ => true | .laserModuleInserted m => m < 16 | .memoryModuleRemoved l => linkOk l
  | .memoryModuleInserted l _ => linkOk l | .memoryLinkTrained l => linkOk l

end Sys2Proof
end

