-- ==== Sys2Proof/Decode.lean ====
section
/-! DEFINITION. Decoding and encoding of instruction words (R164-R183). `illegal` finds the lowest illegal-encoding
subcode of a word under the launch's `lanes`; `decode` reads a word, rejecting by name; `encode` writes one. -/

namespace Sys2Proof

/-- The conditions of R182, in subcode order. -/
inductive Illegal where
  | badOpcode | badGuard | badFn | reservedSpecifier | slotKind | absentRegister | badModifier | nonzeroUnused
  | misalignedOffset | pairBitZero | badHalf | pairRule1 | pairRule2 | pairRule3
deriving DecidableEq, Repr

/-- The subcode of `ctl.cause` (R182). -/
def Illegal.code : Illegal → BitVec 8
  | .badOpcode => 1 | .badGuard => 2 | .badFn => 3 | .reservedSpecifier => 4 | .slotKind => 5
  | .absentRegister => 6 | .badModifier => 7 | .nonzeroUnused => 8 | .misalignedOffset => 9 | .pairBitZero => 10
  | .badHalf => 11 | .pairRule1 => 12 | .pairRule2 => 13 | .pairRule3 => 14

/-! ### Codes of modifier fields -/

/-- The code of an integer layout (R173). -/
def IntW.code : IntW → BitVec 3
  | .w64 => 0 | .w32 => 1 | .w16x4 => 2 | .w8x8 => 3 | .w32x2 => 4

/-- The integer layout of a code; 5 to 7 are checked before (R173). -/
def IntW.ofCode (c : BitVec 3) : IntW :=
  if c = 0 then .w64 else if c = 1 then .w32 else if c = 2 then .w16x4 else if c = 3 then .w8x8 else .w32x2

/-- The code of a float layout (R221). -/
def FFmt.code : FFmt → BitVec 3
  | .f64 => 0 | .f32 => 1 | .f32x2 => 2 | .f16x4 => 3 | .bf16x4 => 4

/-- The float layout of a code; 5 to 7 are checked before (R174). -/
def FFmt.ofCode (c : BitVec 3) : FFmt :=
  if c = 0 then .f64 else if c = 1 then .f32 else if c = 2 then .f32x2 else if c = 3 then .f16x4 else .bf16x4

/-- The code of a rounding mode (R80). -/
def RM.code : RM → BitVec 3
  | .rne => 0 | .rtz => 1 | .rdn => 2 | .rup => 3 | .rna => 4 | .dyn => 7

/-- The rounding mode of a code; 5 and 6 are checked before (R80). -/
def RM.ofCode (c : BitVec 3) : RM :=
  if c = 0 then .rne else if c = 1 then .rtz else if c = 2 then .rdn else if c = 3 then .rup
  else if c = 4 then .rna else .dyn

/-- The code of an operator (R64). -/
def RedOp.code : RedOp → BitVec 4
  | .addN64 => 0 | .addI64 => 1 | .minI64 => 2 | .maxI64 => 3 | .minN64 => 4 | .maxN64 => 5 | .faddF64 => 6
  | .faddF32 => 7 | .fmulF64 => 8 | .fminF64 => 9 | .fmaxF64 => 10 | .fminF32 => 11 | .fmaxF32 => 12 | .and => 13
  | .or => 14 | .xor => 15

/-- The operator of a code (R64). -/
def RedOp.ofCode (c : BitVec 4) : RedOp :=
  if c = 0 then .addN64 else if c = 1 then .addI64 else if c = 2 then .minI64 else if c = 3 then .maxI64
  else if c = 4 then .minN64 else if c = 5 then .maxN64 else if c = 6 then .faddF64 else if c = 7 then .faddF32
  else if c = 8 then .fmulF64 else if c = 9 then .fminF64 else if c = 10 then .fmaxF64 else if c = 11 then .fminF32
  else if c = 12 then .fmaxF32 else if c = 13 then .and else if c = 14 then .or else .xor

/-- The code of an access width (R175). -/
def MemW.code : MemW → BitVec 3
  | .b8 => 0 | .b16 => 1 | .b32 => 2 | .b64 => 3

/-- The access width of a code; 4 to 7 are checked before (R175). -/
def MemW.ofCode (c : BitVec 3) : MemW := if c = 0 then .b8 else if c = 1 then .b16 else if c = 2 then .b32 else .b64

/-- The code of a half operation (R178). -/
def Hop.code : Hop → BitVec 6
  | .nop => 0 | .mov => 1 | .add => 2 | .addi => 3 | .sub => 4 | .and => 5 | .or => 6 | .xor => 7 | .shli => 8
  | .shri => 9 | .sari => 10 | .min => 11 | .max => 12 | .mul => 13 | .faddF32 => 14 | .fmulF32 => 15
  | .faddF64 => 16 | .fmulF64 => 17 | .fminF64 => 18 | .fmaxF64 => 19 | .fminF32 => 20 | .fmaxF32 => 21 | .movi => 22

/-- The half operation of a code; 0x17 to 0x3F are no half opcode (R178). -/
def Hop.ofCode (c : BitVec 6) : Hop :=
  match c.toNat with
  | 1 => .mov | 2 => .add | 3 => .addi | 4 => .sub | 5 => .and | 6 => .or | 7 => .xor | 8 => .shli | 9 => .shri
  | 10 => .sari | 11 => .min | 12 => .max | 13 => .mul | 14 => .faddF32 | 15 => .fmulF32 | 16 => .faddF64
  | 17 => .fmulF64 | 18 => .fminF64 | 19 => .fmaxF64 | 20 => .fminF32 | 21 => .fmaxF32 | 22 => .movi | _ => .nop

/-! ### Operand specifiers (R170) -/

/-- The 10-bit specifier of an operand (R170). -/
def Operand.enc : Operand → BitVec 10
  | .lane i => 0#3 ++ i
  | .const k => 2#4 ++ k
  | .special i => 3#4 ++ i
  | .pred i => 2#3 ++ i
  | .scoped l i => 1#1 ++ l ++ i

/-- The operand of a specifier; bits 9:7 = 011 is no operand (R170). -/
def Operand.dec (s : BitVec 10) : Option Operand :=
  if s.getLsbD 9 then some (.scoped (s.extractLsb' 5 4) (s.extractLsb' 0 5))
  else if s.extractLsb' 7 3 = 0 then some (.lane (s.extractLsb' 0 7))
  else if s.extractLsb' 7 3 = 1 then
    if s.getLsbD 6 then some (.special (s.extractLsb' 0 6)) else some (.const (s.extractLsb' 0 6))
  else if s.extractLsb' 7 3 = 2 then some (.pred (s.extractLsb' 0 7))
  else none

/-- The operand of a specifier that has passed the check of R182. -/
def Operand.get (s : BitVec 10) : Operand := (Operand.dec s).getD .unused

/-! ### Fields of a word (R166, R167) -/

/-- The major opcode, bits 62:55. -/
def fOp (w : Word) : BitVec 8 := w.extractLsb' 55 8
/-- The guard, bits 54:47 (R166). -/
def fG (w : Word) : Guard := ⟨w.extractLsb' 48 7, w.getLsbD 47⟩
/-- `mod` of FR, FM; `fn` of FC, bits 46:40. -/
def fMod (w : Word) : BitVec 7 := w.extractLsb' 40 7
/-- `d` of FR, FM, FC. -/
def fD (w : Word) : BitVec 10 := w.extractLsb' 30 10
/-- `a` of FR, FM, FC. -/
def fA (w : Word) : BitVec 10 := w.extractLsb' 20 10
/-- `b` of FR, FC. -/
def fB (w : Word) : BitVec 10 := w.extractLsb' 10 10
/-- `c` of FR. -/
def fC (w : Word) : BitVec 10 := w.extractLsb' 0 10
/-- `mod` of FI. -/
def fIMod (w : Word) : BitVec 3 := w.extractLsb' 44 3
/-- `d` of FI. -/
def fID (w : Word) : BitVec 10 := w.extractLsb' 34 10
/-- `a` of FI. -/
def fIA (w : Word) : BitVec 10 := w.extractLsb' 24 10
/-- `imm` of FI. -/
def fImm (w : Word) : BitVec 24 := w.extractLsb' 0 24
/-- `off` of FM. -/
def fMOff (w : Word) : BitVec 20 := w.extractLsb' 0 20
/-- `mod` of FB, `sel` of FL. -/
def fBMod (w : Word) : BitVec 5 := w.extractLsb' 42 5
/-- `a` of FB, `d` of FL. -/
def fBA (w : Word) : BitVec 10 := w.extractLsb' 32 10
/-- `off` of FB, `imm32` of FL. -/
def fBOff (w : Word) : BitVec 32 := w.extractLsb' 0 32
/-- `stream` of FC. -/
def fStream (w : Word) : BitVec 4 := w.extractLsb' 6 4
/-- `lvl` of FC. -/
def fXLvl (w : Word) : BitVec 4 := w.extractLsb' 2 4
/-- `lvl` of FS. -/
def fSLvl (w : Word) : BitVec 4 := w.extractLsb' 43 4
/-- `mod` of FS. -/
def fSMod (w : Word) : BitVec 7 := w.extractLsb' 36 7
/-- `d` of FS. -/
def fSD (w : Word) : BitVec 10 := w.extractLsb' 26 10
/-- `a` of FS. -/
def fSA (w : Word) : BitVec 10 := w.extractLsb' 16 10
/-- `b` of FS. -/
def fSB (w : Word) : BitVec 10 := w.extractLsb' 6 10
/-- `imm6` of FS. -/
def fSImm (w : Word) : BitVec 6 := w.extractLsb' 0 6
/-- Half A of a paired word, bits 62:32 (R177). -/
def fHalfA (w : Word) : BitVec 31 := w.extractLsb' 32 31
/-- Half B of a paired word, bits 31:1 (R177). -/
def fHalfB (w : Word) : BitVec 31 := w.extractLsb' 1 31

/-- One bit of a bit vector from a Boolean. -/
def bit (b : Bool) : BitVec 1 := if b then 1 else 0

/-! ### Formats (R167) -/

def encFR (op : BitVec 8) (g : Guard) (m : BitVec 7) (d a b c : BitVec 10) : Word :=
  0#1 ++ op ++ g.p ++ bit g.neg ++ m ++ d ++ a ++ b ++ c

def encFI (op : BitVec 8) (g : Guard) (m : BitVec 3) (d a : BitVec 10) (imm : BitVec 24) : Word :=
  0#1 ++ op ++ g.p ++ bit g.neg ++ m ++ d ++ a ++ imm

def encFM (op : BitVec 8) (g : Guard) (m : BitVec 7) (d a : BitVec 10) (off : BitVec 20) : Word :=
  0#1 ++ op ++ g.p ++ bit g.neg ++ m ++ d ++ a ++ off

def encFB (op : BitVec 8) (g : Guard) (m : BitVec 5) (a : BitVec 10) (off : BitVec 32) : Word :=
  0#1 ++ op ++ g.p ++ bit g.neg ++ m ++ a ++ off

def encFC (g : Guard) (fn : BitVec 7) (d a b : BitVec 10) (stream lvl : BitVec 4) : Word :=
  0#1 ++ 0xD8#8 ++ g.p ++ bit g.neg ++ fn ++ d ++ a ++ b ++ stream ++ lvl ++ 0#2

def encFS (op : BitVec 8) (g : Guard) (lvl : BitVec 4) (m : BitVec 7) (d a b : BitVec 10) (imm : BitVec 6) : Word :=
  0#1 ++ op ++ g.p ++ bit g.neg ++ lvl ++ m ++ d ++ a ++ b ++ imm

def Half.enc (h : Half) : BitVec 31 := h.hop.code ++ bit h.f.gn ++ h.f.g ++ h.f.d ++ h.f.s ++ h.f.imm

def encPair (a b : Half) : Word := 1#1 ++ a.enc ++ b.enc ++ 0#1

/-- The fields of a half (R177). -/
def Half.ofBits (x : BitVec 31) : Half :=
  ⟨Hop.ofCode (x.extractLsb' 25 6),
    ⟨x.getLsbD 24, x.extractLsb' 21 3, x.extractLsb' 14 7, x.extractLsb' 7 7, x.extractLsb' 0 7⟩⟩

/-- The half opcode is assigned (R178). -/
def hopAssigned (x : BitVec 31) : Bool := (x.extractLsb' 25 6).toNat ≤ 22

/-! ### The check of a word (R182) -/

/-- Where a word carries a tree level, and the domains its binding may have (R33). -/
inductive LvlUse where
  /-- No level field. -/
  | none
  /-- A level that must exist, bound from `lo` to `hi` (R33). -/
  | bound (lvl : BitVec 4) (lo hi : Nat)
  /-- A level that must exist, with any binding (R259, R271, R276). -/
  | below (lvl : BitVec 4)
  /-- A lehr register (R62). -/
  | lehr (lvl : BitVec 4) (k : BitVec 3)
deriving DecidableEq, Repr

/-- What R182 needs to know of one full word: its operand slots, whether a modifier is unassigned (0x07), the bits
that must be zero (0x08), whether the FB offset is checked (0x09), and its level. -/
structure WordShape where
  slots : List (BitVec 10 × SlotKind)
  bad   : Bool
  zero  : Word
  off   : Bool
  lvl   : LvlUse
deriving DecidableEq, Repr

/-- Bits `lo` to `lo + n - 1`. -/
def mask (lo n : Nat) : Word := BitVec.ofNat 64 ((2 ^ n - 1) * 2 ^ lo)

/-- An integer FR word: layouts, saturation, `x` the bits of the op-specific field that must be zero (R173). -/
def shapeInt (w : Word) (ws : List IntW) (sat : Bool) (x : Nat) (kb kc : SlotKind) : WordShape :=
  { slots := [(fD w, .dst), (fA w, .src), (fB w, kb), (fC w, kc)]
    bad := !((w.extractLsb' 44 3).toNat ≤ 4 && ws.contains (IntW.ofCode (w.extractLsb' 44 3)))
      || (!sat && w.getLsbD 42)
    zero := mask 40 x, off := false, lvl := .none }

/-- An FI word of the integer group (R176, R197). -/
def shapeIntI (w : Word) (sat shift : Bool) : WordShape :=
  { slots := [(fID w, .dst), (fIA w, .src)], bad := !sat && w.getLsbD 44
    zero := if shift then mask 8 16 else 0, off := false, lvl := .none }

/-- A width, `sg` or `sat` on a word that takes none of them (R182, R192; for `sg`, log 81). -/
def badWidth (w : Word) : Bool := (w &&& mask 42 5) != 0

/-- A float layout code out of range, or `ftz` with f64 (R174). -/
def badFmt (w : Word) : Bool := 4 < (w.extractLsb' 44 3).toNat || (w.getLsbD 40 && w.extractLsb' 44 3 == 0)

/-- A rounding mode out of range (R80). -/
def badRm (w : Word) : Bool := (w.extractLsb' 41 3).toNat == 5 || (w.extractLsb' 41 3).toNat == 6

/-- A float FR word (R174): `rm` whether bits 3:1 hold a rounding mode, `zero` other bits that must be zero. -/
def shapeF (w : Word) (rm : Bool) (zero : Word) (kb kc : SlotKind) : WordShape :=
  { slots := [(fD w, .dst), (fA w, .src), (fB w, kb), (fC w, kc)]
    bad := badFmt w || (rm && badRm w), zero := zero, off := false, lvl := .none }

/-- A float FR word without a rounding mode or a selector (R174, R222). -/
def shapeF0 (w : Word) (kb : SlotKind) : WordShape :=
  { slots := [(fD w, .dst), (fA w, .src), (fB w, kb), (fC w, .unused)]
    bad := badFmt w || (w &&& mask 41 3) != 0, zero := 0, off := false, lvl := .none }

/-- A special function (R240, R241). -/
def shapeSfu (w : Word) (fmts : List FFmt) : WordShape :=
  { slots := [(fD w, .dst), (fA w, .src), (fB w, .unused), (fC w, .unused)]
    bad := badFmt w || !fmts.contains (FFmt.ofCode (w.extractLsb' 44 3)), zero := 0, off := false, lvl := .none }

/-- An FS word with a level (R167, R243, R263): `m` and `i` are the masks of `mod` and `imm6` that must be zero. -/
def shapeS (w : Word) (bad : Bool) (zero : Word) (kd ka kb : SlotKind) (lo hi : Nat) : WordShape :=
  { slots := [(fSD w, kd), (fSA w, ka), (fSB w, kb)], bad := bad, zero := zero, off := false
    lvl := .bound (fSLvl w) lo hi }

/-- A memory FM word (R175, R251). -/
def shapeM (w : Word) (bad : Bool) (zero : Word) (kd : SlotKind) : WordShape :=
  { slots := [(fD w, kd), (fA w, .src)], bad := bad, zero := zero, off := false, lvl := .none }

/-- A control FB word (R212). -/
def shapeB (w : Word) (zero : Word) (ka : SlotKind) : WordShape :=
  { slots := [(fBA w, ka)], bad := false, zero := zero, off := true, lvl := .none }

/-- SCAN and REDUCE (R247). -/
def shapeScan (w : Word) (scan : Bool) : WordShape :=
  let rm := (w.extractLsb' 0 3).toNat
  shapeS w
    (4 < rm || (!(RedOp.ofCode (w.extractLsb' 36 4)).rounds && rm != 0) || (!scan && w.getLsbD 40))
    (mask 41 2 ||| mask 3 3) .dst .src .unused 0 6

/-- An XC word with `n` parameters (R274). -/
def shapeX (w : Word) (n : Nat) (b : Bool) (lvl : Bool) : WordShape :=
  { slots := [(fD w, .laneOrNone), (fA w, .params n), (fB w, if b then .src else .unused)]
    bad := false, zero := mask 0 2 ||| (if lvl then 0 else mask 2 4), off := false, lvl := .below (fXLvl w) }

/-- CVTF and UNPACK (R232, R239); the slot kind under an unassigned layout code is log 81's. -/
def shapeCvt (w : Word) (lo : Nat) : WordShape :=
  let sf := (w.extractLsb' 0 4).toNat
  let pos := (w.extractLsb' 4 4).toNat
  let nd := (FFmt.ofCode (w.extractLsb' 44 3)).ne
  { slots := [(fD w, convDst (convNe sf) nd), (fA w, .src), (fB w, if sf ≤ 4 then .unused else .src)]
    bad := badFmt w || badRm w || sf < lo || 9 < sf || (w.getLsbD 40 && sf == 0) || !posOk (convNe sf) nd pos
      || (w &&& mask 8 2) != 0
    zero := 0, off := false, lvl := .none }

/-- CVTFI and CVTIF (R233, R234). -/
def shapeCvtI (w : Word) : WordShape :=
  { slots := [(fD w, .dst), (fA w, .src), (fB w, .unused)]
    bad := badFmt w || badRm w || !ityOk (FFmt.ofCode (w.extractLsb' 44 3)) (w.extractLsb' 0 2).toNat || (w &&& mask 3 7) != 0
    zero := 0, off := false, lvl := .none }

/-- The shapes of the engine functions (R181); none is subcode 0x03. -/
def xcWordShape (w : Word) : Option WordShape :=
  match (fMod w).toNat with
  | 0x00 => some (shapeX w 5 false true) | 0x01 => some (shapeX w 1 false true) | 0x02 => some (shapeX w 1 false true)
  | 0x03 => some (shapeX w 3 false true) | 0x04 => some (shapeX w 3 false true) | 0x05 => some (shapeX w 2 false true)
  | 0x06 => some (shapeX w 2 false true) | 0x07 => some (shapeX w 2 false true) | 0x20 => some (shapeX w 4 false true)
  | 0x21 => some (shapeX w 10 false true) | 0x22 => some (shapeX w 5 false true)
  | 0x23 => some (shapeX w 5 false true) | 0x24 => some (shapeX w 3 false true) | 0x25 => some (shapeX w 3 false true)
  | 0x26 => some (shapeX w 0 false true) | 0x27 => some (shapeX w 5 false true) | 0x40 => some (shapeX w 6 false true)
  | 0x50 => some (shapeX w 2 true false) | 0x51 => some (shapeX w 2 true true) | 0x60 => some (shapeX w 1 false true)
  | 0x61 => some (shapeX w 3 false true) | 0x62 => some (shapeX w 1 false true) | 0x63 => some (shapeX w 2 false true)
  | 0x64 => some (shapeX w 1 false true)
  | _ => none

/-- A lehr instruction (R263, R268). -/
def shapeLehr (w : Word) (zero : Word) (kd ka : SlotKind) : WordShape :=
  { slots := [(fSD w, kd), (fSA w, ka), (fSB w, .unused)], bad := false, zero := zero, off := false
    lvl := .lehr (fSLvl w) (w.extractLsb' 40 3) }

/-- An FS word whose `lvl` is zero (R263). -/
def shapeS0 (w : Word) (zero : Word) (kd ka : SlotKind) : WordShape :=
  { slots := [(fSD w, kd), (fSA w, ka), (fSB w, .unused)], bad := false, zero := zero ||| mask 43 4, off := false
    lvl := .none }

/-- WAITSEQ and WAITVAL (R271): with `acq` = 0, `lvl` must be zero. -/
def shapeWait (w : Word) (zero : Word) : WordShape :=
  { slots := [(fSD w, .dst), (fSA w, .src), (fSB w, .src)], bad := false
    zero := zero ||| (if w.getLsbD 36 then 0 else mask 43 4), off := false, lvl := .below (fSLvl w) }

/-- SYSRD and SYSWR (R345, R351). -/
def shapeSys (w : Word) (wr : Bool) : WordShape :=
  let i := (w.extractLsb' 0 12).toNat
  { slots := if wr then [(fID w, .unused), (fIA w, .src)] else [(fID w, .dst), (fIA w, .unused)]
    bad := !(if wr then ctlWritable i else ctlExists i), zero := mask 44 3 ||| mask 12 12, off := false, lvl := .none }

/-- An FR word of the system group (R351). -/
def shapeG (w : Word) (zero : Word) (kd ka kb kc : SlotKind) : WordShape :=
  { slots := [(fD w, kd), (fA w, ka), (fB w, kb), (fC w, kc)], bad := false, zero := zero, off := false, lvl := .none }

/-- The shape of a full word; none is subcode 0x01 or, for XC, 0x03 (R180). A non-zero bit 43, the place of `sx`, is 0x07 in LDX and 0x08
in CCTL: R175 has `sx` zero outside LD and LR, the two words' own rulers have the bit zero, and R182 names both subcodes (log 104, DESIGN
CHOICE). -/
def wordShape (w : Word) : Option WordShape :=
  match (fOp w).toNat with
  | 0x00 | 0x02 | 0x05 => some (shapeInt w allW true 2 .src .unused)
  | 0x01 => some (shapeIntI w true false)
  | 0x03 | 0x04 =>
    some { shapeInt w scalarW false 0 .src .pred with zero := mask 41 1 }
  | 0x06 | 0x09 | 0x0A | 0x0C | 0x0D => some (shapeInt w allW false 2 .src .unused)
  | 0x07 | 0x0F | 0x10 => some (shapeInt w allW true 2 .src .src)
  | 0x08 => some (shapeInt w [.w32, .w16x4, .w8x8] true 2 .src .src)
  | 0x0B => some (shapeInt w allW true 2 .unused .unused)
  | 0x0E => some (shapeInt w allW false 2 .src .src)
  | 0x11 | 0x12 | 0x13 | 0x14 | 0x15 | 0x19 | 0x1A | 0x1B | 0x1C => some (shapeInt w allW false 2 .src .unused)
  | 0x16 | 0x17 | 0x18 => some (shapeIntI w false false)
  | 0x1D | 0x1E | 0x1F => some (shapeIntI w false true)
  | 0x20 => some (shapeInt w scalarW false 2 .src .unused)
  | 0x21 => some (shapeInt w scalarW false 2 .src .src)
  | 0x22 | 0x23 | 0x24 | 0x25 => some (shapeInt w allW false 2 .unused .unused)
  | 0x26 => some { shapeInt w allW true 2 .src .src with bad := badWidth w }
  | 0x27 => some { shapeInt w allW true 2 .src .pred with bad := badWidth w }
  | 0x28 => some (shapeInt w allW true 0 .src .pred)
  | 0x29 => some { slots := [(fID w, .dst), (fIA w, .src)], bad := false, zero := 0, off := false, lvl := .none }
  | 0x2A => some (shapeInt w scalarW true 0 .src .src)
  | 0x2B =>
    let rd := w.getLsbD 41
    let toScoped := match Operand.dec (fD w) with
      | some o => o.isScoped
      | none => false
    some { slots := [(fD w, .dstMov), (fA w, .src), (fB w, .unused)]
           bad := (w.extractLsb' 44 3).toNat > 1 || w.getLsbD 42 || (w.getLsbD 40 && !rd)
             || (rd && (w.extractLsb' 44 3 != 0 || !toScoped))
           zero := if rd then mask 4 6 else mask 0 10, off := false, lvl := .none }
  | 0x38 =>
    some { slots := [(fD w, .predDst), (fA w, .pred), (fB w, .pred)], bad := badWidth w, zero := mask 40 2 ||| mask 4 6
           off := false, lvl := .none }
  | 0x39 => some (shapeS w (w.extractLsb' 36 2 == 3) (mask 38 5 ||| mask 0 6) .dst .src .unused 0 3)
  | 0x3A => some (shapeS w false (mask 36 7) .dst .src .unused 0 3)
  | 0x3B =>
    some { slots := [(fD w, .predDst), (fA w, .src), (fB w, .src), (fC w, .unused)], bad := badWidth w
           zero := mask 41 1, off := false, lvl := .none }
  | 0x40 | 0x41 | 0x42 | 0x4D | 0x50 => some (shapeF w true 0 .src .unused)
  | 0x43 | 0x44 | 0x45 | 0x54 => some (shapeF w true 0 .src .src)
  | 0x46 | 0x47 =>
    some { slots := [(fD w, .dst), (fA w, .src), (fB w, .src), (fC w, .unused)]
           bad := 4 < (w.extractLsb' 44 3).toNat || (w.getLsbD 41 && w.extractLsb' 44 3 == 0)
           zero := mask 42 2, off := false, lvl := .none }
  | 0x48 | 0x49 | 0x4C | 0x51 | 0x52 => some (shapeF0 w .unused)
  | 0x4A => some (shapeF0 w .src)
  | 0x4B => some (shapeF w false 0 .src .pred)
  | 0x4E | 0x4F => some (shapeF w true 0 .unused .unused)
  | 0x53 => some (shapeF w true 0 .src .laneOrNone)
  | 0x55 => some (shapeCvt w 0)
  | 0x5C => some (shapeCvt w 5)
  | 0x56 | 0x57 => some (shapeCvtI w)
  | 0x58 =>
    let df := (w.extractLsb' 0 4).toNat
    some { slots := [(fD w, .laneOrNone), (fA w, .src), (fB w, .src)]
           bad := badFmt w || df < 5 || 9 < df
             || !posOk (FFmt.ofCode (w.extractLsb' 44 3)).ne (convNe df) (w.extractLsb' 4 4).toNat || (w &&& mask 8 2) != 0
           zero := 0, off := false, lvl := .none }
  | 0x59 =>
    let tf := (w.extractLsb' 0 4).toNat
    some { slots := [(fD w, .dst), (fA w, .src), (fB w, .unused)]
           bad := badFmt w || tf < 5 || 9 < tf || (w &&& (mask 41 3 ||| mask 4 6)) != 0, zero := 0, off := false, lvl := .none }
  | 0x5A =>
    some { slots := [(fD w, .dst), (fA w, .src), (fB w, if w.getLsbD 3 then .src else .unused)]
           bad := badFmt w || badRm w || !posOk 16 (FFmt.ofCode (w.extractLsb' 44 3)).ne (w.extractLsb' 4 4).toNat
             || (w &&& mask 8 2) != 0
           zero := 0, off := false, lvl := .none }
  | 0x5B =>
    some { slots := [(fD w, .dst), (fA w, .src), (fB w, if w.getLsbD 0 || w.getLsbD 1 then .src else .unused)]
           bad := (w &&& (mask 40 7 ||| mask 1 9)) != 0, zero := 0, off := false, lvl := .none }
  | 0x60 | 0x61 | 0x62 | 0x63 | 0x64 | 0x65 | 0x66 | 0x67 | 0x68 | 0x69 => some (shapeSfu w sfuFmts)
  | 0x6A | 0x6B => some (shapeSfu w seedFmts)
  | 0x70 => some (shapeS w false (mask 38 5 ||| mask 0 6) .dst .src .src 0 3)
  | 0x71 => some (shapeS w false (mask 37 6) .dst .src .src 0 3)
  | 0x72 => some (shapeScan w true)
  | 0x73 => some (shapeScan w false)
  | 0x74 => some (shapeS w false (mask 36 7 ||| mask 0 6) .dst .src .dst 0 3)
  | 0x75 => some (shapeS w false (mask 36 7) .dst .src .unused 0 3)
  | 0x76 => some (shapeS w false (mask 36 7 ||| mask 0 6) .dst .unused .unused 0 3)
  | 0x80 => some (shapeM w (3 < (w.extractLsb' 44 3).toNat) (mask 40 1) .dst)
  | 0x81 => some (shapeM w (3 < (w.extractLsb' 44 3).toNat || w.getLsbD 43) (mask 40 1) .src)
  | 0x82 | 0x83 => some (shapeM w (w.extractLsb' 44 3 != 4 || w.getLsbD 43) (mask 40 1) (.pair 126))
  | 0x84 =>
    some { slots := [(fD w, .src), (fA w, .src), (fB w, .unused)]
           bad := 3 < (w.extractLsb' 44 3).toNat || w.getLsbD 43, zero := mask 40 1 ||| mask 4 6, off := false
           lvl := .bound (w.extractLsb' 0 4) 1 3 }
  | 0x85 => some (shapeM w (3 < (w.extractLsb' 44 3).toNat || w.getLsbD 43) (mask 40 1) .unused)
  | 0x86 =>
    let aop := (w.extractLsb' 40 4).toNat
    some { slots := [(fD w, .laneOrNone), (fA w, .src), (fB w, .src), (fC w, if aop == 9 then .src else .unused)]
           bad := !((w.extractLsb' 44 3).toNat == 2 || (w.extractLsb' 44 3).toNat == 3) || 12 < aop
           zero := 0, off := false, lvl := .none }
  | 0x87 => some (shapeM w (!((w.extractLsb' 44 3).toNat == 2 || (w.extractLsb' 44 3).toNat == 3)) (mask 40 1) .dst)
  | 0x88 =>
    some { slots := [(fD w, .dst), (fA w, .src), (fB w, .src), (fC w, .unused)]
           bad := !((w.extractLsb' 44 3).toNat == 2 || (w.extractLsb' 44 3).toNat == 3) || w.getLsbD 43
           zero := mask 40 1, off := false, lvl := .none }
  | 0x89 =>
    some { slots := [(fSD w, .unused), (fSA w, .unused), (fSB w, .unused)], bad := false
           zero := mask 38 5 ||| mask 0 6, off := false, lvl := .below (fSLvl w) }
  | 0x8A => some (shapeM w (3 < (w.extractLsb' 44 3).toNat) (mask 40 4) .unused)
  | 0xA0 | 0xA4 => some (shapeS w false (mask 36 7 ||| mask 0 6) .unused .unused .unused 0 6)
  | 0xA1 => some (shapeS w false (mask 36 7 ||| mask 0 6) .dst .unused .unused 0 6)
  | 0xA2 => some (shapeS w false (mask 36 7 ||| mask 0 6) .unused .src .unused 0 6)
  | 0xA3 => some (shapeS w false (mask 36 7 ||| mask 0 6) .unused .src .unused 1 6)
  | 0xA5 => some (shapeS0 w (mask 36 7 ||| mask 0 6) .unused .unused)
  | 0xA6 => some (shapeLehr w 0 .unused .unused)
  | 0xA7 => some (shapeLehr w (mask 36 4 ||| mask 0 6) .unused .src)
  | 0xA8 => some (shapeLehr w (mask 36 4 ||| mask 0 6) .dst .unused)
  | 0xA9 => some (shapeLehr w (mask 36 4 ||| mask 0 6) .unused .unused)
  | 0xAA => some (shapeS0 w (mask 36 7 ||| mask 0 6) .lane .unused)
  | 0xAB => some (shapeS0 w (mask 36 7 ||| mask 0 6) .unused .src)
  | 0xAC => some (shapeWait w (mask 37 6 ||| mask 0 6))
  | 0xAD => some (shapeWait w (mask 40 3 ||| mask 0 6))
  | 0xAE => some (shapeS0 w (mask 40 3 ||| mask 0 6) .unused .src)
  | 0xAF => some (shapeS0 w (mask 40 3 ||| mask 0 6) .dst .unused)
  | 0xC0 => some (shapeB w (mask 42 5) .unused)
  | 0xC1 => some (shapeB w (mask 43 4) .pred)
  | 0xC2 | 0xC5 => some (shapeB w (mask 42 5) .src)
  | 0xC3 => some (shapeB w (mask 42 5) .laneOrNone)
  | 0xC4 => some (shapeB w (mask 42 5) .lane)
  | 0xC6 => some (shapeB w (mask 42 5 ||| mask 0 32) (.pair 124))
  | 0xC7 | 0xC8 | 0xC9 => some (shapeB w (mask 42 5 ||| mask 0 32) .unused)
  | 0xCA => some (shapeB w (mask 42 5) .dst)
  | 0xD0 =>
    some { slots := [(fBA w, .dst)], bad := 3 < (fBMod w).toNat, zero := 0, off := false, lvl := .none }
  | 0xD1 =>
    some { slots := [(fBA w, .dst)], bad := 1 < (fBMod w).toNat, zero := 0, off := false, lvl := .none }
  | 0xD8 => xcWordShape w
  | 0xE0 | 0xE1 =>
    some { slots := [(fID w, .unused), (fIA w, .src)], bad := false, zero := mask 44 3 ||| mask 8 16, off := false
           lvl := .none }
  | 0xE2 => some (shapeSys w false)
  | 0xE3 => some (shapeSys w true)
  | 0xE4 => some (shapeB w (mask 42 5 ||| mask 0 32) .unused)
  | 0xE5 => some (shapeG w (mask 41 6) .dst .src .unused .unused)
  | 0xE6 => some (shapeG w (mask 40 7) .dst .src .src .unused)
  | 0xE7 => some (shapeG w (mask 40 7) .unused .src .src .src)
  | 0xE8 => some (shapeG w (mask 41 6) .unused .unused .unused .unused)
  | 0xE9 => some (shapeG w (mask 41 6) .unused (if w.getLsbD 40 then .unused else .src) .unused .unused)
  | 0xEA => some (shapeB w (mask 42 5 ||| mask 0 32) .src)
  | _ => none

/-- A reserved specifier, in an unused slot as well: each specifier of the word is decoded (R170; R182, 0x04). -/
def slotReserved (p : BitVec 10 × SlotKind) : Bool :=
  !(match Operand.dec p.1 with
    | some o => o.ok
    | none => false)

/-- A specifier kind that the slot refuses (R182, 0x05); an unused slot is looked at under 0x08. -/
def slotRefused (p : BitVec 10 × SlotKind) : Bool :=
  p.2 != .unused && p.2 != .params 0 && !p.2.accepts (Operand.get p.1)

/-- An absent lane register, in any specifier (R182, 0x06). -/
def slotAbsent (lanes : Nat) (p : BitVec 10 × SlotKind) : Bool :=
  if p.2 == .unused || p.2 == .params 0 then p.1.toNat < 128 && !lanePresent lanes p.1.toNat
  else !p.2.present lanes (Operand.get p.1)

/-- A non-zero unused specifier field (R169, 0x08). -/
def slotUnused (p : BitVec 10 × SlotKind) : Bool := (p.2 == .unused || p.2 == .params 0) && p.1 != 0

/-- The lowest subcode that R182 gives a full word under `lanes`, if any. -/
def illegalFull (lanes : Nat) (w : Word) : Option Illegal :=
  match wordShape w with
  | none => if fOp w == 0xD8 then (if (fG w).ok then some .badFn else some .badGuard) else some .badOpcode
  | some sh =>
    if !(fG w).ok then some .badGuard
    else if sh.slots.any slotReserved then some .reservedSpecifier
    else if sh.slots.any slotRefused then some .slotKind
    else if sh.slots.any (slotAbsent lanes) then some .absentRegister
    else if sh.bad then some .badModifier
    else if (w &&& sh.zero) != 0 || sh.slots.any slotUnused then some .nonzeroUnused
    else if sh.off && (fBOff w).toNat % 8 != 0 then some .misalignedOffset
    else none

/-- The lowest subcode that R182 gives a paired word under `lanes`, if any. -/
def illegalPair (lanes : Nat) (w : Word) : Option Illegal :=
  let a := Half.ofBits (fHalfA w)
  let b := Half.ofBits (fHalfB w)
  let okA := hopAssigned (fHalfA w)
  let okB := hopAssigned (fHalfB w)
  let there := fun (h : Half) => lanePresent lanes h.f.d.toNat && lanePresent lanes h.f.s.toNat
  if !there a || !there b || (okA && !a.present lanes) || (okB && !b.present lanes) then some .absentRegister
  else if w.getLsbD 0 then some .pairBitZero
  else if !(okA && okB && a.fieldsOk && b.fieldsOk) then some .badHalf
  else if !pairRule1 a b then some .pairRule1
  else if !pairRule2 a b then some .pairRule2
  else if !pairRule3 a b then some .pairRule3
  else none

/-- The lowest subcode that R182 gives a word, if any (R183). -/
def illegal (lanes : Nat) (w : Word) : Option Illegal :=
  if w.getLsbD 63 then illegalPair lanes w else illegalFull lanes w

/-! ### Reading a legal word -/

/-- Integer modifier (R173). -/
def dIntMod (w : Word) : IntMod := ⟨IntW.ofCode (w.extractLsb' 44 3), w.getLsbD 43, w.getLsbD 42⟩
def dInt2 (w : Word) : Int2 := ⟨fG w, dIntMod w, Operand.get (fD w), Operand.get (fA w)⟩
def dInt3 (w : Word) : Int3 := ⟨fG w, dIntMod w, Operand.get (fD w), Operand.get (fA w), Operand.get (fB w)⟩
def dInt4 (w : Word) : Int4 :=
  ⟨fG w, dIntMod w, Operand.get (fD w), Operand.get (fA w), Operand.get (fB w), Operand.get (fC w)⟩
def dIntI (w : Word) : IntI :=
  ⟨fG w, w.getLsbD 46, w.getLsbD 45, w.getLsbD 44, Operand.get (fID w), Operand.get (fIA w), fImm w⟩
def dPlain4 (w : Word) : Plain4 :=
  ⟨fG w, Operand.get (fD w), Operand.get (fA w), Operand.get (fB w), Operand.get (fC w)⟩
def dInt4x (w : Word) : Int4x :=
  ⟨fG w, IntW.ofCode (w.extractLsb' 44 3), w.getLsbD 43, w.extractLsb' 40 3, Operand.get (fD w), Operand.get (fA w),
    Operand.get (fB w), Operand.get (fC w)⟩
def dCmpI (w : Word) : CmpI := ⟨fG w, fIMod w, Operand.get (fID w), Operand.get (fIA w), fImm w⟩
def dMovF (w : Word) : MovF :=
  ⟨fG w, IntW.ofCode (w.extractLsb' 44 3), w.getLsbD 43, w.getLsbD 41, w.getLsbD 40,
    RedOp.ofCode (w.extractLsb' 0 4), Operand.get (fD w), Operand.get (fA w)⟩
def dLongI (w : Word) : LongI := ⟨fG w, w.extractLsb' 42 2, Operand.get (fBA w), fBOff w⟩
def dPlog (w : Word) : PredF :=
  ⟨fG w, w.extractLsb' 0 4, Operand.get (fD w), Operand.get (fA w), Operand.get (fB w)⟩
def dPset (w : Word) : PredF :=
  ⟨fG w, 0#3 ++ w.extractLsb' 40 1, Operand.get (fD w), Operand.get (fA w), Operand.get (fB w)⟩
/-- Float modifier (R174). -/
def dFMod (w : Word) : FMod :=
  ⟨FFmt.ofCode (w.extractLsb' 44 3), RM.ofCode (w.extractLsb' 41 3), w.getLsbD 40⟩
def dFmt (w : Word) : FFmt := FFmt.ofCode (w.extractLsb' 44 3)
def dFlt2 (w : Word) : Flt2 := ⟨fG w, dFMod w, Operand.get (fD w), Operand.get (fA w)⟩
def dFlt3 (w : Word) : Flt3 := ⟨fG w, dFMod w, Operand.get (fD w), Operand.get (fA w), Operand.get (fB w)⟩
def dFlt4 (w : Word) : Flt4 :=
  ⟨fG w, dFMod w, Operand.get (fD w), Operand.get (fA w), Operand.get (fB w), Operand.get (fC w)⟩
def dFMinMax (w : Word) : FMinMax :=
  ⟨fG w, dFmt w, w.getLsbD 41, w.getLsbD 40, Operand.get (fD w), Operand.get (fA w), Operand.get (fB w)⟩
def dFUn (w : Word) : FUn := ⟨fG w, dFmt w, w.getLsbD 40, Operand.get (fD w), Operand.get (fA w)⟩
def dFBin (w : Word) : FBin :=
  ⟨fG w, dFmt w, w.getLsbD 40, Operand.get (fD w), Operand.get (fA w), Operand.get (fB w)⟩
def dFCmp (w : Word) : FCmp :=
  ⟨fG w, dFmt w, w.extractLsb' 41 3, w.getLsbD 40, Operand.get (fD w), Operand.get (fA w), Operand.get (fB w),
    Operand.get (fC w)⟩
def dSfuF (w : Word) : SfuF :=
  ⟨fG w, dFmt w, w.extractLsb' 41 3, w.getLsbD 40, Operand.get (fD w), Operand.get (fA w)⟩
def dCvtF (w : Word) : CvtF :=
  ⟨fG w, dFMod w, w.extractLsb' 0 4, w.extractLsb' 4 4, Operand.get (fD w), Operand.get (fA w), Operand.get (fB w)⟩
def dCvtI (w : Word) : CvtI :=
  ⟨fG w, dFMod w, w.extractLsb' 0 2, w.getLsbD 2, Operand.get (fD w), Operand.get (fA w)⟩
def dCvtN (w : Word) : CvtN :=
  ⟨fG w, dFmt w, w.extractLsb' 41 3, w.getLsbD 40, w.extractLsb' 0 4, w.extractLsb' 4 4, Operand.get (fD w),
    Operand.get (fA w), Operand.get (fB w)⟩
def dScaleF (w : Word) : ScaleF :=
  ⟨fG w, dFmt w, w.getLsbD 40, w.extractLsb' 0 4, Operand.get (fD w), Operand.get (fA w)⟩
def dCbDec (w : Word) : CbDec :=
  ⟨fG w, dFMod w, w.extractLsb' 0 3, w.getLsbD 3, w.extractLsb' 4 4, Operand.get (fD w), Operand.get (fA w),
    Operand.get (fB w)⟩
def dPackF (w : Word) : PackF := ⟨fG w, w.getLsbD 0, Operand.get (fD w), Operand.get (fA w), Operand.get (fB w)⟩
def dLvlF (w : Word) : LvlF :=
  ⟨fG w, fSLvl w, w.extractLsb' 36 2, Operand.get (fSD w), Operand.get (fSA w), Operand.get (fSB w), fSImm w⟩
def dScanF (w : Word) : ScanF :=
  ⟨fG w, fSLvl w, RedOp.ofCode (w.extractLsb' 36 4), w.getLsbD 40, RM.ofCode (w.extractLsb' 0 3),
    Operand.get (fSD w), Operand.get (fSA w)⟩
def dLdF (w : Word) : LdF :=
  ⟨fG w, MemW.ofCode (w.extractLsb' 44 3), w.getLsbD 43, w.extractLsb' 41 2, Operand.get (fD w), Operand.get (fA w),
    fMOff w⟩
def dStF (w : Word) : StF :=
  ⟨fG w, MemW.ofCode (w.extractLsb' 44 3), w.extractLsb' 41 2, Operand.get (fD w), Operand.get (fA w), fMOff w⟩
def dMemP (w : Word) : MemX := ⟨fG w, w.extractLsb' 41 2, Operand.get (fD w), Operand.get (fA w), fMOff w⟩
def dCctl (w : Word) : MemX := ⟨fG w, w.extractLsb' 44 2, Operand.get (fD w), Operand.get (fA w), fMOff w⟩
def dLdxF (w : Word) : LdxF :=
  ⟨fG w, MemW.ofCode (w.extractLsb' 44 3), w.extractLsb' 41 2, w.extractLsb' 0 4, Operand.get (fD w),
    Operand.get (fA w)⟩
def dAtomF (w : Word) : AtomF :=
  ⟨fG w, w.getLsbD 44, w.extractLsb' 40 4, Operand.get (fD w), Operand.get (fA w), Operand.get (fB w),
    Operand.get (fC w)⟩
def dScF (w : Word) : ScF :=
  ⟨fG w, w.getLsbD 44, w.extractLsb' 41 2, Operand.get (fD w), Operand.get (fA w), Operand.get (fB w)⟩
def dFenceF (w : Word) : FenceF := ⟨fG w, fSLvl w, w.getLsbD 36, w.getLsbD 37⟩
def dLvlOnly (w : Word) : LvlOnly := ⟨fG w, fSLvl w⟩
def dLvlD (w : Word) : LvlOp := ⟨fG w, fSLvl w, Operand.get (fSD w)⟩
def dLvlA (w : Word) : LvlOp := ⟨fG w, fSLvl w, Operand.get (fSA w)⟩
def dLehrWF (w : Word) : LehrWF :=
  ⟨fG w, fSLvl w, w.extractLsb' 40 3, RedOp.ofCode (w.extractLsb' 36 4), fSImm w⟩
def dLehrA (w : Word) : LehrF := ⟨fG w, fSLvl w, w.extractLsb' 40 3, Operand.get (fSA w)⟩
def dLehrD (w : Word) : LehrF := ⟨fG w, fSLvl w, w.extractLsb' 40 3, Operand.get (fSD w)⟩
def dLehrC (w : Word) : LehrC := ⟨fG w, fSLvl w, w.extractLsb' 40 3⟩
def dWaitF (w : Word) : WaitF :=
  ⟨fG w, fSLvl w, w.getLsbD 36, w.extractLsb' 37 3, Operand.get (fSD w), Operand.get (fSA w), Operand.get (fSB w)⟩
def dNbrA (w : Word) : NbrF := ⟨fG w, w.extractLsb' 36 2, w.extractLsb' 38 2, Operand.get (fSA w)⟩
def dNbrD (w : Word) : NbrF := ⟨fG w, w.extractLsb' 36 2, w.extractLsb' 38 2, Operand.get (fSD w)⟩
def dCtlF (w : Word) : CtlF := ⟨fG w, w.getLsbD 42, Operand.get (fBA w), fBOff w⟩
def dTrapF (w : Word) : TrapF := ⟨fG w, Operand.get (fIA w), w.extractLsb' 0 8⟩
def dGrpF (w : Word) : GrpF := ⟨fG w, w.getLsbD 40, Operand.get (fD w), Operand.get (fA w)⟩
def dXcF (w : Word) : XcF :=
  ⟨fG w, Operand.get (fD w), Operand.get (fA w), Operand.get (fB w), fStream w, fXLvl w⟩

/-- The engine function of a legal XC word (R181). -/
def readXc (w : Word) : Option Instr :=
  let x := dXcF w
  match (fMod w).toNat with
  | 0x00 => some (.mma x) | 0x01 => some (.mfmt x) | 0x02 => some (.accz x) | 0x03 => some (.accld x)
  | 0x04 => some (.accst x) | 0x05 => some (.cbload x) | 0x06 => some (.scload x) | 0x07 => some (.msync x)
  | 0x20 => some (.copy x) | 0x21 => some (.copymma x) | 0x22 => some (.gather x) | 0x23 => some (.scatter x)
  | 0x24 => some (.expand x) | 0x25 => some (.fill x) | 0x26 => some (.publish x) | 0x27 => some (.rcopy x)
  | 0x40 => some (.chain x) | 0x50 => some (.tail x) | 0x51 => some (.seq x) | 0x60 => some (.coll x)
  | 0x61 => some (.arm x) | 0x62 => some (.cntrd x) | 0x63 => some (.cntadd x) | 0x64 => some (.disarm x)
  | _ => none

/-- The full word's instruction, when the word is legal (R180). -/
def readFull (w : Word) : Option Instr :=
  match (fOp w).toNat with
  | 0x00 => some (.add (dInt3 w)) | 0x01 => some (.addi (dIntI w)) | 0x02 => some (.sub (dInt3 w))
  | 0x03 => some (.addc (dInt4 w) (w.getLsbD 40)) | 0x04 => some (.subb (dInt4 w) (w.getLsbD 40))
  | 0x05 => some (.mul (dInt3 w)) | 0x06 => some (.mulh (dInt3 w)) | 0x07 => some (.mad (dInt4 w))
  | 0x08 => some (.madw (dInt4 w)) | 0x09 => some (.div (dInt3 w)) | 0x0A => some (.rem (dInt3 w))
  | 0x0B => some (.abs (dInt2 w)) | 0x0C => some (.min (dInt3 w)) | 0x0D => some (.max (dInt3 w))
  | 0x0E => some (.clamp (dInt4 w)) | 0x0F => some (.addmin (dInt4 w)) | 0x10 => some (.addmax (dInt4 w))
  | 0x11 => some (.and (dInt3 w)) | 0x12 => some (.or (dInt3 w)) | 0x13 => some (.xor (dInt3 w))
  | 0x14 => some (.andn (dInt3 w)) | 0x15 => some (.orn (dInt3 w)) | 0x16 => some (.andi (dIntI w))
  | 0x17 => some (.ori (dIntI w)) | 0x18 => some (.xori (dIntI w)) | 0x19 => some (.shl (dInt3 w))
  | 0x1A => some (.shr (dInt3 w)) | 0x1B => some (.sar (dInt3 w)) | 0x1C => some (.rol (dInt3 w))
  | 0x1D => some (.shli (dIntI w)) | 0x1E => some (.shri (dIntI w)) | 0x1F => some (.sari (dIntI w))
  | 0x20 => some (.bfx (dInt3 w)) | 0x21 => some (.bfi (dInt4 w)) | 0x22 => some (.popc (dInt2 w))
  | 0x23 => some (.clz (dInt2 w)) | 0x24 => some (.ctz (dInt2 w)) | 0x25 => some (.brev (dInt2 w))
  | 0x26 => some (.bperm (dPlain4 w)) | 0x27 => some (.sel (dPlain4 w)) | 0x28 => some (.cmp (dInt4x w))
  | 0x29 => some (.cmpi (dCmpI w)) | 0x2A => some (.lea (dInt4x w)) | 0x2B => some (.mov (dMovF w))
  | 0x38 => some (.plog (dPlog w)) | 0x39 => some (.vote (dLvlF w)) | 0x3A => some (.ballot (dLvlF w))
  | 0x3B => some (.pset (dPset w))
  | 0x40 => some (.fadd (dFlt3 w)) | 0x41 => some (.fsub (dFlt3 w)) | 0x42 => some (.fmul (dFlt3 w))
  | 0x43 => some (.ffma (dFlt4 w)) | 0x44 => some (.ffms (dFlt4 w)) | 0x45 => some (.fnma (dFlt4 w))
  | 0x46 => some (.fmin (dFMinMax w)) | 0x47 => some (.fmax (dFMinMax w)) | 0x48 => some (.fabs (dFUn w))
  | 0x49 => some (.fneg (dFUn w)) | 0x4A => some (.fsign (dFBin w)) | 0x4B => some (.fcmp (dFCmp w))
  | 0x4C => some (.fclass (dFUn w)) | 0x4D => some (.fdiv (dFlt3 w)) | 0x4E => some (.fsqrt (dFlt2 w))
  | 0x4F => some (.frnd (dFlt2 w)) | 0x50 => some (.fscale (dFlt3 w)) | 0x51 => some (.fgetexp (dFUn w))
  | 0x52 => some (.fgetmant (dFUn w)) | 0x53 => some (.twosum (dFlt4 w)) | 0x54 => some (.faddmin (dFlt4 w))
  | 0x55 => some (.cvtf (dCvtF w)) | 0x56 => some (.cvtfi (dCvtI w)) | 0x57 => some (.cvtif (dCvtI w))
  | 0x58 => some (.cvtn (dCvtN w)) | 0x59 => some (.scaleest (dScaleF w)) | 0x5A => some (.cbdec (dCbDec w))
  | 0x5B => some (.pack (dPackF w)) | 0x5C => some (.unpack (dCvtF w))
  | 0x60 => some (.exp2 (dSfuF w)) | 0x61 => some (.log2 (dSfuF w)) | 0x62 => some (.sinpi (dSfuF w))
  | 0x63 => some (.cospi (dSfuF w)) | 0x64 => some (.tanh (dSfuF w)) | 0x65 => some (.sigm (dSfuF w))
  | 0x66 => some (.erf (dSfuF w)) | 0x67 => some (.rcp (dSfuF w)) | 0x68 => some (.rsqrt (dSfuF w))
  | 0x69 => some (.silu (dSfuF w)) | 0x6A => some (.rcpseed (dSfuF w)) | 0x6B => some (.rsqseed (dSfuF w))
  | 0x70 => some (.shfl (dLvlF w)) | 0x71 => some (.lshift (dLvlF w)) | 0x72 => some (.scan (dScanF w))
  | 0x73 => some (.reduce (dScanF w)) | 0x74 => some (.compact (dLvlF w)) | 0x75 => some (.match_ (dLvlF w))
  | 0x76 => some (.elect (dLvlF w))
  | 0x80 => some (.ld (dLdF w)) | 0x81 => some (.st (dStF w)) | 0x82 => some (.ldp (dMemP w))
  | 0x83 => some (.stp (dMemP w)) | 0x84 => some (.ldx (dLdxF w)) | 0x85 => some (.pref (dStF w))
  | 0x86 => some (.atom (dAtomF w)) | 0x87 => some (.lr (dLdF w)) | 0x88 => some (.sc (dScF w))
  | 0x89 => some (.fence (dFenceF w)) | 0x8A => some (.cctl (dCctl w))
  | 0xA0 => some (.bar (dLvlOnly w)) | 0xA1 => some (.bara (dLvlD w)) | 0xA2 => some (.barw (dLvlA w))
  | 0xA3 => some (.mbar (dLvlA w)) | 0xA4 => some (.quiesce (dLvlOnly w)) | 0xA5 => some (.chunkend (fG w))
  | 0xA6 => some (.lehrw (dLehrWF w)) | 0xA7 => some (.lehrpush (dLehrA w)) | 0xA8 => some (.lehrread (dLehrD w))
  | 0xA9 => some (.lehrclr (dLehrC w)) | 0xAA => some (.worknext ⟨fG w, Operand.get (fSD w)⟩)
  | 0xAB => some (.emit ⟨fG w, Operand.get (fSA w)⟩) | 0xAC => some (.waitseq (dWaitF w))
  | 0xAD => some (.waitval (dWaitF w)) | 0xAE => some (.nbrpush (dNbrA w)) | 0xAF => some (.nbrpop (dNbrD w))
  | 0xC0 => some (.bra ⟨fG w, fBOff w⟩) | 0xC1 => some (.bru (dCtlF w)) | 0xC2 => some (.jmp (dCtlF w))
  | 0xC3 => some (.call (dCtlF w)) | 0xC4 => some (.calli (dCtlF w)) | 0xC5 => some (.ret (dCtlF w))
  | 0xC6 => some (.coswap ⟨fG w, Operand.get (fBA w)⟩) | 0xC7 => some (.exit (fG w)) | 0xC8 => some (.yield (fG w))
  | 0xC9 => some (.nop (fG w)) | 0xCA => some (.pcget (dCtlF w))
  | 0xD0 => some (.movl (dLongI w)) | 0xD1 => some (.addl (dLongI w))
  | 0xD8 => readXc w
  | 0xE0 => some (.trap (dTrapF w)) | 0xE1 => some (.bkpt (dTrapF w))
  | 0xE2 => some (.sysrd ⟨fG w, Operand.get (fID w), w.extractLsb' 0 12⟩)
  | 0xE3 => some (.syswr ⟨fG w, Operand.get (fIA w), w.extractLsb' 0 12⟩)
  | 0xE4 => some (.eret (fG w)) | 0xE5 => some (.grpsel (dGrpF w))
  | 0xE6 => some (.grprd ⟨fG w, Operand.get (fD w), Operand.get (fA w), Operand.get (fB w)⟩)
  | 0xE7 => some (.grpwr ⟨fG w, Operand.get (fA w), Operand.get (fB w), Operand.get (fC w)⟩)
  | 0xE8 => some (.grpres ⟨fG w, w.getLsbD 40⟩) | 0xE9 => some (.tlbinv (dGrpF w))
  | 0xEA => some (.halt ⟨fG w, Operand.get (fBA w)⟩)
  | _ => none

/-- The row of a paired word is named by half A's operation. -/
def pairRow (a b : Half) : Instr :=
  match a.hop with
  | .nop => .pairNop a.f b | .mov => .pairMov a.f b | .add => .pairAdd a.f b | .addi => .pairAddi a.f b
  | .sub => .pairSub a.f b | .and => .pairAnd a.f b | .or => .pairOr a.f b | .xor => .pairXor a.f b
  | .shli => .pairShli a.f b | .shri => .pairShri a.f b | .sari => .pairSari a.f b | .min => .pairMin a.f b
  | .max => .pairMax a.f b | .mul => .pairMul a.f b | .faddF32 => .pairFaddF32 a.f b
  | .fmulF32 => .pairFmulF32 a.f b | .faddF64 => .pairFaddF64 a.f b | .fmulF64 => .pairFmulF64 a.f b
  | .fminF64 => .pairFminF64 a.f b | .fmaxF64 => .pairFmaxF64 a.f b | .fminF32 => .pairFminF32 a.f b
  | .fmaxF32 => .pairFmaxF32 a.f b | .movi => .pairMovi a.f b

/-- Decodes one word, with every lane register present; an illegal word is rejected by the name of its lowest
condition (R182, R183). -/
def decode (w : Word) : Except Illegal Instr :=
  match illegal 16 w with
  | some e => .error e
  | none =>
    if w.getLsbD 63 then .ok (pairRow (Half.ofBits (fHalfA w)) (Half.ofBits (fHalfB w)))
    else match readFull w with
      | some i => .ok i
      | none => .error .badOpcode

/-! ### Writing a word -/

def eIntMod (m : IntMod) (x : BitVec 2) : BitVec 7 := m.w.code ++ bit m.sg ++ bit m.sat ++ x
def eInt2 (op : BitVec 8) (f : Int2) : Word := encFR op f.g (eIntMod f.m 0) f.d.enc f.a.enc 0 0
def eInt3 (op : BitVec 8) (f : Int3) : Word := encFR op f.g (eIntMod f.m 0) f.d.enc f.a.enc f.b.enc 0
def eInt4 (op : BitVec 8) (f : Int4) (x : BitVec 2) : Word :=
  encFR op f.g (eIntMod f.m x) f.d.enc f.a.enc f.b.enc f.c.enc
def eIntI (op : BitVec 8) (f : IntI) : Word :=
  encFI op f.g (bit f.w32 ++ bit f.sg ++ bit f.sat) f.d.enc f.a.enc f.imm
def ePlain4 (op : BitVec 8) (f : Plain4) : Word := encFR op f.g 0 f.d.enc f.a.enc f.b.enc f.c.enc
def eInt4x (op : BitVec 8) (f : Int4x) : Word :=
  encFR op f.g (f.w.code ++ bit f.sg ++ f.x) f.d.enc f.a.enc f.b.enc f.c.enc
def eLongI (op : BitVec 8) (f : LongI) : Word := encFB op f.g (0#3 ++ f.sel) f.d.enc f.imm
def eFMod (m : FMod) : BitVec 7 := m.fmt.code ++ m.rm.code ++ bit m.ftz
def eFlt2 (op : BitVec 8) (f : Flt2) : Word := encFR op f.g (eFMod f.m) f.d.enc f.a.enc 0 0
def eFlt3 (op : BitVec 8) (f : Flt3) : Word := encFR op f.g (eFMod f.m) f.d.enc f.a.enc f.b.enc 0
def eFlt4 (op : BitVec 8) (f : Flt4) : Word := encFR op f.g (eFMod f.m) f.d.enc f.a.enc f.b.enc f.c.enc
def eFMinMax (op : BitVec 8) (f : FMinMax) : Word :=
  encFR op f.g (f.fmt.code ++ 0#2 ++ bit f.ftz ++ bit f.num) f.d.enc f.a.enc f.b.enc 0
def eFUn (op : BitVec 8) (f : FUn) : Word := encFR op f.g (f.fmt.code ++ 0#3 ++ bit f.ftz) f.d.enc f.a.enc 0 0
def eSfu (op : BitVec 8) (f : SfuF) : Word := encFR op f.g (f.fmt.code ++ f.rm ++ bit f.ftz) f.d.enc f.a.enc 0 0
def eCvtF (op : BitVec 8) (f : CvtF) : Word :=
  encFR op f.g (eFMod f.m) f.d.enc f.a.enc f.b.enc (0#2 ++ f.pos ++ f.sf)
def eCvtI (op : BitVec 8) (f : CvtI) : Word :=
  encFR op f.g (eFMod f.m) f.d.enc f.a.enc 0 (0#7 ++ bit f.si ++ f.iw)
def eLvlF (op : BitVec 8) (f : LvlF) : Word :=
  encFS op f.g f.lvl (0#5 ++ f.mode) f.d.enc f.a.enc f.b.enc f.imm
def eScanF (op : BitVec 8) (f : ScanF) : Word :=
  encFS op f.g f.lvl (0#2 ++ bit f.excl ++ f.red.code) f.d.enc f.a.enc 0 (0#3 ++ f.rm.code)
def eLdF (op : BitVec 8) (f : LdF) : Word :=
  encFM op f.g (f.w.code ++ bit f.sx ++ f.cp ++ 0#1) f.d.enc f.a.enc f.off
def eStF (op : BitVec 8) (f : StF) : Word := encFM op f.g (f.w.code ++ 0#1 ++ f.cp ++ 0#1) f.d.enc f.a.enc f.off
def eMemP (op : BitVec 8) (f : MemX) : Word := encFM op f.g (4#3 ++ 0#1 ++ f.x ++ 0#1) f.d.enc f.a.enc f.off
def eW (w64 : Bool) : BitVec 3 := if w64 then 3 else 2
def eLvlOnly (op : BitVec 8) (f : LvlOnly) : Word := encFS op f.g f.lvl 0 0 0 0 0
def eLvlD (op : BitVec 8) (f : LvlOp) : Word := encFS op f.g f.lvl 0 f.o.enc 0 0 0
def eLvlA (op : BitVec 8) (f : LvlOp) : Word := encFS op f.g f.lvl 0 0 f.o.enc 0 0
def eWait (op : BitVec 8) (f : WaitF) : Word :=
  encFS op f.g f.lvl (0#3 ++ f.cc ++ bit f.acq) f.d.enc f.a.enc f.b.enc 0
def eCtlF (op : BitVec 8) (f : CtlF) : Word := encFB op f.g (0#4 ++ bit f.neg) f.a.enc f.off
def eTrapF (op : BitVec 8) (f : TrapF) : Word := encFI op f.g 0 0 f.a.enc (0#16 ++ f.k)
def eXc (fn : BitVec 7) (x : XcF) : Word := encFC x.g fn x.d.enc x.a.enc x.b.enc x.stream x.lvl

/-- The word of a well-formed instruction; an event has none. -/
def encode : Instr → Option Word
  | .add f => some (eInt3 0x00 f) | .addi f => some (eIntI 0x01 f) | .sub f => some (eInt3 0x02 f)
  | .addc f ci => some (eInt4 0x03 f (0#1 ++ bit ci)) | .subb f ci => some (eInt4 0x04 f (0#1 ++ bit ci))
  | .mul f => some (eInt3 0x05 f) | .mulh f => some (eInt3 0x06 f) | .mad f => some (eInt4 0x07 f 0)
  | .madw f => some (eInt4 0x08 f 0) | .div f => some (eInt3 0x09 f) | .rem f => some (eInt3 0x0A f)
  | .abs f => some (eInt2 0x0B f) | .min f => some (eInt3 0x0C f) | .max f => some (eInt3 0x0D f)
  | .clamp f => some (eInt4 0x0E f 0) | .addmin f => some (eInt4 0x0F f 0) | .addmax f => some (eInt4 0x10 f 0)
  | .and f => some (eInt3 0x11 f) | .or f => some (eInt3 0x12 f) | .xor f => some (eInt3 0x13 f)
  | .andn f => some (eInt3 0x14 f) | .orn f => some (eInt3 0x15 f) | .andi f => some (eIntI 0x16 f)
  | .ori f => some (eIntI 0x17 f) | .xori f => some (eIntI 0x18 f) | .shl f => some (eInt3 0x19 f)
  | .shr f => some (eInt3 0x1A f) | .sar f => some (eInt3 0x1B f) | .rol f => some (eInt3 0x1C f)
  | .shli f => some (eIntI 0x1D f) | .shri f => some (eIntI 0x1E f) | .sari f => some (eIntI 0x1F f)
  | .bfx f => some (eInt3 0x20 f) | .bfi f => some (eInt4 0x21 f 0) | .popc f => some (eInt2 0x22 f)
  | .clz f => some (eInt2 0x23 f) | .ctz f => some (eInt2 0x24 f) | .brev f => some (eInt2 0x25 f)
  | .bperm f => some (ePlain4 0x26 f) | .sel f => some (ePlain4 0x27 f) | .cmp f => some (eInt4x 0x28 f)
  | .cmpi f => some (encFI 0x29 f.g f.cc f.d.enc f.a.enc f.imm) | .lea f => some (eInt4x 0x2A f)
  | .mov f => some (encFR 0x2B f.g (f.w.code ++ bit f.sg ++ 0#1 ++ bit f.rd ++ bit f.acc) f.d.enc f.a.enc 0
      (0#6 ++ f.red.code))
  | .plog f => some (encFR 0x38 f.g 0 f.d.enc f.a.enc f.b.enc (0#6 ++ f.x))
  | .vote f => some (eLvlF 0x39 f) | .ballot f => some (eLvlF 0x3A f)
  | .pset f => some (encFR 0x3B f.g (0#6 ++ f.x.extractLsb' 0 1) f.d.enc f.a.enc f.b.enc 0)
  | .fadd f => some (eFlt3 0x40 f) | .fsub f => some (eFlt3 0x41 f) | .fmul f => some (eFlt3 0x42 f)
  | .ffma f => some (eFlt4 0x43 f) | .ffms f => some (eFlt4 0x44 f) | .fnma f => some (eFlt4 0x45 f)
  | .fmin f => some (eFMinMax 0x46 f) | .fmax f => some (eFMinMax 0x47 f) | .fabs f => some (eFUn 0x48 f)
  | .fneg f => some (eFUn 0x49 f)
  | .fsign f => some (encFR 0x4A f.g (f.fmt.code ++ 0#3 ++ bit f.ftz) f.d.enc f.a.enc f.b.enc 0)
  | .fcmp f => some (encFR 0x4B f.g (f.fmt.code ++ f.cc ++ bit f.ftz) f.d.enc f.a.enc f.b.enc f.c.enc)
  | .fclass f => some (eFUn 0x4C f) | .fdiv f => some (eFlt3 0x4D f) | .fsqrt f => some (eFlt2 0x4E f)
  | .frnd f => some (eFlt2 0x4F f) | .fscale f => some (eFlt3 0x50 f) | .fgetexp f => some (eFUn 0x51 f)
  | .fgetmant f => some (eFUn 0x52 f) | .twosum f => some (eFlt4 0x53 f) | .faddmin f => some (eFlt4 0x54 f)
  | .cvtf f => some (eCvtF 0x55 f) | .cvtfi f => some (eCvtI 0x56 f) | .cvtif f => some (eCvtI 0x57 f)
  | .cvtn f => some (encFR 0x58 f.g (f.fmt.code ++ f.rm ++ bit f.ftz) f.d.enc f.a.enc f.b.enc
      (0#2 ++ f.pos ++ f.df))
  | .scaleest f => some (encFR 0x59 f.g (f.fmt.code ++ 0#3 ++ bit f.ftz) f.d.enc f.a.enc 0 (0#6 ++ f.tf))
  | .cbdec f => some (encFR 0x5A f.g (eFMod f.m) f.d.enc f.a.enc f.b.enc (0#2 ++ f.pos ++ bit f.scl ++ f.slot))
  | .pack f => some (encFR 0x5B f.g 0 f.d.enc f.a.enc f.b.enc (0#9 ++ bit f.n4))
  | .unpack f => some (eCvtF 0x5C f)
  | .exp2 f => some (eSfu 0x60 f) | .log2 f => some (eSfu 0x61 f) | .sinpi f => some (eSfu 0x62 f)
  | .cospi f => some (eSfu 0x63 f) | .tanh f => some (eSfu 0x64 f) | .sigm f => some (eSfu 0x65 f)
  | .erf f => some (eSfu 0x66 f) | .rcp f => some (eSfu 0x67 f) | .rsqrt f => some (eSfu 0x68 f)
  | .silu f => some (eSfu 0x69 f) | .rcpseed f => some (eSfu 0x6A f) | .rsqseed f => some (eSfu 0x6B f)
  | .shfl f => some (eLvlF 0x70 f) | .lshift f => some (eLvlF 0x71 f) | .scan f => some (eScanF 0x72 f)
  | .reduce f => some (eScanF 0x73 f) | .compact f => some (eLvlF 0x74 f) | .match_ f => some (eLvlF 0x75 f)
  | .elect f => some (eLvlF 0x76 f)
  | .ld f => some (eLdF 0x80 f) | .st f => some (eStF 0x81 f) | .ldp f => some (eMemP 0x82 f)
  | .stp f => some (eMemP 0x83 f)
  | .ldx f => some (encFR 0x84 f.g (f.w.code ++ 0#1 ++ f.cp ++ 0#1) f.d.enc f.a.enc 0 (0#6 ++ f.lvl))
  | .pref f => some (eStF 0x85 f)
  | .atom f => some (encFR 0x86 f.g (eW f.w64 ++ f.aop) f.d.enc f.a.enc f.b.enc f.c.enc)
  | .lr f => some (eLdF 0x87 f)
  | .sc f => some (encFR 0x88 f.g (eW f.w64 ++ 0#1 ++ f.cp ++ 0#1) f.d.enc f.a.enc f.b.enc 0)
  | .fence f => some (encFS 0x89 f.g f.lvl (0#5 ++ bit f.rel ++ bit f.acq) 0 0 0 0)
  | .cctl f => some (encFM 0x8A f.g (0#1 ++ f.x ++ 0#4) f.d.enc f.a.enc f.off)
  | .bar f => some (eLvlOnly 0xA0 f) | .bara f => some (eLvlD 0xA1 f) | .barw f => some (eLvlA 0xA2 f)
  | .mbar f => some (eLvlA 0xA3 f) | .quiesce f => some (eLvlOnly 0xA4 f)
  | .chunkend g => some (encFS 0xA5 g 0 0 0 0 0 0)
  | .lehrw f => some (encFS 0xA6 f.g f.lvl (f.k ++ f.red.code) 0 0 0 f.wm1)
  | .lehrpush f => some (encFS 0xA7 f.g f.lvl (f.k ++ 0#4) 0 f.o.enc 0 0)
  | .lehrread f => some (encFS 0xA8 f.g f.lvl (f.k ++ 0#4) f.o.enc 0 0 0)
  | .lehrclr f => some (encFS 0xA9 f.g f.lvl (f.k ++ 0#4) 0 0 0 0)
  | .worknext f => some (encFS 0xAA f.g 0 0 f.o.enc 0 0 0) | .emit f => some (encFS 0xAB f.g 0 0 0 f.o.enc 0 0)
  | .waitseq f => some (eWait 0xAC f) | .waitval f => some (eWait 0xAD f)
  | .nbrpush f => some (encFS 0xAE f.g 0 (0#3 ++ f.ch ++ f.dir) 0 f.o.enc 0 0)
  | .nbrpop f => some (encFS 0xAF f.g 0 (0#3 ++ f.ch ++ f.dir) f.o.enc 0 0 0)
  | .bra f => some (encFB 0xC0 f.g 0 0 f.off) | .bru f => some (eCtlF 0xC1 f) | .jmp f => some (eCtlF 0xC2 f)
  | .call f => some (eCtlF 0xC3 f) | .calli f => some (eCtlF 0xC4 f) | .ret f => some (eCtlF 0xC5 f)
  | .coswap f => some (encFB 0xC6 f.g 0 f.o.enc 0) | .exit g => some (encFB 0xC7 g 0 0 0)
  | .yield g => some (encFB 0xC8 g 0 0 0) | .nop g => some (encFB 0xC9 g 0 0 0) | .pcget f => some (eCtlF 0xCA f)
  | .movl f => some (eLongI 0xD0 f) | .addl f => some (eLongI 0xD1 f)
  | .pairNop a b => some (encPair ⟨.nop, a⟩ b) | .pairMov a b => some (encPair ⟨.mov, a⟩ b)
  | .pairAdd a b => some (encPair ⟨.add, a⟩ b) | .pairAddi a b => some (encPair ⟨.addi, a⟩ b)
  | .pairSub a b => some (encPair ⟨.sub, a⟩ b) | .pairAnd a b => some (encPair ⟨.and, a⟩ b)
  | .pairOr a b => some (encPair ⟨.or, a⟩ b) | .pairXor a b => some (encPair ⟨.xor, a⟩ b)
  | .pairShli a b => some (encPair ⟨.shli, a⟩ b) | .pairShri a b => some (encPair ⟨.shri, a⟩ b)
  | .pairSari a b => some (encPair ⟨.sari, a⟩ b) | .pairMin a b => some (encPair ⟨.min, a⟩ b)
  | .pairMax a b => some (encPair ⟨.max, a⟩ b) | .pairMul a b => some (encPair ⟨.mul, a⟩ b)
  | .pairFaddF32 a b => some (encPair ⟨.faddF32, a⟩ b) | .pairFmulF32 a b => some (encPair ⟨.fmulF32, a⟩ b)
  | .pairFaddF64 a b => some (encPair ⟨.faddF64, a⟩ b) | .pairFmulF64 a b => some (encPair ⟨.fmulF64, a⟩ b)
  | .pairFminF64 a b => some (encPair ⟨.fminF64, a⟩ b) | .pairFmaxF64 a b => some (encPair ⟨.fmaxF64, a⟩ b)
  | .pairFminF32 a b => some (encPair ⟨.fminF32, a⟩ b) | .pairFmaxF32 a b => some (encPair ⟨.fmaxF32, a⟩ b)
  | .pairMovi a b => some (encPair ⟨.movi, a⟩ b)
  | .mma x => some (eXc 0x00 x) | .mfmt x => some (eXc 0x01 x) | .accz x => some (eXc 0x02 x)
  | .accld x => some (eXc 0x03 x) | .accst x => some (eXc 0x04 x) | .cbload x => some (eXc 0x05 x)
  | .scload x => some (eXc 0x06 x) | .msync x => some (eXc 0x07 x) | .copy x => some (eXc 0x20 x)
  | .copymma x => some (eXc 0x21 x) | .gather x => some (eXc 0x22 x) | .scatter x => some (eXc 0x23 x)
  | .expand x => some (eXc 0x24 x) | .fill x => some (eXc 0x25 x) | .publish x => some (eXc 0x26 x)
  | .rcopy x => some (eXc 0x27 x) | .chain x => some (eXc 0x40 x) | .tail x => some (eXc 0x50 x)
  | .seq x => some (eXc 0x51 x) | .coll x => some (eXc 0x60 x) | .arm x => some (eXc 0x61 x)
  | .cntrd x => some (eXc 0x62 x) | .cntadd x => some (eXc 0x63 x) | .disarm x => some (eXc 0x64 x)
  | .trap f => some (eTrapF 0xE0 f) | .bkpt f => some (eTrapF 0xE1 f)
  | .sysrd f => some (encFI 0xE2 f.g 0 f.o.enc 0 (0#12 ++ f.idx))
  | .syswr f => some (encFI 0xE3 f.g 0 0 f.o.enc (0#12 ++ f.idx))
  | .eret g => some (encFB 0xE4 g 0 0 0)
  | .grpsel f => some (encFR 0xE5 f.g (0#6 ++ bit f.x) f.d.enc f.a.enc 0 0)
  | .grprd f => some (encFR 0xE6 f.g 0 f.x.enc f.y.enc f.z.enc 0)
  | .grpwr f => some (encFR 0xE7 f.g 0 0 f.x.enc f.y.enc f.z.enc)
  | .grpres f => some (encFR 0xE8 f.g (0#6 ++ bit f.skip) 0 0 0 0)
  | .tlbinv f => some (encFR 0xE9 f.g (0#6 ++ bit f.x) f.d.enc f.a.enc 0 0)
  | .halt f => some (encFB 0xEA f.g 0 f.o.enc 0)
  | .rendezvousComplete _ _ _ | .ldxTransferLanded _ _ _ | .barrierPhaseComplete _ _ _ _
  | .lehrOccupancyEnd _ _ _ _ _ | .mailboxFill _ _ _ | .waitReevaluation _ _ _ | .chainEntryExecute _
  | .engineCommandComplete _ | .engineDeferredFault _ | .counterChange _ _ _ | .streamRetry _ _ | .streamCancel _ _
  | .chunkTimeLimit _ | .chunkCommit _ | .phaseMerge _ _ | .blockRetire _ _ | .launchRetire _ _ | .doorbell _ _
  | .packetNop _ _ | .launchPacket _ _ | .decrPacket _ _ | .setdet _ _ | .qfence _ _ | .queueWaitRelease _ _
  | .unassignedPacket _ _ | .schedulingPass _ | .bindPlace _ _ | .bindResume _ _ | .bindPreempt _ _
  | .preemptSquashTimeout _ | .preemptComplete _ | .preemptionReserveReached _ _ | .deadlinePassed _ _
  | .translationRequestService _ | .translationAnswer _ _ | .deviceReset _ | .powerOn | .functionLevelReset
  | .firmwareWrite | .firmwareSwitch | .firmwareSlot _ | .firmwareSwitchResumed | .firmwareSwitchTimeout
  | .contextCreatedWrite _ _ | .translationAnswerWrite _ _ | .invalidationWrite _ _ | .forwardedTrapResume _ _
  | .stepListAddress _ _ | .bindRecordWrite _ _ _ | .registerWrite _ _ | .groupCreate _ _ | .groupDelete _ _
  | .portEnable _ _ | .restripeWrite _ _ | .portCounterClear _ _ | .laserEnable _ _ | .laserWarmUpDone _
  | .laserModuleFailure _ _ | .drain _ | .restore _ | .drainEnd _ | .quarantineRelease _ | .memoryLinkRetrain _
  | .thermalThrottle | .overTemperatureStop _ _ | .lossOfLight _ _ | .dataFlit _ _ | .commandHeader _ _
  | .counterUpdate _ _ | .idleFlit _ _ | .nak _ _ | .lossOfLightNotice _ _ | .training _ _ | .retrainComplete _
  | .replayTimeout _ | .nakRepeatTimeout _ | .idleAckTimer _ | .routeUnreachable _ _ | .bar2Access _ _ _
  | .laserModuleInserted _ | .memoryModuleRemoved _ | .memoryModuleInserted _ _ | .memoryLinkTrained _ => none

/-! ### Bytes (R6, R164) -/

/-- The little-endian bytes of a word, lowest address first (R6). -/
def wordBytes (w : Word) : List Byte := (List.range 8).map (fun i => w.extractLsb' (8 * i) 8)

/-- The word of eight bytes, lowest address first (R6); missing bytes count as zero. -/
def bytesWord (bs : List Byte) : Word :=
  (bs.take 8).foldr (fun b acc => (acc <<< 8) ||| b.setWidth 64) 0

/-- Why bytes are not an instruction: fewer than eight, or an illegal word. -/
inductive DecodeError where
  | short
  | illegal (e : Illegal)
deriving DecidableEq, Repr

/-- Decodes the first word of a byte sequence and returns the rest. -/
def decodeBytes (bs : List Byte) : Except DecodeError (Instr × List Byte) :=
  if bs.length < 8 then .error .short
  else match decode (bytesWord bs) with
    | .ok i => .ok (i, bs.drop 8)
    | .error e => .error (.illegal e)

/-- The instruction read from the bits of an opcode-table row: bit 0 is the least significant bit of the word, and
bits at or above `nbits` are zero. -/
def decodeTableWord (nbits w : Nat) : Option Instr :=
  match decodeBytes (wordBytes (BitVec.ofNat 64 (w % 2 ^ nbits))) with
  | .ok (i, _) => some i
  | .error _ => none

end Sys2Proof
end

