-- ==== Sys2Proof/Machine/Elem.lean ====
section
/-! DEFINITION. Elements of a register and exact integer arithmetic on them (R48, R72-R75, R171, R191). -/

namespace Sys2Proof.Machine

/-- A Boolean as a 64-bit value (R49). -/
def boolWord (b : Bool) : Word := if b then 1 else 0

/-- Bits of an element (R72). -/
def wBits : IntW → Nat
  | .w64 => 64 | .w32 => 32 | .w16x4 => 16 | .w8x8 => 8 | .w32x2 => 32

/-- Elements of a layout (R72). -/
def wCount : IntW → Nat
  | .w64 => 1 | .w32 => 1 | .w16x4 => 4 | .w8x8 => 8 | .w32x2 => 2

/-- Element `e` of width `n` (R48). -/
def elem (x : Word) (n e : Nat) : Nat := (x.toNat / 2 ^ (n * e)) % 2 ^ n

/-- The value of an `n`-bit element under `sg` (R72). -/
def readInt (n : Nat) (sg : Bool) (v : Nat) : Int := if sg && 2 ^ (n - 1) ≤ v then (v : Int) - 2 ^ n else v

/-- An integer modulo 2^n (R73). -/
def wrap (n : Nat) (t : Int) : Nat := (t % (2 ^ n : Int)).toNat

/-- The range of an element (R73). -/
def lo (n : Nat) (sg : Bool) : Int := if sg then -(2 ^ (n - 1)) else 0
def hi (n : Nat) (sg : Bool) : Int := if sg then 2 ^ (n - 1) - 1 else 2 ^ n - 1

/-- Wraps or clamps an exact result (R73, R191). -/
def narrow (n : Nat) (sg sat : Bool) (t : Int) : Nat :=
  if sat then wrap n (max (lo n sg) (min (hi n sg) t)) else wrap n t

/-- Packs elements of width `n`, element 0 in the low bits (R48). -/
def pack (n : Nat) (es : List Nat) : Word :=
  BitVec.ofNat 64 (es.foldr (fun e acc => e % 2 ^ n + 2 ^ n * acc) 0)

/-- The 64-bit register of a 32-bit result (R48). -/
def extend32 (sg : Bool) (v : Nat) : Word :=
  if sg then (BitVec.ofNat 32 v).signExtend 64 else (BitVec.ofNat 32 v).setWidth 64

/-- Assembles the elements of a result (R48, R191). -/
def assemble (w : IntW) (sg : Bool) (es : List Nat) : Word :=
  match w with
  | .w32 => extend32 sg (es.headD 0)
  | _ => pack (wBits w) es

/-- Applies an exact function element by element (R191). -/
def mapElems (m : IntMod) (f : Nat → Int) : Word :=
  assemble m.w m.sg ((List.range (wCount m.w)).map (fun e => narrow (wBits m.w) m.sg m.sat (f e)))

/-- `f` of one source, read under `sg` (R191). -/
def int1 (m : IntMod) (f : Int → Int) (a : Word) : Word :=
  mapElems m (fun e => f (readInt (wBits m.w) m.sg (elem a (wBits m.w) e)))

/-- `f` of two sources (R191). -/
def int2 (m : IntMod) (f : Int → Int → Int) (a b : Word) : Word :=
  mapElems m (fun e => f (readInt (wBits m.w) m.sg (elem a (wBits m.w) e)) (readInt (wBits m.w) m.sg (elem b (wBits m.w) e)))

/-- `f` of three sources (R191). -/
def int3 (m : IntMod) (f : Int → Int → Int → Int) (a b c : Word) : Word :=
  mapElems m (fun e => f (readInt (wBits m.w) m.sg (elem a (wBits m.w) e))
    (readInt (wBits m.w) m.sg (elem b (wBits m.w) e)) (readInt (wBits m.w) m.sg (elem c (wBits m.w) e)))

/-- The quotient of R75. -/
def quot (n : Nat) (a b : Int) : Int := if b = 0 then 2 ^ n - 1 else Int.tdiv a b

/-- The remainder of R75. -/
def rema (a b : Int) : Int := if b = 0 then a else Int.tmod a b

/-- A bitwise function of `n`-bit elements as an exact function of their values. -/
def bitsOf (n : Nat) (f : Nat → Nat → Nat) (a b : Int) : Int := (f (wrap n a) (wrap n b) : Int)

/-- The shift amount of element `e` (R74). -/
def shiftAmt (w : IntW) (b : Word) (e : Nat) : Nat :=
  match w with
  | .w64 => elem b 8 0
  | .w32 => elem b 8 0
  | w => elem b (wBits w) e % 256

/-- Shifts of an `n`-bit value (R74). -/
def shlN (n a s : Nat) : Nat := if n ≤ s then 0 else (a * 2 ^ s) % 2 ^ n
def shrN (n a s : Nat) : Nat := if n ≤ s then 0 else a / 2 ^ s
def sarN (n a s : Nat) : Nat := wrap n ((readInt n true a) / 2 ^ min s n)
def rolN (n a s : Nat) : Nat := (a * 2 ^ (s % n)) % 2 ^ n + a / 2 ^ (n - s % n)

/-- Shifts each element of `a` by the amounts of `b` (R74, R196). -/
def shiftOp (m : IntMod) (f : Nat → Nat → Nat → Nat) (a b : Word) : Word :=
  assemble m.w m.sg ((List.range (wCount m.w)).map (fun e =>
    f (wBits m.w) (elem a (wBits m.w) e) (shiftAmt m.w b e)))

/-- A function of each element's bits (R199). -/
def bitOp (m : IntMod) (f : Nat → Nat → Nat) (a : Word) : Word :=
  assemble m.w m.sg ((List.range (wCount m.w)).map (fun e => f (wBits m.w) (elem a (wBits m.w) e)))

/-- One bits among the low `n` (R199). -/
def popN (n a : Nat) : Nat := ((List.range n).filter (fun i => a.testBit i)).length

/-- Leading zero bits of an `n`-bit value (R199). -/
def clzN (n a : Nat) : Nat := if a = 0 then n else n - 1 - Nat.log2 a

/-- Trailing zero bits of an `n`-bit value (R199). -/
def ctzN (n a : Nat) : Nat := ((List.range n).find? (fun i => a.testBit i)).getD n

/-- Bits in reverse order (R199). -/
def brevN (n a : Nat) : Nat := ((List.range n).map (fun i => if a.testBit i then 2 ^ (n - 1 - i) else 0)).sum

/-- The field control of BFX and BFI: position and length within `n` bits (R198). -/
def fieldCtl (n : Nat) (b : Word) : Nat × Nat := (elem b 8 0, min (elem b 8 1) (n - elem b 8 0))

/-- BFX in `n` bits (R198). -/
def bfxN (n : Nat) (sg : Bool) (a : Nat) (ctl : Word) : Nat :=
  let (pos, len) := fieldCtl n ctl
  if n ≤ pos || len = 0 then 0 else wrap n (readInt len sg ((a / 2 ^ pos) % 2 ^ len))

/-- BFI in `n` bits (R198). -/
def bfiN (n a b : Nat) (ctl : Word) : Nat :=
  let (pos, len) := fieldCtl n ctl
  if n ≤ pos || len = 0 then a
  else a - ((a / 2 ^ pos) % 2 ^ len) * 2 ^ pos + (b % 2 ^ len) * 2 ^ pos

/-- BPERM: bytes of the 16-byte pool selected by nibbles (R200). -/
def bpermW (a b c : Word) : Word :=
  pack 8 ((List.range 8).map (fun i =>
    let k := elem c 4 i
    if k < 8 then elem a 8 k else elem b 8 (k - 8)))

end Sys2Proof.Machine
end

