-- ==== Sys2Proof/Config.lean ====
section
/-! DEFINITION. What the manual leaves open: each constant here is opaque, so no proof can use a value of it. -/

namespace Sys2Proof.Config

/-- Which of the enabled moves of the device's agents comes next when the agenda is empty (R20, R31, R60; log 1). -/
opaque freePick : Nat → Nat

/-- The hash of a line address in a chunk signature (R135; log 5). -/
opaque lineHash : Nat → Nat

/-- The special-function unit's result, before the limits of R102 to R104 are applied: function number, layout code,
operand element (R102, R103; log 6). -/
opaque sfu : Nat → Nat → Word → Word

/-- The seed tables of RCPSEED and RSQSEED, before the error bound is applied (R105; log 7). -/
opaque seed : Nat → Nat → Word → Word

/-- The gather-table entry number of a group, from the free-value counter (R346; log 8). -/
opaque freeEntry : Nat → BitVec 9

/-- Whether a staged firmware image passes its CRC-32 check (R425; log 9). -/
opaque firmwareCrcOk : Nat → Bool

/-- The parent of a rank in the tree of first-listed routes towards a root, of a group handle (R407; log 41). -/
opaque routeParent : Nat → Nat → Nat → Nat

/-- What a write to a context's save area puts there, by the free-value counter: first offset and bytes (R158, R389, R391; log 52). -/
opaque saveImage : Nat → Nat × List (BitVec 8)

/-- The cores that fail self-test in a boot, by the free-value counter (R424; log 93). -/
opaque selfTest : Nat → List Nat

/-- A value that the manual does not state, from the free-value counter (log 4). -/
opaque freeWord : Nat → Word

end Sys2Proof.Config
end

