-- ==== Sys2Proof/Machine/Flags.lean ====
section
/-! DEFINITION. Conditions, carries and exception flags: the conditions of CMP, CMPI and WAITVAL (R202, R203, R271), the
carry and borrow of ADDC and SUBB (R194), and the IEEE flags of `s.fflags` (R70, R86). -/

namespace Sys2Proof.Machine

/-- The flags of `s.fflags` (R70). -/
abbrev FFlags := BitVec 5

def fNone : FFlags := 0
def fNv : FFlags := 16
def fDz : FFlags := 8
def fOf : FFlags := 4
def fUf : FFlags := 2
def fNx : FFlags := 1

/-- The condition of CMP on two elements (R202): values under `sg` and bits. -/
def cmpCond (cc : BitVec 3) (a b : Int) (x y : Nat) : Bool :=
  match cc.toNat with
  | 0 => x == y
  | 1 => x != y
  | 2 => a < b
  | 3 => a ≤ b
  | 4 => b < a
  | 5 => b ≤ a
  | 6 => (x &&& y) != 0
  | _ => (x &&& y) == 0

/-- The condition of CMPI (R203). -/
def cmpiCond (cc : BitVec 3) (a b : Word) : Bool :=
  match cc.toNat with
  | 0 => a == b
  | 1 => a != b
  | 2 => a.toInt < b.toInt
  | 3 => b.toInt ≤ a.toInt
  | 4 => a.toNat < b.toNat
  | 5 => b.toNat ≤ a.toNat
  | 6 => (a &&& b) != 0
  | _ => (a &&& b) == 0

/-- The condition of WAITVAL (R271). -/
def waitCond (cc : BitVec 3) (m b : Word) : Bool :=
  match cc.toNat with
  | 0 => m == b
  | 1 => m != b
  | 2 => b.toNat ≤ m.toNat
  | 3 => m.toNat < b.toNat
  | 4 => b.toInt ≤ m.toInt
  | 5 => m.toInt < b.toInt
  | 6 => (m &&& b) != 0
  | _ => (m &&& b) == 0

/-- The elements of `a` and `b` that satisfy CMP's condition (R202). -/
def cmpElems (w : IntW) (sg : Bool) (cc : BitVec 3) (a b : Word) : List Bool :=
  (List.range (wCount w)).map (fun e =>
    let x := elem a (wBits w) e
    let y := elem b (wBits w) e
    cmpCond cc (readInt (wBits w) sg x) (readInt (wBits w) sg y) x y)

/-- The result of a comparison in a destination: one truth value in a predicate, a mask per element elsewhere (R202,
R203, R226). -/
def cmpResult (d : Operand) (w : IntW) (sg c : Bool) (es : List Bool) : Word :=
  match d with
  | .pred _ => boolWord (c && es.all (fun x => x))
  | _ => assemble w sg (es.map (fun x => if c && x then 2 ^ wBits w - 1 else 0))

/-- The sum of ADDC and its carry (R194). -/
def addCarry (n a b k : Nat) : Nat × Bool := ((a + b + k) % 2 ^ n, 2 ^ n ≤ a + b + k)

/-- The difference of SUBB and its borrow (R194). -/
def subBorrow (n a b k : Nat) : Nat × Bool := (wrap n ((a : Int) - b - k), a < b + k)

end Sys2Proof.Machine
end

