-- ==== Sys2Proof/Machine/Float.lean ====
section
/-! DEFINITION. Floating-point formats and correctly rounded arithmetic on exact values (R76-R89). -/

namespace Sys2Proof.Machine

/-! ### Formats (R76, R77) -/

/-- What the top encodings of a format mean (R77). -/
inductive Special where
  | ieee | oneNan | none
deriving DecidableEq, Repr

/-- A format: exponent bits, trailing significand bits, bias, special encodings (R76). -/
structure FF where
  eb   : Nat
  mb   : Nat
  bias : Nat
  spec : Special
deriving DecidableEq, Repr

def FF.f64 : FF := ⟨11, 52, 1023, .ieee⟩
def FF.f32 : FF := ⟨8, 23, 127, .ieee⟩
def FF.f16 : FF := ⟨5, 10, 15, .ieee⟩
def FF.bf16 : FF := ⟨8, 7, 127, .ieee⟩
def FF.e5m2 : FF := ⟨5, 2, 15, .ieee⟩
def FF.e4m3 : FF := ⟨4, 3, 7, .oneNan⟩
def FF.e3m2 : FF := ⟨3, 2, 3, .none⟩
def FF.e2m3 : FF := ⟨2, 3, 1, .none⟩
def FF.e2m1 : FF := ⟨2, 1, 1, .none⟩

/-- Bits of an encoding. -/
def FF.bits (f : FF) : Nat := 1 + f.eb + f.mb

/-- The encoding of +∞ where the format has one (R77). -/
def FF.inf (f : FF) : Nat := (2 ^ f.eb - 1) * 2 ^ f.mb

/-- The canonical NaN (R77). -/
def FF.nan (f : FF) : Nat := f.inf + 2 ^ (f.mb - 1)

/-- The largest finite magnitude (R77). -/
def FF.maxFin (f : FF) : Nat :=
  match f.spec with
  | .ieee => f.inf - 1
  | .oneNan => 2 ^ (f.eb + f.mb) - 2
  | .none => 2 ^ (f.eb + f.mb) - 1

/-- The sign bit's weight. -/
def FF.signBit (f : FF) (neg : Bool) : Nat := if neg then 2 ^ (f.eb + f.mb) else 0

/-- A value: NaN, infinity, or (-1)^neg · m · 2^e. -/
inductive Fv where
  | nan (neg sig : Bool)
  | inf (neg : Bool)
  | fin (neg : Bool) (m : Nat) (e : Int)
deriving DecidableEq, Repr

/-- Reads an encoding (R76, R79). -/
def FF.read (f : FF) (x : Nat) : Fv :=
  let neg := x.testBit (f.eb + f.mb)
  let ex := (x / 2 ^ f.mb) % 2 ^ f.eb
  let m := x % 2 ^ f.mb
  if f.spec == .ieee && ex = 2 ^ f.eb - 1 then
    if m = 0 then .inf neg else .nan neg (!m.testBit (f.mb - 1))
  else if f.spec == .oneNan && x % 2 ^ (f.eb + f.mb) = 2 ^ (f.eb + f.mb) - 1 then .nan neg false
  else if ex = 0 then .fin neg m (1 - f.bias - f.mb)
  else .fin neg (2 ^ f.mb + m) (ex - f.bias - f.mb)

/-- The encoding is a non-zero subnormal. -/
def FF.subnormal (f : FF) (x : Nat) : Bool := (x / 2 ^ f.mb) % 2 ^ f.eb = 0 && x % 2 ^ f.mb ≠ 0

/-- Reads an operand: under `ftz` a subnormal is a zero of its sign (R83). -/
def FF.input (f : FF) (ftz : Bool) (x : Nat) : Fv :=
  if ftz && f.subnormal x then .fin (x.testBit (f.eb + f.mb)) 0 0 else f.read x

def Fv.neg : Fv → Bool
  | .nan n _ => n | .inf n => n | .fin n _ _ => n
def Fv.isNan : Fv → Bool
  | .nan _ _ => true | _ => false
def Fv.isSig : Fv → Bool
  | .nan _ s => s | _ => false
def Fv.isZero : Fv → Bool
  | .fin _ m _ => m == 0 | _ => false
def Fv.negate : Fv → Fv
  | .nan n s => .nan (!n) s | .inf n => .inf (!n) | .fin n m e => .fin (!n) m e

/-! ### Rounding (R80-R83) -/

/-- The rounding mode in force: `dyn` takes `s.frm`, whose codes 5 to 7 round as rne (R80). -/
def rmInForce (rm : RM) (frm : BitVec 3) : RM :=
  match rm with
  | .dyn => if frm.toNat ≤ 4 then RM.ofCode frm else .rne
  | r => r

/-- Cuts m · 2^e (plus less than 2^e more when `st`) at weight 2^q: the multiple below, and what is left over: 0 nothing,
1 less than half, 2 half, 3 more than half. -/
def cut (m : Nat) (e q : Int) (st : Bool) : Nat × Nat :=
  if q ≤ e then (m * 2 ^ (e - q).toNat, if st then 1 else 0)
  else
    let d := (q - e).toNat
    let r := m % 2 ^ d
    let h := 2 ^ (d - 1)
    (m / 2 ^ d, if r = 0 && !st then 0 else if r < h then 1 else if r = h && !st then 2 else 3)

/-- The next multiple is delivered (R80). -/
def roundsUp (rm : RM) (neg : Bool) (n c : Nat) : Bool :=
  match rm with
  | .rne => c = 3 || (c = 2 && n % 2 = 1)
  | .rtz => false
  | .rdn => neg && c ≠ 0
  | .rup => !neg && c ≠ 0
  | .rna => 2 ≤ c
  | .dyn => c = 3 || (c = 2 && n % 2 = 1)

/-- The rounded multiple of 2^q. -/
def roundAt (rm : RM) (neg : Bool) (m : Nat) (e q : Int) (st : Bool) : Nat × Bool :=
  let p := cut m e q st
  (p.1 + (if roundsUp rm neg p.1 p.2 then 1 else 0), p.2 ≠ 0)

/-- A result encoding with its flags. -/
abbrev Res := Nat × FFlags

/-- Overflow delivers infinity or the largest finite value (R82). -/
def FF.overflow (f : FF) (rm : RM) (neg : Bool) : Res :=
  let toInf := match rm with
    | .rtz => false
    | .rdn => neg
    | .rup => !neg
    | _ => true
  (f.signBit neg + (if toInf then f.inf else f.maxFin), fOf ||| fNx)

/-- Rounds (-1)^neg · m · 2^e to the format (R81-R83); `st` says that the exact magnitude is larger by less than 2^e, and
then m has at least two bits more than the format keeps. Tininess is detected after rounding. -/
def FF.round (f : FF) (rm : RM) (ftz neg : Bool) (m : Nat) (e : Int) (st : Bool) : Res :=
  if m = 0 then (f.signBit neg, fNone)
  else
    let emin : Int := 1 - f.bias
    let qmin := emin - f.mb
    let top : Int := Nat.log2 m + e
    let r := roundAt rm neg m e (max (top - f.mb) qmin) st
    let x := (max (top - f.mb) qmin - qmin).toNat * 2 ^ f.mb + r.1
    let u := roundAt rm neg m e (top - f.mb) st
    let tiny := top < emin && !(top + 1 == emin && u.1 == 2 ^ (f.mb + 1))
    if f.inf ≤ x then f.overflow rm neg
    else if ftz && x < 2 ^ f.mb && x ≠ 0 then (f.signBit neg, fUf ||| fNx)
    else (f.signBit neg + x, if r.2 then (if tiny then fUf ||| fNx else fNx) else fNone)

/-- The canonical NaN with `nv` (R84). -/
def FF.invalid (f : FF) : Res := (f.nan, fNv)

/-- The result when an operand is a NaN (R84). -/
def FF.nanOf (f : FF) (sig : Bool) : Res := (f.nan, if sig then fNv else fNone)

/-- An infinity. -/
def FF.infRes (f : FF) (neg : Bool) : Res := (f.signBit neg + f.inf, fNone)

/-! ### Arithmetic (R81, R84, R223) -/

/-- The signed integer of a finite value at weight 2^q, q at most its own. -/
def scaled (neg : Bool) (m : Nat) (e q : Int) : Int :=
  let v : Int := m * 2 ^ (e - q).toNat
  if neg then -v else v

/-- The rounded sum of two finite values; an exact zero from opposite signs is -0 only under rdn (R223). -/
def FF.addFin (f : FF) (rm : RM) (ftz : Bool) (n1 : Bool) (m1 : Nat) (e1 : Int) (n2 : Bool) (m2 : Nat) (e2 : Int) : Res :=
  let q := min e1 e2
  let t := scaled n1 m1 e1 q + scaled n2 m2 e2 q
  if t = 0 then (f.signBit (if n1 == n2 then n1 else rm == .rdn), fNone)
  else f.round rm ftz (t < 0) t.natAbs q false

/-- a + b (R223). -/
def FF.add (f : FF) (rm : RM) (ftz : Bool) (a b : Fv) : Res :=
  match a, b with
  | .fin n1 m1 e1, .fin n2 m2 e2 => f.addFin rm ftz n1 m1 e1 n2 m2 e2
  | .inf n1, .inf n2 => if n1 == n2 then f.infRes n1 else f.invalid
  | .inf n, .fin _ _ _ => f.infRes n
  | .fin _ _ _, .inf n => f.infRes n
  | a, b => f.nanOf (a.isSig || b.isSig)

/-- a × b (R223). -/
def FF.mul (f : FF) (rm : RM) (ftz : Bool) (a b : Fv) : Res :=
  match a, b with
  | .fin n1 m1 e1, .fin n2 m2 e2 => f.round rm ftz (n1 != n2) (m1 * m2) (e1 + e2) false
  | .inf n1, .inf n2 => f.infRes (n1 != n2)
  | .inf n1, .fin n2 m _ => if m = 0 then f.invalid else f.infRes (n1 != n2)
  | .fin n1 m _, .inf n2 => if m = 0 then f.invalid else f.infRes (n1 != n2)
  | a, b => f.nanOf (a.isSig || b.isSig)

/-- a × b + c, rounded once; 0 × ∞ is invalid whatever c holds (R84, R223). -/
def FF.fma (f : FF) (rm : RM) (ftz : Bool) (a b c : Fv) : Res :=
  let sig := a.isSig || b.isSig || c.isSig
  let prod (neg : Bool) : Res := match c with
    | .nan _ _ => f.nanOf sig
    | .inf n => if n == neg then f.infRes n else f.invalid
    | .fin _ _ _ => f.infRes neg
  match a, b with
  | .fin n1 m1 e1, .fin n2 m2 e2 =>
    match c with
    | .fin n3 m3 e3 => f.addFin rm ftz (n1 != n2) (m1 * m2) (e1 + e2) n3 m3 e3
    | .inf n => f.infRes n
    | .nan _ _ => f.nanOf sig
  | .inf n1, .inf n2 => prod (n1 != n2)
  | .inf n1, .fin n2 m _ => if m = 0 then f.invalid else prod (n1 != n2)
  | .fin n1 m _, .inf n2 => if m = 0 then f.invalid else prod (n1 != n2)
  | _, _ => f.nanOf sig

/-- a / b (R84, R223). -/
def FF.div (f : FF) (rm : RM) (ftz : Bool) (a b : Fv) : Res :=
  match a, b with
  | .fin n1 m1 e1, .fin n2 m2 e2 =>
    if m2 = 0 then (if m1 = 0 then f.invalid else (f.signBit (n1 != n2) + f.inf, fDz))
    else
      let k := f.mb + 4 + Nat.log2 m2 - Nat.log2 m1
      f.round rm ftz (n1 != n2) (m1 * 2 ^ k / m2) (e1 - e2 - k) ((m1 * 2 ^ k) % m2 ≠ 0)
  | .inf _, .inf _ => f.invalid
  | .inf n1, .fin n2 _ _ => f.infRes (n1 != n2)
  | .fin n1 _ _, .inf n2 => (f.signBit (n1 != n2), fNone)
  | a, b => f.nanOf (a.isSig || b.isSig)

/-- The integer square root of a number below 4^k. -/
def isqrt (k n : Nat) : Nat :=
  (List.range k).reverse.foldl (fun r i => if (r + 2 ^ i) * (r + 2 ^ i) ≤ n then r + 2 ^ i else r) 0

/-- √a; √(-0) = -0 (R84, R223). -/
def FF.sqrt (f : FF) (rm : RM) (ftz : Bool) (a : Fv) : Res :=
  match a with
  | .fin n m e =>
    if m = 0 then (f.signBit n, fNone)
    else if n then f.invalid
    else
      let k := 2 * (f.mb + 4) + (if e % 2 = 0 then 0 else 1)
      let x := m * 2 ^ k
      let r := isqrt (Nat.log2 x / 2 + 1) x
      f.round rm ftz false r ((e - k) / 2) (r * r ≠ x)
  | .inf n => if n then f.invalid else f.infRes false
  | .nan _ s => f.nanOf s

/-- FRND (R223). -/
def FF.rint (f : FF) (rm : RM) (ftz : Bool) (a : Fv) : Res :=
  match a with
  | .fin n m e =>
    let r := roundAt rm n m e 0 false
    if 0 ≤ e then f.round rm ftz n m e false
    else ((f.round rm ftz n r.1 0 false).1, if r.2 then fNx else fNone)
  | .inf n => f.infRes n
  | .nan _ s => f.nanOf s

/-- FSCALE: a · 2^k; beyond 2^14 either way the result no longer depends on k (R223). -/
def FF.scale (f : FF) (rm : RM) (ftz : Bool) (a : Fv) (k : Int) : Res :=
  match a with
  | .fin n m e => f.round rm ftz n m (e + max (-16384) (min 16384 k)) false
  | .inf n => f.infRes n
  | .nan _ s => f.nanOf s

/-- The encoding of an exactly representable integer. -/
def FF.ofInt (f : FF) (k : Int) : Nat := (f.round .rne false (k < 0) k.natAbs 0 false).1

/-- FGETEXP (R223). -/
def FF.getexp (f : FF) (a : Fv) : Res :=
  match a with
  | .fin _ m e => if m = 0 then (f.signBit true + f.inf, fDz) else (f.ofInt (Nat.log2 m + e), fNone)
  | .inf _ => f.infRes false
  | .nan _ s => f.nanOf s

/-- FGETMANT (R223). -/
def FF.getmant (f : FF) (a : Fv) : Res :=
  match a with
  | .fin n m _ => if m = 0 then (f.signBit n, fNone) else (f.round .rne false n m (-(Nat.log2 m : Int)) false)
  | .inf _ => f.invalid
  | .nan _ s => f.nanOf s

/-! ### Selection and comparison (R85, R224-R227) -/

/-- Orders two values that are no NaN, -0 equal to +0. -/
def Fv.cmp (a b : Fv) : Ordering :=
  match a, b with
  | .fin n1 m1 e1, .fin n2 m2 e2 => compare (scaled n1 m1 e1 (min e1 e2)) (scaled n2 m2 e2 (min e1 e2))
  | .inf n1, .inf n2 => if n1 == n2 then .eq else if n1 then .lt else .gt
  | .inf n1, _ => if n1 then .lt else .gt
  | _, .inf n2 => if n2 then .gt else .lt
  | _, _ => .eq

/-- The first is the smaller, -0 below +0 (R85). -/
def Fv.below (a b : Fv) : Bool :=
  match a.cmp b with
  | .lt => true
  | .gt => false
  | .eq => a.neg || !b.neg

/-- The encoding of an operand after the `ftz` step (R224). -/
def FF.flushed (f : FF) (ftz : Bool) (x : Nat) : Nat :=
  if ftz && f.subnormal x then f.signBit (x.testBit (f.eb + f.mb)) else x

/-- FMIN and FMAX on encodings (R85, R224). -/
def FF.minmax (f : FF) (isMax ftz num : Bool) (x y : Nat) : Res :=
  let a := f.input ftz x
  let b := f.input ftz y
  let fl := if a.isSig || b.isSig then fNv else fNone
  if a.isNan || b.isNan then
    if num && !(a.isNan && b.isNan) then (if a.isNan then f.flushed ftz y else f.flushed ftz x, fl) else (f.nan, fl)
  else (if a.below b != isMax then f.flushed ftz x else f.flushed ftz y, fl)

/-- FCMP's condition and flags (R226). -/
def fcmpCond (cc : BitVec 3) (a b : Fv) : Bool × FFlags :=
  let un := a.isNan || b.isNan
  let sig := a.isSig || b.isSig
  let o := a.cmp b
  let r := match cc.toNat with
    | 0 => !un && o == .eq
    | 1 => un || o != .eq
    | 2 => !un && o == .lt
    | 3 => !un && o != .gt
    | 4 => !un && o == .gt
    | 5 => !un && o != .lt
    | 6 => un
    | _ => !un
  (r, if (if 2 ≤ cc.toNat && cc.toNat ≤ 5 then un else sig) then fNv else fNone)

/-- FCLASS (R227). -/
def FF.cls (f : FF) (ftz : Bool) (x : Nat) : Nat :=
  match f.input ftz x with
  | .inf n => if n then 1 else 128
  | .nan _ s => if s then 256 else 512
  | .fin n m _ =>
    if m = 0 then (if n then 8 else 16)
    else if f.subnormal x then (if n then 4 else 32)
    else if n then 2 else 64

/-- FABS, FNEG and FSIGN: the sign bit alone, NaN made canonical (R225). -/
def FF.sign (f : FF) (ftz : Bool) (x : Nat) (neg : Bool) : Res :=
  match f.read x with
  | .nan _ s => f.nanOf s
  | _ => (f.signBit neg + (f.flushed ftz x) % 2 ^ (f.eb + f.mb), fNone)

/-- TWOSUM: the rounded sum and its error (R228). -/
def FF.twosum (f : FF) (rm : RM) (ftz : Bool) (a b : Fv) : Nat × Nat × FFlags :=
  let s := f.add rm ftz a b
  match a, b, f.read s.1 with
  | .fin n1 m1 e1, .fin n2 m2 e2, .fin n3 m3 e3 =>
    let q := min (min e1 e2) e3
    let t := scaled n1 m1 e1 q + scaled n2 m2 e2 q - scaled n3 m3 e3 q
    let r := f.round .rne ftz (t < 0) t.natAbs q false
    (s.1, r.1, s.2 ||| r.2)
  | _, _, _ => (s.1, 0, s.2)

/-! ### Conversions (R87-R89) -/

/-- A value to a float format; a signalling NaN sets `nv` (R87). -/
def FF.convert (f : FF) (rm : RM) (ftz : Bool) (a : Fv) : Res :=
  match a with
  | .fin n m e => f.round rm ftz n m e false
  | .inf n => f.infRes n
  | .nan _ s => f.nanOf s

/-- A value to an integer of `n` bits (R88). -/
def toInteger (n : Nat) (sg : Bool) (rm : RM) (a : Fv) : Res :=
  match a with
  | .nan _ _ => (0, fNv)
  | .inf neg => (wrap n (if neg then lo n sg else hi n sg), fNv)
  | .fin neg m e =>
    let r := roundAt rm neg m e 0 false
    let v : Int := if neg then -(r.1 : Int) else r.1
    if hi n sg < v then (wrap n (hi n sg), fNv)
    else if v < lo n sg then (wrap n (lo n sg), fNv)
    else (wrap n v, if r.2 then fNx else fNone)

/-- An integer to a float format (R89). -/
def FF.fromInt (f : FF) (rm : RM) (ftz : Bool) (k : Int) : Res := f.round rm ftz (k < 0) k.natAbs 0 false

/-! ### Layouts (R221) -/

/-- The element format of a layout. -/
def ffOf : FFmt → FF
  | .f64 => .f64 | .f32 => .f32 | .f32x2 => .f32 | .f16x4 => .f16 | .bf16x4 => .bf16

/-- A constant as an operand of a floating-point operation: its value in every element (R171). -/
def fltConst (fmt : FFmt) (k : BitVec 6) : Word := pack (ffOf fmt).bits (List.replicate fmt.ne ((ffOf fmt).ofInt k.toInt))

end Sys2Proof.Machine
end

