-- ==== Sys2Proof/Machine/Atomic.lean ====
section
/-! DEFINITION. The operations of ATOM on one memory unit (R149, R257). -/

namespace Sys2Proof.Machine

/-- `M[A] op x` on units of `n` bits; `cmp` is the comparand of `cas` (R257). -/
def atomApply (aop n : Nat) (m x cmp : Nat) : Nat :=
  let f := if n = 64 then FF.f64 else FF.f32
  match aop with
  | 0 => (m + x) % 2 ^ n
  | 1 => m &&& x
  | 2 => m ||| x
  | 3 => m ^^^ x
  | 4 => if readInt n true x < readInt n true m then x else m
  | 5 => if readInt n true m < readInt n true x then x else m
  | 6 => min m x
  | 7 => max m x
  | 8 => x
  | 9 => if m = cmp then x else m
  | 10 => (f.add .rne false (f.read m) (f.read x)).1
  | 11 => (f.minmax false false false m x).1
  | _ => (f.minmax true false false m x).1

/-- The operands of several threads on one address, in ascending logical thread id, combined into the stored value and
each thread's reply (R149). Exchange and compare-and-swap apply their operands one at a time. -/
def atomAll (aop n old : Nat) (xs : List (Nat × Nat)) : Nat × List Nat :=
  let pre := xs.foldl (fun (acc : Nat × List Nat) x => (atomApply aop n acc.1 x.1 x.2, acc.2 ++ [acc.1])) (old, [])
  if aop = 8 || aop = 9 then pre
  else match xs with
    | [] => pre
    | x :: rest =>
      (atomApply aop n old (rest.foldl (fun c y => atomApply aop n c y.1 y.2) x.1) x.2, pre.2)

end Sys2Proof.Machine
end

