-- ==== Sys2Proof/Machine/Tab.lean ====
section
/-! DEFINITION. Sparse tables: lists of (key, value) in ascending key order with no key twice. A key that is not
listed reads as the table's default, and a value equal to the default is not listed, so equal tables are equal lists. -/

namespace Sys2Proof.Machine

/-- A sparse table. -/
abbrev Tab (α : Type) := List (Nat × α)

/-- The entry of key `k`, if listed. -/
def Tab.find? {α : Type} (t : Tab α) (k : Nat) : Option α :=
  match t with
  | [] => none
  | (k', v) :: t => if k' = k then some v else Tab.find? t k

/-- The value at key `k`, `d` when it is not listed. -/
def Tab.get {α : Type} (d : α) (t : Tab α) (k : Nat) : α := (Tab.find? t k).getD d

/-- Removes key `k`. -/
def Tab.del {α : Type} (t : Tab α) (k : Nat) : Tab α :=
  match t with
  | [] => []
  | (k', v) :: t => if k' = k then Tab.del t k else (k', v) :: Tab.del t k

/-- Places an entry before the first larger key. -/
def Tab.ins {α : Type} (t : Tab α) (k : Nat) (v : α) : Tab α :=
  match t with
  | [] => [(k, v)]
  | (k', v') :: t => if k < k' then (k, v) :: (k', v') :: t else (k', v') :: Tab.ins t k v

/-- Lists `v` at key `k`. -/
def Tab.put {α : Type} (t : Tab α) (k : Nat) (v : α) : Tab α := Tab.ins (Tab.del t k) k v

/-- Sets key `k` to `v` in a table with default `d`. -/
def Tab.set {α : Type} [DecidableEq α] (d : α) (t : Tab α) (k : Nat) (v : α) : Tab α :=
  if v = d then Tab.del t k else Tab.put t k v

/-- The keys rise strictly. -/
def Tab.sorted {α : Type} (t : Tab α) : Bool :=
  match t with
  | [] => true
  | [_] => true
  | (k, _) :: (k', v') :: t => decide (k < k') && Tab.sorted ((k', v') :: t)

/-- The canonical form of a table with default `d`. -/
def Tab.wf {α : Type} [DecidableEq α] (d : α) (t : Tab α) : Bool := Tab.sorted t && t.all (fun e => decide (e.2 ≠ d))

/-- The values of a table. -/
def Tab.vals {α : Type} (t : Tab α) : List α := t.map (fun e => e.2)

/-- Changes every value. -/
def Tab.mapV {α : Type} (t : Tab α) (f : Nat → α → α) : Tab α := t.map (fun e => (e.1, f e.1 e.2))

/-- The pointwise maximum of two vector clocks (R162). -/
def Tab.join (a b : Tab Nat) : Tab Nat := b.foldl (fun t e => Tab.set 0 t e.1 (max (Tab.get 0 t e.1) e.2)) a

end Sys2Proof.Machine
end

