-- ==== Sys2Proof/Machine/State.lean ====
section
/-! DEFINITION. The state of the device as plain data, its reset value, and the reasons a step can stop. Fields marked
"model's own" are no part of the machine: they say which agent acts next and feed the free values. -/

namespace Sys2Proof.Machine

/-- Memory: (key, byte) pairs, keys rising, no byte 0 listed. A key below 2^56 is a physical address; key 2^56 + o is
byte o of the scratch aperture (R106, R110). An unlisted byte is 0: for scratch by R423, for main memory log 2. -/
abbrev Memory := List Host.Cell

/-- Bytes written but not yet part of memory: (key, byte), keys rising. -/
abbrev Overlay := List Host.Cell

/-! ### Launches and trees -/

/-- One level of a launch's tree above level 0 (R13). -/
structure Level where
  bind    : Domain
  fanout  : Nat
  regs    : Nat
  lehr    : Nat
  scratch : Nat
deriving DecidableEq, Repr

/-- A launch's tree (R9, R12): `levels` holds levels 1 to `depth` - 1. -/
structure Tree where
  depth   : Nat
  lanes   : Nat
  persist : Nat
  group   : Nat
  levels  : List Level
deriving DecidableEq, Repr

/-- A barrier object (R260). `who` lists the threads arrived in the current phase, `sweep` the snapshots of a quiesce
phase (R266), `mergeAt` the EXACT phase that must have merged (R261), `clkIn` and `clkOut` the order-stamp clocks of arrivals and
of the last completion (R162). -/
structure Bar where
  count   : BitVec 32
  arrived : Nat
  kind    : Nat
  mask    : Word
  pending : Nat
  who     : List Nat
  sweep   : Option (List (Nat × Nat))
  mergeAt : Nat
  clkIn   : Tab Nat
  clkOut  : Tab Nat
deriving DecidableEq, Repr

/-- A new barrier object: every field zero (R260). -/
def Bar.new : Bar := ⟨0, 0, 0, 0, 0, [], none, 0, [], []⟩

/-- A node of a level bound above CORE: its first core, its home-slice allocation and its barrier object (R17, R260);
`cluster` and `die` are the instance chosen (R24). -/
structure Node where
  core : Nat
  base : Nat
  size : Nat
  bar  : Bar
deriving DecidableEq, Repr

/-- A dequeued launch, or a formed instance of a template (R360-R367). Numbers are those of the record. `workReq` lists its
requests for work by core, slot, mailbox and block (R40); `dev` is the rank of this device in the launch's REACH group
when it was dequeued (R69), and `old` holds, of COMMITTED memory that others have written since an EXACT
launch's phase began, the content at its beginning (R141). Of a template, `appended` and `formed` count the records in its input
queue and its instances since its dequeue, and `pre` the records appended since it ended (R367). -/
structure Launch where
  rec_      : Nat
  ctx       : Nat
  queue     : Nat
  seqNo     : Nat
  tree      : Tree
  entry     : Word
  arg       : Word
  seed      : Word
  dev       : Nat
  det       : Nat
  fairThr   : Nat
  fairWin   : Nat
  race      : Bool
  cls       : Nat
  budget    : Nat
  reserve   : Nat
  depsAddr  : Nat
  nDeps     : Nat
  vec       : Nat
  raises    : Bool
  doneWord  : Nat
  succ      : Option Nat
  thresh    : Nat
  template  : Bool
  inBase    : Nat
  inLog     : Nat
  instBase  : Nat
  parent    : Option Nat
  instance_ : Nat
  status    : Nat
  readyAt   : Nat
  readySeq  : Nat
  next      : Nat
  withdrawn : List Nat
  workNext  : Nat
  workReq   : List (Nat × Nat × Nat × Nat)
  retired   : Nat
  failed    : Bool
  lateMark  : Bool
  nodes     : Tab Node
  phase     : Nat
  old       : Overlay
  pubs      : List (Nat × Overlay)
  instDone  : List Nat
  producer  : Option Nat
  prodDone  : Bool
  noForm    : Bool
  appended  : Nat
  formed    : Nat
  pre       : Nat
deriving DecidableEq, Repr

/-! ### Threads and blocks -/

/-- A clock that a release published: the releasing thread, its level, and the clock (R147, R162). -/
structure RelMark where
  launch : Nat
  lin    : Nat
  ltid   : Nat
  lvl    : Nat
  clk    : Tab Nat
deriving DecidableEq, Repr

/-- Why a thread does not issue. -/
inductive Wait where
  /-- It runs. -/
  | run
  /-- Parked at a rendezvous, active or not, with its operands (R32, R243). -/
  | parked (i : Instr) (active : Bool) (a b : Word)
  /-- Arrived at a barrier of the level and waiting for the phase to complete (R261, R264). -/
  | barrier (lvl : Nat)
  /-- At an arriving instruction while its own earlier arrival stands (R261). -/
  | barAgain (lvl : Nat)
  /-- At BARW, waiting for the count to move (R264). -/
  | barw (lvl : Nat) (token : BitVec 32)
  /-- At WAITSEQ or WAITVAL, condition not yet met, with its address and operand b as read when it issued (R271, R336). -/
  | mem (i : Instr) (a b : Word)
  /-- At NBRPOP with an empty queue (R272). -/
  | nbr (dir ch : Nat)
  /-- At a phase point (R140). -/
  | phase
  /-- At QUIESCE of a LANE-bound level, waiting for its released writes (R266). -/
  | drain (count : Nat)
  /-- Waiting for translation answers, by request tag; the instruction replays. With the thread's own request and faulting
  address, and the subcode of its refusal (R383, R384). -/
  | xlate (tags : List Nat) (own : Option (Nat × Word)) (refused : Option Nat)
  /-- Stopped by a fault (R343) or by GRPSEL (R354). -/
  | stopped
deriving DecidableEq, Repr

/-- One thread (R47-R49, R69, R70). `row`, `quad`, `pos` and `off` are its place (R18-R20); `age` and `inWin` are the
fairness state of its path (R30); `acted` says that its phase point is behind it (R140); `bad` lists registers whose
data failed their check (R388); `kept` is what the word at a PC has read already while it waits: a half of an LDP, and whether it is
the upper (R127), or the mask of an MBAR (R336); `clk`, `relClk` (its last release) and `seenClk` (releases of values it has read)
belong to the order-stamp unit (R162). -/
structure Thread where
  ltid    : Nat
  row     : Nat
  quad    : Nat
  pos     : Nat
  off     : Nat
  rank    : Nat
  pc      : Word
  v       : Tab Word
  p       : BitVec 96
  frm     : BitVec 3
  fflags  : BitVec 5
  exited  : Bool
  wait    : Wait
  acted   : Bool
  resv    : Option (Nat × Nat)
  age     : Nat
  inWin   : Bool
  bad     : List (BitVec 10)
  kept    : Option (Word × Bool × Word)
  clk     : Tab Nat
  relClk  : Option RelMark
  seenClk : List RelMark
deriving DecidableEq, Repr

/-- A lehr register (R63): `win` is W; `front` has its oldest element first; `busy` is a flip in progress (R67). -/
structure Lehr where
  win   : Nat
  op    : RedOp
  front : List (Word × Word)
  back  : List Word
  bagg  : Word
  busy  : Bool
deriving DecidableEq, Repr

/-- A lehr register as it is placed (R63). -/
def Lehr.new : Lehr := ⟨1, .addN64, [], [], 0, false⟩

/-- The fairness state of a block in one quadrant (R30): the counter F and the slots left in an open window. -/
structure Fair where
  f    : Nat
  left : Nat
deriving DecidableEq, Repr

/-- A no-return ATOM contribution held for a merge (R143): memory key, width in bytes, operation, operand, thread. -/
structure AtomRec where
  key  : Nat
  w    : Nat
  aop  : Nat
  x    : Word
  cmp  : Word
  ltid : Nat
deriving DecidableEq, Repr

/-- A read-modify-write held for a merge: ATOM, or a scoped write with `acc` and its issuing threads (R61, R143). -/
inductive PhaseOp where
  | atom (a : AtomRec)
  | acc (key : Nat) (red : RedOp) (x : Word) (tids : List Nat)
deriving DecidableEq, Repr

/-- An LDX transfer in flight (R256): the checked source's key and page kind, the destination's key, bytes, the barrier
object it attaches to, whether its source read is tracked, the subcode of a failed source read, and its thread. -/
structure LdxXfer where
  src   : Nat
  kind  : Nat
  dst   : Nat
  n     : Nat
  level : Nat
  node  : Nat
  tracked : Bool
  failed  : Option Nat
  srcVa : Word
  ltid : Nat
deriving DecidableEq, Repr

/-- A fault of a group or a deferred fault, as the fault registers will hold it (R344, R345), and the rendezvous operation at which its
group was parked (R34). -/
structure FaultRec where
  slot  : Nat
  quad  : Nat
  tids  : List Nat
  cause : Word
  epc   : Word
  emask : Word
  eaddr : Word
  dfr   : Bool
  park  : Option Instr
deriving DecidableEq, Repr

/-- A launch's block by launch number and `s.lin`. -/
structure BlockId where
  launch : Nat
  lin    : Nat
deriving DecidableEq, Repr

/-- An effect held until the chunk commits (R139). Bytes of RELEASE and STREAM stores are by key; `ord`
is the place of a store or ATOM in the core's issue order (R130). `cut` holds the chunk's writes
before an XC whose chunk goes on under an LR's suspension (R134, R155); `exits` are threads that have left their block (R261). -/
inductive Held where
  | store (key : Nat) (bytes : List Byte) (stream : Bool) (ord : Nat)
  | atom (a : AtomRec) (stream : Bool) (ord : Nat)
  | cmd (eng : Nat) (stream : Nat) (num : Nat) (cut : Option Overlay)
  | withdraw (slot : Nat) (m : Nat)
  | exits (slot : Nat) (tids : List Nat)
  | emit (tmpl ltid : Nat) (bytes : List Byte)
deriving DecidableEq, Repr

/-- A block resident on a core. `pover` and `pops` are its EXACT phase store (R142, R143), `pheld` effects held until
its phase ends. Keys of `nregs`, `lehrs` and `bars` number (level, node, index). -/
structure Block where
  launch  : Nat
  lin     : Nat
  q0      : Nat
  winBase : Nat
  winSize : Nat
  pstore  : Nat
  seq     : Nat
  threads : List Thread
  fair    : List Fair
  nregs   : Tab Word
  lehrs   : Tab Lehr
  bars    : Tab Bar
  wnCount : Nat
  wnWait  : List Nat
  phase   : Nat
  pdone   : Bool
  pover   : Overlay
  pops    : List PhaseOp
  pheld   : List Held
  plines  : List Nat
  deferred : List FaultRec
  ldx     : List LdxXfer
  failing : Bool
deriving DecidableEq, Repr

/-! ### Engines -/

/-- How a command came to its stream: a direct XC, an entry of a TAIL with the last entry's address (R284), or an
operation that an arm fired (R307). -/
inductive CmdKind where
  | direct
  | entry (isLast : Bool) (last : Word)
  | fired (counter : Nat)
deriving DecidableEq, Repr

/-- A command on a stream (R274-R281). `view` holds bytes as the command sees them apart from memory: the
issuing block's phase store when it left (R161), and words that its core has written since (R155); `final` marks a command whose effects are final but whose completion word is not
written (R280); `slots` is the accumulator range held (R294); `wait` are its translation request tags (R385), and
`leaveErr` is the subcode of a check that failed when it left (R282) or when its entry was read, `mark` the
clock of the XC (R162), `mate` the copy (stream, number) that a follow-on MMA waits for (R301), and `sentAt` the core's count of
stores sent when it left (R155). `done` counts the steps whose reads are over, `got` holds the bytes read by address (R156),
`landed` the pieces of RELEASE and STREAM pages written (place in the output, address, length; R118), and `sent` the units of an
RCOPY handed to the switch, or whether a COLL has begun to read its send buffer; `stores` are the codebook and the scale store as they were when
an MMA began (R292), `checked` says that all its checks were made at issue (R301), and `seen` holds, of an operation that a thread's CNTADD
fired, that thread's core and the stores that it had sent then (R412); `pc`, `quad`, `uid` and `ph` name its accesses for the order-stamp unit (R162), and `det` is the
captured determinism level of its launch (R409). An entry that has not been read has fn 0x7F; a read entry's link is its seventh
word. -/
structure Cmd where
  num    : Nat
  fn     : Nat
  kind   : CmdKind
  ps     : List Word
  lvl    : Nat
  blk    : Option BlockId
  core   : Nat
  slot   : Nat
  left   : Bool
  view   : Overlay
  done   : Nat
  final  : Bool
  slots  : Option (Nat × Nat)
  mate   : Option (Nat × Nat)
  snapI  : List (Nat × Nat)
  reply  : Option (Nat × List Nat × BitVec 7)
  wait   : List Nat
  exact_ : Bool
  order  : Nat
  leaveErr : Option Nat
  mark   : Option RelMark
  sentAt : Nat
  got    : Overlay
  landed : List (Nat × Nat × Nat)
  sent   : Nat
  stores : Option (Tab Byte × Tab Byte)
  checked : Bool
  seen   : Option (Nat × Nat)
  pc     : Word
  quad   : Nat
  uid    : Nat
  ph     : Option Nat
  det    : Nat
deriving DecidableEq, Repr

/-- A command of no thread, with nothing done. -/
def Cmd.new : Cmd :=
  { num := 0, fn := 0, kind := .direct, ps := [], lvl := 0, blk := none, core := 0, slot := 0, left := true, view := [], done := 0,
    final := false, slots := none, mate := none, snapI := [], reply := none, wait := [], exact_ := false, order := 0,
    leaveErr := none, mark := none, sentAt := 0, got := [], landed := [], sent := 0, stores := none, checked := false, seen := none, pc := 0, quad := 0, uid := 0, ph := none, det := 0 }

/-- The state of a stream (R278), with its format word (R295), its queued commands and its fault. -/
structure Stream where
  i      : Nat
  c      : Nat
  w      : Word
  pos    : Word
  held   : List (Nat × Byte)
  nHeld  : Nat
  flags  : BitVec 5
  fmtw   : Word
  q      : List Cmd
  fault  : Option (Nat × Nat)
deriving DecidableEq, Repr

/-- A stream of a created context: every field zero (R278). -/
def Stream.new : Stream := ⟨0, 0, 0, 0, [], 0, 0, 0, [], none⟩

/-- The per-context state of a core's engines (R278, R286, R370): streams by 16·engine + number, the accumulator
store, the scale banks (A at 0, B at 4,096) and the codebook store, in bytes. `bad` lists the units whose data failed their check
(R388): accumulator slot k at k, codebook slot k at 128 + k, scale bank k at 136 + k. -/
structure Engines where
  streams : Tab Stream
  acc     : Tab Byte
  scale   : Tab Byte
  cbook   : Tab Byte
  bad     : List Nat
deriving DecidableEq, Repr

/-- Engine state of a created context (R278, R286). -/
def Engines.new : Engines := ⟨[], [], [], [], []⟩

/-! ### Cores -/

/-- A beat of a neighbour link (R272): its elements by lane, its valid lanes, the core it came from while that core's
chunk is open (R273). -/
structure Beat where
  elems : Tab Word
  valid : BitVec 32
  src   : Option Nat
deriving DecidableEq, Repr

/-- What a squash restores (R137): the blocks with their threads and the handler (slot 16), the fault registers and
queue, the faults forwarded to the host with their group descriptors, the descriptors that the handler has seen with their slots and
threads (R346), the neighbour queues by 4·direction + channel, and the sequence numbers I of the core's streams. -/
structure CoreArch where
  blocks : Tab Block
  status : BitVec 2
  cause  : Word
  epc    : Word
  emask  : Word
  eaddr  : Word
  grpValid : Bool
  grpQuad  : Nat
  grpSlot  : Nat
  grpTids  : List Nat
  grpEntry : BitVec 9
  serving : Option FaultRec
  faultq : List FaultRec
  fwd    : List (Word × FaultRec)
  descs  : List (Word × Nat × List Nat)
  nbr    : Tab (List Beat)
  iNum   : Tab Nat
deriving DecidableEq, Repr

/-- A core with nothing on it, after reset. -/
def CoreArch.new : CoreArch :=
  ⟨[], 0, 0, 0, 0, 0, false, 0, 0, [], 0, none, [], [], [], [], []⟩

/-- The open chunk of a core (R132-R139): its start, its writes, its read and written shared lines, the PRIVATE lines it has read
(R121), the granules of the undo log, the lane and scoped registers in the shadow bank, its held effects, whether a word has issued in it, whether it has ended and waits for its grant, LRs'
suspensions (slot, thread, words left), whether an end is pending, whether it is a priority chunk (R46), the subcode of a
failure of its shadow bank or undo log (R388), and the slot of the served EXACT block whose threads the handler has changed in it
(R137). -/
structure Chunk where
  snap    : Option CoreArch
  ovl     : Overlay
  rd      : List Nat
  wr      : List Nat
  prd     : List Nat
  grans   : List Nat
  regs    : List Nat
  held    : List Held
  fresh   : Bool
  ended   : Bool
  suspend : List (Nat × Nat × Nat)
  pendEnd : Bool
  prio    : Bool
  bad     : Option Nat
  served  : Option Nat
deriving DecidableEq, Repr

/-- A chunk just opened. -/
def Chunk.new : Chunk := ⟨none, [], [], [], [], [], [], [], true, false, [], false, false, none, none⟩

/-- A TLB entry (R381): virtual base, size, physical base and the leaf's bits. -/
structure TlbEntry where
  va   : Nat
  size : Nat
  pa   : Nat
  ctx  : Nat
  glob : Bool
  r    : Bool
  w    : Bool
  x    : Bool
  kind : Nat
  d    : Bool
  ptr  : Nat
deriving DecidableEq, Repr

/-- A table pointer in a walker cache (R381): context, level of the table that it points to, the address bits above it, the table. -/
structure WalkPtr where
  ctx   : Nat
  lvl   : Nat
  pre   : Nat
  table : Nat
deriving DecidableEq, Repr

/-- A cached line of a RELEASE or STREAM page, or of the instruction cache: line number, whether STREAM, content. -/
structure CacheLine where
  line   : Nat
  stream : Bool
  cells  : Memory
deriving DecidableEq, Repr

/-- A released store or no-return ATOM not yet performed (R139, R145), in order of release; `num` counts those of the core
and context from 0 (R266). -/
structure Flight where
  core : Nat
  ctx  : Nat
  num  : Nat
  eff  : Held
deriving DecidableEq, Repr

/-- Blocks of a context pre-empted from a core, in the save area (R389-R391). -/
structure Saved where
  ctx    : Nat
  arch   : CoreArch
deriving DecidableEq, Repr

/-- What a core keeps for a context beside its blocks and engines (R349, R390): the performance counters with their events, the fault
registers, the descriptor's entry and the neighbour queues. -/
structure CoreOwn where
  pmc   : Tab Word
  pmsel : Tab (BitVec 8)
  cause : Word
  epc   : Word
  emask : Word
  eaddr : Word
  entry : BitVec 9
  nbr   : Tab (List Beat)
deriving DecidableEq, Repr

/-- Nothing kept: registers zero, queues empty. -/
def CoreOwn.new : CoreOwn := ⟨[], [], 0, 0, 0, 0, 0, []⟩

/-- Ownership of a COMMITTED line in the plat (R120): by (launch, `s.lin`), or shared by the launches listed. -/
inductive Plat where
  | unowned
  | private_ (launch lin : Nat)
  | shared (launches : List Nat)
deriving DecidableEq, Repr

/-- A scratch allocation copied out to a save area (R391): core, slice offset, size, its context, its content by key, and who
owned its lines (R120). -/
structure CopyOut where
  core  : Nat
  base  : Nat
  size  : Nat
  ctx   : Nat
  cells : Memory
  plat  : Tab Plat
deriving DecidableEq, Repr

/-- A core (R16, R345-R349). `engCtx` is the context that its engine state belongs to (R370), and `l1c` lists the COMMITTED lines
in its L1 (R116, R117), whose data the chunk rules keep valid. -/
structure CoreSt where
  arch     : CoreArch
  chunk    : Chunk
  chunks   : Word
  squashes : BitVec 32
  again    : Nat
  pmc      : Tab Word
  pmsel    : Tab (BitVec 8)
  engCtx   : Option Nat
  eng      : Engines
  engSaved : Tab Engines
  ownSaved : Tab CoreOwn
  tlb      : List TlbEntry
  l1       : List CacheLine
  l1c      : List Nat
  icache   : List CacheLine
  sent     : Tab Nat
  saved    : List Saved
  preempt  : Option Nat
  rrSlot   : Tab Nat
  prioReq  : Bool
deriving DecidableEq, Repr

/-- A core after reset. -/
def CoreSt.new : CoreSt :=
  ⟨CoreArch.new, Chunk.new, 0, 0, 0, [], [], none, Engines.new, [], [], [], [], [], [], [], [], none, [], false⟩

/-! ### Contexts -/

/-- An arm of a counter (R307): counter, threshold, entry words, the block, core and slot of the ARM, and the determinism level
captured for its launch (R409). -/
structure Arm where
  counter : Nat
  thr     : Word
  entry   : List Word
  blk     : Option BlockId
  core    : Nat
  slot    : Nat
  det     : Nat
deriving DecidableEq, Repr

/-- One memory or scoped access kept by the order-stamp unit (R162, R163). `gid` numbers the group or command that made it, and
`chunk` is the core whose open chunk it belongs to (R337). -/
structure Access where
  uid   : Nat
  gid   : Nat
  chunk : Option Nat
  cnt   : Nat
  key   : Nat
  n     : Nat
  write : Bool
  sync  : Bool
  regAcc : Bool
  va    : Word
  pc    : Word
  launch : Nat
  lin   : Nat
  quad  : Nat
  ltid  : Nat
  phase : Option Nat
deriving DecidableEq, Repr

/-- What the device knows of a launch queue (R363, R364): the last tail accepted, whether it consumes packets, and whether the
packet at the head waits for the launches dequeued before it. -/
structure QueueSt where
  tail    : Nat
  on      : Bool
  waiting : Bool
deriving DecidableEq, Repr

/-- A collective slot of a context (R410): the collective that owns it (group handle, stream, number), and the inputs
pushed, as (offset, index, bytes, combined), and the offsets whose inputs are all in (R411). -/
structure ApSlot where
  owner  : Nat × Nat × Nat
  inputs : List (Nat × Nat × List Byte × Bool)
  final  : List Nat
deriving DecidableEq, Repr

/-- A part of a collective's data (R407): its plan (0 the first, 1 made anew), its chunk, its segment of the chunk, and, of a plan
made anew, its chunk of the ring. -/
structure CollKey where
  plan : Nat
  cls  : Nat
  seg  : Nat
  sub  : Nat
deriving DecidableEq, Repr

/-- A step of a plan: a partial on its way up to its final add node, or a final value on its way to a rank (R407). `low` is the
lowest rank that a partial contains; `anew` says that the part's value is left to the plan made anew (R409). -/
structure CollMsg where
  up    : Bool
  key   : CollKey
  peer  : Nat
  low   : Nat
  anew  : Bool
  bytes : List Byte
deriving DecidableEq, Repr

/-- A collective of a group (R308-R311): group handle, fabric stream, its number there, the send data read, the steps received and
those sent, the parameter blocks that have come by rank, their launches' levels and the ranks that have finished their steps (at
the rank that decides), an abort's subcode, the decision to finish, the decision to plan anew, whether a link of the group has
failed, the address of its next step, the bytes that a pull has brought (without steps: that the send buffer is to be read for a plan made
anew, R411), the message that it is sending (rank, function, number, units of 4 KiB sent, bytes; R392), the destination ranges that a step
list has written, the slot and the bytes of buffer memory taken, the content kept of lines written in place (R158), and the ranks lost without harm. -/
structure CollSt where
  handle : Nat
  stream : Nat
  k      : Nat
  input  : List Byte
  msgs   : List CollMsg
  out    : List (Bool × CollKey × Nat)
  pbs    : Tab (List Byte)
  levels : Tab Nat
  ready  : List Nat
  abort  : Option Nat
  go     : Bool
  anew   : Bool
  broken : Bool
  steps  : Option Nat
  pulled : Option (List Byte)
  sending : Option (Nat × Nat × Nat × Nat × List Byte)
  outs   : List (Word × Nat)
  slot   : Option Nat
  buf    : Nat
  kept   : Option Overlay
  lost   : List Nat
deriving DecidableEq, Repr

/-- A translation request (R383, R384): granule, class (0 read, 1 write, 2 fetch), walk subcode, tag, whether its record has been
posted, and whether the host answers it (R374). -/
structure XReq where
  ctx    : Nat
  gran   : Nat
  cls    : Nat
  sub    : Nat
  tag    : Nat
  va     : Word
  posted : Bool
  host   : Bool
deriving DecidableEq, Repr

/-- A context (R345, R420). `locClk` holds the releases before the values of 8-byte units, `heldClk` those of values that only
one core sees yet, by core and unit (R147, R162). `invWait` lists the host's invalidations that wait for accesses (R382, R420). `dseq` numbers the groups of fabric commands that its cores hold, `lseq` its dequeued launches (R365). -/
structure Ctx where
  created  : Bool
  part     : Nat
  qtable   : Word
  level0   : Word
  mode     : BitVec 6
  ering    : Word
  eprod    : Word
  econs    : Word
  evec     : Word
  save     : Word
  policy   : Word
  invs     : Word
  invWait  : List Word
  bindW    : List Word
  bindRes  : Word
  handler  : Word
  seed     : Word
  fair     : Word
  race     : Word
  eseq     : Word
  streams  : Tab Stream
  counters : Tab Word
  arms     : List Arm
  dseq     : Nat
  lseq     : Nat
  queues   : Tab QueueSt
  stepAddr : Option Word
  slots    : Tab ApSlot
  outNum   : Tab Nat
  accesses : List Access
  locClk   : Tab (List RelMark)
  heldClk  : List (Nat × Nat × RelMark)
  raced    : List (Nat × Nat × (Nat × Nat) × (Nat × Nat))
deriving DecidableEq, Repr

/-- A context after reset: not created; its registers at the values of R345, the others at log 12's. -/
def Ctx.new : Ctx :=
  { created := false, part := 0, qtable := 0, level0 := 0, mode := 0, ering := 0, eprod := 0, econs := 0, evec := 0,
    save := 0, policy := 0, invs := 0, invWait := [], bindW := [0, 0, 0, 0], bindRes := 0, handler := 0, seed := 0,
    fair := 0x00400100, race := 0, eseq := 0, streams := [], counters := [], arms := [], dseq := 0, lseq := 0, queues := [],
    stepAddr := none, slots := [], outNum := [], accesses := [], locClk := [], heldClk := [], raced := [] }

/-! ### Fabric, links and service -/

/-- A flit as the switch carries it: its type, last mark, route fields and payload (R395), with the command number and
the place of a data flit among its command's, which the switch keeps track of (log 10). -/
structure Packet where
  ty      : Nat
  last    : Bool
  dst     : Nat
  src     : Nat
  handle  : Nat
  stream  : Nat
  num     : Nat
  idx     : Nat
  payload : List Byte
deriving DecidableEq, Repr

/-- A flit on a fibre (R396): the number of its first beat since the last training, the active wavelengths, and those with light. -/
structure Sent where
  flit : Flit
  beat : Nat
  act  : BitVec 16
  lit  : BitVec 16
deriving DecidableEq, Repr

/-- The state of a fibre port (R393-R403). `txLost` are wavelengths reported lost by the peer, `replay` the
unacknowledged flits, `wire` the flits put on the fibre and not yet taken by the peer, `beat` the number of the next beat (R396), `pend` flits that wait for the
port, `naked` the number last NAKed or to be NAKed, `nakDue` whether that NAK is still to be sent (R414), `nakFrom` the number of a NAK that
a training port has still to answer (R398), `blind` a receiver that has flagged a loss since the last training (R399), `rxAct` those of the fibre received that carry beats, `lit` the transmit wavelengths that a
working laser feeds (R394), `tmask` those over which a training is to run when not over the survivors, `notice` a notice's number that a stopped or training port will replay from, `lossTx` and `lossRx` the
masks lost since the last training, in order, of the directions sent and received (R402), `flow` and `trk` the
command number and next data flit of each flow sent and received (log 10). -/
structure Port where
  part    : BitVec 8
  en      : Bool
  state   : Nat
  act     : BitVec 16
  lost    : BitVec 16
  txLost  : BitVec 16
  restr   : BitVec 16
  sent    : Word
  replayed : Word
  discarded : Word
  losses  : Word
  seq     : BitVec 16
  expect  : BitVec 16
  replay  : List (BitVec 16 × Packet)
  wire    : List Sent
  beat    : Nat
  pend    : List Packet
  naked   : Option (BitVec 16)
  nakDue  : Bool
  nakFrom : Option (BitVec 16)
  notice  : Option (BitVec 16)
  blind   : Bool
  rxAct   : BitVec 16
  lit     : BitVec 16
  tmask   : BitVec 16
  flow    : Tab (Nat × Nat)
  trk     : Tab (Nat × Nat)
  lossTx  : List (BitVec 16)
  lossRx  : List (BitVec 16)
deriving DecidableEq, Repr

/-- A port after reset (R403). -/
def Port.new : Port :=
  ⟨0, false, 0, 0, 0, 0, 0, 0, 0, 0, 0, 0, 0, [], [], 0, [], none, false, none, none, false, 0, 0xFFFF, 0, [], [], [], []⟩

/-- A laser module (R426): state 0 absent, 1 working, 2 failed, 3 disabled; `warming` after a write of `en`. -/
structure Laser where
  state   : Nat
  en      : Bool
  temp    : BitVec 8
  present : Bool
  warming : Bool
deriving DecidableEq, Repr

/-- A laser module after boot (log 3). -/
def Laser.new : Laser := ⟨1, true, 25, true, false⟩

/-- A memory link (R427): state, module size in MiB, last command, lines moved, size of the removed module, and whether its lines
stand, in whole or in part, in the reserve of the others. -/
structure MemLink where
  state : Nat
  size  : Nat
  cmd   : Nat
  moved : Nat
  old   : Nat
  away  : Bool
deriving DecidableEq, Repr

/-- A memory link after boot (log 3). -/
def MemLink.new : MemLink := ⟨2, 262144, 0, 0, 262144, false⟩

/-- A reach group entry (R421) and the routes loaded from its table. -/
structure GroupEntry where
  w0     : Word
  w1     : Word
  routes : List (List Nat)
deriving DecidableEq, Repr

/-- A group entry after reset (R421). -/
def GroupEntry.new : GroupEntry := ⟨0, 0, []⟩

/-- A command of a peer that is arriving (R406): its header's payload once it has come, the bytes that have come by offset,
the content kept of lines written in place (R158), the translation requests that its application waits for, the words of
RELEASE and STREAM pages that have landed (R153), and the steps of 4 KiB whose pages have been found (R385). -/
structure Arriving where
  handle : Nat
  src    : Nat
  stream : Nat
  num    : Nat
  head   : List Byte
  bytes  : Overlay
  kept   : Overlay
  wait   : List Nat
  landed : List (Nat × Nat × Nat)
  done   : Nat
deriving DecidableEq, Repr

/-- A waiting access of the host (R158, R418): a read or a write of part of an 8-byte word of device memory, of a read whether it is the
first part, or a doorbell with the waiting writes of group entries that precede it. -/
inductive HostAcc where
  | read (key n : Nat) (first : Bool)
  | write (key : Nat) (bytes : List Byte)
  | doorbell (ctx queue : Nat) (tail : Word) (after : List (Nat × Word))
deriving DecidableEq, Repr

/-- A firmware switch in progress (R425). -/
inductive FwSwitch where
  | none
  | starting
deriving DecidableEq, Repr

/-! ### What acts next (model's own) -/

/-- The issue group of the word being executed: core, quadrant, block slot, PC, members by logical thread id. -/
structure Cur where
  core : Nat
  quad : Nat
  slot : Nat
  pc   : Word
  tids : List Nat
deriving DecidableEq, Repr

/-- A move of one of the device's agents. -/
inductive Move where
  /-- A quadrant issues one word (R27). -/
  | issue (core quad : Nat)
  /-- An event of the opcode table. -/
  | event (i : Instr)
  /-- A chunk resource that the model does not count runs out (R133). -/
  | chunkFull (core : Nat)
  /-- A released store of a core is performed: its position among those in flight (R139, R145). -/
  | land (n : Nat)
  /-- A core's TLB, a cluster's TLB or a walker cache drops an entry (R381). -/
  | tlbEvict (core n : Nat)
  | ctlbEvict (cluster n : Nat)
  | walkEvict (cluster n : Nat)
  /-- The L1 drops a copy (R117). -/
  | l1Evict (core n : Nat)
  /-- The instruction cache drops a line. -/
  | icEvict (core n : Nat)
  /-- Management-core cycles pass (R369). -/
  | tick (n : Nat)
  /-- An engine performs one further piece of its stream's first command (R299). -/
  | engineUnit (r : StreamRef)
  /-- Data of a physical line, or of a register, fail their check (R388). -/
  | corrupt (line sub : Nat)
  | corruptReg (core slot ltid : Nat) (spec : BitVec 10)
  /-- A stored error of a structure, by subcode, is corrected on reading (R388, R427). -/
  | corrected (sub : Nat)
  /-- The register shadow bank (subcode 5) or the scratch undo log (3) of a core fails (R388). -/
  | corruptShadow (core sub : Nat)
  /-- A unit of a core's engine stores fails its check (R388). -/
  | corruptStore (core unit : Nat)
  /-- A failing dirty line is written back or evicted (R388). -/
  | evictBad (line : Nat)
  /-- The host's first waiting access through BAR2 goes on (R158). -/
  | bar2Go
  /-- The host's first waiting write of a reach group entry goes on (R421). -/
  | groupGo (entry : Nat)
  /-- A context's first waiting invalidation goes on (R382, R420). -/
  | invGo (ctx : Nat)
  /-- The boot takes its next step, which fails or not (R423-R425). -/
  | bootNext (fails : Bool)
  /-- The management core has written the staged image (R425). -/
  | firmwareWritten
  /-- A laser module's temperature changes (R426). -/
  | laserTemp (module : Nat) (degrees : BitVec 8)
  /-- The link gives BAR2 a size of 2 to the power of `log` bytes (R418). -/
  | bar2Resize (log : Nat)
  /-- One line of a draining or restored module moves (R427). -/
  | lineMoved (link : Nat)
  /-- The switch routes or delivers the packet that has waited longest for its destination: its position (R405). -/
  | switchStep (n : Nat)
  /-- The fabric engine applies a command that has arrived whole: its position (R153, R406). -/
  | applyArrived (n : Nat)
  /-- A receiver sends the NAK that it has held for 256 unit intervals (R414). -/
  | nakSent (port : Nat)
  /-- A peer takes the first flit from a port's fibre. -/
  | taken (port : Nat)
  /-- A deferred interrupt message is sent (R422). -/
  | msixSent
deriving DecidableEq, Repr

/-- Why the device stops (closed). -/
inductive Fault where
  /-- The device has stopped issue at 110 °C and waits for a reset (R428); raised by `step` when no event is on the
  agenda. Safe: the manual says that the device waits. -/
  | overTemperature
deriving DecidableEq, Repr

/-- Why the model has no answer (closed). -/
inductive Refusal where
  /-- An instruction without a meaning yet, by its mnemonic in opcode_table.json; raised by an arm of `exec`. Safe. -/
  | notModelled (mnemonic : String)
deriving DecidableEq, Repr

/-- The device. `bar2Wait` holds the host's accesses that wait for a held line or behind one (R158, R418), `bar2Data` the bytes that its last
read brought, `bar2Log` the size of its window, `groupWait` its writes of reach group entries that wait for the end of a deletion (R421), and
`bindWait` its bind records that wait for the end of a firmware switch, by context and core (R425). `repair` lists the cores that the
repair table in flash names, by the numbers of their places (R424), `portFlash` the ports whose `en` is 1 in flash (R423), `fwSlotA` and
`fwSlotB` what flash holds in the two slots, none for the image that it came with (R425); `fwStart` is the clock at the start of a switch, and
`fwTried` says that a boot has tried its other slot. `ctlb` and `wcache` are the TLB and the walker cache of each cluster (R381). `agenda`, `cur`, `was` and `tick` are the model's own: moves that a run fixes, the group whose word executes, its
core, slot and block before the slot was given to it (R30, R137), and the number of steps. -/
structure State where
  mem      : Memory
  cores    : Tab CoreSt
  ctxs     : Tab Ctx
  launches : List Launch
  flights  : List Flight
  ctlb     : Tab (List TlbEntry)
  wcache   : Tab (List WalkPtr)
  plat     : Tab Plat
  clusterMask : Tab (BitVec 24)
  ports    : Tab Port
  groups   : Tab GroupEntry
  groupWait : List (Nat × Word)
  lasers   : Tab Laser
  links    : Tab MemLink
  applied  : Tab Nat
  switch   : List Packet
  arriving : List Arriving
  colls    : List CollSt
  collSeq  : Tab Nat
  xreqs    : List XReq
  xtag     : Nat
  xanswers : List (Nat × Bool)
  quar     : List Nat
  badLines : Tab Nat
  ras      : Tab Word
  heldLines : List Nat
  bar2Wait : List HostAcc
  bar2Data : List Byte
  bar2Log  : Nat
  bindWait : List (Nat × Nat × BitVec 256)
  copiedOut : List CopyOut
  bar2Base : Word
  dering   : Word
  deprod   : Word
  decons   : Word
  devec    : Word
  deseq    : Word
  drainRes : Word
  bootStep : Nat
  bootFail : Nat
  active   : BitVec 24
  repair   : List Nat
  portFlash : BitVec 64
  image    : Bool
  fwCtl    : Word
  fwAddr   : Word
  fwLen    : Word
  fwState  : Nat
  fwValidA : Bool
  fwValidB : Bool
  fwSwitch : FwSwitch
  fwSlotA  : Option Nat
  fwSlotB  : Option Nat
  fwStart  : Nat
  fwTried  : Bool
  msix     : List Nat
  clockMHz : Nat
  stopped  : Bool
  mclock   : Nat
  readySeq : Nat
  blockSeq : Nat
  priority : List Nat
  agenda   : List Move
  cur      : Option Cur
  was      : Option (Nat × Nat × Block)
  tick     : Nat
deriving DecidableEq, Repr

/-- The device when its boot has reached step 5 (R423): scratch zero, no context created, no cluster in a partition;
values that R423 and R420 leave open are log 3's, 12's and 13's. -/
def State.reset : State :=
  { mem := [], cores := [], ctxs := [], launches := [], flights := [], ctlb := [], wcache := [], plat := [], clusterMask := [], ports := [],
    groups := [], groupWait := [], lasers := [], links := [], applied := [], switch := [], arriving := [], colls := [], collSeq := [], xreqs := [],
    xtag := 0, xanswers := [], quar := [], badLines := [], ras := [], heldLines := [],
    bar2Wait := [], bar2Data := [], bar2Log := 43, bindWait := [], copiedOut := [], bar2Base := 0, dering := 0, deprod := 0, decons := 0, devec := 0, deseq := 0, drainRes := 0,
    bootStep := 5, bootFail := 0, active := 0xFFFFFF, repair := [], portFlash := 0, image := false, fwCtl := 0, fwAddr := 0, fwLen := 0,
    fwState := 0, fwValidA := true, fwValidB := true, fwSwitch := .none, fwSlotA := none, fwSlotB := none, fwStart := 0, fwTried := false, msix := [], clockMHz := 1000,
    stopped := false, mclock := 0, readySeq := 0, blockSeq := 0, priority := [], agenda := [], cur := none, was := none, tick := 0 }

end Sys2Proof.Machine
end

