-- ==== Sys2Proof/Machine/Get.lean ====
section
/-! DEFINITION. Reading and updating the parts of the state, and the geometry of a launch's tree (R9-R24). -/

namespace Sys2Proof.Machine

/-! ### Parts of the state -/

def State.core (s : State) (c : Nat) : CoreSt := Tab.get CoreSt.new s.cores c
def State.setCore (s : State) (c : Nat) (k : CoreSt) : State := { s with cores := Tab.set CoreSt.new s.cores c k }
def State.updCore (s : State) (c : Nat) (f : CoreSt → CoreSt) : State := s.setCore c (f (s.core c))

def State.updArch (s : State) (c : Nat) (f : CoreArch → CoreArch) : State :=
  s.updCore c (fun k => { k with arch := f k.arch })

def State.updChunk (s : State) (c : Nat) (f : Chunk → Chunk) : State :=
  s.updCore c (fun k => { k with chunk := f k.chunk })

/-- A change that comes from outside the core's chunk: a squash does not undo it (R137, log 14). -/
def State.updBoth (s : State) (c : Nat) (f : CoreArch → CoreArch) : State :=
  s.updCore c (fun k => { k with arch := f k.arch, chunk := { k.chunk with snap := k.chunk.snap.map f } })

def State.ctx (s : State) (x : Nat) : Ctx := Tab.get Ctx.new s.ctxs x
def State.setCtx (s : State) (x : Nat) (c : Ctx) : State := { s with ctxs := Tab.set Ctx.new s.ctxs x c }
def State.updCtx (s : State) (x : Nat) (f : Ctx → Ctx) : State := s.setCtx x (f (s.ctx x))

def State.port (s : State) (p : Nat) : Port := Tab.get Port.new s.ports p
def State.updPort (s : State) (p : Nat) (f : Port → Port) : State :=
  { s with ports := Tab.set Port.new s.ports p (f (s.port p)) }

def State.launch? (s : State) (l : Nat) : Option Launch := s.launches[l]?
def State.updLaunch (s : State) (l : Nat) (f : Launch → Launch) : State :=
  { s with launches := s.launches.modify l f }

def CoreArch.block? (a : CoreArch) (slot : Nat) : Option Block := Tab.find? a.blocks slot
def CoreArch.updBlock (a : CoreArch) (slot : Nat) (f : Block → Block) : CoreArch :=
  match a.block? slot with
  | some b => { a with blocks := Tab.put a.blocks slot (f b) }
  | none => a

def State.block? (s : State) (c slot : Nat) : Option Block := (s.core c).arch.block? slot
def State.updBlock (s : State) (c slot : Nat) (f : Block → Block) : State :=
  s.updArch c (fun a => a.updBlock slot f)
def State.updBlockBoth (s : State) (c slot : Nat) (f : Block → Block) : State :=
  s.updBoth c (fun a => a.updBlock slot f)

/-- The thread of a logical thread id. -/
def Block.thread? (b : Block) (t : Nat) : Option Thread := b.threads.find? (fun th => th.ltid == t)

/-- Changes the threads whose ids are listed. -/
def Block.mapTids (b : Block) (ts : List Nat) (f : Thread → Thread) : Block :=
  { b with threads := b.threads.map (fun th => if ts.contains th.ltid then f th else th) }

def State.mapTids (s : State) (c slot : Nat) (ts : List Nat) (f : Thread → Thread) : State :=
  s.updBlock c slot (fun b => b.mapTids ts f)

/-- The handler thread stands in slot 16 of its core (R342). -/
def handlerSlot : Nat := 16

/-! ### Trees -/

/-- The domain of a level; level 0 is LANE (R14). -/
def Tree.bind (t : Tree) (l : Nat) : Domain :=
  match l with
  | 0 => .lane
  | l + 1 => match t.levels[l]? with
    | some e => e.bind
    | none => .reach

/-- `s.fanL` (R10). -/
def Tree.fan (t : Tree) (l : Nat) : Nat :=
  match l with
  | 0 => 1
  | l + 1 => if l + 1 < t.depth then (match t.levels[l]? with
      | some e => e.fanout
      | none => 1) else 1

/-- Threads in a level-`l` node (R9). -/
def Tree.per (t : Tree) (l : Nat) : Nat :=
  match l with
  | 0 => 1
  | l + 1 => Tree.per t l * t.fan (l + 1)

/-- The highest level below `d` bound to CORE or below: the block level (R11). -/
def Tree.blockLvlFrom (t : Tree) (d : Nat) : Nat :=
  match d with
  | 0 => 0
  | d + 1 => if (t.bind d).code ≤ 3 then d else Tree.blockLvlFrom t d

def Tree.blockLvl (t : Tree) : Nat := t.blockLvlFrom t.depth

/-- Threads of a block. -/
def Tree.blockThreads (t : Tree) : Nat := t.per t.blockLvl

/-- The highest level bound below REACH: the device's subtree (R23). -/
def Tree.devLvlFrom (t : Tree) (d : Nat) : Nat :=
  match d with
  | 0 => 0
  | d + 1 => if (t.bind d).code ≤ 6 then d else Tree.devLvlFrom t d

def Tree.devLvl (t : Tree) : Nat := t.devLvlFrom t.depth

/-- Blocks of a node of a level at or above the block, on one device (R11, R23). -/
def Tree.blocksPer (t : Tree) (l : Nat) : Nat := t.per l / t.blockThreads

/-- *B*: blocks that the tree declares on one device (R21, R23). -/
def Tree.blocks (t : Tree) : Nat := t.blocksPer t.devLvl

/-- Blocks that the launch places: *n* when persistent, *B* otherwise (R22). -/
def Tree.placed (t : Tree) : Nat := if t.persist = 0 then t.blocks else t.persist

/-- The declaration of a level above 0. -/
def Tree.level (t : Tree) (l : Nat) : Level :=
  match l with
  | 0 => ⟨.lane, 1, 0, 0, 0⟩
  | l + 1 => (t.levels[l]?).getD ⟨.reach, 1, 0, 0, 0⟩

/-- The handler's tree: depth 1, all lane registers (R342). -/
def Tree.handler : Tree := ⟨1, 16, 0, 0, []⟩

/-- The level bound to WARP of lowest number, the highest bound to OCTET (R18, R19). -/
def Tree.warpLvl (t : Tree) : Option Nat :=
  (List.range t.depth).find? (fun l => t.bind l == .warp)
def Tree.octLvl (t : Tree) : Option Nat :=
  (List.range t.depth).reverse.find? (fun l => t.bind l == .octet)

/-- Threads in one full row of a block (R18). -/
def Tree.rowThreads (t : Tree) : Nat :=
  match t.warpLvl, t.octLvl with
  | some l, _ => t.per l
  | none, some l => 4 * t.per l
  | none, none => 32

/-- Rows of a block (R18). -/
def Tree.rows (t : Tree) : Nat := (t.blockThreads + t.rowThreads - 1) / t.rowThreads

/-- The lane offset of the thread of rank `r` in its row (R19). -/
def Tree.laneOff (t : Tree) (r : Nat) : Nat :=
  match t.octLvl with
  | some o => 8 * (r / t.per o) + r % t.per o
  | none => r

/-- Key of a node's item below the block: level, node rank in the block, item. -/
def nodeKey (l node i : Nat) : Nat := (l * 4096 + node) * 64 + i

/-- Key of a node above CORE: level and node rank on the device. -/
def highKey (l node : Nat) : Nat := l * 2 ^ 48 + node

/-- The rank, on the device, of the level-`l` node that holds block `lin`, for levels at or above the block. -/
def Tree.highNode (t : Tree) (l lin : Nat) : Nat := lin / max 1 (t.blocksPer l)

/-- `rank(L)` of a thread in its level-`l` node, counted on the device (R10). -/
def Tree.rank (t : Tree) (l lin ltid : Nat) : Nat :=
  if l ≤ t.blockLvl then ltid % max 1 (t.per l)
  else (lin % max 1 (t.blocksPer l)) * t.blockThreads + ltid

/-- The launch of a block, with a blank one when there is none (never at a placed block). -/
def Launch.blank : Launch :=
  { rec_ := 0, ctx := 0, queue := 0, seqNo := 0, tree := Tree.handler, entry := 0, arg := 0, seed := 0, dev := 0, det := 0,
    fairThr := 256, fairWin := 64, race := false, cls := 0, budget := 0, reserve := 0, depsAddr := 0, nDeps := 0,
    vec := 0, raises := false, doneWord := 0, succ := none, thresh := 1, template := false, inBase := 0, inLog := 6,
    instBase := 0, parent := none, instance_ := 0, status := 0, readyAt := 0, readySeq := 0, next := 0,
    withdrawn := [], workNext := 0, workReq := [], retired := 0, failed := false, lateMark := false, nodes := [],
    phase := 0, old := [], pubs := [], instDone := [], producer := none, prodDone := false,
    noForm := false, appended := 0, formed := 0, pre := 0 }

def State.launchOf (s : State) (b : Block) : Launch := (s.launch? b.launch).getD Launch.blank

/-- The tree an instruction of a slot sees (R342). -/
def State.treeOf (s : State) (slot : Nat) (b : Block) : Tree :=
  if slot = handlerSlot then Tree.handler else (s.launchOf b).tree

/-- The context of a block. -/
def State.ctxOf (s : State) (b : Block) : Nat := (s.launchOf b).ctx

/-- The block runs under EXACT; the handler thread is tracked in the core's chunks (R140, R342). -/
def State.isExact (s : State) (slot : Nat) (b : Block) : Bool := slot != handlerSlot && (s.launchOf b).det == 2

/-- The device's rank in a launch's reach group as the entries stand, 0 without a REACH-bound level (R23, R69): `s.dev` of a launch
that is dequeued now. -/
def State.devRank (s : State) (l : Launch) : Nat :=
  if (List.range l.tree.depth).any (fun k => l.tree.bind k == .reach) then
    match List.find? (fun (e : Nat × GroupEntry) => e.2.w0.getLsbD 63 && (e.2.w0.extractLsb' 0 16).toNat == l.tree.group
        && (e.2.w0.extractLsb' 44 6).toNat == l.ctx) s.groups with
    | some e => (e.2.w0.extractLsb' 32 12).toNat
    | none => 0
  else 0

/-- `s.idxL` of a thread (R10, R22, R23). -/
def Tree.idx (t : Tree) (dev lin ltid l : Nat) : Nat :=
  if t.depth ≤ l + 1 then 0
  else (((dev * t.blocks + lin) * t.blockThreads + ltid) / max 1 (t.per l)) % max 1 (t.fan (l + 1))

/-- The thread is alive: not exited. -/
def Thread.live (th : Thread) : Bool := !th.exited

/-- The thread is parked at a rendezvous. -/
def Thread.parked (th : Thread) : Bool :=
  match th.wait with
  | .parked _ _ _ _ => true
  | _ => false

/-- Whether a thread runs. -/
def Thread.running (th : Thread) : Bool := !th.exited && th.wait == .run

/-- The partition's clusters (R420). -/
def State.partClusters (s : State) (p : Nat) : BitVec 24 := Tab.get 0 s.clusterMask p

/-- A core belongs to a partition (R4, R109, R420). -/
def State.inPart (s : State) (p core : Nat) : Bool := (s.partClusters p).getLsbD (core / 16)

/-- The die of a cluster (R109). -/
def clusterDie (k : Nat) : Nat := 2 * (k / 6 / 2) + (k % 6) / 3

/-- All cores with state. -/
def State.coreNums (s : State) : List Nat := s.cores.map (fun e => e.1)

/-- What a core holds for the context that it works for. -/
def CoreSt.own (k : CoreSt) : CoreOwn :=
  ⟨k.pmc, k.pmsel, k.arch.cause, k.arch.epc, k.arch.emask, k.arch.eaddr, k.arch.grpEntry, k.arch.nbr⟩

/-- The core takes that up. -/
def CoreSt.setOwn (k : CoreSt) (o : CoreOwn) : CoreSt :=
  { k with
    pmc := o.pmc, pmsel := o.pmsel
    arch := { k.arch with
      cause := o.cause, epc := o.epc, emask := o.emask, eaddr := o.eaddr, grpEntry := o.entry, nbr := o.nbr } }

/-- A core takes up a context's state, of its engines and its own, and keeps that of the context before (R278, R349, R370, R390). -/
def CoreSt.takeCtx (k : CoreSt) (x : Nat) : CoreSt :=
  if k.engCtx = some x then k
  else
    let keys := List.range 48
    let out : Engines := { k.eng with streams := keys.foldl (fun (t : Tab Stream) i =>
      let st := Tab.get Stream.new t i
      Tab.set Stream.new t i { st with i := Tab.get 0 k.arch.iNum i }) k.eng.streams }
    let saved := match k.engCtx with
      | some y => Tab.set Engines.new k.engSaved y out
      | none => k.engSaved
    let inn := Tab.get Engines.new saved x
    let kept := match k.engCtx with
      | some y => Tab.set CoreOwn.new k.ownSaved y k.own
      | none => k.ownSaved
    let k := if k.engCtx.isSome then k.setOwn (Tab.get CoreOwn.new kept x) else k
    { k with
      ownSaved := Tab.del kept x
      engCtx := some x, eng := inn, engSaved := Tab.del saved x
      arch := { k.arch with iNum := keys.foldl (fun t i => Tab.set 0 t i (Tab.get Stream.new inn.streams i).i) [] } }

/-- Adds to a performance counter event on a core (R349). -/
def State.count (s : State) (c code n : Nat) : State :=
  let k := s.core c
  if k.arch.status.getLsbD 1 then
    let bump := fun (t : Tab Word) (i : Nat) =>
      if (Tab.get 0 k.pmsel i).toNat == code && code != 0 then Tab.set 0 t i (Tab.get 0 t i + BitVec.ofNat 64 n) else t
    s.setCore c { k with pmc := (List.range 8).foldl bump k.pmc }
  else s

end Sys2Proof.Machine
end

