-- ==== Sys2Proof/Machine/Mem.lean ====
section
/-! DEFINITION. Bytes of memory, translation (R376-R382), the checks of an address (R106-R113, R124) and the views in
which threads read and write memory (R117, R130, R138, R141, R145). -/

namespace Sys2Proof.Machine

/-! ### Bytes -/

/-- The little-endian number of some bytes (R6). -/
def leNat (bs : List Byte) : Nat := bs.foldr (fun b acc => b.toNat + 256 * acc) 0

/-- The `n` little-endian bytes of a number (R6). -/
def natLe (n v : Nat) : List Byte :=
  match n with
  | 0 => []
  | n + 1 => BitVec.ofNat 8 v :: natLe n (v / 256)

/-- The 64-bit word of some bytes. -/
def leWord (bs : List Byte) : Word := BitVec.ofNat 64 (leNat bs)

/-- One byte of memory. -/
def Memory.byte (m : Memory) (k : Nat) : Byte := Tab.get 0 m k

/-- The `n` bytes at key `k`. -/
def Memory.read (m : Memory) (k n : Nat) : List Byte := (List.range n).map (fun i => Memory.byte m (k + i))

/-- Stores bytes at key `k`, keeping the canonical form. -/
def Memory.write (m : Memory) (k : Nat) (bs : List Byte) : Memory :=
  match bs with
  | [] => m
  | b :: bs => Memory.write (Tab.set 0 m k b) (k + 1) bs

/-- The canonical form of memory: keys rise strictly and no byte 0 is listed. -/
def Memory.wf (m : Memory) : Bool := Tab.wf 0 m

/-- The 64-bit word at key `k`. -/
def Memory.word (m : Memory) (k : Nat) : Word := leWord (Memory.read m k 8)

/-- The `n`-byte number at key `k`. -/
def Memory.nat (m : Memory) (k n : Nat) : Nat := leNat (Memory.read m k n)

/-- Applies an overlay. -/
def Memory.apply (m : Memory) (o : Overlay) : Memory := o.foldl (fun m c => Tab.set 0 m c.1 c.2) m

/-- A byte seen through an overlay. -/
def overByte (o : Overlay) (m : Memory) (k : Nat) : Byte := (Tab.find? o k).getD (Memory.byte m k)

/-- Bytes seen through an overlay. -/
def overRead (o : Overlay) (m : Memory) (k n : Nat) : List Byte := (List.range n).map (fun i => overByte o m (k + i))

/-- Adds bytes to an overlay. -/
def overWrite (o : Overlay) (k : Nat) (bs : List Byte) : Overlay :=
  match bs with
  | [] => o
  | b :: bs => overWrite (Tab.put o k b) (k + 1) bs

/-- The cells of memory in one 256-byte line. -/
def Memory.line (m : Memory) (l : Nat) : Memory := m.filter (fun c => c.1 / 256 == l)

def State.readMem (s : State) (k n : Nat) : List Byte := Memory.read s.mem k n
def State.wordMem (s : State) (k : Nat) : Word := Memory.word s.mem k
def State.natMem (s : State) (k n : Nat) : Nat := Memory.nat s.mem k n
def State.writeMem (s : State) (k : Nat) (bs : List Byte) : State := { s with mem := Memory.write s.mem k bs }

/-! ### The address space (R106, R110) -/

/-- The key of byte `o` of the scratch aperture. -/
def sliceKey (o : Nat) : Nat := 2 ^ 56 + o

/-- Base of the scratch aperture, the window alias, the window descriptor and the multicast aperture (R106). -/
def apertureBase : Nat := 0x00FE000000000000
def aliasBase : Nat := 0x00FE000100000000
def descBase : Nat := 0x00FE000100800000
def castBase : Nat := 0x00FF000000000000

/-- Bytes of one slice (R110). -/
def sliceSize : Nat := 0x800000

/-- The regions of the address space (R106). -/
inductive Region where
  | translated
  | aperture (o : Nat)
  | alias_ (o : Nat)
  | descriptor (o : Nat)
  | multicast
  | reserved
deriving DecidableEq, Repr

/-- The region of an address (R106, R107). -/
def region (va : Word) : Region :=
  let a := va.toNat
  if a < apertureBase then .translated
  else if a < aliasBase then .aperture (a - apertureBase)
  else if a < descBase then .alias_ (a - aliasBase)
  else if a < descBase + 256 then .descriptor (a - descBase)
  else if a < castBase then .reserved
  else if a < 2 ^ 56 then .multicast
  else .reserved

/-- What an access needs (R378). -/
inductive Need where
  | read | write | atomic | fetch
deriving DecidableEq, Repr

/-- The access class of a translation request (R383). -/
def Need.cls : Need → Nat
  | .read => 0 | .write => 1 | .atomic => 1 | .fetch => 2

/-! ### Translation (R376-R382) -/

/-- A valid leaf found by a walk: entry, its address, page size and page base. -/
structure Leaf where
  pte  : Word
  ptr  : Nat
  size : Nat
  pa   : Nat
deriving DecidableEq, Repr

/-- How a walk ends (R378). -/
inductive Walk where
  | absent
  | malformed
  | bad (ptr : Nat)
  | leaf (l : Leaf)
deriving DecidableEq, Repr

/-- A reserved bit is set, or `home` is 1 to 3 (R377). -/
def pteReserved (e : Word) : Bool :=
  e.getLsbD 63 || e.getLsbD 59 || ((e.extractLsb' 60 3).toNat != 0 && !e.getLsbD 62)

/-- A table pointer sets a bit that only a leaf has (R377). -/
def pteBadPointer (e : Word) : Bool := (e.extractLsb' 56 7) != 0 || (e.extractLsb' 2 6) != 0

/-- The 16 entries of the contiguous group of entry `i` of a table. -/
def groupEntries (s : State) (table i : Nat) : List Word :=
  (List.range 16).map (fun j => s.wordMem (table + 8 * (i - i % 16 + j)))

/-- The group meets the conditions of R379: leaves with `contig`, equal but for `addr`, `a` and `d`, on consecutive pages
whose first is aligned to 16 of them. -/
def groupOk (es : List Word) (page : Nat) : Bool :=
  let base := ((es.getD 0 0).extractLsb' 8 48).toNat * 256
  let m : Word := BitVec.ofNat 64 (2 ^ 64 - 2 ^ 58 + 255)
  base % (16 * page) = 0 && (List.range 16).all (fun j =>
    let e := es.getD j 0
    e.getLsbD 0 && e.getLsbD 1 && e.getLsbD 58 && (e.extractLsb' 8 48).toNat * 256 = base + page * j
      && e &&& m == es.getD 0 0 &&& m)

/-- A well-formed leaf of a table whose pages have this size. -/
def goodLeaf (page : Nat) (e : Word) : Bool :=
  e.getLsbD 0 && e.getLsbD 1 && !pteReserved e && (e.extractLsb' 8 48).toNat * 256 % page == 0

/-- One with `contig`. -/
def contigLeaf (page : Nat) (e : Word) : Bool := goodLeaf page e && e.getLsbD 58

/-- The entry of a broken contiguous group that an access anywhere in its range is translated through: which one is not fixed
(R379). `none` when the 16 entries around entry `i` form no group, or one that keeps the conditions. -/
def brokenGroup (s : State) (table i page : Nat) : Option Nat :=
  let es := groupEntries s table i
  if page = 0 || !es.any (contigLeaf page) || groupOk es page then none
  else
    let j := Config.freePick s.tick % 16
    if goodLeaf page (es.getD j 0) then some j else es.findIdx? (goodLeaf page)

/-- The leaf at entry `j` of the group of entry `i`, with the page base offset by the distance (R379). -/
def leafVia (table i j page : Nat) (e : Word) : Leaf :=
  ⟨e, table + 8 * (i - i % 16 + j), page, ((e.extractLsb' 8 48).toNat * 256 + page * (i % 16) + 2 ^ 56 - page * j) % 2 ^ 56⟩

/-- Walks the levels of R376 from a table; `lvls` lists (index shift, index bits, page size or 0, next alignment). -/
def walkFrom (s : State) (lvls : List (Nat × Nat × Nat × Bool)) (table va : Nat) : Walk :=
  match lvls with
  | [] => .malformed
  | (sh, bits, page, next4k) :: rest =>
    let ptr := table + 8 * ((va / 2 ^ sh) % 2 ^ bits)
    let i := (va / 2 ^ sh) % 2 ^ bits
    if s.quar.contains (ptr / 256) || (Tab.find? s.badLines (ptr / 256)).isSome then .bad ptr
    else
      let e := s.wordMem ptr
      let addr := (e.extractLsb' 8 48).toNat * 256
      match brokenGroup s table i page with
      | some j => .leaf (leafVia table i j page (s.wordMem (table + 8 * (i - i % 16 + j))))
      | none =>
      if !e.getLsbD 0 then .absent
      else if pteReserved e then .malformed
      else if e.getLsbD 1 then
        if page = 0 then .malformed
        else if addr % page ≠ 0 then .malformed
        else .leaf ⟨e, ptr, page, addr⟩
      else if rest.isEmpty || pteBadPointer e || (next4k && addr % 4096 ≠ 0) then .malformed
      else walkFrom s rest addr va

/-- The levels of R376: index shift, index bits, page size or 0, and whether the next table is aligned to 4 KiB. -/
def walkLevels : List (Nat × Nat × Nat × Bool) :=
  [(39, 17, 0, true), (30, 9, 2 ^ 30, true), (21, 9, 2 ^ 21, false), (16, 5, 2 ^ 16, false)]

/-- Walks the context's tables afresh (R376). -/
def walk (s : State) (x : Nat) (va : Nat) : Walk := walkFrom s walkLevels (s.ctx x).level0.toNat va

/-- The address bits above the range of a table of a level. -/
def tablePre (lvl va : Nat) : Nat := va / 2 ^ ([64, 39, 30, 21].getD lvl 64)

/-- The valid table pointers that a walk from a table of level `lvl` follows (R381). -/
def walkPtrs (s : State) (x lvl : Nat) (lvls : List (Nat × Nat × Nat × Bool)) (table va : Nat) : List WalkPtr :=
  match lvls with
  | [] => []
  | (sh, bits, page, next4k) :: rest =>
    let i := (va / 2 ^ sh) % 2 ^ bits
    let e := s.wordMem (table + 8 * i)
    let addr := (e.extractLsb' 8 48).toNat * 256
    let ptr := table + 8 * i
    if !e.getLsbD 0 || e.getLsbD 1 || pteReserved e || pteBadPointer e || (next4k && addr % 4096 ≠ 0) || rest.isEmpty
        || s.quar.contains (ptr / 256) || (Tab.find? s.badLines (ptr / 256)).isSome || (brokenGroup s table i page).isSome then []
    else
      ⟨x, lvl + 1, tablePre (lvl + 1) va, addr⟩ :: walkPtrs s x (lvl + 1) rest addr va

/-- The deepest cached pointer of a cluster's walker that covers an address (R381). -/
def walkStart (s : State) (k x va : Nat) : Option WalkPtr :=
  let ps := (Tab.get [] s.wcache k).filter (fun p => p.ctx == x && p.pre == tablePre p.lvl va)
  [3, 2, 1].findSome? (fun l => ps.find? (fun p => p.lvl == l))

/-- A walk by the walker of a cluster, which goes on from a pointer that it has cached (R381). -/
def clusterWalk (s : State) (k x va : Nat) : Walk :=
  match walkStart s k x va with
  | some p => walkFrom s (walkLevels.drop p.lvl) p.table va
  | none => walk s x va

/-- A translation: physical address, kind, permissions, the leaf's place and dirty bit, its entry as it was read, and whether a TLB
gave it. -/
structure Xlat where
  pa   : Nat
  kind : Nat
  r    : Bool
  w    : Bool
  x    : Bool
  d    : Bool
  ptr  : Nat
  size : Nat
  base : Nat
  pbase : Nat
  glob : Bool
  pte : Word
  cached : Bool
deriving DecidableEq, Repr

def Leaf.xlat (l : Leaf) (va : Nat) : Xlat :=
  { pa := l.pa + va % l.size, kind := (l.pte.extractLsb' 2 2).toNat, r := l.pte.getLsbD 4, w := l.pte.getLsbD 5,
    x := l.pte.getLsbD 6, d := l.pte.getLsbD 57, ptr := l.ptr, size := l.size, base := va - va % l.size,
    pbase := l.pa, glob := l.pte.getLsbD 7, pte := l.pte, cached := false }

def TlbEntry.xlat (e : TlbEntry) (va : Nat) : Xlat :=
  { pa := e.pa + (va - e.va), kind := e.kind, r := e.r, w := e.w, x := e.x, d := e.d, ptr := e.ptr, size := e.size,
    base := e.va, pbase := e.pa, glob := e.glob, pte := 0, cached := true }

/-- The translation permits the access (R117, R119, R378). -/
def Xlat.permits (t : Xlat) (need : Need) : Bool :=
  t.kind != 3 && (match need with
    | .read => t.r | .write => t.w | .atomic => t.r && t.w | .fetch => t.x && (t.kind == 0 || t.kind == 1))

/-- A TLB entry covers an address of a context: its own, or a global one of its partition (R381). -/
def TlbEntry.covers (s : State) (x va : Nat) (e : TlbEntry) : Bool :=
  (e.ctx == x || (e.glob && (s.ctx e.ctx).part == (s.ctx x).part)) && e.va ≤ va && va < e.va + e.size

/-- The entry of a core's TLB, or else of its cluster's, that covers an address of a context (R381). -/
def tlbFind (s : State) (c x va : Nat) : Option TlbEntry :=
  match (s.core c).tlb.find? (TlbEntry.covers s x va) with
  | some e => some e
  | none => (Tab.get [] s.ctlb (c / 16)).find? (TlbEntry.covers s x va)

/-- How a translation for an access ends (R378). -/
inductive XRes where
  | ok (t : Xlat)
  | perm
  | xlate (sub : Nat)
  | bad (ptr : Nat)
deriving DecidableEq, Repr

/-- What a walk gives an access (R378). -/
def Walk.res (w : Walk) (va : Nat) (need : Need) : XRes :=
  match w with
  | .absent => .xlate 1
  | .malformed => .xlate 2
  | .bad p => .bad p
  | .leaf l => if (l.xlat va).permits need then .ok (l.xlat va) else .perm

/-- The result of a fresh walk. -/
def walkRes (s : State) (x va : Nat) (need : Need) : XRes := (walk s x va).res va need

/-- Translates for an access by a core: a cached translation is used while it is present, except that a denied access
and a first write walk afresh (R380, R381; log 11). -/
def translate (s : State) (c x va : Nat) (need : Need) : XRes :=
  match tlbFind s c x va with
  | some e =>
    let t := e.xlat va
    if t.permits need && (t.d || need == .read || need == .fetch) then .ok t
    else (clusterWalk s (c / 16) x va).res va need
  | none => (clusterWalk s (c / 16) x va).res va need

/-- Bits `a` and `d` of a leaf. -/
def leafA : Word := BitVec.ofNat 64 (2 ^ 56)
def leafD : Word := BitVec.ofNat 64 (2 ^ 57)

/-- The entry has changed since the walk read it, but for `a` and `d`: the walk starts again (R380). -/
def Xlat.stale (s : State) (t : Xlat) : Bool :=
  !t.cached && s.wordMem t.ptr ||| leafA ||| leafD != t.pte ||| leafA ||| leafD

/-- The accessed and dirty bits that a walk sets, by a compare with the entry as it was read (R380). -/
def State.markLeaf (s : State) (t : Xlat) (need : Need) : State :=
  let wr := need == .write || need == .atomic
  let e := s.wordMem t.ptr
  let e' := e ||| leafA ||| (if wr then leafD else 0)
  if !t.cached && !t.stale s && e != e' then s.writeMem t.ptr (natLe 8 e'.toNat) else s

/-- The entry that a walk puts into the TLBs. -/
def Xlat.entry (t : Xlat) (x : Nat) (wr : Bool) : TlbEntry :=
  ⟨t.base, t.size, t.pbase, x, t.glob, t.r, t.w, t.x, t.kind, t.d || wr, t.ptr⟩

/-- The effects of a translation that is used: the accessed and dirty bits of a walked leaf, and the entries that the walk leaves in
the TLBs of the core and its cluster and in the walker cache (R380, R381). -/
def State.noteXlat (s : State) (c x : Nat) (t : Xlat) (need : Need) : State :=
  if t.cached || t.stale s then s
  else
    let put := fun (es : List TlbEntry) => t.entry x (need == .write || need == .atomic) :: es.filter (fun e => !e.covers s x t.base)
    let ps := walkPtrs s x 0 walkLevels (s.ctx x).level0.toNat t.base
    let wc := Tab.get [] s.wcache (c / 16)
    let wc' := ps.filter (fun p => !wc.any (fun q => q.ctx == x && q.lvl == p.lvl && q.pre == p.pre)) ++ wc
    let s' := (s.markLeaf t need).updCore c (fun k => { k with tlb := put k.tlb })
    { s' with ctlb := Tab.set [] s'.ctlb (c / 16) (put (Tab.get [] s'.ctlb (c / 16))), wcache := Tab.set [] s'.wcache (c / 16) wc' }

/-! ### The window directory (R111-R113) -/

/-- The block whose window a slot uses: the handler uses the served block's. -/
def State.winBlock? (s : State) (c slot : Nat) : Option Block :=
  if slot = handlerSlot then
    match (s.core c).arch.serving with
    | some f => s.block? c f.slot
    | none => none
  else s.block? c slot

/-- Slice offsets `o` to `o + n - 1` of core `c` lie within a home-slice allocation of a node of the launch; with
`own`, of an ancestor of block `lin` (R111). -/
def inHome (l : Launch) (c o n : Nat) (own : Option Nat) : Bool :=
  l.nodes.any (fun e => e.2.core == c && e.2.base ≤ o && o + n ≤ e.2.base + e.2.size && (match own with
    | none => true
    | some lin => (List.range l.tree.depth).any (fun k => l.tree.blockLvl < k && e.1 == highKey k (l.tree.highNode k lin))))

/-- An access to slice offset `o` of core `tc`, from a slot of core `c`, is allowed (R111). -/
def windowOkOf (s : State) (b : Option Block) (c tc o n : Nat) : Bool :=
  match b with
  | none => false
  | some b =>
    let l := s.launchOf b
    if tc = c then (b.winBase ≤ o && o + n ≤ b.winBase + b.winSize) || inHome l tc o n (some b.lin)
    else (Tab.vals (s.core tc).arch.blocks ++ (s.core tc).saved.flatMap (fun (v : Saved) => Tab.vals v.arch.blocks)).any
        (fun (b' : Block) => b'.launch == b.launch && b'.winBase ≤ o && o + n ≤ b'.winBase + b'.winSize)
      || inHome l tc o n none

/-- The same for the threads of a slot (R111). -/
def windowOk (s : State) (c slot tc o n : Nat) : Bool := windowOkOf s (s.winBlock? c slot) c tc o n

/-- The block of a launch with an id, resident or pre-empted. -/
def State.issuer? (s : State) (id : BlockId) : Option Block :=
  s.cores.findSome? (fun (c : Nat × CoreSt) =>
    (c.2.arch.blocks ++ c.2.saved.flatMap (fun (v : Saved) => v.arch.blocks)).findSome? (fun (b : Nat × Block) =>
      if b.1 != handlerSlot && b.2.launch == id.launch && b.2.lin == id.lin then some b.2 else none))

/-- Scratch bytes declared by the nodes of level `k` inside a block. -/
def Tree.lvlScratch (t : Tree) (k : Nat) : Nat := (t.blockThreads / max 1 (t.per k)) * (t.level k).scratch

/-- Size of a block's window (R17). -/
def Tree.winSize (t : Tree) : Nat :=
  1024 + ((List.range (t.blockLvl + 1)).map (fun k => if k = 0 then 0 else t.lvlScratch k)).sum

/-- Offset in the window of the scratch of node `node` of level `k` inside the block (R113). -/
def Tree.scratchOff (t : Tree) (k node : Nat) : Nat :=
  1024 + ((List.range (t.blockLvl + 1)).map (fun j => if k < j then t.lvlScratch j else 0)).sum
    + node * (t.level k).scratch

/-- Bytes of scoped registers of a node above CORE, rounded to 256 (R17). -/
def Tree.regBytes (t : Tree) (k : Nat) : Nat := 256 * ((8 * (t.level k).regs + 255) / 256)

/-- Entry `k` of the window descriptor of a thread: base and size (R113); the handler reads the served block's (log 31). -/
def descEntry (s : State) (c slot : Nat) (ltid k : Nat) : Word × Word :=
  match s.winBlock? c slot with
  | none => (0, 0)
  | some b =>
    let l := s.launchOf b
    let t := l.tree
    let at_ := fun (core off : Nat) => BitVec.ofNat 64 (apertureBase + core * sliceSize + off)
    if k = 0 then (at_ c b.winBase, BitVec.ofNat 64 b.winSize)
    else if t.depth ≤ k then (0, 0)
    else
      let sz := (t.level k).scratch
      if sz = 0 then (0, 0)
      else if k ≤ t.blockLvl then (at_ c (b.winBase + t.scratchOff k (ltid / max 1 (t.per k))), BitVec.ofNat 64 sz)
      else match Tab.find? l.nodes (highKey k (t.highNode k b.lin)) with
        | some nd => (at_ nd.core (nd.base + t.regBytes k), BitVec.ofNat 64 sz)
        | none => (0, 0)

/-- The bytes of the window descriptor of a thread (R113). -/
def descBytes (s : State) (c slot ltid o n : Nat) : List Byte :=
  let all := (List.range 16).flatMap (fun k =>
    let e := descEntry s c slot ltid k
    natLe 8 e.1.toNat ++ natLe 8 e.2.toNat)
  (all.drop o).take n

/-! ### Where an access goes -/

/-- A checked access: translated memory, a slice, or the window descriptor. -/
inductive Target where
  | main (t : Xlat)
  | slice (core off : Nat)
  | desc (off : Nat)
deriving DecidableEq, Repr

/-- Why an access fails, in the order of R124. -/
inductive AccErr where
  | align | perm | scratch
  | xlate (sub : Nat)
  | memerr (sub line : Nat)
deriving DecidableEq, Repr

/-- Place of a cause in the order of R124 and R387. -/
def AccErr.rank : AccErr → Nat
  | .align => 0 | .perm => 1 | .scratch => 2 | .xlate _ => 3 | .memerr _ _ => 4

/-- Key of the first byte of a target in memory, and its page kind; the descriptor has a key of no byte (R117). -/
def Target.key : Target → Nat
  | .main t => t.pa
  | .slice c o => sliceKey (c * sliceSize + o)
  | .desc o => 2 ^ 60 + o

def Target.kind : Target → Nat
  | .main t => t.kind
  | _ => 0

/-- An access on behalf of a block to the slice at aperture offset `o` (R110, R111). -/
def checkSliceOf (s : State) (b : Option Block) (c o n : Nat) (x : Nat) : Except AccErr Target :=
  let tc := o / sliceSize
  if 384 ≤ tc then .error .perm
  else if !s.inPart (s.ctx x).part tc then .error .perm
  else if !windowOkOf s b c tc (o % sliceSize) n then .error .scratch
  else .ok (.slice tc (o % sliceSize))

/-- The same by a thread of a slot (R110, R111). -/
def checkSlice (s : State) (c slot o n : Nat) (x : Nat) : Except AccErr Target := checkSliceOf s (s.winBlock? c slot) c o n x

/-- First and last key of a copied-out allocation. -/
def CopyOut.lo (r : CopyOut) : Nat := sliceKey (r.core * sliceSize + r.base)
def CopyOut.hi (r : CopyOut) : Nat := r.lo + r.size

/-- Bytes at key `k` are held from an access of context `x`: until a fabric publish (R158), or because their slice allocation,
one of the context's, has been copied out (R391). -/
def linesHeld (s : State) (x k n : Nat) : Bool :=
  s.heldLines.any (fun l => k / 256 ≤ l && l ≤ (k + n - 1) / 256)
    || s.copiedOut.any (fun r => r.ctx == x && r.lo < k + n && k < r.hi)

/-- Writes of context `x` reach memory, or its allocations where they are copied out (R391). -/
def State.applyWrites (s : State) (x : Nat) (o : Overlay) : State :=
  let out := fun (r : CopyOut) (c : Host.Cell) => r.ctx == x && r.lo ≤ c.1 && c.1 < r.hi
  { s with
    mem := Memory.apply s.mem (o.filter (fun c => !s.copiedOut.any (fun r => out r c)))
    copiedOut := s.copiedOut.map (fun r => { r with cells := Memory.apply r.cells (o.filter (out r)) }) }

/-- Data of the line of key `k` have failed their check: quarantined, or not yet consumed (R388). -/
def lineErr (s : State) (k n : Nat) : Option Nat :=
  let l := k / 256
  let l' := (k + n - 1) / 256
  if s.quar.contains l || s.quar.contains l' then some 8
  else match Tab.find? s.badLines l, Tab.find? s.badLines l' with
    | some e, _ => some e
    | none, some e => some e
    | none, none => none

/-- Checks an access of `n` bytes at `va` by a thread, aligned to `al`, in the order of R124. -/
def checkAcc (s : State) (c slot : Nat) (va : Word) (n al : Nat) (need : Need) : Except AccErr Target :=
  match s.block? c slot with
  | none => .error .perm
  | some b =>
    let x := s.ctxOf b
    if va.toNat % al ≠ 0 then .error .align
    else match region va with
      | .reserved => .error .perm
      | .multicast => .error .perm
      | .descriptor o => if need == .read then .ok (.desc o) else .error .perm
      | .alias_ o =>
        if need == .fetch then .error .perm
        else match s.winBlock? c slot with
        | none => .error .scratch
        | some w => if w.winSize < o + n then .error .scratch else .ok (.slice c (w.winBase + o))
      | .aperture o => if need == .fetch then .error .perm else checkSlice s c slot o n x
      | .translated =>
        match translate s c x va.toNat need with
        | .ok t => .ok (.main t)
        | .perm => .error .perm
        | .xlate e => .error (.xlate e)
        | .bad p => .error (.memerr 7 (p / 256))

/-- The data error of a checked access: a read, or a write of part of a line (R388). -/
def targetErr (s : State) (t : Target) (n : Nat) : Option Nat :=
  match t with
  | .desc _ => none
  | _ => lineErr s t.key n

/-! ### The plat (R120, R121) -/

/-- The lines of `n` bytes at key `k`. -/
def linesOf (k n : Nat) : List Nat :=
  if n = 0 then [] else (List.range ((k + n - 1) / 256 - k / 256 + 1)).map (fun i => k / 256 + i)

/-- Slice offset `off` of core `c` holds scoped registers of a node of the launch (R17, R51). -/
def Launch.nodeRegs (l : Launch) (c off : Nat) : Bool :=
  l.nodes.any (fun (n : Nat × Node) => n.2.core == c && n.2.base ≤ off && off < n.2.base + l.tree.regBytes (n.1 / 2 ^ 48))

/-- The ownership of a line (R120): what the plat lists; otherwise the window lines of a placed block are PRIVATE to it, and the lines
of a node's scoped registers are SHARED. -/
def State.owner (s : State) (line : Nat) : Plat :=
  match Tab.find? s.plat line with
  | some p => p
  | none =>
    if line < sliceKey 0 / 256 then .unowned
    else
      let o := 256 * line - sliceKey 0
      let c := o / sliceSize
      let k := s.core c
      let off := o % sliceSize
      match (Tab.vals k.arch.blocks ++ k.saved.flatMap (fun (v : Saved) => Tab.vals v.arch.blocks)).find?
          (fun (b : Block) => b.winBase ≤ off && off < b.winBase + b.winSize) with
      | some b => .private_ b.launch b.lin
      | none =>
        match (List.range s.launches.length).find? (fun l => match s.launch? l with
            | some ln => ln.nodeRegs c off
            | none => false) with
        | some l => .shared [l]
        | none => .unowned

/-- The line is tracked for block (launch, lin): it is SHARED, or PRIVATE to another block (R120). -/
def tracked (s : State) (launch lin line : Nat) : Bool :=
  match s.owner line with
  | .unowned => false
  | .private_ l b => !(l == launch && b == lin)
  | .shared _ => true

/-- The open chunk of the owner of a line that becomes SHARED tracks it from now on, if it has written it (R121), and what it has read
of it so far (R138). -/
def State.shareOwner (s : State) (launch lin line : Nat) : State :=
  s.coreNums.foldl (fun s c =>
    let k := s.core c
    if (Tab.vals k.arch.blocks).any (fun b => b.launch == launch && b.lin == lin) then
      let wrote := k.chunk.ovl.any (fun e => e.1 / 256 == line)
      s.updChunk c (fun h => { h with
        wr := if wrote && !h.wr.contains line then line :: h.wr else h.wr
        rd := if h.prd.contains line && !h.rd.contains line then line :: h.rd else h.rd })
    else s) s

/-- A touch of a line by a block (R120). -/
def State.touch (s : State) (launch lin line : Nat) : State :=
  match s.owner line with
  | .unowned => { s with plat := Tab.set .unowned s.plat line (.private_ launch lin) }
  | .private_ l b =>
    if l == launch && b == lin then s
    else ({ s with plat := Tab.set .unowned s.plat line (.shared (if l == launch then [l] else [launch, l])) }
      ).shareOwner l b line
  | .shared ls => if ls.contains launch then s
      else { s with plat := Tab.set .unowned s.plat line (.shared (launch :: ls)) }

/-- A touch made on core `c`; a line that leaves PRIVATE is counted there (R120, R349). -/
def State.touchOn (s : State) (c launch lin line : Nat) : State :=
  let s' := s.touch launch lin line
  match s.owner line with
  | .private_ l b => if l == launch && b == lin then s' else s'.count c 9 1
  | _ => s'

/-- EXACT launches keep the content at the beginning of their phase of bytes that others are about to write; `ks` gives the keys
that matter to each launch (R141). -/
def State.keepOld (s : State) (ks : Nat → List Nat) : State :=
  { s with launches := s.launches.mapIdx (fun i ln =>
      if ln.det == 2 && ln.status == 3 then
        { ln with old := (ks i).foldl (fun o k => if (Tab.find? o k).isSome then o else Tab.put o k (Memory.byte s.mem k)) ln.old }
      else ln) }

/-! ### Views -/

/-- Applies one store or no-return ATOM in flight, or held, to bytes read at key `k` that cover whole 8-byte words, and so every
unit that they meet (R130). -/
def forward (k : Nat) (bs : List Byte) (h : Held) : List Byte :=
  let put := fun (k' : Nat) (ws : List Byte) => (List.range bs.length).map (fun i =>
    if k' ≤ k + i ∧ k + i < k' + ws.length then ws.getD (k + i - k') 0 else bs.getD i 0)
  match h with
  | .store k' ws _ _ => put k' ws
  | .atom a _ _ =>
    if k ≤ a.key ∧ a.key + a.w ≤ k + bs.length then
      put a.key (natLe a.w (atomApply a.aop (8 * a.w) (leNat ((bs.drop (a.key - k)).take a.w)) a.x.toNat a.cmp.toNat))
    else bs
  | _ => bs

/-- The place of a held effect in its core's issue order (R130). -/
def Held.ord (h : Held) : Nat :=
  match h with
  | .store _ _ _ n => n
  | .atom _ _ n => n
  | _ => 0

/-- Held effects in issue order. -/
def issueOrder (hs : List Held) : List Held := hs.insertionSort (fun a b => a.ord ≤ b.ord)

/-- The stores that a core's EXACT blocks hold. -/
def exactStores (s : State) (c : Nat) : List Held := (Tab.vals (s.core c).arch.blocks).flatMap (fun (b : Block) => b.pheld)

/-- The stores that a core has issued and not yet seen performed, as its threads' loads see them: released ones, those of its open
chunk, and those that its EXACT blocks hold, in issue order (R126, R130, R139). -/
def ownStores (s : State) (c : Nat) : List Held :=
  issueOrder ((s.flights.filter (fun f => f.core == c)).map (fun f => f.eff) ++ (s.core c).chunk.held ++ exactStores s c)

/-- Bytes of a RELEASE or STREAM page as core `c` reads them: its L1 copy or memory, with the stores that its threads have issued
forwarded (R117, R126, R130, R145). -/
def relRead (s : State) (c : Nat) (k n : Nat) : List Byte :=
  let lo := k / 8 * 8
  let m := (k + n + 7) / 8 * 8 - lo
  let base := match (s.core c).l1.find? (fun e => e.line == k / 256) with
    | some e => Memory.read e.cells lo m
    | none => s.readMem lo m
  (((ownStores s c).foldl (forward lo) base).drop (k - lo)).take n

/-- A line is PRIVATE to a block, or becomes so with the block's next touch (R120; log 31). -/
def ownLine (s : State) (b : Block) (line : Nat) : Bool :=
  s.owner line == .private_ b.launch b.lin || s.owner line == .unowned

/-- The bytes that a served EXACT block has written in place: those of lines PRIVATE to it (R142). -/
def inPlace (s : State) (c : Nat) : Overlay :=
  match s.winBlock? c handlerSlot with
  | some b => if s.isExact 0 b then b.pover.filter (fun e => ownLine s b (e.1 / 256)) else []
  | none => []

/-- Bytes of COMMITTED memory as a slot's threads read them: through the EXACT phase store of the block over the content at the
phase's beginning, or through the core's open chunk, which for the handler lies over what the served block has written in place
(R138, R141, R142). -/
def comRead (s : State) (c slot : Nat) (k n : Nat) : List Byte :=
  match s.block? c slot with
  | none => s.readMem k n
  | some b =>
    if s.isExact slot b then
      (List.range n).map (fun i => match Tab.find? b.pover (k + i) with
        | some v => v
        | none => overByte (s.launchOf b).old s.mem (k + i))
    else if slot = handlerSlot then
      (List.range n).map (fun i => match Tab.find? (s.core c).chunk.ovl (k + i) with
        | some v => v
        | none => overByte (inPlace s c) s.mem (k + i))
    else overRead (s.core c).chunk.ovl s.mem k n

/-- The bytes that a thread reads at a checked target. -/
def readTarget (s : State) (c slot ltid : Nat) (t : Target) (n : Nat) : List Byte :=
  match t with
  | .desc o => descBytes s c slot ltid o n
  | .slice tc o => comRead s c slot (sliceKey (tc * sliceSize + o)) n
  | .main x => if x.kind = 0 then comRead s c slot x.pa n else relRead s c x.pa n

/-- The chunk reads lines of COMMITTED memory: touches and the read signature (R120, R132, R135). -/
def State.trackRead (s : State) (c slot : Nat) (k n : Nat) : State :=
  match s.winBlock? c slot with
  | none => s
  | some b =>
    let ex := match s.block? c slot with
      | some b' => s.isExact slot b'
      | none => false
    (linesOf k n).foldl (fun s l =>
      let tr := tracked s b.launch b.lin l
      let s := s.touchOn c b.launch b.lin l
      if ex then s
      else if tr then s.updChunk c (fun h => { h with rd := if h.rd.contains l then h.rd else l :: h.rd })
      else s.updChunk c (fun h => { h with prd := if h.prd.contains l then h.prd else l :: h.prd })) s

/-- An access meets a COMMITTED line in the L1, or misses it; `keep` puts it there (R116, R117, R349). -/
def State.l1Meet (s : State) (c line : Nat) (keep : Bool) : State :=
  if (s.core c).l1c.contains line then s
  else (s.count c 6 1).updCore c (fun k => { k with l1c := if keep then line :: k.l1c else k.l1c })

/-- The effects of a read beside its value: translation bits, tracking, and the L1 copy of a RELEASE or STREAM line
unless `cp` is `msc`, with its miss (R117, R253, R349, R380). -/
def State.noteRead (s : State) (c slot : Nat) (t : Target) (n cp : Nat) (need : Need) : State :=
  match t with
  | .desc _ => s
  | .slice tc o => s.trackRead c slot (sliceKey (tc * sliceSize + o)) n
  | .main x =>
    let ctx := match s.block? c slot with
      | some b => s.ctxOf b
      | none => 0
    let s := s.noteXlat c ctx x need
    if x.kind = 0 then (s.trackRead c slot x.pa n).l1Meet c (x.pa / 256) (cp != 1)
    else
      let l := x.pa / 256
      if (s.core c).l1.any (fun e => e.line == l) then s
      else if cp = 1 then s.count c 6 1
      else (s.count c 6 1).updCore c (fun k => { k with l1 := ⟨l, x.kind == 2, Memory.line s.mem l⟩ :: k.l1 })

/-- Adds the numbers of `new` that a list does not hold. -/
def addNew (old new : List Nat) : List Nat := new.foldl (fun ls l => if ls.contains l then ls else l :: ls) old

/-- The 64-byte granules of `n` bytes at key `k` (R132). -/
def granulesOf (k n : Nat) : List Nat :=
  if n = 0 then [] else (List.range ((k + n - 1) / 64 - k / 64 + 1)).map (fun i => k / 64 + i)

/-- A key lies in the slice of core `c`. -/
def inSlice (c k : Nat) : Bool := sliceKey (c * sliceSize) ≤ k && k < sliceKey (c * sliceSize + sliceSize)

/-- Stores bytes to COMMITTED memory in a slot's view (R132, R141-R143). -/
def State.comWrite (s : State) (c slot : Nat) (k : Nat) (bs : List Byte) : State :=
  match s.block? c slot, s.winBlock? c slot with
  | some b, some w =>
    let tr := (linesOf k bs.length).filter (fun l => tracked s w.launch w.lin l)
    let s := (linesOf k bs.length).foldl (fun s l => s.touchOn c w.launch w.lin l) s
    if s.isExact slot b then
      s.updBlock c slot (fun b => { b with
        pover := overWrite b.pover k bs
        plines := addNew b.plines (linesOf k bs.length) })
    else
      let own := inSlice c k
      s.updChunk c (fun h => { h with
        ovl := overWrite h.ovl k bs
        wr := addNew h.wr tr
        grans := if own then addNew h.grans (granulesOf k bs.length) else h.grans })
  | _, _ => s

/-- A store to a RELEASE or STREAM page: held until the chunk commits, or until the EXACT phase ends (R139). -/
def State.relWrite (s : State) (c slot : Nat) (h : Held) : State :=
  match s.block? c slot with
  | none => s
  | some b =>
    if s.isExact slot b then s.updBlock c slot (fun b => { b with pheld := b.pheld ++ [h] })
    else s.updChunk c (fun k => { k with held := k.held ++ [h] })

/-- A thread stores bytes at a checked target, with the effects of the access on translation bits (R380). The 64-bit halves of a
store to a RELEASE or STREAM page are separate writes, and which is performed first is not fixed (R123, R127). -/
def State.writeTarget (s : State) (c slot : Nat) (t : Target) (bs : List Byte) (need : Need) : State :=
  match t with
  | .desc _ => s
  | .slice tc o => s.comWrite c slot (sliceKey (tc * sliceSize + o)) bs
  | .main x =>
    let ctx := match s.block? c slot with
      | some b => s.ctxOf b
      | none => 0
    let s := s.noteXlat c ctx x need
    if x.kind = 0 then (s.comWrite c slot x.pa bs).l1Meet c (x.pa / 256) true
    else if bs.length ≤ 8 then s.relWrite c slot (.store x.pa bs (x.kind == 2) s.tick)
    else
      let lo := Held.store x.pa (bs.take 8) (x.kind == 2) s.tick
      let hi := Held.store (x.pa + 8) (bs.drop 8) (x.kind == 2) s.tick
      if Config.freePick s.tick % 2 = 0 then (s.relWrite c slot lo).relWrite c slot hi else (s.relWrite c slot hi).relWrite c slot lo

/-- Clears the reservations of other threads of a core on a unit that is written; those of an EXACT block only when the block itself
writes, and a write of an EXACT block clears no other block's (R151, R258). -/
def State.clearResv (s : State) (c slot ltid : Nat) (k n : Nat) : State :=
  let ex := fun (sl : Nat) => (s.block? c sl).any (fun b => s.isExact sl b)
  s.updArch c (fun a => { a with blocks := Tab.mapV a.blocks (fun sl b =>
    if sl != slot && (ex sl || ex slot) then b
    else { b with threads := b.threads.map (fun th =>
      match th.resv with
      | some (rk, rn) =>
        if (sl == slot && th.ltid == ltid) || rk + rn ≤ k || k + n ≤ rk then th else { th with resv := none }
      | none => th) }) })

end Sys2Proof.Machine
end

