-- ==== Sys2Proof/Machine/Leave.lean ====
section
/-! DEFINITION. The ranges an engine command reads and writes, and the checks made over them when the command leaves
its core (R118, R157, R282, R299). -/

namespace Sys2Proof.Machine

/-- Bits `lo` to `lo + n - 1` of a parameter word, as a number. -/
def field (w : Word) (lo n : Nat) : Nat := (w.toNat / 2 ^ lo) % 2 ^ n

/-- Parameter `i` of a command. -/
def param (ps : List Word) (i : Nat) : Word := ps.getD i 0

/-- Bytes of an element of CHAIN's type (R303). -/
def chainBytes (ty : Nat) : Nat := if ty = 0 || ty = 4 then 8 else if ty = 1 || ty = 5 then 4 else 2

/-- An operation of CHAIN names Y (R303). -/
def chainUsesY (ops : Word) (j : Nat) : Bool :=
  match j with
  | 0 => false
  | j + 1 => if field ops (8 * (7 - j)) 4 = 0 then false
      else field ops (8 * (7 - j) + 4) 2 == 0 || chainUsesY ops j

/-- Bytes of an ACCLD or ACCST element by the code of ofmt (R287). -/
def ofmtBytes (code : Nat) : Nat := if code = 0 then 8 else if code = 1 then 4 else 2

/-- Half-bytes of a matrix operand element by format code (R288). -/
def mfmtNibbles (code : Nat) : Nat :=
  if code = 0 then 16 else if code = 1 then 8 else if code = 2 || code = 3 then 4 else if code ≤ 7 then 2 else 1

/-- Rows of a matrix operand: `n` rows of `len` elements from a descriptor, in the cluster of core `c` (R289). -/
def tileRanges (c : Nat) (desc : Word) (n len fmt : Nat) : List (Word × Nat × Need) :=
  (List.range n).map (fun r =>
    (BitVec.ofNat 64 (apertureBase + ((c / 16) * 16 + field desc 23 4) * sliceSize + field desc 0 23
      + r * field desc 32 24), (len * mfmtNibbles fmt + 1) / 2, Need.read))

/-- The address ranges of a command, for the whole-range checks (R299, R303, R296, R297, R298, R302, R306). -/
def cmdRanges (c fn : Nat) (ps : List Word) (fmtw : Word) : List (Word × Nat × Need) :=
  let p := param ps
  match fn with
  | 0x00 =>
    let m := field (p 3) 8 12
    let n := field (p 3) 20 12
    let k := field (p 3) 32 16
    let fa := field (p 2) 0 4
    let fb := field (p 2) 4 4
    (if (p 2).getLsbD 25 then tileRanges c (p 0) k m fa else tileRanges c (p 0) m k fa)
      ++ (if (p 2).getLsbD 26 then tileRanges c (p 1) n k fb else tileRanges c (p 1) k n fb)
  | 0x03 => (List.range (field (p 0) 8 12)).map (fun i =>
      (p 1 + BitVec.ofNat 64 i * p 2, field (p 0) 20 12 * ofmtBytes (field fmtw 17 4), Need.read))
  | 0x04 => (List.range (field (p 0) 8 12)).map (fun i =>
      (p 1 + BitVec.ofNat 64 i * p 2, field (p 0) 20 12 * ofmtBytes (field fmtw 17 4), Need.write))
  | 0x05 => [(p 0, 32 * (field (p 1) 4 3 + 1), .read)]
  | 0x06 => [(p 0, field (p 1) 32 13, .read)]
  | 0x07 => if p 1 = 0 then [] else [(p 1, 8, .write)]
  | 0x20 => [(p 0, field (p 2) 0 40, .write), (p 1, field (p 2) 0 40, .read)]
  | 0x21 => [(p 0, field (p 2) 0 40, .write), (p 1, field (p 2) 0 40, .read)]
  | 0x22 => [(p 0, field (p 3) 0 32 * 2 ^ field (p 4) 0 4, .write), (p 2, 4 * field (p 3) 0 32, .read)]
  | 0x23 => [(p 1, field (p 3) 0 32 * 2 ^ field (p 4) 0 4, .read), (p 2, 4 * field (p 3) 0 32, .read)]
  | 0x24 => [(p 0, field (p 2) 0 32, .write), (p 1, field (p 2) 0 32 / 4 * 3, .read)]
  | 0x25 => [(p 0, field (p 1) 0 40, .write)]
  | 0x27 => [(p 1, field (p 2) 0 40, .read)]
  | 0x40 =>
    let n := field (p 3) 0 40 * chainBytes (field (p 3) 40 3)
    [(p 0, n, .write), (p 1, n, .read)] ++ (if chainUsesY (p 4) 8 then [(p 2, n, .read)] else [])
  | 0x60 => [(p 0, 128, .read)]
  | 0x61 => [(p 2, 64, .read)]
  | _ => []

/-- Pieces of a range that lie in one 64 KiB granule each. -/
def pieces (va n : Nat) : List (Nat × Nat) :=
  if n = 0 then []
  else (List.range ((va + n - 1) / 65536 - va / 65536 + 1)).map (fun i =>
    let lo := max va ((va / 65536 + i) * 65536)
    let hi := min (va + n) ((va / 65536 + i + 1) * 65536)
    (lo, hi - lo))

/-- The parts of a range that the checks take one by one: the part in the scratch aperture as a whole, and the granules of the others
(R111, R118). -/
def checkParts (va n : Nat) : List (Nat × Nat) :=
  let isAp := fun (p : Nat × Nat) => match region (BitVec.ofNat 64 p.1) with
    | .aperture _ => true
    | _ => false
  let ps := pieces va n
  (match ps.filter isAp with
    | [] => []
    | p :: rest => [(p.1, (rest.map (fun q => q.2)).foldl (fun a b => a + b) p.2)]) ++ ps.filter (fun p => !isAp p)

/-- The check of one piece: ENGINE 0x06 or 0x07, and the COMMITTED bytes it holds (R282). An alias address, which only a chain entry can still
hold here, is 0x06: the manual does not say what it gives (log 102, DESIGN CHOICE). -/
def pieceCheck (s : State) (b : Option Block) (c x : Nat) (va n : Nat) (need : Need) : Except Nat Nat :=
  match region (BitVec.ofNat 64 va) with
  | .translated =>
    if 2 ^ 64 ≤ va then .error 6
    else match translate s c x va need with
      | .ok t => .ok (if t.kind = 0 then n else 0)
      | .perm => .error 6
      | .xlate _ => .ok 0
      | .bad _ => .ok 0
  | .aperture o =>
    match checkSliceOf s b c o n x with
    | .ok _ => .ok n
    | .error .scratch => .error 7
    | .error _ => .error 6
  | _ => .error 6

/-- The checks of a range, whose lowest subcode counts. -/
def rangeCheck (s : State) (b : Option Block) (c x : Nat) (r : Word × Nat × Need) : Except Nat Nat :=
  (checkParts r.1.toNat r.2.1).foldl (fun acc p => match acc, pieceCheck s b c x p.1 p.2 r.2.2 with
    | .error e, .error f => .error (min e f)
    | .error e, _ => .error e
    | _, .error f => .error f
    | .ok k, .ok j => .ok (k + j)) (.ok 0)

/-- Two ranges share a byte. -/
def overlap (a b : Word × Nat × Need) : Bool :=
  a.2.1 != 0 && b.2.1 != 0 && a.1.toNat < b.1.toNat + b.2.1 && b.1.toNat < a.1.toNat + a.2.1

/-- The format word that a stream will hold when some queued commands have run, as far as they are known (R295). -/
def fmtAfter (qs : List Cmd) (w : Word) : Word := qs.foldl (fun w q => if q.fn = 0x01 then param q.ps 0 else w) w

/-- The check of a command that block `b` issued on core `c`, when it leaves (R282, R303): overlaps (0x01) of the copy functions and CHAIN, then permissions (0x06),
scratch (0x07) and the limit of 16 MiB of COMMITTED destination bytes (0x08), the lowest reported. -/
def leaveCheck (s : State) (b : Option Block) (c x fn : Nat) (ps : List Word) (fmtw : Word) : Option Nat :=
  let rs := cmdRanges c fn ps fmtw
  let ws := rs.filter (fun r => r.2.2 == .write)
  let rd := rs.filter (fun r => r.2.2 == .read)
  let copyFn := 0x20 ≤ fn && fn ≤ 0x25
  let chainBad := fn = 0x40 && ws.any (fun w => rd.any (fun r => r.1 != w.1 && overlap w r))
  if (copyFn && ws.any (fun w => rd.any (overlap w))) || chainBad then some 1
  else if fn = 0x24 && ws.any (fun w => w.2.1 != 0 && (match region w.1 with
      | .aperture _ => false
      | _ => true)) then some 6
  else
    let res := rs.map (fun r => (r.2.2, rangeCheck s b c x r))
    if res.any (fun r => r.2 matches .error 6) then some 6
    else if res.any (fun r => r.2 matches .error _) then some 7
    else
      let dst := (res.map (fun r => match r with
        | (.write, .ok k) => k
        | _ => 0)).sum
      if 16 * 2 ^ 20 < dst && fn < 0x60 && fn != 0x27 then some 8 else none

end Sys2Proof.Machine
end

