-- ==== Sys2Proof/Machine/Ops.lean ====
section
/-! DEFINITION. Operations shared by the meanings: event records (R350, R430), the ends, commits and squashes of chunks
(R132-R139), taking a fault and entering the handler (R343, R344), ending it (R357), and returning from it (R356). -/

namespace Sys2Proof.Machine

/-! ### Event records -/

/-- A 64-byte record: header of R350 and fields by offset. -/
def record (ty flags ctx : Nat) (seq : Word) (fields : List (Nat × List Byte)) : List Byte :=
  let o := overWrite (overWrite (overWrite (overWrite [] 0 (natLe 2 ty)) 2 (natLe 1 flags)) 3 (natLe 1 ctx)) 8
    (natLe 8 seq.toNat)
  overRead (fields.foldl (fun o f => overWrite o f.1 f.2) o) [] 0 64

/-- A ring with this base and log2 word, producer and consumer has room (R350). -/
def ringRoom (ring prod cons : Word) : Bool :=
  let lg := (ring.extractLsb' 0 5).toNat
  (ring.extractLsb' 12 44) != 0 && 6 ≤ lg && lg ≤ 16 && (prod - cons).toNat < 2 ^ lg

/-- Key of the record that a producer index names. -/
def ringSlot (ring prod : Word) : Nat :=
  (ring.extractLsb' 12 44).toNat * 4096 + 64 * (prod.toNat % 2 ^ (ring.extractLsb' 0 5).toNat)

/-- Raises an MSI-X vector; one already pending is one message (R422). -/
def State.raise (s : State) (v : Nat) : State := if s.msix.contains v then s else { s with msix := s.msix ++ [v] }

/-- Raises the vector of an event-vector register when it is enabled (R420). -/
def State.raiseVec (s : State) (vec : Word) : State :=
  if vec.getLsbD 15 then s.raise (vec.extractLsb' 0 11).toNat else s

/-- Posts a record to a context's event ring, written by `w`; while the ring is full it is dropped, but takes its number
(R350). -/
def State.postBy (s : State) (w : State → Nat → List Byte → State) (x ty flags : Nat) (fields : List (Nat × List Byte)) :
    State :=
  let c := s.ctx x
  let s' := s.updCtx x (fun c => { c with eseq := c.eseq + 1 })
  if ringRoom c.ering c.eprod c.econs then
    ((w s' (ringSlot c.ering c.eprod) (record ty flags x c.eseq fields)).updCtx x
      (fun c => { c with eprod := c.eprod + 1 })).raiseVec c.evec
  else s'

/-! ### Signatures, squash and commit (R135-R139) -/

/-- The context of a core: that of its blocks, or of its engine state. -/
def State.coreCtx (s : State) (c : Nat) : Nat :=
  match (Tab.vals (s.core c).arch.blocks).head? with
  | some b => s.ctxOf b
  | none => ((s.core c).engCtx).getD 0

/-- A served block fails (R357): its threads stop for good, its faults are discarded, its launch is marked. The
threads count as exited once its engine commands have completed. -/
def State.failBlock (s : State) (c slot : Nat) : State :=
  match s.block? c slot with
  | none => s
  | some b =>
    let s := s.updBoth c (fun a => { a.updBlock slot (fun b => { b with
        failing := true, deferred := []
        threads := b.threads.map (fun th => if th.exited then th else { th with wait := .stopped, resv := none }) }) with
      faultq := a.faultq.filter (fun f => f.slot != slot), fwd := a.fwd.filter (fun f => f.2.slot != slot) })
    s.updLaunch b.launch (fun l => { l with failed := true })

/-- Two sets of lines have intersecting signatures (R135). -/
def sigMeet (a b : List Nat) : Bool := a.any (fun x => b.any (fun y => Config.lineHash x == Config.lineHash y))

/-- The occupancies of a core's lehr registers run to their end (R67, R340). -/
def CoreArch.flipsEnd (a : CoreArch) : CoreArch :=
  { a with blocks := Tab.mapV a.blocks (fun _ b => { b with lehrs := Tab.mapV b.lehrs (fun _ r => { r with busy := false }) }) }

/-- What a squash restores: the chunk's start, except the blocks under EXACT, of which it restores the one that the handler has
changed in the chunk (R137, R140, R342). -/
def restore (s : State) (k : CoreSt) : CoreArch :=
  match k.chunk.snap with
  | none => k.arch
  | some a =>
    let own := fun (e : Nat × Block) => s.isExact e.1 e.2 && some e.1 != k.chunk.served
    let ex := k.arch.blocks.filter own
    let old := a.blocks.filter (fun e => !own e)
    { a with blocks := ex.foldl (fun t e => Tab.put t e.1 e.2) old }

/-- Commands that have not left a core are withdrawn with its chunk (R137, R139). -/
def State.dropUnleft (s : State) (c : Nat) : State :=
  let f := fun (st : Stream) => { st with q := st.q.filter (fun q => q.left || q.core != c) }
  let s := s.updCore c (fun k => { k with eng := { k.eng with streams := Tab.mapV k.eng.streams (fun _ st => f st) } })
  { s with ctxs := Tab.mapV s.ctxs (fun _ x => { x with streams := Tab.mapV x.streams (fun _ st => f st) }) }

/-- The clocks of releases that only core `c` sees: those on units of the given keys, and the others. -/
def splitClk (c : Nat) (ks : List Nat) (hs : List (Nat × Nat × RelMark)) : List (Nat × Nat × RelMark) × List (Nat × Nat × RelMark) :=
  hs.partition (fun h => h.1 == c && ks.any (fun k => k / 8 == h.2.1))

/-- Bytes that core `c` has written reach the other cores, with the releases before them (R147, R162). -/
def State.showClk (s : State) (c x : Nat) (ks : List Nat) : State :=
  if (s.ctx x).heldClk.isEmpty then s
  else s.updCtx x (fun cx =>
    let p := splitClk c ks cx.heldClk
    { cx with
      heldClk := p.2
      locClk := p.1.foldl (fun t h => if (Tab.get [] t h.2.1).contains h.2.2 then t
        else Tab.set [] t h.2.1 (h.2.2 :: Tab.get [] t h.2.1)) cx.locClk })

/-- The bytes that a held store or ATOM writes. -/
def keysOfHeld (h : Held) : List Nat :=
  match h with
  | .store k bs _ _ => (List.range bs.length).map (fun i => k + i)
  | .atom a _ _ => (List.range a.w).map (fun i => a.key + i)
  | _ => []

/-- A squashed chunk's accesses and the clocks of its writes are forgotten; its records stay (R137, R337). -/
def State.unstamp (s : State) (c x : Nat) : State :=
  let live := (ownStores s c).flatMap keysOfHeld
  s.updCtx x (fun cx => { cx with
    accesses := cx.accesses.filter (fun a => a.chunk != some c)
    heldClk := cx.heldClk.filter (fun h => h.1 != c || live.any (fun k => k / 8 == h.2.1)) })

/-- A squash of the core's open chunk (R137), once the occupancies of its lehr registers have ended (R340): state restored, writes
and held effects discarded, reservations cleared, beats withdrawn; the priority request after eight in a row (R46). When the shadow bank or the undo log has failed, every block of the core fails instead (R388). -/
def State.squash (s : State) (c : Nat) : State :=
  let s := s.updBoth c CoreArch.flipsEnd
  let k := s.core c
  let a := restore s k
  let a := { a with blocks := Tab.mapV a.blocks (fun sl b =>
    if s.isExact sl b then b else { b with threads := b.threads.map (fun th => { th with resv := none }) }) }
  let s := s.setCore c { k with
    arch := a, chunk := { Chunk.new with prio := k.chunk.prio }, l1c := k.l1c.filter (fun l => !k.chunk.ovl.any (fun e => e.1 / 256 == l)), squashes := k.squashes + 1, again := min 8 (k.again + 1)
    prioReq := k.prioReq || 8 ≤ k.again + 1 }
  let s := if (s.core c).prioReq && !s.priority.contains c then { s with priority := s.priority ++ [c] } else s
  let s := (s.dropUnleft c).unstamp c (s.coreCtx c)
  let s := s.coreNums.foldl (fun s c' => s.updBoth c' (fun a => { a with
    nbr := Tab.mapV a.nbr (fun _ q => q.filter (fun b => b.src != some c)) })) s
  let s := s.count c 4 1
  match k.chunk.bad with
  | none => s
  | some sub =>
    let x := s.coreCtx c
    let s := (s.core c).arch.blocks.foldl (fun s e => s.failBlock c e.1) s
    let s := s.updBoth c (fun a => { a with serving := none, grpValid := false, descs := [], blocks := Tab.del a.blocks handlerSlot })
    s.postBy State.writeMem x 0x51 0 [(0x18, natLe 8 sub)]

/-- Squashes every open chunk of a partition's cores, except `c`'s, that meets a write signature (R136). -/
def State.broadcast (s : State) (part : Nat) (c : Option Nat) (wr : List Nat) : State :=
  if wr.isEmpty then s
  else s.coreNums.foldl (fun s c' =>
    if some c' == c || !s.inPart part c' then s
    else
      let h := (s.core c').chunk
      let s := s.updCore c' (fun k => { k with l1c := k.l1c.filter (fun l => !wr.contains l) })
      if !h.prio && (sigMeet wr h.rd || sigMeet wr h.wr) then s.squash c' else s) s

/-- Clears the reservations, on other cores, on units that a commit writes (R151). -/
def State.breakResv (s : State) (c : Nat) (o : Overlay) : State :=
  s.coreNums.foldl (fun s c' => if c' = c then s else s.updBoth c' (fun a => { a with
    blocks := Tab.mapV a.blocks (fun sl b => if s.isExact sl b then b else
      { b with threads := b.threads.map (fun th => match th.resv with
        | some (rk, rn) => if o.any (fun e => rk ≤ e.1 && e.1 < rk + rn) then { th with resv := none } else th
        | none => th) }) })) s

/-- A line leaves PRIVATE by a touch from outside the cores, which is counted where its owner stands (R349; log 91). -/
def State.countShared (s : State) (o b : Nat) : State :=
  s.coreNums.foldl (fun s c => if (Tab.vals (s.core c).arch.blocks).any (fun k => k.launch == o && k.lin == b) then s.count c 9 1
    else s) s

/-- A touch of lines by the management core, the host or a peer: one by another block (R120). -/
def State.outTouch (s : State) (ls : List Nat) : State :=
  ls.foldl (fun s l => match s.owner l with
    | .private_ o b => (({ s with plat := Tab.set .unowned s.plat l (.shared [o]) }).shareOwner o b l).countShared o b
    | _ => s) s

/-- A write by the management core or the host: a touch by another block, seen by every open chunk, and the end of reservations on
the bytes (R120, R136, R151). -/
def State.outWrite (s : State) (key : Nat) (bs : List Byte) : State :=
  let ls := linesOf key bs.length
  let s := (s.outTouch ls).keepOld (fun _ => (List.range bs.length).map (fun i => key + i))
  let s := (s.writeMem key bs).breakResv 384 (overWrite [] key bs)
  (List.range 8).foldl (fun s p => s.broadcast p none ls) s

/-- Something is put into a context's save area: what, and where in it, the manual does not state (R158, R389, R391; log 52). -/
def State.writeSave (s : State) (x : Nat) : State :=
  let w := Config.saveImage s.tick
  let k := ((s.ctx x).save.toNat + w.1) % 2 ^ 56
  s.writeMem k (w.2.take (2 ^ 56 - k))

/-- A core takes up a context's state; that of the context before it goes to its save area (R370). -/
def State.takeCore (s : State) (c x : Nat) : State :=
  let s := match (s.core c).engCtx with
    | some y => if y = x then s else s.writeSave y
    | none => s
  s.updCore c (fun k => k.takeCtx x)

/-- Posts a record to a context's event ring (R350). -/
def State.post (s : State) (x ty flags : Nat) (fields : List (Nat × List Byte)) : State :=
  s.postBy State.outWrite x ty flags fields

/-- Posts a record to the device's event ring (R430). -/
def State.postDev (s : State) (ty flags : Nat) (fields : List (Nat × List Byte)) : State :=
  let s' := { s with deseq := s.deseq + 1 }
  if ringRoom s.dering s.deprod s.decons then
    ({ s'.outWrite (ringSlot s.dering s.deprod) (record ty flags 0xFF s.deseq fields) with deprod := s.deprod + 1 }
      ).raiseVec s.devec
  else s'

/-! ### Launch records (R360) -/

/-- End states of a launch (R361). -/
def isEnd (st : Nat) : Bool := st = 4 || st = 5 || 0x20 ≤ st

/-- Writes a launch's status, in the model and in its record (R361). -/
def State.setStatus (s : State) (l st : Nat) : State :=
  match s.launch? l with
  | none => s
  | some ln =>
    let s := s.updLaunch l (fun ln => { ln with status := st })
    if ln.parent.isSome then s else s.outWrite (ln.rec_ + 0x34) (natLe 1 st)

/-- The firmware's write at a virtual address of a context, as a write by the context: it sets the leaf's `a` and `d` (R380, R429). -/
def State.fwWrite (s : State) (x va : Nat) (bs : List Byte) : Option State :=
  match walkRes s x va .write with
  | .ok t => some ((s.markLeaf t .write).outWrite t.pa bs)
  | _ => none

/-- EMIT reservations for a template that are held in chunks or phases, those of pre-empted blocks among them (R42, R390). -/
def reserved (s : State) (tmpl : Nat) : Nat :=
  let isE := fun (h : Held) => match h with
    | .emit t _ _ => t == tmpl
    | _ => false
  let ofArch := fun (a : CoreArch) => ((Tab.vals a.blocks).map (fun (b : Block) => (b.pheld.filter isE).length)).sum
  ((Tab.vals s.cores).map (fun k => (k.chunk.held.filter isE).length + ofArch k.arch
    + (k.saved.map (fun sv => ofArch sv.arch)).sum)).sum

/-- The live launch dequeued from a record. -/
def launchOfRec (s : State) (rec : Nat) : Option Nat :=
  ((List.range s.launches.length).reverse).find? (fun l => match s.launch? l with
    | some ln => ln.rec_ == rec && ln.parent.isNone
    | none => false)

/-- The template dequeued from a record, unless its status is an end state (R360, R367). -/
def liveTemplate (s : State) (tmpl : Nat) : Option (Nat × Launch) :=
  (launchOfRec s tmpl).bind (fun l => (s.launch? l).bind (fun ln => if isEnd ln.status then none else some (l, ln)))

/-- Records appended to a template's input queue: since its dequeue, or before the next one (R360, R367; log 86). -/
def appended (s : State) (tmpl : Nat) : Nat :=
  match (launchOfRec s tmpl).bind s.launch? with
  | some ln => if isEnd ln.status then ln.pre else ln.appended
  | none => s.natMem (tmpl + 0x88) 8

/-- Base and log2 of the capacity of a template's input queue, and its threshold: as its dequeue read them, or, before one, as the
record has them (R360; log 86). -/
def inputQueue (s : State) (tmpl : Nat) : Nat × Nat × Nat :=
  match liveTemplate s tmpl with
  | some t => (t.2.inBase, t.2.inLog, t.2.thresh)
  | none => (s.natMem (tmpl + 0x70) 8, min 20 (s.natMem (tmpl + 0x78) 4), max 1 (s.natMem (tmpl + 0x18) 4))

/-- Position `j` of a template's input queue is free (R367). -/
def emitRoom (s : State) (tmpl j : Nat) : Bool :=
  let q := inputQueue s tmpl
  if j < 2 ^ q.2.1 then true
  else match liveTemplate s tmpl with
    | some t => t.2.instDone.contains ((j - 2 ^ q.2.1) / q.2.2)
    | none => false

/-- Writes an instance block and makes the instance a launch that competes for placement (R367, R429). -/
def State.formOne (s : State) (t i n : Nat) : State :=
  match s.launch? t with
  | none => s
  | some ln =>
    let cap := 2 ^ ln.inLog
    let va := ln.instBase + 64 * (i % cap)
    let blk := natLe 8 ln.arg.toNat ++ natLe 8 (ln.inBase + 64 * ((i * ln.thresh) % cap)) ++ natLe 8 n ++ natLe 8 i
      ++ natLe 32 0
    match s.fwWrite ln.ctx va blk with
    | none => s.updLaunch t (fun ln => { ln with noForm := true })
    | some s =>
      let s := (s.outWrite (ln.rec_ + 0x90) (natLe 8 (i + 1))).updLaunch t (fun ln => { ln with formed := i + 1 })
      let inst := { ln with template := false, parent := some t, instance_ := i, arg := BitVec.ofNat 64 va, status := 2
                            next := 0, withdrawn := [], retired := 0, nodes := [], readyAt := s.mclock
                            readySeq := s.readySeq, instDone := [], lateMark := false }
      { s with launches := s.launches ++ [inst], readySeq := s.readySeq + 1 }

/-- Forms instances while their records are in the queue; `k` bounds the rounds (R367). -/
def State.formUpTo (s : State) (t k : Nat) : State :=
  match k with
  | 0 => s
  | k + 1 =>
    match s.launch? t with
    | none => s
    | some ln =>
      if !ln.template || ln.noForm || !(ln.status == 2 || ln.status == 3) then s
      else if (ln.formed + 1) * ln.thresh ≤ ln.appended then (s.formOne t ln.formed ln.thresh).formUpTo t k
      else if ln.prodDone && ln.formed * ln.thresh < ln.appended then
        s.formOne t ln.formed (ln.appended - ln.formed * ln.thresh)
      else s

/-- Forms every instance whose records are complete (R42, R367). -/
def State.form (s : State) (t : Nat) : State :=
  match s.launch? t with
  | none => s
  | some ln => s.formUpTo t (ln.appended + 1)

/-- Appends an emitted record to the template's input queue (R42, R367). -/
def State.append (s : State) (x tmpl : Nat) (bs : List Byte) : State :=
  let j := appended s tmpl
  let q := inputQueue s tmpl
  let s := (s.fwWrite x (q.1 + 64 * (j % 2 ^ q.2.1)) bs).getD s
  let s := s.outWrite (tmpl + 0x88) (natLe 8 (j + 1))
  match launchOfRec s tmpl with
  | some t => (s.updLaunch t (fun ln => if isEnd ln.status then { ln with pre := j + 1 } else { ln with appended := j + 1 })).form t
  | none => s

/-! ### Chunks -/

/-- Marks a command of a stream as having left its core, with the result of the leave checks under the format word that the commands
before it leave (R155, R282, R295). -/
def Stream.leave (s : State) (c x num : Nat) (view : Overlay) (st : Stream) : Stream :=
  let go := fun (i : Nat) (q : Cmd) =>
    if q.order == num && q.core == c && !q.left then
      { q with left := true, view := view, sentAt := Tab.get 0 (s.core c).sent x
               leaveErr := if q.checked then none else leaveCheck s (q.blk.bind s.issuer?) c x q.fn q.ps (fmtAfter (st.q.take i) st.fmtw) }
    else q
  { st with q := st.q.mapIdx go }

/-- Commands that reach the fabric engine take their numbers and stand behind those that have reached it (R279). -/
def Stream.number (st : Stream) (c num : Nat) : Stream :=
  let mine := st.q.filter (fun q => !q.left && q.core == c && q.order == num)
  { st with
    i := st.i + mine.length
    q := st.q.filter (fun q => q.left) ++ mine.mapIdx (fun j q => { q with num := st.i + 1 + j })
      ++ st.q.filter (fun q => !q.left && !(q.core == c && q.order == num)) }

/-- A command's reply reaches its threads, whether their block is resident or saved (R279, R306). -/
def CoreArch.reply (a : CoreArch) (id : BlockId) (slot : Nat) (tids : List Nat) (reg : BitVec 7) (v : Word) : CoreArch :=
  a.updBlock slot (fun b =>
    if b.launch == id.launch && b.lin == id.lin then
      b.mapTids tids (fun th => { th with v := Tab.set 0 th.v reg.toNat v, bad := th.bad.filter (fun r => r.toNat != reg.toNat) })
    else b)

def State.reply (s : State) (q : Cmd) (v : Word) : State :=
  match q.reply, q.blk with
  | some (slot, tids, reg), some id =>
    let f := fun (a : CoreArch) => a.reply id slot tids reg v
    (s.updBoth q.core f).updCore q.core (fun k => { k with saved := k.saved.map (fun sv => { sv with arch := f sv.arch }) })
  | _, _ => s

/-- A stream of a core's engines, or of a context's fabric engine (R278). -/
def State.stream (s : State) (r : StreamRef) : Stream :=
  if r.eng = 3 then Tab.get Stream.new (s.ctx r.unit).streams r.stream.toNat
  else Tab.get Stream.new (s.core r.unit).eng.streams (16 * r.eng.toNat + r.stream.toNat)

def State.setStream (s : State) (r : StreamRef) (st : Stream) : State :=
  if r.eng = 3 then s.updCtx r.unit (fun cx => { cx with streams := Tab.set Stream.new cx.streams r.stream.toNat st })
  else s.updCore r.unit (fun k => { k with eng := { k.eng with
    streams := Tab.set Stream.new k.eng.streams (16 * r.eng.toNat + r.stream.toNat) st } })

/-- A command leaves its core; one of the fabric engine takes its number and, but for CNTRD, replies (R155, R279). -/
def State.leave (s : State) (c eng stream num x : Nat) (view : Overlay) : State :=
  let r : StreamRef := ⟨BitVec.ofNat 2 eng, if eng = 3 then x else c, BitVec.ofNat 4 stream⟩
  let st := s.stream r
  if eng = 3 then
    let st' := Stream.leave s c x num view (st.number c num)
    let now := fun (q : Cmd) => q.left && st.i < q.num && q.fn != 0x62
    let due := st'.q.filter now
    let clr := { st' with q := st'.q.map (fun q => if now q then { q with reply := none } else q) }
    due.foldl (fun s q => s.reply q (BitVec.ofNat 64 q.num)) (s.setStream r clr)
  else s.setStream r (Stream.leave s c x num view st)

/-- Puts a store or no-return ATOM that leaves the core among those in flight (R139, R266). -/
def State.send (s : State) (c x : Nat) (h : Held) : State :=
  let n := Tab.get 0 (s.core c).sent x
  { s.updCore c (fun k => { k with sent := Tab.set 0 k.sent x (n + 1) }) with flights := s.flights ++ [⟨c, x, n, h⟩] }

/-- Arrivals of exited threads are withdrawn from an object (R261). -/
def dropArrivals (uids : List Nat) (o : Bar) : Bar :=
  let who := o.who.filter (fun u => !uids.contains u)
  if who.length = o.who.length then o else { o with who := who, arrived := who.length }

/-- A thread's number, over all launches. -/
def threadUid (b : Block) (ltid : Nat) : Nat := (b.launch * 2 ^ 32 + b.lin) * 2048 + ltid

/-- Threads that have left their block for good count no more among the arrivals at nodes above the block (R261). -/
def State.withdrawHigh (s : State) (core slot : Nat) (tids : List Nat) : State :=
  match s.block? core slot with
  | none => s
  | some b =>
    s.updLaunch b.launch (fun l => { l with nodes := Tab.mapV l.nodes (fun _ n =>
      { n with bar := dropArrivals (tids.map (threadUid b)) n.bar }) })

/-- Releases one held effect when its chunk commits (R139). -/
def State.release (s : State) (c x : Nat) (h : Held) : State :=
  match h with
  | .store _ _ _ _ => s.send c x h
  | .atom _ _ _ => s.send c x h
  | .cmd eng st num cut => s.leave c eng st num x (cut.getD [])
  | .withdraw slot m => match s.block? c slot with
    | some b => s.updLaunch b.launch (fun l => { l with workReq := l.workReq ++ [(c, slot, m, b.lin)] })
    | none => s
  | .exits slot tids => s.withdrawHigh c slot tids
  | .emit tmpl _ bs => s.append x tmpl bs

/-- The command is an operation that an arm fired (R307). -/
def Cmd.isFired (q : Cmd) : Bool :=
  match q.kind with
  | .fired _ => true
  | _ => false

/-- A command keeps the 64-bit words of some bytes as memory now holds them, unless it keeps them already. -/
def Cmd.keep (q : Cmd) (m : Memory) (ks : List Nat) : Cmd :=
  { q with view := ks.foldl (fun v k =>
      if (Tab.find? v (k / 8 * 8)).isSome then v else overWrite v (k / 8 * 8) (Memory.read m (k / 8 * 8) 8)) q.view }

def Stream.keep (st : Stream) (c : Nat) (m : Memory) (ks : List Nat) (p : Cmd → Bool) : Stream :=
  { st with q := st.q.map (fun q =>
      if q.core == c && q.left && !q.final && !q.isFired && p q then q.keep m ks else q) }

/-- A core is about to write some bytes: the commands that it issued before observe nothing of it, so those that `p`
selects keep the words as they are (R155). An operation that an arm fired keeps nothing (R412). -/
def State.keepWords (s : State) (c x : Nat) (ks : List Nat) (p : Cmd → Bool) : State :=
  let m := s.mem
  (s.updCore c (fun k => { k with eng := { k.eng with
    streams := Tab.mapV k.eng.streams (fun _ st => st.keep c m ks p) } })).updCtx x (fun cx => { cx with
    streams := Tab.mapV cx.streams (fun _ st => st.keep c m ks p) })

/-- Bytes of a RELEASE or STREAM page are written at their home; the writer's own L1 copy follows (R117, R253). -/
def State.homeWrite (s : State) (c k : Nat) (bs : List Byte) : State :=
  (s.writeMem k bs).updCore c (fun cs => { cs with l1 := cs.l1.map (fun e =>
    if (linesOf k bs.length).contains e.line then
      { e with cells := (Memory.write e.cells k bs).filter (fun x => x.1 / 256 == e.line) } else e) })

/-- Performs a store or no-return ATOM of a core at its home (R145, R150). -/
def State.perform (s : State) (c : Nat) (h : Held) : State :=
  match h with
  | .store k bs _ _ => s.homeWrite c k bs
  | .atom a _ _ => s.homeWrite c a.key
      (natLe a.w (atomApply a.aop (8 * a.w) (s.natMem a.key a.w) a.x.toNat a.cmp.toNat))
  | _ => s

/-- An access in flight is performed; commands that its core issued before it do not observe it (R155). -/
def State.land (s : State) (f : Flight) : State :=
  ((s.keepWords f.core f.ctx (keysOfHeld f.eff) (fun q => q.sentAt ≤ f.num)).perform f.core f.eff).showClk f.core f.ctx
    (keysOfHeld f.eff)

/-- A held store or ATOM to a STREAM page. -/
def Held.isStream (h : Held) : Bool :=
  match h with
  | .store _ _ st _ => st
  | .atom _ st _ => st
  | _ => false

/-- The lines that a held store or ATOM writes. -/
def linesOfHeld (h : Held) : List Nat :=
  match h with
  | .store k bs _ _ => linesOf k bs.length
  | .atom a _ _ => linesOf a.key a.w
  | _ => []

/-- Two held effects write one line. -/
def Held.sharesLine (g h : Held) : Bool := (linesOfHeld g).any (fun l => (linesOfHeld h).contains l)

/-- An access in flight comes after one to its line that an EXACT block of its core has issued before and holds (R130, R139). -/
def flightBlocked (s : State) (f : Flight) : Bool :=
  (exactStores s f.core).any (fun h => h.ord < f.eff.ord && h.sharesLine f.eff)

/-- Performs, in issue order, the accesses in flight that `p` selects, but for those behind one that an EXACT block holds (R130). -/
def State.landWhere (s : State) (p : Flight → Bool) : State :=
  let go := fun (f : Flight) => p f && !flightBlocked s f
  ((s.flights.filter go).insertionSort (fun a b => a.eff.ord ≤ b.eff.ord)).foldl (fun s f => s.land f)
    { s with flights := s.flights.filter (fun f => !go f) }

/-- An access in flight that `p` selects waits behind one that an EXACT block holds. -/
def landsBlocked (s : State) (p : Flight → Bool) : Bool := s.flights.any (fun f => p f && flightBlocked s f)

/-- Drops a core's L1 copies of RELEASE lines, and of STREAM lines when `all` (R146, R148, R266). -/
def State.dropL1 (s : State) (c : Nat) (all : Bool) : State :=
  s.updCore c (fun k => { k with l1 := if all then [] else k.l1.filter (fun e => e.stream) })

/-- The logical thread id of a held record; other effects come before them. -/
def heldRank (h : Held) : Nat :=
  match h with
  | .emit _ t _ => t + 1
  | _ => 0

/-- Held effects in the order in which they leave: records by (logical thread id, program order) (R42). -/
def heldOrder (hs : List Held) : List Held := hs.insertionSort (fun a b => heldRank a ≤ heldRank b)

/-- A beat stands at the head of a queue and can be popped (R273). -/
def CoreArch.beat? (a : CoreArch) (key : Nat) : Option Beat :=
  match Tab.get [] a.nbr key with
  | [] => none
  | b :: _ => if b.src.isNone then some b else none

/-- Threads that wait at NBRPOP go on when a beat can be popped: their word issues again (R31, R272). -/
def CoreArch.wakePops (a : CoreArch) : CoreArch :=
  { a with blocks := Tab.mapV a.blocks (fun _ b => { b with threads := b.threads.map (fun th => match th.wait with
      | .nbr dir ch => if (a.beat? (4 * dir + ch)).isSome then { th with wait := .run } else th
      | _ => th) }) }

/-- The words that a chunk has written since the overlay `o`, as they stood then: a command that the chunk issued at that point
observes nothing of the later writes (R155). -/
def lateWords (o ovl : Overlay) (m : Memory) : Overlay :=
  (ovl.filter (fun e => Tab.find? o e.1 != some e.2)).foldl (fun v e =>
    let w := e.1 / 8 * 8
    if (Tab.find? v w).isSome then v else overWrite v w (overRead o m w 8)) []

/-- Held effects with what each command is not to see of its own chunk. -/
def cutHeld (h : Chunk) (m : Memory) : List Held :=
  h.held.map (fun e => match e with
    | .cmd eng st num (some o) => .cmd eng st num (some (lateWords o h.ovl m))
    | e => e)

/-- The keys of a commit whose former content matters to EXACT launch `l`: all but those that the handler has written in place for
a block of it (R141, R142). -/
def commitKeys (s : State) (c l : Nat) (ovl : Overlay) : List Nat :=
  let ks := ovl.map (fun e => e.1)
  match s.winBlock? c handlerSlot with
  | some b => if b.launch = l then ks.filter (fun k => s.owner (k / 256) != .private_ b.launch b.lin) else ks
  | none => ks

/-- Lines that the handler has written in place replace what their EXACT block had written there (R142). -/
def writtenInPlace (s : State) (c : Nat) (ovl : Overlay) (b : Block) : Block :=
  match s.winBlock? c handlerSlot with
  | some w =>
    if w.launch == b.launch && w.lin == b.lin && s.isExact 0 b then
      { b with pover := b.pover.filter (fun e => (Tab.find? ovl e.1).isNone || s.owner (e.1 / 256) != .private_ b.launch b.lin) }
    else b
  | none => b

/-- The open chunk commits (R136): its writes reach memory, conflicting chunks are squashed, its held effects leave,
reservations end, and the next chunk opens. -/
def State.commit (s : State) (c : Nat) : State :=
  let k := s.core c
  let h := k.chunk
  let x := s.coreCtx c
  let ks := h.ovl.map (fun e => e.1)
  let held := cutHeld h s.mem
  let s := (s.keepWords c x ks (fun q => !q.exact_)).keepOld (fun l => commitKeys s c l h.ovl)
  let inPl := writtenInPlace s c h.ovl
  let s := (s.applyWrites x h.ovl).showClk c x ks
  let s := s.updCore c (fun k => { k with
    chunk := Chunk.new, chunks := k.chunks + 1, again := 0, prioReq := false
    arch := { k.arch with blocks := Tab.mapV k.arch.blocks (fun sl b =>
      if s.isExact sl b then inPl b else { b with threads := b.threads.map (fun th => { th with resv := none }) }) } })
  let s := s.updCtx x (fun cx => { cx with accesses := cx.accesses.map (fun a =>
    if a.chunk == some c then { a with chunk := none } else a) })
  let s := { s with priority := s.priority.filter (fun p => p != c) }
  let s := s.breakResv c h.ovl
  let s := s.broadcast (s.ctx x).part (some c) h.wr
  let s := (heldOrder held).foldl (fun s e => s.release c x e) s
  let s := s.coreNums.foldl (fun s c' => s.updBoth c' (fun a => ({ a with
    nbr := Tab.mapV a.nbr (fun _ q => q.map (fun (b : Beat) => if b.src == some c then { b with src := none } else b)) } : CoreArch).wakePops)) s
  s.count c 3 1

/-- LDX transfers whose source reads the chunk makes have not returned (R256). -/
def ldxReading (s : State) (c : Nat) : Bool :=
  (s.core c).arch.blocks.any (fun e => !s.isExact e.1 e.2 && e.2.ldx.any (fun x => x.tracked && x.failed.isNone))

/-- The open chunk has written a line that the fabric engine holds until a publish (R158). -/
def commitHeld (s : State) (c : Nat) : Bool := (s.core c).chunk.ovl.any (fun e => s.heldLines.contains (e.1 / 256))

/-- A priority chunk has executed a word: it holds the grant of the closure arbiter, and no engine publishes and no phase merges (R46, R143, R157). -/
def prioOpen (s : State) : Bool := s.cores.any (fun (k : Nat × CoreSt) => k.2.chunk.prio && !k.2.chunk.fresh)

/-- The open chunk ends (R133): a chunk that touched no shared line closes at once, another waits for its grant, and either for the
source reads of its LDX transfers (R256) and for held lines that it has written (R158). -/
def State.endChunk (s : State) (c : Nat) : State :=
  let h := (s.core c).chunk
  if h.rd.isEmpty && h.wr.isEmpty && !ldxReading s c && !commitHeld s c then s.commit c
  else s.updChunk c (fun h => { h with ended := true, pendEnd := false, suspend := [] })

/-- Puts back the fairness state of a block. -/
def Block.unchosen (b old : Block) : Block :=
  { b with
    fair := old.fair
    threads := b.threads.map (fun th => match old.thread? th.ltid with
      | some o => { th with age := o.age, inWin := o.inWin }
      | none => th) }

/-- A core's state at the start of a chunk that opens with the word being executed: the word's slot has not been counted (R30,
R44). -/
def State.chunkStart (s : State) (c : Nat) : CoreArch :=
  match s.was with
  | some (c', sl, b) => if c' = c then (s.core c).arch.updBlock sl (fun n => n.unchosen b) else (s.core c).arch
  | none => (s.core c).arch

/-- A word acts in the open chunk: its start is recorded at the first (R132). -/
def State.dirty (s : State) (c : Nat) : State :=
  let k := s.core c
  if k.chunk.fresh then s.setCore c { k with chunk := { k.chunk with fresh := false, snap := some (s.chunkStart c) } } else s

/-- What has been done in the chunk so far is not undone by a squash (log 14). -/
def State.seal (s : State) (c : Nat) : State :=
  s.updChunk c (fun h => { h with fresh := true, snap := none, served := none })

/-- A word that must wait without having issued: its group stays where it is and remains selected. -/
def State.hold (s : State) : State := { s with cur := none }

/-- An event of R133 ends the chunk before the instruction: the instruction acts when the chunk is fresh, at once after
a local close, and otherwise issues again after the commit. While an LR suspends the end, the instruction waits for it: it acts in
no chunk but the next (R134; log 80). -/
def State.closeBefore (s : State) (c : Nat) (act : State → State) : State :=
  let h := (s.core c).chunk
  if h.fresh then act s
  else if !h.suspend.isEmpty then (s.updChunk c (fun h => { h with pendEnd := true })).hold
  else
    let s := s.endChunk c
    if (s.core c).chunk.ended then { s with cur := none } else act s

/-- The same for a trap or fault, which ends a suspension (R134). -/
def State.closeForTrap (s : State) (c : Nat) (act : State → State) : State :=
  let h := (s.core c).chunk
  if h.fresh then act s
  else
    let s := s.endChunk c
    if (s.core c).chunk.ended then { s with cur := none } else act s

/-- An LR's suspension ends; an end that waited takes effect at once (R134). -/
def State.endSuspend (s : State) (c : Nat) : State :=
  let h := (s.core c).chunk
  let s := s.updChunk c (fun h => { h with suspend := [] })
  if h.pendEnd then s.endChunk c else s

/-- An event of R133 ends the chunk after the instruction. -/
def State.closeAfter (s : State) (c : Nat) : State :=
  if !(s.core c).chunk.suspend.isEmpty then s.updChunk c (fun h => { h with pendEnd := true }) else s.endChunk c

/-! ### Issue groups -/

/-- Members of the issue group that stand in the block, in ascending logical thread id. -/
def members (b : Block) (cur : Cur) : List Thread :=
  b.threads.filter (fun th => cur.tids.contains th.ltid && !th.exited)

/-- The mask bit of a thread: `s.lane` mod 32 (R35). -/
def laneBit (th : Thread) : Word := (1 : Word) <<< (th.off % 32)

/-- The mask of some threads (R35). -/
def laneMask (ths : List Thread) : Word := ths.foldl (fun m th => m ||| laneBit th) 0

/-- The value of `ctl.cause` (R346). -/
def causeWord (code sub : Nat) (dfr : Bool) : Word :=
  BitVec.ofNat 64 (code % 256 + (sub % 256) * 256 + (if dfr then 2 ^ 33 else 0))

/-! ### Taking a fault (R343, R344, R357) -/

/-- The group descriptor of some threads (R346). -/
def grpWord (valid : Bool) (quad : Nat) (ths : List Thread) (entry : BitVec 9) : Word :=
  BitVec.ofNat 64 (quad % 4 + entry.toNat * 4 + (if valid then 2 ^ 11 else 0) + (laneMask ths).toNat * 2 ^ 32)

/-- The threads of a list of ids. -/
def Block.pick (b : Block) (tids : List Nat) : List Thread :=
  b.threads.filter (fun th => tids.contains th.ltid && !th.exited)

/-- A thread's parked operation. -/
def Thread.parkedAt (th : Thread) : Option Instr :=
  match th.wait with
  | .parked i _ _ _ => some i
  | _ => none

/-- The handler thread at its entry: every register zero (R342). -/
def handlerThread (pc : Word) : Thread :=
  { ltid := 0, row := 0, quad := 0, pos := 0, off := 0, rank := 0, pc := pc, v := [], p := 0, frm := 0, fflags := 0,
    exited := false, wait := .run, acted := false, resv := none, age := 0, inWin := false, bad := [], kept := none, clk := [],
    relClk := none, seenClk := [] }

/-- The handler thread as the thread of slot 16, serving a block (R342). -/
def handlerBlock (b : Block) (pc : Word) : Block :=
  { b with threads := [handlerThread pc], fair := [⟨0, 0⟩, ⟨0, 0⟩, ⟨0, 0⟩, ⟨0, 0⟩], nregs := [], lehrs := [], bars := []
           wnWait := [], pover := [], pops := [], pheld := [], plines := [], deferred := [], ldx := [], failing := false }

/-- Ends the handler without resuming anything (R357): record of type `ty` with the given fields, and with the cause and the PC as
the fault registers hold them (R350). -/
def State.endService (s : State) (c ty : Nat) (f0 f1 : Word) : State :=
  let a := (s.core c).arch
  match a.serving with
  | none => s
  | some f =>
    match s.block? c f.slot with
    | none => s.updBoth c (fun a => { a with serving := none, blocks := Tab.del a.blocks handlerSlot, descs := [] })
    | some b =>
      let x := s.ctxOf b
      let lc := [(0x30, natLe 4 b.lin), (0x34, natLe 4 c)]
      let fields := if ty = 0x10 then
          [(0x10, natLe 8 f0.toNat), (0x18, natLe 8 f1.toNat), (0x20, natLe 8 a.cause.toNat), (0x28, natLe 8 a.epc.toNat)]
        else [(0x10, natLe 8 f0.toNat), (0x18, natLe 8 a.cause.toNat), (0x20, natLe 8 a.epc.toNat)]
      let s := s.failBlock c f.slot
      let s := s.updBoth c (fun a => { a with
        serving := none, blocks := Tab.del a.blocks handlerSlot, grpValid := false, descs := a.descs.filter (fun d => d.2.1 != f.slot) })
      s.post x ty 0 (fields ++ lc)

/-- Enters the handler for the next queued fault, if none is being served (R344). -/
def State.enterNext (s : State) (c : Nat) : State :=
  let a := (s.core c).arch
  match a.serving, a.faultq with
  | some _, _ => s
  | none, [] => s
  | none, f :: q =>
    match s.block? c f.slot with
    | none => s.updArch c (fun a => { a with faultq := q })
    | some b =>
      let x := s.ctxOf b
      let hpc := (s.ctx x).handler
      let d := grpWord (!f.tids.isEmpty) f.quad (b.pick f.tids) (Config.freeEntry s.tick)
      let s := s.updArch c (fun a => { a with
        descs := (d, f.slot, f.tids) :: a.descs, faultq := q, serving := some f, cause := f.cause, epc := f.epc, emask := f.emask, eaddr := f.eaddr
        grpValid := !f.tids.isEmpty, grpQuad := f.quad, grpSlot := f.slot, grpTids := f.tids
        grpEntry := Config.freeEntry s.tick })
      if hpc = 0 then s.endService c 0x10 0 0
      else s.updArch c (fun a => { a with blocks := Tab.put a.blocks handlerSlot (handlerBlock b hpc) })

/-- Enters handlers until one runs or no fault waits; `n` bounds the rounds. -/
def State.enterLoop (s : State) (c n : Nat) : State :=
  match n with
  | 0 => s
  | n + 1 =>
    if (s.core c).arch.serving.isSome || (s.core c).arch.faultq.isEmpty then s else (s.enterNext c).enterLoop c n

def State.enterHandlers (s : State) (c : Nat) : State := s.enterLoop c ((s.core c).arch.faultq.length)

/-- A fault record is posted to the host, or queued for the handler (R343); one of no group waits for no resume (R281). -/
def State.queueFault (s : State) (c : Nat) (f : FaultRec) : State :=
  match s.block? c f.slot with
  | none => s
  | some b =>
    let x := s.ctxOf b
    let ths := b.pick f.tids
    if (s.ctx x).mode.getLsbD 2 then
      let d := grpWord (!f.tids.isEmpty) f.quad ths (Config.freeEntry s.tick)
      (s.updArch c (fun a => { a with fwd := if f.tids.isEmpty then a.fwd else a.fwd ++ [(d, f)] })).post x 0x12 0
        [(0x10, natLe 8 f.cause.toNat), (0x18, natLe 8 f.epc.toNat), (0x20, natLe 8 f.emask.toNat),
          (0x28, natLe 8 f.eaddr.toNat), (0x30, natLe 8 d.toNat), (0x38, natLe 4 b.lin), (0x3C, natLe 4 c)]
    else (s.updArch c (fun a => { a with faultq := a.faultq ++ [f] })).enterHandlers c

/-- Takes a fault at an issue group: the chunk ends before it, the group stops, its reservations end, and the fault is
queued (R343, R386). A fault of the handler ends the service (R357). -/
def State.takeFault (s : State) (cur : Cur) (code sub : Nat) (emask eaddr : Word) : State :=
  s.closeForTrap cur.core (fun s =>
    if cur.slot = handlerSlot then
      ((s.endService cur.core 0x10 (causeWord code sub false) cur.pc).enterHandlers cur.core).seal cur.core
    else
      let at_ := (s.block? cur.core cur.slot).bind (fun b => (b.pick cur.tids).findSome? Thread.parkedAt)
      let s := s.mapTids cur.core cur.slot cur.tids (fun th =>
        if th.exited then th else { th with wait := .stopped, resv := none, kept := none })
      (s.queueFault cur.core ⟨cur.slot, cur.quad, cur.tids, causeWord code sub false, cur.pc, emask, eaddr, false, at_⟩
        ).seal cur.core)

/-! ### Resuming (R356) -/

/-- The handler is about to change the threads of the EXACT block that it serves: what they are is kept with the chunk's start, which a
squash restores (R137, R342). -/
def State.serveMark (s : State) (c : Nat) : State :=
  match (s.core c).arch.serving with
  | none => s
  | some f =>
    match s.block? c f.slot with
    | none => s
    | some b =>
      if s.isExact f.slot b && (s.core c).chunk.served != some f.slot then
        s.updChunk c (fun h => { h with
          served := some f.slot, snap := h.snap.map (fun a => { a with blocks := Tab.put a.blocks f.slot b }) })
      else s

/-- Threads that no longer stay stopped leave the descriptors that name them (R346). -/
def CoreArch.undescribe (a : CoreArch) (slot : Nat) (tids : List Nat) : CoreArch :=
  { a with descs := (a.descs.map (fun d => if d.2.1 == slot then (d.1, d.2.1, d.2.2.filter (fun t => !tids.contains t)) else d)
      ).filter (fun d => !d.2.2.isEmpty) }

/-- Lets stopped threads run on, at `npc` of each; a queued fault of the group is discarded, and the group of the served fault is the
fault's no more. A rendezvous passed by is no arrival (R243; log 106, DESIGN CHOICE). -/
def State.resume (s : State) (c slot : Nat) (tids : List Nat) (npc : Thread → Word) : State :=
  let s := s.mapTids c slot tids (fun th => if th.exited || th.wait != .stopped then th
    else { th with wait := .run, pc := npc th, acted := th.acted && npc th == th.pc })
  s.updArch c (fun a => { a.undescribe slot tids with
    faultq := a.faultq.filter (fun f => !(f.slot == slot && f.tids.any (fun t => tids.contains t)))
    serving := a.serving.map (fun f => if f.slot == slot then { f with tids := f.tids.filter (fun t => !tids.contains t) } else f) })

/-- ERET (R356): what is still stopped of the served group resumes at `ctl.epc`, threads stopped by GRPSEL at their own PCs, and the
handler ends; the next queued fault is entered before the core issues again, in a new chunk (R344). Members of queued and of forwarded
faults stay stopped (R343). A group whose rendezvous faulted and that the handler passes by runs on at the next word without an arrival: R243
says "as if every thread were guarded off", and R356 where it resumes (log 106, DESIGN CHOICE). -/
def State.eret (s : State) (c : Nat) : State :=
  let a := (s.core c).arch
  match a.serving with
  | none => s
  | some f =>
    let held := ((a.faultq ++ a.fwd.map (fun g => g.2)).filter (fun g => g.slot == f.slot)).flatMap (fun g => g.tids)
    let gone := match s.block? c f.slot with
      | some b => (b.threads.filter (fun th => f.tids.contains th.ltid || !held.contains th.ltid)).map (fun th => th.ltid)
      | none => []
    let s := s.updBlock c f.slot (fun b => { b with threads := b.threads.map (fun th =>
      if th.exited || th.wait != .stopped then th
      else if f.tids.contains th.ltid then { th with wait := .run, pc := a.epc, acted := th.acted && a.epc == th.pc }
      else if held.contains th.ltid then th
      else { th with wait := .run }) })
    s.updArch c (fun a => { a.undescribe f.slot gone with
      serving := none, blocks := Tab.del a.blocks handlerSlot, grpValid := false })

end Sys2Proof.Machine
end

