-- ==== Sys2Proof/Machine/Stamp.lean ====
section
/-! DEFINITION. The order-stamp unit (R162, R163): vector clocks of threads and the report of unordered pairs. A thread's
own component counts from 1; a release publishes the clock and starts the next epoch. -/

namespace Sys2Proof.Machine

/-- The epoch of a thread. -/
def Thread.epoch (th : Thread) (uid : Nat) : Nat := Tab.get 0 th.clk uid + 1

/-- The clock that a release publishes. -/
def Thread.pubClk (th : Thread) (uid : Nat) : Tab Nat := Tab.set 0 th.clk uid (th.epoch uid)

/-- A release: the next epoch starts. -/
def Thread.tickClk (th : Thread) (uid : Nat) : Thread := { th with clk := th.pubClk uid }

/-- An acquire of a published clock. -/
def Thread.joinClk (th : Thread) (c : Tab Nat) : Thread := { th with clk := Tab.join th.clk c }

/-- An access that happens before a later one of thread clock `clk` (R162). -/
def Access.before (a n : Access) (clk : Tab Nat) : Bool :=
  a.cnt ≤ Tab.get 0 clk a.uid || (a.launch == n.launch && (match a.phase, n.phase with
    | some p, some q => p < q
    | _, _ => false))

/-- Two accesses meet in some bytes of memory, or in a scoped register. -/
def Access.meets (a n : Access) : Bool :=
  a.regAcc == n.regAcc && (!a.regAcc || a.launch == n.launch) && a.key < n.key + n.n && n.key < a.key + a.n

/-- The pair of accesses is one that the unit reports (R163). -/
def Access.races (a n : Access) (clk : Tab Nat) : Bool :=
  a.meets n && (a.write || n.write) && (a.launch != n.launch || a.lin != n.lin || a.quad != n.quad)
    && !(a.sync && n.sync) && !a.before n clk

/-- The flags of a report (R163). -/
def raceFlags (a n : Access) : Nat :=
  (if a.write then 1 else 0) + (if n.write then 2 else 0) + (if n.regAcc then 4 else 0)
    + (if a.phase.isSome && a.launch == n.launch && a.phase == n.phase then 8 else 0)

/-- The lowest logical thread id among the threads of an access's group that made it, as far as it meets another access (R337). -/
def Access.lowest (as : List Access) (a o : Access) : Nat :=
  (as.filter (fun b => b.gid == a.gid && b.launch == a.launch && b.lin == a.lin && b.quad == a.quad && b.pc == a.pc && b.write == a.write
    && b.meets o)).foldl (fun m b => min m b.ltid) a.ltid

/-- Reports a pair unless its (PC, PC, block, block) has been reported, in either order (R163, R337). -/
def State.reportRace (s : State) (x : Nat) (a n : Access) : State :=
  let p := (a.launch, a.lin)
  let q := (n.launch, n.lin)
  let as := (s.ctx x).accesses
  if (s.ctx x).raced.contains (a.pc.toNat, n.pc.toNat, p, q) || (s.ctx x).raced.contains (n.pc.toNat, a.pc.toNat, q, p) then s
  else
    let va := if n.regAcc then n.va else n.va + BitVec.ofNat 64 (max a.key n.key - n.key)
    (s.updCtx x (fun c => { c with raced := (a.pc.toNat, n.pc.toNat, p, q) :: c.raced })).post x 0x31 (raceFlags a n)
      [(0x10, natLe 8 va.toNat), (0x18, natLe 8 a.pc.toNat), (0x20, natLe 8 n.pc.toNat), (0x28, natLe 4 a.lin),
       (0x2C, natLe 4 n.lin), (0x30, natLe 4 (a.lowest as n)), (0x34, natLe 4 (n.lowest as a))]

/-- The unit keeps an access made at a clock, and reports the pairs that it ends (R162, R163). -/
def State.keepAccess (s : State) (x : Nat) (a : Access) (clk : Tab Nat) : State :=
  (((s.ctx x).accesses.filter (fun o => o.races a clk)).foldl (fun s o => s.reportRace x o a) s).updCtx x (fun c => { c with
    accesses := c.accesses ++ [a] })

/-- The thread (`lin`, `ltid`) stands in the level-`l` node of another (R147). -/
def sameNode (t : Tree) (l lin ltid lin' ltid' : Nat) : Bool :=
  if l ≤ t.blockLvl then lin == lin' && ltid / max 1 (t.per l) == ltid' / max 1 (t.per l)
  else t.highNode l lin == t.highNode l lin'

/-- The 8-byte units of `n` bytes at key `k`. -/
def unitsOf (k n : Nat) : List Nat :=
  if n = 0 then [] else (List.range ((k + n - 1) / 8 - k / 8 + 1)).map (fun i => k / 8 + i)

/-- A thread that has read some units has seen the releases before their values (R147). -/
def Thread.sees (th : Thread) (ms : List RelMark) : Thread :=
  { th with seenClk := ms.foldl (fun l m => if l.contains m then l else m :: l) th.seenClk }

/-- The releases before the value of a unit as core `c` reads it: those of values that only this core sees among them (R130, R147). -/
def Ctx.marksAt (cx : Ctx) (c u : Nat) : List RelMark :=
  (cx.heldClk.filter (fun h => h.1 == c && h.2.1 == u)).map (fun h => h.2.2) ++ Tab.get [] cx.locClk u

/-- The releases that one access of a thread carries or sees; a write shows them once its value is visible (R147, R162). -/
def State.stampMarks (s : State) (cur : Cur) (x : Nat) (th : Thread) (key n : Nat) (write sync : Bool) : State :=
  let us := unitsOf key n
  let s := if write && !sync then s
    else s.mapTids cur.core cur.slot [th.ltid] (fun t => t.sees (us.flatMap (fun u => (s.ctx x).marksAt cur.core u)))
  match th.relClk with
  | some m =>
    if write then s.updCtx x (fun c => { c with heldClk := us.foldl (fun l u =>
      if l.contains (cur.core, u, m) then l else (cur.core, u, m) :: l) c.heldClk })
    else s
  | none => s

/-- Stamps one access of a thread while `ctl.race` was captured for the launch (R162, R163). -/
def State.stamp (s : State) (cur : Cur) (ltid : Nat) (key n : Nat) (write sync regAcc : Bool) (va : Word) : State :=
  match s.block? cur.core cur.slot with
  | none => s
  | some b =>
    let l := s.launchOf b
    match b.thread? ltid with
    | none => s
    | some th =>
      if !l.race || cur.slot = handlerSlot then s
      else
        let uid := threadUid b ltid
        let a : Access := { uid := uid, gid := 2 * s.tick, chunk := if s.isExact cur.slot b then none else some cur.core
                            cnt := th.epoch uid, key := key, n := n, write := write, sync := sync
                            regAcc := regAcc, va := va, pc := cur.pc, launch := b.launch, lin := b.lin, quad := th.quad
                            ltid := ltid, phase := if l.det = 2 then some b.phase else none }
        let s' := s.keepAccess l.ctx a th.clk
        if regAcc then s' else s'.stampMarks cur l.ctx th key n write sync

/-- A release at a level: the thread's next writes carry its clock (R147, R162). -/
def Thread.release (th : Thread) (b : Block) (lvl : Nat) : Thread :=
  let u := threadUid b th.ltid
  { th.tickClk u with relClk := some ⟨b.launch, b.lin, th.ltid, lvl, th.pubClk u⟩ }

/-- An acquire at a level of the releases that the thread has seen, when each thread's node contains the other
(R147). -/
def Thread.acquire (th : Thread) (t : Tree) (b : Block) (lvl : Nat) : Thread :=
  (th.seenClk.filter (fun m => m.launch == b.launch && sameNode t m.lvl m.lin m.ltid b.lin th.ltid
    && sameNode t lvl m.lin m.ltid b.lin th.ltid)).foldl (fun th m => th.joinClk m.clk) th

end Sys2Proof.Machine
end

