-- ==== Sys2Proof/Machine/Operands.lean ====
section
/-! DEFINITION. Operands (R47-R54, R69, R166, R170-R172), the issue group of a word and the checks made before a word has
its effect (R26, R183, R184, R341, R387). -/

namespace Sys2Proof.Machine

/-! ### Registers of a thread -/

/-- Predicate `i`; p0 reads true (R49). -/
def Thread.pred (th : Thread) (i : Nat) : Bool := i == 0 || th.p.getLsbD i

/-- Writes predicate `i`; p0 discards (R49). -/
def Thread.setPred (th : Thread) (i : Nat) (b : Bool) : Thread :=
  if i == 0 then th
  else { th with p := if b then th.p ||| BitVec.ofNat 96 (2 ^ i) else th.p &&& ~~~BitVec.ofNat 96 (2 ^ i) }

/-- Lane register `i` (R47). -/
def Thread.lane (th : Thread) (i : Nat) : Word := Tab.get 0 th.v i

/-- Writes lane register `i`. -/
def Thread.setLane (th : Thread) (i : Nat) (w : Word) : Thread := { th with v := Tab.set 0 th.v i w }

/-- The guard of a full word (R166). -/
def Thread.guard (th : Thread) (g : Guard) : Bool := th.pred g.p.toNat != g.neg

/-- The guard of a half (R177). -/
def Thread.halfGuard (th : Thread) (f : HalfF) : Bool := th.pred f.g.toNat != f.gn

/-- Sets exception flags (R70, R86). -/
def Thread.flag (th : Thread) (fl : BitVec 5) : Thread := { th with fflags := th.fflags ||| fl }

/-- The next word; a phase point that has acted is behind the thread (R140). -/
def Thread.next (th : Thread) : Thread := { th with pc := th.pc + 8, acted := false }

/-- Writes a destination (R49, R69, R70, R172). -/
def Thread.setD (th : Thread) (d : Operand) (w : Word) : Thread :=
  match d with
  | .lane i => th.setLane i.toNat w
  | .pred i => th.setPred i.toNat (w != 0)
  | .special i =>
    if i = 37 then { th with frm := w.setWidth 3 }
    else if i = 38 then { th with fflags := w.setWidth 5 }
    else th
  | _ => th

/-! ### Where a word issues -/

/-- A word as it issues: its issue group, the block, the tree it sees, and its members and active members in ascending
logical thread id (R26). -/
structure Site where
  cur : Cur
  b   : Block
  t   : Tree
  mem : List Thread
  act : List Thread
deriving DecidableEq, Repr

/-- The reference member (R35). -/
def Site.ref (e : Site) : Thread := (e.act.head?).getD (handlerThread 0)

/-- The ids of the active members. -/
def Site.tids (e : Site) : List Nat := e.act.map (fun th => th.ltid)

/-- The thread is an active member. -/
def Site.active (e : Site) (th : Thread) : Bool := e.tids.contains th.ltid

/-- The node of level `l` above a thread, by its rank in the block. -/
def Site.node (e : Site) (th : Thread) (l : Nat) : Nat := th.ltid / max 1 (e.t.per l)

/-- The issue group that `cur` names, with its active members by `act`. -/
def State.site? (s : State) (act : Thread → Bool) : Option Site :=
  match s.cur with
  | none => none
  | some cur =>
    match s.block? cur.core cur.slot with
    | none => none
    | some b =>
      let ms := members b cur
      if ms.isEmpty then none
      else some { cur := cur, b := b, t := s.treeOf cur.slot b, mem := ms, act := ms.filter act }

/-! ### Reading (R53, R69, R171) -/

/-- The value of a special register (R69, R342). -/
def special (s : State) (cur : Cur) (b : Block) (th : Thread) (i : Nat) : Word :=
  let l := s.launchOf b
  let h := cur.slot == handlerSlot
  let n := fun (v : Nat) => BitVec.ofNat 64 v
  if i = 0 then (if h then 0 else n (32 * th.quad + th.off))
  else if i = 1 then (if h then 0 else n th.rank)
  else if i < 18 then (if h then 0 else n (l.tree.idx l.dev b.lin th.ltid (i - 2)))
  else if i < 34 then n (l.tree.fan (i - 18))
  else if i = 34 then n l.tree.depth
  else if i = 35 then l.seed
  else if i = 36 then l.arg
  else if i = 37 then th.frm.setWidth 64
  else if i = 38 then th.fflags.setWidth 64
  else if i = 39 then n l.det
  else if i = 40 then n l.ctx
  else if i = 41 then n l.dev
  else if i = 42 then n cur.core
  else if i = 43 then n b.lin
  else if i = 44 then (s.core cur.core).chunks
  else 0

/-- Key in memory of register `i` of a thread's node of a level bound above CORE (R17, R51). -/
def homeKey (l : Launch) (lin k i : Nat) : Option Nat :=
  match Tab.find? l.nodes (highKey k (l.tree.highNode k lin)) with
  | some nd => some (sliceKey (nd.core * sliceSize + nd.base + 8 * i))
  | none => none

/-- A scoped register as a thread reads it (R53, R61). -/
def scopedRead (s : State) (cur : Cur) (b : Block) (ltid k i : Nat) : Word :=
  let t := s.treeOf cur.slot b
  if k ≤ t.blockLvl then Tab.get 0 b.nregs (nodeKey k (ltid / max 1 (t.per k)) i)
  else match homeKey (s.launchOf b) b.lin k i with
    | some key => leWord (comRead s cur.core cur.slot key 8)
    | none => 0

/-- The 64-bit value of a source (R171). -/
def readOp (s : State) (cur : Cur) (b : Block) (th : Thread) (o : Operand) : Word :=
  match o with
  | .lane i => th.lane i.toNat
  | .const k => k.signExtend 64
  | .special i => special s cur b th i.toNat
  | .pred i => boolWord (th.pred i.toNat)
  | .scoped l i => scopedRead s cur b th.ltid l.toNat i.toNat

/-- A source of the word at a site. -/
def Site.read (e : Site) (s : State) (th : Thread) (o : Operand) : Word := readOp s e.cur e.b th o

/-- A source of an integer form: a constant is sign-extended to each element of a packed form (R171). -/
def intSrc (s : State) (e : Site) (th : Thread) (w : IntW) (o : Operand) : Word :=
  match o with
  | .const k => if wCount w = 1 then k.signExtend 64 else pack (wBits w) (List.replicate (wCount w) (wrap (wBits w) k.toInt))
  | _ => e.read s th o

/-- The traces of one thread's access to a scoped register: the order stamp (R60, R163), and the tracking of a read of a
home slice's line when `track` (R61). -/
def State.noteScoped (s : State) (e : Site) (th : Thread) (k i : Nat) (write track : Bool) : State :=
  if k ≤ e.t.blockLvl then
    if (e.t.bind k).code = 3 then
      s.stamp e.cur th.ltid (e.b.lin * 2 ^ 40 + nodeKey k (e.node th k) i) 1 write false true
        (BitVec.ofNat 64 (k * 256 + i))
    else s
  else match homeKey (s.launchOf e.b) e.b.lin k i with
    | some key =>
      (if write || !track then s else s.trackRead e.cur.core e.cur.slot key 8).stamp e.cur th.ltid key 8 write false
        false (BitVec.ofNat 64 (apertureBase + (key - sliceKey 0)))
    | none => s

/-- The traces of the active members' reads of some sources. -/
def State.noteSrcs (s : State) (e : Site) (os : List Operand) (track : Bool) : State :=
  os.foldl (fun s o => match o with
    | .scoped l i => e.act.foldl (fun s th => s.noteScoped e th l.toNat i.toNat false track) s
    | _ => s) s

/-- The same within the open chunk. -/
def State.noteSources (s : State) (e : Site) (os : List Operand) : State := s.noteSrcs e os true

/-! ### The fields of a word that are registers -/

/-- The slot is read as a source. -/
def slotIsSource : SlotKind → Bool
  | .src => true
  | .pred => true
  | _ => false

/-- The specifiers of a full word that its slots hold, unused ones left out. -/
def usedSpecs (w : Word) : List (BitVec 10 × SlotKind) :=
  match wordShape w with
  | none => []
  | some sh => sh.slots.filter (fun p => p.2 != .unused && p.2 != .params 0)

/-- The sources that a full word names. -/
def sourceOps (w : Word) : List Operand :=
  if w.getLsbD 63 then []
  else ((usedSpecs w).filter (fun p => slotIsSource p.2)).map (fun p => Operand.get p.1)

/-- The destination is also read: MOVL `hi`, ADDL, and conversions that keep elements (R206, R231). -/
def readsDest (w : Word) : Bool :=
  match (fOp w).toNat with
  | 0xD0 => (fBMod w).toNat == 2
  | 0xD1 => true
  | 0x2B => w.getLsbD 40
  | 0x55 | 0x5C => convNe (w.extractLsb' 0 4).toNat < (FFmt.ofCode (w.extractLsb' 44 3)).ne
  | 0x58 => true
  | 0xC4 => true
  | _ => false

/-- The specifier that names lehr register `hl.k` in `ctl.eaddr`, laid out as that of a scoped register (R386; log 82). -/
def lehrName (l k : Nat) : Nat := 0x200 + 32 * l + k

/-- The mark of lehr register `hl.k` among a thread's registers that failed their check: a specifier that no operand has. -/
def lehrMark (l k : Nat) : BitVec 10 := BitVec.ofNat 10 (0x180 + 8 * l + k)

/-- What `ctl.eaddr` holds for a register that failed its check (R388). -/
def badName (x : BitVec 10) : Word :=
  if x.toNat / 128 = 3 then BitVec.ofNat 64 (lehrName (x.toNat / 8 % 16) (x.toNat % 8)) else x.setWidth 64

/-- Specifiers of the registers that a half reads in a thread (R388): its guard's predicate and, when active, its
registers. -/
def halfSpecs (th : Thread) (h : Half) : List (BitVec 10) :=
  BitVec.ofNat 10 (256 + h.f.g.toNat) :: (if th.halfGuard h.f then h.reads.map (fun r => BitVec.ofNat 10 r) else [])

/-- Specifiers of the registers that a word reads in an active thread (R388): the guard's predicate, sources, pairs and
parameters. -/
def readSpecs (w : Word) (th : Thread) : List (BitVec 10) :=
  if w.getLsbD 63 then halfSpecs th (Half.ofBits (fHalfA w)) ++ halfSpecs th (Half.ofBits (fHalfB w))
  else
    (BitVec.ofNat 10 (256 + (fG w).p.toNat)) :: (if fOp w == 0xA7 || fOp w == 0xA8
      then [lehrMark (fSLvl w).toNat (w.extractLsb' 40 3).toNat] else []) ++ (usedSpecs w).flatMap (fun p => match p.2 with
      | .src => [p.1]
      | .pred => [p.1]
      | .pair top => if top = 126 && fOp w == 0x82 then [] else [p.1, p.1 + 1] ++ (if fOp w == 0xC6 then [126] else [])
      | .params n => (List.range n).map (fun j => p.1 + BitVec.ofNat 10 j)
      | .lane => if fOp w == 0xC4 then [p.1] else []
      | _ => if readsDest w then [p.1] else [])

/-- A lane register, predicate or scoped register that is written holds good data again (R388). -/
def Thread.cleared (th : Thread) (d : Operand) : Thread :=
  if th.bad.isEmpty then th else { th with bad := th.bad.filter (fun x => x != d.enc) }

/-! ### Faults before the effect (R387) -/

/-- A precise fault: cause, subcode, members and `ctl.eaddr`. -/
structure Flt where
  code  : Nat
  sub   : Nat
  emask : Word
  eaddr : Word
deriving DecidableEq, Repr

/-- A privileged instruction: SYSRD to HALT but not TRAP and BKPT (R341). -/
def privileged (w : Word) : Bool := !w.getLsbD 63 && 0xE2 ≤ (fOp w).toNat && (fOp w).toNat ≤ 0xEA

/-- An instruction that the handler may not issue: XC, WORKNEXT, EMIT, NBRPUSH, NBRPOP (R342). -/
def notInHandler (w : Word) : Bool :=
  !w.getLsbD 63 && [0xD8, 0xAA, 0xAB, 0xAE, 0xAF].contains (fOp w).toNat

/-- The tree provides a scoped register (R50). -/
def scopedOk (t : Tree) (l i : Nat) : Bool := 1 ≤ l && l < t.depth && i < (t.level l).regs

/-- The level number or the lehr name of a word that fails (R33, R62, R386). -/
def lvlBad (t : Tree) (u : LvlUse) : Option Nat :=
  match u with
  | .none => none
  | .bound l lo hi =>
    if l.toNat < t.depth && lo ≤ (t.bind l.toNat).code && (t.bind l.toNat).code ≤ hi then none else some l.toNat
  | .below l => if l.toNat < t.depth then none else some l.toNat
  | .lehr l k => if l.toNat < t.depth && k.toNat < (t.level l.toNat).lehr then none else some (lehrName l.toNat k.toNat)

/-- The LEVEL check of a word (R33, R50, R62, and MBAR's fanout, R263): the level number, or the specifier of the scoped
name. -/
def levelFault (t : Tree) (w : Word) : Option Word :=
  if w.getLsbD 63 then none
  else match wordShape w with
    | none => none
    | some sh =>
      match lvlBad t sh.lvl with
      | some l => some (BitVec.ofNat 64 l)
      | none =>
        if fOp w = 0xA3 && 64 < t.fan (fSLvl w).toNat then some ((fSLvl w).setWidth 64)
        else match (usedSpecs w).find? (fun p => match Operand.get p.1 with
          | .scoped l i => !scopedOk t l.toNat i.toNat
          | _ => false) with
        | some p => some (p.1.setWidth 64)
        | none => none

/-- Where a scoped operand stands in a home slice. -/
def operandHome (s : State) (e : Site) (o : Operand) : Option Nat :=
  match o with
  | .scoped l i => if l.toNat ≤ e.t.blockLvl then none else homeKey (s.launchOf e.b) e.b.lin l.toNat i.toNat
  | _ => none

/-- Data of a home slice that fail when a scoped register is read (R388). -/
def scopedErr (s : State) (e : Site) (o : Operand) : Option Nat := (operandHome s e o).bind (fun key => lineErr s key 8)

/-- A scoped operand of the word stands in a home slice whose bytes no agent may access now (R158, R391). -/
def homeHeld (s : State) (e : Site) (w : Word) : Bool :=
  !w.getLsbD 63 && (usedSpecs w).any (fun p => (operandHome s e (Operand.get p.1)).any (fun key =>
    linesHeld s (s.ctxOf e.b) key 8))

/-- Quarantines the failing lines among some and posts their event records (R388). -/
def State.quarantine (s : State) (x : Nat) (lines : List Nat) (pc : Word) : State :=
  lines.foldl (fun s l => match Tab.find? s.badLines l with
    | none => s
    | some e =>
      ({ s with quar := addNew s.quar [l], badLines := Tab.del s.badLines l }).post x 0x51 0
        [(0x10, natLe 8 (256 * l)), (0x18, natLe 1 e), (0x20, natLe 8 pc.toNat)]) s

/-- Writing the value to a system register is ILLEGAL 0x07: `win` = 0, or an unassigned event code (R345, R347, R349). -/
def ctlBad (i : Nat) (w : Word) : Bool :=
  (i = 0x00B && w.extractLsb' 16 16 == 0) || (0x108 ≤ i && 9 < (w.extractLsb' 0 8).toNat)

/-- The word is a SYSWR of such a value in its reference member, if its operand can be read (R184, R345). -/
def sysValueBad (s : State) (e : Site) (w : Word) : Bool :=
  !w.getLsbD 63 && fOp w == 0xE3 && (levelFault e.t w).isNone
    && ctlBad (w.extractLsb' 0 12).toNat (e.read s e.ref (Operand.get (fIA w)))

/-- The engine state of a site's core for the block's context; another context's is not seen (R94, R370). -/
def coreEngines (k : CoreSt) (x : Nat) : Engines :=
  if k.engCtx == some x then k.eng else Tab.get Engines.new k.engSaved x

/-- CBDEC reads a codebook slot whose data have failed (R237, R388). -/
def codebookErr (s : State) (e : Site) (w : Word) : Bool :=
  !w.getLsbD 63 && fOp w == 0x5A
    && (coreEngines (s.core e.cur.core) (s.ctxOf e.b)).bad.contains (128 + (w.extractLsb' 0 3).toNat)

/-- The fault that stops a word before its effect: ILLEGAL, PRIV, LEVEL, then MEMERR of an operand (R184, R387, R388). Among the
ILLEGAL ones is a value that SYSWR may not write (R345, R347). -/
def preFault (s : State) (e : Site) (w : Word) : Option Flt :=
  let m := laneMask e.act
  match illegal e.t.lanes w with
  | some c => some ⟨1, c.code.toNat, m, w⟩
  | none =>
    if sysValueBad s e w then some ⟨1, 7, m, w⟩
    else if (privileged w && e.cur.slot != handlerSlot) || (notInHandler w && e.cur.slot == handlerSlot) then
      some ⟨0x0F, 0, m, w⟩
    else match levelFault e.t w with
      | some a => some ⟨6, 0, m, a⟩
      | none =>
        let bad := fun (th : Thread) => th.bad.find? (fun x => (readSpecs w th).contains x)
        match (e.act.filter (fun th => (bad th).isSome)).head? with
        | some th => some ⟨0x0B, 5, laneMask (e.act.filter (fun th => (bad th).isSome)), badName ((bad th).getD 0)⟩
        | none =>
          match (sourceOps w).findSome? (fun o => (scopedErr s e o).map (fun sub => (o, sub))) with
          | some (o, sub) => some ⟨0x0B, sub, m, o.enc.setWidth 64⟩
          | none => if codebookErr s e w then some ⟨0x0B, 6, m, 0⟩ else none

/-- Takes a fault at the word's issue group (R343, R386). -/
def State.fault (s : State) (e : Site) (f : Flt) : State := s.takeFault e.cur f.code f.sub f.emask f.eaddr

/-- Lines of home slices whose failing data a word's operands read. -/
def homeBad (s : State) (e : Site) (w : Word) : List Nat :=
  (sourceOps w).flatMap (fun o => match operandHome s e o with
    | some key => linesOf key 8
    | none => [])

/-- Takes a fault found before the effect; the quarantine and the event record of a memory error go with it (R388). -/
def State.faultPre (s : State) (e : Site) (w : Word) (f : Flt) : State :=
  if f.code = 0x0B then
    s.closeForTrap e.cur.core (fun s => (if f.sub = 5 || f.sub = 6 then s.post (s.ctxOf e.b) 0x51 0
      [(0x10, natLe 8 f.eaddr.toNat), (0x18, natLe 1 f.sub), (0x20, natLe 8 e.cur.pc.toNat)]
      else s.quarantine (s.ctxOf e.b) (homeBad s e w) e.cur.pc).fault e f)
  else s.fault e f

/-- Specifiers of operands whose data no check before MEMERR needs: what a store, ATOM or SC writes, and the operand of a wait
(R387). -/
def dataSpecs (w : Word) : List (BitVec 10) :=
  if w.getLsbD 63 then []
  else match (fOp w).toNat with
    | 0x81 => [fD w].filter (fun x => x != fA w)
    | 0x83 => [fD w, fD w + 1].filter (fun x => x != fA w)
    | 0x86 => [fB w, fC w].filter (fun x => x != fA w)
    | 0x88 => [fB w].filter (fun x => x != fA w)
    | 0xAC | 0xAD => [fSB w].filter (fun x => x != fSA w)
    | _ => []

/-- The active members that the checks before MEMERR can be made for: none of what these read has failed; no member when a
shared operand has, or when the word's effect is itself a trap (R387, log 34). -/
def checkable (s : State) (e : Site) (w : Word) : List Thread :=
  let lost := fun (x : BitVec 10) => !(dataSpecs w).contains x
  if fOp w == 0xE0 || fOp w == 0xE1 || (sourceOps w).any (fun o => (scopedErr s e o).isSome && lost o.enc) then []
  else e.act.filter (fun th => !th.bad.any (fun x => (readSpecs w th).contains x && lost x))

/-- A word waits for lines that are held or copied out, as it would for a translation: the chunk ends before it, and its path stays
selected (R158, R383, R391). -/
def State.waitLine (s : State) (e : Site) : State :=
  s.closeForTrap e.cur.core (fun s => ((s.mapTids e.cur.core e.cur.slot e.cur.tids (fun th =>
    if th.exited then th else { th with wait := .xlate [] none none })).seal e.cur.core).hold)

/-- A word has ended without its effect: it waits, or its group has taken a fault. -/
def State.stoppedAt (t s : State) (e : Site) : Bool :=
  t.cur.isNone || (t.core e.cur.core).arch.serving != (s.core e.cur.core).arch.serving
    || (match t.block? e.cur.core e.cur.slot with
      | none => true
      | some b => b.threads.any (fun th => e.cur.tids.contains th.ltid && th.wait == .stopped))

/-- Takes a fault found before the effect, MEMERR after every other cause that the word raises (R387). -/
def State.faultLast (s : State) (e : Site) (w : Word) (f : Flt) (body : Site → State → State) : State :=
  if f.code != 0x0B || (checkable s e w).isEmpty then s.faultPre e w f
  else
    let t := body { e with act := checkable s e w } s
    if t.stoppedAt s e then t else s.faultPre e w f

/-! ### Finishing a word -/

/-- Changes the members: active ones by `f`, the others go on to the next word (R26). -/
def State.finish (s : State) (e : Site) (f : Thread → Thread) : State :=
  s.mapTids e.cur.core e.cur.slot (e.mem.map (fun th => th.ltid)) (fun th => if e.active th then f th else th.next)

/-- Every member goes on to the next word. -/
def State.pass (s : State) (e : Site) : State := s.finish e Thread.next

/-- A word acts in the core's open chunk; a block under EXACT has none (R132, R140). -/
def State.acts (s : State) (e : Site) : State :=
  if s.isExact e.cur.slot e.b then s else s.dirty e.cur.core

/-- The registers of a word, read or written, that are lane registers. -/
def usesLane (w : Word) (th : Thread) (i : BitVec 7) : Bool :=
  let sp := BitVec.ofNat 10 i.toNat
  (readSpecs w th).contains sp || (if w.getLsbD 63 then
      [Half.ofBits (fHalfA w), Half.ofBits (fHalfB w)].any (fun h => h.f.d == i)
    else (usedSpecs w).any (fun p => p.1 == sp))

/-- The word uses a register whose reply from the fabric engine has not arrived: the scoreboard holds it (R279). -/
def replyPending (s : State) (e : Site) (w : Word) : Bool :=
  (Tab.vals (s.ctx (s.ctxOf e.b)).streams).any (fun (st : Stream) => st.q.any (fun q => match q.reply with
    | some (slot, tids, reg) =>
      q.core == e.cur.core && slot == e.cur.slot && q.blk == some ⟨e.b.launch, e.b.lin⟩
        && e.act.any (fun th => tids.contains th.ltid && usesLane w th reg)
    | none => false))

/-- Issues a word for the members that `act` selects: without an active member it passes; otherwise the checks that come
before every effect are made, and then `body` gives the effect (R26, R183, R387). -/
def issueWith (w : Word) (act : Thread → Bool) (body : Site → State → State) (s : State) : State :=
  match s.site? act with
  | none => s
  | some e =>
    if e.act.isEmpty then (s.acts e).pass e
    else match preFault s e w with
      | some f => s.faultLast e w f body
      | none => if homeHeld s e w then s.waitLine e else if replyPending s e w then s.hold else body e s

/-- The active members of a full word: those whose guard is true, and every member when the guard is illegal (R183). -/
def fullActive (w : Word) (th : Thread) : Bool := !(fG w).ok || th.guard (fG w)

/-- The active members of a paired word: active in either half (R183). -/
def pairActive (w : Word) (th : Thread) : Bool :=
  th.halfGuard (Half.ofBits (fHalfA w)).f || th.halfGuard (Half.ofBits (fHalfB w)).f

/-- The word of an instruction; 0 for an event. -/
def wordOf (i : Instr) : Word := (encode i).getD 0

/-- Issues an instruction word whose effect is `body`. -/
def issue (i : Instr) (body : Site → State → State) (s : State) : State :=
  issueWith (wordOf i) (fullActive (wordOf i)) body s

/-- A body that acts within the open chunk: its sources are noted, and each active member changes by `f`. -/
def simple (i : Instr) (f : State → Site → Thread → Thread) (e : Site) (s : State) : State :=
  let s := (s.acts e).noteSources e (sourceOps (wordOf i))
  s.finish e (fun th => (f s e th).next)

/-- An instruction whose active members each write `d` with a value of their own sources (R191, R221). -/
def perThread (i : Instr) (d : Operand) (f : State → Site → Thread → Word) (s : State) : State :=
  issue i (simple i (fun s e th => (th.setD d (f s e th)).cleared d)) s

end Sys2Proof.Machine
end

