-- ==== Sys2Proof/Machine/Access.lean ====
section
/-! DEFINITION. Memory accesses of an issue group: the checks of all members before any access (R124), waiting on
translation (R383, R384), and memory errors (R388). -/

namespace Sys2Proof.Machine

/-- What an access is for: a plain access, one that only COMMITTED memory takes (R151), a source or destination of LDX (R256), or a
line that is named and whose data are not read (R255). -/
inductive Use where
  | plain | committed | ldxSrc | ldxDst | line
deriving DecidableEq, Repr

/-- One access that a thread will make. -/
structure Req where
  va   : Word
  n    : Nat
  al   : Nat
  need : Need
  use  : Use
deriving DecidableEq, Repr

/-- Checks one access (R107, R110-R112, R122, R124, R151, R256). -/
def checkReq (s : State) (c slot : Nat) (r : Req) : Except AccErr Target :=
  match r.use, checkAcc s c slot r.va r.n r.al r.need with
  | .committed, .ok t => if t.kind = 0 then .ok t else .error .perm
  | .ldxSrc, .ok (.desc _) => .error .perm
  | .ldxDst, res =>
    if r.va.toNat % r.al ≠ 0 then .error .align
    else if region r.va == .translated then .error .scratch
    else match res with
      | .ok (.slice tc o) => if tc = c then .ok (.slice tc o) else .error .scratch
      | _ => res
  | _, res => res

/-- The first failing check of one thread's accesses, in order; with it the failing access (R124). -/
def checkThread (s : State) (c slot : Nat) (rs : List Req) : Except (AccErr × Req) (List Target) :=
  match rs with
  | [] => .ok []
  | r :: rs =>
    match checkReq s c slot r with
    | .error e => .error (e, r)
    | .ok t =>
      match checkThread s c slot rs with
      | .error e => .error e
      | .ok ts => .ok (t :: ts)

/-- The bytes of a target may not be accessed now. -/
def targetHeld (s : State) (x : Nat) (t : Target) (n : Nat) : Bool :=
  match t with
  | .desc _ => false
  | _ => linesHeld s x t.key n

/-- Data that fail their check are consumed by an access: every access but a plain store, which meets a quarantined line
only; an LDX reads its source later (R256, R388). -/
def dataErr (s : State) (t : Target) (r : Req) : Option Nat :=
  match t with
  | .desc _ => none
  | _ =>
    if r.use == .line || r.use == .ldxSrc then none
    else if r.need == .write && r.use != .committed then
      if (linesOf t.key r.n).any (fun l => s.quar.contains l) then some 8 else none
    else lineErr s t.key r.n

/-- The partition's fault buffer is full (R383). -/
def xbufFull (s : State) (part : Nat) : Bool := 4096 ≤ (s.xreqs.filter (fun q => (s.ctx q.ctx).part == part)).length

/-- Posts a translation request, or joins an identical pending one; answers the request's tag, or none while the partition's buffer is
full (R383). A request is for the mode of `xlat` that stands when it arises (R374). -/
def State.postXlate (s : State) (x : Nat) (va : Word) (cls sub : Nat) : State × Option Nat :=
  let g := va.toNat / 65536
  match s.xreqs.find? (fun q => q.ctx == x && q.gran == g && q.cls == cls) with
  | some q => (s, some q.tag)
  | none =>
    if xbufFull s (s.ctx x).part then (s, none)
    else ({ s with xreqs := s.xreqs ++ [⟨x, g, cls, sub, s.xtag, va, false, (s.ctx x).mode.getLsbD 1⟩], xtag := (s.xtag + 1) % 65536 },
      some s.xtag)

/-- Posts the requests of a group or command, as (thread, address, class, subcode), as far as the buffer takes them: the tags by
thread, and whether all are posted (R383). -/
def State.postAll (s : State) (x : Nat) (rs : List (Nat × Word × Nat × Nat)) : State × List (Nat × Nat × Word) × Bool :=
  rs.foldl (fun acc q =>
    let p := acc.1.postXlate x q.2.1 q.2.2.1 q.2.2.2
    match p.2 with
    | some t => (p.1, acc.2.1 ++ [(q.1, t, q.2.1)], acc.2.2)
    | none => (p.1, acc.2.1, false)) (s, [], true)

/-- A member's request: its logical thread id, address, class and walk subcode. -/
structure XlReq where
  tid : Nat
  va  : Word
  cls : Nat
  sub : Nat
deriving DecidableEq, Repr

/-- A group waits on translation: the chunk ends before the instruction, requests are posted, and the members wait with
their path selected; while the buffer is full the group waits to post (R383). -/
def State.waitXlate (s : State) (e : Site) (rs : List XlReq) : State :=
  s.closeForTrap e.cur.core (fun s =>
    let r := s.postAll (s.ctxOf e.b) (rs.map (fun q => (q.tid, q.va, q.cls, q.sub)))
    if !r.2.2 then r.1.hold
    else
      let own := fun (th : Thread) => (r.2.1.find? (fun (p : Nat × Nat × Word) => p.1 == th.ltid)).map (fun p => p.2)
      let tags := (r.2.1.map (fun (p : Nat × Nat × Word) => p.2.1)).dedup
      (((r.1.mapTids e.cur.core e.cur.slot e.cur.tids (fun th =>
        if th.exited then th else { th with wait := .xlate tags (own th) none })).count e.cur.core 8 1).seal e.cur.core).hold)

/-- How the checks of a group end. -/
inductive Checked where
  | ok (ts : List (Thread × List Req × List Target))
  | fault (f : Flt) (lines : List Nat)
  | xlate (rs : List XlReq)
  | held
deriving DecidableEq, Repr

/-- The subcode of an access error. -/
def AccErr.sub : AccErr → Nat
  | .xlate n => n | .memerr n _ => n | _ => 0

/-- The line of a walker's entry that failed. -/
def AccErr.lines : AccErr → List Nat
  | .memerr _ l => [l] | _ => []

/-- The cause code of an access error (R386). -/
def AccErr.code : AccErr → Nat
  | .align => 7 | .perm => 9 | .scratch => 0x0A | .xlate _ => 8 | .memerr _ _ => 0x0B

/-- Checks the accesses of the active members (R124): the highest cause with the members that raise it and the address of
the lowest among them. -/
def checkGroup (s : State) (e : Site) (req : Thread → List Req) : Checked :=
  let rs := e.act.map (fun th => (th, req th, checkThread s e.cur.core e.cur.slot (req th)))
  let bad := rs.filterMap (fun r => match r.2.2 with
    | .error er => some (r.1, er.1, er.2)
    | .ok _ => none)
  match (List.range 5).findSome? (fun k => match bad.filter (fun b => b.2.1.rank == k) with
      | [] => none
      | b :: bs => some (k, b, b :: bs)) with
  | some (3, _, bs) => .xlate (bs.map (fun b => ⟨b.1.ltid, b.2.2.va, b.2.2.need.cls, b.2.1.sub⟩))
  | some (_, b, bs) => .fault ⟨b.2.1.code, b.2.1.sub, laneMask (bs.map (fun b => b.1)), b.2.2.va⟩ (bs.flatMap (fun b => b.2.1.lines))
  | none =>
    let oks := rs.filterMap (fun r => match r.2.2 with
      | .ok ts => some (r.1, r.2.1, ts)
      | .error _ => none)
    let held := oks.any (fun r => (r.2.1.zip r.2.2).any (fun p => p.1.use != .line && targetHeld s (s.ctxOf e.b) p.2 p.1.n))
    let errs := oks.filterMap (fun r => ((r.2.1.zip r.2.2).findSome? (fun p => (dataErr s p.2 p.1).map (fun sub =>
      (r.1, sub, p.1.va, linesOf p.2.key p.1.n)))))
    if held then .held
    else match errs with
      | [] => .ok oks
      | b :: bs => .fault ⟨0x0B, b.2.1, laneMask ((b :: bs).map (fun b => b.1)), b.2.2.1⟩
          ((b :: bs).flatMap (fun b => b.2.2.2))

/-- The translations that the accesses of a group use, with what they need. -/
def accessXlats (s : State) (e : Site) (req : Thread → List Req) : List (Xlat × Need) :=
  e.act.flatMap (fun th => (req th).filterMap (fun r => match checkReq s e.cur.core e.cur.slot r with
    | .ok (.main t) => some (t, r.need)
    | _ => none))

/-- The walks of a group set the accessed bits of the leaves that they have translated through, and the dirty bits when the accesses
`go`, before any access is performed (R380). -/
def State.noteWalks (s : State) (e : Site) (req : Thread → List Req) (go : Bool) : State :=
  (accessXlats s e req).foldl (fun s t => s.noteXlat e.cur.core (s.ctxOf e.b) t.1 (if go then t.2 else .read)) s

/-- A walk of a group met an entry that has changed since: it starts again (R380). -/
def walksStale (s : State) (ts : List (Thread × List Req × List Target)) : Bool :=
  ts.any (fun r => r.2.2.any (fun t => match t with
    | .main x => x.stale s
    | _ => false))

/-- Makes the accesses of a group when every check passes; otherwise takes the fault, waits on translation, or holds. -/
def State.access (s : State) (e : Site) (req : Thread → List Req)
    (k : List (Thread × List Req × List Target) → State → State) : State :=
  match checkGroup s e req with
  | .ok ts => if walksStale (s.noteWalks e req true) ts then (s.noteWalks e req true).hold else k ts (s.noteWalks e req true)
  | .held => (s.noteWalks e req false).waitLine e
  | .xlate rs => (s.noteWalks e req false).waitXlate e rs
  | .fault f lines => (s.noteWalks e req false).closeForTrap e.cur.core (fun s =>
      (s.quarantine (s.ctxOf e.b) lines e.cur.pc).fault e f)

end Sys2Proof.Machine
end

