-- ==== Sys2Proof/Machine/Phase.lean ====
section
/-! DEFINITION. Phase points of EXACT blocks (R140) and the limits of a chunk and of a phase store (R133, R142). -/

namespace Sys2Proof.Machine

/-- The site with some of its members. -/
def Site.restrict (e : Site) (keep : Thread → Bool) : Site :=
  let ms := e.mem.filter keep
  { e with cur := { e.cur with tids := ms.map (fun th => th.ltid) }, mem := ms, act := e.act.filter keep }

/-- The active members park at their phase point; the others go on (R140). -/
def State.parkPhase (s : State) (e : Site) : State := s.finish e (fun th => { th with wait := .phase })

/-- An instruction that forms a phase point: under EXACT its active members park before it, and it acts for those whose
phase has merged (R140); the others that arrived meanwhile form a later group. -/
def State.atPhase (s : State) (e : Site) (body : Site → State → State) : State :=
  if s.isExact e.cur.slot e.b then
    if e.act.any (fun th => th.acted) then body (e.restrict (fun th => th.acted || !e.active th)) s
    else s.parkPhase e
  else body e s

/-- The issue group of a phase point that has acted: the members that parked with the first of them, whatever group forms now (R338). -/
def Site.together (e : Site) : Site :=
  let first := (e.act.find? (fun th => th.acted)).bind (fun th => th.kept)
  let ms := if first.isNone then [] else
    e.b.threads.filter (fun th => th.running && th.quad == e.cur.quad && th.pc == e.cur.pc && th.acted && th.kept == first)
  if ms.isEmpty then e.restrict (fun th => th.acted || !e.active th)
  else { e with cur := { e.cur with tids := ms.map (fun th => th.ltid) }, mem := ms, act := ms }

/-- The same for a wait, whose group is evaluated as a whole: its active members park with the number of the group (R140, R338). -/
def State.atWait (s : State) (e : Site) (body : Site → State → State) : State :=
  if s.isExact e.cur.slot e.b then
    if e.act.any (fun th => th.acted) then body e.together s
    else s.finish e (fun th => { th with wait := .phase, kept := some (th.pc, false, BitVec.ofNat 64 s.tick) })
  else body e s

/-- An instruction at a level bound to CLUSTER or above: it ends the chunk before it, or forms a phase point (R133, R140,
R244). -/
def State.atHigh (s : State) (e : Site) (lvl : Nat) (body : Site → State → State) : State :=
  if (e.t.bind lvl).code < 4 then body e s
  else if s.isExact e.cur.slot e.b then s.atPhase e body
  else s.closeBefore e.cur.core (body e)

/-- A release at a level bound to CLUSTER or above waits while one of its core's accesses to RELEASE pages stands behind a store that an
EXACT block holds (R130, R131). -/
def State.whenLanded (s : State) (e : Site) (lvl : Nat) (act : State → State) : State :=
  if 4 ≤ (e.t.bind lvl).code && landsBlocked s (fun q => q.core == e.cur.core && !q.eff.isStream) then s.hold else act s

/-- The lines of stores to COMMITTED memory, as (key, bytes). -/
def storeLines (cells : List (Nat × Nat)) : List Nat := addNew [] (cells.flatMap (fun c => linesOf c.1 c.2))

/-- Stores to COMMITTED memory fit the phase store (R140, R142), or the chunk's shared lines and undo log (R133). -/
def storesFit (s : State) (e : Site) (cells : List (Nat × Nat)) : Bool :=
  if s.isExact e.cur.slot e.b then
    (addNew e.b.plines (storeLines cells)).length ≤ 4096
  else
    let h := (s.core e.cur.core).chunk
    match s.winBlock? e.cur.core e.cur.slot with
    | none => true
    | some w =>
      (addNew h.wr ((storeLines cells).filter (fun l => tracked s w.launch w.lin l))).length ≤ 512
        && (addNew h.grans ((cells.filter (fun c => inSlice e.cur.core c.1)).flatMap (fun c => granulesOf c.1 c.2))).length
          ≤ 4096

/-- A group stores to COMMITTED memory: when the stores do not fit, the chunk ends before them, or the members park at a
phase point (R133, R140). -/
def State.storing (s : State) (e : Site) (cells : List (Nat × Nat)) (act : State → State) : State :=
  if storesFit s e cells then act s
  else if s.isExact e.cur.slot e.b then s.parkPhase e
  else s.closeBefore e.cur.core act

end Sys2Proof.Machine
end

