-- ==== Sys2Proof/Machine/Integer.lean ====
section
/-! DEFINITION. The integer, address, predicate-logic and long-immediate instructions (R191-R208), each active thread
writing its own destination. -/

namespace Sys2Proof.Machine

/-- The answer of a meaning. -/
abbrev Out := Host.Outcome State Fault Refusal

/-- `OP d, a, b` of the integer group with an element function (R191). -/
def intForm3 (i : Instr) (f : Int3) (g : IntMod → Word → Word → Word) (s : State) : Out :=
  .next (perThread i f.d (fun s e th => g f.m (intSrc s e th f.m.w f.a) (intSrc s e th f.m.w f.b)) s)

/-- `OP d, a, b, c` of the integer group. -/
def intForm4 (i : Instr) (f : Int4) (g : IntMod → Word → Word → Word → Word) (s : State) : Out :=
  .next (perThread i f.d (fun s e th => g f.m (intSrc s e th f.m.w f.a) (intSrc s e th f.m.w f.b)
    (intSrc s e th f.m.w f.c)) s)

/-- `OP d, a` of the integer group. -/
def intForm2 (i : Instr) (f : Int2) (g : IntMod → Word → Word) (s : State) : Out :=
  .next (perThread i f.d (fun s e th => g f.m (intSrc s e th f.m.w f.a)) s)

/-- The modifier of an immediate form (R176, R197). -/
def immMod (f : IntI) : IntMod := ⟨if f.w32 then .w32 else .w64, f.sg, f.sat⟩

/-- `OP d, a, #imm` (R197): the extended immediate is an operand like b, read in the element's signedness (log 89). -/
def intFormI (i : Instr) (f : IntI) (g : IntMod → Word → Word → Word) (s : State) : Out :=
  .next (perThread i f.d (fun s e th => g (immMod f) (intSrc s e th (immMod f).w f.a) (f.imm.signExtend 64)) s)

/-! ### Arithmetic (R193-R195) -/

/-- ADDMIN and ADDMAX: the sum in the element width, then the choice (R193). -/
def addThen (sel : Int → Int → Int) (m : IntMod) (a b c : Word) : Word :=
  let n := wBits m.w
  mapElems { m with sat := false } (fun e =>
    sel (readInt n m.sg (narrow n m.sg m.sat (readInt n m.sg (elem a n e) + readInt n m.sg (elem b n e))))
      (readInt n m.sg (elem c n e)))

/-- MADW: products of narrow elements added to wide ones (R195). -/
def madw (m : IntMod) (a b c : Word) : Word :=
  let n := wBits m.w
  let k := if m.w == .w32 then 1 else 64 / (2 * n)
  pack (2 * n) ((List.range k).map (fun e => narrow (2 * n) m.sg m.sat
    (readInt n m.sg (elem a n e) * readInt n m.sg (elem b n e) + readInt (2 * n) m.sg (elem c (2 * n) e))))

/-- The sources of MADW: a constant c has the result's layout (R171, R195). -/
def madwWide : IntW → IntW
  | .w32 => .w64 | .w16x4 => .w32x2 | _ => .w16x4

/-- ADD (R193). -/
def execAdd (f : Int3) (s : State) : Out := intForm3 (.add f) f (fun m => int2 m (fun a b => a + b)) s

/-- ADDI (R197). -/
def execAddi (f : IntI) (s : State) : Out := intFormI (.addi f) f (fun m => int2 m (fun a b => a + b)) s

/-- SUB (R193). -/
def execSub (f : Int3) (s : State) : Out := intForm3 (.sub f) f (fun m => int2 m (fun a b => a - b)) s

/-- A form of ADDC or SUBB: the carry is read and written through predicate c, whose write wins over d's (R194). -/
def carryForm (i : Instr) (f : Int4) (ci : Bool) (g : Nat → Nat → Nat → Nat → Nat × Bool) (s : State) : Out :=
  .next (issue i (simple i (fun s e th =>
    let n := wBits f.m.w
    let k := if ci && e.read s th f.c != 0 then 1 else 0
    let r := g n (elem (intSrc s e th f.m.w f.a) n 0) (elem (intSrc s e th f.m.w f.b) n 0) k
    (((th.setD f.d (assemble f.m.w f.m.sg [r.1])).cleared f.d).setD f.c (boolWord r.2)).cleared f.c)) s)

/-- ADDC (R194). -/
def execAddc (f : Int4) (ci : Bool) (s : State) : Out := carryForm (.addc f ci) f ci addCarry s

/-- SUBB (R194). -/
def execSubb (f : Int4) (ci : Bool) (s : State) : Out := carryForm (.subb f ci) f ci subBorrow s

/-- MUL (R193). -/
def execMul (f : Int3) (s : State) : Out := intForm3 (.mul f) f (fun m => int2 m (fun a b => a * b)) s

/-- MULH (R193). -/
def execMulh (f : Int3) (s : State) : Out := intForm3 (.mulh f) f (fun m => int2 m (fun a b => a * b / 2 ^ wBits m.w)) s

/-- MAD (R193). -/
def execMad (f : Int4) (s : State) : Out := intForm4 (.mad f) f (fun m => int3 m (fun a b c => a * b + c)) s

/-- MADW (R195). -/
def execMadw (f : Int4) (s : State) : Out :=
  .next (perThread (.madw f) f.d (fun s e th => madw f.m (intSrc s e th f.m.w f.a) (intSrc s e th f.m.w f.b)
    (intSrc s e th (madwWide f.m.w) f.c)) s)

/-- DIV (R75, R193). -/
def execDiv (f : Int3) (s : State) : Out := intForm3 (.div f) f (fun m => int2 m (quot (wBits m.w))) s

/-- REM (R75, R193). -/
def execRem (f : Int3) (s : State) : Out := intForm3 (.rem f) f (fun m => int2 m rema) s

/-- ABS: a is read as signed whatever `sg` (R193). -/
def execAbs (f : Int2) (s : State) : Out := intForm2 (.abs f) f (fun m a => mapElems m (fun e => |readInt (wBits m.w) true (elem a (wBits m.w) e)|)) s

/-- MIN (R193). -/
def execMin (f : Int3) (s : State) : Out := intForm3 (.min f) f (fun m => int2 m min) s

/-- MAX (R193). -/
def execMax (f : Int3) (s : State) : Out := intForm3 (.max f) f (fun m => int2 m max) s

/-- CLAMP (R193). -/
def execClamp (f : Int4) (s : State) : Out := intForm4 (.clamp f) f (fun m => int3 m (fun a b c => min (max a b) c)) s

/-- ADDMIN (R193). -/
def execAddmin (f : Int4) (s : State) : Out := intForm4 (.addmin f) f (addThen min) s

/-- ADDMAX (R193). -/
def execAddmax (f : Int4) (s : State) : Out := intForm4 (.addmax f) f (addThen max) s

/-! ### Logic, shifts and bits (R196-R201) -/

/-- AND (R196). -/
def execAnd (f : Int3) (s : State) : Out := intForm3 (.and f) f (fun m => int2 m (bitsOf (wBits m.w) (fun x y => x &&& y))) s

/-- OR (R196). -/
def execOr (f : Int3) (s : State) : Out := intForm3 (.or f) f (fun m => int2 m (bitsOf (wBits m.w) (fun x y => x ||| y))) s

/-- XOR (R196). -/
def execXor (f : Int3) (s : State) : Out := intForm3 (.xor f) f (fun m => int2 m (bitsOf (wBits m.w) (fun x y => x ^^^ y))) s

/-- The complement of an `n`-bit value. -/
def notN (n a : Nat) : Nat := 2 ^ n - 1 - a

/-- ANDN (R196). -/
def execAndn (f : Int3) (s : State) : Out := intForm3 (.andn f) f (fun m => int2 m (bitsOf (wBits m.w) (fun x y => x &&& notN (wBits m.w) y))) s

/-- ORN (R196). -/
def execOrn (f : Int3) (s : State) : Out := intForm3 (.orn f) f (fun m => int2 m (bitsOf (wBits m.w) (fun x y => x ||| notN (wBits m.w) y))) s

/-- ANDI (R197). -/
def execAndi (f : IntI) (s : State) : Out := intFormI (.andi f) f (fun m => int2 m (bitsOf (wBits m.w) (fun x y => x &&& y))) s

/-- ORI (R197). -/
def execOri (f : IntI) (s : State) : Out := intFormI (.ori f) f (fun m => int2 m (bitsOf (wBits m.w) (fun x y => x ||| y))) s

/-- XORI (R197). -/
def execXori (f : IntI) (s : State) : Out := intFormI (.xori f) f (fun m => int2 m (bitsOf (wBits m.w) (fun x y => x ^^^ y))) s

/-- SHL (R74, R196). -/
def execShl (f : Int3) (s : State) : Out := intForm3 (.shl f) f (fun m => shiftOp m shlN) s

/-- SHR (R74, R196). -/
def execShr (f : Int3) (s : State) : Out := intForm3 (.shr f) f (fun m => shiftOp m shrN) s

/-- SAR (R74, R196). -/
def execSar (f : Int3) (s : State) : Out := intForm3 (.sar f) f (fun m => shiftOp m sarN) s

/-- ROL (R74, R196). -/
def execRol (f : Int3) (s : State) : Out := intForm3 (.rol f) f (fun m => shiftOp m rolN) s

/-- SHLI: the amount is imm[7:0] (R168, R197). -/
def execShli (f : IntI) (s : State) : Out := intFormI (.shli f) f (fun m => shiftOp m shlN) s

/-- SHRI: the amount is imm[7:0] (R168, R197). -/
def execShri (f : IntI) (s : State) : Out := intFormI (.shri f) f (fun m => shiftOp m shrN) s

/-- SARI: the amount is imm[7:0] (R168, R197). -/
def execSari (f : IntI) (s : State) : Out := intFormI (.sari f) f (fun m => shiftOp m sarN) s

/-- BFX (R198). -/
def execBfx (f : Int3) (s : State) : Out :=
  .next (perThread (.bfx f) f.d (fun s e th => assemble f.m.w f.m.sg
    [bfxN (wBits f.m.w) f.m.sg (elem (e.read s th f.a) (wBits f.m.w) 0) (e.read s th f.b)]) s)

/-- BFI (R198). -/
def execBfi (f : Int4) (s : State) : Out :=
  .next (perThread (.bfi f) f.d (fun s e th => assemble f.m.w f.m.sg
    [bfiN (wBits f.m.w) (elem (e.read s th f.a) (wBits f.m.w) 0) (elem (e.read s th f.b) (wBits f.m.w) 0)
      (e.read s th f.c)]) s)

/-- POPC (R199). -/
def execPopc (f : Int2) (s : State) : Out := intForm2 (.popc f) f (fun m => bitOp m popN) s

/-- CLZ (R199). -/
def execClz (f : Int2) (s : State) : Out := intForm2 (.clz f) f (fun m => bitOp m clzN) s

/-- CTZ (R199). -/
def execCtz (f : Int2) (s : State) : Out := intForm2 (.ctz f) f (fun m => bitOp m ctzN) s

/-- BREV (R199). -/
def execBrev (f : Int2) (s : State) : Out := intForm2 (.brev f) f (fun m => bitOp m brevN) s

/-- BPERM (R200). -/
def execBperm (f : Plain4) (s : State) : Out :=
  .next (perThread (.bperm f) f.d (fun s e th => bpermW (e.read s th f.a) (e.read s th f.b) (e.read s th f.c)) s)

/-- SEL (R201). -/
def execSel (f : Plain4) (s : State) : Out :=
  .next (perThread (.sel f) f.d (fun s e th => if e.read s th f.c != 0 then e.read s th f.a else e.read s th f.b) s)

/-! ### Comparison and addresses (R202-R204) -/

/-- CMP (R202). -/
def execCmp (f : Int4x) (s : State) : Out :=
  .next (perThread (.cmp f) f.d (fun s e th => cmpResult f.d f.w f.sg (e.read s th f.c != 0)
    (cmpElems f.w f.sg f.x (intSrc s e th f.w f.a) (intSrc s e th f.w f.b))) s)

/-- CMPI (R203). -/
def execCmpi (f : CmpI) (s : State) : Out :=
  .next (perThread (.cmpi f) f.d (fun s e th => cmpResult f.d .w64 false true
    [cmpiCond f.cc (e.read s th f.a) (f.imm.signExtend 64)]) s)

/-- LEA (R204). -/
def execLea (f : Int4x) (s : State) : Out :=
  .next (perThread (.lea f) f.d (fun s e th => assemble f.w f.sg
    [wrap (wBits f.w) ((elem (e.read s th f.a) (wBits f.w) 0 : Int)
      + shlN (wBits f.w) (elem (e.read s th f.b) (wBits f.w) 0) f.x.toNat + elem (e.read s th f.c) (wBits f.w) 0)]) s)

/-! ### Long immediates and predicate logic (R206-R208) -/

/-- MOVL (R206). -/
def movlW (sel : BitVec 2) (imm : BitVec 32) (d : Word) : Word :=
  if sel = 0 then imm.setWidth 64
  else if sel = 1 then imm.signExtend 64
  else if sel = 2 then imm ++ d.extractLsb' 0 32
  else imm ++ (0 : BitVec 32)

/-- MOVL (R206). -/
def execMovl (f : LongI) (s : State) : Out :=
  .next (perThread (.movl f) f.d (fun s e th => movlW f.sel f.imm (e.read s th f.d)) s)

/-- ADDL (R206). -/
def execAddl (f : LongI) (s : State) : Out :=
  .next (perThread (.addl f) f.d (fun s e th => e.read s th f.d
    + (if f.sel = 0 then f.imm.signExtend 64 else f.imm ++ (0 : BitVec 32))) s)

/-- PLOG (R207). -/
def execPlog (f : PredF) (s : State) : Out :=
  .next (perThread (.plog f) f.d (fun s e th =>
    boolWord (f.x.getLsbD (2 * (e.read s th f.a).toNat + (e.read s th f.b).toNat))) s)

/-- PSET (R208). -/
def execPset (f : PredF) (s : State) : Out :=
  .next (perThread (.pset f) f.d (fun s e th =>
    boolWord ((e.read s th f.a).getLsbD ((e.read s th f.b).toNat % 64) != f.x.getLsbD 0)) s)

end Sys2Proof.Machine
end

