-- ==== Sys2Proof/Machine/FloatOps.lean ====
section
/-! DEFINITION. The floating-point instructions 0x40 to 0x54 (R220-R229). -/

namespace Sys2Proof.Machine

/-- A source of a floating-point form: a constant is its value in every element (R171). -/
def fltSrc (s : State) (e : Site) (th : Thread) (fmt : FFmt) (o : Operand) : Word :=
  match o with
  | .const k => fltConst fmt k
  | _ => e.read s th o

/-- A register result with its flags. -/
abbrev WRes := Word × FFlags

/-- Applies `g` to each element number of a layout; the flags are the union (R86, R221). -/
def fltMap (fmt : FFmt) (g : Nat → Res) : WRes :=
  let rs := (List.range fmt.ne).map g
  (pack (ffOf fmt).bits (rs.map (fun r => r.1)), rs.foldl (fun fl r => fl ||| r.2) fNone)

/-- Element `k` of a floating-point source, as an encoding. -/
def fltEl (fmt : FFmt) (x : Word) (k : Nat) : Nat := elem x (ffOf fmt).bits k

/-- An instruction whose active members each write `d` and raise flags (R86, R221). -/
def perThreadF (i : Instr) (d : Operand) (f : State → Site → Thread → WRes) (s : State) : State :=
  issue i (simple i (fun s e th => (((th.setD d (f s e th).1).cleared d).flag (f s e th).2))) s

/-- The rounding mode of a thread (R80). -/
def Thread.rm (th : Thread) (rm : RM) : RM := rmInForce rm th.frm

/-- `OP d, a` of the rounding forms. -/
def fltForm2 (i : Instr) (f : Flt2) (g : FF → RM → Bool → Fv → Res) (s : State) : Out :=
  .next (perThreadF i f.d (fun s e th =>
    let a := fltSrc s e th f.m.fmt f.a
    let ff := (ffOf f.m.fmt)
    fltMap f.m.fmt (fun k => g ff (th.rm f.m.rm) f.m.ftz (ff.input f.m.ftz (fltEl f.m.fmt a k)))) s)

/-- `OP d, a, b` of the rounding forms. -/
def fltForm3 (i : Instr) (f : Flt3) (g : FF → RM → Bool → Fv → Fv → Res) (s : State) : Out :=
  .next (perThreadF i f.d (fun s e th =>
    let a := fltSrc s e th f.m.fmt f.a
    let b := fltSrc s e th f.m.fmt f.b
    let ff := (ffOf f.m.fmt)
    fltMap f.m.fmt (fun k => g ff (th.rm f.m.rm) f.m.ftz (ff.input f.m.ftz (fltEl f.m.fmt a k))
      (ff.input f.m.ftz (fltEl f.m.fmt b k)))) s)

/-- `OP d, a, b, c` of the rounding forms, on values. -/
def fltForm4 (i : Instr) (f : Flt4) (g : FF → RM → Bool → Fv → Fv → Fv → Res) (s : State) : Out :=
  .next (perThreadF i f.d (fun s e th =>
    let a := fltSrc s e th f.m.fmt f.a
    let b := fltSrc s e th f.m.fmt f.b
    let c := fltSrc s e th f.m.fmt f.c
    let ff := (ffOf f.m.fmt)
    fltMap f.m.fmt (fun k => g ff (th.rm f.m.rm) f.m.ftz (ff.input f.m.ftz (fltEl f.m.fmt a k))
      (ff.input f.m.ftz (fltEl f.m.fmt b k)) (ff.input f.m.ftz (fltEl f.m.fmt c k)))) s)

/-- FADD (R223). -/
def execFadd (f : Flt3) (s : State) : Out := fltForm3 (.fadd f) f FF.add s

/-- FSUB (R223). -/
def execFsub (f : Flt3) (s : State) : Out := fltForm3 (.fsub f) f (fun ff rm z a b => ff.add rm z a b.negate) s

/-- FMUL (R223). -/
def execFmul (f : Flt3) (s : State) : Out := fltForm3 (.fmul f) f FF.mul s

/-- FFMA (R223). -/
def execFfma (f : Flt4) (s : State) : Out := fltForm4 (.ffma f) f FF.fma s

/-- FFMS (R223). -/
def execFfms (f : Flt4) (s : State) : Out := fltForm4 (.ffms f) f (fun ff rm z a b c => ff.fma rm z a b c.negate) s

/-- FNMA (R223). -/
def execFnma (f : Flt4) (s : State) : Out := fltForm4 (.fnma f) f (fun ff rm z a b c => ff.fma rm z a.negate b c) s

/-- FDIV (R223). -/
def execFdiv (f : Flt3) (s : State) : Out := fltForm3 (.fdiv f) f FF.div s

/-- FSQRT (R223). -/
def execFsqrt (f : Flt2) (s : State) : Out := fltForm2 (.fsqrt f) f FF.sqrt s

/-- FRND (R223). -/
def execFrnd (f : Flt2) (s : State) : Out := fltForm2 (.frnd f) f FF.rint s

/-- FSCALE: b is read as integers of the element width (R171, R223). -/
def execFscale (f : Flt3) (s : State) : Out :=
  .next (perThreadF (.fscale f) f.d (fun s e th =>
    let ff := (ffOf f.m.fmt)
    let a := fltSrc s e th f.m.fmt f.a
    let b := match f.b with
      | .const k => pack ff.bits (List.replicate f.m.fmt.ne (wrap ff.bits k.toInt))
      | o => e.read s th o
    fltMap f.m.fmt (fun k => ff.scale (th.rm f.m.rm) f.m.ftz (ff.input f.m.ftz (fltEl f.m.fmt a k))
      (readInt ff.bits true (elem b ff.bits k)))) s)

/-- `OP d, a` of the exact forms, on encodings (R225, R227). -/
def fltFormU (i : Instr) (f : FUn) (g : FF → Bool → Nat → Res) (s : State) : Out :=
  .next (perThreadF i f.d (fun s e th =>
    fltMap f.fmt (fun k => g (ffOf f.fmt) f.ftz (fltEl f.fmt (fltSrc s e th f.fmt f.a) k))) s)

/-- FGETEXP (R223). -/
def execFgetexp (f : FUn) (s : State) : Out := fltFormU (.fgetexp f) f (fun ff z x => ff.getexp (ff.input z x)) s

/-- FGETMANT (R223). -/
def execFgetmant (f : FUn) (s : State) : Out := fltFormU (.fgetmant f) f (fun ff z x => ff.getmant (ff.input z x)) s

/-- FABS (R225). -/
def execFabs (f : FUn) (s : State) : Out := fltFormU (.fabs f) f (fun ff z x => ff.sign z x false) s

/-- FNEG (R225). -/
def execFneg (f : FUn) (s : State) : Out := fltFormU (.fneg f) f (fun ff z x => ff.sign z x (!(ff.read x).neg)) s

/-- FCLASS (R227). -/
def execFclass (f : FUn) (s : State) : Out := fltFormU (.fclass f) f (fun ff z x => (ff.cls z x, fNone)) s

/-- FSIGN (R225). -/
def execFsign (f : FBin) (s : State) : Out :=
  .next (perThreadF (.fsign f) f.d (fun s e th =>
    let a := fltSrc s e th f.fmt f.a
    let b := fltSrc s e th f.fmt f.b
    fltMap f.fmt (fun k => (ffOf f.fmt).sign f.ftz (fltEl f.fmt a k) ((ffOf f.fmt).read (fltEl f.fmt b k)).neg)) s)

/-- A form of FMIN and FMAX (R224). -/
def minmaxForm (i : Instr) (f : FMinMax) (isMax : Bool) (s : State) : Out :=
  .next (perThreadF i f.d (fun s e th =>
    let a := fltSrc s e th f.fmt f.a
    let b := fltSrc s e th f.fmt f.b
    fltMap f.fmt (fun k => (ffOf f.fmt).minmax isMax f.ftz f.num (fltEl f.fmt a k) (fltEl f.fmt b k))) s)

/-- FMIN (R224). -/
def execFmin (f : FMinMax) (s : State) : Out := minmaxForm (.fmin f) f false s

/-- FMAX (R224). -/
def execFmax (f : FMinMax) (s : State) : Out := minmaxForm (.fmax f) f true s

/-- FCMP: a predicate takes one truth value, a lane register a mask per element (R226). -/
def execFcmp (f : FCmp) (s : State) : Out :=
  .next (perThreadF (.fcmp f) f.d (fun s e th =>
    let a := fltSrc s e th f.fmt f.a
    let b := fltSrc s e th f.fmt f.b
    let ff := (ffOf f.fmt)
    let rs := (List.range f.fmt.ne).map (fun k => fcmpCond f.cc (ff.input f.ftz (fltEl f.fmt a k))
      (ff.input f.ftz (fltEl f.fmt b k)))
    let c := e.read s th f.c != 0
    (match f.d with
      | .pred _ => boolWord (c && rs.all (fun r => r.1))
      | _ => pack ff.bits (rs.map (fun r => if c && r.1 then 2 ^ ff.bits - 1 else 0)),
     rs.foldl (fun fl r => fl ||| r.2) fNone)) s)

/-- TWOSUM: c is written after d and wins (R228). -/
def execTwosum (f : Flt4) (s : State) : Out :=
  .next (issue (.twosum f) (simple (.twosum f) (fun s e th =>
    let a := fltSrc s e th f.m.fmt f.a
    let b := fltSrc s e th f.m.fmt f.b
    let ff := (ffOf f.m.fmt)
    let rs := (List.range f.m.fmt.ne).map (fun k => ff.twosum (th.rm f.m.rm) f.m.ftz
      (ff.input f.m.ftz (fltEl f.m.fmt a k)) (ff.input f.m.ftz (fltEl f.m.fmt b k)))
    ((((th.setD f.d (pack ff.bits (rs.map (fun r => r.1)))).cleared f.d).setD f.c
      (pack ff.bits (rs.map (fun r => r.2.1)))).cleared f.c).flag (rs.foldl (fun fl r => fl ||| r.2.2) fNone))) s)

/-- FADDMIN (R229). -/
def execFaddmin (f : Flt4) (s : State) : Out :=
  .next (perThreadF (.faddmin f) f.d (fun s e th =>
    let a := fltSrc s e th f.m.fmt f.a
    let b := fltSrc s e th f.m.fmt f.b
    let c := fltSrc s e th f.m.fmt f.c
    let ff := (ffOf f.m.fmt)
    fltMap f.m.fmt (fun k =>
      let r := ff.add (th.rm f.m.rm) f.m.ftz (ff.input f.m.ftz (fltEl f.m.fmt a k)) (ff.input f.m.ftz (fltEl f.m.fmt b k))
      let m := ff.minmax false f.m.ftz false r.1 (fltEl f.m.fmt c k)
      (m.1, r.2 ||| m.2))) s)

end Sys2Proof.Machine
end

