-- ==== Sys2Proof/Machine/Reduce.lean ====
section
/-! DEFINITION. The operators of R64, the balanced tree of R96 and the prefixes of R97. -/

namespace Sys2Proof.Machine

/-- A value as the operator reads it: f32 operators read bits 31:0 (R64). -/
def redVal (op : RedOp) (x : Word) : Word :=
  match op with
  | .faddF32 => x &&& 0xFFFFFFFF
  | .fminF32 => x &&& 0xFFFFFFFF
  | .fmaxF32 => x &&& 0xFFFFFFFF
  | _ => x

/-- The layout of a floating-point operator (R64). -/
def redFmt (op : RedOp) : Option FFmt :=
  match op with
  | .faddF64 => some .f64 | .fmulF64 => some .f64 | .fminF64 => some .f64 | .fmaxF64 => some .f64
  | .faddF32 => some .f32 | .fminF32 => some .f32 | .fmaxF32 => some .f32
  | _ => none

/-- A source of an operator of R64: a constant of a floating-point operator is its value in the operator's format (R171). -/
def redSrc (op : RedOp) (s : State) (e : Site) (th : Thread) (o : Operand) : Word :=
  match o, redFmt op with
  | .const k, some fmt => fltConst fmt k
  | _, _ => e.read s th o

/-- A floating-point result as a word. -/
def redRes (r : Res) : WRes := (BitVec.ofNat 64 r.1, r.2)

/-- One application of an operator, with the rounding mode of codes 6 to 8 (R64, R247). -/
def redApp (op : RedOp) (rm : RM) (a b : Word) : WRes :=
  let x := (redVal op a).toNat
  let y := (redVal op b).toNat
  match op with
  | .addN64 => (a + b, fNone)
  | .addI64 => (a + b, fNone)
  | .minI64 => (if b.toInt < a.toInt then b else a, fNone)
  | .maxI64 => (if a.toInt < b.toInt then b else a, fNone)
  | .minN64 => (if b.toNat < a.toNat then b else a, fNone)
  | .maxN64 => (if a.toNat < b.toNat then b else a, fNone)
  | .faddF64 => redRes (FF.f64.add rm false (FF.f64.read x) (FF.f64.read y))
  | .faddF32 => redRes (FF.f32.add rm false (FF.f32.read x) (FF.f32.read y))
  | .fmulF64 => redRes (FF.f64.mul rm false (FF.f64.read x) (FF.f64.read y))
  | .fminF64 => redRes (FF.f64.minmax false false false x y)
  | .fmaxF64 => redRes (FF.f64.minmax true false false x y)
  | .fminF32 => redRes (FF.f32.minmax false false false x y)
  | .fmaxF32 => redRes (FF.f32.minmax true false false x y)
  | .and => (a &&& b, fNone)
  | .or => (a ||| b, fNone)
  | .xor => (a ^^^ b, fNone)

/-- Combines two spans; an absent one is skipped (R96). -/
def redJoin (op : RedOp) (rm : RM) (a b : Option WRes) : Option WRes :=
  match a, b with
  | none, b => b
  | a, none => a
  | some x, some y =>
    let r := redApp op rm x.1 y.1
    some (r.1, x.2 ||| y.2 ||| r.2)

/-- `tree(lo, 2^k)` over the values of the present ranks (R96). -/
def redTree (op : RedOp) (rm : RM) (x : Nat → Option Word) (lo k : Nat) : Option WRes :=
  match k with
  | 0 => (x lo).map (fun w => (redVal op w, fNone))
  | k + 1 => redJoin op rm (redTree op rm x lo k) (redTree op rm x (lo + 2 ^ k) k)

/-- The exponent of the smallest power of two not below `n` (R96). -/
def treeLog (n : Nat) : Nat := ((List.range 64).find? (fun k => n ≤ 2 ^ k)).getD 64

/-- The reduction over ranks 0 to `n` - 1; zero bits when no member is present (R96). -/
def reduction (op : RedOp) (rm : RM) (x : Nat → Option Word) (n : Nat) : WRes :=
  (redTree op rm x 0 (treeLog n)).getD (0, fNone)

/-- The value over ranks 0 to `m` - 1, from the aligned spans of `m`, largest first (R97). -/
def prefixOf (op : RedOp) (rm : RM) (x : Nat → Option Word) (m : Nat) : Option WRes :=
  ((List.range 32).reverse.foldl (fun (acc : Option WRes × Nat) k =>
    if m.testBit k then (redJoin op rm acc.1 (redTree op rm x acc.2 k), acc.2 + 2 ^ k) else acc) (none, 0)).1

/-- The value of rank `r` among some. -/
def atRank (xs : List (Nat × Word)) (r : Nat) : Option Word := (xs.find? (fun p => p.1 == r)).map (fun p => p.2)

end Sys2Proof.Machine
end

