-- ==== Sys2Proof/Machine/Mov.lean ====
section
/-! DEFINITION. MOV and the upward writes of scoped registers (R54-R61, R205). -/

namespace Sys2Proof.Machine

/-- The source of a MOV after the `w` step (R48, R205). -/
def movSrc (s : State) (e : Site) (th : Thread) (f : MovF) : Word :=
  assemble f.w f.sg [elem (e.read s th f.a) (wBits f.w) 0]

/-- The value that a MOV with `red` contributes: a constant is read for the operator, so a floating-point `red` converts it to the
operator's format. R171 leaves open whether MOV takes it as an integer here (R205; log 105, DESIGN CHOICE). -/
def movVal (s : State) (e : Site) (th : Thread) (f : MovF) : Word :=
  if f.rd then redSrc f.red s e th f.a else movSrc s e th f

/-- The issuing threads of each node with their values, nodes in ascending rank (R55). -/
def Site.byNode (e : Site) (l : Nat) (vs : List (Thread × Word)) : List (Nat × List (Thread × Word)) :=
  let node := fun (th : Thread) => if l ≤ e.t.blockLvl then e.node th l else e.t.highNode l e.b.lin
  (addNew [] (vs.map (fun v => node v.1))).reverse.map (fun n => (n, vs.filter (fun v => node v.1 == n)))

/-- The members of a node that disagree with its reference member (R56). -/
def disagreeing (vs : List (Thread × Word)) : List Thread :=
  match vs with
  | [] => []
  | r :: vs => (vs.filter (fun v => v.2 != r.2)).map (fun v => v.1)

/-- The old value of a scoped register of a node (R55, R61). -/
def scopedOld (s : State) (e : Site) (l i node : Nat) : Word :=
  if l ≤ e.t.blockLvl then Tab.get 0 e.b.nregs (nodeKey l node i)
  else match homeKey (s.launchOf e.b) e.b.lin l i with
    | some key => leWord (comRead s e.cur.core e.cur.slot key 8)
    | none => 0

/-- Writes a scoped register of a node (R55, R61); its data are good again (R388). A write of a home slice by the threads `who` ends the
reservations of others on its bytes (R151). -/
def State.putScoped (s : State) (e : Site) (who : List Nat) (l i node : Nat) (w : Word) : State :=
  if l ≤ e.t.blockLvl then
    s.updBlock e.cur.core e.cur.slot (fun b => { b with
      nregs := Tab.set 0 b.nregs (nodeKey l node i) w
      threads := b.threads.map (fun th => if e.node th l == node
        then th.cleared (.scoped (BitVec.ofNat 4 l) (BitVec.ofNat 5 i)) else th) })
  else match homeKey (s.launchOf e.b) e.b.lin l i with
    | some key => (s.comWrite e.cur.core e.cur.slot key (natLe 8 w.toNat)).clearResv e.cur.core e.cur.slot
        (if who.length = 1 then who.headD 4096 else 4096) key 8
    | none => s

/-- The upward write of one node: the common value, or the reduction of its issuing threads (R55, R61). -/
def State.movNode (s : State) (e : Site) (f : MovF) (l i : Nat) (n : Nat × List (Thread × Word)) : State :=
  let tids := n.2.map (fun v => v.1.ltid)
  let s := n.2.foldl (fun s v => s.noteScoped e v.1 l i true true) s
  if f.rd then
    let r := reduction f.red .rne (atRank (n.2.map (fun v => (e.t.rank l e.b.lin v.1.ltid, v.2)))) (e.t.per l)
    if f.acc then
      if s.isExact e.cur.slot e.b && e.t.blockLvl < l then
        match homeKey (s.launchOf e.b) e.b.lin l i with
        | some key => (s.updBlock e.cur.core e.cur.slot (fun b => { b with pops := b.pops ++ [.acc key f.red r.1 tids] })
            ).mapTids e.cur.core e.cur.slot tids (fun th => th.flag r.2)
        | none => s
      else
        let s := match homeKey (s.launchOf e.b) e.b.lin l i with
          | some key => if e.t.blockLvl < l then s.trackRead e.cur.core e.cur.slot key 8 else s
          | none => s
        let q := redApp f.red .rne (scopedOld s e l i n.1) r.1
        (s.putScoped e tids l i n.1 q.1).mapTids e.cur.core e.cur.slot tids (fun th => th.flag (r.2 ||| q.2))
    else (s.putScoped e tids l i n.1 r.1).mapTids e.cur.core e.cur.slot tids (fun th => th.flag r.2)
  else s.putScoped e tids l i n.1 ((n.2.head?.map (fun v => v.2)).getD 0)

/-- The bytes that an upward write stores at once in COMMITTED memory (R61). -/
def movCells (s : State) (e : Site) (f : MovF) (l i : Nat) : List (Nat × Nat) :=
  if l ≤ e.t.blockLvl || (f.acc && s.isExact e.cur.slot e.b) then []
  else match homeKey (s.launchOf e.b) e.b.lin l i with
    | some key => [(key, 8)]
    | none => []

/-- MOV to a scoped register: agreement, then the write of each node (R55, R56, R61). -/
def movUp (f : MovF) (l i : Nat) (e : Site) (s : State) : State :=
  let ns := e.byNode l (e.act.map (fun th => (th, movVal s e th f)))
  let bad := if f.rd then [] else ns.filter (fun n => !(disagreeing n.2).isEmpty)
  match bad with
  | n :: _ => s.fault e ⟨5, 0, laneMask (bad.flatMap (fun n => disagreeing n.2)), (n.2.head?.map (fun v => v.2)).getD 0⟩
  | [] =>
    match (if f.acc then scopedErr s e f.d else none) with
    | some sub => s.closeForTrap e.cur.core (fun s => (s.quarantine (s.ctxOf e.b) (((operandHome s e f.d).map (fun k =>
        linesOf k 8)).getD []) e.cur.pc).fault e ⟨0x0B, sub, laneMask e.act, f.d.enc.setWidth 64⟩)
    | none =>
      s.storing e (movCells s e f l i) (fun s =>
        let s := (s.acts e).noteSources e [f.a]
        (ns.foldl (fun s n => s.movNode e f l i n) s).pass e)

/-- MOV (R205). -/
def execMov (f : MovF) (s : State) : Host.Outcome State Fault Refusal :=
  .next (issue (.mov f) (fun e s => match f.d with
    | .scoped l i => movUp f l.toNat i.toNat e s
    | d => simple (.mov f) (fun s e th => (th.setD d (movSrc s e th f)).cleared d) e s) s)

end Sys2Proof.Machine
end

