-- ==== Sys2Proof/Machine/Rendezvous.lean ====
section
/-! DEFINITION. Rendezvous operations: arrival, completion, and the detection of a block that cannot go on (R32, R34,
R209, R210, R243-R250). -/

namespace Sys2Proof.Machine

/-- The level of a rendezvous operation. -/
def rendLvl : Instr → Nat
  | .vote f => f.lvl.toNat
  | .ballot f => f.lvl.toNat
  | .shfl f => f.lvl.toNat
  | .lshift f => f.lvl.toNat
  | .scan f => f.lvl.toNat
  | .reduce f => f.lvl.toNat
  | .compact f => f.lvl.toNat
  | .match_ f => f.lvl.toNat
  | .elect f => f.lvl.toNat
  | _ => 0

/-- One parked thread of an instance: where it stands, its rank in the node, whether it contributes, its operands. -/
structure Party where
  core : Nat
  slot : Nat
  th   : Thread
  rank : Nat
  act  : Bool
  a    : Word
  b    : Word
deriving DecidableEq, Repr

/-! ### Results -/

/-- The value of the contributor of rank `r`. -/
def valueAt (ps : List Party) (r : Nat) : Option Word :=
  (ps.find? (fun p => p.act && p.rank == r)).map (fun p => p.a)

/-- VOTE's result over the contributors' truth values (R209). -/
def voteResult (mode : Nat) (vs : List Bool) : Bool :=
  match mode with
  | 0 => vs.all (fun v => v)
  | 1 => vs.any (fun v => v)
  | _ => vs.all (fun v => v) || vs.all (fun v => !v)

/-- A mask over the 64 ranks of window `k` (R210, R249). -/
def rankMask (ps : List Party) (k : Nat) (ok : Party → Bool) : Word :=
  ps.foldl (fun m p => if p.act && p.rank / 64 == k && ok p then m ||| BitVec.ofNat 64 (2 ^ (p.rank % 64)) else m) 0

/-- SHFL's source rank (R245). -/
def shflSource (mode : Nat) (r : Nat) (x : Word) : Option Nat :=
  match mode with
  | 0 => some x.toNat
  | 1 => if r < x.toNat then none else some (r - x.toNat)
  | 2 => some (r + x.toNat)
  | _ => some (BitVec.ofNat 64 r ^^^ x).toNat

/-- LSHIFT's source rank (R246). -/
def lshiftSource (down : Bool) (r k : Nat) : Option Nat :=
  if down then some (r + k) else if r < k then none else some (r - k)

/-- A source rank's value, when it lies in the node and contributes. -/
def fromRank (ps : List Party) (n : Nat) (src : Option Nat) (own : Word) : Word :=
  match src with
  | some r => if r < n then (valueAt ps r).getD own else own
  | none => own

/-- SCAN's result at a rank (R97, R247). -/
def scanAt (f : ScanF) (ps : List Party) (r : Nat) : WRes :=
  (prefixOf f.red f.rm (valueAt ps) (if f.excl then r else r + 1)).getD (0, fNone)

/-- The union of the flags of an instance's results. -/
def unionFlags (rs : List WRes) : FFlags := rs.foldl (fun fl r => fl ||| r.2) fNone

/-- What the completion of an instance of `n` threads does to a contributor (R209, R210, R245-R250). -/
def rendEffect (i : Instr) (n : Nat) (ps : List Party) (p : Party) (th : Thread) : Thread :=
  match i with
  | .vote f =>
    (th.setD f.d (boolWord (voteResult f.mode.toNat ((ps.filter (fun q => q.act)).map (fun q => q.a != 0))))).cleared f.d
  | .ballot f => (th.setD f.d (rankMask ps f.imm.toNat (fun q => q.a != 0))).cleared f.d
  | .shfl f => (th.setD f.d (fromRank ps n (shflSource f.mode.toNat p.rank p.b) p.a)).cleared f.d
  | .lshift f => (th.setD f.d (fromRank ps n (lshiftSource (f.mode != 0) p.rank f.imm.toNat) p.b)).cleared f.d
  | .scan f =>
    ((th.setD f.d (scanAt f ps p.rank).1).cleared f.d).flag
      (unionFlags ((ps.filter (fun q => q.act)).map (fun q => scanAt f ps q.rank)))
  | .reduce f =>
    ((th.setD f.d (reduction f.red f.rm (valueAt ps) n).1).cleared f.d).flag (reduction f.red f.rm (valueAt ps) n).2
  | .compact f =>
    (((th.setD f.d (BitVec.ofNat 64 (ps.filter (fun q => q.act && q.rank < p.rank && q.a != 0)).length)).cleared f.d).setD
      f.b (BitVec.ofNat 64 (ps.filter (fun q => q.act && q.a != 0)).length)).cleared f.b
  | .match_ f => (th.setD f.d (rankMask ps f.imm.toNat (fun q => q.a == p.a))).cleared f.d
  | .elect f => (th.setD f.d (boolWord (!(ps.any (fun q => q.act && q.rank < p.rank))))).cleared f.d
  | _ => th

/-! ### Nodes -/

/-- Every resident block of a launch, with its core and slot. -/
def State.blocksOf (s : State) (l : Nat) : List (Nat × Nat × Block) :=
  s.cores.flatMap (fun c => (c.2.arch.blocks.filter (fun e => e.1 != handlerSlot && e.2.launch == l)).map
    (fun e => (c.1, e.1, e.2)))

/-- The resident blocks of the level-`l` node, at or above the block level, that holds a block. -/
def State.nodeBlocks (s : State) (b : Block) (t : Tree) (l : Nat) : List (Nat × Nat × Block) :=
  (s.blocksOf b.launch).filter (fun e => t.highNode l e.2.2.lin == t.highNode l b.lin)

/-- Every block of the node that the launch places has been placed, and none stands in a save area (R24, R244). -/
def State.nodePlaced (s : State) (b : Block) (t : Tree) (l : Nat) : Bool :=
  let ln := s.launchOf b
  min t.placed ((t.highNode l b.lin + 1) * t.blocksPer l) ≤ ln.next
    && s.cores.all (fun c => c.2.saved.all (fun sv => sv.arch.blocks.all (fun e =>
      e.2.launch != b.launch || t.highNode l e.2.lin != t.highNode l b.lin)))

/-- The thread has exited for good: its exit lies in no open chunk that a squash could still undo (R137). -/
def State.goneAt (s : State) (c slot : Nat) (b : Block) (th : Thread) : Bool :=
  th.exited && (s.isExact slot b || (match (s.core c).chunk.snap with
    | some a => ((a.block? slot).bind (fun o => o.thread? th.ltid)).all (fun o => o.exited)
    | none => true))

/-- The non-exited threads of a thread's level-`l` node, by core and slot. Above the block an exit counts once it is final (R261). -/
def State.nodeThreads (s : State) (c slot : Nat) (b : Block) (t : Tree) (l ltid : Nat) : List (Nat × Nat × Block × Thread) :=
  if l ≤ t.blockLvl then
    (b.threads.filter (fun th => th.live && th.ltid / max 1 (t.per l) == ltid / max 1 (t.per l))).map
      (fun th => (c, slot, b, th))
  else (s.nodeBlocks b t l).flatMap (fun e => (e.2.2.threads.filter (fun th => !s.goneAt e.1 e.2.1 e.2.2 th)).map
    (fun th => (e.1, e.2.1, e.2.2, th)))

/-- The parties of the instance that a parked thread belongs to, when it can complete now (R32, R244). -/
def State.parties? (s : State) (c slot tid : Nat) : Option (Instr × Tree × List Party) :=
  match s.block? c slot with
  | none => none
  | some b =>
    match b.thread? tid with
    | none => none
    | some th =>
      match th.parkedAt with
      | none => none
      | some i =>
        let t := s.treeOf slot b
        let l := rendLvl i
        let ts := s.nodeThreads c slot b t l tid
        if th.exited || !(ts.all (fun e => e.2.2.2.parkedAt == some i && e.2.2.2.pc == th.pc)) then none
        else if t.blockLvl < l && !s.nodePlaced b t l then none
        else some (i, t, ts.map (fun e => match e.2.2.2.wait with
          | .parked _ act a b => ⟨e.1, e.2.1, e.2.2.2, t.rank l e.2.2.1.lin e.2.2.2.ltid, act, a, b⟩
          | _ => ⟨e.1, e.2.1, e.2.2.2, 0, false, 0, 0⟩))

/-! ### A block that cannot go on (R34) -/

/-- The rendezvous operation at which a thread was parked when its block raised MEMBER, while it waits for the handler (R34, R343). -/
def State.memberStopped (s : State) (c slot : Nat) (th : Thread) : Option Instr :=
  let a := (s.core c).arch
  if th.wait == .stopped then
    (a.serving.toList ++ a.faultq ++ a.fwd.map (fun f => f.2)).findSome? (fun f =>
      if f.slot == slot && f.cause == causeWord 4 1 false && f.tids.contains th.ltid then f.park else none)
  else none

/-- The rendezvous operation at which a thread stands: parked, or stopped by its block's MEMBER (R34). -/
def State.rendezvousOf (s : State) (c slot : Nat) (th : Thread) : Option Instr :=
  match th.parkedAt with
  | some i => some i
  | none => s.memberStopped c slot th

/-- The parked operation of a thread can still complete (R34). A thread that its block's MEMBER has stopped counts as parked there. -/
def State.canComplete (s : State) (c slot : Nat) (b : Block) (th : Thread) : Bool :=
  match th.parkedAt with
  | none => true
  | some i =>
    let t := s.treeOf slot b
    let l := rendLvl i
    let ts := s.nodeThreads c slot b t l th.ltid
    if l ≤ t.blockLvl then ts.all (fun e => e.2.2.2.pc == th.pc)
    else
      let at_ := fun (e : Nat × Nat × Block × Thread) => s.rendezvousOf e.1 e.2.1 e.2.2.2
      !(s.nodePlaced b t l && ts.all (fun e => (at_ e).isSome))
        || (ts.filter (fun e => (at_ e).any (fun j => rendLvl j == l))).all (fun e => e.2.2.2.pc == th.pc)

/-- The parked group of lowest PC: of its quadrants the lowest, and on each lane the lowest thread. -/
def parkedGroup (b : Block) : Option (Nat × Word × List Nat) :=
  let ps := b.threads.filter (fun th => th.live && th.parked)
  match ps.foldl (fun (m : Option Thread) th => match m with
      | none => some th
      | some o => if th.pc.toNat < o.pc.toNat || (th.pc == o.pc && th.quad < o.quad) then some th else some o) none with
  | none => none
  | some lo =>
    let ps := ps.filter (fun th => th.pc == lo.pc && th.quad == lo.quad)
    some (lo.quad, lo.pc, (ps.filter (fun th => ps.all (fun o => o.off != th.off || th.ltid ≤ o.ltid))).map
      (fun th => th.ltid))

/-- The group on which a block raises MEMBER: all of its threads are parked, at operations that cannot complete (R34). -/
def State.memberGroup (s : State) (c slot : Nat) (b : Block) : Option Cur :=
  let live := b.threads.filter Thread.live
  if live.isEmpty || live.any (fun th => !th.parked) || live.any (s.canComplete c slot b) then none
  else (parkedGroup b).map (fun g => ⟨c, g.1, slot, g.2.1, g.2.2⟩)

/-- Every resident block of a launch is judged, and those that cannot go on raise MEMBER (R34). -/
def State.memberChecks (s : State) (l : Nat) : State :=
  ((s.blocksOf l).filterMap (fun e => (s.memberGroup e.1 e.2.1 e.2.2).map (fun cur => (cur, laneMask (e.2.2.pick cur.tids))))).foldl
    (fun s g => s.takeFault g.1 4 1 g.2 0) s

/-- The check after an arrival or an exit; the word that caused it has issued. -/
def State.memberAfter (s : State) (l : Nat) : State := { s.memberChecks l with cur := s.cur }

/-! ### Arrival -/

/-- The operands of a rendezvous operation: a, and b where it is a source (R243). -/
def rendOperands : Instr → Operand × Operand
  | .vote f => (f.a, .unused)
  | .ballot f => (f.a, .unused)
  | .shfl f => (f.a, f.b)
  | .lshift f => (f.a, f.b)
  | .scan f => (f.a, .unused)
  | .reduce f => (f.a, .unused)
  | .compact f => (f.a, .unused)
  | .match_ f => (f.a, .unused)
  | _ => (.unused, .unused)

/-- The operand a of a rendezvous operation in a thread; SCAN and REDUCE read it for their operator (R171, R243). -/
def rendSrc (i : Instr) (s : State) (e : Site) (th : Thread) : Word :=
  match i with
  | .scan f => redSrc f.red s e th f.a
  | .reduce f => redSrc f.red s e th f.a
  | _ => e.read s th (rendOperands i).1

/-- The members park with their operands, active and guarded-off alike (R32, R243). -/
def arrive (i : Instr) (act : Thread → Bool) (e : Site) (s : State) : State :=
  let o := rendOperands i
  let high := 4 ≤ (e.t.bind (rendLvl i)).code
  let s' := (if high then s else s.acts e).noteSrcs { e with act := e.mem.filter act } (sourceOps (wordOf i)) (!high)
  let ids := e.mem.map (fun th => th.ltid)
  (s'.mapTids e.cur.core e.cur.slot ids (fun th =>
    { th with wait := .parked i (act th) (rendSrc i s e th) (e.read s th o.2), acted := false })).memberAfter e.b.launch

/-- The word's own level fails (R33): the tree does not provide it, or its binding does not support the operation. -/
def ownLevelBad (t : Tree) (w : Word) : Bool :=
  match wordShape w with
  | some sh => (lvlBad t sh.lvl).isSome
  | none => true

/-- A rendezvous operation issues (R26, R32, R33, R183, R243, R244). -/
def rendezvous (i : Instr) (s : State) : State :=
  let w := wordOf i
  match s.site? (fullActive w) with
  | none => s
  | some e =>
    if e.act.isEmpty && ((illegal e.t.lanes w).isSome || ownLevelBad e.t w) then (s.acts e).pass e
    else match (if e.act.isEmpty then none else preFault s e w) with
      | some f => s.faultPre e w f
      | none =>
        if !e.act.isEmpty && homeHeld s e w then s.waitLine e
        else if !e.act.isEmpty && replyPending s e w then s.hold
        else if rendLvl i = 0 then
          simple i (fun s e th =>
            let o := rendOperands i
            let p : Party := ⟨e.cur.core, e.cur.slot, th, 0, true, rendSrc i s e th, e.read s th o.2⟩
            rendEffect i 1 [p] p th) e s
        else s.atHigh { e with act := e.mem } (rendLvl i) (arrive i (fullActive w))

/-! ### Completion -/

/-- The clock that all parties of an instance leave with (R162). -/
def partyClock (s : State) (ps : List Party) : Tab Nat :=
  ps.foldl (fun c p => match s.block? p.core p.slot with
    | some b => Tab.join c (p.th.pubClk (threadUid b p.th.ltid))
    | none => c) []

/-- A thread leaves a completed instance. -/
def Thread.depart (th : Thread) (uid : Nat) (clk : Tab Nat) : Thread :=
  { ((th.tickClk uid).joinClk clk).next with wait := .run }

/-- The operation that a thread is parked at is executed once for the node, when it can complete, and every parked thread resumes at
the next word (R32, R243). -/
def State.completeRend (s : State) (core slot tid : Nat) : State :=
  match s.parties? core slot tid with
  | none => s
  | some (i, t, ps) =>
    let clk := partyClock s ps
    let high := t.blockLvl < rendLvl i
    let places := (ps.map (fun p => (p.core, p.slot))).dedup
    let upd := fun (c sl : Nat) (b : Block) => { b with threads := b.threads.map (fun th =>
      match ps.find? (fun p => p.core == c && p.slot == sl && p.th.ltid == th.ltid && th.live) with
      | some p => (if p.act then rendEffect i (t.per (rendLvl i)) ps p th else th).depart (threadUid b th.ltid) clk
      | none => th) }
    places.foldl (fun s pl =>
      if high then s.updBlockBoth pl.1 pl.2 (upd pl.1 pl.2)
      else (match s.block? pl.1 pl.2 with
        | some b => if s.isExact pl.2 b then s else s.dirty pl.1
        | none => s).updBlock pl.1 pl.2 (upd pl.1 pl.2)) s

/-- RENDEZVOUS_COMPLETE (R32, R243). -/
def execRendezvousComplete (core slot tid : Nat) (s : State) : Host.Outcome State Fault Refusal :=
  .next (s.completeRend core slot tid)

/-! ### The instructions -/

/-- VOTE (R209, R211). -/
def execVote (f : LvlF) (s : State) : Host.Outcome State Fault Refusal := .next (rendezvous (.vote f) s)
/-- BALLOT (R210, R211). -/
def execBallot (f : LvlF) (s : State) : Host.Outcome State Fault Refusal := .next (rendezvous (.ballot f) s)
/-- SHFL (R245). -/
def execShfl (f : LvlF) (s : State) : Host.Outcome State Fault Refusal := .next (rendezvous (.shfl f) s)
/-- LSHIFT (R246). -/
def execLshift (f : LvlF) (s : State) : Host.Outcome State Fault Refusal := .next (rendezvous (.lshift f) s)
/-- SCAN (R97, R244, R247). -/
def execScan (f : ScanF) (s : State) : Host.Outcome State Fault Refusal := .next (rendezvous (.scan f) s)
/-- REDUCE (R96, R244, R247). -/
def execReduce (f : ScanF) (s : State) : Host.Outcome State Fault Refusal := .next (rendezvous (.reduce f) s)
/-- COMPACT (R248). -/
def execCompact (f : LvlF) (s : State) : Host.Outcome State Fault Refusal := .next (rendezvous (.compact f) s)
/-- MATCH (R249). -/
def execMatch (f : LvlF) (s : State) : Host.Outcome State Fault Refusal := .next (rendezvous (.match_ f) s)
/-- ELECT (R250). -/
def execElect (f : LvlF) (s : State) : Host.Outcome State Fault Refusal := .next (rendezvous (.elect f) s)

end Sys2Proof.Machine
end

