-- ==== Sys2Proof/Machine/Control.lean ====
section
/-! DEFINITION. The control instructions (R36, R37, R165, R212-R219). -/

namespace Sys2Proof.Machine

/-- The answer of a control meaning. -/
abbrev CtlOut := Host.Outcome State Fault Refusal

/-- The target at a signed offset. -/
def offsetFrom (w : Word) (off : BitVec 32) : Word := w + off.signExtend 64

/-- A transfer of each active thread, within the open chunk. -/
def transfer (i : Instr) (e : Site) (s : State) (f : Thread → Thread) : State :=
  ((s.acts e).noteSources e (sourceOps (wordOf i))).finish e f

/-- BRA (R213). -/
def execBra (f : BraF) (s : State) : CtlOut :=
  .next (issue (.bra f) (fun e s => transfer (.bra f) e s (fun th => { th with pc := offsetFrom th.pc f.off })) s)

/-- The UNIFORM fault of active members whose compared values differ from the reference member's (R35, R36). -/
def uniformFault (e : Site) (v : Thread → Word) : Option Flt :=
  match e.act.filter (fun th => v th != v e.ref) with
  | [] => none
  | bad => some ⟨2, 0, laneMask bad, v e.ref⟩

/-- The ALIGN fault of a computed target (R165). -/
def targetFault (ths : List Thread) (t : Thread → Word) : Option Flt :=
  match ths.filter (fun th => t th &&& 7 != 0) with
  | [] => none
  | th :: bad => some ⟨7, 0, laneMask (th :: bad), t th⟩

/-- BRU (R214). -/
def execBru (f : CtlF) (s : State) : CtlOut :=
  .next (issue (.bru f) (fun e s =>
    let c := fun th => boolWord ((e.read s th f.a != 0) != f.neg)
    match uniformFault e c with
    | some x => s.fault e x
    | none => transfer (.bru f) e s (fun th => if c th != 0 then { th with pc := offsetFrom th.pc f.off } else th.next)) s)

/-- A uniform transfer to a computed target; `link` is the register that receives the next PC (R215). -/
def uniformJump (i : Instr) (f : CtlF) (link : Bool) (s : State) : State :=
  issue i (fun e s =>
    let t := fun th => offsetFrom (e.read s th f.a) f.off
    match uniformFault e t with
    | some x => s.fault e x
    | none =>
      match targetFault e.act t with
      | some x => s.fault e x
      | none => transfer i e s (fun th =>
          { (if link then (th.setD f.a (th.pc + 8)).cleared f.a else th) with pc := t th })) s

/-- JMP (R215). -/
def execJmp (f : CtlF) (s : State) : CtlOut := .next (uniformJump (.jmp f) f false s)

/-- CALLI (R215). -/
def execCalli (f : CtlF) (s : State) : CtlOut := .next (uniformJump (.calli f) f true s)

/-- RET (R215). -/
def execRet (f : CtlF) (s : State) : CtlOut := .next (uniformJump (.ret f) f false s)

/-- CALL (R215). -/
def execCall (f : CtlF) (s : State) : CtlOut :=
  .next (issue (.call f) (fun e s => transfer (.call f) e s (fun th =>
    { (th.setD f.a (th.pc + 8)).cleared f.a with pc := offsetFrom th.pc f.off })) s)

/-- The exchange of PC and v126 with a pair (R37). -/
def coswapThread (i : Nat) (th : Thread) : Thread :=
  let t := ((th.setLane i (th.pc + 8)).setLane (i + 1) (th.lane 126)).setLane 126 (th.lane (i + 1))
  { ((t.cleared (.lane (BitVec.ofNat 7 i))).cleared (.lane (BitVec.ofNat 7 (i + 1)))).cleared (.lane 126) with
    pc := th.lane i }

/-- The register number of a lane operand. -/
def laneNum (o : Operand) : Nat :=
  match o with
  | .lane i => i.toNat
  | _ => 0

/-- COSWAP (R37, R216). -/
def execCoswap (f : One) (s : State) : CtlOut :=
  .next (issue (.coswap f) (fun e s =>
    match targetFault e.act (fun th => th.lane (laneNum f.o)) with
    | some x => s.fault e x
    | none => transfer (.coswap f) e s (coswapThread (laneNum f.o))) s)

/-- The block has no thread left. -/
def State.allExited (s : State) (c slot : Nat) : Bool :=
  match s.block? c slot with
  | some b => b.threads.all (fun th => th.exited)
  | none => false

/-- Threads that leave a block for good count no more among the arrivals of its objects (R261). -/
def State.withdrawArrivals (s : State) (core slot : Nat) (tids : List Nat) : State :=
  match s.block? core slot with
  | none => s
  | some b =>
    (s.updBlock core slot (fun n => { n with bars := Tab.mapV n.bars (fun _ o => dropArrivals (tids.map (threadUid b)) o) })
      ).withdrawHigh core slot tids

/-- Threads exit: their arrivals inside the block are withdrawn at once, those at nodes above it when the exit is final, with the
commit of the chunk (R137, R261). -/
def State.leaveBars (s : State) (e : Site) : State :=
  if s.isExact e.cur.slot e.b then s.withdrawArrivals e.cur.core e.cur.slot e.tids
  else
    (s.updBlock e.cur.core e.cur.slot (fun b => { b with
      bars := Tab.mapV b.bars (fun _ o => dropArrivals (e.tids.map (threadUid e.b)) o) })).updChunk e.cur.core (fun h => { h with
        held := h.held ++ [.exits e.cur.slot e.tids] })

/-- EXIT: the chunk ends after the exit of a block's last thread (R133, R217). -/
def execExit (g : Guard) (s : State) : CtlOut :=
  .next (issue (.exit g) (fun e s =>
    let s := transfer (.exit g) e s (fun th => { th with exited := true, resv := none, acted := false })
    let s := if e.cur.slot = handlerSlot then s else s.leaveBars e
    let s := if s.allExited e.cur.core e.cur.slot && !s.isExact e.cur.slot e.b
      then { s.closeAfter e.cur.core with cur := s.cur } else s
    s.memberAfter e.b.launch) s)

/-- YIELD: F reaches the threshold, and an open window closes (R218). -/
def execYield (g : Guard) (s : State) : CtlOut :=
  .next (issue (.yield g) (fun e s =>
    (transfer (.yield g) e s Thread.next).updBlock e.cur.core e.cur.slot (fun b => { b with
      fair := b.fair.set e.cur.quad ⟨(s.launchOf e.b).fairThr, 0⟩
      threads := b.threads.map (fun th => if th.quad == e.cur.quad then { th with inWin := false } else th) })) s)

/-- NOP (R219). -/
def execNop (g : Guard) (s : State) : CtlOut :=
  .next (issue (.nop g) (fun e s => transfer (.nop g) e s Thread.next) s)

/-- PCGET (R219). -/
def execPcget (f : CtlF) (s : State) : CtlOut :=
  .next (issue (.pcget f) (fun e s => transfer (.pcget f) e s (fun th =>
    ((th.setD f.a (offsetFrom th.pc f.off)).cleared f.a).next)) s)

end Sys2Proof.Machine
end

