-- ==== Sys2Proof/Machine/Fetch.lean ====
section
/-! DEFINITION. Which group a quadrant issues (R25-R31, R342, R343) and the fetch of its word (R119, R164, R383, R388). -/

namespace Sys2Proof.Machine

/-! ### Paths (R25, R28-R30) -/

/-- The thread stands in the gather table: neither exited nor parked nor waiting (R25, R31). -/
def Thread.inTable (th : Thread) : Bool :=
  !th.exited && (match th.wait with
    | .run => true
    | .xlate _ _ _ => true
    | .stopped => true
    | _ => false)

/-- The threads of a block in a quadrant's gather table. -/
def Block.table (b : Block) (q : Nat) : List Thread := b.threads.filter (fun th => th.quad == q && th.inTable)

/-- The block issues nothing in the quadrant: a group of it waits on translation or for the handler (R343, R383). -/
def Block.blocked (b : Block) (q : Nat) : Bool := (b.table q).any (fun th => !(th.wait == .run))

/-- The least of some PCs. -/
def minPc (ps : List Word) : Option Word :=
  ps.foldl (fun m p => match m with
    | none => some p
    | some m => some (if p.toNat < m.toNat then p else m)) none

/-- The PCs of the paths of a block in a quadrant. -/
def Block.paths (b : Block) (q : Nat) : List Word := ((b.table q).map (fun th => th.pc)).dedup

/-- The issue slots since a path last issued; a merged path takes the smaller (R30). -/
def Block.age (b : Block) (q : Nat) (pc : Word) : Nat :=
  (((b.table q).filter (fun th => th.pc == pc)).map (fun th => th.age)).foldl min (2 ^ 64)

/-- The path is a part of the open window: all of its threads are (R30). -/
def Block.inWindow (b : Block) (q : Nat) (pc : Word) : Bool :=
  ((b.table q).filter (fun th => th.pc == pc)).all (fun th => th.inWin)

/-- The fairness state of a block in a quadrant. -/
def Block.fairAt (b : Block) (q : Nat) : Fair := b.fair.getD q ⟨0, 0⟩

/-- The path that has gone longest without issuing among some, the lowest PC among equals (R30). -/
def Block.oldest (b : Block) (q : Nat) (ps : List Word) : Option Word :=
  minPc (ps.filter (fun p => b.age q p == (ps.map (b.age q)).foldl max 0))

/-- What R30 chooses for the next slot: the path, the fairness state after the slot, the PC of a path whose window opens,
and whether the window's marks are dropped. -/
structure Choice where
  pc   : Word
  fair : Fair
  mark : Option Word
  drop : Bool
deriving DecidableEq, Repr

/-- The slot under the frontier rule of R28, with the fairness counter at `f`. -/
def Block.frontier (b : Block) (q f : Nat) (drop : Bool) : Option Choice :=
  (minPc (b.paths q)).map (fun pc => ⟨pc, ⟨if (b.paths q).length ≤ 1 then 0 else f + 1, 0⟩, none, drop⟩)

/-- The slot given to the window's lowest path: the window closes after its last slot (R30). -/
def windowSlot (pc : Word) (left : Nat) (mark : Option Word) : Choice :=
  if left ≤ 1 then ⟨pc, ⟨0, 0⟩, none, true⟩ else ⟨pc, ⟨0, left - 1⟩, mark, false⟩

/-- The path chosen in a quadrant, with thresholds captured from `ctl.fair` (R28, R30, R218, R347). -/
def Block.choose (b : Block) (q thr win : Nat) : Option Choice :=
  let fr := b.fairAt q
  let wp := (b.paths q).filter (b.inWindow q)
  match (if fr.left = 0 then none else minPc wp) with
  | some pc => some (windowSlot pc fr.left none)
  | none =>
    let f := if fr.left = 0 then fr.f else 0
    if thr ≠ 0 && thr ≤ f then
      match b.oldest q ((b.paths q).filter (fun p => b.age q p != 0)) with
      | some pc => some (windowSlot pc win (some pc))
      | none => b.frontier q 0 true
    else b.frontier q f (fr.left != 0)

/-- The threads of a path in a quadrant. -/
def Block.path (b : Block) (q : Nat) (pc : Word) : List Thread := (b.table q).filter (fun th => th.pc == pc)

/-- The issue group of a path: on each lane the thread of lowest logical thread id, in ascending id (R26). -/
def Block.group (b : Block) (q : Nat) (pc : Word) : List Nat :=
  ((b.path q pc).filter (fun th => (b.path q pc).all (fun o => o.off != th.off || th.ltid ≤ o.ltid))).map
    (fun th => th.ltid)

/-- The block after the choice: fairness state, window marks and ages (R30). -/
def Block.chosen (b : Block) (q : Nat) (ch : Choice) : Block :=
  { b with
    fair := b.fair.set q ch.fair
    threads := b.threads.map (fun th =>
      if th.quad != q || th.exited then th
      else { th with
        age := if th.inTable && th.pc == ch.pc then 0 else th.age + 1
        inWin := if ch.drop then false
          else match ch.mark with
            | some p => th.inTable && th.pc == p
            | none => th.inWin && th.inTable && b.inWindow q th.pc }) }

/-- Threads that have parked, waited or exited leave the open window of their quadrant, and the window closes, with *F* at 0, when no
part of its path remains in it (R30; for a wait, log 79). -/
def Block.tidy (b : Block) (q : Nat) : Block :=
  let b' := { b with threads := b.threads.map (fun th =>
    if th.quad == q && !th.inTable then { th with inWin := false } else th) }
  if (b.fairAt q).left = 0 || (b'.paths q).any (b'.inWindow q) then b'
  else { b' with
    fair := b'.fair.set q ⟨0, 0⟩
    threads := b'.threads.map (fun th => if th.quad == q then { th with inWin := false } else th) }

/-- The order in which a quadrant looks at block slots: the handler first in quadrant 0, then round robin after the slot
that issued last (R27, R342). -/
def slotOrder (s : State) (c q : Nat) : List Nat :=
  let last := Tab.get 15 (s.core c).rrSlot q
  (if q = 0 then [handlerSlot] else []) ++ (List.range 16).map (fun i => (last + 1 + i) % 16)

/-- The core issues no word: its chunk waits for a grant (R136), its context is being pre-empted (R389), its next
chunk waits for the grant of a priority chunk (R46), or the device has stopped issue (R428). -/
def State.coreStalled (s : State) (c : Nat) : Bool :=
  let k := s.core c
  k.chunk.ended || k.preempt.isSome || (k.prioReq && !k.chunk.prio) || s.stopped

/-- A deferred fault taken on a waiting group of the quadrant is being served, or waits for its service: the group's wait is
suspended (R281). -/
def waitSuspended (s : State) (c q slot : Nat) : Bool :=
  let a := (s.core c).arch
  (a.serving.toList ++ a.faultq ++ a.fwd.map (fun f => f.2)).any (fun f => f.dfr && f.slot == slot && f.quad == q
    && !f.tids.isEmpty)

/-- The group that a block would issue in a quadrant: the block with its fairness state moved on, and the group. An EXACT block whose
threads the handler has changed in the open chunk issues once that has committed (R137, R342). -/
def candidate (s : State) (c q slot : Nat) : Option (Block × Cur) :=
  match s.block? c slot with
  | none => none
  | some b =>
    if b.blocked q || waitSuspended s c q slot || (s.core c).chunk.served == some slot then none
    else
      let l := s.launchOf b
      match b.choose q l.fairThr l.fairWin with
      | none => none
      | some ch =>
        some (if slot = handlerSlot then b else b.chosen q ch,
          { core := c, quad := q, slot := slot, pc := ch.pc, tids := b.group q ch.pc })

/-! ### Deferred faults (R281) -/

/-- The waiting group of lowest PC, in the lowest quadrant among equals, of a block none of whose threads can issue. -/
def Block.waitingGroup (b : Block) : Option (Nat × Word × List Nat) :=
  let ths := b.threads.filter (fun th => !th.exited)
  match minPc (ths.map (fun th => th.pc)) with
  | none => none
  | some pc =>
    let q := ((ths.filter (fun th => th.pc == pc)).map (fun th => th.quad)).foldl min 3
    some (q, pc, (ths.filter (fun th => th.pc == pc && th.quad == q)).map (fun th => th.ltid))

/-- The group on which a deferred fault of a block is taken in a quadrant, and whether it could issue: the group that would
issue next, or, when no thread of the block can issue, a waiting group, or none at all. -/
def deferredGroup (s : State) (c q slot : Nat) (b : Block) : Option (Cur × Bool) :=
  match candidate s c q slot with
  | some (_, cur) => some (cur, true)
  | none =>
    if b.threads.any (fun th => th.inTable) || waitSuspended s c q slot then none
    else match b.waitingGroup with
      | some (q', pc, ts) => if q' = q then some (⟨c, q, slot, pc, ts⟩, false) else none
      | none => if q = 0 then some (⟨c, 0, slot, 0, []⟩, false) else none

/-- A deferred fault of a block is taken before its next issue (R281). -/
def State.takeDeferred (s : State) (cur : Cur) (stop : Bool) (f : FaultRec) : State :=
  { s.closeForTrap cur.core (fun s =>
      let s := s.updBlock cur.core cur.slot (fun b => { b with deferred := b.deferred.tail })
      let s := if stop then s.mapTids cur.core cur.slot cur.tids (fun th =>
        if th.exited then th else { th with wait := .stopped, resv := none, kept := none }) else s
      (s.queueFault cur.core { f with slot := cur.slot, quad := cur.quad, tids := cur.tids, epc := cur.pc }).seal cur.core)
    with cur := none }

/-- Takes the first deferred fault of a slot's block, if it has one and its group is of this quadrant. -/
def State.deferredFirst (s : State) (c q slot : Nat) : State :=
  match s.block? c slot with
  | none => s
  | some b =>
    match b.deferred with
    | [] => s
    | f :: _ =>
      if slot = handlerSlot then s
      else match deferredGroup s c q slot b with
        | some (cur, stop) => s.takeDeferred cur stop f
        | none => s

/-! ### Answered translation requests (R384) -/

/-- The requests that a thread's group waits for; a refusal of its own request with its address. -/
def Thread.xtags (th : Thread) : Option (List Nat) :=
  match th.wait with
  | .xlate tags _ _ => some tags
  | _ => none

def Thread.xrefused (th : Thread) : Option (Nat × Word) :=
  match th.wait with
  | .xlate _ (some (_, va)) (some sub) => some (sub, va)
  | _ => none

/-- The group of a block that waits on translation in a quadrant. -/
def Block.xgroup (b : Block) (q : Nat) : List Thread :=
  b.threads.filter (fun th => th.quad == q && !th.exited && th.xtags.isSome)

/-- A group all of whose requests have been answered replays its instruction, or takes the fault of a refusal (R384). -/
def State.answered (s : State) (c q slot : Nat) : State :=
  match s.block? c slot with
  | none => s
  | some b =>
    let g := b.xgroup q
    let ids := g.map (fun th => th.ltid)
    if g.isEmpty || g.any (fun th => th.xtags != some []) then s
    else match g.filter (fun th => th.xrefused.isSome) with
      | [] => s.updBlockBoth c slot (fun b => b.mapTids ids (fun th => { th with wait := .run }))
      | th :: bad =>
        let f := (th.xrefused).getD (0, 0)
        { s.takeFault ⟨c, q, slot, th.pc, ids⟩ 8 f.1 (laneMask (th :: bad)) f.2 with cur := none }

/-- What a slot's block has to take before it issues in a quadrant: answers, then deferred faults. -/
def State.before (s : State) (c q slot : Nat) : State := (s.answered c q slot).deferredFirst c q slot

/-! ### Fetch -/

/-- How a fetch ends. -/
inductive Fetched where
  | word (w : Word) (x : Xlat)
  | fault (f : Flt) (lines : List Nat)
  | xlate (sub : Nat)
deriving DecidableEq, Repr

/-- Instruction bytes as memory holds them for a thread of a slot: the content visible to it (R255). -/
def codeRead (s : State) (c slot kind k n : Nat) : List Byte := if kind = 0 then comRead s c slot k n else relRead s c k n

/-- The instruction bytes as a slot of core `c` fetches them: the core's instruction-cache line, or memory (R119, R255). -/
def fetchBytes (s : State) (c slot kind k : Nat) : List Byte :=
  match (s.core c).icache.find? (fun e => e.line == k / 256) with
  | some e => Memory.read e.cells k 8
  | none => codeRead s c slot kind k 8

/-- Fetches the word at a group's PC (R107, R119, R164, R378). -/
def fetch (s : State) (cur : Cur) : Fetched :=
  match s.block? cur.core cur.slot with
  | none => .fault ⟨9, 0, 0, cur.pc⟩ []
  | some b =>
    let m := laneMask (members b cur)
    match checkAcc s cur.core cur.slot cur.pc 8 8 .fetch with
    | .error (.xlate e) => .xlate e
    | .error e => .fault ⟨e.code, e.sub, m, cur.pc⟩ e.lines
    | .ok (.main x) =>
      match lineErr s x.pa 8 with
      | some sub => .fault ⟨0x0B, sub, m, cur.pc⟩ (linesOf x.pa 8)
      | none => .word (leWord (fetchBytes s cur.core cur.slot x.kind x.pa)) x
    | .ok _ => .fault ⟨9, 0, m, cur.pc⟩ []

/-- The traces of a fetch: translation bits and the instruction-cache line, which holds no byte that only this core sees (R119, R137,
R380). -/
def State.noteFetch (s : State) (cur : Cur) (x : Xlat) : State :=
  let ctx := match s.block? cur.core cur.slot with
    | some b => s.ctxOf b
    | none => 0
  let s := s.noteXlat cur.core ctx x .fetch
  let l := x.pa / 256
  if (s.core cur.core).icache.any (fun e => e.line == l)
      || codeRead s cur.core cur.slot x.kind (256 * l) 256 != s.readMem (256 * l) 256 then s
  else s.updCore cur.core (fun k => { k with icache := ⟨l, false, Memory.line s.mem l⟩ :: k.icache })

/-- A fetch fault, in every member of the group that arrived at the PC (R212). -/
def State.fetchFault (s : State) (cur : Cur) (f : Flt) (lines : List Nat) : State :=
  match s.block? cur.core cur.slot with
  | none => s
  | some b => s.closeForTrap cur.core (fun s => (s.quarantine (s.ctxOf b) lines cur.pc).takeFault cur f.code f.sub
      f.emask f.eaddr)

/-- A fetch that waits on translation, as a group of every member (R383). -/
def State.fetchXlate (s : State) (cur : Cur) (sub : Nat) : State :=
  match s.site? (fun _ => true) with
  | some e => s.waitXlate e (cur.tids.map (fun t => ⟨t, cur.pc, 2, sub⟩))
  | none => s

/-- A fetched word that is no instruction issues as ILLEGAL (R182, R183). -/
def issueIllegal (w : Word) (s : State) : State :=
  issueWith w (if w.getLsbD 63 then pairActive w else fullActive w) (fun e s => s.pass e) s

/-! ### After a word has issued -/

/-- Counts down the suspensions of LRs whose threads are members of the group (R134). -/
def State.countSuspend (s : State) (cur : Cur) : State :=
  let sp := (s.core cur.core).chunk.suspend
  if sp.isEmpty then s
  else
    let sp' := sp.filterMap (fun e =>
      if e.1 == cur.slot && cur.tids.contains e.2.1 then (if e.2.2 ≤ 1 then none else some (e.1, e.2.1, e.2.2 - 1))
      else some e)
    if sp'.isEmpty then s.endSuspend cur.core else s.updChunk cur.core (fun h => { h with suspend := sp' })

/-- The records of an issued word: round-robin place, the block's window, and the word counter (R27, R30, R349). -/
def State.issued (s : State) (cur : Cur) : State :=
  let s := { s with cur := none, was := none }
  let s := if cur.slot = handlerSlot then s
    else (s.updCore cur.core (fun k => { k with rrSlot := Tab.set 15 k.rrSlot cur.quad cur.slot })).updBlock cur.core cur.slot
      (fun b => b.tidy cur.quad)
  (s.countSuspend cur).count cur.core 2 1

end Sys2Proof.Machine
end

