-- ==== Sys2Proof/Machine/Memory.lean ====
section
/-! DEFINITION. Loads, stores, prefetch, cache control, LDX, ATOM, LR, SC and FENCE (R251-R259). -/

namespace Sys2Proof.Machine

/-- The answer of a memory meaning. -/
abbrev MemOut := Host.Outcome State Fault Refusal

/-- Bytes of an access width (R175). -/
def MemW.n (w : MemW) : Nat :=
  match w with
  | .b8 => 1 | .b16 => 2 | .b32 => 4 | .b64 => 8

/-- The effective address of a thread (R251). -/
def eaOf (s : State) (e : Site) (th : Thread) (a : Operand) (off : BitVec 20) : Word :=
  e.read s th a + off.signExtend 64

/-- A checked access of one thread. -/
abbrev Acc := Thread × List Req × List Target

/-- The one target of an access with one request. -/
def accTarget (r : Acc) : Target := (r.2.2.head?).getD (.desc 0)
def accVa (r : Acc) : Word := ((r.2.1.head?).map (fun q => q.va)).getD 0

/-- The bytes that a thread reads at its target. -/
def accValue (s : State) (e : Site) (r : Acc) (n : Nat) : Nat :=
  leNat (readTarget s e.cur.core e.cur.slot r.1.ltid (accTarget r) n)

/-- The stamp of an access to memory; the descriptor has none (R163). -/
def State.stampAcc (s : State) (e : Site) (r : Acc) (n : Nat) (write sync : Bool) : State :=
  match accTarget r with
  | .desc _ => s
  | t => s.stamp e.cur r.1.ltid t.key n write sync false (accVa r)

/-- The traces of the loads of a group. -/
def State.noteLoads (s : State) (e : Site) (rs : List Acc) (n cp : Nat) (sync : Bool) : State :=
  rs.foldl (fun s r => (s.noteRead e.cur.core e.cur.slot (accTarget r) n cp .read).stampAcc e r n false sync) s

/-- The value of a thread among some. -/
def valueOf (vs : List (Nat × Nat)) (ltid : Nat) : Nat := ((vs.find? (fun v => v.1 == ltid)).map (fun v => v.2)).getD 0

/-- A loaded value in a destination (R252). -/
def loadValue (n : Nat) (sx : Bool) (v : Nat) : Word := BitVec.ofInt 64 (readInt (8 * n) sx v)

/-- The checked loads of a group: `f` puts each value, as `val` reads it, into its thread, after `post`. -/
def loadDone (os : List Operand) (n cp : Nat) (sync : Bool) (val : State → Site → Acc → Nat) (f : Acc → Nat → Thread → Thread)
    (post : State → State) (e : Site) (rs : List Acc) (s : State) : State :=
  let s := ((s.acts e).noteSources e os).noteLoads e rs n cp sync
  let vs := rs.map (fun (r : Acc) => (r.1.ltid, val s e r))
  (post s).finish e (fun th => (match rs.find? (fun (r : Acc) => r.1.ltid == th.ltid) with
    | some r => f r (valueOf vs th.ltid) th
    | none => th).next)

/-- The loads of a group: `f` puts each value into its thread, after `post`. -/
def loadBody (os : List Operand) (n al cp : Nat) (use : Use) (sync : Bool) (ea : State → Site → Thread → Word)
    (f : Acc → Nat → Thread → Thread) (post : State → State) (e : Site) (s : State) : State :=
  s.access e (fun th => [⟨ea s e th, n, al, .read, use⟩]) (loadDone os n cp sync (fun s e r => accValue s e r n) f post e)

/-- LD (R252). -/
def execLd (f : LdF) (s : State) : MemOut :=
  .next (issue (.ld f) (loadBody [f.a] (MemW.n f.w) (MemW.n f.w) f.cp.toNat .plain false
    (fun s e th => eaOf s e th f.a f.off)
    (fun _ v th => (th.setD f.d (loadValue (MemW.n f.w) f.sx v)).cleared f.d) (fun s => s)) s)

/-- The half that an LDP of a RELEASE or STREAM page has read already: whether it is the upper, and its value (R127). -/
def keptHalf (r : Acc) : Option (Bool × Word) :=
  if (accTarget r).kind = 0 then none
  else match r.1.kept with
    | some (pc, hi, v) => if pc == r.1.pc then some (hi, v) else none
    | none => none

/-- An LDP of a RELEASE or STREAM page has read none of its halves yet. -/
def halfDue (r : Acc) : Bool := (accTarget r).kind != 0 && (keptHalf r).isNone

/-- The value of an LDP: what it has read already, and the rest as it is now (R123, R127). -/
def pairValue (s : State) (e : Site) (r : Acc) : Nat :=
  let v := accValue s e r 16
  match keptHalf r with
  | none => v
  | some (true, w) => v % 2 ^ 64 + w.toNat * 2 ^ 64
  | some (false, w) => w.toNat + v / 2 ^ 64 * 2 ^ 64

/-- LDPs of RELEASE and STREAM pages read the first of their halves, which one is not fixed; the other comes later (R127). -/
def State.readHalves (s : State) (e : Site) (cp : Nat) (rs : List Acc) : State :=
  let due := rs.filter halfDue
  let s := (s.acts e).noteLoads e due 16 cp false
  let hi := fun (th : Thread) => Config.freePick s.tick / 2 ^ th.ltid % 2 == 1
  let half := fun (r : Acc) => let v := accValue s e r 16; if hi r.1 then v / 2 ^ 64 else v % 2 ^ 64
  (s.mapTids e.cur.core e.cur.slot (due.map (fun r => r.1.ltid)) (fun th => match due.find? (fun r => r.1.ltid == th.ltid) with
    | some r => { th with kept := some (th.pc, hi th, BitVec.ofNat 64 (half r)) }
    | none => th)).hold

/-- A pair of lane registers receives 128 bits. -/
def Thread.setPair (th : Thread) (d : Operand) (v : Nat) : Thread :=
  match d with
  | .lane i => (((th.setLane i.toNat (BitVec.ofNat 64 v)).setLane (i.toNat + 1) (BitVec.ofNat 64 (v / 2 ^ 64))).cleared
      (.lane i)).cleared (.lane (i + 1))
  | _ => th

/-- LDP: the halves of a load from a RELEASE or STREAM page are two reads, in either order (R123, R127, R252). -/
def execLdp (f : MemX) (s : State) : MemOut :=
  .next (issue (.ldp f) (fun e s =>
    s.access e (fun th => [⟨eaOf s e th f.a f.off, 16, 16, .read, .plain⟩]) (fun rs s =>
      if rs.any halfDue then s.readHalves e f.x.toNat rs
      else loadDone [f.a] 16 f.x.toNat false pairValue (fun _ v th => { th.setPair f.d v with kept := none }) (fun s => s) e rs s)) s)

/-! ### Stores -/

/-- The COMMITTED bytes that stores of `n` bytes write, as (key, bytes). -/
def committedCells (rs : List Acc) (n : Nat) : List (Nat × Nat) :=
  (rs.filter (fun r => (accTarget r).kind == 0)).map (fun r => ((accTarget r).key, n))

/-- One thread's store; it clears the other threads' reservations on the unit (R151). -/
def State.storeOne (s : State) (e : Site) (r : Acc) (bs : List Byte) (need : Need) (sync : Bool) : State :=
  ((s.writeTarget e.cur.core e.cur.slot (accTarget r) bs need).clearResv e.cur.core e.cur.slot r.1.ltid (accTarget r).key
    bs.length).stampAcc e r bs.length true sync

/-- The stores of a group, in ascending logical thread id (R252). -/
def storeBody (os : List Operand) (n al : Nat) (ea : State → Site → Thread → Word)
    (val : State → Site → Thread → List Byte) (e : Site) (s : State) : State :=
  s.access e (fun th => [⟨ea s e th, n, al, .write, .plain⟩]) (fun rs s =>
    s.storing e (committedCells rs n) (fun s' =>
      (rs.foldl (fun t r => t.storeOne e r (val s e r.1) .write false) ((s'.acts e).noteSources e os)).pass e))

/-- ST (R252). -/
def execSt (f : StF) (s : State) : MemOut :=
  .next (issue (.st f) (storeBody [f.d, f.a] (MemW.n f.w) (MemW.n f.w) (fun s e th => eaOf s e th f.a f.off)
    (fun s e th => natLe (MemW.n f.w) (e.read s th f.d).toNat)) s)

/-- STP: the halves of a store to a RELEASE or STREAM page are two writes, in either order (R123, R127, R252). -/
def execStp (f : MemX) (s : State) : MemOut :=
  .next (issue (.stp f) (storeBody [f.a] 16 16 (fun s e th => eaOf s e th f.a f.off)
    (fun _ _ th => match f.d with
      | .lane i => natLe 8 (th.lane i.toNat).toNat ++ natLe 8 (th.lane (i.toNat + 1)).toNat
      | _ => [])) s)

/-! ### PREF and CCTL (R254, R255) -/

/-- PREF and CCTL take PERM at the addresses of R107 (R254, R255). -/
def r107Bad (va : Word) : Bool := region va == .reserved || region va == .multicast

/-- The members whose address R107 refuses. -/
def r107Fault (e : Site) (ea : Thread → Word) : Option Flt :=
  match e.act.filter (fun th => r107Bad (ea th)) with
  | [] => none
  | th :: bad => some ⟨9, 0, laneMask (th :: bad), ea th⟩

/-- A line comes into the L1 on request; failing data quarantine the line instead (R254, R388). -/
def State.prefetchLine (s : State) (e : Site) (x : Xlat) (line : Nat) : State :=
  if (Tab.find? s.badLines line).isSome then s.quarantine (s.ctxOf e.b) [line] 0
  else if x.kind = 0 || linesHeld s (s.ctxOf e.b) (256 * line) 256 || s.quar.contains line
      || (s.core e.cur.core).l1.any (fun l => l.line == line) then s
  else s.updCore e.cur.core (fun k => { k with l1 := ⟨line, x.kind == 2, Memory.line s.mem line⟩ :: k.l1 })

/-- The prefetch of one thread: 2^w lines from the line of ea, within ea's page (R254); a walker's entry that fails is quarantined
without a fault (R388). -/
def State.prefetchOne (s : State) (e : Site) (va : Word) (count cp : Nat) : State :=
  match region va with
  | .translated =>
    match translate s e.cur.core (s.ctxOf e.b) va.toNat .read with
    | .ok x =>
      if cp = 1 then s.noteXlat e.cur.core (s.ctxOf e.b) x .read
      else ((List.range count).filter (fun i => x.pa / 256 + i < (x.pbase + x.size) / 256)).foldl
        (fun s i => s.prefetchLine e x (x.pa / 256 + i)) (s.noteXlat e.cur.core (s.ctxOf e.b) x .read)
    | .bad p => s.quarantine (s.ctxOf e.b) [p / 256] 0
    | _ => s
  | _ => s

/-- PREF (R254). -/
def execPref (f : StF) (s : State) : MemOut :=
  .next (issue (.pref f) (fun e s =>
    match r107Fault e (fun th => eaOf s e th f.a f.off) with
    | some x => s.fault e x
    | none =>
      let s' := (s.acts e).noteSources e [f.a]
      (e.act.foldl (fun t th => t.prefetchOne e (eaOf s e th f.a f.off) (MemW.n f.w) f.cp.toNat) s').pass e) s)

/-- One CCTL operation on a physical line (R255). The L1 of the model writes through, so `wb` has nothing to write. -/
def State.cctlLine (s : State) (e : Site) (op line : Nat) : State :=
  if op = 3 then
    s.coreNums.foldl (fun s c => if s.inPart (s.ctx (s.ctxOf e.b)).part c
      then s.updCore c (fun k => { k with icache := k.icache.filter (fun l => l.line != line) }) else s) s
  else if op = 1 then s
  else s.updCore e.cur.core (fun k => { k with l1 := k.l1.filter (fun l => l.line != line), l1c := k.l1c.filter (fun l => l != line) })

/-- The access that CCTL makes for its checks: a load's, of no data; none at a scratch, alias or descriptor address (R255). -/
def cctlReq (va : Word) : List Req :=
  if region va == .translated || r107Bad va then [⟨va, 1, 1, .read, .line⟩] else []

/-- CCTL (R255). -/
def execCctl (f : MemX) (s : State) : MemOut :=
  .next (issue (.cctl f) (fun e s =>
    s.access e (fun th => cctlReq (eaOf s e th f.a f.off)) (fun rs s =>
      let s := (s.acts e).noteSources e [f.a]
      (rs.foldl (fun t r => match accTarget r with
        | .main x => (t.noteXlat e.cur.core (t.ctxOf e.b) x .read).cctlLine e f.x.toNat (x.pa / 256)
        | _ => t) s).pass e)) s)

/-! ### ATOM (R149, R150, R257) -/

/-- The threads of one address with their operands (R149). -/
structure AtomJob where
  acc : Acc
  xs  : List (Nat × Nat × Nat)
deriving Repr

/-- An operand of ATOM in a thread: a constant of a floating-point operator is its value in the operator's format (R171, R257). -/
def atomSrc (s : State) (e : Site) (f : AtomF) (th : Thread) (o : Operand) : Word :=
  match o with
  | .const k => if 10 ≤ f.aop.toNat then fltConst (if f.w64 then .f64 else .f32) k else e.read s th o
  | _ => e.read s th o

/-- The distinct addresses of a group, each with its threads in ascending id, and their operands and comparands. -/
def atomJobs (s : State) (e : Site) (f : AtomF) (rs : List Acc) : List AtomJob :=
  let n := if f.w64 then 64 else 32
  (addNew [] (rs.map (fun r => (accVa r).toNat))).reverse.filterMap (fun va =>
    match rs.filter (fun r => (accVa r).toNat == va) with
    | [] => none
    | r :: rest => some ⟨r, (r :: rest).map (fun q =>
        (q.1.ltid, (atomSrc s e f q.1 f.b).toNat % 2 ^ n, (e.read s q.1 f.c).toNat % 2 ^ n))⟩)

/-- The contributions of a no-return ATOM that is held: one combined request, or the operands in order for exchange and
compare-and-swap (R149); under an EXACT merge always one by one (R143). -/
def atomRecs (f : AtomF) (j : AtomJob) (apart : Bool) : List AtomRec :=
  let w := if f.w64 then 8 else 4
  let mk := fun (t x c : Nat) => ({ key := (accTarget j.acc).key, w := w, aop := f.aop.toNat, x := BitVec.ofNat 64 x
                                    cmp := BitVec.ofNat 64 c, ltid := t } : AtomRec)
  if apart || f.aop = 8 || f.aop = 9 then j.xs.map (fun x => mk x.1 x.2.1 x.2.2)
  else match j.xs with
    | [] => []
    | x :: rest => [mk x.1 (rest.foldl (fun c y => atomApply f.aop.toNat (8 * w) c y.2.1 y.2.2) x.2.1) x.2.2]

/-- The ATOM has a reply register (R257). -/
def AtomF.replies (f : AtomF) : Bool :=
  match f.d with
  | .lane _ => true
  | _ => false

/-- Performs the requests of one address; answers the replies by thread (R149, R150). -/
def State.atomJob (s : State) (e : Site) (f : AtomF) (j : AtomJob) : State × List (Nat × Nat) :=
  let w := if f.w64 then 8 else 4
  let c := e.cur.core
  let reply := AtomF.replies f
  let done := fun (old : Nat) =>
    let r := atomAll f.aop.toNat (8 * w) old (j.xs.map (fun x => x.2))
    (r.1, (j.xs.map (fun x => x.1)).zip r.2)
  match accTarget j.acc with
  | .desc _ => (s, [])
  | t =>
    if t.kind = 0 then
      if s.isExact e.cur.slot e.b && !reply then
        ((s.trackRead c e.cur.slot t.key w).updBlock c e.cur.slot (fun b => { b with
          pops := b.pops ++ (atomRecs f j true).map PhaseOp.atom }), [])
      else
        let s := s.noteRead c e.cur.slot t w 0 .atomic
        let r := done (leNat (comRead s c e.cur.slot t.key w))
        let alone := if j.xs.length = 1 then j.acc.1.ltid else 4096
        ((s.writeTarget c e.cur.slot t (natLe w r.1) .atomic).clearResv c e.cur.slot alone t.key w, r.2)
    else
      let x := match t with
        | .main x => x
        | _ => ⟨0, 0, false, false, false, false, 0, 0, 0, 0, false, 0, true⟩
      let s := s.noteXlat c (s.ctxOf e.b) x .atomic
      if reply then
        let ln := linesOf t.key w
        let mine := e.b.pheld.filter (fun h => (linesOfHeld h).any (fun l => ln.contains l))
        let s := s.landWhere (fun q => q.core == c && (linesOfHeld q.eff).any (fun l => ln.contains l))
        let s := mine.foldl (fun s h => s.perform c h) (s.updBlock c e.cur.slot (fun b => { b with
          pheld := b.pheld.filter (fun h => !(linesOfHeld h).any (fun l => ln.contains l)) }))
        let r := done (s.natMem t.key w)
        let ks := (List.range w).map (fun i => t.key + i)
        let s := s.keepWords c (s.ctxOf e.b) ks (fun _ => true)
        ((s.homeWrite c t.key (natLe w r.1)).showClk c (s.ctxOf e.b) ks, r.2)
      else ((atomRecs f j false).foldl (fun s a => s.relWrite c e.cur.slot (.atom a (t.kind == 2) s.tick)) s, [])

/-- The ATOMs of some members are performed, and their replies written; the other active members of the group stay. -/
def atomDone (f : AtomF) (e : Site) (rs : List Acc) (s : State) : State :=
  let n := if f.w64 then 8 else 4
  let jobs := atomJobs s e f rs
  let s := (s.acts e).noteSources e [f.a, f.b, f.c]
  let s := rs.foldl (fun s r => s.stampAcc e r n true true) s
  let r := jobs.foldl (fun (acc : State × List (Nat × Nat)) j =>
    let q := acc.1.atomJob e f j
    (q.1, acc.2 ++ q.2)) (s, [])
  r.1.finish e (fun th => if rs.any (fun a => a.1.ltid == th.ltid) then
    (if AtomF.replies f then (th.setD f.d (BitVec.ofNat 64 (valueOf r.2 th.ltid))).cleared f.d else th).next else th)

/-- A replying ATOM to a RELEASE or STREAM line waits while another EXACT block of the core holds an earlier store to it (R130). -/
def atomBlocked (s : State) (e : Site) (rs : List Acc) (n : Nat) : Bool :=
  let ls := (rs.filter (fun r => (accTarget r).kind != 0)).flatMap (fun r => linesOf (accTarget r).key n)
  (s.core e.cur.core).arch.blocks.any (fun b => b.1 != e.cur.slot && b.2.pheld.any (fun h => (linesOfHeld h).any (fun l => ls.contains l)))

/-- ATOM (R149, R150, R257). A replying one to a RELEASE or STREAM page is performed at once, and no squash undoes it (R133, R137); of a
group that names COMMITTED memory as well, the other members issue the word after those (log 95). -/
def execAtom (f : AtomF) (s : State) : MemOut :=
  .next (issue (.atom f) (fun e s =>
    let n := if f.w64 then 8 else 4
    let reply := AtomF.replies f
    s.access e (fun th => [⟨e.read s th f.a, n, n, .atomic, .plain⟩]) (fun rs s =>
      let act := atomDone f e rs
      let home := rs.filter (fun r => (accTarget r).kind != 0)
      if reply && atomBlocked s e rs n then s.hold
      else if reply && !s.isExact e.cur.slot e.b && !home.isEmpty then
        s.closeBefore e.cur.core (fun s => (atomDone f e home s).seal e.cur.core)
      else if s.isExact e.cur.slot e.b && !reply then act s
      else s.storing e (committedCells rs n) act)) s)

/-! ### LR and SC (R134, R151, R258) -/

/-- An LR's thread suspends the ends of the chunk (R134); the LR's own word is counted off first. -/
def State.suspend (s : State) (e : Site) (tids : List Nat) : State :=
  if s.isExact e.cur.slot e.b then s
  else s.updChunk e.cur.core (fun h => { h with
    suspend := h.suspend.filter (fun p => !(p.1 == e.cur.slot && tids.contains p.2.1))
      ++ tids.map (fun t => (e.cur.slot, t, 17)) })

/-- LR (R151, R258). -/
def execLr (f : LdF) (s : State) : MemOut :=
  .next (issue (.lr f) (fun e s =>
    let n := MemW.n f.w
    loadBody [f.a] n n f.cp.toNat .committed true (fun s e th => eaOf s e th f.a f.off)
      (fun r v th => { (th.setD f.d (loadValue n f.sx v)).cleared f.d with resv := some ((accTarget r).key, n) })
      (fun s => s.suspend e e.tids) e s) s)

/-- SC of one thread: its result (R151, R258). -/
def State.scOne (s : State) (e : Site) (r : Acc) (n : Nat) (v : Word) : State × Bool :=
  let held : Bool := match s.block? e.cur.core e.cur.slot with
    | some b => (b.thread? r.1.ltid).any (fun th => th.resv == some ((accTarget r).key, n))
    | none => false
  let s := s.mapTids e.cur.core e.cur.slot [r.1.ltid] (fun th => { th with resv := none })
  if held then (s.storeOne e r (natLe n v.toNat) .write true, true) else (s, false)

/-- SC (R134, R151, R258). -/
def execSc (f : ScF) (s : State) : MemOut :=
  .next (issue (.sc f) (fun e s =>
    let n := if f.w64 then 8 else 4
    s.access e (fun th => [⟨e.read s th f.a, n, n, .write, .committed⟩]) (fun rs s =>
      s.storing e (committedCells rs n) (fun s' =>
        let r := rs.foldl (fun (acc : State × List (Nat × Nat)) q =>
          let o := acc.1.scOne e q n (e.read s q.1 f.b)
          (o.1, acc.2 ++ [(q.1.ltid, if o.2 then 0 else 1)])) ((s'.acts e).noteSources e [f.a, f.b], [])
        let t := r.1.finish e (fun th => ((th.setD f.d (BitVec.ofNat 64 (valueOf r.2 th.ltid))).cleared f.d).next)
        -- the SC's word ends its threads' suspensions: they have at most this word left
        t.updChunk e.cur.core (fun h => { h with suspend := h.suspend.map (fun p =>
          if p.1 == e.cur.slot && e.tids.contains p.2.1 then (p.1, p.2.1, 1) else p) })))) s)

/-! ### FENCE (R131, R146, R147, R259) -/

/-- The clocks of a fence (R162). -/
def State.fenceClocks (s : State) (e : Site) (lvl : Nat) (acq rel : Bool) : State :=
  if !(s.launchOf e.b).race then s
  else s.mapTids e.cur.core e.cur.slot e.tids (fun th =>
    let th := if rel then th.release e.b lvl else th
    if acq then th.acquire e.t e.b lvl else th)

/-- A fence's effect on the core: its released writes to RELEASE pages are performed before later accesses, and stale L1 copies of
RELEASE lines are dropped (R131, R145, R146); it makes no STREAM write visible (R259). -/
def State.fence (s : State) (e : Site) (lvl : Nat) (acq rel : Bool) : State :=
  let s := if (e.t.bind lvl).code < 4 then s
    else
      let s := if rel || !acq then s.landWhere (fun q => q.core == e.cur.core && !q.eff.isStream) else s
      if acq || !rel then s.dropL1 e.cur.core false else s
  s.fenceClocks e lvl acq rel

/-- FENCE (R259). -/
def execFence (f : FenceF) (s : State) : MemOut :=
  .next (issue (.fence f) (fun e s =>
    s.atHigh e f.lvl.toNat (fun e s => s.whenLanded e f.lvl.toNat (fun s => ((s.acts e).fence e f.lvl.toNat f.acq f.rel).pass e))) s)

/-! ### LDX (R256) -/

/-- The destinations of an LDX take their places in the chunk's undo log and among its written lines when it issues (R132, R256). -/
def State.noteTransfers (s : State) (e : Site) (cells : List (Nat × Nat)) : State :=
  if s.isExact e.cur.slot e.b then s
  else match s.winBlock? e.cur.core e.cur.slot with
    | none => s
    | some w => s.updChunk e.cur.core (fun h => { h with
        wr := addNew h.wr ((storeLines cells).filter (fun l => tracked s w.launch w.lin l))
        grans := addNew h.grans (cells.flatMap (fun c => granulesOf c.1 c.2)) })

/-- LDX: every check at issue; the transfers attach to the barrier objects of the threads' nodes. -/
def execLdx (f : LdxF) (s : State) : MemOut :=
  .next (issue (.ldx f) (fun e s =>
    let n := MemW.n f.w
    s.access e (fun th => [⟨e.read s th f.a, n, n, .read, .ldxSrc⟩, ⟨e.read s th f.d, n, n, .write, .ldxDst⟩])
      (fun rs s =>
        s.storing e (rs.filterMap (fun r => (r.2.2.getLast?).map (fun t => (t.key, n)))) (fun s =>
          let s := ((s.acts e).noteSources e [f.a, f.d]).noteTransfers e (rs.filterMap (fun r => (r.2.2.getLast?).map (fun t => (t.key, n))))
          (rs.foldl (fun s r => match r.2.2 with
            | [src, dst] =>
              let key := nodeKey f.lvl.toNat (e.node r.1 f.lvl.toNat) 0
              let s := (s.noteRead e.cur.core e.cur.slot src n f.cp.toNat .read).stampAcc e r n false false
              let s := s.stamp e.cur r.1.ltid dst.key n true false false (e.read s r.1 f.d)
              s.updBlock e.cur.core e.cur.slot (fun b => { b with
                ldx := b.ldx ++ [{ src := src.key, kind := src.kind, dst := dst.key, n := n, level := f.lvl.toNat
                                   node := e.node r.1 f.lvl.toNat, tracked := src.kind == 0, failed := none
                                   srcVa := (accVa r), ltid := r.1.ltid }]
                plines := if s.isExact e.cur.slot b then addNew b.plines (linesOf dst.key n) else b.plines
                bars := Tab.put b.bars key (let o := Tab.get Bar.new b.bars key; { o with pending := o.pending + 1 }) })
            | _ => s) s).pass e))) s)

/-- The failed transfers that a barrier instruction at a node would wait for (R256). -/
def failedLdx (b : Block) (lvl node : Nat) : Option (Nat × Word) :=
  b.ldx.findSome? (fun x => if x.level == lvl && x.node == node then x.failed.map (fun sub => (sub, x.srcVa)) else none)

/-- The bytes that a transfer reads from its source. -/
def ldxBytes (s : State) (core slot : Nat) (x : LdxXfer) : List Byte :=
  if x.kind = 0 then comRead s core slot x.src x.n else relRead s core x.src x.n

/-- The thread waits for the phase of its node of a level. -/
def Thread.awaits (th : Thread) (lvl : Nat) : Bool :=
  match th.wait with
  | .barrier l => l == lvl
  | .barAgain l => l == lvl
  | .barw l _ => l == lvl
  | _ => false

/-- A group that waits at a barrier whose transfer has failed takes MEMERR there; one whose chunk must wait for its grant first takes it
when the event comes again (R256, R388). -/
def State.ldxFault (s : State) (core slot lvl node sub : Nat) (va : Word) : State :=
  match s.block? core slot with
  | none => s
  | some b =>
    let t := s.treeOf slot b
    let ws := b.threads.filter (fun th => th.live && th.awaits lvl && th.ltid / max 1 (t.per lvl) == node)
    match ws with
    | [] => s
    | w :: _ =>
      let g := ws.filter (fun th => th.pc == w.pc && th.quad == w.quad)
      s.takeFault ⟨core, w.quad, slot, w.pc, g.map (fun th => th.ltid)⟩ 0x0B sub (laneMask g) va

/-- LDX_TRANSFER_LANDED: the bytes of transfer `idx` of a block are in the slice (R256, R261). -/
def execLdxTransferLanded (core slot idx : Nat) (s : State) : MemOut :=
  match s.block? core slot with
  | none => .next s
  | some b =>
    match b.ldx[idx]? with
    | none => .next s
    | some x =>
      if linesHeld s (s.ctxOf b) x.src x.n || linesHeld s (s.ctxOf b) x.dst x.n || (s.core core).chunk.served == some slot then .next s
      else match x.failed with
      | some sub => .next (if (s.core core).chunk.ended then s else s.ldxFault core slot x.level x.node sub x.srcVa)
      | none => match lineErr s x.src x.n with
        | some sub =>
          .next (((s.quarantine (s.ctxOf b) (linesOf x.src x.n) 0).updBlock core slot (fun b => { b with
            ldx := b.ldx.set idx { x with failed := some sub } })).ldxFault core slot x.level x.node sub x.srcVa)
        | none =>
          let s := if s.isExact slot b then s else s.dirty core
          let key := nodeKey x.level x.node 0
          .next (((s.comWrite core slot x.dst (ldxBytes s core slot x)).clearResv core slot x.ltid x.dst x.n).updBlock core slot (fun b => { b with
            ldx := b.ldx.eraseIdx idx
            bars := Tab.put b.bars key (let o := Tab.get Bar.new b.bars key; { o with pending := o.pending - 1 }) }))

end Sys2Proof.Machine
end

