-- ==== Sys2Proof/Machine/Sync.lean ====
section
/-! DEFINITION. Barriers, QUIESCE, CHUNKEND, WAITSEQ and WAITVAL (R260-R267, R271). -/

namespace Sys2Proof.Machine

/-- The answer of a synchronising meaning. -/
abbrev SyncOut := Host.Outcome State Fault Refusal

/-! ### Barrier objects (R260) -/

/-- The rank of a thread's level-`l` node: in the block, or on the device above it. -/
def barNode (t : Tree) (l : Nat) (b : Block) (ltid : Nat) : Nat :=
  if l ≤ t.blockLvl then ltid / max 1 (t.per l) else t.highNode l b.lin

/-- The barrier object of a node. -/
def State.bar (s : State) (b : Block) (t : Tree) (l node : Nat) : Bar :=
  if l ≤ t.blockLvl then Tab.get Bar.new b.bars (nodeKey l node 0)
  else match Tab.find? (s.launchOf b).nodes (highKey l node) with
    | some nd => nd.bar
    | none => Bar.new

/-- Replaces the barrier object of a node. -/
def State.setBar (s : State) (core slot : Nat) (b : Block) (t : Tree) (l node : Nat) (o : Bar) : State :=
  if l ≤ t.blockLvl then s.updBlock core slot (fun b => { b with bars := Tab.set Bar.new b.bars (nodeKey l node 0) o })
  else s.updLaunch b.launch (fun ln => { ln with
    nodes := Tab.mapV ln.nodes (fun k nd => if k = highKey l node then { nd with bar := o } else nd) })

/-- The child of a level-`l` node that a thread lies beneath (R264). -/
def childOf (t : Tree) (l lin ltid : Nat) : Nat := t.idx 0 lin ltid (l - 1)

/-- What an arriving instruction asks of the object. -/
inductive Arrival where
  | plain
  | masked
  | quiesce
deriving DecidableEq, Repr

/-- The subcode of R265 that an active member meets, the lowest; `ref` is the reference member's mask (R386). -/
def memberSub (t : Tree) (l : Nat) (lin : Nat) (o : Bar) (how : Arrival) (ref : Word) (th : Thread) (a : Word) : Option Nat :=
  match how with
  | .masked =>
    let m := if o.kind = 2 then o.mask else ref
    if o.kind = 1 || o.kind = 3 then some 2
    else if a != m then some 3
    else if !m.getLsbD (childOf t l lin th.ltid) then some 4
    else if a = 0 || t.fan l ≤ Nat.log2 a.toNat then some 5
    else none
  | _ => if o.kind = 2 then some 2 else none

/-- The arriving members of one node enter the phase (R261, R264); answers the count before the arrival. -/
def State.arriveNode (s : State) (e : Site) (l node : Nat) (how : Arrival) (ths : List Thread) (mask : Word) :
    State × BitVec 32 :=
  let o := s.bar e.b e.t l node
  let race := (s.launchOf e.b).race
  let o' := { o with
    arrived := o.arrived + ths.length
    kind := match how with
      | .masked => 2
      | .quiesce => 3
      | .plain => if o.kind = 3 then 3 else 1
    mask := if how == .masked && o.kind != 2 then mask else o.mask
    who := o.who ++ ths.map (fun th => threadUid e.b th.ltid)
    sweep := none
    mergeAt := if s.isExact e.cur.slot e.b && e.t.blockLvl < l then e.b.phase + 1 else 0
    clkIn := if race then ths.foldl (fun c th => Tab.join c (th.pubClk (threadUid e.b th.ltid))) o.clkIn else o.clkIn }
  let s := s.setBar e.cur.core e.cur.slot e.b e.t l node o'
  (if race then s.mapTids e.cur.core e.cur.slot (ths.map (fun th => th.ltid)) (fun th => th.tickClk (threadUid e.b th.ltid))
    else s, o.count)

/-- A group reaches a barrier object (R261, R264, R265): members that stand arrived wait at the instruction, with the mask that they
have read (R336), the others are checked and arrive; `f` changes an arriving thread, given the count before. -/
def arriveAll (l : Nat) (how : Arrival) (mask : State → Site → Thread → Word) (waits : Bool)
    (f : BitVec 32 → Thread → Thread) (e : Site) (s : State) : State :=
  let obj := fun (th : Thread) => s.bar e.b e.t l (barNode e.t l e.b th.ltid)
  let again := fun (th : Thread) => (obj th).who.contains (threadUid e.b th.ltid)
  let fresh := e.act.filter (fun th => !again th)
  let ref := mask s e ((fresh.head?).getD e.ref)
  let subs := fresh.filterMap (fun th => (memberSub e.t l e.b.lin (obj th) how ref th (mask s e th)).map (fun n => (th, n)))
  match subs with
  | (_, n) :: _ => s.fault e ⟨4, subs.foldl (fun m p => min m p.2) n, laneMask (subs.map (fun p => p.1)),
      if how == .masked then ref else 0⟩
  | [] =>
    match (if waits && l ≤ e.t.blockLvl then
        fresh.findSome? (fun th => failedLdx e.b l (barNode e.t l e.b th.ltid)) else none) with
    | some (sub, va) => s.fault e ⟨0x0B, sub, laneMask (fresh.filter (fun th =>
        (failedLdx e.b l (barNode e.t l e.b th.ltid)).isSome)), va⟩
    | none =>
      let s := if e.t.blockLvl < l then s else s.acts e
      let nodes := (addNew [] (fresh.map (fun th => barNode e.t l e.b th.ltid))).reverse
      let r := nodes.foldl (fun (acc : State × List (Nat × BitVec 32)) n =>
        let q := acc.1.arriveNode e l n how (fresh.filter (fun th => barNode e.t l e.b th.ltid == n)) ref
        (q.1, acc.2 ++ [(n, q.2)])) (s, [])
      r.1.finish e (fun th =>
        if again th then { th with wait := .barAgain l, kept := if how == .masked then some (th.pc, false, mask s e th) else none }
        else
          let c := ((r.2.find? (fun p => p.1 == barNode e.t l e.b th.ltid)).map (fun p => p.2)).getD 0
          f c (if waits then { th with wait := .barrier l, acted := false, kept := none } else th))

/-- A barrier instruction at a level bound to LANE: a full FENCE at that level, at once (R264). -/
def laneBarrier (i : Instr) (l : Nat) (f : Thread → Thread) (e : Site) (s : State) : State :=
  (((s.acts e).noteSources e (sourceOps (wordOf i))).fenceClocks e l true true).finish e (fun th => (f th).next)

/-- The release side of an arrival: what the core has released to RELEASE pages is performed (R262). -/
def State.arrivalFence (s : State) (e : Site) (l : Nat) : State :=
  if e.t.blockLvl < l then s.landWhere (fun q => q.core == e.cur.core && !q.eff.isStream) else s

/-- What goes before an arrival: its release side, and the traces of the instruction's sources. -/
def State.arrivalEdge (s : State) (i : Instr) (e : Site) (l : Nat) : State :=
  (s.arrivalFence e l).noteSrcs e (sourceOps (wordOf i)) (l ≤ e.t.blockLvl)

/-- BAR (R264). -/
def execBar (f : LvlOnly) (s : State) : SyncOut :=
  let l := f.lvl.toNat
  .next (issue (.bar f) (fun e s =>
    if e.t.bind l == .lane then laneBarrier (.bar f) l (fun th => th) e s
    else s.atHigh e l (fun e s => s.whenLanded e l (fun s =>
      arriveAll l .plain (fun _ _ _ => 0) true (fun _ th => th) e (s.arrivalEdge (.bar f) e l)))) s)

/-- BARA (R264). -/
def execBara (f : LvlOp) (s : State) : SyncOut :=
  let l := f.lvl.toNat
  .next (issue (.bara f) (fun e s =>
    if e.t.bind l == .lane then laneBarrier (.bara f) l (fun th => (th.setD f.o 0).cleared f.o) e s
    else s.atHigh e l (fun e s => s.whenLanded e l (fun s => arriveAll l .plain (fun _ _ _ => 0) false
      (fun c th => ((th.setD f.o (c.setWidth 64)).cleared f.o).next) e (s.arrivalEdge (.bara f) e l)))) s)

/-- The acquire side of an observed completion (R262). -/
def State.observe (s : State) (core : Nat) (high : Bool) : State := if high then s.dropL1 core false else s

/-- BARW (R264). -/
def execBarw (f : LvlOp) (s : State) : SyncOut :=
  let l := f.lvl.toNat
  .next (issue (.barw f) (fun e s =>
    if e.t.bind l == .lane then laneBarrier (.barw f) l (fun th => th) e s
    else s.atHigh e l (fun e s =>
      let high := e.t.blockLvl < l
      let tok := fun (th : Thread) => ((e.read s th f.o).extractLsb' 0 32 : BitVec 32)
      let obj := fun (th : Thread) => s.bar e.b e.t l (barNode e.t l e.b th.ltid)
      let stay := e.act.filter (fun th => (obj th).count == tok th)
      match (if high then none else stay.findSome? (fun th => failedLdx e.b l (barNode e.t l e.b th.ltid))) with
      | some (sub, va) => s.fault e ⟨0x0B, sub, laneMask (stay.filter (fun th =>
          (failedLdx e.b l (barNode e.t l e.b th.ltid)).isSome)), va⟩
      | none =>
        let s := ((if high then s else s.acts e).noteSrcs e [f.o] (!high)).observe e.cur.core high
        s.finish e (fun th =>
          if (obj th).count == tok th then { th with wait := .barw l (tok th), acted := false }
          else (th.joinClk (obj th).clkOut).next))) s)

/-- The mask of an MBAR in a thread: as read when the word first issued, while the thread stood arrived (R336). -/
def maskOf (s : State) (e : Site) (f : LvlOp) (th : Thread) : Word :=
  match th.kept with
  | some (pc, _, m) => if pc == th.pc then m else e.read s th f.o
  | none => e.read s th f.o

/-- MBAR (R264, R265). -/
def execMbar (f : LvlOp) (s : State) : SyncOut :=
  let l := f.lvl.toNat
  .next (issue (.mbar f) (fun e s =>
    s.atHigh e l (fun e s => s.whenLanded e l (fun s =>
      arriveAll l .masked (fun _ e th => maskOf s e f th) true (fun _ th => th) e (s.arrivalEdge (.mbar f) e l)))) s)

/-! ### QUIESCE (R266) -/

/-- The counter done of a core and context (R266). -/
def State.doneOf (s : State) (c x : Nat) : Nat :=
  ((s.flights.filter (fun q => q.core == c && q.ctx == x)).map (fun q => q.num)).foldl min (Tab.get 0 (s.core c).sent x)

/-- Under EXACT the stores that the block holds for its phase leave it at a QUIESCE (R148, R266). -/
def State.releasePheld (s : State) (e : Site) : State :=
  if s.isExact e.cur.slot e.b then
    let isSt := fun (h : Held) => match h with
      | .store _ _ _ _ => true
      | .atom _ _ _ => true
      | _ => false
    (e.b.pheld.filter isSt).foldl (fun s h => s.send e.cur.core (s.ctxOf e.b) h)
      (s.updBlock e.cur.core e.cur.slot (fun b => { b with pheld := b.pheld.filter (fun h => !isSt h) }))
  else s

/-- The end of a chunk before QUIESCE, at every level (R133, R266). -/
def State.quiesceClose (s : State) (e : Site) (act : State → State) : State :=
  if s.isExact e.cur.slot e.b then act s else s.closeBefore e.cur.core act

/-- QUIESCE (R266). -/
def execQuiesce (f : LvlOnly) (s : State) : SyncOut :=
  let l := f.lvl.toNat
  .next (issue (.quiesce f) (fun e s =>
    s.quiesceClose e (fun s =>
      let s := s.releasePheld e
      if e.t.bind l == .lane then
        let x := s.ctxOf e.b
        let n := Tab.get 0 (s.core e.cur.core).sent x
        let now := n ≤ s.doneOf e.cur.core x
        (if now then s.dropL1 e.cur.core true else s).finish e (fun th =>
          if now then th.next else { th with wait := .drain n })
      else arriveAll l .quiesce (fun _ _ _ => 0) true (fun _ th => th) e s)) s)

/-- Threads at QUIESCE of a LANE-bound level go on once their released writes have been performed (R266). -/
def State.wakeDrains (s : State) (c : Nat) : State :=
  (s.core c).arch.blocks.foldl (fun s e =>
    let d := s.doneOf c (s.ctxOf e.2)
    let ready := fun (th : Thread) => match th.wait with
      | .drain n => !th.exited && n ≤ d
      | _ => false
    if e.2.threads.any ready then
      (s.dropL1 c true).updBlockBoth c e.1 (fun b => { b with threads := b.threads.map (fun th =>
        if ready th then { th.next with wait := .run } else th) })
    else s) s

/-! ### Completion (R261) -/

/-- The threads that a phase of the object expects. -/
def State.expected (s : State) (core slot : Nat) (b : Block) (t : Tree) (l ltid : Nat) (o : Bar) :
    List (Nat × Nat × Block × Thread) :=
  (s.nodeThreads core slot b t l ltid).filter (fun q => o.kind != 2 || o.mask.getLsbD (childOf t l q.2.2.1.lin q.2.2.2.ltid))

/-- The arrivals, transfers, placements and merges that a phase waits for are there (R261). -/
def State.phaseReady (s : State) (core slot : Nat) (b : Block) (t : Tree) (l ltid : Nat) (o : Bar) : Bool :=
  o.kind != 0 && o.pending == 0 && o.arrived == (s.expected core slot b t l ltid o).length
    && (l ≤ t.blockLvl || (s.nodePlaced b t l && (!s.isExact slot b || o.mergeAt ≤ b.phase)))

/-- The cores that hold a node's threads. -/
def nodeCores (qs : List (Nat × Nat × Block × Thread)) : List Nat := (qs.map (fun q => q.1)).dedup

/-- A thread that waits on a completed phase goes on: at the next word, or at its arriving instruction again (R261,
R264). -/
def Thread.leaveBar (th : Thread) (l : Nat) (clk : Tab Nat) : Thread :=
  match th.wait with
  | .barrier k => if k = l then { (th.joinClk clk).next with wait := .run } else th
  | .barAgain k => if k = l then { th with wait := .run } else th
  | .barw k _ => if k = l then { (th.joinClk clk).next with wait := .run } else th
  | _ => th

/-- The phase of a thread's node at a level completes when it can: the sweeps of a quiesce phase first (R261, R266). -/
def State.completePhase (s : State) (core slot tid level : Nat) : State :=
  match s.block? core slot with
  | none => s
  | some b =>
    let t := s.treeOf slot b
    let node := barNode t level b tid
    let o := s.bar b t level node
    let x := s.ctxOf b
    let ths := s.nodeThreads core slot b t level tid
    if t.depth ≤ level || !s.phaseReady core slot b t level tid o then s
    else if o.kind = 3 && o.sweep.isNone then
      s.setBar core slot b t level node { o with
        sweep := some ((nodeCores ths).map (fun c => (c, Tab.get 0 (s.core c).sent x))) }
    else if o.kind = 3 && !((o.sweep.getD []).all (fun p => p.2 ≤ s.doneOf p.1 x)) then s
    else
      let high := t.blockLvl < level
      let o' := { o with
        count := o.count + 1, arrived := 0, kind := 0, mask := 0, who := [], sweep := none, clkOut := o.clkIn, clkIn := [] }
      let s := if high || s.isExact slot b then s else s.dirty core
      let s := if o.kind = 3 then (nodeCores ths).foldl (fun s c => s.dropL1 c true) s
        else (nodeCores ths).foldl (fun s c => s.observe c high) s
      let s := s.setBar core slot b t level node o'
      let upd := fun (b' : Block) => { b' with threads := b'.threads.map (fun th =>
        if !th.exited && barNode t level b' th.ltid == node then th.leaveBar level o'.clkOut else th) }
      if high then (s.nodeBlocks b t level).foldl (fun s q => s.updBlockBoth q.1 q.2.1 upd) s
      else s.updBlock core slot upd

/-- BARRIER_PHASE_COMPLETE (R261, R266). -/
def execBarrierPhaseComplete (core slot tid level : Nat) (s : State) : SyncOut := .next (s.completePhase core slot tid level)

/-! ### Ends that the block's own stream gives (R31) -/

/-- A thread's level-`l` node lies wholly in its quadrant. -/
def Block.nodeInQuad (b : Block) (t : Tree) (l : Nat) (th : Thread) : Bool :=
  l ≤ t.blockLvl && b.threads.all (fun o => o.ltid / max 1 (t.per l) != th.ltid / max 1 (t.per l) || o.quad == th.quad)

/-- The rendezvous or barrier of a node that lies wholly in its quadrant, at which a thread waits, completes as soon as it can: the
block's next slot there finds its threads released, so that the order of its paths is a function of its stream (R31). -/
def State.completeOwn (s : State) (c slot : Nat) (b : Block) (th : Thread) : State :=
  let t := s.treeOf slot b
  let bar := fun (l : Nat) => if b.nodeInQuad t l th then s.completePhase c slot th.ltid l else s
  match th.wait with
  | .parked i _ _ _ => if b.nodeInQuad t (rendLvl i) th then s.completeRend c slot th.ltid else s
  | .barrier l => bar l
  | .barAgain l => bar l
  | .barw l _ => bar l
  | _ => s

/-- The completions of a quadrant before a slot is given to a block. -/
def State.completeLocal (s : State) (c q slot : Nat) : State :=
  match s.block? c slot with
  | none => s
  | some b => (b.threads.filter (fun th => !th.exited && th.quad == q)).foldl (fun s th => s.completeOwn c slot b th) s

/-! ### CHUNKEND (R267) -/

/-- CHUNKEND (R133, R140, R267). -/
def execChunkend (g : Guard) (s : State) : SyncOut :=
  .next (issue (.chunkend g) (fun e s =>
    if s.isExact e.cur.slot e.b then s.atPhase e (fun e s => s.pass e)
    else
      let s := (s.acts e).pass e
      { s.closeAfter e.cur.core with cur := s.cur }) s)

/-! ### WAITSEQ and WAITVAL (R271, R338) -/

/-- The wait's address, operand and condition. -/
def waitParts (i : Instr) : Option (WaitF × (Word → Word → Bool)) :=
  match i with
  | .waitseq f => some (f, fun m b => b.toNat ≤ m.toNat)
  | .waitval f => some (f, fun m b => waitCond f.cc m b)
  | _ => none

/-- The L1 copy of the word's line is given up: the wait reads the word's home (R271). -/
def State.freshLine (s : State) (c : Nat) (t : Target) : State :=
  if t.kind = 0 then s else s.updCore c (fun k => { k with l1 := k.l1.filter (fun l => l.line != t.key / 256) })

/-- The acquire of a satisfied wait (R147, R160, R271). -/
def State.waitAcquire (s : State) (c : Nat) (acq : Bool) : State := if acq then s.dropL1 c true else s

/-- A wait's address and its operand b in a thread: as read when the instruction issued (R336). -/
def waitArgs (s : State) (e : Site) (f : WaitF) (th : Thread) : Word × Word :=
  match th.wait with
  | .mem _ a b => (a, b)
  | _ => (e.read s th f.a, e.read s th f.b)

/-- Evaluates the waits of some threads on their checked words: those whose condition holds leave with the value, the
others wait (R271). -/
def State.evalWaits (s : State) (e : Site) (i : Instr) (f : WaitF) (cond : Word → Word → Bool) (rs : List Acc) :
    State × Bool :=
  let s := rs.foldl (fun s r => s.freshLine e.cur.core (accTarget r)) s
  let vs := rs.map (fun (r : Acc) => (r.1.ltid, accValue s e r 8))
  let val := fun (th : Thread) => BitVec.ofNat 64 (valueOf vs th.ltid)
  let holds := fun (th : Thread) => cond (val th) (waitArgs s e f th).2
  let ok := rs.filter (fun (r : Acc) => holds r.1)
  let s := s.noteLoads e ok 8 1 false
  let s := if ok.isEmpty then s else s.waitAcquire e.cur.core f.acq
  let race := (s.launchOf e.b).race
  let go := fun (th : Thread) =>
    let th' := if race && f.acq then th.acquire e.t e.b f.lvl.toNat else th
    { ((th'.setD f.d (val th)).cleared f.d).next with wait := .run, kept := none }
  (s.finish e (fun th => if holds th then go th
    else { th with wait := .mem i (waitArgs s e f th).1 (waitArgs s e f th).2, acted := false, kept := none }),
    ok.length < rs.length)

/-- WAITSEQ or WAITVAL issues (R133, R140, R271); a read that does not satisfy the wait touches its line as well (R120). -/
def waitIssue (i : Instr) (f : WaitF) (cond : Word → Word → Bool) (s : State) : State :=
  issue i (fun e s =>
    s.atWait e (fun e s =>
      s.access e (fun th => [⟨e.read s th f.a, 8, 8, .read, .plain⟩]) (fun rs s =>
        let s := (s.acts e).noteSources e [f.a, f.b]
        let r := s.evalWaits e i f cond rs
        if r.2 then
          let t := rs.foldl (fun s q => s.noteRead e.cur.core e.cur.slot (accTarget q) 8 1 .read) r.1
          if s.isExact e.cur.slot e.b then t else { t.closeAfter e.cur.core with cur := s.cur }
        else r.1))) s

/-- WAITSEQ (R271). -/
def execWaitseq (f : WaitF) (s : State) : SyncOut :=
  .next (waitIssue (.waitseq f) f (fun m b => b.toNat ≤ m.toNat) s)

/-- WAITVAL (R271). -/
def execWaitval (f : WaitF) (s : State) : SyncOut :=
  .next (waitIssue (.waitval f) f (fun m b => waitCond f.cc m b) s)

/-- The thread waits at this WAITSEQ or WAITVAL. -/
def Thread.waitsAt (th : Thread) (i : Instr) : Bool :=
  match th.wait with
  | .mem j _ _ => j == i
  | _ => false

/-- The reads of an evaluation touch their lines, whether they satisfy it or not (R120). -/
def State.touchWaits (s : State) (core slot : Nat) (rs : List Acc) : State :=
  match s.winBlock? core slot with
  | none => s
  | some b => rs.foldl (fun s r => match accTarget r with
    | .desc _ => s
    | t => if t.kind = 0 then (linesOf t.key 8).foldl (fun s l => s.touchOn core b.launch b.lin l) s else s) s

/-- Evaluates anew the waits of the threads that stand at a thread's WAITSEQ or WAITVAL in its quadrant (R271, R338). A
wait whose address no longer passes its checks issues again. -/
def State.reevaluate (s : State) (core slot tid : Nat) : State :=
  match s.block? core slot with
  | none => s
  | some b =>
    match b.thread? tid with
    | none => s
    | some th =>
      match th.wait with
      | .mem i _ _ =>
        match waitParts i with
        | none => s
        | some (f, cond) =>
          let ms := b.threads.filter (fun o => !o.exited && o.waitsAt i && o.pc == th.pc && o.quad == th.quad)
          let cur : Cur := ⟨core, th.quad, slot, th.pc, ms.map (fun o => o.ltid)⟩
          let e : Site := ⟨cur, b, s.treeOf slot b, ms, ms⟩
          match checkGroup s e (fun o => [⟨(waitArgs s e f o).1, 8, 8, .read, .plain⟩]) with
          | .ok rs =>
            let s := s.touchWaits core slot rs
            let vs := rs.map (fun (r : Acc) => (r.1.ltid, accValue (s.freshLine core (accTarget r)) e r 8))
            if (s.core core).chunk.served == some slot then s
            else if ms.any (fun o => cond (BitVec.ofNat 64 (valueOf vs o.ltid)) (waitArgs s e f o).2) then
              (if s.isExact slot b then s else s.dirty core).evalWaits e i f cond rs |>.1
            else s
          | .held => s
          | _ => s.mapTids core slot cur.tids (fun o => { o with wait := .run, acted := s.isExact slot b })
      | _ => s

/-- A thread's wait is suspended while the handler serves a deferred fault that was taken on it (R281). -/
def State.waitHeld (s : State) (core slot tid : Nat) : Bool :=
  match (s.block? core slot).bind (fun b => b.thread? tid) with
  | some th => waitSuspended s core th.quad slot
  | none => false

/-- WAIT_REEVALUATION (R271); under EXACT the merge evaluates (R144). A suspended wait is evaluated anew when its group resumes (R281). -/
def execWaitReevaluation (core slot tid : Nat) (s : State) : SyncOut :=
  match s.block? core slot with
  | none => .next s
  | some b =>
    if s.isExact slot b || s.coreStalled core || s.waitHeld core slot tid then .next s
    else .next (s.reevaluate core slot tid)

end Sys2Proof.Machine
end

