-- ==== Sys2Proof/Machine/Commit.lean ====
section
/-! DEFINITION. The grant of chunks, the merge of EXACT phases, and the retirement of blocks and launches (R38, R43, R46, R133,
R136, R140-R144, R366-R368). -/

namespace Sys2Proof.Machine

/-- The answer of an event of this file. -/
abbrev EndOut := Host.Outcome State Fault Refusal

/-! ### Chunks (R46, R133, R136) -/

/-- CHUNK_TIME_LIMIT: 4,096 cycles have passed since the core's chunk opened (R133, R134). -/
def execChunkTimeLimit (core : Nat) (s : State) : EndOut :=
  let h := (s.core core).chunk
  .next (if h.fresh || h.ended then s else s.endChunk core)

/-- A priority chunk is open on another core (R46). -/
def prioElsewhere (s : State) (c : Nat) : Bool := s.cores.any (fun (k : Nat × CoreSt) => k.1 != c && k.2.chunk.prio)

/-- The checks of R34 on every launch that has a block on a core. -/
def State.coreChecks (s : State) (c : Nat) : State :=
  (((Tab.vals (s.core c).arch.blocks).map (fun (b : Block) => b.launch)).dedup).foldl (fun s l => s.memberChecks l) s

/-- CHUNK_COMMIT: the arbiter grants an ended chunk, which commits once the source reads of its LDX transfers have returned and no line that it
has written is held, or a priority chunk that is about to open (R46, R136, R158, R256). -/
def execChunkCommit (core : Nat) (s : State) : EndOut :=
  let k := s.core core
  .next (
    if prioElsewhere s core then s
    else if k.chunk.ended then (if ldxReading s core || commitHeld s core then s else (s.commit core).coreChecks core)
    else if k.prioReq && k.chunk.fresh && !k.chunk.prio && s.priority.head? == some core then
      s.updChunk core (fun h => { h with prio := true })
    else s)

/-! ### Commands of a launch or block -/

/-- Commands queued on the streams of a context and of the cores. -/
def allCommands (s : State) : List Cmd :=
  let ofEng := fun (e : Engines) => (Tab.vals e.streams).flatMap (fun (st : Stream) => st.q)
  s.cores.flatMap (fun (k : Nat × CoreSt) => ofEng k.2.eng ++ (Tab.vals k.2.engSaved).flatMap ofEng)
    ++ s.ctxs.flatMap (fun (x : Nat × Ctx) => (Tab.vals x.2.streams).flatMap (fun (st : Stream) => st.q))

/-- A launch's command has not completed; an operation that an arm fired is none (R307). -/
def launchBusy (s : State) (l : Nat) : Bool := (allCommands s).any (fun q => !q.isFired && (match q.blk with
  | some id => id.launch == l
  | none => false))

/-- A block's command has not completed (R38). -/
def blockBusy (s : State) (b : Block) : Bool := (allCommands s).any (fun q => !q.isFired && q.blk == some ⟨b.launch, b.lin⟩)

/-! ### The merge of a phase (R140-R144) -/

/-- The thread has reached its phase point, has exited, or waits in a way that counts as both: threads of one block may each do so in
their own way (R140, R144; log 84). -/
def Thread.phaseDone (t : Tree) (th : Thread) : Bool :=
  th.exited || (match th.wait with
    | .phase => true
    | .mem _ _ _ => true
    | .barrier l => 4 ≤ (t.bind l).code
    | .barAgain l => 4 ≤ (t.bind l).code
    | .barw l _ => 4 ≤ (t.bind l).code
    | .parked i _ _ _ => 4 ≤ (t.bind (rendLvl i)).code
    | _ => false)

/-- The block has completed its phase. -/
def Block.phaseDone (s : State) (t : Tree) (b : Block) : Bool :=
  b.threads.all (Thread.phaseDone t) || (b.failing && !blockBusy s b)

/-- A block of the launch stands in a save area. -/
def launchSaved (s : State) (l : Nat) : Bool :=
  s.cores.any (fun (k : Nat × CoreSt) => k.2.saved.any (fun v => v.arch.blocks.any (fun (e : Nat × Block) => e.2.launch == l)))

/-- Blocks in ascending logical block id. -/
def byLin (bs : List (Nat × Nat × Block)) : List (Nat × Nat × Block) := bs.insertionSort (fun a b => a.2.2.lin ≤ b.2.2.lin)

/-- The thread whose place in the merge an operation takes: the lowest of those whose values one contribution combines (log 85). -/
def PhaseOp.tid (o : PhaseOp) : Nat :=
  match o with
  | .atom a => a.ltid
  | .acc _ _ _ ts => ts.foldl min 4096

/-- The lines that a held read-modify-write writes. -/
def PhaseOp.lines (o : PhaseOp) : List Nat :=
  match o with
  | .atom a => linesOf a.key a.w
  | .acc k _ _ _ => linesOf k 8

def PhaseOp.keys (o : PhaseOp) : List Nat :=
  match o with
  | .atom a => (List.range a.w).map (fun i => a.key + i)
  | .acc k _ _ _ => (List.range 8).map (fun i => k + i)

/-- One contribution of step 4 (R143): its value is computed on merged memory, and its flags go to its threads. -/
def State.mergeOp (s : State) (c slot : Nat) (o : PhaseOp) : State :=
  match o with
  | .atom a => s.writeMem a.key (natLe a.w (atomApply a.aop (8 * a.w) (s.natMem a.key a.w) a.x.toNat a.cmp.toNat))
  | .acc k red x ts =>
    let r := redApp red .rne (s.wordMem k) x
    (s.writeMem k (natLe 8 r.1.toNat)).mapTids c slot ts (fun th => th.flag r.2)

/-- Every write of a phase (R143): blocks in ascending id, then engine writes, then contributions. -/
def State.mergeWrites (s : State) (ln : Launch) (bs : List (Nat × Nat × Block)) : State :=
  let mem := bs.foldl (fun m e => Memory.apply m e.2.2.pover) s.mem
  let mem := bs.foldl (fun m e => (ln.pubs.filter (fun p => p.1 == e.2.2.lin)).foldl (fun m p => Memory.apply m p.2) m) mem
  bs.foldl (fun s e => (e.2.2.pops.insertionSort (fun a b => a.tid ≤ b.tid)).foldl (fun s o => s.mergeOp e.1 e.2.1 o) s)
    { s with mem := mem }

/-- The bytes that a block's merge writes for itself. -/
def Block.mergeKeys (b : Block) : List Nat := b.pover.map (fun c => c.1) ++ b.pops.flatMap PhaseOp.keys

/-- The lines that a phase has written. -/
def mergedLines (ln : Launch) (bs : List (Nat × Nat × Block)) : List Nat :=
  addNew [] (bs.flatMap (fun e => e.2.2.pover.map (fun c => c.1 / 256) ++ e.2.2.pops.flatMap PhaseOp.lines)
    ++ ln.pubs.flatMap (fun p => p.2.map (fun c => c.1 / 256)))

/-- The phase of a launch can be merged now; the source reads of LDX transfers have returned, no line that it has
written is held, and no priority chunk is open (R46, R143, R158, R161, R256, R391). -/
def mergeReady (s : State) (l : Nat) (ln : Launch) : Bool :=
  let bs := s.blocksOf l
  ln.det == 2 && ln.status == 3 && !bs.isEmpty && !launchSaved s l && ln.tree.placed ≤ ln.next
    && bs.all (fun e => e.2.2.phaseDone s ln.tree && e.2.2.ldx.all (fun x => x.failed.isSome)) && !launchBusy s l
    && !(mergedLines ln bs).any (fun n => s.heldLines.contains n) && !prioOpen s

/-- The next phase opens for a block (R140, R143). -/
def Block.nextPhase (b : Block) : Block :=
  { b with
    phase := b.phase + 1, pover := [], pops := [], pheld := [], plines := []
    pdone := b.failing || b.threads.all (fun th => th.exited)
    threads := b.threads.map (fun th =>
      if th.wait == .phase then { th with resv := none, wait := .run, acted := true } else { th with resv := none }) }

/-- Waits at WAITSEQ and WAITVAL are evaluated after the merge, but for those that a deferred fault suspends (R144, R281). -/
def State.reevaluateAll (s : State) (bs : List (Nat × Nat × Block)) : State :=
  bs.foldl (fun s e => e.2.2.threads.foldl (fun s th =>
    if s.waitHeld e.1 e.2.1 th.ltid then s else s.reevaluate e.1 e.2.1 th.ltid) s) s

/-- The effects that the blocks of a phase have held, with their cores: stores and ATOMs in the order of their issue, then the others by
block (R42, R130, R139). -/
def phaseHeld (bs : List (Nat × Nat × Block)) : List (Nat × Held) :=
  let all := bs.flatMap (fun e => (heldOrder e.2.2.pheld).map (fun h => (e.1, h)))
  let isAcc := fun (h : Nat × Held) => match h.2 with
    | .store _ _ _ _ => true
    | .atom _ _ _ => true
    | _ => false
  (all.filter isAcc).insertionSort (fun a b => a.2.ord ≤ b.2.ord) ++ all.filter (fun h => !isAcc h)

/-- The merge of one launch's phase. -/
def State.mergePhase (s : State) (l : Nat) (ln : Launch) : State :=
  let bs := byLin (s.blocksOf l)
  let ls := mergedLines ln bs
  let s := bs.foldl (fun s e => s.keepWords e.1 ln.ctx e.2.2.mergeKeys (fun q => !q.exact_)) s
  let keys := bs.flatMap (fun e => e.2.2.mergeKeys) ++ ln.pubs.flatMap (fun p => p.2.map (fun c => c.1))
  let s := s.keepOld (fun i => if i = l then [] else keys)
  let s := s.mergeWrites ln bs
  let s := bs.foldl (fun s e => s.showClk e.1 ln.ctx e.2.2.mergeKeys) s
  let s := bs.foldl (fun s e => s.updBlockBoth e.1 e.2.1 Block.nextPhase) s
  let s := s.updLaunch l (fun ln => { ln with phase := ln.phase + 1, pubs := [], old := [] })
  let s := (s.breakResv 384 (ls.map (fun n => (256 * n, 0)))).broadcast (s.ctx ln.ctx).part none ls
  let s := (phaseHeld bs).foldl (fun s h => s.release h.1 ln.ctx h.2) s
  s.reevaluateAll bs

/-- The launches of a context that come from a record, instances first, that meet a condition. -/
def recLaunches (s : State) (ctx rec : Nat) (p : Nat → Launch → Bool) : List Nat :=
  let all := (List.range s.launches.length).filter (fun l => match s.launch? l with
    | some ln => ln.ctx == ctx && ln.rec_ == rec && p l ln
    | none => false)
  let inst := fun (l : Nat) => match s.launch? l with
    | some ln => ln.parent.isSome
    | none => false
  all.filter inst ++ all.filter (fun l => !inst l)

/-- PHASE_MERGE (R143). -/
def execPhaseMerge (ctx record : Nat) (s : State) : EndOut :=
  .next (match recLaunches s ctx record (mergeReady s) with
    | [] => s
    | l :: _ => match s.launch? l with
      | some ln => s.mergePhase l ln
      | none => s)

/-! ### The end of a block (R38) -/

/-- The block's last chunk has committed, or its last phase has merged (R38). -/
def settled (s : State) (c slot : Nat) (b : Block) : Bool :=
  if s.isExact slot b then
    b.pdone && b.pover.isEmpty && b.pops.isEmpty && b.pheld.isEmpty && !(s.launchOf b).pubs.any (fun p => p.1 == b.lin)
  else
    let h := (s.core c).chunk
    !h.ended && (match h.snap with
      | none => true
      | some a => match a.block? slot with
        | some o => o.threads.all (fun th => th.exited) || o.failing
        | none => true)

/-- A fault of the slot's block is queued, served or forwarded (R281, R344). -/
def faultsOpen (s : State) (c slot : Nat) (b : Block) : Bool :=
  let a := (s.core c).arch
  !b.deferred.isEmpty || (a.serving.toList ++ a.faultq ++ a.fwd.map (fun f => f.2)).any (fun f => f.slot == slot)

/-- The block of a slot can retire (R38, R357); its mailboxes are no longer filled. -/
def retirable (s : State) (c slot : Nat) (b : Block) : Bool :=
  slot < 16 && (b.failing || b.threads.all (fun th => th.exited)) && settled s c slot b && !blockBusy s b
    && !faultsOpen s c slot b && b.ldx.all (fun x => x.failed.isSome) && b.wnWait.isEmpty

/-- BLOCK_RETIRE (R38). -/
def execBlockRetire (core slot : Nat) (s : State) : EndOut :=
  match s.block? core slot with
  | none => .next s
  | some b =>
    if !retirable s core slot b then .next s
    else
      let s := s.withdrawArrivals core slot (b.threads.map (fun th => th.ltid))
      let s := s.updBoth core (fun a => { a with blocks := Tab.del a.blocks slot })
      let s := s.updLaunch b.launch (fun ln => { ln with retired := ln.retired + 1 })
      .next (s.memberChecks b.launch)

/-! ### Dependences (R43, R366) -/

/-- The management core reads some bytes: a touch by another block (R120). -/
def State.lookAt (s : State) (k n : Nat) : State := s.outTouch (linesOf k n)

/-- The event record of a queue or record error (R375). -/
def State.postQueue (s : State) (x rec code queue : Nat) : State :=
  s.post x 0x40 0 [(0x10, natLe 8 rec), (0x18, natLe 8 code), (0x20, natLe 8 (queue % 2 ^ 16))]

/-- A launch becomes ready (R361, R366). -/
def State.ready (s : State) (l : Nat) : State :=
  let s := s.setStatus l 2
  { s.updLaunch l (fun ln => { ln with readyAt := s.mclock, readySeq := s.readySeq }) with readySeq := s.readySeq + 1 }

/-- A launch becomes ready; a template forms the instances whose records are there (R367). -/
def State.makeReady (s : State) (l : Nat) : State := (s.ready l).form l

/-- A decrement of a record's dependence counter on behalf of a context's queue (R366). -/
def State.decrement (s : State) (x queue rec amount : Nat) : State :=
  let old := s.natMem (rec + 0x30) 4
  let new := old - amount
  let s := s.outWrite (rec + 0x30) (natLe 4 new)
  let s := if old < amount then s.postQueue x rec 0x35 queue else s
  if new ≠ 0 then s
  else match launchOfRec s rec with
    | some l => match s.launch? l with
      | some ln => if ln.status = 1 then s.makeReady l else s
      | none => s
    | none => s

/-! ### The end of a launch (R367, R368) -/

/-- The template that a producer feeds learns that the producer has ended (R42, R367). -/
def State.producerEnds (s : State) (l : Nat) (ln : Launch) : State :=
  match ln.succ.bind (launchOfRec s) with
  | none => s
  | some t => match s.launch? t with
    | some tn =>
      if !tn.template || isEnd tn.status then s
      else (s.updLaunch t (fun tn => { tn with prodDone := true, producer := some l })).form t
    | none => s

/-- The end of a dequeued record: status, dependants, completion word, vector and event (R361, R366, R368). -/
def State.endRecord (s : State) (l st : Nat) : State :=
  match s.launch? l with
  | none => s
  | some ln =>
    let s := s.setStatus l st
    let s := if st = 4 then
        (List.range ln.nDeps).foldl (fun s i =>
          s.decrement ln.ctx ln.queue (s.natMem (ln.depsAddr + 8 * i) 8 % 2 ^ 56) 1) (s.lookAt ln.depsAddr (8 * ln.nDeps))
      else s.postQueue ln.ctx ln.rec_ st ln.queue
    let s := if ln.doneWord = 0 then s else s.outWrite ln.doneWord (natLe 8 st)
    let s := if ln.raises then s.raise ln.vec else s
    s.producerEnds l ln

/-- Ownership that a retired launch leaves (R120). -/
def State.dropPlat (s : State) (l : Nat) : State :=
  { s with plat := s.plat.filterMap (fun (e : Nat × Plat) => match e.2 with
    | .unowned => none
    | .private_ o _ => if o = l then none else some e
    | .shared ls =>
      let ls := ls.filter (fun o => o != l)
      if ls.isEmpty then none else some (e.1, .shared ls)) }

/-- Instances formed from a template. -/
def instances (s : State) (t : Nat) : Nat := (s.launches.filter (fun ln => ln.parent == some t)).length

/-- The launch has run to its end: its last block has retired, or, for a template, its last instance; and its writes can be performed, in
their order behind those that an EXACT block holds (R52, R130, R367, R368, R429). -/
def launchDone (s : State) (l : Nat) (ln : Launch) : Bool :=
  if ln.template then
    (ln.status == 2 || ln.status == 3) && ln.instDone.length == instances s l
      && (ln.noForm || (ln.prodDone && ln.appended ≤ ln.formed * ln.thresh))
  else ln.status == 3 && ln.retired + ln.withdrawn.length == ln.tree.placed && ln.workReq.isEmpty
    && !landsBlocked s (fun f => f.ctx == ln.ctx)

/-- The launch's writes are visible at PACKAGE level, its ownership and its nodes' allocations end, and the order-stamp unit keeps its
accesses no more (R17, R43, R52, R120, R163; log 46). -/
def State.releaseLaunch (s : State) (l : Nat) (ln : Launch) : State :=
  let s := s.landWhere (fun f => f.ctx == ln.ctx)
  let s := s.coreNums.foldl (fun s c => s.wakeDrains c) s
  let s := s.updCtx ln.ctx (fun x => { x with accesses := x.accesses.filter (fun a => a.launch != l) })
  (s.dropPlat l).updLaunch l (fun ln => { ln with nodes := [] })

/-- An instance retires (R367): its template counts it, and fails with it. -/
def State.endInstance (s : State) (l t : Nat) (ln : Launch) : State :=
  let st := if ln.failed then 5 else 4
  let s := s.updLaunch l (fun ln => { ln with status := st })
  s.updLaunch t (fun tn => { tn with instDone := tn.instDone ++ [ln.instance_], failed := tn.failed || ln.failed })

/-- LAUNCH_RETIRE (R368). -/
def execLaunchRetire (ctx record : Nat) (s : State) : EndOut :=
  .next (match recLaunches s ctx record (launchDone s) with
    | [] => s
    | l :: _ => match s.launch? l with
      | none => s
      | some ln =>
        let s := s.releaseLaunch l ln
        match ln.parent with
        | some t => s.endInstance l t ln
        | none => s.endRecord l (if ln.failed || ln.noForm then 5 else 4))

end Sys2Proof.Machine
end

