-- ==== Sys2Proof/Machine/Convert.lean ====
section
/-! DEFINITION. Conversions, block scales, codebooks and packing (R87-R95, R230-R239). -/

namespace Sys2Proof.Machine

/-- The element format of a conversion code (R230). -/
def convFF (code : Nat) : FF :=
  match code with
  | 0 => .f64 | 1 => .f32 | 2 => .f32 | 3 => .f16 | 4 => .bf16 | 5 => .e5m2 | 6 => .e4m3 | 7 => .e3m2 | 8 => .e2m3
  | _ => .e2m1

/-- Bits between elements in a register: 6-bit codes take a byte each (R230). -/
def convStride (code : Nat) : Nat := if code ≤ 4 then (convFF code).bits else if code = 9 then 4 else 8

/-- The scale 2^(E-127) applied to a value; an `E` of 0xFF, or a NaN element, is a quiet NaN (R90, R93). -/
def scaleBy (ex : Nat) (a : Fv) : Fv :=
  if ex = 255 then .nan false false
  else match a with
    | .nan _ _ => .nan false false
    | .inf n => .inf n
    | .fin n m e => .fin n m (e + ex - 127)

/-- The destination element of source element `j` when `ns` source elements fill a group of `nd` (R231): destination
element `k` is written from source element, if any. -/
def convSource (ns nd pos k : Nat) : Option Nat :=
  if nd ≤ ns then some (pos * nd + k)
  else if pos * ns ≤ k && k < pos * ns + ns then some (k - pos * ns) else none

/-- A conversion into `nd` elements of `stride` bits: each is converted or kept (R231). -/
def convMap (ns nd pos stride : Nat) (old : Word) (g : Nat → Res) : WRes :=
  let rs := (List.range nd).map (fun k => match convSource ns nd pos k with
    | some j => g j
    | none => (elem old stride k, fNone))
  (if nd * stride = 32 then pack 32 (rs.map (fun r => r.1)) else pack stride (rs.map (fun r => r.1)),
   rs.foldl (fun fl r => fl ||| r.2) fNone)

/-- The value of source element `j` in the register layout of a conversion code; an element code is read at its value
whatever `ftz` (R79, R93, R230, R232; log 16). -/
def convRead (code : Nat) (ftz : Bool) (a b : Word) (j : Nat) : Fv :=
  let ff := convFF code
  let x := elem a (convStride code) j % 2 ^ ff.bits
  if code ≤ 4 then ff.input ftz x else scaleBy (elem b 8 0) (ff.read x)

/-- CVTF (R232). -/
def execCvtf (f : CvtF) (s : State) : Out :=
  .next (perThreadF (.cvtf f) f.d (fun s e th =>
    let sf := f.sf.toNat
    let a := match f.a with
      | .const k => if sf ≤ 4 then fltSrc s e th (FFmt.ofCode (f.sf.setWidth 3)) f.a else k.signExtend 64
      | o => e.read s th o
    let ff := (ffOf f.m.fmt)
    convMap (convNe sf) f.m.fmt.ne f.pos.toNat ff.bits (e.read s th f.d)
      (fun j => ff.convert (th.rm f.m.rm) f.m.ftz (convRead sf f.m.ftz a (e.read s th f.b) j))) s)

/-- The tight layout of eight 6-bit codes spread to a byte each (R95, R239). -/
def spread6 (a : Word) : Word := pack 8 ((List.range 8).map (fun j => elem a 6 j))

/-- UNPACK (R239). -/
def execUnpack (f : CvtF) (s : State) : Out :=
  .next (perThreadF (.unpack f) f.d (fun s e th =>
    let sf := f.sf.toNat
    let a := if sf = 7 || sf = 8 then spread6 (e.read s th f.a) else e.read s th f.a
    let ff := (ffOf f.m.fmt)
    convMap (convNe sf) f.m.fmt.ne f.pos.toNat ff.bits (e.read s th f.d)
      (fun j => ff.convert (th.rm f.m.rm) f.m.ftz (convRead sf f.m.ftz a (e.read s th f.b) j))) s)

/-- Bits of an integer width code (R233). -/
def iwBits (iw : BitVec 2) : Nat := if iw = 0 then 64 else if iw = 1 then 32 else if iw = 2 then 16 else 8

/-- CVTFI: a scalar result is extended under its type (R233). -/
def execCvtfi (f : CvtI) (s : State) : Out :=
  .next (perThreadF (.cvtfi f) f.d (fun s e th =>
    let a := fltSrc s e th f.m.fmt f.a
    let ff := (ffOf f.m.fmt)
    let n := iwBits f.iw
    let rs := (List.range f.m.fmt.ne).map (fun k =>
      toInteger n f.si (th.rm f.m.rm) (ff.input f.m.ftz (fltEl f.m.fmt a k)))
    (if f.m.fmt.ne = 1 then BitVec.ofNat 64 (wrap 64 (readInt n f.si ((rs.map (fun r => r.1)).headD 0)))
     else pack n (rs.map (fun r => r.1)),
     rs.foldl (fun fl r => fl ||| r.2) fNone)) s)

/-- CVTIF: a constant is an integer of the width that the slot reads (R171, R234). -/
def execCvtif (f : CvtI) (s : State) : Out :=
  .next (perThreadF (.cvtif f) f.d (fun s e th =>
    let n := iwBits f.iw
    let a := match f.a with
      | .const k => pack n (List.replicate f.m.fmt.ne (wrap n k.toInt))
      | o => e.read s th o
    fltMap f.m.fmt (fun k => (ffOf f.m.fmt).fromInt (th.rm f.m.rm) f.m.ftz (readInt n f.si (elem a n k)))) s)

/-- One value to an element code under a scale: rne, saturating (R92). -/
def narrowCode (ff : FF) (ex : Nat) (a : Fv) : Res :=
  let big := ff.signBit a.neg + ff.maxFin
  match a with
  | .nan _ _ => (big, fNv)
  | .inf _ => (big, fNv)
  | .fin n m e =>
    if ex = 255 then (big, fNv)
    else if m = 0 then (ff.signBit n, fNone)
    else
      let e := e + 127 - ex
      let qmin : Int := 1 - ff.bias - ff.mb
      let q := max ((Nat.log2 m : Int) + e - ff.mb) qmin
      let r := roundAt .rne n m e q false
      let x := (q - qmin).toNat * 2 ^ ff.mb + r.1
      if ff.maxFin < x then (big, fOf ||| fNx) else (ff.signBit n + x, if r.2 then fNx else fNone)

/-- CVTN (R92, R235). -/
def execCvtn (f : CvtN) (s : State) : Out :=
  .next (perThreadF (.cvtn f) f.d (fun s e th =>
    let df := f.df.toNat
    let a := fltSrc s e th f.fmt f.a
    let ex := elem (e.read s th f.b) 8 0
    convMap f.fmt.ne (convNe df) f.pos.toNat (convStride df) (e.read s th f.d)
      (fun j => narrowCode (convFF df) ex ((ffOf f.fmt).read (fltEl f.fmt a j)))) s)

/-- The exponent of the largest normal binade of an element format (R91). -/
def emaxOf (code : Nat) : Int := if code = 5 then 15 else if code = 6 then 8 else if code = 7 then 4 else 2

/-- The scale of R91 for some magnitudes. -/
def scaleEst (code : Nat) (xs : List Fv) : Nat :=
  if xs.any (fun x => x.isNan) then 255
  else if xs.any (fun x => match x with
    | .inf _ => true
    | _ => false) then 254
  else
    let logs := xs.filterMap (fun x => match x with
      | .fin _ m e => if m = 0 then none else some ((Nat.log2 m : Int) + e)
      | _ => none)
    match logs with
    | [] => 127
    | l :: ls => (max 0 (min 254 (ls.foldl max l - emaxOf code + 127))).toNat

/-- SCALEEST (R236). -/
def execScaleest (f : ScaleF) (s : State) : Out :=
  .next (perThreadF (.scaleest f) f.d (fun s e th =>
    let a := fltSrc s e th f.fmt f.a
    (BitVec.ofNat 64 (scaleEst f.tf.toNat ((List.range f.fmt.ne).map (fun k =>
      (ffOf f.fmt).input f.ftz (fltEl f.fmt a k)))), fNone)) s)

/-- Entry `c` of slot `s` of a codebook store, a bf16 encoding (R94). -/
def codebook (st : Tab Byte) (slot c : Nat) : Nat := leNat (Memory.read st (32 * slot + 2 * c) 2)

/-- The codebook store that CBDEC reads (R94, R237). -/
def siteCodebook (s : State) (e : Site) : Tab Byte := (coreEngines (s.core e.cur.core) (s.ctxOf e.b)).cbook

/-- CBDEC (R237). -/
def execCbdec (f : CbDec) (s : State) : Out :=
  .next (perThreadF (.cbdec f) f.d (fun s e th =>
    let a := e.read s th f.a
    let ff := (ffOf f.m.fmt)
    let ex := if f.scl then elem (e.read s th f.b) 8 0 else 127
    convMap 16 f.m.fmt.ne f.pos.toNat ff.bits 0 (fun j =>
      ff.convert (th.rm f.m.rm) f.m.ftz (scaleBy ex (FF.bf16.read
        (codebook (siteCodebook s e) f.slot.toNat (elem a 4 j)))))) s)

/-- PACK (R238). -/
def execPack (f : PackF) (s : State) : Out :=
  .next (perThread (.pack f) f.d (fun s e th =>
    let a := e.read s th f.a
    if f.n4 then
      let b := e.read s th f.b
      pack 4 ((List.range 16).map (fun j => if j < 8 then elem a 8 j else elem b 8 (j - 8)))
    else pack 6 ((List.range 8).map (fun j => elem a 8 j))) s)

end Sys2Proof.Machine
end

