-- ==== Sys2Proof/Machine/EngineCheck.lean ====
section
/-! DEFINITION. The functions of the engines and the checks of a command's parameters (R181, R274, R282, R286-R291,
R295-R308). -/

namespace Sys2Proof.Machine

/-- The engine that owns a function; TAIL and SEQ take the engine that `b` selects (R181, R284). -/
def engineOf (fn b : Nat) : Nat :=
  if fn < 0x20 then 0
  else if fn < 0x27 then 1
  else if fn = 0x40 then 2
  else if fn = 0x50 || fn = 0x51 then b % 4
  else 3

/-- Parameter registers of a function. -/
def fnParams (fn : Nat) : Nat :=
  match fn with
  | 0x00 => 5 | 0x01 => 1 | 0x02 => 1 | 0x03 => 3 | 0x04 => 3 | 0x05 => 2 | 0x06 => 2 | 0x07 => 2
  | 0x20 => 4 | 0x21 => 10 | 0x22 => 5 | 0x23 => 5 | 0x24 => 3 | 0x25 => 3 | 0x26 => 0 | 0x27 => 5
  | 0x40 => 6 | 0x50 => 2 | 0x51 => 2 | 0x60 => 1 | 0x61 => 3 | 0x62 => 1 | 0x63 => 2 | 0x64 => 1
  | _ => 0

/-- The function is assigned (R181). -/
def fnAssigned (fn : Nat) : Bool :=
  fn ≤ 0x07 || (0x20 ≤ fn && fn ≤ 0x27) || fn = 0x40 || fn = 0x50 || fn = 0x51 || (0x60 ≤ fn && fn ≤ 0x64)

/-- The parameter that is a format word (R275). -/
def fmtParam (fn : Nat) : Option Nat :=
  match fn with
  | 0x00 => some 2
  | 0x01 => some 0
  | 0x21 => some 7
  | _ => none

/-- The parameters that are local addresses, which the issuing core resolves (R112, R299). -/
def addrParams (fn : Nat) : List Nat :=
  match fn with
  | 0x03 => [1] | 0x04 => [1] | 0x05 => [0] | 0x06 => [0] | 0x07 => [1]
  | 0x20 => [0, 1] | 0x21 => [0, 1] | 0x22 => [0, 1, 2] | 0x23 => [0, 1, 2] | 0x24 => [0, 1] | 0x25 => [0] | 0x27 => [1]
  | 0x40 => [0, 1, 2] | 0x50 => [0] | 0x51 => [0, 1] | 0x60 => [0] | 0x61 => [2]
  | _ => []

/-! ### Format, shape and scale words (R287-R291) -/

/-- The class of a matrix operand format (R288): 0 f64, 1 f32, 2 16-bit, 3 8-bit, 4 narrow. -/
def fmtClass (code : Nat) : Nat :=
  if code ≤ 1 then code else if code ≤ 3 then 2 else if code ≤ 5 then 3 else 4

/-- The K-block of a class (R98, R288). -/
def kBlock (cls : Nat) : Nat :=
  match cls with
  | 0 => 4 | 1 => 8 | 2 => 8 | 3 => 16 | _ => 32

/-- The step of a class in rows and columns (R288). -/
def mnStep (cls : Nat) : Nat := if cls ≤ 1 then 16 else 32

/-- A format word has an unassigned field (R287). -/
def fmtUnassigned (w : Word) : Bool :=
  9 < field w 0 4 || 9 < field w 4 4 || 3 < field w 17 4 || 4 < field w 21 3
    || (field w 0 4 ≠ 9 && field w 11 3 ≠ 0) || (field w 4 4 ≠ 9 && field w 14 3 ≠ 0)

/-- A format word has a reserved bit set (R287). -/
def fmtReserved (w : Word) : Bool := field w 27 37 ≠ 0

/-- The formats of an MMA break the class rules (R288). -/
def fmtClassBad (w : Word) (k : Nat) : Bool :=
  let cls := fmtClass (field w 0 4)
  cls ≠ fmtClass (field w 4 4) || w.getLsbD 8 != (cls == 0)
    || ((w.getLsbD 9 || w.getLsbD 10) && (cls < 3 || k % 32 ≠ 0))

def shM (w : Word) : Nat := field w 8 12
def shN (w : Word) : Nat := field w 20 12
def shK (w : Word) : Nat := field w 32 16
def shT (w : Word) : Nat := field w 0 7

/-- A shape word has a reserved bit set (R290). -/
def shapeReserved (w : Word) : Bool := w.getLsbD 7 || field w 49 15 ≠ 0

/-- A descriptor has a reserved bit set, or an unaligned offset (R289). -/
def descBad (w : Word) : Bool := field w 56 8 ≠ 0 || field w 27 5 ≠ 0 || field w 0 23 % 64 ≠ 0

/-- A descriptor's stride is no multiple of 64, or below a row (R289). -/
def strideBad (w : Word) (len fmt : Nat) : Bool :=
  let st := field w 32 24
  st % 64 ≠ 0 || st = 0 || st < (len * mfmtNibbles fmt + 1) / 2

/-- Bytes of an accumulator element under a format word's accf. -/
def accBytes (fmtw : Word) : Nat := if fmtw.getLsbD 8 then 8 else 4

/-- The accumulator slots of a region: first and count (R286). -/
def regionSlots (shape : Word) (eb : Nat) : Nat × Nat := (shT shape, (shM shape * shN shape * eb + 4095) / 4096)

/-- The accumulator slots that a matrix command touches (R294); `fmtw` is its stream's format word. -/
def cmdSlots (fn : Nat) (ps : List Word) (fmtw : Word) : Option (Nat × Nat) :=
  match fn with
  | 0x00 => some (regionSlots (param ps 3) (accBytes (param ps 2)))
  | 0x02 => some (regionSlots (param ps 0) (accBytes fmtw))
  | 0x03 => some (regionSlots (param ps 0) (accBytes fmtw))
  | 0x04 => some (regionSlots (param ps 0) (accBytes fmtw))
  | _ => none

/-- Two slot ranges share a slot. -/
def slotsMeet (a b : Nat × Nat) : Bool := a.1 < b.1 + b.2 && b.1 < a.1 + a.2

/-! ### CHAIN (R303, R304) -/

/-- An operation byte of CHAIN is unassigned for its type. -/
def chainOpBad (ty o : Nat) : Bool :=
  64 ≤ o || 12 < o % 16 || (ty < 4 && 10 ≤ o % 16)

/-- The operation bytes of P4. -/
def chainOps (w : Word) : List Nat := (List.range 8).map (fun j => field w (8 * j) 8)

/-! ### The subcodes checked at issue (R282) -/

/-- Subcode 0x01: an unassigned value, a reserved bit, or a broken rule of count or size. Two points are the model's: an entry address of ARM
that is not 64-byte aligned is 0x01 at issue (R307; log 100, DESIGN CHOICE), and the alignment of CHAIN's P2 is checked only when an operation
names Y (R303; log 103, DESIGN CHOICE). -/
def paramBad (fn : Nat) (ps : List Word) (b : Word) : Bool :=
  let p := param ps
  match fn with
  | 0x00 =>
    descBad (p 0) || descBad (p 1) || fmtReserved (p 2) || shapeReserved (p 3) || field (p 4) 28 36 ≠ 0
      || field (p 4) 12 4 ≠ 0 || (!(p 2).getLsbD 9 && field (p 4) 0 12 ≠ 0) || (!(p 2).getLsbD 10 && field (p 4) 16 12 ≠ 0)
  | 0x01 => fmtReserved (p 0)
  | 0x02 => shapeReserved (p 0)
  | 0x03 => shapeReserved (p 0)
  | 0x04 => shapeReserved (p 0)
  | 0x05 => (p 0).toNat % 32 ≠ 0 || (p 1).getLsbD 3 || field (p 1) 7 57 ≠ 0 || 8 < field (p 1) 0 3 + field (p 1) 4 3 + 1
  | 0x06 =>
    field (p 1) 1 15 ≠ 0 || field (p 1) 28 4 ≠ 0 || field (p 1) 45 19 ≠ 0 || field (p 1) 32 13 = 0
      || 4096 < field (p 1) 32 13 || 4096 < field (p 1) 16 12 + field (p 1) 32 13
  | 0x07 => field (p 0) 16 48 ≠ 0 || (p 1).toNat % 8 ≠ 0
  | 0x20 => field (p 2) 40 24 ≠ 0 || field (p 3) 1 63 ≠ 0
  | 0x22 => field (p 3) 32 32 ≠ 0 || field (p 4) 4 60 ≠ 0 || 8 < field (p 4) 0 4
  | 0x23 => field (p 3) 32 32 ≠ 0 || field (p 4) 4 60 ≠ 0 || 8 < field (p 4) 0 4
  | 0x24 => field (p 2) 32 32 ≠ 0 || field (p 2) 0 32 % 4 ≠ 0
  | 0x25 => field (p 1) 40 24 ≠ 0
  | 0x27 => field (p 2) 40 24 ≠ 0 || field (p 3) 28 36 ≠ 0 || field (p 4) 11 5 ≠ 0 || field (p 4) 27 37 ≠ 0
  | 0x40 =>
    let ty := field (p 3) 40 3
    let al := chainBytes ty
    field (p 3) 43 21 ≠ 0 || 5 < ty || (chainOps (p 4)).any (chainOpBad ty) || (p 0).toNat % al ≠ 0
      || (p 1).toNat % al ≠ 0 || (chainUsesY (p 4) 8 && (p 2).toNat % al ≠ 0)
  | 0x50 => 3 < b.toNat || p 1 = 0 || 65535 < (p 1).toNat
  | 0x51 => 3 < b.toNat || (p 0).toNat % 8 ≠ 0 || (p 1).toNat % 64 ≠ 0
  | 0x60 => (p 0).toNat % 128 ≠ 0
  | 0x61 => field (p 0) 10 54 ≠ 0 || (p 2).toNat % 64 ≠ 0
  | 0x62 => field (p 0) 10 54 ≠ 0
  | 0x63 => field (p 0) 10 6 ≠ 0 || field (p 0) 44 20 ≠ 0
  | 0x64 => field (p 0) 10 54 ≠ 0
  | _ => false

/-- Subcode 0x02: an unassigned field of a format word, or formats that break the class rules. -/
def formatBad (fn : Nat) (ps : List Word) : Bool :=
  match fn with
  | 0x00 => fmtUnassigned (param ps 2) || fmtClassBad (param ps 2) (shK (param ps 3))
  | 0x01 => fmtUnassigned (param ps 0)
  | _ => false

/-- The shape of an accumulator transfer (R290, R296). -/
def accShapeBad (w : Word) : Bool := shK w ≠ 0 || w.getLsbD 48 || shM w = 0 || shN w = 0

/-- Subcode 0x03: shape, stride or scale offsets. -/
def shapeBad (fn : Nat) (ps : List Word) (fmtw : Word) : Bool :=
  let p := param ps
  match fn with
  | 0x00 =>
    let f := p 2
    let m := shM (p 3)
    let n := shN (p 3)
    let k := shK (p 3)
    let cls := fmtClass (field f 0 4)
    m = 0 || n = 0 || k = 0 || m % mnStep cls ≠ 0 || n % mnStep cls ≠ 0 || k % kBlock cls ≠ 0
      || strideBad (p 0) (if f.getLsbD 25 then m else k) (field f 0 4)
      || strideBad (p 1) (if f.getLsbD 26 then k else n) (field f 4 4)
      || (f.getLsbD 9 && 4096 < field (p 4) 0 12 + m * (k / 32)) || (f.getLsbD 10 && 4096 < field (p 4) 16 12 + k / 32 * n)
  | 0x02 => accShapeBad (p 0)
  | 0x03 => transferBad
  | 0x04 => transferBad
  | _ => false
where
  /-- The address and stride of ACCLD and ACCST. -/
  transferBad : Bool :=
    let ob := ofmtBytes (field fmtw 17 4)
    accShapeBad (param ps 0) || (param ps 1).toNat % ob ≠ 0 || (param ps 2).toNat % 8 ≠ 0
      || (param ps 2).toNat < shN (param ps 0) * ob

/-- The lowest subcode among 0x01 to 0x04 that a command breaks (R282); COPYMMA is checked as COPY without a deferred
publish and as MMA (R301). -/
def checkParams (fn : Nat) (ps : List Word) (b fmtw : Word) : Option Nat :=
  let one := fun (fn : Nat) (ps : List Word) =>
    (paramBad fn ps b, formatBad fn ps, shapeBad fn ps fmtw, (cmdSlots fn ps fmtw).any (fun r => decide (128 < r.1 + r.2)))
  let r := if fn = 0x21 then
      let m := one 0x00 (ps.drop 5)
      (paramBad 0x20 ps b || param ps 3 != 0 || field (param ps 4) 4 60 ≠ 0 || m.1, m.2)
    else one fn ps
  if r.1 then some 1 else if r.2.1 then some 2 else if r.2.2.1 then some 3 else if r.2.2.2 then some 4 else none

end Sys2Proof.Machine
end

