-- ==== Sys2Proof/Machine/EngineMem.lean ====
section
/-! DEFINITION. The accesses of engine commands: translation, reads, the shadow and its publish, writes that land piece
by piece, and their marks for the order-stamp unit (R118, R123, R155-R158, R161-R163, R299, R385). -/

namespace Sys2Proof.Machine

/-- Where an engine command works: its stream, its context, and the command. -/
structure Eng where
  r   : StreamRef
  x   : Nat
  cmd : Cmd
deriving Repr

/-- The context of a stream: the fabric engine keeps its streams by context (R278). -/
def State.streamCtx (s : State) (r : StreamRef) : Nat := if r.eng = 3 then r.unit else ((s.core r.unit).engCtx).getD 0

/-- How the accesses of a command stand. -/
inductive EngRes where
  | ok
  | held
  | wait (rs : List (Word × Nat × Nat))
  | fail (code sub : Nat)
deriving DecidableEq, Repr

/-- One piece of a range, within one granule: its place, what it waits for, or its failure, with the line of a page-table entry that failed its
check (R388). -/
inductive Piece where
  | at (key kind : Nat) (t : Option Xlat)
  | wait (cls sub : Nat)
  | fail (code sub : Nat) (bad : List Nat)
deriving DecidableEq, Repr

/-- A piece's place: a core's engines translate through the core's TLB, the fabric engine by a walk. -/
def engPiece (s : State) (e : Eng) (va : Nat) (need : Need) : Piece :=
  match region (BitVec.ofNat 64 va) with
  | .translated =>
    if 2 ^ 64 ≤ va then .fail 0x0C 6 []
    else match (if e.r.eng = 3 then walkRes s e.x va need else translate s e.cmd.core e.x va need) with
      | .ok t => .at t.pa t.kind (some t)
      | .perm => .fail 0x0C 6 []
      | .xlate sub => .wait need.cls sub
      | .bad p => .fail 0x0B 7 [p / 256]
  | .aperture o => .at (sliceKey o) 0 none
  | _ => .fail 0x0C 6 []

/-- The pieces of a range with their places. -/
def engPieces (s : State) (e : Eng) (va : Word) (n : Nat) (need : Need) : List (Nat × Nat × Piece) :=
  (pieces va.toNat n).map (fun p => (p.1, p.2, engPiece s e p.1 need))

/-- A failing check of a range's data (R388): a read of failing data, or a write of part of a quarantined line. -/
def engDataErr (s : State) (key n : Nat) (need : Need) : Option Nat :=
  (linesOf key n).findSome? (fun l =>
    if s.quar.contains l then
      if need == .write && key ≤ 256 * l && 256 * l + 256 ≤ key + n then none else some 8
    else if need == .write then none
    else Tab.find? s.badLines l)

/-- The standing of some ranges, failures first (R118, R158, R385, R388). -/
def engStatus (s : State) (e : Eng) (rs : List (Word × Nat × Need)) : EngRes :=
  let ps := rs.flatMap (fun r => (engPieces s e r.1 r.2.1 r.2.2).map (fun p => (p, r.2.2)))
  match ps.findSome? (fun p => match p.1.2.2 with
      | .fail c sub _ => some (c, sub)
      | _ => none) with
  | some (c, sub) => .fail c sub
  | none =>
    match ps.findSome? (fun p => match p.1.2.2 with
        | .at k _ _ => engDataErr s k p.1.2.1 p.2
        | _ => none) with
    | some sub => .fail 0x0B sub
    | none =>
      match ps.filterMap (fun p => match p.1.2.2 with
          | .wait cls sub => some (BitVec.ofNat 64 p.1.1, cls, sub)
          | _ => none) with
      | w :: ws => .wait (w :: ws)
      | [] => if ps.any (fun p => match p.1.2.2 with
          | .at k _ _ => linesHeld s e.x k p.1.2.1
          | _ => false) then .held else .ok

/-- The lines whose failing data a command or its walks consume (R388). -/
def engBadLines (s : State) (e : Eng) (rs : List (Word × Nat × Need)) : List Nat :=
  rs.flatMap (fun r => (engPieces s e r.1 r.2.1 r.2.2).flatMap (fun p => match p.2.2 with
    | .at k _ _ => (linesOf k p.2.1).filter (fun l => r.2.2 != .write && (Tab.find? s.badLines l).isSome)
    | .fail _ _ bad => bad
    | _ => []))

/-! ### Reads (R123, R156, R161) -/

/-- The single-copy atomic units of a range: its aligned 8-byte words, and the bytes at an unaligned end (R123). -/
def wordPieces (va n : Nat) : List (Nat × Nat) :=
  let lo := (va + 7) / 8 * 8
  let hi := (va + n) / 8 * 8
  let bytes := fun (a b : Nat) => (List.range (b - a)).map (fun i => (a + i, 1))
  if hi ≤ lo then bytes va (va + n)
  else bytes va lo ++ (List.range ((hi - lo) / 8)).map (fun i => (lo + 8 * i, 8)) ++ bytes hi (va + n)

/-- The engine writes that a block's commands have made in its current phase (R161). -/
def State.pubsOf (s : State) (id : BlockId) : Overlay :=
  match s.launch? id.launch with
  | some l => (l.pubs.filter (fun p => p.1 == id.lin)).foldl (fun o p => p.2.foldl (fun o c => Tab.put o c.1 c.2) o) []
  | none => []

/-- COMMITTED bytes as a command reads them: memory, but for the words that its core wrote after it left, which it reads as
they were (R155, R156); or under EXACT the issuing block's view when it left, and its current data on lines PRIVATE to it, among
them what its own commands have written (R161; log 90). -/
def engComRead (s : State) (e : Eng) (key n : Nat) : List Byte :=
  match (if e.cmd.exact_ then e.cmd.blk else none) with
  | none => overRead e.cmd.view s.mem key n
  | some id =>
    let pubs := s.pubsOf id
    let now := match s.issuer? id with
      | some b => b.pover
      | none => e.cmd.view
    (List.range n).map (fun i =>
      let k := key + i
      let own := s.owner (k / 256) == .private_ id.launch id.lin
      if own || e.cmd.mate.isSome then
        (Tab.find? pubs k).getD (overByte (if own then now else e.cmd.view) s.mem k)
      else overByte e.cmd.view s.mem k)

/-- A released store that a command observes though it is not performed yet: one that its core made before it, or, of an operation that
a thread's CNTADD fired, one that the core of the CNTADD made before that (R155, R412). -/
def observes (q : Cmd) (x : Nat) (f : Flight) : Bool :=
  f.ctx == x && ((f.core == q.core && f.num < q.sentAt) || (match q.seen with
    | some (c, n) => f.core == c && f.num < n
    | none => false))

/-- Bytes of a RELEASE or STREAM page: memory with the released stores that the command observes, and the words that its core wrote after
the command left as they were (R155). -/
def engRelRead (s : State) (e : Eng) (key n : Nat) : List Byte :=
  let lo := key / 8 * 8
  let m := (key + n + 7) / 8 * 8 - lo
  let bs := (issueOrder ((s.flights.filter (observes e.cmd e.x)).map (fun f => f.eff))).foldl (forward lo) (s.readMem lo m)
  ((bs.drop (key - lo)).take n).mapIdx (fun i b => (Tab.find? e.cmd.view (key + i)).getD b)

/-- The bytes of a range as they are now, zeros where a piece has no place. -/
def engNow (s : State) (e : Eng) (va : Word) (n : Nat) : List Byte :=
  (engPieces s e va n .read).flatMap (fun p => match p.2.2 with
    | .at k kind _ => if kind = 0 then engComRead s e k p.2.1 else engRelRead s e k p.2.1
    | _ => natLe p.2.1 0)

/-- The bytes of a range as the command has read them, those not read yet as they are now (R156). -/
def engRead (s : State) (e : Eng) (va : Word) (n : Nat) : List Byte :=
  if e.cmd.got.isEmpty then engNow s e va n
  else (engNow s e va n).mapIdx (fun i b => (Tab.find? e.cmd.got (va.toNat + i)).getD b)

/-- The units of a range that a command has not read. -/
def engUnread (e : Eng) (va : Word) (n : Nat) : List (Nat × Nat) :=
  (wordPieces va.toNat n).filter (fun p => (List.range p.2).any (fun i => (Tab.find? e.cmd.got (p.1 + i)).isNone))

/-- The traces of an engine's access on translations (R380). -/
def State.engXlat (s : State) (e : Eng) (t : Xlat) (need : Need) : State :=
  if e.r.eng = 3 then s.markLeaf t need else s.noteXlat e.cmd.core e.x t need

/-- The touches of an engine's access: on behalf of its block, counted at its core, or, by a peer or for a launch that has ended, from
outside the cores (R120, R153, R349). -/
def State.engTouch (s : State) (e : Eng) (key n : Nat) : State :=
  let ls := linesOf key n
  match e.cmd.blk with
  | some id =>
    if ((s.launch? id.launch).map (fun ln => isEnd ln.status)).getD true then s.outTouch ls
    else ls.foldl (fun s l => if s.coreCtx e.cmd.core = e.x then s.touchOn e.cmd.core id.launch id.lin l
      else s.touch id.launch id.lin l) s
  | none => s.outTouch ls

/-- The order-stamp unit keeps an access of a command: it comes after the XC, and its writes before what the completion word releases
(R162, R163). -/
def State.engStamp (s : State) (e : Eng) (key n va : Nat) (write : Bool) : State :=
  match e.cmd.mark with
  | none => s
  | some m =>
    s.keepAccess e.x { uid := if write then e.cmd.uid else e.cmd.uid + 1, gid := e.cmd.uid, chunk := none, cnt := 1, key := key, n := n
                       write := write, sync := false, regAcc := false, va := BitVec.ofNat 64 va, pc := e.cmd.pc
                       launch := m.launch, lin := m.lin, quad := e.cmd.quad, ltid := m.ltid, phase := e.cmd.ph } m.clk

/-- The traces of a command's accesses. -/
def State.engNote (s : State) (e : Eng) (rs : List (Word × Nat × Need)) : State :=
  rs.foldl (fun s r => (engPieces s e r.1 r.2.1 r.2.2).foldl (fun s p => match p.2.2 with
    | .at k kind t =>
      let s := match t with
        | some t => s.engXlat e t r.2.2
        | none => s
      (if kind = 0 then s.engTouch e k p.2.1 else s).engStamp e k p.2.1 p.1 (r.2.2 == .write)
    | _ => s) s) s

/-! ### Writes (R157) -/

/-- Whole lines that are written end their quarantine, and their data are good again (R388). -/
def State.mendLines (s : State) (key n : Nat) : State :=
  let ls := (linesOf key n).filter (fun l => key ≤ 256 * l && 256 * l + 256 ≤ key + n)
  { s with quar := s.quar.filter (fun l => !ls.contains l), badLines := ls.foldl (fun t l => Tab.del t l) s.badLines }

/-- Some writes split by the kind of their pages: the COMMITTED bytes, and the others in order. -/
def engSplit (s : State) (e : Eng) (ws : List (Word × List Byte)) : Overlay × List (Nat × List Byte) :=
  ws.foldl (fun acc w => (engPieces s e w.1 w.2.length .write).foldl (fun (acc : Overlay × List (Nat × List Byte)) p =>
    match p.2.2 with
    | .at k kind _ =>
      let bs := (w.2.drop (p.1 - w.1.toNat)).take p.2.1
      if kind = 0 then (overWrite acc.1 k bs, acc.2) else (acc.1, acc.2 ++ [(k, bs)])
    | _ => acc) acc) ([], [])

/-- An engine's write is newer than what waiting commands keep of its bytes, since each command sees the effects of those
before it (R159, R280). -/
def State.dropKept (s : State) (ks : Nat → Bool) (p : Cmd → Bool) : State :=
  let go := fun (st : Stream) => { st with
    q := st.q.map (fun q => if p q then { q with view := q.view.filter (fun c => !ks c.1) } else q) }
  { s with
    cores := Tab.mapV s.cores (fun _ k => { k with eng := { k.eng with streams := Tab.mapV k.eng.streams (fun _ st => go st) } })
    ctxs := Tab.mapV s.ctxs (fun _ x => { x with streams := Tab.mapV x.streams (fun _ st => go st) }) }

/-- Bytes of RELEASE and STREAM pages land (R157). -/
def State.engLand (s : State) (ws : List (Nat × List Byte)) : State :=
  ws.foldl (fun s w => ((s.writeMem w.1 w.2).mendLines w.1 w.2.length).dropKept
    (fun k => w.1 ≤ k && k < w.1 + w.2.length) (fun _ => true)) s

/-- The runs of consecutive keys of an overlay, as (first, length). -/
def runsOf (o : Overlay) : List (Nat × Nat) :=
  (o.foldl (fun (acc : List (Nat × Nat)) c => match acc with
    | (k, n) :: rest => if c.1 = k + n then (k, n + 1) :: rest else (c.1, 1) :: (k, n) :: rest
    | [] => [(c.1, 1)]) []).reverse

/-- A publish: one commit of some bytes in the device's order, whose signature is broadcast, and of which no EXACT launch sees anything in
its phase (R141, R157). -/
def State.publish (s : State) (x : Nat) (o : Overlay) : State :=
  if o.isEmpty then s
  else
    let s := s.keepOld (fun _ => o.map (fun c => c.1))
    let s := { s with mem := Memory.apply s.mem o }.dropKept (fun k => (Tab.find? o k).isSome) (fun q => !q.exact_)
    let s := (runsOf o).foldl (fun s r => s.mendLines r.1 r.2) s
    (s.breakResv 384 o).broadcast (s.ctx x).part none (addNew [] (o.map (fun c => c.1 / 256)))

/-- A command's COMMITTED writes are published, or under EXACT kept for the merge that ends the phase (R157, R161). -/
def State.engPublish (s : State) (e : Eng) (o : Overlay) : State :=
  if o.isEmpty then s
  else match (if e.cmd.exact_ then e.cmd.blk else none) with
    | some id => s.updLaunch id.launch (fun l => { l with pubs := l.pubs ++ [(id.lin, o)] })
    | none => s.publish e.x o

/-- A single-copy atomic unit of a command's output: its place in the output, its address and its bytes (R123). -/
structure OutPiece where
  pos   : Nat
  va    : Nat
  bytes : List Byte
deriving DecidableEq, Repr

/-- Some writes cut into their single-copy atomic units, numbered through in order. -/
def outPieces (ws : List (Word × List Byte)) : List OutPiece :=
  (ws.foldl (fun (acc : Nat × List OutPiece) w => (acc.1 + w.2.length, acc.2 ++ (wordPieces w.1.toNat w.2.length).map (fun p =>
    ⟨acc.1 + (p.1 - w.1.toNat), p.1, (w.2.drop (p.1 - w.1.toNat)).take p.2⟩))) (0, [])).2

/-- A piece still has to be written: it has not landed, and no later one over its bytes has (R118, R300). -/
def pieceLeft (landed : List (Nat × Nat × Nat)) (p : OutPiece) : Bool :=
  landed.all (fun l => l.1 < p.pos || (l.1 != p.pos && (l.2.1 + l.2.2 ≤ p.va || p.va + p.bytes.length ≤ l.2.1)))

/-- The writes of a command that have not landed. -/
def writesLeft (landed : List (Nat × Nat × Nat)) (ws : List (Word × List Byte)) : List (Word × List Byte) :=
  if landed.isEmpty then ws
  else ((outPieces ws).filter (pieceLeft landed)).map (fun p => (BitVec.ofNat 64 p.va, p.bytes))

/-! ### Waiting on translation (R385) -/

/-- A command posts its translation requests, as far as the fault buffer takes them, and waits for their answers (R383, R385). -/
def State.engWait (s : State) (e : Eng) (rs : List (Word × Nat × Nat)) (setWait : List Nat → State → State) : State :=
  let r := s.postAll e.x (rs.map (fun q => (0, q.1, q.2.1, q.2.2)))
  setWait ((r.2.1.map (fun p => p.2.1)).dedup) r.1

end Sys2Proof.Machine
end

