-- ==== Sys2Proof/Machine/EngineFx.lean ====
section
/-! DEFINITION. What the commands of the matrix, copy and stream engines compute (R78, R87, R90-R95, R98, R286-R304). -/

namespace Sys2Proof.Machine

/-! ### The exact sum of a K-block (R98) -/

/-- The sum of a value and some products, rounded once. An exact zero is -0 only when every term is -0. -/
def FF.dot (f : FF) (c : Fv) (ts : List (Fv × Fv)) : Res :=
  let neg := fun (t : Fv × Fv) => t.1.neg != t.2.neg
  let isInf := fun (v : Fv) => match v with
    | .inf _ => true
    | _ => false
  let bad := ts.any (fun t => (isInf t.1 && t.2.isZero) || (t.1.isZero && isInf t.2))
  let nan := c.isNan || ts.any (fun t => t.1.isNan || t.2.isNan)
  let sig := c.isSig || ts.any (fun t => t.1.isSig || t.2.isSig)
  let infs := (if isInf c then [c.neg] else []) ++ (ts.filter (fun t => isInf t.1 || isInf t.2)).map neg
  if bad then f.invalid
  else if nan then f.nanOf sig
  else match infs with
    | n :: rest => if rest.all (fun m => m == n) then f.infRes n else f.invalid
    | [] =>
      let fins := (match c with
        | .fin n m e => [(n, m, e)]
        | _ => []) ++ ts.filterMap (fun t => match t.1, t.2 with
          | .fin n1 m1 e1, .fin n2 m2 e2 => some (n1 != n2, m1 * m2, e1 + e2)
          | _, _ => none)
      let q := fins.foldl (fun (q : Int) t => min q t.2.2) 0
      let sum := fins.foldl (fun (a : Int) t => a + scaled t.1 t.2.1 t.2.2 q) 0
      if sum = 0 then (f.signBit (fins.all (fun t => t.1)), fNone)
      else f.round .rne false (sum < 0) sum.natAbs q false

/-! ### The matrix engine -/

/-- The float format of an operand code (R287). -/
def mfmtFF (code : Nat) : FF :=
  match code with
  | 0 => .f64 | 1 => .f32 | 2 => .f16 | 3 => .bf16 | 4 => .e5m2 | 5 => .e4m3 | 6 => .e3m2 | 7 => .e2m3 | 8 => .e2m1
  | _ => .bf16

/-- The code of element `j` of a stored row (R95, R289). -/
def rowCode (row : List Byte) (fmt j : Nat) : Nat :=
  if 8 ≤ fmt then ((row.getD (j / 2) 0).toNat / 16 ^ (j % 2)) % 16
  else leNat ((row.drop (j * (mfmtNibbles fmt / 2))).take (mfmtNibbles fmt / 2)) % 2 ^ (mfmtFF fmt).bits

/-- The value of a code: a cb4 code through the codebook (R94). -/
def codeValue (cb : Tab Byte) (slot fmt code : Nat) : Fv :=
  if fmt = 9 then FF.bf16.read (codebook cb slot code) else (mfmtFF fmt).read code

/-- A decoded element with its block scale (R90, R291, R292). -/
def operandValue (eng : Engines) (slot fmt : Nat) (scl : Bool) (at_ : Nat) (code : Nat) : Fv :=
  let v := codeValue eng.cbook slot fmt code
  if scl then scaleBy (Tab.get 0 eng.scale at_).toNat v else v

/-- The accumulator format of a format word (R287). -/
def accFF (fmtw : Word) : FF := if fmtw.getLsbD 8 then .f64 else .f32

/-- The store byte of an element of a region (R286). -/
def accAt (shape : Word) (eb m n : Nat) : Nat := 4096 * shT shape + (m * shN shape + n) * eb

/-- One element of MMA: its new encoding with the flags of its roundings (R98, R292). -/
def mmaElement (f : FF) (kb nk : Nat) (c : Nat) (a b : Nat → Fv) : Res :=
  (List.range nk).foldl (fun (acc : Res) i =>
    let r := f.dot (f.read acc.1) ((List.range kb).map (fun j => (a (i * kb + j), b (i * kb + j))))
    (r.1, acc.2 ||| r.2)) (c, fNone)

/-- MMA: the accumulator store and the flags raised; the codebook and the scale store count as they were when it began (R292). -/
def mmaFx (s : State) (e : Eng) (eng : Engines) : Tab Byte × FFlags :=
  let p := param e.cmd.ps
  let f := p 2
  let m := shM (p 3)
  let n := shN (p 3)
  let k := shK (p 3)
  let fa := field f 0 4
  let fb := field f 4 4
  let rows := fun (desc : Word) (cnt len fmt : Nat) => (tileRanges e.cmd.core desc cnt len fmt).map (fun r => engRead s e r.1 r.2.1)
  let ra := if f.getLsbD 25 then rows (p 0) k m fa else rows (p 0) m k fa
  let rb := if f.getLsbD 26 then rows (p 1) n k fb else rows (p 1) k n fb
  let from_ := e.cmd.stores.elim eng (fun st => { eng with cbook := st.1, scale := st.2 })
  let va := fun (i j : Nat) =>
    operandValue from_ (field f 11 3) fa (f.getLsbD 9) (field (p 4) 0 12 + i * (k / 32) + j / 32)
      (if f.getLsbD 25 then rowCode (ra.getD j []) fa i else rowCode (ra.getD i []) fa j)
  let vb := fun (j c : Nat) =>
    operandValue from_ (field f 14 3) fb (f.getLsbD 10) (4096 + field (p 4) 16 12 + j / 32 * n + c)
      (if f.getLsbD 26 then rowCode (rb.getD c []) fb j else rowCode (rb.getD j []) fb c)
  let eb := accBytes f
  let ff := accFF f
  let kb := kBlock (fmtClass fa)
  (List.range (m * n)).foldl (fun (acc : Tab Byte × FFlags) q =>
    let i := q / n
    let c := q % n
    let at_ := accAt (p 3) eb i c
    let old := if (p 3).getLsbD 48 then 0 else leNat (Memory.read eng.acc at_ eb)
    let r := mmaElement ff kb (k / kb) old (va i) (fun j => vb j c)
    (Memory.write acc.1 at_ (natLe eb r.1), acc.2 ||| r.2)) (eng.acc, fNone)

/-- The memory format of ACCLD and ACCST (R287). -/
def ofmtFF (fmtw : Word) : FF :=
  match field fmtw 17 4 with
  | 0 => .f64 | 1 => .f32 | 2 => .f16 | _ => .bf16

/-- The rounding mode of ACCLD and ACCST (R287). -/
def ormOf (fmtw : Word) : RM := RM.ofCode (BitVec.ofNat 3 (field fmtw 21 3))

/-- The elements of a region in order, by row and column. -/
def regionElems (shape : Word) : List (Nat × Nat) :=
  (List.range (shM shape * shN shape)).map (fun q => (q / max 1 (shN shape), q % max 1 (shN shape)))

/-- ACCLD (R296). -/
def accldFx (s : State) (e : Eng) (eng : Engines) (fmtw : Word) : Tab Byte × FFlags :=
  let p := param e.cmd.ps
  let ob := ofmtBytes (field fmtw 17 4)
  let eb := accBytes fmtw
  (regionElems (p 0)).foldl (fun (acc : Tab Byte × FFlags) q =>
    let v := leNat (engRead s e (p 1 + BitVec.ofNat 64 q.1 * p 2 + BitVec.ofNat 64 (q.2 * ob)) ob)
    let r := (accFF fmtw).convert (ormOf fmtw) false ((ofmtFF fmtw).read v)
    (Memory.write acc.1 (accAt (p 0) eb q.1 q.2) (natLe eb r.1), acc.2 ||| r.2)) (eng.acc, fNone)

/-- One element of ACCST: an overflow saturates under `sat` (R296). -/
def accstElement (fmtw : Word) (x : Nat) : Res :=
  let f := ofmtFF fmtw
  let v := (accFF fmtw).read x
  let r := f.convert (ormOf fmtw) false v
  if fmtw.getLsbD 24 && r.2 &&& fOf != 0 then (f.signBit v.neg + f.maxFin, fOf ||| fNx) else r

/-- ACCST (R296). -/
def accstFx (e : Eng) (eng : Engines) (fmtw : Word) : List (Word × List Byte) × FFlags :=
  let p := param e.cmd.ps
  let ob := ofmtBytes (field fmtw 17 4)
  let eb := accBytes fmtw
  (List.range (shM (p 0))).foldl (fun (acc : List (Word × List Byte) × FFlags) i =>
    let rs := (List.range (shN (p 0))).map (fun j => accstElement fmtw (leNat (Memory.read eng.acc (accAt (p 0) eb i j) eb)))
    (acc.1 ++ [(p 1 + BitVec.ofNat 64 i * p 2, rs.flatMap (fun r => natLe ob r.1))],
      rs.foldl (fun fl r => fl ||| r.2) acc.2)) ([], fNone)

/-! ### The stream engine (R303, R304) -/

/-- The float format of CHAIN's type. -/
def chainFF (ty : Nat) : FF :=
  match ty with
  | 0 => .f64 | 1 => .f32 | 2 => .f16 | _ => .bf16

/-- One operation of CHAIN (R304). -/
def chainOp (ty op acc x : Nat) : Nat :=
  let n := 8 * chainBytes ty
  if ty < 4 then
    let f := chainFF ty
    let a := f.read acc
    let b := f.read x
    match op with
    | 1 => (f.add .rne false a b).1
    | 2 => (f.add .rne false a b.negate).1
    | 3 => (f.add .rne false b a.negate).1
    | 4 => (f.mul .rne false a b).1
    | 5 => (f.minmax false false false acc x).1
    | 6 => (f.minmax true false false acc x).1
    | 7 => (f.sign false acc false).1
    | 8 => (f.sign false acc (!a.neg)).1
    | 9 => (f.minmax true false false acc 0).1
    | _ => acc
  else
    let a := readInt n true acc
    let b := readInt n true x
    match op with
    | 1 => wrap n (a + b)
    | 2 => wrap n (a - b)
    | 3 => wrap n (b - a)
    | 4 => wrap n (a * b)
    | 5 => wrap n (min a b)
    | 6 => wrap n (max a b)
    | 7 => wrap n |a|
    | 8 => wrap n (-a)
    | 9 => wrap n (max a 0)
    | 10 => acc &&& x
    | 11 => acc ||| x
    | 12 => acc ^^^ x
    | _ => acc

/-- The operations of CHAIN on one element, until a byte with code 0 (R303). -/
def chainRun (ty : Nat) (ops : List Nat) (x y k acc : Nat) : Nat :=
  match ops with
  | [] => acc
  | o :: rest =>
    if o % 16 = 0 then acc
    else
      let src := match o / 16 % 4 with
        | 0 => y
        | 1 => k
        | 2 => x
        | _ => acc
      chainRun ty rest x y k (chainOp ty (o % 16) acc src)

/-- CHAIN's destination bytes (R303). -/
def chainFx (s : State) (e : Eng) : List Byte :=
  let p := param e.cmd.ps
  let ty := field (p 3) 40 3
  let w := chainBytes ty
  let cnt := field (p 3) 0 40
  let xs := engRead s e (p 1) (cnt * w)
  let ys := if chainUsesY (p 4) 8 then engRead s e (p 2) (cnt * w) else []
  (List.range cnt).flatMap (fun i =>
    let x := leNat ((xs.drop (i * w)).take w)
    let y := leNat ((ys.drop (i * w)).take w)
    natLe w (chainRun ty (chainOps (p 4)) x y ((p 5).toNat % 2 ^ (8 * w)) x))

/-! ### The copy engine (R299, R300) -/

/-- Index `i` of GATHER and SCATTER. -/
def copyIndex (s : State) (e : Eng) (i : Nat) : Nat := leNat (engRead s e (param e.cmd.ps 2 + BitVec.ofNat 64 (4 * i)) 4)

/-- The address of the element that index `i` names. -/
def indexedVa (s : State) (e : Eng) (i : Nat) : Word :=
  let p := param e.cmd.ps
  (if e.cmd.fn = 0x22 then p 1 else p 0) + BitVec.ofNat 64 (copyIndex s e i * 2 ^ field (p 4) 0 4)

/-- The ranges that the index array adds (R300). -/
def indexedRanges (s : State) (e : Eng) : List (Word × Nat × Need) :=
  let p := param e.cmd.ps
  if e.cmd.fn = 0x22 || e.cmd.fn = 0x23 then
    (List.range (field (p 3) 0 32)).map (fun i => (indexedVa s e i, 2 ^ field (p 4) 0 4,
      if e.cmd.fn = 0x22 then Need.read else Need.write))
  else []

/-- The memory writes of a command, in order (R296, R298, R300, R303). -/
def cmdWrites (s : State) (e : Eng) (eng : Engines) (st : Stream) : List (Word × List Byte) :=
  let p := param e.cmd.ps
  match e.cmd.fn with
  | 0x04 => (accstFx e eng st.fmtw).1
  | 0x07 => if p 1 = 0 then [] else [(p 1, natLe 8 st.flags.toNat)]
  | 0x20 => [(p 0, engRead s e (p 1) (field (p 2) 0 40))]
  | 0x22 =>
    let n := 2 ^ field (p 4) 0 4
    [(p 0, (List.range (field (p 3) 0 32)).flatMap (fun i => engRead s e (indexedVa s e i) n))]
  | 0x23 =>
    let n := 2 ^ field (p 4) 0 4
    (List.range (field (p 3) 0 32)).map (fun i => (indexedVa s e i, engRead s e (p 1 + BitVec.ofNat 64 (i * n)) n))
  | 0x24 =>
    let cnt := field (p 2) 0 32
    let src := engRead s e (p 1) (cnt / 4 * 3)
    [(p 0, (List.range cnt).map (fun j =>
      BitVec.ofNat 8 (leNat ((src.drop (3 * (j / 4))).take 3) / 2 ^ (6 * (j % 4)) % 64)))]
  | 0x25 => [(p 0, (List.range (field (p 1) 0 40)).map (fun j => (p 2).extractLsb' (8 * (j % 8)) 8))]
  | 0x40 => [(p 0, chainFx s e)]
  | _ => []

/-- What a matrix command does to the engine's stores and to its stream (R292, R295-R298). CBLOAD and SCLOAD change all their entries at
their completion, and every reader sees them as new from then on: R237 and R297 leave each entry old or new in between (log 97, DESIGN CHOICE). -/
def cmdLocal (s : State) (e : Eng) (eng : Engines) (st : Stream) : Engines × Stream :=
  let p := param e.cmd.ps
  match e.cmd.fn with
  | 0x00 =>
    let r := mmaFx s e eng
    ({ eng with acc := r.1 }, { st with flags := st.flags ||| r.2 })
  | 0x01 => (eng, { st with fmtw := p 0 })
  | 0x02 =>
    let eb := accBytes st.fmtw
    ({ eng with acc := Memory.write eng.acc (4096 * shT (p 0)) (natLe (shM (p 0) * shN (p 0) * eb) 0) }, st)
  | 0x03 =>
    let r := accldFx s e eng st.fmtw
    ({ eng with acc := r.1 }, { st with flags := st.flags ||| r.2 })
  | 0x04 => (eng, { st with flags := st.flags ||| (accstFx e eng st.fmtw).2 })
  | 0x05 =>
    let bs := engRead s e (p 0) (32 * (field (p 1) 4 3 + 1))
    ({ eng with cbook := Memory.write eng.cbook (32 * field (p 1) 0 3) bs }, st)
  | 0x06 =>
    let bs := engRead s e (p 0) (field (p 1) 32 13)
    ({ eng with scale := Memory.write eng.scale (4096 * field (p 1) 0 1 + field (p 1) 16 12) bs }, st)
  | 0x07 => (eng, if p 1 = 0 then st else { st with flags := 0 })
  | _ => (eng, st)

end Sys2Proof.Machine
end

