-- ==== Sys2Proof/Machine/Link.lean ====
section
/-! DEFINITION. Flits, ports, replay and routing (R393-R405, R421). The spec gives the payload of no flit: the layouts of
headers, data tags, NAKs, notices and training masks here are the model's own (log 10). -/

namespace Sys2Proof.Machine

/-! ### Flits (R395) -/

/-- One byte into the IEEE 802.3 CRC-32. -/
def crcByte (c : BitVec 32) (b : Byte) : BitVec 32 :=
  (List.range 8).foldl (fun (c : BitVec 32) _ => if c.getLsbD 0 then (c >>> 1) ^^^ 0xEDB88320 else c >>> 1)
    (c ^^^ b.setWidth 32)

/-- The IEEE 802.3 CRC-32 of some bytes. -/
def crc32 (bs : List Byte) : BitVec 32 := ~~~(bs.foldl crcByte 0xFFFFFFFF)

/-- Exactly `n` bytes: cut, or filled with zeros. -/
def padTo (n : Nat) (bs : List Byte) : List Byte := (bs ++ natLe (n - bs.length) 0).take n

/-- The 80 bytes of a packet with its link number and acknowledgement. -/
def flitOf (p : Packet) (seq ack : BitVec 16) : Flit :=
  let body := padTo 64 p.payload ++ natLe 2 seq.toNat ++ natLe 2 ack.toNat ++ natLe 1 p.ty
    ++ natLe 1 (if p.last then 1 else 0) ++ natLe 6 (p.dst + 2 ^ 12 * p.src + 2 ^ 24 * p.handle + 2 ^ 40 * p.stream)
  body ++ natLe 4 (crc32 body).toNat

/-- The number in some bytes of a flit. -/
def flitNat (f : Flit) (off n : Nat) : Nat := leNat ((f.drop off).take n)

def flitSeq (f : Flit) : BitVec 16 := BitVec.ofNat 16 (flitNat f 0x40 2)
def flitAck (f : Flit) : BitVec 16 := BitVec.ofNat 16 (flitNat f 0x42 2)

/-- The packet that a flit carries; `num` and `idx` of a header are in its payload (log 10). -/
def packetOf (f : Flit) : Packet :=
  let r := flitNat f 0x46 6
  { ty := flitNat f 0x44 1, last := flitNat f 0x45 1 % 2 == 1, dst := r % 2 ^ 12, src := r / 2 ^ 12 % 2 ^ 12
    handle := r / 2 ^ 24 % 2 ^ 16, stream := r / 2 ^ 40 % 2 ^ 4, num := flitNat f 4 4, idx := flitNat f 0x3C 4
    payload := f.take 64 }

/-- The flow that a packet belongs to. -/
def Packet.flowKey (q : Packet) : Nat := ((q.handle * 4096 + q.dst) * 4096 + q.src) * 16 + q.stream

/-- The function byte of a header that says where the data flits after it stand (log 10). -/
def fnResume : Nat := 0x76

/-- The header that says that data flits of a command from place `idx` on follow (log 10). -/
def Packet.resume (q : Packet) : Packet :=
  { q with ty := 2, last := false, payload := natLe 4 fnResume ++ natLe 4 q.num ++ natLe 52 0 ++ natLe 4 q.idx }

def Packet.isResume (q : Packet) : Bool := q.ty == 2 && leNat (q.payload.take 1) == fnResume

/-- The flits that carry a packet on a link: a data flit out of its flow's sequence follows a resuming header. -/
def Port.framed (p : Port) (q : Packet) : Port :=
  let k := q.flowKey
  if q.ty = 1 then
    let pre := if Tab.find? p.flow k == some (q.num, q.idx) then [] else [q.resume]
    { p with pend := p.pend ++ pre ++ [q], flow := Tab.put p.flow k (q.num, q.idx + 1) }
  else { p with pend := p.pend ++ [q], flow := Tab.put p.flow k (q.num, q.idx) }

/-- The receiver's place of a packet in its flow. -/
def Port.tracked (p : Port) (q : Packet) : Port × Packet :=
  let k := q.flowKey
  if q.ty = 1 then
    let at_ := (Tab.find? p.trk k).getD (0, 0)
    ({ p with trk := Tab.put p.trk k (at_.1, at_.2 + 1) }, { q with num := at_.1, idx := at_.2 })
  else ({ p with trk := Tab.put p.trk k (q.num, q.idx) }, q)

/-- The flit is whole: 80 bytes with a correct CRC (R395). -/
def flitWhole (f : Flit) : Bool := f.length == 80 && (crc32 (f.take 76)).toNat == flitNat f 0x4C 4

/-! ### Groups (R404, R421) -/

def GroupEntry.valid (g : GroupEntry) : Bool := g.w0.getLsbD 63
def GroupEntry.handle (g : GroupEntry) : Nat := (g.w0.extractLsb' 0 16).toNat
def GroupEntry.size (g : GroupEntry) : Nat := (g.w0.extractLsb' 16 13).toNat
def GroupEntry.rank (g : GroupEntry) : Nat := (g.w0.extractLsb' 32 12).toNat
def GroupEntry.ctx (g : GroupEntry) : Nat := (g.w0.extractLsb' 44 6).toNat
def GroupEntry.part (g : GroupEntry) : Nat := (g.w0.extractLsb' 52 3).toNat

/-- The group of a handle. -/
def State.group? (s : State) (handle : Nat) : Option GroupEntry :=
  (List.find? (fun (e : Nat × GroupEntry) => e.2.valid && e.2.handle == handle) s.groups).map (fun e => e.2)

/-! ### Ports -/

/-- One bits of a mask. -/
def popMask (m : BitVec 16) : Nat := ((List.range 16).filter (fun i => m.getLsbD i)).length

/-- The wavelengths on which a port trains: those named for it, or the survivors, as far as they have light (R394, R400, R401). -/
def Port.survivors (p : Port) : BitVec 16 := (if p.tmask = 0 then ~~~p.txLost else p.tmask) &&& p.lit

/-- A flit may leave by the port (R405). -/
def Port.qualifies (p : Port) : Bool := p.en && (p.state == 2 || (p.state == 1 && 4 ≤ popMask p.survivors))

/-- A flit is put on the fibre: its 20 beats follow those of the flits before it (R396). -/
def Port.put (p : Port) (f : Flit) : Port := { p with wire := p.wire ++ [⟨f, p.beat, p.act, p.lit⟩], beat := p.beat + 20 }

/-- The wavelengths of a mask, ascending. -/
def wavesOf (m : BitVec 16) : List Nat := (List.range 16).filter (fun i => m.getLsbD i)

/-- The wavelength of beat `k`: the (k mod n)-th active one (R396). -/
def beatWave (act : BitVec 16) (k : Nat) : Nat := (wavesOf act).getD (k % max 1 (wavesOf act).length) 0

/-- The 20 beats of a flit on a fibre: wavelength, and the 4 bytes, where the wavelength has light (R394, R396). -/
def Sent.beats (x : Sent) : List (Nat × Option (List Byte)) :=
  (List.range 20).map (fun j =>
    let w := beatWave x.act (x.beat + j)
    (w, if x.lit.getLsbD w then some ((x.flit.drop (4 * j)).take 4) else none))

/-- The number of the next sequenced flit follows. -/
def Port.sendOne (p : Port) (q : Packet) : Port :=
  { p.put (flitOf q p.seq p.expect) with
    replay := p.replay ++ [(p.seq, q)], seq := p.seq + 1, sent := p.sent + 1 }

/-- Sends waiting flits while the port is up and its replay buffer has room (R397). -/
def Port.pump (p : Port) : Port :=
  if p.state = 2 then
    let n := 512 - p.replay.length
    { (p.pend.take n).foldl Port.sendOne p with pend := p.pend.drop n }
  else p

/-- Sends a flit without a number of its own, which the counter of flits sent does not count: idle 0, NAK 3, notice 4,
training 5 (R395, R415). -/
def Port.control (p : Port) (ty : Nat) (payload : List Byte) : Port :=
  p.put (flitOf ⟨ty, false, 0, 0, 0, 0, 0, 0, payload⟩ p.seq p.expect)

/-- An acknowledgement of `a` releases the flits numbered below it, within the window (R397). -/
def Port.ack (p : Port) (a : BitVec 16) : Port :=
  { p with replay := p.replay.filter (fun e => !(1 ≤ (a - e.1).toNat && (a - e.1).toNat ≤ 512)) }

/-- The unacknowledged flits from number `n` on. -/
def Port.from (p : Port) (n : BitVec 16) : List (BitVec 16 × Packet) := p.replay.filter (fun e => (e.1 - n).toNat < 512)

/-- Re-sends every unacknowledged flit from `n` on, before any new flit (R398). -/
def Port.replayFrom (p : Port) (n : BitVec 16) : Port :=
  { (p.from n).foldl (fun r e => r.put (flitOf e.2 e.1 p.expect)) p with
    replayed := p.replayed + BitVec.ofNat 64 (p.from n).length
    sent := p.sent + BitVec.ofNat 64 (p.from n).length }

/-- A wavelength has been flagged lost since the last training: the receiver takes nothing but training (R399, R416). -/
def Port.dark (p : Port) : Bool := p.blind

/-- The receiver discards a flit, and one NAK for the number it expects falls due (R398, R414). -/
def Port.discard (p : Port) (nak : Bool) : Port :=
  let p := { p with discarded := p.discarded + 1 }
  if nak && !p.nakDue && p.naked != some p.expect then { p with naked := some p.expect, nakDue := true } else p

/-- The NAK that is due is sent, with the number expected now (R398, R414). -/
def Port.sendNak (p : Port) : Port :=
  if p.nakDue then { p.control 3 (natLe 2 p.expect.toNat) with nakDue := false, naked := some p.expect } else p

/-- How a receiver takes a flit. -/
inductive Rx where
  | ignored
  | discard (nak : Bool)
  | take
deriving DecidableEq, Repr

/-- The acceptance of a flit of type `ty` (R398, R399): a port that is down receives nothing, and after a loss of light only
training is taken. -/
def Port.rx (p : Port) (ty : Nat) (f : Flit) : Rx :=
  if !p.en || p.state = 0 then .ignored
  else if !flitWhole f || flitNat f 0x44 1 ≠ ty || 6 < ty then .discard (!p.dark)
  else if p.dark && ty ≠ 5 then .discard false
  else if (ty = 1 || ty = 2 || ty = 6) && flitSeq f ≠ p.expect then .discard true
  else .take

/-- The partition of a port. -/
def Port.partOf (p : Port) : Nat := p.part.toNat % 8

/-! ### Routing (R405) -/

/-- The listed ports of the group's partition towards a rank. -/
def GroupEntry.route (g : GroupEntry) (dst : Nat) : List Nat := g.routes.getD dst []

/-- Flits of a group may pass by a port: the group's partition, and that of the context that owns the group, are the port's (R393). -/
def State.mayPass (s : State) (g : GroupEntry) (port : Nat) : Bool :=
  (s.port port).partOf == g.part && (s.ctx g.ctx).part == g.part

/-- The port by which a packet leaves: the first of its list that qualifies (R405). -/
def State.outPort (s : State) (g : GroupEntry) (dst : Nat) : Option Nat :=
  (g.route dst).find? (fun p => (s.port p).qualifies && s.mayPass g p)

/-- A packet is given to a port. -/
def State.toPort (s : State) (port : Nat) (q : Packet) : State :=
  s.updPort port (fun p => (p.framed q).pump)

/-- A record of a port's change (R402). -/
def State.portRecord (s : State) (ty port : Nat) (sender : Bool) (lost act : BitVec 16) (count : Nat) (first : BitVec 16) :
    State :=
  let bank := ((List.range 4).find? (fun b => (lost.extractLsb' (4 * b) 4) != 0)).getD 0
  s.postDev ty (if sender then 1 else 0)
    [(0x10, natLe 1 port), (0x11, natLe 1 (if sender then 4 * (port / 16) + bank else 0xFF)),
     (0x18, natLe 2 lost.toNat), (0x1A, natLe 2 act.toNat), (0x20, natLe 4 count), (0x24, natLe 2 first.toNat)]

/-- One record for each change of the wavelengths of a direction (R402, log 49). -/
def State.lossRecords (s : State) (port : Nat) (sender : Bool) (ls : List (BitVec 16)) (act : BitVec 16) (count : Nat)
    (first : BitVec 16) : State :=
  ls.foldl (fun s l => s.portRecord 0x70 port sender l act count first) s

/-- Some context of a partition has host-directed restriping (R374, R401). -/
def State.hostRestripes (s : State) (part : Nat) : Bool :=
  (Tab.vals s.ctxs).any (fun (x : Ctx) => x.created && x.part == part && x.mode.getLsbD 4)

/-- A group's flits may pass by a port: it is on one of the group's route lists (R409). -/
def State.routedBy (s : State) (handle port : Nat) : Bool :=
  match s.group? handle with
  | some g => s.mayPass g port && g.routes.any (fun r => r.contains port)
  | none => false

/-- A port fails: it carries no beats, and its unacknowledged and waiting flits go to routing (R400, R403, R406). -/
def State.failPort (s : State) (port : Nat) : State :=
  let p := s.port port
  let s := s.updPort port (fun p => { p with 
    state := 4, act := 0, replay := [], pend := [], seq := p.notice.getD p.seq, notice := none, nakFrom := none, flow := [], lossTx := [] })
  let back := (p.replay.map (fun (e : BitVec 16 × Packet) => e.2) ++ p.pend).filter (fun q => !q.isResume)
  ({ s with switch := back ++ s.switch, colls := s.colls.map (fun (c : CollSt) =>
      if s.routedBy c.handle port then { c with broken := true } else c) }).portRecord 0x71
    port true (p.lossTx.getLastD p.txLost) 0 0 0

/-- The sender's answer to the loss of some transmit wavelengths, from flit `n` on (R400, R401). -/
def State.restripe (s : State) (port : Nat) (lost : BitVec 16) (n : BitVec 16) : State :=
  let s := s.updPort port (fun p => { p with
    txLost := p.txLost ||| lost, tmask := 0, notice := some n
    lossTx := if lost &&& ~~~p.txLost = 0 then p.lossTx else p.lossTx ++ [lost &&& ~~~p.txLost] })
  let p := s.port port
  if s.hostRestripes p.partOf then s.updPort port (fun p => { p with state := 3 })
  else if popMask (~~~p.txLost) < 4 then s.failPort port
  else s.updPort port (fun p => { p with state := 1 })

end Sys2Proof.Machine
end

