-- ==== Sys2Proof/Machine/Collective.lean ====
section
/-! DEFINITION. The results of collectives: parameter blocks, plans, add nodes and step-list slots (R100, R308, R309,
R407-R411). -/

namespace Sys2Proof.Machine

/-! ### The parameter block (R308) -/

/-- The number at an offset of some bytes. -/
def numAt (bs : List Byte) (off n : Nat) : Nat := leNat ((bs.drop off).take n)

/-- Bytes of an element of a collective's type. -/
def collBytes (ty : Nat) : Nat :=
  match ty with
  | 0 => 4 | 1 => 8 | 2 => 4 | 3 => 8 | 4 => 8 | 5 => 4 | _ => 2

/-- The op reduces: ALLREDUCE, REDUCE and REDSCAT. -/
def collReduces (op : Nat) : Bool := op = 0 || op = 1 || op = 4

/-- ENGINE 0x0A of a parameter block: an unassigned code, a float with a bitwise operator, or a non-zero zero-field. -/
def collBad (pb : List Byte) : Bool :=
  let op := numAt pb 0 1
  let red := numAt pb 1 1
  let ty := numAt pb 2 1
  5 < op || 6 < red || (!collReduces op && red ≠ 0) || 7 < ty || 3 < numAt pb 3 1 || 1 < numAt pb 4 1 || numAt pb 5 3 ≠ 0
    || numAt pb 0x0C 4 ≠ 0 || (4 ≤ red && 4 ≤ ty) || numAt pb 0x28 8 % 256 ≠ 0 || numAt pb 0x30 8 % 8 ≠ 0
    || numAt pb 0x40 8 / 1024 % 64 ≠ 0 || numAt pb 0x48 56 ≠ 0

/-- The matched commands agree (R310). -/
def collAgree (pb pb' : List Byte) : Bool :=
  pb.take 4 == pb'.take 4 && numAt pb 0x0A 2 == numAt pb' 0x0A 2 && numAt pb 0x20 16 == numAt pb' 0x20 16

/-- Bytes of a rank's send buffer (R309). -/
def collSendBytes (pb : List Byte) (g rank : Nat) : Nat :=
  let n := numAt pb 0x20 8 * collBytes (numAt pb 2 1)
  match numAt pb 0 1 with
  | 2 => if rank = numAt pb 0x0A 2 then n else 0
  | 4 => g * n
  | 5 => g * n
  | _ => n

/-- The address of the send buffer: the receive buffer when the collective is in place. -/
def collSendVa (pb : List Byte) : Word :=
  BitVec.ofNat 64 (if numAt pb 4 1 % 2 = 1 then numAt pb 0x18 8 else numAt pb 0x10 8)

/-- Bytes of a rank's receive buffer (R309). -/
def collRecvBytes (pb : List Byte) (g rank : Nat) : Nat :=
  let n := numAt pb 0x20 8 * collBytes (numAt pb 2 1)
  match numAt pb 0 1 with
  | 1 => if rank = numAt pb 0x0A 2 then n else 0
  | 3 => g * n
  | 5 => g * n
  | _ => n

/-! ### Add nodes (R100, R408) -/

/-- One ⊕ of a collective. -/
def collOp (red ty a b : Nat) : Nat :=
  let w := 8 * collBytes ty
  if 4 ≤ ty then
    let f : FF := match ty with
      | 4 => .f64 | 5 => .f32 | 6 => .f16 | _ => .bf16
    match red with
    | 0 => (f.add .rne false (f.read a) (f.read b)).1
    | 1 => (f.mul .rne false (f.read a) (f.read b)).1
    | 2 => (f.minmax false false false a b).1
    | _ => (f.minmax true false false a b).1
  else
    let sg := ty < 2
    let x := readInt w sg a
    let y := readInt w sg b
    match red with
    | 0 => wrap w (x + y)
    | 1 => wrap w (x * y)
    | 2 => wrap w (min x y)
    | 3 => wrap w (max x y)
    | 4 => a &&& b
    | 5 => a ||| b
    | _ => a ^^^ b

/-- The inputs of an add node, with their lowest group ranks, left-nested in ascending order of these. -/
def addNode (red ty : Nat) (ins : List (Nat × Nat)) : Nat × Nat :=
  match ins.insertionSort (fun a b => a.1 ≤ b.1) with
  | [] => (0, 0)
  | p :: ps => ps.foldl (fun a b => (a.1, collOp red ty a.2 b.2)) p

/-! ### Plans (R407) -/

/-- The algorithm of a plan: auto resolved (R407). -/
def collAlg (pb : List Byte) : Nat :=
  let op := numAt pb 0 1
  match numAt pb 3 1 with
  | 0 => if numAt pb 0x20 8 * collBytes (numAt pb 2 1) ≤ 65536 then 3
    else if op = 0 || op = 4 || op = 3 then 2 else 1
  | a => a

/-- The parent of a rank in the tree of first-listed routes towards the root, which the other devices' tables fix (log 41);
ranks that would not reach the root hang beneath it. -/
def treeParent (handle g root r : Nat) : Nat :=
  let up := fun (q : Nat) => if q = root then root else Config.routeParent handle root q % max 1 g
  if (List.range g).foldl (fun q _ => up q) r = root then up r else root

/-- What a rank needs to know of a collective: its parameter block, group handle, group size and own rank. -/
structure CollCtx where
  pb     : List Byte
  handle : Nat
  g      : Nat
  rank   : Nat
deriving DecidableEq, Repr

def CollCtx.op (c : CollCtx) : Nat := numAt c.pb 0 1
def CollCtx.root (c : CollCtx) : Nat := numAt c.pb 0x0A 2
def CollCtx.count (c : CollCtx) : Nat := numAt c.pb 0x20 8
def CollCtx.width (c : CollCtx) : Nat := collBytes (numAt c.pb 2 1)

/-- The algorithm and the chunk of a part: those of the first plan, or a ring (R407, R409). -/
def CollCtx.algOf (c : CollCtx) (k : CollKey) : Nat × Nat := if k.plan = 0 then (collAlg c.pb, k.cls) else (2, k.sub)

/-- The root of a plan's tree: ranks count from the root field in a binomial plan; a switch tree without a root leads to rank 0. -/
def CollCtx.treeRoot (c : CollCtx) (alg : Nat) : Nat := if alg = 1 || c.op = 1 || c.op = 2 then c.root else 0

/-- The rounds of a binomial plan for the rank `v` places after the root, from round `k` on: in each, the rank that sends to it. -/
def binRounds (g root v k n : Nat) : List (List Nat) :=
  match n with
  | 0 => []
  | n + 1 =>
    if v % 2 ^ (k + 1) ≠ 0 then []
    else (if v + 2 ^ k < g then [[(v + 2 ^ k + root) % g]] else []) ++ binRounds g root v (k + 1) n

/-- The lowest one bit of a number. -/
def lowBit (v n : Nat) : Nat :=
  match n with
  | 0 => 1
  | n + 1 => if v % 2 = 1 then 1 else 2 * lowBit (v / 2) n

/-- The rounds of a part's plan at a rank: in each, the ranks whose partials it adds to its own (R407). -/
def CollCtx.rounds (c : CollCtx) (k : CollKey) (r : Nat) : List (List Nat) :=
  match c.algOf k with
  | (1, _) => binRounds c.g c.root ((r + c.g - c.root % c.g) % c.g) 0 13
  | (2, j) => if r = (j + 1) % c.g then [] else [[(r + c.g - 1) % c.g]]
  | (a, _) => [(List.range c.g).filter (fun q => q != c.treeRoot a && treeParent c.handle c.g (c.treeRoot a) q == r)]

/-- The rank to which a rank's partial goes; none at the part's final add node (R407). -/
def CollCtx.parent (c : CollCtx) (k : CollKey) (r : Nat) : Option Nat :=
  match c.algOf k with
  | (1, _) =>
    let v := (r + c.g - c.root % c.g) % c.g
    if v = 0 then none else some ((v - lowBit v 13 + c.root) % c.g)
  | (2, j) => if r = j then none else some ((r + 1) % c.g)
  | (a, _) => if r = c.treeRoot a then none else some (treeParent c.handle c.g (c.treeRoot a) r)

/-- The ranks beneath a rank in a part's plan, in the reverse order of the rounds. -/
def CollCtx.below (c : CollCtx) (k : CollKey) (r : Nat) : List Nat := (c.rounds k r).reverse.flatMap (fun x => x)

/-- The rank at which a part's value is formed: its final add node, the rank that broadcasts, or the one whose data it is. -/
def CollCtx.source (c : CollCtx) (k : CollKey) : Nat :=
  match c.op with
  | 2 => c.root
  | 3 => k.cls
  | 5 => k.cls
  | _ => match c.algOf k with
    | (2, j) => j
    | (a, _) => c.treeRoot a

/-- The ranks to which a rank passes on a part's value that came from `peer` (R407); `all` is for a value that every rank must see. -/
def CollCtx.passTo (c : CollCtx) (k : CollKey) (r peer : Nat) (all : Bool) : List Nat :=
  if c.op = 5 then (if r = k.cls && k.sub ≠ r then [k.sub] else [])
  else match c.algOf k with
  | (2, _) =>
    let next := (r + 1) % c.g
    if next = c.source k || (c.op = 1 && !all && r = c.root) then [] else [next]
  | _ =>
    if c.op = 1 && !all then []
    else if c.op = 3 then ((c.below k r) ++ (c.parent k r).toList).filter (fun q => q != peer || peer == r)
    else c.below k r

/-- Elements that one message carries: the chunk bytes (R407). -/
def CollCtx.perSeg (c : CollCtx) : Nat := max 1 ((if numAt c.pb 0x28 8 = 0 then 65536 else numAt c.pb 0x28 8) / c.width)

/-- The elements fall into the chunks of a ring. -/
def CollCtx.byRing (c : CollCtx) : Bool := collReduces c.op && collAlg c.pb = 2

/-- Elements of a chunk. -/
def CollCtx.clsSize (c : CollCtx) (cls : Nat) : Nat :=
  let tot := if c.op = 4 then c.g * c.count else c.count
  if c.byRing then (tot + c.g - 1 - cls) / c.g else tot

/-- The elements of a part: numbers in the reduced vector, or in its source's block (R407). -/
def CollCtx.elems (c : CollCtx) (k : CollKey) : List Nat :=
  let es := (List.range (min c.perSeg (c.clsSize k.cls - k.seg * c.perSeg))).map (fun i =>
    let j := k.seg * c.perSeg + i
    if c.byRing then k.cls + c.g * j else j)
  if k.plan = 0 then es else es.filter (fun e => e % c.g == k.sub)

/-- The parts of the first plan that a rank has to do with. -/
def CollCtx.keys (c : CollCtx) : List CollKey :=
  let segs := fun (cls sub : Nat) => (List.range ((c.clsSize cls + c.perSeg - 1) / c.perSeg)).map (fun i => (⟨0, cls, i, sub⟩ : CollKey))
  match c.op with
  | 3 => (List.range c.g).flatMap (fun r => segs r 0)
  | 5 => (List.range c.g).flatMap (fun r => segs c.rank r ++ (if r = c.rank then [] else segs r c.rank))
  | _ => if c.byRing then (List.range c.g).flatMap (fun j => segs j 0) else segs 0 0

/-- The parts of the plan made anew: those of which no value was formed, by the chunks of the ring (R409). -/
def CollCtx.anewKeys (c : CollCtx) (msgs : List CollMsg) : List CollKey :=
  (msgs.filter (fun m => !m.up && m.anew)).flatMap (fun m =>
    ((List.range c.g).map (fun j => { m.key with plan := 1, sub := j })).filter (fun k => !(c.elems k).isEmpty))

/-! ### The steps of a rank (R407-R409) -/

/-- An element of a part in a rank's own send data. -/
def CollCtx.own (c : CollCtx) (input : List Byte) (k : CollKey) (i : Nat) : Nat :=
  let j := if c.op = 5 then k.sub * c.count + i else i
  numAt input (j * c.width) c.width

/-- The partial of a part at a rank, once every input of its add nodes there has come: the lowest rank in it and its elements
(R100, R407, R408). -/
def CollCtx.sumUp (c : CollCtx) (input : List Byte) (msgs : List CollMsg) (k : CollKey) : Option (Nat × List Nat) :=
  let es := c.elems k
  let red := numAt c.pb 1 1
  let ty := numAt c.pb 2 1
  (c.rounds k c.rank).foldl (fun (acc : Option (Nat × List Nat)) rd => acc.bind (fun a =>
    let ms := msgs.filter (fun m => m.up && m.key == k && rd.contains m.peer)
    if !rd.all (fun q => ms.any (fun m => m.peer == q)) then none
    else some (ms.foldl (fun l m => min l m.low) a.1, a.2.mapIdx (fun i v =>
      (addNode red ty ((a.1, v) :: ms.map (fun m => (m.low, numAt m.bytes (i * c.width) c.width)))).2))))
    (some (c.rank, es.map (c.own input k)))

/-- What a rank does next for a collective: it sends a partial up, forms a value, or passes a value on. -/
inductive CollTask where
  | up (k : CollKey) (dst low : Nat) (bytes : List Byte)
  | form (k : CollKey) (anew : Bool) (bytes : List Byte)
  | down (k : CollKey) (dst : Nat) (anew : Bool) (bytes : List Byte)
deriving DecidableEq, Repr

/-- The next step of a rank for one part (R407, R409). -/
def CollCtx.taskFor (c : CollCtx) (st : CollSt) (k : CollKey) : Option CollTask :=
  let wr := fun (vs : List Nat) => vs.flatMap (natLe c.width)
  match st.msgs.find? (fun m => !m.up && m.key == k) with
  | some m => (c.passTo k c.rank m.peer (m.anew || st.anew)).findSome? (fun d =>
      if st.out.contains (false, k, d) then none else some (.down k d m.anew m.bytes))
  | none =>
    if !collReduces c.op then
      (if c.source k = c.rank then some (.form k false (wr ((c.elems k).map (c.own st.input k)))) else none)
    else if k.plan = 0 && st.anew then
      (if (c.parent k c.rank).isNone then some (.form k true []) else none)
    else match c.sumUp st.input st.msgs k, c.parent k c.rank with
      | some p, some d => if st.out.contains (true, k, d) then none else some (.up k d p.1 (wr p.2))
      | some p, none => some (.form k false (wr p.2))
      | none, _ => none

/-- Every part of a collective at a rank. -/
def CollCtx.allKeys (c : CollCtx) (st : CollSt) : List CollKey := c.keys ++ c.anewKeys st.msgs

/-- The next step of a rank. -/
def CollCtx.task? (c : CollCtx) (st : CollSt) : Option CollTask := (c.allKeys st).findSome? (c.taskFor st)

/-- A value of the part has to come to the rank. -/
def CollCtx.needs (c : CollCtx) (anew : Bool) (k : CollKey) : Bool :=
  if c.op ≠ 1 || anew then true
  else match c.algOf k with
  | (2, _) => (c.rank + c.g - c.source k) % c.g ≤ (c.root + c.g - c.source k) % c.g
  | _ => c.rank = c.source k

/-- A rank has done all its steps: every value that it needs has come, and it has nothing more to send. -/
def CollCtx.done (c : CollCtx) (st : CollSt) : Bool :=
  (c.task? st).isNone
    && (c.allKeys st).all (fun k => !c.needs st.anew k || st.msgs.any (fun m => !m.up && m.key == k))

/-- The place of an element of a part in a rank's receive buffer (R309). -/
def CollCtx.place (c : CollCtx) (k : CollKey) (i : Nat) : Option Nat :=
  match c.op with
  | 1 => if c.rank = c.root then some i else none
  | 3 => some (k.cls * c.count + i)
  | 4 => if c.rank * c.count ≤ i && i < (c.rank + 1) * c.count then some (i - c.rank * c.count) else none
  | 5 => if k.sub = c.rank then some (k.cls * c.count + i) else none
  | _ => some i

/-- A rank's receive buffer (R309, R408). -/
def CollCtx.result (c : CollCtx) (msgs : List CollMsg) : List Byte :=
  let o := (msgs.filter (fun m => !m.up && !m.anew)).foldl (fun o m => ((c.elems m.key).zipIdx).foldl (fun o e =>
    match c.place m.key e.1 with
    | some p => overWrite o (p * c.width) ((m.bytes.drop (e.2 * c.width)).take c.width)
    | none => o) o) []
  overRead o [] 0 (collRecvBytes c.pb c.g c.rank)

/-- Buffer memory that a built-in collective takes: what one message carries (R410, log 10). -/
def CollCtx.buffer (c : CollCtx) : Nat := min (2 ^ 26) (c.perSeg * c.width)

/-- The rank is no mere leaf of the plan: others' data pass through it. -/
def CollCtx.passes (c : CollCtx) (r : Nat) : Bool :=
  c.op ≠ 5 && c.keys.any (fun k => !(c.rounds k r).isEmpty || (c.passTo k r k.cls true).any (fun q => q != r))

/-- A rank that is lost now leaves the collective without inputs or without an add node, as far as this rank can tell (R409). -/
def CollCtx.missed (c : CollCtx) (st : CollSt) (r : Nat) : Bool :=
  !st.ready.contains r && (c.passes r || c.keys.any (fun k =>
    if collReduces c.op then c.parent k r == some c.rank && !st.msgs.any (fun m => m.up && m.key == k && m.peer == r)
    else c.source k == r && c.needs false k && !st.msgs.any (fun m => !m.up && m.key == k)))

/-! ### Slots of step lists (R410, R411) -/

/-- Bytes `off` to `off + n - 1` of a slot: pushes in order of arrival, and at each offset the reduction, by ascending index, of the
inputs that have the element. -/
def slotBytes (sl : ApSlot) (red ty off n : Nat) : List Byte :=
  let e := collBytes ty
  let plain := (sl.inputs.filter (fun p => !p.2.2.2)).foldl (fun o p => overWrite o p.1 p.2.2.1) []
  let offs := ((sl.inputs.filter (fun p => p.2.2.2)).map (fun p => p.1)).dedup
  let all := offs.foldl (fun o a =>
    let ins := sl.inputs.filter (fun p => p.2.2.2 && p.1 == a)
    let len := (ins.map (fun p => p.2.2.1.length)).foldl max 0
    overWrite o a ((List.range (len / e)).flatMap (fun i =>
      natLe e (addNode red ty ((ins.filter (fun p => (i + 1) * e ≤ p.2.2.1.length)).map (fun p =>
        (p.2.1, numAt p.2.2.1 (i * e) e)))).2))) plain
  overRead all [] off n

/-- Bytes `off` to `off + n - 1` of a slot are final: all have come, and the inputs of each add node there are all in (R410). -/
def slotFinal (sl : ApSlot) (off n : Nat) : Bool :=
  (List.range n).all (fun i => sl.inputs.any (fun p => p.1 ≤ off + i && off + i < p.1 + p.2.2.1.length))
    && sl.inputs.all (fun p => !p.2.2.2 || off + n ≤ p.1 || p.1 + p.2.2.1.length ≤ off || sl.final.contains p.1)

/-- Slot and offset of an aperture address (R410). -/
def slotOf (va : Nat) : Nat × Nat := ((va - castBase) / 2 ^ 40, (va - castBase) % 2 ^ 40)

end Sys2Proof.Machine
end

