-- ==== Sys2Proof/Machine/Fabric.lean ====
section
/-! DEFINITION. The fabric engine: commands sent to peers, their arrival, numbering and application, counters and arms, and the
messages of collectives (R153, R158, R302, R305-R311, R404-R411). The layout of header payloads is the model's own (log 10):
byte 0 function, byte 1 a status, bytes 4-7 the command number, then the fields named below. -/

namespace Sys2Proof.Machine

/-! ### Headers (log 10) -/

def fnConfirm : Nat := 0x7E
def fnAbort : Nat := 0x7D
def fnGo : Nat := 0x7C
def fnPush : Nat := 0x7B
def fnPull : Nat := 0x7A
def fnPulled : Nat := 0x79
def fnBroken : Nat := 0x78
def fnPart : Nat := 0x77
def fnReady : Nat := 0x75
def fnReplan : Nat := 0x74

/-- The 64 bytes of a header. -/
def header (fn num : Nat) (fields : List (Nat × List Byte)) : List Byte :=
  overRead (fields.foldl (fun o f => overWrite o f.1 f.2) (overWrite (overWrite [] 0 (natLe 1 fn)) 4 (natLe 4 num))) [] 0 64

/-- Packets with 64 bytes of data each. -/
def dataPackets (q : Packet) (data : List Byte) : List Packet :=
  let n := (data.length + 63) / 64
  (List.range n).map (fun i => { q with
    ty := 1, last := i + 1 == n, idx := i, payload := padTo 64 ((data.drop (64 * i)).take 64) })

/-- A group that a context owns (R404). -/
def State.groupOf (s : State) (x handle : Nat) : Option GroupEntry :=
  match s.group? handle with
  | some g => if g.ctx = x then some g else none
  | none => none

/-- Key of a stream's numbers to or from a rank. -/
def numKey (handle rank stream : Nat) : Nat := (handle * 4096 + rank) * 16 + stream

/-- The header packet of a command with `len` bytes of data. -/
def headPacketOf (g : GroupEntry) (dst stream fn n len : Nat) (fields : List (Nat × List Byte)) : Packet :=
  { ty := if fn = 0x63 then 6 else 2, last := len == 0, dst := dst, src := g.rank, handle := g.handle
    stream := stream, num := n, idx := 0
    payload := header fn n ((0x10, natLe 8 len) :: fields) }

/-- Sends the header of a numbered command of a stream to a rank, with some of its data (R406); answers its number. -/
def State.sendHeader (s : State) (x : Nat) (g : GroupEntry) (dst stream fn len : Nat) (fields : List (Nat × List Byte))
    (data : List Byte) : State × Nat :=
  let k := numKey g.handle dst stream
  let n := Tab.get 0 (s.ctx x).outNum k + 1
  let s := s.updCtx x (fun c => { c with outNum := Tab.set 0 c.outNum k n })
  let q := headPacketOf g dst stream fn n len fields
  ({ s with switch := s.switch ++ q :: dataPackets q data }, n)

/-- Sends a numbered command with all its data. -/
def State.sendCommand (s : State) (x : Nat) (g : GroupEntry) (dst stream fn : Nat) (fields : List (Nat × List Byte))
    (data : List Byte) : State × Nat := s.sendHeader x g dst stream fn data.length fields data

/-- Sends the 4 KiB unit `u` of a command's data, whose header has been sent (R392). -/
def State.sendUnit (s : State) (g : GroupEntry) (dst stream fn n u : Nat) (data : List Byte) : State :=
  let ps := dataPackets (headPacketOf g dst stream fn n data.length []) data
  { s with switch := s.switch ++ (ps.drop (64 * u)).take 64 }

/-- Sends a message that takes no number. -/
def State.sendMessage (s : State) (g : GroupEntry) (dst stream fn num : Nat) (fields : List (Nat × List Byte)) : State :=
  { s with switch := s.switch ++ [{
      ty := 2, last := true, dst := dst, src := g.rank, handle := g.handle, stream := stream, num := num, idx := 0
      payload := header fn num fields }] }

/-! ### Counters and arms (R305-R307) -/

/-- The entry's header fields: function, level, stream (R283). -/
def entryFn (w : Word) : Nat := field w 0 7
def entryLvl (w : Word) : Nat := field w 8 4
def entryStream (w : Word) : Nat := field w 12 4

/-- What an operation that an arm fires sees apart from memory (R412): bytes, and the released stores of a core up to a count. -/
abbrev Sight := Overlay × Option (Nat × Nat)

/-- An arm fires: its operation is appended to its stream on behalf of the ARM's block and takes its number (R307); it sees `view` apart
from memory (R412). -/
def State.fireSeen (s : State) (x : Nat) (view : Sight) (a : Arm) : State :=
  let w := param a.entry 0
  let fn := entryFn w
  let ps := a.entry.drop 2
  let r : StreamRef := ⟨3, x, BitVec.ofNat 4 (entryStream w)⟩
  let st := s.stream r
  let err := match checkParams fn ps 0 0 with
    | some n => some n
    | none => leaveCheck s (a.blk.bind s.issuer?) a.core x fn ps 0
  let q : Cmd :=
    { Cmd.new with
      num := st.i + 1, fn := fn, kind := .fired a.counter, ps := ps, lvl := entryLvl w, blk := a.blk, core := a.core, slot := a.slot
      view := view.1, seen := view.2
      order := (s.ctx x).dseq, leaveErr := err, det := a.det }
  let past := st.q.filter (fun q => q.left)
  let wait := st.q.filter (fun q => !q.left)
  (s.setStream r { st with i := st.i + 1, q := past ++ q :: wait }).updCtx x (fun c => { c with dseq := c.dseq + 1 })

/-- An arm fires at a change that no thread of this device made. -/
def State.fire (s : State) (x : Nat) (a : Arm) : State := s.fireSeen x ([], none) a

/-- A change of a counter: the arms whose thresholds the new value reaches fire in the order of registration, and their
operations see `view` (R305, R307, R412). -/
def State.addSeen (s : State) (x c : Nat) (v : Word) (view : Sight) : State :=
  let new := Tab.get 0 (s.ctx x).counters c + v
  let due := fun (a : Arm) => a.counter == c && a.thr.toNat ≤ new.toNat
  let fired := (s.ctx x).arms.filter due
  fired.foldl (fun s a => s.fireSeen x view a) (s.updCtx x (fun cx => { cx with
    counters := Tab.set 0 cx.counters c new
    arms := cx.arms.filter (fun a => !due a) }))

/-- A change of a counter that no thread of this device made. -/
def State.addCounter (s : State) (x c : Nat) (v : Word) : State := s.addSeen x c v ([], none)

/-- What the operations that a CNTADD fires see apart from memory: the writes that its core made before it and that are still
held or in flight (R155, R412). -/
def firedView (e : Eng) : Sight :=
  (if e.cmd.exact_ then e.cmd.view else [], if e.cmd.isFired then none else some (e.cmd.core, e.cmd.sentAt))

/-! ### Collectives under way -/

/-- A collective of this device. -/
def CollSt.is (c : CollSt) (handle stream k : Nat) : Bool := c.handle == handle && c.stream == stream && c.k == k

def State.coll? (s : State) (handle stream k : Nat) : Option CollSt := s.colls.find? (fun c => c.is handle stream k)

/-- Changes a collective under way. -/
def State.updColl (s : State) (handle stream k : Nat) (f : CollSt → CollSt) : State :=
  { s with colls := s.colls.map (fun c => if c.is handle stream k then f c else c) }

/-- A collective of which nothing is known yet. -/
def CollSt.new (handle stream k : Nat) : CollSt :=
  { handle := handle, stream := stream, k := k, input := [], msgs := [], out := [], pbs := [], levels := [], ready := [], abort := none,
    go := false, anew := false, broken := false, steps := none, pulled := none, sending := none, outs := [], slot := none, buf := 0, kept := none
    lost := [] }

/-- The root that a collective's command names, as far as this rank knows. -/
def CollSt.root (c : CollSt) : Nat := (c.pbs.head?.map (fun (e : Nat × List Byte) => numAt e.2 0x0A 2)).getD 0

/-- The collective, opened if it is not past. -/
def State.openColl (s : State) (handle stream k : Nat) : State :=
  if (s.coll? handle stream k).isSome || k < Tab.get 0 s.collSeq (16 * handle + stream) then s
  else { s with colls := s.colls ++ [CollSt.new handle stream k] }

/-- The rest of the message that a collective is sending is handed to the switch from unit `u` on; `n` bounds the units. -/
def State.sendRest (s : State) (g : GroupEntry) (stream : Nat) (m : Nat × Nat × Nat × Nat × List Byte) (n : Nat) : State :=
  match n with
  | 0 => s
  | n + 1 => (s.sendUnit g m.1 stream m.2.1 m.2.2.1 m.2.2.2.1 m.2.2.2.2).sendRest g stream
      (m.1, m.2.1, m.2.2.1, m.2.2.2.1 + 1, m.2.2.2.2) n

/-- A collective that ends in the middle of a message hands over the rest, which its receiver counts on (R406). -/
def State.flushColl (s : State) (handle stream k : Nat) : State :=
  match s.group? handle, (s.coll? handle stream k).bind (fun c => c.sending) with
  | some g, some m => (s.sendRest g stream m ((m.2.2.2.2.length + 4095) / 4096 - m.2.2.2.1)).updColl handle stream k (fun c => { c with
      sending := none })
  | _, _ => s

/-- A collective's slots and buffer memory are free, and the lines that it has written in place have their content back and are
released (R158, R410). -/
def State.freeColl (s : State) (x handle stream k : Nat) : State :=
  let s := (s.flushColl handle stream k).updCtx x (fun c => { c with
    slots := c.slots.filter (fun (e : Nat × ApSlot) => e.2.owner != (handle, stream, k)) })
  match (s.coll? handle stream k).bind (fun c => c.kept) with
  | some o => { s with mem := Memory.apply s.mem o, heldLines := s.heldLines.filter (fun l => !o.any (fun c => c.1 / 256 == l)) }
  | none => s

/-- Ends a collective on this device. -/
def State.closeColl (s : State) (x handle stream k : Nat) : State :=
  let s := s.freeColl x handle stream k
  { s with colls := s.colls.filter (fun c => !c.is handle stream k) }

/-- An abort reaches this rank: it holds unless the collective has been decided (R310, R409, R410). -/
def State.takeAbort (s : State) (g : GroupEntry) (stream k sub : Nat) : State :=
  match s.coll? g.handle stream k with
  | some c =>
    if c.go || c.abort.isSome then s
    else (s.freeColl g.ctx g.handle stream k).updColl g.handle stream k (fun c => { c with
      abort := some sub, slot := none, buf := 0, kept := none })
  | none => s

/-- An abort is decided here: it is taken on this rank and told to every other (R310, R409). -/
def State.abortColl (s : State) (g : GroupEntry) (stream k sub : Nat) : State :=
  ((List.range g.size).filter (fun r => r != g.rank)).foldl (fun s r =>
    s.sendMessage g r stream fnAbort 0 [(1, natLe 1 sub), (0x18, natLe 4 k)]) (s.takeAbort g stream k sub)

/-- A rank can be reached: this one, or one for which a listed port qualifies. -/
def State.reaches (s : State) (g : GroupEntry) (r : Nat) : Bool := r = g.rank || (s.outPort g r).isSome

/-- The rank that decides for a group: rank 0, else the root, else the lowest that can be reached (R409; log 48). -/
def State.decider (s : State) (g : GroupEntry) (root : Nat) : Nat :=
  if s.reaches g 0 then 0 else if root < g.size && s.reaches g root then root
  else ((List.range g.size).find? (s.reaches g)).getD g.rank

/-- The rank that decides aborts, or is told of the reason (R409). -/
def State.decideAbort (s : State) (g : GroupEntry) (root stream k sub : Nat) : State :=
  if s.decider g root = g.rank then
    match s.coll? g.handle stream k with
    | some c => if c.go || c.abort.isSome then s else s.abortColl g stream k sub
    | none => s
  else s.sendMessage g (s.decider g root) stream fnAbort 0 [(1, natLe 1 sub), (2, natLe 1 1), (0x18, natLe 4 k)]

/-! ### Writes of a peer's copy (R153, R158, R302) -/

/-- A command of the fabric engine on behalf of a peer. -/
def peerEng (x stream : Nat) : Eng :=
  { r := ⟨3, x, BitVec.ofNat 4 stream⟩, x := x, cmd := { Cmd.new with fn := 0x27 } }

def Arriving.fn (a : Arriving) : Nat := numAt a.head 0 1
def Arriving.va (a : Arriving) : Word := BitVec.ofNat 64 (numAt a.head 8 8)
def Arriving.count (a : Arriving) : Nat := numAt a.head 0x10 8

/-- Every byte has come. -/
def Arriving.whole (a : Arriving) : Bool := !a.head.isEmpty && a.bytes.length == 64 * ((a.count + 63) / 64)

/-- The data that have come. -/
def Arriving.data (a : Arriving) : List Byte := overRead a.bytes [] 0 a.count

def Arriving.is (a : Arriving) (q : Packet) : Bool :=
  a.handle == q.handle && a.src == q.src && a.stream == q.stream && a.num == q.num

/-- Changes the entry of a packet's command, opened at its first flit. -/
def State.updArriving (s : State) (q : Packet) (f : Arriving → Arriving) : State :=
  if s.arriving.any (fun a => a.is q) then { s with arriving := s.arriving.map (fun a => if a.is q then f a else a) }
  else { s with arriving := s.arriving ++ [f ⟨q.handle, q.src, q.stream, q.num, [], [], [], [], [], 0⟩] }

/-- COMMITTED bytes of a range that translate now. -/
def comBytes (s : State) (e : Eng) (va : Word) (n : Nat) : Nat :=
  ((engPieces s e va n .write).map (fun p => match p.2.2 with
    | .at _ kind _ => if kind = 0 then p.2.1 else 0
    | _ => 0)).sum

/-- A data flit of a copy above 16 MiB: its COMMITTED bytes are written in place, each line kept and held (R158). -/
def State.writeInPlace (s : State) (x : Nat) (q : Packet) (a : Arriving) : State :=
  let e := peerEng x q.stream
  if a.fn != 0x27 || a.count ≤ 16 * 2 ^ 20 || comBytes s e a.va a.count ≤ 16 * 2 ^ 20 then s
  else
    let va := a.va + BitVec.ofNat 64 (64 * q.idx)
    let o := (engSplit s e [(va, q.payload.take (a.count - 64 * q.idx))]).1
    let new := (addNew [] (o.map (fun c => c.1 / 256))).filter (fun l => !a.kept.any (fun c => c.1 / 256 == l))
    let kept := new.foldl (fun o l => overWrite o (256 * l) (s.readMem (256 * l) 256)) a.kept
    let s := if new.isEmpty then s else s.writeSave x
    let s := { s with mem := Memory.apply s.mem o, heldLines := addNew s.heldLines new }
    s.updArriving q (fun a => { a with kept := kept })

/-- The lines that a copy holds are released (R158). -/
def State.releaseKept (s : State) (a : Arriving) : State :=
  { s with heldLines := s.heldLines.filter (fun l => !a.kept.any (fun c => c.1 / 256 == l)) }

/-- A scratch range of a peer's copy fails R110 or R111: it does not lie wholly in the window of a block of the context or in one of its
home-slice allocations. R111 names the issuing launch, and a peer's has no blocks here (R302; log 98, DEDUCED). -/
def peerWindowBad (s : State) (x va n : Nat) : Bool :=
  (checkParts va n).any (fun p => match region (BitVec.ofNat 64 p.1) with
    | .aperture o =>
      let tc := o / sliceSize
      let k := s.core tc
      384 ≤ tc || !s.inPart (s.ctx x).part tc
        || !((Tab.vals k.arch.blocks ++ k.saved.flatMap (fun (v : Saved) => Tab.vals v.arch.blocks)).any (fun (b : Block) =>
            s.ctxOf b == x && b.winBase ≤ o % sliceSize && o % sliceSize + p.2 ≤ b.winBase + b.winSize)
          || s.launches.any (fun ln => ln.ctx == x && inHome ln tc (o % sliceSize) p.2 none))
    | _ => false)

/-- A copy's confirmation, or that of a remote add, which one counter-update flit carries: status 0 applied, 6 refused at the
receiver (R302, R306, R415). -/
def State.confirm (s : State) (g : GroupEntry) (a : Arriving) (status : Nat) : State :=
  { s with switch := s.switch ++ [{
      ty := 6, last := true, dst := a.src, src := g.rank, handle := g.handle, stream := a.stream, num := a.num, idx := 0
      payload := header fnConfirm a.num [(1, natLe 1 status)] }] }

/-- A command of a peer has been applied, or aborted at the receiver (R406). -/
def State.finishArriving (s : State) (a : Arriving) : State :=
  { s with applied := Tab.set 0 s.applied (numKey a.handle a.src a.stream) a.num, arriving := s.arriving.filter (fun b => b != a) }

/-- The words of RELEASE and STREAM pages of a peer's copy that have not landed, with the keys of their places (R118, R153). -/
def Arriving.pieces (s : State) (e : Eng) (a : Arriving) : List (OutPiece × Nat) :=
  ((outPieces [(a.va, a.data)]).filter (pieceLeft a.landed)).filterMap (fun p =>
    match engPiece s e p.va .write with
    | .at k kind _ => if kind = 0 then none else some (p, k)
    | _ => none)

/-- One word of a peer's copy lands before the others (R118, R153). -/
def State.landPiece (s : State) (g : GroupEntry) (a : Arriving) (n : Nat) : State :=
  let e := peerEng g.ctx a.stream
  match (a.pieces s e)[n]? with
  | none => s
  | some p =>
    let s := (s.engNote e [(BitVec.ofNat 64 p.1.va, p.1.bytes.length, .write)]).engLand [(p.2, p.1.bytes)]
    { s with arriving := s.arriving.map (fun b => if b == a then { b with landed := (p.1.pos, p.1.va, p.1.bytes.length) :: b.landed }
      else b) }

/-- A peer's copy fails at its destination: what it has written in place is undone, and its sender told (R158, R302). -/
def State.refuseCopy (s : State) (g : GroupEntry) (a : Arriving) : State :=
  ((({ s with mem := Memory.apply s.mem a.kept }).releaseKept a).finishArriving a).confirm g a 6

/-- Changes the entry of a peer's command. -/
def State.setArriving (s : State) (a : Arriving) (f : Arriving → Arriving) : State :=
  { s with arriving := s.arriving.map (fun b => if b == a then f a else b) }

/-- The pages of the next 4 KiB step of a peer's copy are looked for: it waits at an absent one (R385). -/
def State.stepCopy (s : State) (g : GroupEntry) (a : Arriving) : State :=
  let e := peerEng g.ctx a.stream
  match engStatus (s.releaseKept a) e [(a.va + BitVec.ofNat 64 (4096 * a.done), min 4096 (a.count - 4096 * a.done), Need.write)] with
  | .ok => s.setArriving a (fun a => { a with done := a.done + 1 })
  | .held => s
  | .wait ws => s.engWait e ws (fun ts s => s.setArriving a (fun a => { a with wait := ts }))
  | .fail _ _ => s.refuseCopy g a

/-- A peer's copy takes effect, once its pages have been found step by step and no priority chunk is open: what has not landed lands, the
COMMITTED bytes are published, and then its counter changes (R46, R153, R302, R385). -/
def State.applyCopy (s : State) (g : GroupEntry) (a : Arriving) : State :=
  let e := peerEng g.ctx a.stream
  let rs := [(a.va, a.count, Need.write)]
  if !a.wait.isEmpty then s
  else if peerWindowBad s g.ctx a.va.toNat a.count then s.refuseCopy g a
  else if 4096 * a.done < a.count then s.stepCopy g a
  else match engStatus (s.releaseKept a) e rs with
  | .held => s
  | .wait _ => s.setArriving a (fun a => { a with done := 0 })
  | .fail _ _ => s.refuseCopy g a
  | .ok =>
    if prioOpen s then s
    else
      let s := (s.releaseKept a).engNote e rs
      let w := engSplit s e (writesLeft a.landed [(a.va, a.data)])
      let s := (s.publish g.ctx w.1).engLand w.2
      let p4 := BitVec.ofNat 64 (numAt a.head 0x18 8)
      let s := if p4.getLsbD 10 then s.addCounter g.ctx (field p4 0 10) 1 else s
      (s.finishArriving a).confirm g a 0

/-- A push to a slot of a collective (R410, R411). -/
def State.applyPush (s : State) (g : GroupEntry) (a : Arriving) : State :=
  let at_ := slotOf a.va.toNat
  let idx := numAt a.head 0x18 4
  let comb := numAt a.head 0x1C 1 == 1
  match Tab.find? (s.ctx g.ctx).slots at_.1 with
  | none => s
  | some sl =>
    let twice := comb && sl.inputs.any (fun p => p.1 == at_.2 && p.2.1 == idx && p.2.2.2)
    if twice then (match s.group? sl.owner.1, s.coll? sl.owner.1 sl.owner.2.1 sl.owner.2.2 with
      | some o, some c => s.decideAbort o c.root c.stream c.k 1
      | _, _ => s)
    else s.updCtx g.ctx (fun c => { c with
      slots := Tab.put c.slots at_.1 { sl with inputs := sl.inputs ++ [(at_.2, idx, a.data, comb)] } })

/-- A peer's pull: the bytes of a slot once they are final, zeros of a slot that no collective owns (R410, R411). -/
def State.answerPull (s : State) (g : GroupEntry) (a : Arriving) : State :=
  let at_ := slotOf a.va.toNat
  let n := numAt a.head 0x18 4
  let reply := fun (bs : List Byte) =>
    ((s.finishArriving a).sendCommand g.ctx g a.src a.stream fnPulled [(0x20, natLe 4 (numAt a.head 0x20 4))] bs).1
  let busy := (s.stream ⟨3, g.ctx, BitVec.ofNat 4 a.stream⟩).q.head?.any (fun q => q.fn = 0x27 && q.sent ≠ 0 && 4096 * (q.sent - 1) < field (param q.ps 2) 0 40)
    || s.colls.any (fun c => c.handle == g.handle && c.stream == a.stream && c.sending.isSome)
  if busy then s
  else match Tab.find? (s.ctx g.ctx).slots at_.1 with
  | none => reply (natLe n 0)
  | some sl => if slotFinal sl at_.2 n then reply (slotBytes sl (numAt a.head 2 1) (numAt a.head 3 1) at_.2 n) else s

/-- What the operations see that an add from this device's own rank fires: that of the CNTADD which made it (R412). -/
def ownSight (s : State) (g : GroupEntry) (a : Arriving) : Sight :=
  let r : StreamRef := ⟨3, g.ctx, BitVec.ofNat 4 a.stream⟩
  match (s.stream r).q.head? with
  | some q => if a.src = g.rank && q.fn = 0x63 && q.sent ≠ 0 && q.done = a.num + 1 then firedView ⟨r, g.ctx, q⟩ else ([], none)
  | none => ([], none)

/-- A rank has finished its steps of the plan that is valid now (R310, R409). -/
def CollSt.readyFrom (c : CollSt) (rank : Nat) (anew : Bool) : CollSt :=
  if anew == c.anew then { c with ready := addNew c.ready [rank] } else c

/-- Applies a command that has come whole and whose turn it is (R153, R406). -/
def State.applyOne (s : State) (a : Arriving) : State :=
  match s.group? a.handle with
  | none => s
  | some g =>
    if !a.whole || a.num ≠ Tab.get 0 s.applied (numKey a.handle a.src a.stream) + 1 || !(s.ctx g.ctx).created then s
    else match a.fn with
    | 0x27 =>
      let n := Config.freePick s.tick % ((a.pieces s (peerEng g.ctx a.stream)).length + 1)
      if n = 0 then s.applyCopy g a else s.landPiece g a (n - 1)
    | 0x63 => ((s.addSeen g.ctx (numAt a.head 0x18 4) a.va (ownSight s g a)).finishArriving a).confirm g a 0
    | 0x60 =>
      let k := numAt a.head 0x20 4
      ((s.openColl a.handle a.stream k).updColl a.handle a.stream k (fun c => { c with
        pbs := Tab.put c.pbs a.src a.data, levels := Tab.put c.levels a.src (numAt a.head 0x24 1) })).finishArriving a
    | 0x77 =>
      let k := numAt a.head 0x20 4
      let m : CollMsg :=
        { up := numAt a.head 1 1 % 2 == 1, anew := numAt a.head 1 1 / 2 % 2 == 1, low := numAt a.head 2 2, peer := a.src, bytes := a.data
          key := ⟨numAt a.head 0x18 4, numAt a.head 0x24 4, numAt a.head 0x28 4, numAt a.head 0x2C 4⟩ }
      ((s.openColl a.handle a.stream k).updColl a.handle a.stream k (fun c =>
        if c.msgs.any (fun o => o.up == m.up && o.key == m.key && (!m.up || o.peer == m.peer)) then c
        else { c with msgs := c.msgs ++ [m] })).finishArriving a
    | 0x75 => ((s.openColl a.handle a.stream (numAt a.head 0x20 4)).updColl a.handle a.stream (numAt a.head 0x20 4) (fun c =>
        c.readyFrom a.src (numAt a.head 0x24 1 == 1))).finishArriving a
    | 0x7A => s.answerPull g a
    | 0x7B => (s.applyPush g a).finishArriving a
    | 0x79 => (s.updColl a.handle a.stream (numAt a.head 0x20 4) (fun c =>
        if c.pulled.isSome then { c with pulled := some a.data } else c)).finishArriving a
    | _ => s.finishArriving a

/-! ### Messages -/

/-- A confirmation reaches its command: the local counter of an RCOPY is increased, or the command fails (R302). -/
def State.confirmed (s : State) (g : GroupEntry) (q : Packet) : State :=
  let r : StreamRef := ⟨3, g.ctx, BitVec.ofNat 4 q.stream⟩
  let st := s.stream r
  match st.q with
  | [] => s
  | c :: rest =>
    let p := param c.ps
    let mine := c.sent != 0 && c.done == q.num + 1 && !c.final && (if c.fn = 0x27 then field (p 3) 0 16 == q.handle && field (p 3) 16 12 == q.src
      else c.fn == 0x63 && field (p 0) 16 16 == q.handle && field (p 0) 32 12 == q.src)
    if !mine then s
    else if numAt q.payload 1 1 = 0 then
      let s := s.setStream r { st with q := { c with final := true } :: rest }
      if c.fn = 0x27 && (p 4).getLsbD 26 then s.addCounter g.ctx (field (p 4) 16 10) 1 else s
    else s.setStream r { st with q := { c with leaveErr := some 6 } :: rest }

/-- The record of a plan made anew (R409). -/
def State.postReplan (s : State) (x : Nat) : State := s.post x 0x63 1 []

/-- The decision to plan anew reaches a rank: a step list is given up, its slots are free, and the send buffer is to be read (R409, R411;
log 48). -/
def State.replans (s : State) (g : GroupEntry) (stream k : Nat) : State :=
  match s.coll? g.handle stream k with
  | none => s
  | some c =>
    if c.anew || c.go || c.abort.isSome then s
    else
      let s := if c.steps.isSome then s.freeColl g.ctx g.handle stream k else s
      (s.updColl g.handle stream k (fun c => if c.steps.isSome
        then { c with anew := true, ready := [], steps := none, pulled := some [], outs := [] }
        else { c with anew := true, ready := [] })).postReplan g.ctx

/-- This rank is asked to decide an abort (R409). -/
def State.abortAsked (s : State) (g : GroupEntry) (stream k sub : Nat) : State :=
  match s.coll? g.handle stream k with
  | some c => if c.go || c.abort.isSome then s else s.abortColl g stream k sub
  | none => s

/-- A packet for this device's own rank (R405, R406). -/
def State.deliver (s : State) (q : Packet) : State :=
  match s.group? q.handle with
  | none => s
  | some g =>
    let past := q.num ≤ Tab.get 0 s.applied (numKey q.handle q.src q.stream)
    if q.ty = 1 then
      if past then s
      else
        let s := s.updArriving q (fun a => { a with bytes := overWrite a.bytes (64 * q.idx) q.payload })
        match s.arriving.find? (fun a => a.is q) with
        | some a => s.writeInPlace g.ctx q a
        | none => s
    else
      let fn := numAt q.payload 0 1
      let k := numAt q.payload 0x18 4
      if fn = fnResume then s
      else if fn = fnConfirm then s.confirmed g q
      else if fn = fnGo then s.updColl q.handle q.stream k (fun c => if c.abort.isSome then c else { c with go := true })
      else if fn = fnReplan then s.replans g q.stream k
      else if fn = fnBroken then s.updColl q.handle q.stream k (fun c => { c with broken := true })
      else if fn = fnAbort then
        if numAt q.payload 2 1 = 1 then s.abortAsked g q.stream k (numAt q.payload 1 1)
        else (s.openColl q.handle q.stream k).takeAbort g q.stream k (numAt q.payload 1 1)
      else if past then s
      else s.updArriving q (fun a => { a with head := q.payload })

/-! ### The switch (R405) -/

/-- The packet at place `n` of the switch may move: no earlier one is for the same destination. -/
def State.switchFree (s : State) (n : Nat) : Bool :=
  match s.switch[n]? with
  | none => false
  | some q => (s.switch.take n).all (fun p => !(p.handle == q.handle && p.dst == q.dst))

/-- The switch delivers a packet for its own rank, or gives another to the first port of its list that qualifies. -/
def State.switchMove (s : State) (n : Nat) : State :=
  match s.switch[n]? with
  | none => s
  | some q =>
    if !s.switchFree n then s
    else match s.group? q.handle with
    | none => { s with switch := s.switch.eraseIdx n }
    | some g =>
      if q.dst = g.rank then ({ s with switch := s.switch.eraseIdx n }).deliver q
      else match s.outPort g q.dst with
        | some p => ({ s with switch := s.switch.eraseIdx n }).toPort p q
        | none => s

end Sys2Proof.Machine
end

