-- ==== Sys2Proof/Machine/Xc.lean ====
section
/-! DEFINITION. XC: the issue of an engine command (R155, R274-R279, R282, R294, R301). -/

namespace Sys2Proof.Machine

/-- The answer of an XC. -/
abbrev XcOut := Host.Outcome State Fault Refusal

/-- Parameter `i` of a thread's XC. -/
def xcParam (f : XcF) (th : Thread) (i : Nat) : Word := th.lane (laneNum f.a + i)

/-- The first of some compared values that differs among the active members, with the members that differ in any (R275). -/
def xcDisagree (e : Site) (vs : List (Thread → Word)) : Option (Thread → Word) :=
  vs.find? (fun v => e.act.any (fun th => v th != v e.ref))

/-- UNIFORM and FMTDIV (R275); only TAIL and SEQ read `b` (R169, R274). -/
def xcUniform (s : State) (e : Site) (fn : Nat) (f : XcF) : Option Flt :=
  let ps := (List.range (fnParams fn)).map (fun i => fun (th : Thread) => xcParam f th i)
  let vs := ps ++ (if fn = 0x50 || fn = 0x51 then [fun th => e.read s th f.b] else [])
  match (fmtParam fn).bind (fun i => xcDisagree e [fun th => xcParam f th i]) with
  | some v => some ⟨3, 0, laneMask (e.act.filter (fun th => v th != v e.ref)), v e.ref⟩
  | none =>
    match xcDisagree e vs with
    | some v => some ⟨2, 0, laneMask (e.act.filter (fun th => vs.any (fun w => w th != w e.ref))), v e.ref⟩
    | none => none

/-- A window-alias parameter resolved by the issuing core; none beyond the window (R112). -/
def resolveAlias (s : State) (c slot : Nat) (va : Word) : Option Word :=
  match region va with
  | .alias_ o => (s.winBlock? c slot).bind (fun b =>
      if o < b.winSize then some (BitVec.ofNat 64 (apertureBase + c * sliceSize + b.winBase + o)) else none)
  | _ => some va

/-- The parameters of the command, local addresses resolved; the first address that fails otherwise (R112, R299). -/
def xcParams (s : State) (e : Site) (fn : Nat) (f : XcF) : Except Word (List Word) :=
  let ps := (List.range (fnParams fn)).map (xcParam f e.ref)
  match (addrParams fn).find? (fun i => (resolveAlias s e.cur.core e.cur.slot (param ps i)).isNone) with
  | some i => .error (param ps i)
  | none => .ok (ps.mapIdx (fun i p => if (addrParams fn).contains i
      then (resolveAlias s e.cur.core e.cur.slot p).getD p else p))

/-- The format word that a stream will hold when its queued commands have run (R295). -/
def Stream.fmtAhead (st : Stream) : Word := fmtAfter st.q st.fmtw

/-- An accumulator range is held by an incomplete command of another matrix stream of the core (R294). -/
def slotsHeld (s : State) (c stream : Nat) (r : Nat × Nat) : Bool :=
  (s.core c).eng.streams.any (fun (e : Nat × Stream) => e.1 < 16 && e.1 != stream
    && e.2.q.any (fun q => match q.slots with
      | some h => slotsMeet r h
      | none => false))

/-- The stream that an XC names. -/
def xcStream (s : State) (e : Site) (eng stream : Nat) : StreamRef :=
  ⟨BitVec.ofNat 2 eng, if eng = 3 then s.ctxOf e.b else e.cur.core, BitVec.ofNat 4 stream⟩

/-- The matrix stream, slot range and parameters of the MMA in a command: itself, or COPYMMA's (R294, R301). -/
def xcSlots (fn stream : Nat) (ps : List Word) (fmtw : Word) : Option (Nat × (Nat × Nat)) :=
  if fn = 0x21 then (cmdSlots 0x00 (ps.drop 5) fmtw).map (fun r => (field (param ps 4) 0 4, r))
  else (cmdSlots fn ps fmtw).map (fun r => (stream, r))

/-- ENGINE at issue (R276, R282): the lowest subcode. -/
def xcEngine (s : State) (e : Site) (fn : Nat) (f : XcF) (ps : List Word) : Option Nat :=
  let b := e.read s e.ref f.b
  let fmtw := (s.stream (xcStream s e (engineOf fn b.toNat) f.stream.toNat)).fmtAhead
  match checkParams fn ps b fmtw with
  | some n => if n ≠ 1 && fn = 0x21 && copyMmaErr s e ps = some 1 then some 1 else some n
  | none =>
    let late := if fn = 0x21 then copyMmaErr s e ps else none
    match xcSlots fn f.stream.toNat ps fmtw with
    | some (m, r) => if slotsHeld s e.cur.core m r then (if late = some 1 then some 1 else some 5) else late
    | none => late
where
  /-- The checks over memory that COPYMMA makes at issue: those of its copy and of its MMA, the lowest subcode (R301). -/
  copyMmaErr (s : State) (e : Site) (ps : List Word) : Option Nat :=
    let one := fun (fn : Nat) (ps : List Word) => leaveCheck s (s.winBlock? e.cur.core e.cur.slot) e.cur.core (s.ctxOf e.b) fn ps 0
    match one 0x20 (ps.take 4), one 0x00 (ps.drop 5) with
    | some a, some b => some (min a b)
    | some a, none => some a
    | none, r => r

/-- The reply register of an XC. -/
def xcReply (f : XcF) (e : Site) : Option (Nat × List Nat × BitVec 7) :=
  match f.d with
  | .lane i => some (e.cur.slot, e.tids, i)
  | _ => none

/-- The number of the writes of the `j`-th command that an XC issues, for the order-stamp unit; that of its reads follows. -/
def xcUid (s : State) (j : Nat) : Nat := 2 ^ 80 + 2 * (2 ^ 17 * s.tick + j)

/-- The clock that the completion of a command releases, while the order-stamp unit runs: its XC and its writes (R160, R162). -/
def xcMark (s : State) (e : Site) (lvl uid : Nat) : Option RelMark :=
  if (s.launchOf e.b).race then
    some ⟨e.b.launch, e.b.lin, e.ref.ltid, lvl,
      Tab.set 0 (e.act.foldl (fun c th => Tab.join c (th.pubClk (threadUid e.b th.ltid))) []) uid 1⟩
  else none

/-- A command as it is queued, not yet left: the `j`-th of its XC. -/
def xcCmd (s : State) (e : Site) (j fn num order lvl : Nat) (ps : List Word) : Cmd :=
  let exact_ := s.isExact e.cur.slot e.b
  { Cmd.new with
    num := num, fn := fn, ps := ps, lvl := lvl, blk := some ⟨e.b.launch, e.b.lin⟩, core := e.cur.core, slot := e.cur.slot
    left := false, exact_ := exact_, order := order, mark := xcMark s e lvl (xcUid s j), pc := e.cur.pc, quad := e.cur.quad
    uid := xcUid s j, ph := if exact_ then some e.b.phase else none, det := (s.launchOf e.b).det }

/-- Queues commands on a stream. -/
def State.enqueue (s : State) (r : StreamRef) (qs : List Cmd) : State :=
  s.setStream r (let st := s.stream r; { st with q := st.q ++ qs })

/-- The numbers I of the core's matrix streams (R298). -/
def matrixI (s : State) (c : Nat) : List (Nat × Nat) :=
  (List.range 16).map (fun j => (j, Tab.get 0 (s.core c).arch.iNum j))

/-- The commands that one XC queues on its stream, numbered from `num` (R279, R284). The MSYNC entries of a TAIL take the streams' numbers
at the TAIL's issue, where the spec says only "at the MSYNC's issue" (R298; log 96). -/
def xcCmds (s : State) (e : Site) (fn eng stream num order : Nat) (f : XcF) (ps : List Word) (fmtw : Word) : List Cmd :=
  let cmd := fun (j : Nat) => xcCmd s e j fn num order f.lvl.toNat ps
  let q := cmd 0
  let q := { q with snapI := if eng = 0 && (fn = 0x07 || fn = 0x50) then matrixI s e.cur.core else [] }
  let rep := if eng = 3 then xcReply f e else none
  if fn = 0x50 then
    let k := (param ps 1).toNat
    (List.range k).map (fun j => { cmd j with
      snapI := q.snapI, num := num + j, fn := 0x7F, kind := .entry (j + 1 == k) (param ps 0), ps := []
      reply := if j + 1 = k then rep else none })
  else [{ q with slots := (xcSlots fn stream ps fmtw).map (fun p => p.2), reply := rep }]

/-- A command on a stream of a core's engines takes its numbers; the reply is written (R279). -/
def State.takeNumbers (s : State) (c key n : Nat) : State :=
  s.updArch c (fun a => { a with iNum := Tab.set 0 a.iNum key (Tab.get 0 a.iNum key + n) })

/-- What a command of an EXACT block sees of the block's own writes when it leaves: the phase store, and the stores to
RELEASE and STREAM pages that are held (R155, R161). -/
def exactView (s : State) (e : Site) : Overlay :=
  let ws := addNew [] ((e.b.pheld.flatMap keysOfHeld).map (fun k => k / 8))
  let own := issueOrder ((s.flights.filter (fun f => f.core == e.cur.core)).map (fun f => f.eff) ++ e.b.pheld)
  ws.foldl (fun v w => overWrite v (8 * w) (own.foldl (forward (8 * w)) (s.readMem (8 * w) 8))) e.b.pover

/-- Queued commands leave: with their chunk, or at once under EXACT (R139, R155, R161). -/
def State.xcLeave (s : State) (e : Site) (cs : List (Nat × Nat × Nat)) : State :=
  if s.isExact e.cur.slot e.b then
    cs.foldl (fun s c => s.leave e.cur.core c.1 c.2.1 c.2.2 (s.ctxOf e.b) (exactView s e)) s
  else
    let s := s.updChunk e.cur.core (fun h => { h with
      held := h.held ++ cs.map (fun c => Held.cmd c.1 c.2.1 c.2.2 (if h.suspend.isEmpty then none else some h.ovl)) })
    { s.closeAfter e.cur.core with cur := s.cur }

/-- The members go on, with a release of their clocks and the reply of a core's engine (R160, R162, R279). -/
def State.xcFinish (s : State) (e : Site) (f : XcF) (reply : Option Nat) : State :=
  let race := (s.launchOf e.b).race
  s.finish e (fun th =>
    let th := if race then th.tickClk (threadUid e.b th.ltid) else th
    (match reply with
      | some n => (th.setD f.d (BitVec.ofNat 64 n)).cleared f.d
      | none => th).next)

/-- A checked XC on a core's engine (R279). -/
def xcCore (s : State) (e : Site) (fn eng : Nat) (f : XcF) (ps : List Word) : State :=
  let stream := f.stream.toNat
  let r := xcStream s e eng stream
  let i := Tab.get 0 (s.core e.cur.core).arch.iNum (16 * eng + stream)
  let qs := xcCmds s e fn eng stream (i + 1) (i + 1) f ps (s.stream r).fmtAhead
  let s := (s.enqueue r qs).takeNumbers e.cur.core (16 * eng + stream) qs.length
  (s.xcFinish e f (some (i + qs.length))).xcLeave e [(eng, stream, i + 1)]

/-- COPYMMA: the copy on its stream, the MMA on the matrix stream that it names (R301). -/
def xcCopyMma (s : State) (e : Site) (f : XcF) (ps : List Word) : State :=
  let c := e.cur.core
  let st := f.stream.toNat
  let m := field (param ps 4) 0 4
  let i := Tab.get 0 (s.core c).arch.iNum (16 + st)
  let j := Tab.get 0 (s.core c).arch.iNum m
  let copy := { xcCmd s e 0 0x20 (i + 1) (i + 1) f.lvl.toNat (ps.take 4) with checked := true }
  let mma := { xcCmd s e 1 0x00 (j + 1) (j + 1) f.lvl.toNat (ps.drop 5) with
    slots := cmdSlots 0x00 (ps.drop 5) 0, mate := some (st, i + 1), checked := true }
  let s := ((s.enqueue (xcStream s e 1 st) [copy]).enqueue (xcStream s e 0 m) [mma]).takeNumbers c (16 + st) 1
  ((s.takeNumbers c m 1).xcFinish e f (some (i + 1))).xcLeave e [(1, st, i + 1), (0, m, j + 1)]

/-- A checked XC on the fabric engine, which numbers it when it arrives (R279). -/
def xcFabric (s : State) (e : Site) (fn : Nat) (f : XcF) (ps : List Word) : State :=
  let stream := f.stream.toNat
  let x := s.ctxOf e.b
  let order := (s.ctx x).dseq
  let qs := xcCmds s e fn 3 stream 0 order f ps 0
  let s := (s.enqueue (xcStream s e 3 stream) qs).updCtx x (fun c => { c with dseq := c.dseq + 1 })
  (s.xcFinish e f none).xcLeave e [(3, stream, order)]

/-- XC with function `fn` (R274-R279). -/
def xcIssue (i : Instr) (fn : Nat) (f : XcF) (s : State) : State :=
  issue i (fun e s =>
    match xcUniform s e fn f with
    | some x => s.fault e x
    | none =>
      match xcParams s e fn f with
      | .error va => s.fault e ⟨0x0A, 0, laneMask e.act, va⟩
      | .ok ps =>
        match xcEngine s e fn f ps with
        | some n => s.fault e ⟨0x0C, n, laneMask e.act, 0⟩
        | none =>
          let eng := engineOf fn (e.read s e.ref f.b).toNat
          let s := (s.acts e).noteSources e [f.b]
          if eng = 3 then xcFabric s e fn f ps
          else if fn = 0x21 then xcCopyMma s e f ps
          else xcCore s e fn eng f ps) s

/-- MMA (R292). -/
def execMma (x : XcF) (s : State) : XcOut := .next (xcIssue (.mma x) 0x00 x s)
/-- MFMT (R295). -/
def execMfmt (x : XcF) (s : State) : XcOut := .next (xcIssue (.mfmt x) 0x01 x s)
/-- ACCZ (R296). -/
def execAccz (x : XcF) (s : State) : XcOut := .next (xcIssue (.accz x) 0x02 x s)
/-- ACCLD (R296). -/
def execAccld (x : XcF) (s : State) : XcOut := .next (xcIssue (.accld x) 0x03 x s)
/-- ACCST (R296). -/
def execAccst (x : XcF) (s : State) : XcOut := .next (xcIssue (.accst x) 0x04 x s)
/-- CBLOAD (R297). -/
def execCbload (x : XcF) (s : State) : XcOut := .next (xcIssue (.cbload x) 0x05 x s)
/-- SCLOAD (R297). -/
def execScload (x : XcF) (s : State) : XcOut := .next (xcIssue (.scload x) 0x06 x s)
/-- MSYNC (R298). -/
def execMsync (x : XcF) (s : State) : XcOut := .next (xcIssue (.msync x) 0x07 x s)
/-- COPY (R300). -/
def execCopy (x : XcF) (s : State) : XcOut := .next (xcIssue (.copy x) 0x20 x s)
/-- COPYMMA (R301). -/
def execCopymma (x : XcF) (s : State) : XcOut := .next (xcIssue (.copymma x) 0x21 x s)
/-- GATHER (R300). -/
def execGather (x : XcF) (s : State) : XcOut := .next (xcIssue (.gather x) 0x22 x s)
/-- SCATTER (R300). -/
def execScatter (x : XcF) (s : State) : XcOut := .next (xcIssue (.scatter x) 0x23 x s)
/-- EXPAND (R300). -/
def execExpand (x : XcF) (s : State) : XcOut := .next (xcIssue (.expand x) 0x24 x s)
/-- FILL (R300). -/
def execFill (x : XcF) (s : State) : XcOut := .next (xcIssue (.fill x) 0x25 x s)
/-- PUBLISH (R300). -/
def execPublish (x : XcF) (s : State) : XcOut := .next (xcIssue (.publish x) 0x26 x s)
/-- RCOPY (R302). -/
def execRcopy (x : XcF) (s : State) : XcOut := .next (xcIssue (.rcopy x) 0x27 x s)
/-- CHAIN (R303). -/
def execChain (x : XcF) (s : State) : XcOut := .next (xcIssue (.chain x) 0x40 x s)
/-- TAIL (R284). -/
def execTail (x : XcF) (s : State) : XcOut := .next (xcIssue (.tail x) 0x50 x s)
/-- SEQ (R285). -/
def execSeq (x : XcF) (s : State) : XcOut := .next (xcIssue (.seq x) 0x51 x s)
/-- COLL (R308). -/
def execColl (x : XcF) (s : State) : XcOut := .next (xcIssue (.coll x) 0x60 x s)
/-- ARM (R306). -/
def execArm (x : XcF) (s : State) : XcOut := .next (xcIssue (.arm x) 0x61 x s)
/-- CNTRD (R306). -/
def execCntrd (x : XcF) (s : State) : XcOut := .next (xcIssue (.cntrd x) 0x62 x s)
/-- CNTADD (R306). -/
def execCntadd (x : XcF) (s : State) : XcOut := .next (xcIssue (.cntadd x) 0x63 x s)
/-- DISARM (R306). -/
def execDisarm (x : XcF) (s : State) : XcOut := .next (xcIssue (.disarm x) 0x64 x s)

end Sys2Proof.Machine
end

