-- ==== Sys2Proof/Machine/EngineRun.lean ====
section
/-! DEFINITION. How queued commands run: the conditions to start, the faults they meet, their pieces, their completion, chain
entries, deferred faults, retry and cancel (R280-R285, R298-R311, R348, R385). -/

namespace Sys2Proof.Machine

/-- The answer of an engine event. -/
abbrev EngOut := Host.Outcome State Fault Refusal

/-! ### The head of a stream -/

/-- The command at the head of a stream, once it has left its core. -/
def State.head? (s : State) (r : StreamRef) : Option Cmd :=
  match (s.stream r).q with
  | q :: _ => if q.left then some q else none
  | [] => none

/-- Replaces the head. -/
def State.setHead (s : State) (r : StreamRef) (f : Cmd → Cmd) : State :=
  let st := s.stream r
  match st.q with
  | q :: rest => s.setStream r { st with q := f q :: rest }
  | [] => s

def State.engOf (s : State) (r : StreamRef) (q : Cmd) : Eng := ⟨r, s.streamCtx r, q⟩

/-- A context all of whose placed blocks are pre-empted (R392). -/
def State.descheduled (s : State) (x : Nat) : Bool :=
  s.cores.any (fun (c : Nat × CoreSt) => c.2.saved.any (fun sv => sv.ctx == x))
    && !s.cores.any (fun (c : Nat × CoreSt) => c.2.arch.blocks.any (fun (b : Nat × Block) => s.ctxOf b.2 == x))

/-- The engines of a core stand still: its blocks are being pre-empted, or have been (R389). -/
def engStopped (s : State) (c : Nat) : Bool :=
  let k := s.core c
  k.preempt.isSome || (k.arch.blocks.isEmpty && k.saved.any (fun v => some v.ctx == k.engCtx))

/-- The turn of a command has come: what it waits for beside its stream (R298, R301). -/
def cmdTurn (s : State) (r : StreamRef) (q : Cmd) : Bool :=
  (match q.mate with
    | some (st, n) => n ≤ (s.stream ⟨1, r.unit, BitVec.ofNat 4 st⟩).c
    | none => true)
  && (q.fn != 0x07 || q.snapI.all (fun p => p.1 == r.stream.toNat || !(param q.ps 0).getLsbD p.1
      || p.2 ≤ (s.stream ⟨0, r.unit, BitVec.ofNat 4 p.1⟩).c))

/-! ### Ranges, checks and steps -/

/-- The block that issued a command, resident or pre-empted. -/
def State.cmdBlock (s : State) (q : Cmd) : Option Block := q.blk.bind s.issuer?

/-- A scratch range that fails R110 or R111 for the command's block. -/
def windowErr (s : State) (e : Eng) (va : Word) (n : Nat) : Option Nat :=
  match region va with
  | .aperture o => if n = 0 then none
    else match checkSliceOf s (s.cmdBlock e.cmd) e.cmd.core o n e.x with
      | .ok _ => none
      | .error .scratch => some 7
      | .error _ => some 6
  | _ => none

/-- The faults of the ranges that an index array names, the lowest first: an overlap, permissions, scratch windows, or more than
16 MiB of COMMITTED destination bytes (R111, R157, R282, R299). Bytes that several indices of a SCATTER name count once for each index, a
point that R157 leaves open (log 99, DESIGN CHOICE). -/
def indexedErr (s : State) (e : Eng) : Option Nat :=
  let rs := indexedRanges s e
  let rest := cmdRanges e.cmd.core e.cmd.fn e.cmd.ps 0
  let res := rs.map (fun r => (r.2.2, rangeCheck s (s.cmdBlock e.cmd) e.cmd.core e.x r))
  if rs.any (fun r => rest.any (fun q => r.2.2 != q.2.2 && overlap r q)) then some 1
  else if res.any (fun r => r.2 matches .error 6) then some 6
  else if res.any (fun r => r.2 matches .error _) then some 7
  else
    let com : List Nat := res.map (fun r => match r with
      | (.write, .ok k) => k
      | _ => 0)
    if 16 * 2 ^ 20 < com.sum then some 8 else none

/-- A completion word that cannot be written: cause and subcode (R280, R388). -/
def wordErr (s : State) (e : Eng) (w : Word) : Option (Nat × Nat) :=
  if w = 0 then none
  else match windowErr s e w 8 with
    | some n => some (0x0C, n)
    | none => match engStatus s e [(w, 8, .write)] with
      | .fail c n => some (if c = 0x0B then (c, n) else (0x0C, 6))
      | _ => none

/-- COMMITTED destination bytes of a command of a core's engine, as far as its pages are present now (R157, R282). -/
def dstBytes (s : State) (e : Eng) (st : Stream) : Nat :=
  let own := (cmdRanges e.cmd.core e.cmd.fn e.cmd.ps st.fmtw).filter (fun r => r.2.2 == .write)
  let named := if e.cmd.fn = 0x23 && (4 * field (param e.cmd.ps 3) 0 32 + 4095) / 4096 ≤ e.cmd.done then indexedRanges s e else []
  ((own ++ named).map (fun r => comBytes s e r.1 r.2.1)).sum

/-- The limit of 16 MiB at execution: of a command alone, whose pages may have come since it left, and of a deferred publish with what its
stream holds (R157, R282). -/
def dstErr (s : State) (e : Eng) (st : Stream) : Option (Nat × Nat) :=
  let held := if e.cmd.fn = 0x20 && (param e.cmd.ps 3).getLsbD 0 then st.nHeld else 0
  if e.r.eng ≠ 3 && 16 * 2 ^ 20 < held + dstBytes s e st then some (0x0C, 8) else none

/-- The aligned words of a source of `tot` bytes at `w` that begin in its `n` bytes from place `o` on, so that no cut parts a word
(R123). -/
def wordPart (w : Word) (tot o n : Nat) : Word × Nat × Need :=
  let up := fun (k : Nat) => if k = 0 then 0 else min tot (k + (8 - (w.toNat + k) % 8) % 8)
  (w + BitVec.ofNat 64 (up o), up (o + n) - up o, .read)

/-- Unit `i` of `tot` things, `unit` at a time: its start and size. -/
def unitAt (tot unit i : Nat) : Option (Nat × Nat) :=
  if i * unit < tot then some (i * unit, min unit (tot - i * unit)) else none

/-- Elements of GATHER and SCATTER in a unit of 4 KiB, and units of their index array. -/
def perUnit (ps : List Word) : Nat := max 1 (4096 / 2 ^ field (param ps 4) 0 4)
def idxUnits (ps : List Word) : Nat := (4 * field (param ps 3) 0 32 + 4095) / 4096

/-- The ranges of step `i` of a command, none past its last step, sources by whole words: 4 KiB units of the copy functions, an index array before the
elements that it names, elements of CHAIN, rows of ACCLD and ACCST, and other commands whole (R299, R389). -/
def cmdStep (s : State) (e : Eng) (st : Stream) (i : Nat) : Option (List (Word × Nat × Need)) :=
  let ps := e.cmd.ps
  let p := param ps
  let at_ := fun (w : Word) (o : Nat) => w + BitVec.ofNat 64 o
  match e.cmd.fn with
  | 0x20 => (unitAt (field (p 2) 0 40) 4096 i).map (fun u =>
      [(at_ (p 0) u.1, u.2, .write), wordPart (p 1) (field (p 2) 0 40) u.1 u.2])
  | 0x27 => (unitAt (field (p 2) 0 40) 4096 i).map (fun u => [wordPart (p 1) (field (p 2) 0 40) u.1 u.2])
  | 0x25 => (unitAt (field (p 1) 0 40) 4096 i).map (fun u => [(at_ (p 0) u.1, u.2, .write)])
  | 0x24 => (unitAt (field (p 2) 0 32) 4096 i).map (fun u =>
      [(at_ (p 0) u.1, u.2, .write), wordPart (p 1) (field (p 2) 0 32 / 4 * 3) (u.1 / 4 * 3) (u.2 / 4 * 3)])
  | 0x40 =>
    let w := chainBytes (field (p 3) 40 3)
    if field (p 3) 0 40 ≤ i then none
    else
      let tot := w * field (p 3) 0 40
      some ([(at_ (p 0) (w * i), w, .write), wordPart (p 1) tot (w * i) w]
        ++ (if chainUsesY (p 4) 8 then [wordPart (p 2) tot (w * i) w] else []))
  | fn =>
    if fn = 0x22 || fn = 0x23 then
      if i < idxUnits ps then (unitAt (4 * field (p 3) 0 32) 4096 i).map (fun u => [wordPart (p 2) (4 * field (p 3) 0 32) u.1 u.2])
      else (unitAt (field (p 3) 0 32) (perUnit ps) (i - idxUnits ps)).map (fun u =>
        let n := 2 ^ field (p 4) 0 4
        (if fn = 0x22 then (at_ (p 0) (u.1 * n), u.2 * n, Need.write) else wordPart (p 1) (n * field (p 3) 0 32) (u.1 * n) (u.2 * n))
          :: (List.range u.2).map (fun j => (indexedVa s e (u.1 + j), n, if fn = 0x22 then Need.read else Need.write)))
    else if fn = 0x03 || fn = 0x04 then ((cmdRanges e.cmd.core fn ps st.fmtw)[i]?).map (fun r => [r])
    else if i = 0 then some (cmdRanges e.cmd.core fn ps st.fmtw) else none

/-- Steps of a command. -/
def cmdSteps (ps : List Word) (fn : Nat) : Nat :=
  let p := param ps
  match fn with
  | 0x20 => (field (p 2) 0 40 + 4095) / 4096
  | 0x27 => (field (p 2) 0 40 + 4095) / 4096
  | 0x25 => (field (p 1) 0 40 + 4095) / 4096
  | 0x24 => (field (p 2) 0 32 + 4095) / 4096
  | 0x40 => field (p 3) 0 40
  | 0x22 => idxUnits ps + (field (p 3) 0 32 + perUnit ps - 1) / perUnit ps
  | 0x23 => idxUnits ps + (field (p 3) 0 32 + perUnit ps - 1) / perUnit ps
  | 0x03 => shM (p 0)
  | 0x04 => shM (p 0)
  | _ => 1

/-- Bytes of a command's output, from its start, whose inputs the steps done have read. -/
def readyBytes (ps : List Word) (fn : Nat) (fmtw : Word) (done : Nat) : Nat :=
  let p := param ps
  match fn with
  | 0x40 => chainBytes (field (p 3) 40 3) * done
  | 0x22 => perUnit ps * 2 ^ field (p 4) 0 4 * (done - idxUnits ps)
  | 0x23 => perUnit ps * 2 ^ field (p 4) 0 4 * (done - idxUnits ps)
  | 0x04 => shN (p 0) * ofmtBytes (field fmtw 17 4) * done
  | _ => 4096 * done

/-- What is left of a command's ranges: those of its steps that are not done, and those of its writes that have not landed. -/
def restRanges (s : State) (e : Eng) (st : Stream) : List (Word × Nat × Need) :=
  let rs := cmdRanges e.cmd.core e.cmd.fn e.cmd.ps st.fmtw ++ indexedRanges s e
  if e.cmd.done = 0 then rs
  else (List.range (cmdSteps e.cmd.ps e.cmd.fn - e.cmd.done)).flatMap (fun i => (cmdStep s e st (e.cmd.done + i)).getD [])
    ++ (if e.cmd.landed.isEmpty then rs.filter (fun r => r.2.2 == .write)
      else (writesLeft e.cmd.landed (cmdWrites s e (s.core e.r.unit).eng st)).map (fun w => (w.1, w.2.length, Need.write)))

/-- The units of the engine's stores whose data a command consumes (R388). -/
def storeUnits (eng : Engines) (ps : List Word) (fn : Nat) (fmtw : Word) : List Nat :=
  let p := param ps
  let slots := fun (r : Option (Nat × Nat)) => r.elim [] (fun r => (List.range r.2).map (fun i => r.1 + i))
  let used := if fn = 0x00 then
      (if (p 3).getLsbD 48 then [] else slots (cmdSlots 0x00 ps fmtw))
        ++ (if field (p 2) 0 4 = 9 then [128 + field (p 2) 11 3] else []) ++ (if field (p 2) 4 4 = 9 then [128 + field (p 2) 14 3] else [])
        ++ (if (p 2).getLsbD 9 then [136] else []) ++ (if (p 2).getLsbD 10 then [137] else [])
    else if fn = 0x04 then slots (cmdSlots 0x04 ps fmtw) else []
  used.filter (fun u => eng.bad.contains u)

/-- The units of the engine's stores that a command writes anew, whose data are good again (R388). -/
def storesMended (ps : List Word) (fn : Nat) (fmtw : Word) : List Nat :=
  let p := param ps
  let slots := fun (r : Option (Nat × Nat)) => r.elim [] (fun r => (List.range r.2).map (fun i => r.1 + i))
  match fn with
  | 0x00 => if (p 3).getLsbD 48 then slots (cmdSlots 0x00 ps fmtw) else []
  | 0x02 => slots (cmdSlots 0x02 ps fmtw)
  | 0x03 => slots (cmdSlots 0x03 ps fmtw)
  | 0x05 => (List.range (field (p 1) 4 3 + 1)).map (fun i => 128 + field (p 1) 0 3 + i)
  | 0x06 => [136 + field (p 1) 0 1]
  | _ => []

/-! ### Entries (R283, R307) -/

/-- Depth of the tree of a command's launch. -/
def cmdDepth (s : State) (q : Cmd) : Nat :=
  match q.blk.bind (fun id => s.launch? id.launch) with
  | some l => l.tree.depth
  | none => 16

/-- The words of an entry. -/
def entryWords (s : State) (e : Eng) (va : Word) : List Word :=
  let bs := engRead s e va 64
  (List.range 8).map (fun i => BitVec.ofNat 64 (numAt bs (8 * i) 8))

/-- The header of an entry has a reserved bit set (R283). -/
def headerBad (w : Word) (arm : Bool) : Bool := w.getLsbD 7 || field w 16 48 ≠ 0 || (!arm && entryStream w ≠ 0)

/-- An invalid entry of a stream's chain (R283). -/
def entryBad (s : State) (q : Cmd) (eng : Nat) (ws : List Word) : Bool :=
  let w := param ws 0
  let fn := entryFn w
  headerBad w false || !fnAssigned fn || fn = 0x50 || fn = 0x51 || fn = 0x21 || engineOf fn 0 ≠ eng || 6 < fnParams fn
    || cmdDepth s q ≤ entryLvl w

/-- An invalid operation of ARM: R307 names a wrong `fn`; a reserved header bit, or a level at or above the tree's depth, counts as one too
(log 100, DESIGN CHOICE). -/
def armBad (s : State) (q : Cmd) (ws : List Word) : Bool :=
  let w := param ws 0
  let fn := entryFn w
  headerBad w true || !(fn = 0x27 || fn = 0x60 || fn = 0x63) || cmdDepth s q ≤ entryLvl w

/-! ### The stages of a COLL -/

/-- The parameter block of a COLL, as the engine has read it (R308). -/
def collPb (s : State) (e : Eng) : List Byte := engRead s e (param e.cmd.ps 0) 128

/-- The parameter block has been read. -/
def collRead (e : Eng) : Bool := (engUnread e (param e.cmd.ps 0) 128).isEmpty

/-- The trigger has been reached (R308). -/
def collTriggered (s : State) (x : Nat) (pb : List Byte) : Bool :=
  let t := numAt pb 0x42 6
  t = 0 || t ≤ (Tab.get 0 (s.ctx x).counters (numAt pb 0x40 8 % 1024)).toNat

/-- The collective is expanded by the host: it has been posted to it, or collectives of the context are, before it has begun to read its
send buffer (R374, R411). -/
def collAssisted (s : State) (e : Eng) : Bool := e.cmd.done = 1 || (e.cmd.sent = 0 && (s.ctx e.x).mode.getLsbD 3)

/-- The collective that a started COLL runs, with its group. -/
def collOf (s : State) (e : Eng) : Option (GroupEntry × CollSt) :=
  if e.cmd.done < 2 then none
  else match s.groupOf e.x (numAt (collPb s e) 8 2) with
    | none => none
    | some g => (s.coll? g.handle e.r.stream.toNat (e.cmd.done - 2)).map (fun c => (g, c))

/-- What a rank knows of its collective. -/
def collCtx (pb : List Byte) (g : GroupEntry) : CollCtx := ⟨pb, g.handle, g.size, g.rank⟩

/-- The send and the receive buffer of a collective at this rank (R309). -/
def collSend (pb : List Byte) (g : GroupEntry) : Word × Nat × Need := (collSendVa pb, collSendBytes pb g.size g.rank, .read)
def collRecv (pb : List Byte) (g : GroupEntry) : Word × Nat × Need :=
  (BitVec.ofNat 64 (numAt pb 0x18 8), collRecvBytes pb g.size g.rank, .write)

/-- The next 4 KiB unit of the send buffer that has not been read. -/
def collUnread (e : Eng) (r : Word × Nat × Need) : List (Word × Nat × Need) :=
  ((List.range ((r.2.1 + 4095) / 4096)).findSome? (fun i =>
    let u := wordPart r.1 r.2.1 (4096 * i) (min 4096 (r.2.1 - 4096 * i))
    if (engUnread e u.1 u.2.1).isEmpty then none else some u)).toList

/-- The completion word of a collective (R308). -/
def collWord (pb : List Byte) : List (Word × Nat × Need) :=
  if numAt pb 0x30 8 = 0 then [] else [(BitVec.ofNat 64 (numAt pb 0x30 8), 8, Need.write)]

/-- The ranges that a collective writes at its end: the receive buffer or what its step list has written, and the completion word
(R154, R158). -/
def collRanges (pb : List Byte) (g : GroupEntry) (c : CollSt) : List (Word × Nat × Need) :=
  (if c.steps.isSome then c.outs.map (fun o => (o.1, o.2, Need.write)) else [collRecv pb g]) ++ collWord pb

/-- A range of a collective is written in place, and held for it (R158). -/
def inPlaceFor (s : State) (e : Eng) (c : CollSt) (r : Word × Nat × Need) : Bool :=
  c.kept.isSome && (engPieces s e r.1 r.2.1 .write).any (fun p => match p.2.2 with
    | .at k _ _ => (c.kept.getD []).any (fun b => b.1 / 256 == k / 256)
    | _ => false)

/-- The entry of a step list at a device physical address, as bytes (R411, R429). -/
def stepAt (s : State) (a : Nat) : List Byte := s.readMem (a % 2 ^ 56) 32

/-- An unassigned op, or a non-zero zero field, of a step (R411). -/
def stepBad (st : List Byte) : Bool :=
  let op := numAt st 0 1
  (4 < op && op ≠ 0xFF) || numAt st 1 1 ≠ 0 || numAt st 0x1C 4 ≠ 0

/-- The ranges of a step: the local bytes that it reads or writes. -/
def stepRanges (s : State) (a : Nat) : List (Word × Nat × Need) :=
  let st := stepAt s a
  let loc := BitVec.ofNat 64 (numAt st 8 8)
  match numAt st 0 1 with
  | 0 => [(loc, numAt st 0x18 4, .read)]
  | 1 => [(loc, numAt st 0x18 4, .read)]
  | 2 => [(loc, numAt st 0x18 4, .write)]
  | 4 => [(loc, numAt st 0x18 4, .write)]
  | _ => []

/-- A buffer or the completion word of a collective that meets R107, kind 3 or a missing permission, or fails R110 or R111 (R282). -/
def collBufErr (s : State) (e : Eng) (r : Word × Nat × Need) : Option (Nat × Nat) :=
  match rangeCheck s (s.cmdBlock e.cmd) e.cmd.core e.x r with
  | .error n => some (0x0C, n)
  | .ok _ => none

/-- The fault that a COLL meets, and the ranges that it waits on next (R308-R310). -/
def collTrouble (s : State) (e : Eng) : Option (Nat × Nat) × List (Word × Nat × Need) :=
  let bad := fun (rs : List (Word × Nat × Need)) => match engStatus s e rs with
    | .fail c n => some (c, n)
    | _ => none
  if !collRead e then
    let own := [(param e.cmd.ps 0, 128, Need.read)]
    ((windowErr s e (param e.cmd.ps 0) 128).map (fun n => (0x0C, n)) <|> bad own, own)
  else
    let pb := collPb s e
    if e.cmd.done < 2 then
      if collBad pb then (some (0x0C, 0x0A), [])
      else match s.groupOf e.x (numAt pb 8 2) with
      | none => (some (0x0C, 0x0C), [])
      | some g =>
        if g.size ≤ numAt pb 0x0A 2 then (some (0x0C, 0x0C), [])
        else if collAssisted s e || !collTriggered s e.x pb then (none, [])
        else
          let rs := collUnread e (collSend pb g)
          (collBufErr s e (collSend pb g) <|> collBufErr s e (collRecv pb g) <|> (collWord pb).findSome? (collBufErr s e) <|> bad rs, rs)
    else match collOf s e with
      | none => (none, [])
      | some (g, c) =>
        match c.abort with
        | some n => (some (0x10, n), [])
        | none =>
          let rs := match c.steps, c.go with
            | some a, false => if numAt (stepAt s a) 0 1 = 0xFF then [] else stepRanges s a
            | _, true => (collRanges pb g c).filter (fun r => !inPlaceFor s e c r)
            | none, false => if c.pulled.isSome then collUnread e (collSend pb g) else []
          ((if c.steps.isSome && !c.go then (rs.findSome? (collBufErr s e)) else none) <|> bad rs, rs)

/-! ### Faults after the leave (R281) -/

/-- A range's failure. -/
def failOf (s : State) (e : Eng) (rs : List (Word × Nat × Need)) : Option (Nat × Nat) :=
  match engStatus s e rs with
  | .fail c n => some (c, n)
  | _ => none

/-- The ranges whose pages and data a command at its turn depends on: those of its next step (R385). -/
def headRanges (s : State) (e : Eng) (st : Stream) : List (Word × Nat × Need) :=
  let p := param e.cmd.ps
  if e.cmd.final then (if st.w = 0 then [] else [(st.w, 8, .write)])
  else match e.cmd.fn with
    | 0x7F => if st.pos = 0 then [] else [(st.pos, 64, .read)]
    | 0x60 => (collTrouble s e).2
    | 0x27 => if e.cmd.sent = 0 then (cmdStep s e st e.cmd.done).getD [] else []
    | 0x61 => [(p 2, 64, .read)]
    | 0x51 => if p 0 = 0 then [] else [(p 0, 8, .write)]
    | fn => if fn < 0x60 then (cmdStep s e st e.cmd.done).getD (restRanges s e st) else []

/-- The fault that the head of a stream meets: cause code and subcode (R281, R282). -/
def headTrouble (s : State) (r : StreamRef) (st : Stream) (q : Cmd) : Option (Nat × Nat) :=
  let e := s.engOf r q
  let p := param q.ps
  if q.final then wordErr s e st.w <|> q.leaveErr.map (fun n => (0x0C, n))
  else match q.leaveErr with
  | some n => some (0x0C, n)
  | none =>
    if !cmdTurn s r q then none
    else match failOf s e (headRanges s e st) with
    | some f => some f
    | none =>
      match q.fn with
      | 0x7F => if st.pos = 0 then none else (windowErr s e st.pos 64).map (fun n => (0x0C, n))
      | 0x51 => wordErr s e (p 0)
      | 0x20 => dstErr s e st
      | 0x22 => (if q.done = idxUnits q.ps then (indexedErr s e).map (fun n => (0x0C, n)) else none) <|> dstErr s e st
      | 0x23 => (if q.done = idxUnits q.ps then (indexedErr s e).map (fun n => (0x0C, n)) else none) <|> dstErr s e st
      | 0x27 => if q.sent ≠ 0 then none
        else match s.groupOf e.x (field (p 3) 0 16) with
        | none => some (0x0C, 0x0C)
        | some g => if g.size ≤ field (p 3) 16 12 then some (0x0C, 0x0C) else none
      | 0x63 =>
        if field (p 0) 16 16 = 0 || q.sent ≠ 0 then none
        else match s.groupOf e.x (field (p 0) 16 16) with
        | none => some (0x0C, 0x0C)
        | some g => if g.size ≤ field (p 0) 32 12 then some (0x0C, 0x0C) else none
      | 0x61 =>
        if engStatus s e [(p 2, 64, .read)] != .ok then none
        else if armBad s q (entryWords s e (p 2)) then some (0x0C, 9)
        else if (p 1).toNat ≤ (Tab.get 0 (s.ctx e.x).counters (field (p 0) 0 10)).toNat then none
        else if 256 ≤ (s.ctx e.x).arms.length then some (0x0C, 0x0B) else none
      | 0x60 => (collTrouble s e).1
      | fn => if r.eng = 0 && !(storeUnits (s.core r.unit).eng q.ps fn st.fmtw).isEmpty then some (0x0B, 6) else dstErr s e st

/-- The head has left, waits for nothing, and meets no fault. -/
def headClear (s : State) (r : StreamRef) : Option (Stream × Cmd × Eng) :=
  let st := s.stream r
  match s.head? r with
  | none => none
  | some q =>
    if st.fault.isSome || !q.wait.isEmpty || (headTrouble s r st q).isSome || !cmdTurn s r q then none
    else some (st, q, s.engOf r q)

/-- The engine of a stream stands still: its core is being pre-empted, or its context is descheduled (R389, R392). -/
def streamStopped (s : State) (r : StreamRef) : Bool := if r.eng = 3 then s.descheduled (s.streamCtx r) else engStopped s r.unit

/-- The head may go on. -/
def headReady (s : State) (r : StreamRef) : Option (Stream × Cmd × Eng) := if streamStopped s r then none else headClear s r

/-- The head goes on when the pages of its next step are present and their lines free; otherwise it posts its requests and waits (R385). -/
def State.withHead (s : State) (r : StreamRef) (k : Stream → Cmd → Eng → State → State) : State :=
  match headReady s r with
  | none => s
  | some (st, q, e) =>
    match engStatus s e (headRanges s e st) with
    | .ok => k st q e s
    | .wait ws => s.engWait e ws (fun ts s => s.setHead r (fun q => { q with wait := ts }))
    | _ => s

/-! ### Steps (R123, R156, R385, R389) -/

/-- A command reads one unit of its sources. -/
def State.readPiece (s : State) (e : Eng) (p : Nat × Nat) : State :=
  let bs := engNow s e (BitVec.ofNat 64 p.1) p.2
  (s.engNote e [(BitVec.ofNat 64 p.1, p.2, .read)]).setHead e.r (fun q => { q with got := overWrite q.got p.1 bs })

/-- The units of some ranges that a command has still to read. -/
def unreadOf (e : Eng) (rs : List (Word × Nat × Need)) : List (Nat × Nat) :=
  (rs.filter (fun r => r.2.2 == .read)).flatMap (fun r => engUnread e r.1 r.2.1)

/-- A command reads all that is left of some ranges. -/
def State.readAll (s : State) (e : Eng) (rs : List (Word × Nat × Need)) : State := (unreadOf e rs).foldl (fun s p => s.readPiece e p) s

/-- A command reads one of those units, or all of them, whichever comes next (R156). -/
def State.readSome (s : State) (e : Eng) (rs : List (Word × Nat × Need)) : State :=
  let ps := unreadOf e rs
  match Config.freePick s.tick % (ps.length + 1) with
  | 0 => s.readAll e rs
  | n + 1 => (ps[n]?).elim s (s.readPiece e)

/-- The step of a command in progress comes to its end. -/
def State.endStep (s : State) (e : Eng) (rs : List (Word × Nat × Need)) : State :=
  (s.readAll e rs).setHead e.r (fun q => { q with done := q.done + 1 })

/-- The units of RELEASE and STREAM pages that a command can write now, with the keys of their places: their inputs have been read,
and they have not landed (R118, R157). -/
def landable (s : State) (e : Eng) (st : Stream) : List (OutPiece × Nat) :=
  let n := readyBytes e.cmd.ps e.cmd.fn st.fmtw e.cmd.done
  if n = 0 then []
  else ((outPieces (cmdWrites s e (s.core e.r.unit).eng st)).filter (fun p =>
      p.pos + p.bytes.length ≤ n && pieceLeft e.cmd.landed p)).filterMap (fun p => match engPiece s e p.va .write with
    | .at k kind _ => if kind = 0 then none else some (p, k)
    | _ => none)

/-- One such unit lands. -/
def State.landUnit (s : State) (e : Eng) (p : OutPiece × Nat) : State :=
  ((s.engNote e [(BitVec.ofNat 64 p.1.va, p.1.bytes.length, .write)]).engLand [(p.2, p.1.bytes)]).setHead e.r (fun q => { q with
    landed := (p.1.pos, p.1.va, p.1.bytes.length) :: q.landed })

/-- A move of an engine within a command: the step in progress is read to its end, one unit of it is read, or one unit of the output
lands, whichever comes next (R118, R123, R156; log 22). -/
def State.stepMove (s : State) (st : Stream) (e : Eng) : State :=
  let rs := cmdStep s e st e.cmd.done
  let reads := (rs.map (unreadOf e)).getD []
  let lands := if e.r.eng = 3 then [] else landable s e st
  let m := (if rs.isSome then 1 else 0) + reads.length
  let k := Config.freePick s.tick % max 1 (m + lands.length)
  if k < m then
    match k, rs with
    | 0, some rs => s.endStep e rs
    | k, _ => match reads[k - 1]? with
      | some p => s.readPiece e p
      | none => s
  else match lands[k - m]? with
    | some p => s.landUnit e p
    | none => s

/-! ### Performing -/

/-- ARM at its turn (R307). -/
def State.arm (s : State) (e : Eng) : State :=
  let p := param e.cmd.ps
  let a : Arm := ⟨field (p 0) 0 10, p 1, entryWords s e (p 2), e.cmd.blk, e.cmd.core, e.cmd.slot, e.cmd.det⟩
  let s := s.engNote e [(p 2, 64, .read)]
  if (p 1).toNat ≤ (Tab.get 0 (s.ctx e.x).counters a.counter).toNat then s.fire e.x a
  else s.updCtx e.x (fun c => { c with arms := c.arms ++ [a] })

/-- The writes of a command of a core's engine that have not landed, and the publish of its COMMITTED bytes (R157, R299). -/
def State.coreWrites (s : State) (e : Eng) (ws : List (Word × List Byte)) (dpub : Bool) : State :=
  let w := engSplit s e (writesLeft e.cmd.landed ws)
  let s := s.engLand w.2
  if dpub then
    let st := s.stream e.r
    s.setStream e.r { st with held := w.1.foldl (fun o c => Tab.put o c.1 c.2) st.held, nHeld := st.nHeld + w.1.length }
  else s.engPublish e w.1

/-- The effects of a command of a core's engine. -/
def State.performCore (s : State) (e : Eng) (st : Stream) : State :=
  let k := s.core e.r.unit
  let ws := cmdWrites s e k.eng st
  let loc := cmdLocal s e k.eng st
  let good := storesMended e.cmd.ps e.cmd.fn st.fmtw
  let s := s.engNote e (restRanges s e st)
  let s := s.updCore e.r.unit (fun k => { k with eng := { loc.1 with
    streams := k.eng.streams, bad := k.eng.bad.filter (fun u => !good.contains u) } })
  let s := s.setStream e.r loc.2
  s.coreWrites e ws (e.cmd.fn = 0x20 && (param e.cmd.ps 3).getLsbD 0)

/-- MMA begins: it reads the codebook and the scale store as they are now (R292). -/
def Eng.begun (s : State) (e : Eng) : Eng :=
  if e.r.eng = 0 && e.cmd.fn = 0 && e.cmd.stores.isNone then
    { e with cmd := { e.cmd with stores := some ((s.core e.r.unit).eng.cbook, (s.core e.r.unit).eng.scale) } }
  else e

/-- A command of a core's engine begins, if it has not. -/
def State.begin (s : State) (e : Eng) : State := s.setHead e.r (fun q => { q with stores := e.cmd.stores })

/-- A command of a core's engine goes through its steps as far as pages, data and checks allow; `n` bounds them. -/
def State.runSteps (s : State) (r : StreamRef) (n : Nat) : State :=
  match n with
  | 0 => s
  | n + 1 => (s.withHead r (fun st q e s => match cmdStep s e st q.done with
      | some rs => s.endStep e rs
      | none => s)).runSteps r n

/-- A command of a core's engine comes to its end: at once when nothing hinders it, otherwise step by step (R385). -/
def State.finishCore (s : State) (st : Stream) (q : Cmd) (e : Eng) : State :=
  let go := fun (st : Stream) (e : Eng) (s : State) => (s.performCore e st).setHead e.r (fun q => { q with final := true })
  let clear := fun (s : State) (e : Eng) (st : Stream) => engStatus s e (restRanges s e st) == .ok
    && !((q.fn = 0x22 || q.fn = 0x23) && e.cmd.done ≤ idxUnits q.ps && (indexedErr s e).isSome)
  let e := e.begun s
  if clear s e st then go st e s
  else ((s.begin e).runSteps e.r (cmdSteps q.ps q.fn - q.done)).withHead e.r (fun st _ e s => if clear s e st then go st e s else s)

/-! ### The end of a collective (R154, R158, R308) -/

/-- The completion word's releases, by 8-byte unit (R160, R162). -/
def State.markWord (s : State) (e : Eng) (key : Nat) : State :=
  match e.cmd.mark with
  | some m =>
    let put := fun (t : Tab (List RelMark)) (u : Nat) => Tab.set [] t u (m :: Tab.get [] t u)
    s.updCtx e.x (fun c => { c with locClk := (unitsOf key 8).foldl put c.locClk })
  | none => s

/-- A 64-bit word is written with the command's release (R160, R280). -/
def State.releaseWord (s : State) (e : Eng) (w : Word) (v : Nat) : State :=
  let s := s.engNote e [(w, 8, .write)]
  let ws := engSplit s e [(w, natLe 8 v)]
  let s := (s.engLand ws.2).engPublish e ws.1
  (ws.1.head?.map (fun c => c.1) <|> ws.2.head?.map (fun c => c.1)).elim s (fun k => s.markWord e k)

/-- The buffers that a collective publishes, each as a list of writes: what its plan has formed, or what its step list has written, its
receive buffer as one (R154, R411). -/
def collBuffers (s : State) (e : Eng) (g : GroupEntry) (c : CollSt) (pb : List Byte) : List (List (Word × List Byte)) :=
  if c.steps.isSome then
    let r := collRecv pb g
    let of := fun (o : Word × Nat) => (o.1, engRead s e o.1 o.2)
    let mine := fun (o : Word × Nat) => overlap r (o.1, o.2, .write)
    (c.outs.filter mine).map of :: (c.outs.filter (fun o => !mine o)).map (fun o => [of o])
  else [[((collRecv pb g).1, (collCtx pb g).result c.msgs)]]

/-- A collective's COMMITTED bytes above 16 MiB are written in place, their lines kept and held (R158). -/
def State.placeColl (s : State) (e : Eng) (g : GroupEntry) (c : CollSt) (o : Overlay) : State :=
  let ls := addNew [] (o.map (fun b => b.1 / 256))
  let kept := ls.foldl (fun k l => overWrite k (256 * l) (s.readMem (256 * l) 256)) []
  let s := s.writeSave e.x
  ({ s with mem := Memory.apply s.mem o, heldLines := addNew s.heldLines ls }).updColl g.handle c.stream c.k (fun c => { c with kept := some kept })

/-- The end of a collective on this rank: its buffers, each published by itself, then its completion word (R154, R158, R308). -/
def State.performColl (s : State) (e : Eng) (g : GroupEntry) (c : CollSt) : State × Bool :=
  let pb := collPb s e
  let bufs := collBuffers s e g c pb
  let big := bufs.filter (fun b => 16 * 2 ^ 20 < (engSplit s e b).1.length)
  if !big.isEmpty && c.kept.isNone && !e.cmd.exact_ then (s.placeColl e g c (engSplit s e (big.flatMap (fun b => b))).1, false)
  else
    let s := { s with heldLines := s.heldLines.filter (fun l => !((c.kept.getD []).any (fun b => b.1 / 256 == l))) }
    let s := s.updColl g.handle c.stream c.k (fun c => { c with kept := none })
    let s := s.engNote e (collRanges pb g { c with kept := none })
    let s := bufs.foldl (fun s b =>
      let w := engSplit s e b
      (s.engLand w.2).engPublish e w.1) s
    let s := if numAt pb 0x30 8 = 0 then s
      else
        let va := BitVec.ofNat 64 (numAt pb 0x30 8)
        let now := { e with cmd := { e.cmd with view := if e.cmd.exact_ || e.cmd.isFired then e.cmd.view else [] } }
        s.releaseWord e va (leNat (engNow s now va 8) + numAt pb 0x38 8)
    (s.closeColl e.x g.handle e.r.stream.toNat c.k, true)

/-! ### Completion (R280) -/

/-- The effects of the head of a fabric stream, of PUBLISH and of SEQ: the state, and whether they are final. -/
def State.performHead (s : State) (st : Stream) (q : Cmd) (e : Eng) : State × Bool :=
  let p := param q.ps
  match q.fn with
  | 0x26 => if st.held.any (fun b => linesHeld s e.x b.1 1) then (s, false)
    else ((s.setStream e.r { st with held := [], nHeld := 0 }).engPublish e st.held, true)
  | 0x51 => (s.setStream e.r { st with w := p 0, pos := if p 1 = 0 then st.pos else p 1 }, true)
  | 0x61 => (s.arm e, true)
  | 0x62 =>
    (((s.setHead e.r (fun q => { q with reply := none })).dropL1 q.core true).reply q
      (Tab.get 0 (s.ctx e.x).counters (field (p 0) 0 10)), true)
  | 0x63 => if field (p 0) 16 16 = 0 then (s.addSeen e.x (field (p 0) 0 10) (p 1) (firedView e), true) else (s, false)
  | 0x64 => (s.updCtx e.x (fun c => { c with arms := c.arms.filter (fun a => a.counter != field (p 0) 0 10) }), true)
  | 0x27 => (s, false)
  | 0x7F => (s, false)
  | 0x60 => match collOf s e with
    | some (g, c) => if c.go && c.abort.isNone then s.performColl e g c else (s, false)
    | none => (s, false)
  | _ => (s, e.r.eng = 3)

/-- The next chain entry's address, once an entry has been executed (R284). -/
def nextPos (st : Stream) (q : Cmd) : Word :=
  match q.kind with
  | .entry _ _ => param q.ps 6
  | _ => st.pos

/-- A stream's completion word receives a number (R160, R280). -/
def State.writeWord (s : State) (e : Eng) (w : Word) (n : Nat) : State := if w = 0 then s else s.releaseWord e w n

/-- The completion of a command whose effects are final: C, the completion word, and the next command's turn (R280). No word is
written while a priority chunk is open (R46). -/
def State.completeHead (s : State) (r : StreamRef) : State :=
  if prioOpen s then s
  else s.withHead r (fun st q e s =>
    if !q.final then s
    else
      let s := s.writeWord e st.w q.num
      let st := s.stream r
      s.setStream r { st with c := q.num, pos := nextPos st q, q := st.q.tail })

/-- A command that a core's engine carries out in steps: not PUBLISH, SEQ or an entry that has not been read. -/
def stepped (q : Cmd) : Bool := q.fn < 0x60 && q.fn != 0x26 && q.fn != 0x27 && q.fn != 0x51

/-- ENGINE_COMMAND_COMPLETE (R280); what it publishes waits while a priority chunk is open (R46, R157). -/
def execEngineCommandComplete (r : StreamRef) (s : State) : EngOut :=
  if prioOpen s then .next s
  else
  let s := s.withHead r (fun st q e s =>
    if q.final then s
    else if stepped q then s.finishCore st q e
    else
      let p := s.performHead st q e
      if p.2 then p.1.setHead r (fun q => { q with final := true }) else p.1)
  .next (s.completeHead r)

/-! ### Chain entries (R284) -/

/-- CHAIN_ENTRY_EXECUTE (R284): the walk is checked, and the entry becomes the command at the head. An entry address that is not 64-byte
aligned is read as it stands, and the parameter words that the function does not use are not looked at: R283 says neither (log 101, DESIGN
CHOICE). -/
def execChainEntryExecute (r : StreamRef) (s : State) : EngOut :=
  .next (s.withHead r (fun st q e s =>
    match q.kind with
    | .entry isLast last =>
      if q.fn != 0x7F then s
      else if st.pos = 0 then s.setHead r (fun q => { q with leaveErr := some 9 })
      else
        let ws := entryWords s e st.pos
        let walk := if isLast then st.pos == last else param ws 1 != 0
        let bad := !walk || entryBad s q r.eng.toNat ws
        let s := s.engNote e [(st.pos, 64, .read)]
        if bad then s.setHead r (fun q => { q with leaveErr := some 9 })
        else
          let fn := entryFn (param ws 0)
          let ps := (ws.drop 2).take 6
          let sl := cmdSlots fn ps st.fmtw
          let busy := match sl with
            | some x => slotsHeld s q.core r.stream.toNat x
            | none => false
          let err := match checkParams fn ps 0 st.fmtw with
            | some n => some n
            | none => if busy then some 5 else leaveCheck s (s.cmdBlock q) q.core e.x fn ps st.fmtw
          s.setHead r (fun q => { q with
            fn := fn, ps := ps ++ [param ws 1], lvl := entryLvl (param ws 0), leaveErr := err, done := 0, got := [], landed := []
            slots := if err.isNone then sl else none })
    | _ => s))

/-! ### Copies and adds to peers (R302, R306, R392) -/

/-- An RCOPY reads its source by units, sends its header, and then its data by units of 4 KiB (R302, R392). -/
def State.sendCopy (s : State) (st : Stream) (q : Cmd) (e : Eng) : State :=
  let p := param q.ps
  let n := field (p 2) 0 40
  let dst := field (p 3) 16 12
  let stream := e.r.stream.toNat
  match s.groupOf e.x (field (p 3) 0 16) with
  | none => s
  | some g =>
    if q.sent = 0 then
      if (cmdStep s e st q.done).isSome then s.stepMove st e
      else
        let res := s.sendHeader e.x g dst stream 0x27 n [(8, natLe 8 (p 0).toNat), (0x18, natLe 8 (p 4).toNat)] []
        res.1.setHead e.r (fun q => { q with done := res.2 + 1, sent := 1 })
    else if 4096 * (q.sent - 1) < n then
      (s.sendUnit g dst stream 0x27 (q.done - 1) (q.sent - 1) (engRead s e (p 1) n)).setHead e.r (fun q => { q with sent := q.sent + 1 })
    else s

/-- A remote add is sent (R306). -/
def State.sendAdd (s : State) (q : Cmd) (e : Eng) : State :=
  let p := param q.ps
  if field (p 0) 16 16 = 0 || q.sent ≠ 0 then s
  else match s.groupOf e.x (field (p 0) 16 16) with
    | none => s
    | some g =>
      let res := s.sendCommand e.x g (field (p 0) 32 12) e.r.stream.toNat 0x63
        [(8, natLe 8 (p 1).toNat), (0x18, natLe 4 (field (p 0) 0 10))] []
      res.1.setHead e.r (fun q => { q with done := res.2 + 1, sent := 1 })

/-! ### How a collective starts (R308, R410, R411) -/

/-- A slot that no collective owns. -/
def freeSlot (c : Ctx) : Option Nat := (List.range 256).find? (fun i => (Tab.find? c.slots i).isNone)

/-- Buffer memory that the collectives of the device hold, in bytes (R410). -/
def State.collBuf (s : State) : Nat := (s.colls.map (fun c => c.buf)).sum

/-- A COLL takes its number in its group and stream, with what this rank knows of it; rank 0 learns its parameter block (R310). -/
def State.beginColl (s : State) (e : Eng) (g : GroupEntry) (pb : List Byte) (f : CollSt → CollSt) : State :=
  let st := e.r.stream.toNat
  let k := Tab.get 0 s.collSeq (16 * g.handle + st)
  let s := s.openColl g.handle st k
  let s := { s with collSeq := Tab.set 0 s.collSeq (16 * g.handle + st) (k + 1) }
  let s := s.updColl g.handle st k (fun c => f { c with
    pbs := Tab.put c.pbs g.rank pb, levels := Tab.put c.levels g.rank e.cmd.det })
  let s := s.setHead e.r (fun q => { q with done := k + 2 })
  if g.rank = 0 then s
  else (s.sendCommand e.x g 0 st 0x60 [(0x20, natLe 4 k), (0x24, natLe 1 e.cmd.det)] pb).1

/-- The number that the next COLL of a stream takes in a group. -/
def State.nextColl (s : State) (e : Eng) (g : GroupEntry) : Nat × Nat × Nat :=
  (g.handle, e.r.stream.toNat, Tab.get 0 s.collSeq (16 * g.handle + e.r.stream.toNat))

/-- A built-in collective starts once it has a slot and buffer memory; its inputs have been read (R407, R410). -/
def State.startColl (s : State) (e : Eng) (g : GroupEntry) (pb : List Byte) : State :=
  match freeSlot (s.ctx e.x) with
  | none => s
  | some sl =>
    let need := (collCtx pb g).buffer
    if 2 ^ 26 < s.collBuf + need then s
    else
      let r := collSend pb g
      let s := s.updCtx e.x (fun c => { c with slots := Tab.put c.slots sl ⟨s.nextColl e g, [], []⟩ })
      s.beginColl e g pb (fun c => { c with slot := some sl, buf := need, input := engRead s e r.1 r.2.1 })

/-- The slots that a step list names as this rank's own, those of its waits and publishes, and the bytes that it publishes (R411). -/
def stepSlots (s : State) (a n : Nat) : List Nat × Nat :=
  match n with
  | 0 => ([], 0)
  | n + 1 =>
    let st := stepAt s a
    let op := numAt st 0 1
    if op = 0xFF then ([], 0)
    else
      let rest := stepSlots s (a + 32) n
      (if op = 3 || op = 4 then addNew rest.1 [(slotOf (numAt st 0x10 8)).1] else rest.1,
        if op = 4 then rest.2 + numAt st 0x18 4 else rest.2)

/-- Entries of a step list that memory can hold from an address on. -/
def stepCount (s : State) (a : Nat) : Nat := (s.mem.foldl (fun m c => max m c.1) 0 + 1 - a) / 32 + 1

/-- A collective that the host expands: its record is posted once; when the step list has come, it starts. An address that was written before
the record is nobody's (R410, R411). -/
def State.startSteps (s : State) (e : Eng) (g : GroupEntry) (pb : List Byte) : State :=
  if e.cmd.done = 0 then
    let other := (Tab.vals (s.ctx e.x).streams).any (fun (st : Stream) => st.q.head?.any (fun q => q.fn = 0x60 && q.done = 1))
    let s := if other then s else s.updCtx e.x (fun c => { c with stepAddr := none })
    (s.setHead e.r (fun q => { q with done := 1 })).post e.x 0x61 0 [(0x10, natLe 8 (param e.cmd.ps 0).toNat)]
  else match (s.ctx e.x).stepAddr with
    | none => s
    | some a =>
      let own := stepSlots s a.toNat (stepCount s a.toNat)
      let need := min (2 ^ 26) own.2
      if own.1.any (fun i => (Tab.find? (s.ctx e.x).slots i).isSome) || 2 ^ 26 < s.collBuf + need then s
      else
        let s := s.updCtx e.x (fun c => { c with
          stepAddr := none
          slots := own.1.foldl (fun t i => Tab.put t i ⟨s.nextColl e g, [], []⟩) c.slots })
        s.beginColl e g pb (fun c => { c with steps := some a.toNat, buf := need })

/-! ### The steps of a collective (R407-R411) -/

/-- This rank has done all its steps: rank 0 keeps who has, and hears of it (R310). -/
def State.reportReady (s : State) (e : Eng) (g : GroupEntry) (c : CollSt) : State :=
  let s := s.updColl g.handle c.stream c.k (fun c => { c with ready := addNew c.ready [g.rank] })
  if g.rank = 0 then s else (s.sendCommand e.x g 0 c.stream fnReady [(0x20, natLe 4 c.k), (0x24, natLe 1 (if c.anew then 1 else 0))] []).1

/-- A message of a collective goes to a rank: its header with its first 4 KiB; the rest follows unit by unit (R392). -/
def State.beginSend (s : State) (e : Eng) (g : GroupEntry) (c : CollSt) (dst fn : Nat) (fields : List (Nat × List Byte))
    (bytes : List Byte) : State :=
  let r := s.sendHeader e.x g dst c.stream fn bytes.length fields []
  let s := r.1.sendUnit g dst c.stream fn r.2 0 bytes
  if bytes.length ≤ 4096 then s
  else s.updColl g.handle c.stream c.k (fun c => { c with sending := some (dst, fn, r.2, 1, bytes) })

/-- The next 4 KiB unit of a message goes to the switch (R392). -/
def State.sendNext (s : State) (g : GroupEntry) (c : CollSt) (m : Nat × Nat × Nat × Nat × List Byte) : State :=
  (s.sendUnit g m.1 c.stream m.2.1 m.2.2.1 m.2.2.2.1 m.2.2.2.2).updColl g.handle c.stream c.k (fun c => { c with
    sending := if 4096 * (m.2.2.2.1 + 1) < m.2.2.2.2.length then some (m.1, m.2.1, m.2.2.1, m.2.2.2.1 + 1, m.2.2.2.2) else none })

/-- A plan made anew after a step list reads the send buffer, of which nothing is kept from the steps (R409, R411). -/
def State.reread (s : State) (e : Eng) (g : GroupEntry) (c : CollSt) (pb : List Byte) : State :=
  let upd := fun (s : State) (f : CollSt → CollSt) => s.updColl g.handle c.stream c.k f
  let at_ := (param e.cmd.ps 0).toNat
  if c.pulled = some [] then
    upd (s.setHead e.r (fun q => { q with got := q.got.filter (fun b => at_ ≤ b.1 && b.1 < at_ + 128) })) (fun c => { c with pulled := some [0] })
  else match collUnread e (collSend pb g) with
  | [] => upd s (fun c => { c with input := engRead s e (collSend pb g).1 (collSend pb g).2.1, pulled := none })
  | rs => s.readSome e rs

/-- One step of a step list (R411). -/
def State.stepColl (s : State) (e : Eng) (g : GroupEntry) (c : CollSt) (a : Nat) (pb : List Byte) : State :=
  let st := stepAt s a
  let stream := e.r.stream.toNat
  let op := numAt st 0 1
  let peer := numAt st 2 2
  let n := numAt st 0x18 4
  let loc := BitVec.ofNat 64 (numAt st 8 8)
  let ap := numAt st 0x10 8
  let upd := fun (s : State) (f : CollSt → CollSt) => s.updColl g.handle stream c.k f
  let next := fun (s : State) => upd s (fun c => { c with steps := some (a + 32), pulled := none })
  let write := fun (s : State) (bs : List Byte) =>
    upd (s.setHead e.r (fun q => { q with got := overWrite q.got loc.toNat bs })) (fun c => { c with outs := c.outs ++ [(loc, bs.length)] })
  let send := fun (fields : List (Nat × List Byte)) =>
    (s.engNote e (stepRanges s a)).beginSend e g c peer fnPush ((8, natLe 8 ap) :: fields) (engRead s e loc n)
  if stepBad st || (op ≤ 2 && g.size ≤ peer) then
    if c.pulled.isSome then s
    else upd (s.decideAbort g c.root stream c.k 1) (fun c => { c with pulled := some [] })
  else match op with
    | 0 => next (send [])
    | 1 => next (send [(0x18, natLe 4 (numAt st 4 4)), (0x1C, natLe 1 1)])
    | 2 => match c.pulled with
      | none => if n = 0 then next s
        else upd (s.sendCommand e.x g peer stream fnPull [(2, natLe 1 (numAt pb 1 1)), (3, natLe 1 (numAt pb 2 1)),
          (8, natLe 8 ap), (0x18, natLe 4 n), (0x20, natLe 4 c.k)] []).1 (fun c => { c with pulled := some [] })
      | some [] => s
      | some bs => next (write s bs)
    | 3 =>
      let at_ := slotOf ap
      match Tab.find? (s.ctx e.x).slots at_.1 with
      | some sl =>
        if (sl.inputs.filter (fun p => p.1 == at_.2)).length < numAt st 4 4 then s
        else next (s.updCtx e.x (fun x => { x with
          slots := Tab.put x.slots at_.1 { sl with final := addNew sl.final [at_.2] } }))
      | none => if numAt st 4 4 = 0 then next s else s
    | 4 =>
      let at_ := slotOf ap
      next (write s (match Tab.find? (s.ctx e.x).slots at_.1 with
        | some sl => slotBytes sl (numAt pb 1 1) (numAt pb 2 1) at_.2 n
        | none => natLe n 0))
    | _ => if c.ready.contains g.rank then s else s.reportReady e g c

/-- A step of a built-in plan (R407). -/
def State.collStep (s : State) (e : Eng) (g : GroupEntry) (c : CollSt) (t : CollTask) : State :=
  let part := fun (k : CollKey) (dst flags low : Nat) (bytes : List Byte) =>
    s.beginSend e g c dst fnPart [(1, natLe 1 flags), (2, natLe 2 low), (0x18, natLe 4 k.plan), (0x20, natLe 4 c.k),
      (0x24, natLe 4 k.cls), (0x28, natLe 4 k.seg), (0x2C, natLe 4 k.sub)] bytes
  let upd := fun (s : State) (f : CollSt → CollSt) => s.updColl g.handle c.stream c.k f
  match t with
  | .up k dst low bytes => upd (part k dst 1 low bytes) (fun c => { c with out := c.out ++ [(true, k, dst)] })
  | .form k anew bytes => upd s (fun c => { c with msgs := c.msgs ++ [⟨false, k, g.rank, 0, anew, bytes⟩] })
  | .down k dst anew bytes => upd (part k dst (if anew then 2 else 0) 0 bytes) (fun c => { c with out := c.out ++ [(false, k, dst)] })

/-- Every rank that a collective waits for has issued on another stream, where it waits in turn: those other collectives (R310). -/
def collStray (s : State) (g : GroupEntry) (c : CollSt) : List CollSt :=
  let has := fun (d : CollSt) (r : Nat) => (Tab.find? d.pbs r).isSome
  let ds := s.colls.filter (fun d => d.handle == g.handle && d.stream != c.stream && !d.go && d.abort.isNone
    && (List.range g.size).any (has d) && (List.range g.size).all (fun r => !(has c r && has d r)))
  if (List.range g.size).all (fun r => has c r || ds.any (fun d => has d r)) then ds else []

/-- Every rank of the group has finished its steps, or is lost without harm. -/
def CollSt.allReady (c : CollSt) (size : Nat) : Bool :=
  (List.range size).all (fun r => c.ready.contains r || c.lost.contains r)

/-- A failed link makes the plan anew: every rank's command is known and FREE, it reduces, and none is in place (R409). -/
def CollSt.mayReplan (c : CollSt) (size : Nat) (pb : List Byte) : Bool :=
  c.broken && !c.anew && collReduces (numAt pb 0 1)
    && (List.range size).all (fun r => match Tab.find? c.pbs r with
      | some p => numAt p 4 1 % 2 = 0 && Tab.get 0 c.levels r = 0
      | none => false)

/-- What rank 0 decides for a collective: an abort of commands that disagree or of streams that do, a plan made anew, or the end
(R310, R409; log 48). -/
def State.decideColl (s : State) (g : GroupEntry) (c : CollSt) (pb : List Byte) : State :=
  let tell := fun (s : State) (fn : Nat) => ((List.range g.size).filter (fun r => r != g.rank)).foldl (fun s d =>
    s.sendMessage g d c.stream fn 0 [(0x18, natLe 4 c.k)]) s
  if c.pbs.any (fun (e : Nat × List Byte) => !collAgree pb e.2) then s.abortColl g c.stream c.k 1
  else if c.mayReplan g.size pb then tell (s.replans g c.stream c.k) fnReplan
  else if c.allReady g.size then tell (s.updColl g.handle c.stream c.k (fun c => { c with go := true })) fnGo
  else match collStray s g c with
    | [] => s
    | ds => if Config.freePick s.tick % 2 = 1 then (c :: ds).foldl (fun s d => s.abortColl g d.stream d.k 1) s else s

/-- The next action for a collective that has started (R407-R411). -/
def State.collTurn (s : State) (e : Eng) (g : GroupEntry) (c : CollSt) (pb : List Byte) : State :=
  let cx := collCtx pb g
  let wait := fun (s : State) =>
    if g.rank = 0 then s.decideColl g c pb
    else if c.broken then
      (s.updColl g.handle c.stream c.k (fun c => { c with broken := false })).sendMessage g 0 c.stream fnBroken 0 [(0x18, natLe 4 c.k)]
    else s
  match c.sending with
  | some m => s.sendNext g c m
  | none =>
  if c.go || c.abort.isSome then s
  else if (g.rank = 0 && c.mayReplan g.size pb) || (g.rank ≠ 0 && c.broken) then wait s
  else match c.steps with
  | some a => if numAt (stepAt s a) 0 1 = 0xFF && !stepBad (stepAt s a) && c.ready.contains g.rank then wait s else s.stepColl e g c a pb
  | none =>
    if c.pulled.isSome then s.reread e g c pb
    else match cx.task? c with
    | some t => s.collStep e g c t
    | none => if cx.done c && !c.ready.contains g.rank then s.reportReady e g c else wait s

/-- The next action of the COLL at the head of a fabric stream: it reads its block, waits for its trigger, reads its send buffer,
starts, and goes through its steps (R308, R410). -/
def State.collUnit (s : State) (e : Eng) : State :=
  if !collRead e then s.readSome e [(param e.cmd.ps 0, 128, .read)]
  else
    let pb := collPb s e
    match s.groupOf e.x (numAt pb 8 2) with
    | none => s
    | some g =>
      if 2 ≤ e.cmd.done then
        match collOf s e with
        | some (g, c) => s.collTurn e g c pb
        | none => s
      else if !collTriggered s e.x pb then s
      else if collAssisted s e then s.startSteps e g pb
      else match collUnread e (collSend pb g) with
        | [] => s.startColl e g pb
        | rs => (s.setHead e.r (fun q => { q with sent := 1 })).readSome e rs

/-- One action of an engine on the command at the head of a stream. -/
def State.engineUnit (s : State) (r : StreamRef) : State :=
  s.withHead r (fun st q e s =>
    if q.final then s
    else if r.eng != 3 then (if stepped q then (s.begin (e.begun s)).stepMove st (e.begun s) else s)
    else match q.fn with
    | 0x27 => s.sendCopy st q e
    | 0x63 => s.sendAdd q e
    | 0x60 => s.collUnit e
    | _ => s)

/-- The engines of a core come to their step boundaries: a unit in progress is finished, and what it can write lands (R389). -/
def State.finishUnits (s : State) (c : Nat) : State :=
  let go := fun (s : State) (r : StreamRef) (f : Stream → Eng → State → State) => match headClear s r with
    | some (st, q, e) => if q.final || !stepped q || q.fn < 0x20 then s else f st e s
    | none => s
  ((s.core c).eng.streams.map (fun (e : Nat × Stream) => (⟨BitVec.ofNat 2 (e.1 / 16), c, BitVec.ofNat 4 (e.1 % 16)⟩ : StreamRef))).foldl
    (fun s r =>
      let s := go s r (fun st e s => match cmdStep s e st e.cmd.done with
        | some rs => if engStatus s e rs == .ok && rs.any (fun q => (engUnread e q.1 q.2.1).length < (wordPieces q.1.toNat q.2.1).length)
            then s.endStep e rs else s
        | none => s)
      go s r (fun st e s => (landable s e st).foldl (fun s p => s.landUnit e p) s)) s

/-! ### Deferred faults (R281) -/

/-- A fault record reaches the block that issued a command, resident or saved. -/
def State.deferTo (s : State) (id : BlockId) (f : FaultRec) : State :=
  let put := fun (b : Block) => if b.launch = id.launch && b.lin = id.lin && !b.failing
    then { b with deferred := b.deferred ++ [f] } else b
  let fix := fun (a : CoreArch) => { a with blocks := Tab.mapV a.blocks (fun sl b => if sl = handlerSlot then b else put b) }
  s.coreNums.foldl (fun s c => (s.updBoth c fix).updCore c (fun k => { k with
    saved := k.saved.map (fun sv => { sv with arch := fix sv.arch }) })) s

/-- ENGINE_DEFERRED_FAULT (R281, R307, R388). -/
def execEngineDeferredFault (r : StreamRef) (s : State) : EngOut :=
  let st := s.stream r
  match s.head? r with
  | none => .next s
  | some q =>
    if st.fault.isSome || !q.wait.isEmpty || streamStopped s r then .next s
    else match headTrouble s r st q with
    | none => .next s
    | some (code, sub) =>
      let e := s.engOf r q
      let who := BitVec.ofNat 64 (r.stream.toNat + 16 * r.eng.toNat)
      let s := if code ≠ 0x0B then s
        else if sub = 6 then s.post e.x 0x51 0 [(0x18, natLe 1 6)]
        else s.quarantine e.x (engBadLines s e (headRanges s e st)) 0
      let s := s.setStream r { s.stream r with fault := some (code, sub) }
      .next (match q.kind, q.blk with
        | .fired n, _ => s.post e.x 0x13 0 [(0x10, natLe 8 (code + 256 * sub)), (0x18, natLe 8 q.num),
            (0x20, natLe 8 who.toNat), (0x28, natLe 8 n)]
        | _, some id => s.deferTo id ⟨0, 0, [], causeWord code sub true, 0, who, BitVec.ofNat 64 q.num, true, none⟩
        | _, none => s)

/-! ### Retry and cancel (R348) -/

/-- A started collective is given up on this device. -/
def State.dropColl (s : State) (r : StreamRef) (q : Cmd) : State :=
  if q.fn = 0x60 && 2 ≤ q.done && !q.final then
    match collOf s (s.engOf r q) with
    | some (g, c) => s.closeColl (s.streamCtx r) g.handle r.stream.toNat c.k
    | none => s
  else s

/-- Retry: the faulted command runs again from its start; only the word of one whose effects are final is written again (R348). -/
def State.retryStream (s : State) (r : StreamRef) : State :=
  let st := s.stream r
  match st.fault, st.q with
  | some _, q :: rest =>
    let s := s.dropColl r q
    let q0 := { q with done := 0, got := [], landed := [], sent := 0, stores := none, wait := [] }
    let q' := if q.final then { q with leaveErr := none, wait := [] } else match q.kind with
      | .entry _ _ => { q0 with fn := 0x7F, ps := [], slots := none, leaveErr := none }
      | _ => { q0 with leaveErr := leaveCheck s (s.cmdBlock q) q.core (s.streamCtx r) q.fn q.ps st.fmtw }
    s.setStream r { s.stream r with fault := none, q := q' :: rest }
  | _, _ => s

/-- A command that is to complete without being performed (R348). -/
def Cmd.cancelled (q : Cmd) : Cmd :=
  if !q.left then q
  else { q with
    kind := match q.kind with
      | .fired n => .fired n
      | _ => .direct
    final := true, wait := [], leaveErr := none, mate := none, snapI := [], slots := none, got := [], landed := [], reply := none }

/-- Commands whose effects are final complete as far as their words can be written; `n` bounds them. -/
def State.completeAll (s : State) (r : StreamRef) (n : Nat) : State :=
  match n with
  | 0 => s
  | n + 1 => (s.completeHead r).completeAll r n

/-- Cancel: the faulted command and those queued behind it complete in order without being performed; of a command whose effects are
final, only the word is left out (R280, R348). A reply of CNTRD that will not come is a free value. -/
def State.cancelStream (s : State) (r : StreamRef) : State :=
  let st := s.stream r
  match st.fault, st.q with
  | some _, q :: rest =>
    let s := s.dropColl r q
    let s := (q :: rest).foldl (fun s q => if q.left && q.fn = 0x62 && !q.final then s.reply q (Config.freeWord s.tick) else s) s
    let st : Stream := { s.stream r with
      fault := none
      q := q :: rest }
    let st : Stream := if q.final then { st with c := q.num, pos := nextPos st q, q := rest } else st
    let gone := st.q.filter (fun q => q.left)
    if st.w = 0 then s.setStream r { st with
      c := (gone.getLast?.map (fun q => q.num)).getD st.c, q := st.q.filter (fun q => !q.left) }
    else (s.setStream r { st with q := st.q.map Cmd.cancelled }).completeAll r gone.length
  | _, _ => s

/-- The stream that an action value names, for a context and a core (R348, R420). -/
def actionStream (x core : Nat) (v : Word) : StreamRef :=
  ⟨v.extractLsb' 4 2, if v.extractLsb' 4 2 = 3 then x else core, v.extractLsb' 0 4⟩

/-- An engine stream action on behalf of a context (R348), whose engine state is taken up for it. -/
def State.streamAction (s : State) (x core : Nat) (v : Word) : State :=
  let act := fun (s : State) =>
    if v.getLsbD 8 then s.cancelStream (actionStream x core v) else s.retryStream (actionStream x core v)
  let own := (s.core core).engCtx
  if v.extractLsb' 4 2 = 3 || own == some x then act s
  else
    let s := act (s.updCore core (fun k => k.takeCtx x))
    match own with
    | some y => s.updCore core (fun k => k.takeCtx y)
    | none => s

/-- STREAM_RETRY: a write of the context's engine action register with act = 0 (R348, R420). -/
def execStreamRetry (ctx : Nat) (value : Word) (s : State) : EngOut :=
  .next (if value.getLsbD 8 then s else s.streamAction ctx (field value 16 9) value)

/-- STREAM_CANCEL: the same with act = 1 (R348, R420). -/
def execStreamCancel (ctx : Nat) (value : Word) (s : State) : EngOut :=
  .next (if value.getLsbD 8 then s.streamAction ctx (field value 16 9) value else s)

/-- COUNTER_CHANGE: an add to a counter, and the arms that it fires (R305, R307). -/
def execCounterChange (ctx counter : Nat) (addend : Word) (s : State) : EngOut :=
  .next (s.addCounter ctx (counter % 1024) addend)

end Sys2Proof.Machine
end

