-- ==== Sys2Proof/Machine/Lehr.lean ====
section
/-! DEFINITION. Lehr registers: LEHRW, LEHRPUSH, LEHRREAD, LEHRCLR and the end of an occupancy (R62-R68, R268, R340). -/

namespace Sys2Proof.Machine

/-- The answer of a lehr meaning. -/
abbrev LehrOut := Host.Outcome State Fault Refusal

/-! ### One register (R63-R66) -/

/-- One application of the register's operator, with rne (R64). -/
def lehrApp (op : RedOp) (a b : Word) : WRes := redApp op .rne a b

/-- The front stack that a flip makes of a back list, its oldest element on top, and the flags raised (R65). -/
def lehrFlip (op : RedOp) (back : List Word) : List (Word × Word) × FFlags :=
  back.foldr (fun v (acc : List (Word × Word) × FFlags) => match acc.1 with
    | [] => ([(v, v)], acc.2)
    | (w, agg) :: rest =>
      let r := lehrApp op v agg
      ((v, r.1) :: (w, agg) :: rest, acc.2 ||| r.2)) ([], fNone)

/-- The push of one value: the register, the elements that a flip moved, and the flags raised (R65). -/
def Lehr.push (r : Lehr) (x : Word) : Lehr × Nat × FFlags :=
  let v := redVal r.op x
  let full := r.front.length + r.back.length == r.win
  let flip := full && r.front.isEmpty
  let fl := lehrFlip r.op r.back
  let front := if full then (if flip then fl.1 else r.front).tail else r.front
  let back := if flip then [] else r.back
  let b := if back.isEmpty then (v, fNone) else lehrApp r.op r.bagg v
  ({ r with front := front, back := back ++ [v], bagg := b.1 }, if flip then r.back.length else 0,
    (if flip then fl.2 else fNone) ||| b.2)

/-- The result of a read and the flags raised (R66). -/
def Lehr.read (r : Lehr) : WRes :=
  match r.front with
  | [] => if r.back.isEmpty then (0, fNone) else (r.bagg, fNone)
  | (_, agg) :: _ => if r.back.isEmpty then (agg, fNone) else lehrApp r.op agg r.bagg

/-- The empty state (R63). -/
def Lehr.clear (r : Lehr) : Lehr := { r with front := [], back := [], bagg := 0 }

/-! ### The register of a node -/

/-- The key of register `k` of a thread's node. -/
def lehrKey (e : Site) (lvl k : Nat) (th : Thread) : Nat := nodeKey lvl (e.node th lvl) k

/-- The keys that a group reaches, in ascending node rank (R62). -/
def lehrKeys (e : Site) (lvl k : Nat) : List Nat := (addNew [] (e.act.map (lehrKey e lvl k))).reverse

/-- A lehr register of a block. -/
def Block.lehr (b : Block) (key : Nat) : Lehr := Tab.get Lehr.new b.lehrs key

/-- A lehr operation issues once no register it reaches is occupied (R67, R68). -/
def lehrIssue (i : Instr) (lvl k : Nat) (body : Site → State → State) (s : State) : State :=
  issue i (fun e s =>
    if (lehrKeys e lvl k).any (fun key => (e.b.lehr key).busy) then s.hold
    else body e ((s.acts e).noteSources e (sourceOps (wordOf i)))) s

/-- Sets the registers that a group reaches anew; their data are good again (R388). -/
def State.mapLehr (s : State) (e : Site) (lvl k : Nat) (f : Lehr → Lehr) : State :=
  let keys := lehrKeys e lvl k
  s.updBlock e.cur.core e.cur.slot (fun b => { b with
    lehrs := keys.foldl (fun t key => Tab.set Lehr.new t key (f (Tab.get Lehr.new t key))) b.lehrs
    threads := b.threads.map (fun th => if !th.bad.isEmpty && keys.contains (lehrKey e lvl k th)
      then { th with bad := th.bad.filter (fun x => x != lehrMark lvl k) } else th) })

/-- LEHRW (R63, R268). -/
def execLehrw (f : LehrWF) (s : State) : LehrOut :=
  .next (lehrIssue (.lehrw f) f.lvl.toNat f.k.toNat (fun e s =>
    (s.mapLehr e f.lvl.toNat f.k.toNat (fun r => { r.clear with win := f.wm1.toNat + 1, op := f.red })).pass e) s)

/-- LEHRCLR (R63, R268). -/
def execLehrclr (f : LehrC) (s : State) : LehrOut :=
  .next (lehrIssue (.lehrclr f) f.lvl.toNat f.k.toNat (fun e s =>
    (s.mapLehr e f.lvl.toNat f.k.toNat Lehr.clear).pass e) s)

/-- The pushes of a group in ascending logical thread id: the registers by key, the elements moved, and each thread's
flags (R64, R65). -/
def lehrPushes (key : Thread → Nat) (val : RedOp → Thread → Word) (ths : List Thread) (regs : Tab Lehr) :
    Tab Lehr × Nat × List (Nat × FFlags) :=
  ths.foldl (fun (acc : Tab Lehr × Nat × List (Nat × FFlags)) th =>
    let reg := Tab.get Lehr.new acc.1 (key th)
    let r := reg.push (val reg.op th)
    (Tab.set Lehr.new acc.1 (key th) { r.1 with busy := true }, acc.2.1 + r.2.1, acc.2.2 ++ [(th.ltid, r.2.2)]))
    (regs, 0, [])

/-- The flags of a thread among some. -/
def flagsOf (fs : List (Nat × FFlags)) (ltid : Nat) : FFlags :=
  ((fs.find? (fun p => p.1 == ltid)).map (fun p => p.2)).getD fNone

/-- LEHRPUSH: the registers are occupied from issue (R64, R65, R67). -/
def execLehrpush (f : LehrF) (s : State) : LehrOut :=
  .next (lehrIssue (.lehrpush f) f.lvl.toNat f.k.toNat (fun e s =>
    let r := lehrPushes (lehrKey e f.lvl.toNat f.k.toNat) (fun op th => redSrc op s e th f.o) e.act e.b.lehrs
    ((s.updBlock e.cur.core e.cur.slot (fun b => { b with lehrs := r.1 })).finish e
      (fun th => (th.flag (flagsOf r.2.2 th.ltid)).next)).count e.cur.core 5 r.2.1) s)

/-- LEHRREAD (R64, R66, R68). -/
def execLehrread (f : LehrF) (s : State) : LehrOut :=
  .next (lehrIssue (.lehrread f) f.lvl.toNat f.k.toNat (fun e s =>
    s.finish e (fun th =>
      let r := (e.b.lehr (lehrKey e f.lvl.toNat f.k.toNat th)).read
      (((th.setD f.o r.1).cleared f.o).flag r.2).next)) s)

/-- LEHR_OCCUPANCY_END (R67, R340). -/
def execLehrOccupancyEnd (core slot level node k : Nat) (s : State) : LehrOut :=
  .next (s.updBlockBoth core slot (fun b => { b with
    lehrs := Tab.mapV b.lehrs (fun key r => if key = nodeKey level node k then { r with busy := false } else r) }))

end Sys2Proof.Machine
end

