-- ==== Sys2Proof/Machine/Neighbor.lean ====
section
/-! DEFINITION. The neighbour links: NBRPUSH and NBRPOP (R115, R272, R273). -/

namespace Sys2Proof.Machine

/-- The answer of a neighbour meaning. -/
abbrev NbrOut := Host.Outcome State Fault Refusal

/-- The cluster in a direction of the grid of 4 rows and 6 columns: 0 N, 1 E, 2 S, 3 W (R109, R115). -/
def nbrCluster (k dir : Nat) : Option Nat :=
  match dir with
  | 0 => if k < 6 then none else some (k - 6)
  | 1 => if k % 6 = 5 then none else some (k + 1)
  | 2 => if 18 ≤ k then none else some (k + 6)
  | _ => if k % 6 = 0 then none else some (k - 1)

/-- The core at the far end of a link, when the link is within the context's partition (R115, R272). -/
def nbrCore (s : State) (x c dir : Nat) : Option Nat :=
  match nbrCluster (c / 16) dir with
  | none => none
  | some k => if s.inPart (s.ctx x).part (16 * k + c % 16) then some (16 * k + c % 16) else none

/-- The receive queue of a channel. -/
def nbrKey (dir ch : Nat) : Nat := 4 * dir + ch

/-- Beats that occupy a queue: a beat popped in the open chunk keeps its place until the chunk commits, since a squash
returns it (R273). -/
def nbrFill (s : State) (c key : Nat) : Nat :=
  match (s.core c).chunk.snap with
  | some a => max (Tab.get [] a.nbr key).length (Tab.get [] (s.core c).arch.nbr key).length
  | none => (Tab.get [] (s.core c).arch.nbr key).length

/-- The beat of a group: element `s.lane` mod 32 of each active member (R272). -/
def beatOf (val : Thread → Word) (ths : List Thread) (src : Option Nat) : Beat :=
  { elems := ths.foldl (fun t th => Tab.set 0 t (th.off % 32) (val th)) []
    valid := (laneMask ths).setWidth 32
    src := src }

/-- A link that does not exist, or leaves the partition, faults with PERM in every active member. -/
def nbrFault (e : Site) : Flt := ⟨9, 0, laneMask e.act, 0⟩

/-- NBRPUSH (R272, R273). -/
def execNbrpush (f : NbrF) (s : State) : NbrOut :=
  .next (issue (.nbrpush f) (fun e s =>
    match nbrCore s (s.ctxOf e.b) e.cur.core f.dir.toNat with
    | none => s.fault e (nbrFault e)
    | some far =>
      let key := nbrKey ((f.dir.toNat + 2) % 4) f.ch.toNat
      if 16 ≤ nbrFill s far key then s.hold
      else
        let beat := beatOf (fun th => e.read s th f.o) e.act
          (if s.isExact e.cur.slot e.b then none else some e.cur.core)
        (((s.acts e).noteSources e [f.o]).updBoth far (fun a =>
          { a with nbr := Tab.set [] a.nbr key (Tab.get [] a.nbr key ++ [beat]) }.wakePops)).pass e) s)

/-- The head of a queue is removed. Under EXACT no squash returns it: it leaves the chunk's start as well, where the beats that the open
chunk has popped before it still stand (R273). -/
def State.popBeat (s : State) (e : Site) (key : Nat) : State :=
  let n := (Tab.get [] (s.core e.cur.core).arch.nbr key).length
  let s := s.updArch e.cur.core (fun a => { a with nbr := Tab.set [] a.nbr key (Tab.get [] a.nbr key).tail })
  if s.isExact e.cur.slot e.b then s.updChunk e.cur.core (fun h => { h with snap := h.snap.map (fun a =>
    let q := Tab.get [] a.nbr key
    { a with nbr := Tab.set [] a.nbr key (q.eraseIdx (q.length - n)) }) })
  else s

/-- NBRPOP: each active member receives its lane's element, or waits (R272, R273). -/
def execNbrpop (f : NbrF) (s : State) : NbrOut :=
  .next (issue (.nbrpop f) (fun e s =>
    match nbrCore s (s.ctxOf e.b) e.cur.core f.dir.toNat with
    | none => s.fault e (nbrFault e)
    | some _ =>
      match (s.core e.cur.core).arch.beat? (nbrKey f.dir.toNat f.ch.toNat) with
      | none => (s.acts e).finish e (fun th => { th with wait := .nbr f.dir.toNat f.ch.toNat })
      | some b => ((s.acts e).popBeat e (nbrKey f.dir.toNat f.ch.toNat)).finish e (fun th =>
          ((th.setD f.o (Tab.get 0 b.elems (th.off % 32))).cleared f.o).next)) s)

end Sys2Proof.Machine
end

