-- ==== Sys2Proof/Machine/Paired.lean ====
section
/-! DEFINITION. Paired words (R177-R179). -/

namespace Sys2Proof.Machine

/-- The value that a half gives its destination, with its flags (R178). -/
def halfValue (h : Half) (th : Thread) : WRes :=
  let d := th.lane h.f.d.toNat
  let x := th.lane h.f.s.toNat
  let i := h.f.imm.signExtend 64
  let n := h.f.imm.toNat
  match h.hop with
  | .nop => (d, fNone)
  | .mov => (x, fNone)
  | .add => (d + x, fNone)
  | .addi => (d + i, fNone)
  | .sub => (d - x, fNone)
  | .and => (d &&& x, fNone)
  | .or => (d ||| x, fNone)
  | .xor => (d ^^^ x, fNone)
  | .shli => (BitVec.ofNat 64 (shlN 64 d.toNat n), fNone)
  | .shri => (BitVec.ofNat 64 (shrN 64 d.toNat n), fNone)
  | .sari => (BitVec.ofNat 64 (sarN 64 d.toNat n), fNone)
  | .min => (if x.toInt < d.toInt then x else d, fNone)
  | .max => (if d.toInt < x.toInt then x else d, fNone)
  | .mul => (((d.setWidth 32 : BitVec 32) * x.setWidth 32).signExtend 64, fNone)
  | .faddF32 => redApp .faddF32 .rne d x
  | .fmulF32 => redRes (FF.f32.mul .rne false (FF.f32.read (elem d 32 0)) (FF.f32.read (elem x 32 0)))
  | .faddF64 => redApp .faddF64 .rne d x
  | .fmulF64 => redApp .fmulF64 .rne d x
  | .fminF64 => redApp .fminF64 .rne d x
  | .fmaxF64 => redApp .fmaxF64 .rne d x
  | .fminF32 => redApp .fminF32 .rne d x
  | .fmaxF32 => redApp .fmaxF32 .rne d x
  | .movi => (i, fNone)

/-- A half writes its destination from the values that stood before the word (R179). -/
def Thread.half (th : Thread) (old : Thread) (h : Half) : Thread :=
  if h.hop == .nop || !old.halfGuard h.f then th
  else
    let r := halfValue h old
    ((th.setLane h.f.d.toNat r.1).cleared (.lane h.f.d)).flag r.2

/-- A paired word: both halves read before either writes (R177-R179). -/
def pairWord (i : Instr) (a b : Half) (s : State) : Host.Outcome State Fault Refusal :=
  .next (issueWith (wordOf i) (pairActive (wordOf i)) (simple i (fun _ _ th => (th.half th a).half th b)) s)

/-- NOP as half A (R178). -/
def execPairNop (a : HalfF) (b : Half) (s : State) : Host.Outcome State Fault Refusal :=
  pairWord (.pairNop a b) ⟨.nop, a⟩ b s

/-- MOV as half A (R178). -/
def execPairMov (a : HalfF) (b : Half) (s : State) : Host.Outcome State Fault Refusal :=
  pairWord (.pairMov a b) ⟨.mov, a⟩ b s

/-- ADD as half A (R178). -/
def execPairAdd (a : HalfF) (b : Half) (s : State) : Host.Outcome State Fault Refusal :=
  pairWord (.pairAdd a b) ⟨.add, a⟩ b s

/-- ADDI as half A (R178). -/
def execPairAddi (a : HalfF) (b : Half) (s : State) : Host.Outcome State Fault Refusal :=
  pairWord (.pairAddi a b) ⟨.addi, a⟩ b s

/-- SUB as half A (R178). -/
def execPairSub (a : HalfF) (b : Half) (s : State) : Host.Outcome State Fault Refusal :=
  pairWord (.pairSub a b) ⟨.sub, a⟩ b s

/-- AND as half A (R178). -/
def execPairAnd (a : HalfF) (b : Half) (s : State) : Host.Outcome State Fault Refusal :=
  pairWord (.pairAnd a b) ⟨.and, a⟩ b s

/-- OR as half A (R178). -/
def execPairOr (a : HalfF) (b : Half) (s : State) : Host.Outcome State Fault Refusal :=
  pairWord (.pairOr a b) ⟨.or, a⟩ b s

/-- XOR as half A (R178). -/
def execPairXor (a : HalfF) (b : Half) (s : State) : Host.Outcome State Fault Refusal :=
  pairWord (.pairXor a b) ⟨.xor, a⟩ b s

/-- SHLI as half A (R178). -/
def execPairShli (a : HalfF) (b : Half) (s : State) : Host.Outcome State Fault Refusal :=
  pairWord (.pairShli a b) ⟨.shli, a⟩ b s

/-- SHRI as half A (R178). -/
def execPairShri (a : HalfF) (b : Half) (s : State) : Host.Outcome State Fault Refusal :=
  pairWord (.pairShri a b) ⟨.shri, a⟩ b s

/-- SARI as half A (R178). -/
def execPairSari (a : HalfF) (b : Half) (s : State) : Host.Outcome State Fault Refusal :=
  pairWord (.pairSari a b) ⟨.sari, a⟩ b s

/-- MIN as half A (R178). -/
def execPairMin (a : HalfF) (b : Half) (s : State) : Host.Outcome State Fault Refusal :=
  pairWord (.pairMin a b) ⟨.min, a⟩ b s

/-- MAX as half A (R178). -/
def execPairMax (a : HalfF) (b : Half) (s : State) : Host.Outcome State Fault Refusal :=
  pairWord (.pairMax a b) ⟨.max, a⟩ b s

/-- MUL as half A (R178). -/
def execPairMul (a : HalfF) (b : Half) (s : State) : Host.Outcome State Fault Refusal :=
  pairWord (.pairMul a b) ⟨.mul, a⟩ b s

/-- FADDF32 as half A (R178). -/
def execPairFaddF32 (a : HalfF) (b : Half) (s : State) : Host.Outcome State Fault Refusal :=
  pairWord (.pairFaddF32 a b) ⟨.faddF32, a⟩ b s

/-- FMULF32 as half A (R178). -/
def execPairFmulF32 (a : HalfF) (b : Half) (s : State) : Host.Outcome State Fault Refusal :=
  pairWord (.pairFmulF32 a b) ⟨.fmulF32, a⟩ b s

/-- FADDF64 as half A (R178). -/
def execPairFaddF64 (a : HalfF) (b : Half) (s : State) : Host.Outcome State Fault Refusal :=
  pairWord (.pairFaddF64 a b) ⟨.faddF64, a⟩ b s

/-- FMULF64 as half A (R178). -/
def execPairFmulF64 (a : HalfF) (b : Half) (s : State) : Host.Outcome State Fault Refusal :=
  pairWord (.pairFmulF64 a b) ⟨.fmulF64, a⟩ b s

/-- FMINF64 as half A (R178). -/
def execPairFminF64 (a : HalfF) (b : Half) (s : State) : Host.Outcome State Fault Refusal :=
  pairWord (.pairFminF64 a b) ⟨.fminF64, a⟩ b s

/-- FMAXF64 as half A (R178). -/
def execPairFmaxF64 (a : HalfF) (b : Half) (s : State) : Host.Outcome State Fault Refusal :=
  pairWord (.pairFmaxF64 a b) ⟨.fmaxF64, a⟩ b s

/-- FMINF32 as half A (R178). -/
def execPairFminF32 (a : HalfF) (b : Half) (s : State) : Host.Outcome State Fault Refusal :=
  pairWord (.pairFminF32 a b) ⟨.fminF32, a⟩ b s

/-- FMAXF32 as half A (R178). -/
def execPairFmaxF32 (a : HalfF) (b : Half) (s : State) : Host.Outcome State Fault Refusal :=
  pairWord (.pairFmaxF32 a b) ⟨.fmaxF32, a⟩ b s

/-- MOVI as half A (R178). -/
def execPairMovi (a : HalfF) (b : Half) (s : State) : Host.Outcome State Fault Refusal :=
  pairWord (.pairMovi a b) ⟨.movi, a⟩ b s

end Sys2Proof.Machine
end

