-- ==== Sys2Proof/Machine/Place.lean ====
section
/-! DEFINITION. What blocks need of a core and what a core has free, the choice of a block's place, its placement, and the launch
checks that measure it (R15-R24, R47, R49, R52, R369, R370, R373, R391). -/

namespace Sys2Proof.Machine

/-! ### The demands of a block (R16-R18) -/

/-- Lane registers per lane column of one row. -/
def Tree.laneRegs (t : Tree) : Nat := 8 * t.lanes

/-- Rows of a block in the quadrant `d` after its starting quadrant (R20). -/
def Tree.rowsAt (t : Tree) (d : Nat) : Nat := (t.rows + 3 - d) / 4

/-- Nodes of level `l` in a block. -/
def Tree.nodesIn (t : Tree) (l : Nat) : Nat := t.blockThreads / max 1 (t.per l)

/-- Levels above 0, up to the block, bound to a domain. -/
def Tree.levelsOf (t : Tree) (d : Domain) : List Nat :=
  (List.range (t.blockLvl + 1)).filter (fun l => l != 0 && t.bind l == d)

/-- Scoped registers of LANE-, OCTET- and WARP-bound nodes whose first row lies in the quadrant `d` after the starting one (R51). -/
def Tree.scopedAt (t : Tree) (d : Nat) : Nat :=
  ((t.levelsOf .lane ++ t.levelsOf .octet ++ t.levelsOf .warp).map (fun l =>
    (t.level l).regs * ((List.range (t.nodesIn l)).filter (fun n => (n * t.per l / max 1 t.rowThreads) % 4 == d)).length)).sum

/-- Scoped registers of CORE-bound nodes. -/
def Tree.coreRegs (t : Tree) : Nat := ((t.levelsOf .core).map (fun l => (t.level l).regs * t.nodesIn l)).sum

/-- Lehr registers of WARP- and CORE-bound nodes. -/
def Tree.lehrNeed (t : Tree) : Nat :=
  ((t.levelsOf .warp ++ t.levelsOf .core).map (fun l => (t.level l).lehr * t.nodesIn l)).sum

/-- Bytes of a phase store (R142). -/
def phaseStore : Nat := 2 ^ 20

/-- A block's slice demand (R21). -/
def Tree.slice (t : Tree) (exact_ : Bool) : Nat := t.winSize + (if exact_ then phaseStore else 0)

/-- Bytes of the home-slice allocation of a node above CORE (R17). -/
def Tree.homeBytes (t : Tree) (l : Nat) : Nat := t.regBytes l + (t.level l).scratch

/-- Levels bound to CLUSTER, DIE or PACKAGE. -/
def Tree.highLevels (t : Tree) : List Nat :=
  (List.range t.depth).filter (fun l => t.blockLvl < l && 4 ≤ (t.bind l).code && (t.bind l).code ≤ 6)

/-! ### What a core holds (R16) -/

/-- What stands on a core: block slots, row positions by quadrant, lane registers per lane column and scoped registers by quadrant,
CORE-bound scoped registers, lehr registers, and the ranges of its slice. -/
structure CoreUse where
  slots  : List Nat
  rows   : List (Nat × Nat)
  regs   : List Nat
  qregs  : List Nat
  cregs  : Nat
  lehrs  : Nat
  ranges : List (Nat × Nat)
deriving DecidableEq, Repr

/-- An empty core. -/
def CoreUse.empty : CoreUse := ⟨[], [], [0, 0, 0, 0], [0, 0, 0, 0], 0, 0, []⟩

/-- The place of a block: slot, starting quadrant, its rows in order as (quadrant, position), the bases of its window and phase
store, and the home-slice allocations made with it as (level, base, size). -/
structure Plan where
  slot  : Nat
  q0    : Nat
  rows  : List (Nat × Nat)
  win   : Nat
  pst   : Nat
  nodes : List (Nat × Nat × Nat)
deriving DecidableEq, Repr

/-- Adds to the entry of a quadrant. -/
def addAt (xs : List Nat) (q n : Nat) : List Nat := xs.modify q (fun x => x + n)

/-- The core with one more block. -/
def CoreUse.add (u : CoreUse) (t : Tree) (exact_ : Bool) (p : Plan) : CoreUse :=
  { slots := p.slot :: u.slots, rows := p.rows ++ u.rows
    regs := p.rows.foldl (fun r e => addAt r e.1 t.laneRegs) u.regs
    qregs := (List.range 4).foldl (fun r d => addAt r ((p.q0 + d) % 4) (t.scopedAt d)) u.qregs
    cregs := u.cregs + t.coreRegs, lehrs := u.lehrs + t.lehrNeed
    ranges := [(p.win, t.winSize)] ++ (if exact_ then [(p.pst, phaseStore)] else [])
      ++ (p.nodes.map (fun n => (n.2.1, n.2.2))) ++ u.ranges }

/-- The rows of a placed block, as (quadrant, position). -/
def Block.rowPlaces (b : Block) : List (Nat × Nat) := (b.threads.map (fun th => (th.quad, th.pos))).dedup

/-- The place at which a block stands. -/
def Block.plan (b : Block) (slot : Nat) : Plan := ⟨slot, b.q0, b.rowPlaces, b.winBase, b.pstore, []⟩

/-- What core `c` holds now, from the point of view of context `x`: the home-slice allocations of another context's pre-empted blocks
may be copied out (R391). -/
def State.useNow (s : State) (c x : Nat) : CoreUse :=
  let k := s.core c
  let u := (k.arch.blocks.filter (fun e => e.1 < 16)).foldl (fun u e =>
    u.add (s.treeOf e.1 e.2) (s.isExact e.1 e.2) (e.2.plan e.1)) CoreUse.empty
  let out := fun (y : Nat) => y != x && k.saved.any (fun v => v.ctx == y)
  { u with ranges := u.ranges ++ s.launches.flatMap (fun ln =>
      if out ln.ctx then [] else (ln.nodes.filter (fun n => n.2.core == c)).map (fun n => (n.2.base, n.2.size))) }

/-- The windows and phase stores that pre-empted blocks of a context left in a core's slice, whose place no other block of the context
takes (R391). -/
def savedRanges (s : State) (c x : Nat) : List (Nat × Nat) :=
  ((s.core c).saved.filter (fun v => v.ctx == x)).flatMap (fun v => (v.arch.blocks.filter (fun e => e.1 < 16)).flatMap (fun e =>
    (e.2.winBase, e.2.winSize) :: (if s.isExact e.1 e.2 then [(e.2.pstore, phaseStore)] else [])))

/-- What core `c` holds for the placement of a block of context `x`. -/
def State.use (s : State) (c x : Nat) : CoreUse :=
  let u := s.useNow c x
  { u with ranges := u.ranges ++ savedRanges s c x }

/-! ### Room (R16, R369) -/

/-- Free rows of a quadrant for a block. -/
def CoreUse.freeRows (u : CoreUse) (t : Tree) (q : Nat) : Nat :=
  min (16 - (u.rows.filter (fun e => e.1 == q)).length) ((1024 - u.regs.getD q 0) / max 1 t.laneRegs)

/-- Free rows of a core for a block. -/
def CoreUse.allRows (u : CoreUse) (t : Tree) : Nat := ((List.range 4).map (u.freeRows t)).sum

/-- The starting quadrant that the firmware chooses. -/
def CoreUse.bestQuad (u : CoreUse) (t : Tree) : Nat :=
  (List.range 4).foldl (fun b q => if u.freeRows t b < u.freeRows t q then q else b) 0

/-- Free positions of a quadrant, lowest first. -/
def CoreUse.freePos (u : CoreUse) (q : Nat) : List Nat := (List.range 16).filter (fun p => !u.rows.contains (q, p))

/-- The rows of a block from given positions by quadrant (R373). -/
def rowPlan (t : Tree) (q0 : Nat) (pos : Nat → List Nat) : List (Nat × Nat) :=
  (List.range t.rows).map (fun j => ((q0 + j) % 4, (pos ((q0 + j) % 4)).getD (j / 4) 0))

/-- A range is free. -/
def rangeFree (rs : List (Nat × Nat)) (base size : Nat) : Bool :=
  base + size ≤ sliceSize && rs.all (fun r => r.2 = 0 || size = 0 || base + size ≤ r.1 || r.1 + r.2 ≤ base)

/-- The lowest free base of a range, 256-byte aligned. -/
def firstFit (rs : List (Nat × Nat)) (size : Nat) : Option Nat :=
  let cs := (0 :: rs.map (fun r => (r.1 + r.2 + 255) / 256 * 256)).filter (fun b => rangeFree rs b size)
  match cs with
  | [] => none
  | c :: cs => some (cs.foldl min c)

/-- The lowest free bases of some ranges, one after another. -/
def fitAll (rs : List (Nat × Nat)) (sizes : List Nat) : Option (List Nat) :=
  match sizes with
  | [] => some []
  | n :: ns => match firstFit rs n with
    | none => none
    | some b => (fitAll ((b, n) :: rs) ns).map (fun bs => b :: bs)

/-- The register files hold the block's rows (R373). -/
def CoreUse.regsOk (u : CoreUse) (t : Tree) (q0 : Nat) : Bool :=
  (List.range 4).all (fun d => u.regs.getD ((q0 + d) % 4) 0 + t.rowsAt d * t.laneRegs ≤ 1024)

/-- The scoped and lehr capacities hold (R16, R373). -/
def CoreUse.capsOk (u : CoreUse) (t : Tree) (q0 : Nat) : Bool :=
  (List.range 4).all (fun d => u.qregs.getD ((q0 + d) % 4) 0 + t.scopedAt d ≤ 1792)
    && u.cregs + t.coreRegs ≤ 1024 && u.lehrs + t.lehrNeed ≤ 256

/-- The scratch of a block with the home-slice allocations, as (level, size), made with it. -/
def CoreUse.scratchPlan (u : CoreUse) (t : Tree) (exact_ : Bool) (needs : List (Nat × Nat)) :
    Option (Nat × Nat × List (Nat × Nat × Nat)) :=
  (fitAll u.ranges (t.winSize :: (if exact_ then phaseStore else 0) :: needs.map (fun n => n.2))).map (fun bs =>
    (bs.getD 0 0, bs.getD 1 0, (needs.zip (bs.drop 2)).map (fun n => (n.1.1, n.2, n.1.2))))

/-- The firmware's place for a block, when the core can take it (R369, R370). -/
def CoreUse.plan? (u : CoreUse) (t : Tree) (exact_ : Bool) (needs : List (Nat × Nat)) : Option Plan :=
  let q0 := u.bestQuad t
  match (List.range 16).find? (fun i => !u.slots.contains i), u.scratchPlan t exact_ needs with
  | some slot, some sp =>
    if (List.range 4).all (fun d => t.rowsAt d ≤ u.freeRows t ((q0 + d) % 4)) && u.regsOk t q0 && u.capsOk t q0 then
      some ⟨slot, q0, rowPlan t q0 u.freePos, sp.1, sp.2.1, sp.2.2⟩
    else none
  | _, _ => none

/-- Copies of a block that an empty core takes one after another; `n` bounds them (R21). -/
def copiesFrom (u : CoreUse) (t : Tree) (exact_ : Bool) (n : Nat) : Nat :=
  match n with
  | 0 => 0
  | n + 1 => match u.plan? t exact_ [] with
    | some p => 1 + copiesFrom (u.add t exact_ p) t exact_ n
    | none => 0

/-- *k* of R21. -/
def Tree.copies (t : Tree) (exact_ : Bool) : Nat := copiesFrom CoreUse.empty t exact_ 16

/-! ### Launch faults (R21) -/

/-- Clusters of a partition on a die. -/
def dieClusters (s : State) (part die : Nat) : Nat :=
  ((List.range 24).filter (fun k => (s.partClusters part).getLsbD k && clusterDie k == die)).length

/-- Clusters of a partition. -/
def partSize (s : State) (part : Nat) : Nat := ((List.range 24).filter (fun k => (s.partClusters part).getLsbD k)).length

/-- Clusters of an instance of a domain above CORE; of dies, the fullest (R15). -/
def domainClusters (s : State) (part : Nat) (d : Domain) : Nat :=
  match d with
  | .cluster => 1
  | .die => (List.range 4).foldl (fun m k => max m (dieClusters s part k)) 0
  | _ => partSize s part

/-- Ranks that a tree uses: the product of its REACH-bound fanouts. -/
def Tree.ranksUsed (t : Tree) : Nat :=
  ((List.range t.depth).map (fun l => if t.bind l == .reach then t.fan l else 1)).foldl (fun a b => a * b) 1

/-- Thread capacity of an instance (R15). -/
def capacity (s : State) (part : Nat) (t : Tree) (d : Domain) : Nat :=
  match d with
  | .lane => 1
  | .octet => 8
  | .warp => 32
  | .core => 2048
  | .reach => 32768 * partSize s part * t.ranksUsed
  | d => 32768 * domainClusters s part d

/-- Blocks of a node above the block, a persistent launch's counted as *n* (R22). -/
def Tree.blocksAt (t : Tree) (l : Nat) : Nat := if t.persist = 0 then t.blocksPer l else t.persist

/-- Threads of a node, as the checks count them (R9, R22, R23). -/
def Tree.threadsAt (t : Tree) (l : Nat) : Nat :=
  if l ≤ t.blockLvl || t.persist = 0 then t.per l
  else t.persist * t.blockThreads * (if t.bind l == .reach then t.per l / max 1 (t.per t.devLvl) else 1)

/-- A row needs more than 32 lane offsets (R18, R19). -/
def Tree.rowTooWide (t : Tree) : Bool :=
  match t.octLvl with
  | some o => 32 < 8 * ((t.rowThreads + t.per o - 1) / max 1 (t.per o))
  | none => 32 < t.rowThreads

/-- TREE_FIT. -/
def treeFit (s : State) (x : Nat) (t : Tree) : Bool :=
  let part := (s.ctx x).part
  let ls := List.range t.depth
  ls.all (fun l => l = 0 || t.fan l ≠ 0)
    && ls.all (fun l => t.threadsAt l ≤ capacity s part t (t.bind l))
    && !t.rowTooWide
    && (match s.groupOf x t.group with
      | some g => t.ranksUsed ≤ g.size
      | none => true)
    && (t.persist = 0 || (t.persist ≤ t.blocks && ls.all (fun l => l ≤ t.blockLvl || 6 ≤ (t.bind l).code)))

/-- TREE_RES (R21). "A home slice's allocation of R17" is read as the sum over the levels above CORE, since one slice may be the home
of a node of each (log 87). -/
def treeRes (s : State) (x : Nat) (t : Tree) (exact_ : Bool) : Bool :=
  let part := (s.ctx x).part
  let ls := (List.range t.depth).filter (fun l => l != 0)
  let k := t.copies exact_
  1 ≤ t.lanes && t.lanes ≤ 16
    && ls.all (fun l =>
      let e := t.level l
      e.scratch % 256 = 0 && e.regs ≤ 32 && e.lehr ≤ 8 && (e.lehr = 0 || e.bind == .warp || e.bind == .core)
        && (e.bind != .reach || (e.regs = 0 && e.scratch = 0 && e.lehr = 0)))
    && 1 ≤ k
    && t.highLevels.all (fun l => t.blocksAt l ≤ k * (16 * domainClusters s part (t.bind l)))
    && (t.highLevels.map t.homeBytes).sum + t.slice exact_ ≤ sliceSize

/-- The first launch check that fails (R21). -/
def treeFault (s : State) (x : Nat) (t : Tree) (det : Nat) : Option Nat :=
  let exact_ := det == 2
  if t.depth = 0 || 16 < t.depth then some 0x20
  else if !(List.range (t.depth - 1)).all (fun l => (t.bind l).code ≤ (t.bind (l + 1)).code) then some 0x21
  else if !treeFit s x t then some 0x22
  else if !treeRes s x t exact_ then some 0x23
  else if (List.range t.depth).any (fun l => t.bind l == .reach) && (t.group = 0 || (s.groupOf x t.group).isNone) then some 0x24
  else if det = 3 || (exact_ && (t.persist = 0
      || t.copies exact_ * (16 * partSize s (s.ctx x).part) < t.persist)) then some 0x25
  else none

/-! ### Where a block may go (R24, R370) -/

/-- The home-slice allocations to make with block `lin`: levels whose node has none yet, with their sizes. -/
def Launch.nodeNeeds (ln : Launch) (lin : Nat) : List (Nat × Nat) :=
  (ln.tree.highLevels.filter (fun l => (Tab.find? ln.nodes (highKey l (ln.tree.highNode l lin))).isNone)).map (fun l =>
    (l, ln.tree.homeBytes l))

/-- The core lies in the instances chosen for the block's nodes, or that can be chosen for them (R24). -/
def instanceOk (s : State) (ln : Launch) (lin c : Nat) : Bool :=
  ln.tree.highLevels.all (fun l =>
    match Tab.find? ln.nodes (highKey l (ln.tree.highNode l lin)), ln.tree.bind l with
    | some nd, .cluster => nd.core / 16 == c / 16
    | some nd, .die => clusterDie (nd.core / 16) == clusterDie (c / 16)
    | none, .die => ln.tree.threadsAt l ≤ 32768 * dieClusters s (s.ctx ln.ctx).part (clusterDie (c / 16))
    | _, _ => true)

/-- The core holds a block of another context, or one that is being pre-empted. -/
def coreTaken (s : State) (c x : Nat) : Bool :=
  (s.core c).preempt.isSome || (s.core c).arch.blocks.any (fun e => s.ctxOf e.2 != x)

/-- The place that core `c` offers a block (R370). -/
def corePlan (s : State) (ln : Launch) (lin c : Nat) : Option Plan :=
  if !s.inPart (s.ctx ln.ctx).part c || coreTaken s c ln.ctx || !instanceOk s ln lin c then none
  else (s.use c ln.ctx).plan? ln.tree (ln.det == 2) (ln.nodeNeeds lin)

/-- Cores of a partition, ascending. -/
def partCores (s : State) (p : Nat) : List Nat :=
  ((List.range 24).filter (fun k => (s.partClusters p).getLsbD k)).flatMap (fun k => (List.range 16).map (fun i => 16 * k + i))

/-- The firmware's choice for a block: the core with the most free rows, the lowest number on a tie (R369). -/
def chooseCore (s : State) (ln : Launch) (lin : Nat) : Option (Nat × Plan) :=
  let cs := (partCores s (s.ctx ln.ctx).part).filterMap (fun c => (corePlan s ln lin c).map (fun p =>
    (c, p, (s.use c ln.ctx).allRows ln.tree)))
  match cs with
  | [] => none
  | c :: cs =>
    let best := cs.foldl (fun (b : Nat × Plan × Nat) e => if b.2.2 < e.2.2 then e else b) c
    some (best.1, best.2.1)

/-! ### Placement (R373) -/

/-- The thread of logical id `i` of a block (R18-R20, R47, R49). -/
def newThread (t : Tree) (rows : List (Nat × Nat)) (pc : Word) (i : Nat) : Thread :=
  let row := i / max 1 t.rowThreads
  let r := i % max 1 t.rowThreads
  let at_ := rows.getD row (0, 0)
  { handlerThread pc with ltid := i, row := row, quad := at_.1, pos := at_.2, off := t.laneOff r, rank := r }

/-- A block at its place (R47, R49, R52). -/
def newBlock (ln : Launch) (l lin seq : Nat) (p : Plan) : Block :=
  { launch := l, lin := lin, q0 := p.q0, winBase := p.win, winSize := ln.tree.winSize, pstore := p.pst, seq := seq
    threads := (List.range ln.tree.blockThreads).map (newThread ln.tree p.rows ln.entry)
    fair := [⟨0, 0⟩, ⟨0, 0⟩, ⟨0, 0⟩, ⟨0, 0⟩], nregs := [], lehrs := [], bars := [], wnCount := 0, wnWait := [], phase := 0
    pdone := false, pover := [], pops := [], pheld := [], plines := [], deferred := [], ldx := [], failing := false }

/-- The scratch ranges of a core that pre-empted blocks of other contexts left, with their contexts (R391). -/
def leftRanges (s : State) (c x : Nat) : List (Nat × Nat × Nat) :=
  let k := s.core c
  ((k.saved.map (fun v => v.ctx)).dedup.filter (fun y => y != x)).flatMap (fun y => (savedRanges s c y).map (fun r => (y, r)))
    ++ s.launches.flatMap (fun ln => if ln.ctx != x && k.saved.any (fun v => v.ctx == ln.ctx)
      then (ln.nodes.filter (fun n => n.2.core == c)).map (fun n => (ln.ctx, n.2.base, n.2.size)) else [])

/-- Allocations that new ranges meet are copied out to the save area first (R391). -/
def State.copyOut (s : State) (c x : Nat) (rs : List (Nat × Nat)) : State :=
  (leftRanges s c x).foldl (fun s r =>
    let new : CopyOut := ⟨c, r.2.1, r.2.2, r.1, [], []⟩
    let meets := rs.any (fun q => q.1 < r.2.1 + r.2.2 && r.2.1 < q.1 + q.2)
    if !meets || s.copiedOut.any (fun o => o.core == c && o.base == r.2.1 && o.ctx == r.1) then s
    else { s.writeSave r.1 with copiedOut := s.copiedOut ++ [{ new with
      cells := s.mem.filter (fun e => new.lo ≤ e.1 && e.1 < new.hi)
      plat := s.plat.filter (fun (e : Nat × Plat) => new.lo ≤ 256 * e.1 && 256 * e.1 < new.hi) }] }) s

/-- The plat lists nothing of newly allocated ranges: their ownership is that of their allocation (R120). A line of an earlier block's
window that a live launch had made SHARED starts anew as well, though R121 lets none move back (log 88). -/
def State.dropRanges (s : State) (c : Nat) (rs : List (Nat × Nat)) : State :=
  { s with plat := s.plat.filter (fun (e : Nat × Plat) => !rs.any (fun r =>
      sliceKey (c * sliceSize + r.1) ≤ 256 * e.1 && 256 * e.1 < sliceKey (c * sliceSize + r.1 + r.2))) }

/-- The nodes whose first block is placed: their allocations, scoped registers zeroed, and new barrier objects (R17, R52, R260). -/
def State.placeNodes (s : State) (c l lin : Nat) (ln : Launch) (p : Plan) : State :=
  p.nodes.foldl (fun s n =>
    let s := s.writeMem (sliceKey (c * sliceSize + n.2.1)) (natLe (ln.tree.regBytes n.1) 0)
    s.updLaunch l (fun ln => { ln with
      nodes := Tab.put ln.nodes (highKey n.1 (ln.tree.highNode n.1 lin)) ⟨c, n.2.1, n.2.2, Bar.new⟩ })) s

/-- The first placement of a launch, or of an instance of a template, makes it running (R361, R373). -/
def State.running (s : State) (l : Nat) : State :=
  let up := fun (s : State) (l : Nat) => match s.launch? l with
    | some ln => if ln.status = 2 then s.setStatus l 3 else s
    | none => s
  match (s.launch? l).bind (fun ln => ln.parent) with
  | some t => up (up s l) t
  | none => up s l

/-- Places the next block of a launch (R24, R370, R373). -/
def State.placeBlock (s : State) (c l : Nat) (ln : Launch) (p : Plan) : State :=
  let lin := ln.next
  let rs := (p.win, ln.tree.winSize) :: (if ln.det = 2 then [(p.pst, phaseStore)] else [])
    ++ p.nodes.map (fun n => (n.2.1, n.2.2))
  let s := s.copyOut c ln.ctx rs
  let s := (s.dropRanges c rs).dropL1 c false
  let s := if (s.core c).arch.blocks.isEmpty then s.takeCore c ln.ctx else s
  let s := s.placeNodes c l lin ln p
  let s := s.updBoth c (fun a => { a with blocks := Tab.put a.blocks p.slot (newBlock ln l lin s.blockSeq p) })
  let s := { s.updLaunch l (fun ln => { ln with next := ln.next + 1 }) with blockSeq := s.blockSeq + 1 }
  (s.running l).memberChecks l

end Sys2Proof.Machine
end

