-- ==== Sys2Proof/Machine/Sched.lean ====
section
/-! DEFINITION. Launch queues and packets, the dequeue of records, the scheduling pass, bind records, and pre-emption (R360-R375,
R389-R392). -/

namespace Sys2Proof.Machine

/-- The answer of a scheduling event. -/
abbrev SchedOut := Host.Outcome State Fault Refusal

/-! ### Queues (R363) -/

/-- A queue descriptor: its address and fields. -/
structure QDesc where
  key     : Nat
  base    : Nat
  log     : Nat
  cls     : Nat
  level   : Nat
  enabled : Bool
  head    : Nat
deriving DecidableEq, Repr

/-- A queue's descriptor. -/
def qDesc (s : State) (x q : Nat) : QDesc :=
  let k := (s.ctx x).qtable.toNat + 64 * q
  { key := k, base := s.natMem k 8 % 2 ^ 56, log := s.natMem (k + 8) 1, cls := s.natMem (k + 9) 1
    level := s.natMem (k + 0xA) 1 % 4, enabled := s.natMem (k + 0xB) 1 % 2 == 1, head := s.natMem (k + 0x10) 8 }

def State.queue (s : State) (x q : Nat) : QueueSt := Tab.get ⟨0, false, false⟩ (s.ctx x).queues q
def State.setQueue (s : State) (x q : Nat) (v : QueueSt) : State :=
  s.updCtx x (fun c => { c with queues := Tab.set ⟨0, false, false⟩ c.queues q v })

/-- A doorbell write takes effect: the queue's descriptor is read (R363). -/
def State.doorbell (s : State) (x q : Nat) (value : Word) : State :=
  if !(s.ctx x).created then s
  else
    let d := qDesc s x q
    let qs := s.queue x q
    let last := max qs.tail d.head
    let s := s.lookAt d.key 64
    if !d.enabled || d.log < 4 || 16 < d.log || value.toNat < last || d.head + 2 ^ d.log < value.toNat then s.postQueue x 0 0x34 q
    else s.setQueue x q ⟨value.toNat, true, qs.on && qs.waiting⟩

/-- The host's waiting writes of BAR0: of group entries, and, by context at 256 and above, the invalidation that must have completed. -/
def hostPending (s : State) : List (Nat × Word) :=
  s.groupWait ++ s.ctxs.filterMap (fun (x : Nat × Ctx) => if x.2.invWait.isEmpty then none
    else some (256 + x.1, x.2.invs + BitVec.ofNat 64 x.2.invWait.length))

/-- Such a write has still to take effect. -/
def hostWaits (s : State) (w : Nat × Word) : Bool :=
  if w.1 < 256 then s.groupWait.contains w else (s.ctx (w.1 - 256)).invs.toNat < w.2.toNat

/-- DOORBELL: a write of BAR4, which takes effect after the host's writes before it (R363, R418). -/
def execDoorbell (off : Nat) (value : Word) (s : State) : SchedOut :=
  let x := off / 4096
  let q := off % 4096 / 8
  .next (if off % 8 ≠ 0 || 64 ≤ x || 256 ≤ q then s
    else if s.bar2Wait.isEmpty && (hostPending s).isEmpty then s.doorbell x q value
    else { s with bar2Wait := s.bar2Wait ++ [.doorbell x q value (hostPending s)] })

/-! ### Packets (R364) -/

/-- A packet at the head of a queue: its descriptor, type, operand address, value, and whether other bytes are zero. -/
structure Packet64 where
  d    : QDesc
  ty   : Nat
  addr : Nat
  val  : Word
  good : Bool
deriving DecidableEq, Repr

/-- The packet at the head of a queue, when the device consumes packets there (R363, R425). -/
def headPacket (s : State) (x q : Nat) : Option Packet64 :=
  let d := qDesc s x q
  let qs := s.queue x q
  if !(s.ctx x).created || !qs.on || qs.tail ≤ d.head || s.fwSwitch != .none || !d.enabled then none
  else
    let k := d.base + 64 * (d.head % 2 ^ d.log)
    some ⟨d, s.natMem k 1, s.natMem (k + 8) 8 % 2 ^ 56, s.wordMem (k + 0x10),
      s.natMem (k + 1) 7 == 0 && s.natMem (k + 0x18) 40 == 0⟩

/-- The head moves past a packet (R364). -/
def State.consume (s : State) (x q : Nat) (p : Packet64) : State :=
  let s := s.outWrite (p.d.key + 0x10) (natLe 8 (p.d.head + 1))
  s.setQueue x q { s.queue x q with waiting := false }

/-- A packet is skipped with event code 0x33 (R364). -/
def State.skip (s : State) (x q : Nat) (p : Packet64) : State := (s.consume x q p).postQueue x 0 0x33 q

/-- A queue whose `enabled` bit has been cleared stops at the next packet boundary (R363). -/
def State.stopQueue (s : State) (x q : Nat) : State :=
  let qs := s.queue x q
  if qs.on && !(qDesc s x q).enabled then s.setQueue x q ⟨qs.tail, false, false⟩ else s

/-- A packet and its queue's descriptor have been read (R120, R363). -/
def State.sawPacket (s : State) (p : Packet64) : State :=
  (s.lookAt p.d.key 64).lookAt (p.d.base + 64 * (p.d.head % 2 ^ p.d.log)) 64

/-- A packet of one type is consumed. -/
def onPacket (s : State) (x q ty : Nat) (act : Packet64 → State → State) : SchedOut :=
  .next (match headPacket s x q with
    | some p => if p.good && p.ty = ty then act p (s.sawPacket p) else s
    | none => s.stopQueue x q)

/-- PACKET_NOP (R364). -/
def execPacketNop (ctx queue : Nat) (s : State) : SchedOut := onPacket s ctx queue 0 (fun p s => s.consume ctx queue p)

/-- DECR_PACKET (R364, R366). -/
def execDecrPacket (ctx queue : Nat) (s : State) : SchedOut :=
  onPacket s ctx queue 2 (fun p s =>
    if p.val = 0 || 2 ^ 32 ≤ p.val.toNat then s.skip ctx queue p
    else (s.decrement ctx queue p.addr p.val.toNat).consume ctx queue p)

/-- Every launch dequeued earlier from the queue is in an end state (R364). -/
def queueIdle (s : State) (x q : Nat) : Bool :=
  s.launches.all (fun ln => ln.ctx != x || ln.queue != q || ln.parent.isSome || isEnd ln.status)

/-- A packet that waits for the launches before it: its action, or the wait (R364). -/
def State.waitPacket (s : State) (x q : Nat) (p : Packet64) (act : State → State) : State :=
  if queueIdle s x q then (act s).consume x q p else s.setQueue x q { s.queue x q with waiting := true }

/-- SETDET (R364). -/
def execSetdet (ctx queue : Nat) (s : State) : SchedOut :=
  onPacket s ctx queue 3 (fun p s =>
    if 3 < p.val.toNat then s.skip ctx queue p
    else s.waitPacket ctx queue p (fun s => s.outWrite (p.d.key + 0xA) (natLe 1 p.val.toNat)))

/-- QFENCE (R364). -/
def execQfence (ctx queue : Nat) (s : State) : SchedOut :=
  onPacket s ctx queue 4 (fun p s => s.waitPacket ctx queue p (fun s => s))

/-- QUEUE_WAIT_RELEASE: the launches that a SETDET or QFENCE waited for have ended (R364). -/
def execQueueWaitRelease (ctx queue : Nat) (s : State) : SchedOut :=
  if (s.queue ctx queue).waiting && queueIdle s ctx queue then
    match headPacket s ctx queue with
    | some p => if p.ty = 3 then execSetdet ctx queue s else execQfence ctx queue s
    | none => .next s
  else .next s

/-- UNASSIGNED_PACKET: an unassigned type, or a byte set that is to be zero (R364). -/
def execUnassignedPacket (ctx queue : Nat) (s : State) : SchedOut :=
  .next (match headPacket s ctx queue with
    | some p => if 4 < p.ty || !p.good then (s.sawPacket p).skip ctx queue p else s
    | none => s.stopQueue ctx queue)

/-! ### Dequeue (R360-R365) -/

/-- The tree descriptor of a record (R12, R13). -/
def readTree (s : State) (rec : Nat) : Tree :=
  let h := s.natMem (rec + 0x100) 16
  let d := h % 32
  { depth := d, lanes := h / 2 ^ 8 % 256, persist := h / 2 ^ 32 % 2 ^ 16, group := h / 2 ^ 48 % 2 ^ 16
    levels := (List.range (min 15 (d - 1))).map (fun i =>
      let e := s.natMem (rec + 0x110 + 16 * i) 16
      { bind := Domain.ofCode (e / 2 ^ 16 % 8), fanout := e % 2 ^ 16, regs := e / 2 ^ 24 % 64, lehr := e / 2 ^ 32 % 16
        scratch := e / 2 ^ 64 % 2 ^ 32 }) }

/-- The instance block array of a template lies on writable pages of kind COMMITTED or RELEASE (R429). -/
def arrayOk (s : State) (x base log : Nat) : Bool :=
  (pieces base (64 * 2 ^ log)).all (fun p => match region (BitVec.ofNat 64 p.1), walkRes s x p.1 .write with
    | .translated, .ok t => t.kind = 0 || t.kind = 1
    | _, _ => false)

/-- The record is well formed (R360, R362, R429). -/
def recordOk (s : State) (x rec : Nat) : Bool :=
  let n := fun (o k : Nat) => s.natMem (rec + o) k
  let tmpl := n 3 1 / 2 % 2 == 1
  n 0 2 == 1 && (n 2 1 ≤ 2 || n 2 1 == 0xFF) && n 3 1 ≤ 3 && n 0x1C 4 == 0 && n 0x60 4 ≤ 65535 && n 0x64 2 ≤ 2047
    && n 0x66 2 ≤ 1 && n 0x7C 4 == 0 && n 0xA0 96 == 0
    && (if tmpl then 1 ≤ n 0x18 4 && n 0x18 4 ≤ 65535 && n 0x70 8 % 64 == 0 && 6 ≤ n 0x78 4 && n 0x78 4 ≤ 20
          && n 0x80 8 % 64 == 0 && arrayOk s x (n 0x80 8) (n 0x78 4)
        else n 0x70 8 == 0)

/-- The launch that a record describes, with what its dequeue captures, the rank of this device in its group among it (R69, R360, R365). Bits
2:0 of its entry are taken as zero, as those of every PC are (R164; log 107, DESIGN CHOICE). -/
def readLaunch (s : State) (x q rec : Nat) (d : QDesc) : Launch :=
  let n := fun (o k : Nat) => s.natMem (rec + o) k
  let c := s.ctx x
  let log := n 0x78 4
  let ln : Launch := { Launch.blank with
    rec_ := rec, ctx := x, queue := q, seqNo := c.lseq, tree := readTree s rec, entry := s.wordMem (rec + 8) &&& ~~~7
    arg := s.wordMem (rec + 0x28), seed := c.seed, det := d.level, fairThr := (c.fair.extractLsb' 0 16).toNat
    fairWin := (c.fair.extractLsb' 16 16).toNat, race := c.race.getLsbD 0, cls := d.cls, budget := n 0x48 8
    reserve := n 0x50 8, depsAddr := n 0x58 8 % 2 ^ 56, nDeps := n 0x60 4, vec := n 0x64 2 % 2048
    raises := n 0x66 2 % 2 == 1, doneWord := n 0x68 8 % 2 ^ 56
    succ := if n 3 1 % 2 == 1 then some (n 0x10 8 % 2 ^ 56) else none
    thresh := max 1 (n 0x18 4), template := n 3 1 / 2 % 2 == 1, inBase := n 0x70 8, inLog := min 20 log
    instBase := n 0x80 8, status := 1 }
  { ln with dev := s.devRank ln }

/-- What a dequeue captures into the record (R365). -/
def State.capture (s : State) (rec : Nat) (ln : Launch) (c : Ctx) : State :=
  let s := s.outWrite (rec + 0x35) (natLe 1 ln.det ++ natLe 2 ln.queue)
  let s := s.outWrite (rec + 0x38) (natLe 8 ln.seed.toNat ++ natLe 4 c.fair.toNat ++ natLe 4 c.race.toNat)
  s.outWrite (rec + 0x98) (natLe 8 ln.seqNo)

/-- A producer of a template has ended and feeds no earlier template (R367). -/
def producerGone (s : State) (rec : Nat) : Option Nat :=
  (List.range s.launches.length).find? (fun l => match s.launch? l with
    | some ln => ln.succ == some rec && ln.parent.isNone && isEnd ln.status
        && !s.launches.any (fun tn => tn.producer == some l)
    | none => false)

/-- The check of a dequeued record: the status of the first that fails (R362). -/
def dequeueFault (s : State) (x rec : Nat) (ln : Launch) : Option Nat :=
  let lv := s.natMem (rec + 2) 1
  if !recordOk s x rec then some 0x31
  else if lv ≠ 0xFF && lv ≠ ln.det then some 0x30
  else treeFault s x ln.tree ln.det

/-- Dequeues a record (R362, R365). -/
def State.dequeue (s : State) (x q rec : Nat) (d : QDesc) : State :=
  if s.natMem (rec + 0x34) 1 ≠ 0 then s.postQueue x rec 0x32 q
  else
    let ln := readLaunch s x q rec d
    let gone := if ln.template then producerGone s rec else none
    let n := appended s rec
    let l := s.launches.length
    let s := (s.lookAt rec 0x200).capture rec ln (s.ctx x)
    let s := if ln.template then s.outWrite (rec + 0x88) (natLe 8 n ++ natLe 8 0) else s
    let s := s.updCtx x (fun c => { c with lseq := c.lseq + 1 })
    let s := { s with launches := s.launches ++ [{ ln with prodDone := gone.isSome, producer := gone, appended := n }] }
    match dequeueFault s x rec ln with
    | some st => s.endRecord l st
    | none =>
      let s := s.setStatus l 1
      if s.natMem (rec + 0x30) 4 = 0 then s.makeReady l else s

/-- LAUNCH_PACKET (R362, R364, R365). -/
def execLaunchPacket (ctx queue : Nat) (s : State) : SchedOut :=
  onPacket s ctx queue 1 (fun p s => (s.dequeue ctx queue p.addr p.d).consume ctx queue p)

/-! ### Precedence (R369) -/

/-- The deadline of a launch with a budget. -/
def Launch.deadline (ln : Launch) : Nat := ln.readyAt + ln.budget

/-- The launch is ready or running and has a block to place. -/
def Launch.unplaced (ln : Launch) : Bool :=
  !ln.template && (ln.status == 2 || ln.status == 3) && ln.next < ln.tree.placed

/-- Launch `a` goes before launch `b`, or they are equal in precedence. -/
def Launch.before (a b : Launch) : Bool :=
  if a.cls ≠ b.cls then a.cls < b.cls
  else if a.budget ≠ 0 && b.budget = 0 then true
  else if a.budget = 0 && b.budget ≠ 0 then false
  else if a.budget ≠ 0 && a.deadline ≠ b.deadline then a.deadline < b.deadline
  else a.readySeq ≤ b.readySeq

/-- No lower instance of the same template has an unplaced block (R367). -/
def lowerPlaced (s : State) (ln : Launch) : Bool :=
  match ln.parent with
  | none => true
  | some t => s.launches.all (fun o => o.parent != some t || ln.instance_ ≤ o.instance_ || !o.unplaced)

/-- The launches of a partition that the firmware schedules, in order of precedence (R369, R374). -/
def scheduled (s : State) (part : Nat) : List Nat :=
  let ls := (List.range s.launches.length).filterMap (fun l => (s.launch? l).map (fun ln => (l, ln)))
  ((ls.filter (fun e => (s.ctx e.2.ctx).created && (s.ctx e.2.ctx).part == part && !(s.ctx e.2.ctx).mode.getLsbD 0
      && !e.2.template && (e.2.status == 2 || e.2.status == 3))).insertionSort (fun a b => a.2.before b.2)).map (fun e => e.1)

/-! ### Pre-empted blocks (R371, R390, R391) -/

/-- A core in a save area that holds a block: its position in the core's list, and the block. -/
structure SavedAt where
  core : Nat
  pos  : Nat
  slot : Nat
  blk  : Block
deriving DecidableEq, Repr

/-- The pre-empted blocks of a launch. -/
def savedBlocks (s : State) (l : Nat) : List SavedAt :=
  s.cores.flatMap (fun (k : Nat × CoreSt) => (List.range k.2.saved.length).flatMap (fun i => match k.2.saved[i]? with
    | some v => (v.arch.blocks.filter (fun (e : Nat × Block) => e.1 != handlerSlot && e.2.launch == l)).map
        (fun (e : Nat × Block) => ⟨k.1, i, e.1, e.2⟩)
    | none => []))

/-- The copied-out allocations of a context on a core can come back: their ranges are free (R391). -/
def copiesFree (s : State) (c x : Nat) : Bool :=
  s.copiedOut.all (fun r => r.core != c || r.ctx != x || rangeFree ((s.useNow c x).ranges.filter (fun q =>
    !(q.1 == r.base && q.2 == r.size))) r.base r.size)

/-- The core can take a pre-empted block again, on its slot and rows (R371, R373). -/
def canResume (s : State) (v : SavedAt) : Bool :=
  let ln := s.launchOf v.blk
  let u := s.useNow v.core ln.ctx
  let t := ln.tree
  !coreTaken s v.core ln.ctx && s.inPart (s.ctx ln.ctx).part v.core && !u.slots.contains v.slot
    && v.blk.rowPlaces.all (fun e => !u.rows.contains e)
    && u.regsOk t v.blk.q0 && u.capsOk t v.blk.q0
    && rangeFree u.ranges v.blk.winBase v.blk.winSize
    && (ln.det ≠ 2 || rangeFree u.ranges v.blk.pstore phaseStore) && copiesFree s v.core ln.ctx
    && (match (s.core v.core).saved[v.pos]?, (s.core v.core).arch.serving with
      | some sv, some _ => match sv.arch.serving with
        | some f => f.slot ≠ v.slot
        | none => true
      | _, _ => true)

/-- Copied-out allocations of a context return to a core's slice (R391). -/
def State.copyBack (s : State) (c x : Nat) : State :=
  let rs := s.copiedOut.filter (fun r => r.core == c && r.ctx == x)
  { s with
    mem := rs.foldl (fun m r => Memory.apply (m.filter (fun (e : Host.Cell) => !(r.lo ≤ e.1 && e.1 < r.hi))) r.cells) s.mem
    plat := rs.foldl (fun t r => r.plat.foldl (fun t e => Tab.set .unowned t e.1 e.2) (t.filter (fun (e : Nat × Plat) =>
      !(r.lo ≤ 256 * e.1 && 256 * e.1 < r.hi)))) s.plat
    copiedOut := s.copiedOut.filter (fun r => !(r.core == c && r.ctx == x)) }

/-- A block returns from a save area into the core's state, with the faults, the handler and the selections that belong to it. -/
def CoreArch.giveBack (a : CoreArch) (from_ : CoreArch) (slot : Nat) (b : Block) : CoreArch :=
  let mine := fun (f : FaultRec) => f.slot == slot
  let a := { a with
    blocks := Tab.put a.blocks slot b, faultq := a.faultq ++ from_.faultq.filter mine
    fwd := a.fwd ++ from_.fwd.filter (fun f => mine f.2), descs := a.descs ++ from_.descs.filter (fun d => d.2.1 == slot) }
  let a := if from_.grpValid && from_.grpSlot = slot then { a with
    grpValid := true, grpQuad := from_.grpQuad, grpSlot := slot, grpTids := from_.grpTids } else a
  match from_.serving with
  | some f =>
    if f.slot = slot then
      let a := { a with
        serving := some f, cause := from_.cause, epc := from_.epc, emask := from_.emask, eaddr := from_.eaddr
        grpEntry := from_.grpEntry }
      match Tab.find? from_.blocks handlerSlot with
      | some h => { a with blocks := Tab.put a.blocks handlerSlot h }
      | none => a
    else a
  | none => a

/-- What a save area still holds when a block has left it. -/
def CoreArch.without (a : CoreArch) (slot : Nat) : CoreArch :=
  let mine := fun (f : FaultRec) => f.slot == slot
  let served := match a.serving with
    | some f => f.slot == slot
    | none => false
  { a with
    blocks := Tab.del (if served then Tab.del a.blocks handlerSlot else a.blocks) slot
    serving := if served then none else a.serving, faultq := a.faultq.filter (fun f => !mine f)
    fwd := a.fwd.filter (fun f => !mine f.2), descs := a.descs.filter (fun d => d.2.1 != slot) }

/-- A pre-empted block resumes (R371, R390, R391). -/
def State.resumeBlock (s : State) (v : SavedAt) : State :=
  let x := s.ctxOf v.blk
  match (s.core v.core).saved[v.pos]? with
  | none => s
  | some sv =>
    let back := (s.copiedOut.filter (fun r => r.core == v.core && r.ctx == x)).map (fun r => (r.base, r.size))
    let s := (s.copyOut v.core x back).copyBack v.core x
    let s := if (s.core v.core).arch.blocks.isEmpty then s.takeCore v.core x else s
    let rest := sv.arch.without v.slot
    let s := s.updBoth v.core (fun a => a.giveBack sv.arch v.slot v.blk)
    let s := s.updCore v.core (fun k => { k with saved := (k.saved.set v.pos { sv with arch := rest }).filter (fun o =>
      !o.arch.blocks.isEmpty) })
    let s := if (s.core v.core).chunk.fresh then s.enterHandlers v.core else s
    let s := s.updBoth v.core CoreArch.wakePops
    let s := if s.isExact v.slot v.blk then s
      else v.blk.threads.foldl (fun s th => s.reevaluate v.core v.slot th.ltid) s
    (s.wakeDrains v.core).memberChecks v.blk.launch

/-! ### The scheduling pass (R369, R370) -/

/-- Places the next block of a launch where the firmware would, if a core can take it. -/
def placeNext (s : State) (l : Nat) : Option State :=
  match s.launch? l with
  | none => none
  | some ln => (chooseCore s ln ln.next).map (fun p => s.placeBlock p.1 l ln p.2)

/-- Places `n` blocks of a launch, or none. -/
def placeMany (s : State) (l n : Nat) : Option State :=
  match n with
  | 0 => some s
  | n + 1 => match placeNext s l with
    | some s' => placeMany s' l n
    | none => none

/-- The launch has an unplaced block that some core could take; so has a persistent launch of which not all blocks fit (R369, R370). -/
def couldPlace (s : State) (l : Nat) : Bool :=
  match s.launch? l with
  | some ln => ln.unplaced && lowerPlaced s ln && (chooseCore s ln ln.next).isSome
  | none => false

/-- The pre-empted blocks of a launch whose cores can take them again resume; `n` bounds them (R369, R371). -/
def State.resumeAll (s : State) (l n : Nat) : State :=
  match n with
  | 0 => s
  | n + 1 => match (savedBlocks s l).find? (canResume s) with
    | some v => (s.resumeBlock v).resumeAll l n
    | none => s

/-- The next unplaced block of a launch is placed, or all blocks of a persistent one, where a core can take it (R369, R370). -/
def State.placeTurn (s : State) (l : Nat) : State :=
  match s.launch? l with
  | none => s
  | some ln =>
    if !ln.unplaced || !lowerPlaced s ln then s
    else (placeMany s l (if ln.tree.persist ≠ 0 && ln.next = 0 then ln.tree.persist else 1)).getD s

/-- The turn of a launch in a pass: its pre-empted blocks resume, then its next block is placed. A resumption too waits while a launch
ahead has an unplaced block that any core could take, as the worked example of spec/17_scheduling.md shows (R369; log 60). -/
def State.passTurn (s : State) (l : Nat) (ahead : List Nat) : State :=
  if ahead.any (couldPlace s) then s else (s.resumeAll l (savedBlocks s l).length).placeTurn l

/-- One pass over the launches, in order of precedence (R369). -/
def State.passOver (s : State) (ls ahead : List Nat) : State :=
  match ls with
  | [] => s
  | l :: rest => (s.passTurn l ahead).passOver rest (ahead ++ [l])

/-- Pre-empted blocks. -/
def savedCount (s : State) : Nat :=
  (s.cores.map (fun (k : Nat × CoreSt) => (k.2.saved.map (fun v => v.arch.blocks.length)).sum)).sum

/-- Repeats the pass until nothing changes; `n` bounds the rounds. -/
def State.passes (s : State) (part n : Nat) : State :=
  match n with
  | 0 => s
  | n + 1 =>
    let s' := s.passOver (scheduled s part) []
    if s'.blockSeq = s.blockSeq && savedCount s' = savedCount s then s else s'.passes part n

/-- Blocks that a pass could place or resume. -/
def passBound (s : State) : Nat :=
  16 * 384 + savedCount s

/-- SCHEDULING_PASS (R369, R425). -/
def execSchedulingPass (part : Nat) (s : State) : SchedOut :=
  .next (if s.fwSwitch != .none || s.stopped then s else s.passes part (passBound s))

/-! ### Bind records (R372, R373) -/

/-- Fields of a bind record. -/
def bindField (r : BitVec 256) (lo n : Nat) : Nat := (r.toNat / 2 ^ lo) % 2 ^ n

/-- The launch that a bind record names: that of the record, whose `inst` is then 0, or the instance of its template (R372). -/
def bindLaunch (s : State) (r : BitVec 256) : Option Nat :=
  match launchOfRec s (bindField r 192 56) with
  | none => none
  | some l => match s.launch? l with
    | none => none
    | some ln =>
      if !ln.template then (if bindField r 96 32 = 0 then some l else none)
      else (List.range s.launches.length).reverse.find? (fun i => match s.launch? i with
        | some o => o.parent == some l && o.instance_ == bindField r 96 32
        | none => false)

/-- Row positions that a bind record gives a quadrant, from bit 0. -/
def bindPos (r : BitVec 256) (q : Nat) : List Nat :=
  (List.range 16).filter (fun i => r.getLsbD (128 + 16 * q + i))

/-- Reserved bits are zero. -/
def bindReserved (r : BitVec 256) : Bool := bindField r 248 8 = 0 && bindField r 16 48 = 0 && !r.getLsbD 4

/-- The answer to a bind record: the state, and the number of the check that failed, if any. -/
abbrev BindRes := State × Option Nat

/-- A place record (R373): its checks in order, the launch's status among them. -/
def State.bindPlace (s : State) (c : Nat) (r : BitVec 256) : BindRes :=
  let x := bindField r 8 6
  let slot := bindField r 0 4
  let q0 := bindField r 14 2
  let u := s.use c x
  if u.slots.contains slot then (s, some 1)
  else if coreTaken s c x then (s, some 2)
  else match (bindLaunch s r).bind (fun l => (s.launch? l).map (fun ln => (l, ln))) with
  | none => (s, some 3)
  | some (l, ln) =>
    let t := ln.tree
    let rows := rowPlan t q0 (bindPos r)
    let maskOk := (List.range 4).all (fun d => (bindPos r ((q0 + d) % 4)).length == t.rowsAt d)
      && rows.all (fun e => !u.rows.contains e)
    if ln.ctx ≠ x || !ln.unplaced || ln.next ≠ bindField r 64 32 || !lowerPlaced s ln then (s, some 3)
    else if !maskOk then (s, some 4)
    else if !u.regsOk t q0 then (s, some 5)
    else match u.scratchPlan t (ln.det == 2) (ln.nodeNeeds ln.next) with
      | none => (s, some 6)
      | some sp =>
        if !u.capsOk t q0 || !instanceOk s ln ln.next c || !s.inPart (s.ctx x).part c then (s, some 6)
        else (s.placeBlock c l ln ⟨slot, q0, rows, sp.1, sp.2.1, sp.2.2⟩, none)

/-- A resume record repeats the fields of the place record (R373). -/
def resumeMatches (s : State) (c : Nat) (r : BitVec 256) (v : SavedAt) : Bool :=
  let ln := s.launchOf v.blk
  v.core = c && v.slot = bindField r 0 4 && v.blk.q0 = bindField r 14 2 && v.blk.lin = bindField r 64 32
    && ln.ctx = bindField r 8 6 && bindField r 96 32 = (if ln.parent.isSome then ln.instance_ else 0)
    && (List.range 4).all (fun q => (List.range 16).all (fun p => v.blk.rowPlaces.contains (q, p) == (bindPos r q).contains p))

/-- A resume record (R371, R373): the checks of a place record in order. -/
def State.bindResume (s : State) (c : Nat) (r : BitVec 256) : BindRes :=
  let x := bindField r 8 6
  let u := s.useNow c x
  if u.slots.contains (bindField r 0 4) then (s, some 1)
  else if coreTaken s c x then (s, some 2)
  else match bindLaunch s r with
  | none => (s, some 3)
  | some l =>
    match (savedBlocks s l).find? (resumeMatches s c r) with
    | none => (s, some 0)
    | some v =>
      if v.blk.rowPlaces.any (fun e => u.rows.contains e) then (s, some 4)
      else if !u.regsOk (s.launchOf v.blk).tree v.blk.q0 then (s, some 5)
      else if canResume s v then (s.resumeBlock v, none) else (s, some 6)

/-! ### Pre-emption (R389-R391) -/

/-- LDX transfers in flight land, but those whose source has failed or is held (R389). -/
def State.landTransfers (s : State) (c : Nat) : State :=
  (s.core c).arch.blocks.foldl (fun s e =>
    (List.range e.2.ldx.length).reverse.foldl (fun s i => match execLdxTransferLanded c e.1 i s with
      | .next s' => s'
      | _ => s) s) s

/-- The open chunk of a core ends, with any suspension (R389). -/
def State.endOpen (s : State) (c : Nat) : State :=
  let h := (s.core c).chunk
  if h.fresh || h.ended then s else s.endChunk c

/-- A core is halted for pre-emption: issue stops, and its chunk ends (R389). -/
def State.startPreempt (s : State) (c x : Nat) : State :=
  if (s.core c).preempt.isSome || !(s.core c).arch.blocks.any (fun e => s.ctxOf e.2 == x) then s
  else (s.updCore c (fun k => { k with preempt := some x })).endOpen c

/-- A pre-empt record (R372, R389). -/
def State.bindPreempt (s : State) (c : Nat) (r : BitVec 256) : BindRes :=
  if r.toNat ≠ bindField r 8 6 * 2 ^ 8 + 2 * 2 ^ 5 then (s, some 0) else (s.startPreempt c (bindField r 8 6), none)

/-- A bind record of any kind (R372). -/
def State.bind (s : State) (c : Nat) (r : BitVec 256) : BindRes :=
  if 384 ≤ c then (s, some 0)
  else match bindField r 5 3 with
  | 0 => if bindReserved r then s.bindPlace c r else (s, some 0)
  | 1 => if bindReserved r then s.bindResume c r else (s, some 0)
  | 2 => s.bindPreempt c r
  | _ => (s, some 0)

/-- Placing and resuming have stopped for a firmware switch, which a bind record waits for (R425). -/
def bindHeld (s : State) (r : BitVec 256) : Bool := s.fwSwitch != .none && bindField r 5 3 < 2

/-- A bind record with another op changes nothing. -/
def bindOp (op core : Nat) (r : BitVec 256) (s : State) : SchedOut :=
  .next (if bindField r 5 3 ≠ op then s
    else if bindHeld s r then { s with bindWait := s.bindWait ++ [(64, core, r)] }
    else (s.bind core r).1)

/-- The result register of a context for a bind record (R373, R420); context 64 stands for the firmware, which has none. -/
def State.bindAnswer (s : State) (x : Nat) (res : Option Nat) : State :=
  if 64 ≤ x then s else s.updCtx x (fun c => { c with bindRes := match res with
    | none => 1
    | some n => BitVec.ofNat 64 (16 * n) })

/-- The bind records that have waited for the end of a firmware switch are taken in order (R425). -/
def State.serveBinds (s : State) : State :=
  s.bindWait.foldl (fun s w => let r := s.bind w.2.1 w.2.2; r.1.bindAnswer w.1 r.2) { s with bindWait := [] }

/-- BIND_PLACE (R373). -/
def execBindPlace (core : Nat) (rec : BitVec 256) (s : State) : SchedOut := bindOp 0 core rec s
/-- BIND_RESUME (R373, R390, R391). -/
def execBindResume (core : Nat) (rec : BitVec 256) (s : State) : SchedOut := bindOp 1 core rec s
/-- BIND_PREEMPT (R372, R389). -/
def execBindPreempt (core : Nat) (rec : BitVec 256) (s : State) : SchedOut := bindOp 2 core rec s

/-- PREEMPT_SQUASH_TIMEOUT: 2,000 cycles have passed without the chunk's commit point (R389). -/
def execPreemptSquashTimeout (core : Nat) (s : State) : SchedOut :=
  let k := s.core core
  .next (if k.preempt.isSome && k.chunk.ended && !k.chunk.prio then s.squash core else s)

/-- A block as it is saved: reservations cleared (R389, R390). -/
def Block.saved (b : Block) : Block :=
  { b with
    threads := b.threads.map (fun th => { th with resv := none }) }

/-- The state of a core is written to the save area (R389, R390). What the core keeps for the context beside its blocks stays where it
is until another context takes the core (R370; log 52). -/
def State.savePreempted (s : State) (c x : Nat) : State :=
  let k := s.core c
  let bs := k.arch.blocks.filter (fun e => e.1 != handlerSlot)
  let old := match bs with
    | [] => none
    | b :: bs => some (bs.foldl (fun (o : Nat × Block) e => if e.2.seq < o.2.seq then e else o) b).2
  let arch := { k.arch with blocks := Tab.mapV k.arch.blocks (fun _ b => b.saved) }
  let s := s.setCore c { k with
    arch := { CoreArch.new with
      iNum := k.arch.iNum, status := k.arch.status, cause := k.arch.cause, epc := k.arch.epc, emask := k.arch.emask
      eaddr := k.arch.eaddr, grpEntry := k.arch.grpEntry, nbr := k.arch.nbr }
    chunk := Chunk.new, saved := k.saved ++ [⟨x, arch⟩], preempt := none, prioReq := false, again := 0 }
  let s := s.writeSave x
  let s := { s with priority := s.priority.filter (fun p => p != c) }
  match old with
  | none => s
  | some b => s.post x 0x42 0 [(0x10, natLe 8 (s.launchOf b).rec_), (0x18, natLe 8 c), (0x20, natLe 8 bs.length)]

/-- An occupancy of a lehr register on a core has not ended (R340). -/
def lehrsBusy (s : State) (c : Nat) : Bool :=
  (Tab.vals (s.core c).arch.blocks).any (fun (b : Block) => (Tab.vals b.lehrs).any (fun (r : Lehr) => r.busy))

/-- PREEMPT_COMPLETE (R389, R390): once the chunk has ended, the occupancies have, the transfers land in a chunk that ends too, the engines stop at their step
boundaries, and the state is saved. -/
def execPreemptComplete (core : Nat) (s : State) : SchedOut :=
  match (s.core core).preempt with
  | none => .next s
  | some x =>
    let h := (s.core core).chunk
    if h.ended || lehrsBusy s core then .next s
    else if !h.fresh then .next (s.endOpen core)
    else
      let s := s.landTransfers core
      if (Tab.vals (s.core core).arch.blocks).any (fun (b : Block) => b.ldx.any (fun t => t.failed.isNone)) then .next s
      else if !(s.core core).chunk.fresh then .next (s.endOpen core)
      else .next ((s.finishUnits core).savePreempted core x)

/-! ### The firmware's decision (R371) -/

/-- The launches of a core's blocks. -/
def coreLaunches (s : State) (c : Nat) : List Nat :=
  (((s.core c).arch.blocks.filter (fun e => e.1 != handlerSlot)).map (fun e => e.2.launch)).dedup

/-- Cores that stand or fall together with some: those that hold blocks of their persistent launches; `n` bounds the rounds. -/
def togetherWith (s : State) (cs : List Nat) (n : Nat) : List Nat :=
  match n with
  | 0 => cs
  | n + 1 =>
    let ls := (cs.flatMap (coreLaunches s)).filter (fun l => match s.launch? l with
      | some ln => ln.tree.persist ≠ 0
      | none => false)
    let all := addNew cs ((ls.flatMap s.blocksOf).map (fun e => e.1))
    if all.length = cs.length then cs else togetherWith s all n

/-- Every block of the core belongs to a launch of a class above `cls` (R371). -/
def preemptable (s : State) (part cls c : Nat) : Bool :=
  s.inPart part c && (s.core c).preempt.isNone && !(coreLaunches s c).isEmpty && (coreLaunches s c).all (fun l =>
    match s.launch? l with
    | some ln => cls < ln.cls
    | none => false)

/-- The keys by which eligible cores are ranked (R371): class, ready time and placement, largest first, then core number. -/
def rankKeys (s : State) (c : Nat) : List Nat :=
  let ls := (coreLaunches s c).filterMap s.launch?
  let least := fun (xs : List Nat) => match xs with
    | [] => 0
    | x :: xs => xs.foldl min x
  [least (ls.map (fun ln => ln.cls)), least (ls.map (fun ln => ln.readyAt)),
    least (((s.core c).arch.blocks.filter (fun e => e.1 != handlerSlot)).map (fun e => e.2.seq)), c]

/-- Lexicographic order, largest first. -/
def keysGe (a b : List Nat) : Bool :=
  match a, b with
  | x :: a, y :: b => if x = y then keysGe a b else y < x
  | _, _ => true

/-- The state as if some cores had been pre-empted. -/
def State.asEmptied (s : State) (cs : List Nat) : State :=
  cs.foldl (fun s c => s.updCore c (fun k =>
    { k with
      arch := { CoreArch.new with iNum := k.arch.iNum }, preempt := none
      saved := k.saved ++ (match (Tab.vals k.arch.blocks).head? with
        | some b => [⟨s.ctxOf b, k.arch⟩]
        | none => []) })) s

/-- All of a launch's blocks can be placed once some cores have been pre-empted. -/
def allFit (s : State) (l : Nat) (cs : List Nat) : Bool :=
  match s.launch? l with
  | some ln => (placeMany (s.asEmptied cs) l (ln.tree.placed - ln.next)).isSome
  | none => true

/-- The cores to pre-empt, taken in order until the launch fits (R371). -/
def selectCores (s : State) (l part cls : Nat) (order taken : List Nat) : List Nat :=
  match order with
  | [] => taken
  | c :: rest =>
    if allFit s l taken then taken
    else
      let g := togetherWith s [c] 384
      if taken.contains c || !g.all (preemptable s part cls) then selectCores s l part cls rest taken
      else selectCores s l part cls rest (addNew taken g)

/-- The launch can trigger pre-emption now (R371). -/
def reserveReached (s : State) (_l : Nat) (ln : Launch) : Bool :=
  ln.budget ≠ 0 && ln.unplaced && lowerPlaced s ln && ln.deadline ≤ s.mclock + ln.reserve
    && !(s.ctx ln.ctx).mode.getLsbD 0 && !(s.ctx ln.ctx).mode.getLsbD 5
    && (if ln.tree.persist ≠ 0 && ln.next = 0 then (placeMany s _l ln.tree.persist).isNone else (chooseCore s ln ln.next).isNone)

/-- PREEMPTION_RESERVE_REACHED (R371). -/
def execPreemptionReserveReached (ctx record : Nat) (s : State) : SchedOut :=
  if s.fwSwitch != .none || s.stopped then .next s
  else match recLaunches s ctx record (reserveReached s) with
  | [] => .next s
  | l :: _ => match s.launch? l with
    | none => .next s
    | some ln =>
      let part := (s.ctx ctx).part
      let going := s.coreNums.filter (fun c => (s.core c).preempt.isSome)
      let order := ((s.coreNums.filter (preemptable s part ln.cls)).insertionSort (fun a b =>
        keysGe (rankKeys s a) (rankKeys s b)))
      let chosen := (selectCores s l part ln.cls order going).filter (fun c => !going.contains c)
      .next (chosen.foldl (fun s c => match (Tab.vals (s.core c).arch.blocks).head? with
        | some b => s.startPreempt c (s.ctxOf b)
        | none => s) s)

/-- The deadline of a ready or running launch has passed; a template's is one for all its instances (R371; log 61). -/
def deadlineDue (s : State) (_l : Nat) (ln : Launch) : Bool :=
  ln.budget ≠ 0 && ln.parent.isNone && (ln.status == 2 || ln.status == 3) && !ln.lateMark && ln.deadline ≤ s.mclock

/-- DEADLINE_PASSED (R371, R375). -/
def execDeadlinePassed (ctx record : Nat) (s : State) : SchedOut :=
  .next (match recLaunches s ctx record (deadlineDue s) with
    | [] => s
    | l :: _ => match s.launch? l with
      | some ln => (s.updLaunch l (fun ln => { ln with lateMark := true })).post ctx 0x41 0
          [(0x10, natLe 8 ln.rec_), (0x18, natLe 8 (ln.queue % 2 ^ 16))]
      | none => s)

end Sys2Proof.Machine
end

