-- ==== Sys2Proof/Machine/System.lean ====
section
/-! DEFINITION. The system instructions (R341-R359). -/

namespace Sys2Proof.Machine

/-- The answer of a system meaning. -/
abbrev SysOut := Host.Outcome State Fault Refusal

/-! ### TRAP and BKPT (R352) -/

/-- The trap's fault. -/
def trapFault (code : Nat) (f : TrapF) (e : Site) (s : State) : State :=
  s.fault e ⟨code, f.k.toNat, laneMask e.act, e.read s e.ref f.a⟩

/-- TRAP (R352). -/
def execTrap (f : TrapF) (s : State) : SysOut := .next (issue (.trap f) (trapFault 0x0D f) s)

/-- BKPT (R352). -/
def execBkpt (f : TrapF) (s : State) : SysOut :=
  .next (issue (.bkpt f) (fun e s =>
    if (s.core e.cur.core).arch.status.getLsbD 0 then trapFault 0x0E f e s else (s.acts e).pass e) s)

/-! ### System registers (R345-R349) -/

/-- The context of a core's handler. -/
def Site.ctx (e : Site) (s : State) : Nat := s.ctxOf e.b

/-- `ctl.status` (R346). -/
def statusWord (a : CoreArch) : Word := BitVec.ofNat 64 (a.status.toNat + a.faultq.length * 2 ^ 16)

/-- `ctl.grp` (R346). -/
def grpReg (s : State) (c : Nat) : Word :=
  let a := (s.core c).arch
  match s.block? c a.grpSlot with
  | some b => grpWord a.grpValid a.grpQuad (if a.grpValid then b.pick a.grpTids else []) a.grpEntry
  | none => grpWord false a.grpQuad [] a.grpEntry

/-- `ctl.chunk` (R347). -/
def chunkReg (k : CoreSt) : Word :=
  BitVec.ofNat 64 (k.again + (if k.chunk.prio then 16 else 0) + k.squashes.toNat * 2 ^ 32)

/-- A system register as SYSRD reads it (R345, R353). -/
def ctlRead (s : State) (e : Site) (i : Nat) : Word :=
  let k := s.core e.cur.core
  let x := e.ctx s
  let cx := s.ctx x
  if 0x108 ≤ i then (Tab.get 0 k.pmsel (i - 0x108)).setWidth 64
  else if 0x100 ≤ i then Tab.get 0 k.pmc (i - 0x100)
  else match i with
  | 0x000 => statusWord k.arch
  | 0x001 => k.arch.cause
  | 0x002 => k.arch.epc
  | 0x003 => k.arch.emask
  | 0x004 => k.arch.eaddr
  | 0x005 => grpReg s e.cur.core
  | 0x006 => cx.handler
  | 0x008 => BitVec.ofNat 64 (x + cx.part * 256)
  | 0x009 => BitVec.ofNat 64 (s.launchOf e.b).det
  | 0x00A => cx.seed
  | 0x00B => cx.fair
  | 0x00C => cx.race
  | 0x00D => chunkReg k
  | 0x00E => 0x0100
  | 0x00F => cx.ering &&& 0x00FFFFFFFFFFF01F
  | _ => 0

/-- A system register written by SYSWR: reserved bits keep reading zero (R8, R345). -/
def State.ctlWrite (s : State) (c x i : Nat) (w : Word) : State :=
  if 0x108 ≤ i then s.updCore c (fun k => { k with pmsel := Tab.set 0 k.pmsel (i - 0x108) (w.extractLsb' 0 8) })
  else if 0x100 ≤ i then s.updCore c (fun k => { k with pmc := Tab.set 0 k.pmc (i - 0x100) w })
  else match i with
  | 0x000 => s.updArch c (fun a => { a with status := w.extractLsb' 0 2 })
  | 0x001 => s.updArch c (fun a => { a with cause := w &&& 0x20000FFFF })
  | 0x002 => s.updArch c (fun a => { a with epc := w &&& ~~~7 })
  | 0x003 => s.updArch c (fun a => { a with emask := w })
  | 0x004 => s.updArch c (fun a => { a with eaddr := w })
  | 0x006 => s.updCtx x (fun k => { k with handler := w &&& 0x00FFFFFFFFFFFFF8 })
  | 0x00A => s.updCtx x (fun k => { k with seed := w })
  | 0x00B => s.updCtx x (fun k => { k with fair := w &&& 0xFFFFFFFF })
  | 0x00C => s.updCtx x (fun k => { k with race := w &&& 1 })
  | 0x010 => s.streamAction x c w
  | _ => s

/-- SYSRD (R353). -/
def execSysrd (f : SysF) (s : State) : SysOut :=
  .next (issue (.sysrd f) (fun e s =>
    let v := ctlRead s e f.idx.toNat
    (s.acts e).finish e (fun th => ((th.setD f.o v).cleared f.o).next)) s)

/-- SYSWR: a chunk by itself (R133, R345, R353); a value that it may not write is ILLEGAL before every other check (R184). -/
def execSyswr (f : SysF) (s : State) : SysOut :=
  .next (issue (.syswr f) (fun e s =>
    let w := e.read s e.ref f.o
    s.closeBefore e.cur.core (fun s =>
      let s := (s.acts e).ctlWrite e.cur.core (e.ctx s) f.idx.toNat w
      let s := s.pass e
      { s.closeAfter e.cur.core with cur := s.cur })) s)

/-! ### ERET and HALT (R356, R357) -/

/-- The waits that a deferred fault suspended are evaluated anew as their group resumes; those of a block under EXACT, which no
other event evaluates before the next merge, with the ERET itself (R144, R281). -/
def State.resumeWaits (s : State) (c : Nat) (f : FaultRec) : State :=
  match s.block? c f.slot with
  | some b => if f.dfr && s.isExact f.slot b then f.tids.foldl (fun s t => s.reevaluate c f.slot t) s else s
  | none => s

/-- ERET. The next queued fault is entered before the core issues again, in a new chunk (R344, R356). -/
def execEret (g : Guard) (s : State) : SysOut :=
  .next (issue (.eret g) (fun e s =>
    let c := e.cur.core
    let t := ((s.acts e).serveMark c).eret c
    (s.core c).arch.serving.elim t (t.resumeWaits c)) s)

/-- HALT: the chunk closes, and the service ends with the halt code (R357). -/
def execHalt (f : One) (s : State) : SysOut :=
  .next (issue (.halt f) (fun e s =>
    let code := (e.read s e.ref f.o) &&& 0xFFFF
    s.closeForTrap e.cur.core (fun s =>
      ((s.endService e.cur.core 0x11 code 0).enterHandlers e.cur.core).seal e.cur.core)) s)

/-! ### Groups (R354-R356) -/

/-- The slot of the served block. -/
def servedSlot (s : State) (c : Nat) : Option Nat := (s.core c).arch.serving.map (fun f => f.slot)

/-- The group with which a thread would issue next: among the threads at its PC in its quadrant, groups form in turn, each
taking the lowest logical thread id of every lane (R26, R354). -/
def groupWith (b : Block) (th : Thread) : List Nat :=
  let path := b.threads.filter (fun o => !o.exited && o.quad == th.quad && o.pc == th.pc && o.inTable == th.inTable)
  let place := fun (o : Thread) => (path.filter (fun p => p.off == o.off && p.ltid < o.ltid)).length
  (path.filter (fun o => place o == place th)).map (fun o => o.ltid)

/-- The threads that a descriptor names: those, on its lanes, of the known descriptors of its quadrant and entry (R346, R354). -/
def describedBy (s : State) (c slot : Nat) (b : Block) (a : Word) : List Nat :=
  let known := (s.core c).arch.descs.filter (fun d => d.2.1 == slot && d.1.extractLsb' 0 11 == a.extractLsb' 0 11)
  (addNew [] (known.flatMap (fun d => d.2.2))).reverse.filter (fun t => match b.thread? t with
    | some th => a.getLsbD (32 + th.off % 32)
    | none => false)

/-- The entry of the gather table in which the threads of a known descriptor stand, or a free one for a new group (R346). -/
def entryOf (s : State) (c slot : Nat) (ts : List Nat) : BitVec 9 :=
  match (s.core c).arch.descs.find? (fun d => d.2.1 == slot && !ts.isEmpty && ts.all (fun t => d.2.2.contains t)) with
  | some d => d.1.extractLsb' 2 9
  | none => Config.freeEntry s.tick

/-- The group that GRPSEL names: quadrant and threads; with `by=desc`, those that the descriptor names and that are still stopped
(R354). -/
def selection (s : State) (c slot : Nat) (b : Block) (byTid : Bool) (a : Word) : Option (Nat × List Nat) :=
  if byTid then
    match b.thread? a.toNat with
    | some th => if th.exited then none else some (th.quad, groupWith b th)
    | none => none
  else
    let ts := (describedBy s c slot b a).filter (fun t => match b.thread? t with
      | some th => !th.exited && th.wait == .stopped
      | none => false)
    match ts.head?.bind (fun t => b.thread? t) with
    | some th => some (th.quad, ts)
    | none => none

/-- Selected members stop at their next instruction; those that are parked or wait stay where they are (R354). -/
def Thread.select (th : Thread) : Thread := if th.wait == .run then { th with wait := .stopped } else th

/-- GRPSEL (R354). -/
def execGrpsel (f : GrpF) (s : State) : SysOut :=
  .next (issue (.grpsel f) (fun e s =>
    let c := e.cur.core
    let s := (s.acts e).serveMark c
    let done := fun (v : Word) (s : State) => s.finish e (fun th => ((th.setD f.d v).cleared f.d).next)
    let none_ := fun (s : State) => done 0 (s.updArch c (fun a => { a with grpValid := false }))
    match servedSlot s c with
    | none => none_ s
    | some slot =>
      match s.block? c slot with
      | none => none_ s
      | some b =>
        match selection s c slot b f.x (e.read s e.ref f.a) with
        | none => none_ s
        | some (q, ts) =>
          let ent := if f.x then entryOf s c slot ts else (e.read s e.ref f.a).extractLsb' 2 9
          let d := grpWord true q (b.pick ts) ent
          let s := s.mapTids c slot ts (fun th => if th.exited then th else th.select)
          let s := s.updArch c (fun a => { a with
            grpValid := true, grpQuad := q, grpSlot := slot, grpTids := ts, grpEntry := ent
            descs := (d, slot, ts) :: a.descs })
          done d s) s)

/-- The site of one member of the selected group, for the rules of its own registers (R355). -/
def memberSite (s : State) (c : Nat) (th : Thread) : Option Site :=
  let a := (s.core c).arch
  (s.block? c a.grpSlot).map (fun b =>
    ⟨⟨c, a.grpQuad, a.grpSlot, th.pc, [th.ltid]⟩, b, s.treeOf a.grpSlot b, [th], [th]⟩)

/-- The member of the selected group on a lane (R355). -/
def memberOn (s : State) (c lane : Nat) : Option Thread :=
  let a := (s.core c).arch
  if !a.grpValid then none
  else (s.block? c a.grpSlot).bind (fun b => (b.pick a.grpTids).find? (fun th => th.off % 32 == lane))

/-- The state bits of a thread (R355). -/
def threadState (th : Thread) : Word :=
  let waits := match th.wait with
    | .run => false | .stopped => false | .parked _ _ _ _ => false
    | _ => true
  BitVec.ofNat 64 ((if th.exited then 1 else 0) + (if th.parked then 2 else 0) + (if waits then 4 else 0)
    + (if th.resv.isSome then 8 else 0))

/-- The code of an operator (R64). -/
def redCode (r : RedOp) : Nat :=
  match r with
  | .addN64 => 0 | .addI64 => 1 | .minI64 => 2 | .maxI64 => 3 | .minN64 => 4 | .maxN64 => 5 | .faddF64 => 6 | .faddF32 => 7
  | .fmulF64 => 8 | .fminF64 => 9 | .fmaxF64 => 10 | .fminF32 => 11 | .fmaxF32 => 12 | .and => 13 | .or => 14 | .xor => 15

/-- An item of a lehr register (R355). -/
def lehrItem (r : Lehr) (i : Nat) : Word :=
  if i < 64 then ((r.front[i]?).map (fun p => p.1)).getD 0
  else if i < 128 then ((r.front[i - 64]?).map (fun p => p.2)).getD 0
  else if i < 192 then (r.back[i - 128]?).getD 0
  else if i = 192 then r.bagg
  else if i = 193 then BitVec.ofNat 64 (r.win - 1 + redCode r.op * 2 ^ 8 + r.front.length * 2 ^ 16 + r.back.length * 2 ^ 24)
  else 0

/-- The tree gives the thread a lehr register of this name (R62). -/
def lehrThere (t : Tree) (l k : Nat) : Bool :=
  l < t.depth && k < (t.level l).lehr && ((t.bind l).code == 2 || (t.bind l).code == 3)

/-- The item of a member that a selector names (R355). -/
def memberItem (s : State) (e : Site) (th : Thread) (b : Word) : Word :=
  match field b 10 2 with
  | 0 => match Operand.get (b.extractLsb' 0 10) with
    | .scoped l i => if scopedOk e.t l.toNat i.toNat then e.read s th (.scoped l i) else 0
    | o => e.read s th o
  | 1 => match field b 0 2 with
    | 0 => th.pc
    | 1 => BitVec.ofNat 64 th.ltid
    | 2 => threadState th
    | _ => 0
  | 2 =>
    let l := field b 0 4
    let k := field b 4 3
    if lehrThere e.t l k then lehrItem (e.b.lehr (lehrKey e l k th)) (field b 16 8) else 0
  | _ => 0

/-- A lehr item waits while an occupancy runs on the core (R340, R355). -/
def lehrItemBusy (s : State) (c : Nat) (b : Word) : Bool :=
  field b 10 2 == 2 && (Tab.vals (s.core c).arch.blocks).any (fun (b : Block) => (Tab.vals b.lehrs).any (fun (r : Lehr) => r.busy))

/-- The reading of a member's item leaves the traces of an access to a scoped register (R60, R61, R355). -/
def State.noteItem (s : State) (e : Site) (th : Thread) (b : Word) : State :=
  match field b 10 2, Operand.get (b.extractLsb' 0 10) with
  | 0, .scoped l i => if scopedOk e.t l.toNat i.toNat then s.noteScoped e th l.toNat i.toNat false true else s
  | _, _ => s

/-- The item of a member is a register whose data have failed (R388). -/
def itemBad (th : Thread) (b : Word) : Bool := field b 10 2 == 0 && th.bad.contains (b.extractLsb' 0 10)
  || field b 10 2 == 2 && th.bad.contains (lehrMark (field b 0 4) (field b 4 3))

/-- GRPRD (R355). -/
def execGrprd (f : Grp3) (s : State) : SysOut :=
  .next (issue (.grprd f) (fun e s =>
    let c := e.cur.core
    let b := e.read s e.ref f.z
    let put := fun (v : Word) (s : State) => s.finish e (fun th => ((th.setD f.x v).cleared f.x).next)
    match (memberOn s c (field (e.read s e.ref f.y) 0 5)) with
    | none => put 0 (s.acts e)
    | some th =>
      match memberSite s c th with
      | none => put 0 (s.acts e)
      | some m =>
        if lehrItemBusy s c b then s.hold
        else if itemBad th b then s.faultPre e 0 ⟨0x0B, 5, laneMask e.act, if field b 10 2 = 0 then (b.extractLsb' 0 10).setWidth 64
          else BitVec.ofNat 64 (lehrName (field b 0 4) (field b 4 3))⟩
        else put (memberItem s m th b) ((s.acts e).noteItem m th b)) s)

/-- A write of one item of a member (R355): lane registers, predicates, `s.frm`, `s.fflags`, scoped registers and the PC. -/
def State.writeItem (s : State) (m : Site) (th : Thread) (b w : Word) : State :=
  let upd := fun (g : Thread → Thread) => s.mapTids m.cur.core m.cur.slot [th.ltid] g
  match field b 10 2 with
  | 0 => match Operand.get (b.extractLsb' 0 10) with
    | .lane i => if lanePresent m.t.lanes i.toNat then upd (fun th => (th.setD (.lane i) w).cleared (.lane i)) else s
    | .pred i => upd (fun th => (th.setD (.pred i) w).cleared (.pred i))
    | .special i => upd (fun th => th.setD (.special i) w)
    | .scoped l i =>
      if scopedOk m.t l.toNat i.toNat then
        (s.noteScoped m th l.toNat i.toNat true true).putScoped m [th.ltid] l.toNat i.toNat
          (if l.toNat ≤ m.t.blockLvl then m.node th l.toNat else m.t.highNode l.toNat m.b.lin) w
      else s
    | _ => s
  | 1 => if field b 0 2 = 0 then upd (fun th => { th with pc := w &&& ~~~7 }) else s
  | _ => s

/-- GRPWR (R355). -/
def execGrpwr (f : Grp3) (s : State) : SysOut :=
  .next (issue (.grpwr f) (fun e s =>
    let c := e.cur.core
    let mask := e.read s e.ref f.x
    let b := e.read s e.ref f.y
    let w := e.read s e.ref f.z
    let s := (List.range 32).foldl (fun s lane =>
      if !mask.getLsbD lane then s
      else match memberOn s c lane with
        | none => s
        | some th => match memberSite s c th with
          | some m => s.writeItem m th b w
          | none => s) ((s.acts e).serveMark c)
    s.pass e) s)

/-- The selected group of a core resumes (R356). -/
def State.resumeGroup (s : State) (c : Nat) (skip : Bool) : State :=
  let a := (s.core c).arch
  if !a.grpValid then s
  else (s.resume c a.grpSlot a.grpTids (fun th => if skip then th.pc + 8 else th.pc)).updArch c (fun a => { a with
    grpValid := false, descs := a.descs.filter (fun d => d.2.2 != a.grpTids) })

/-- GRPRES (R356). -/
def execGrpres (f : GrpRes) (s : State) : SysOut :=
  .next (issue (.grpres f) (fun e s => (((s.acts e).serveMark e.cur.core).resumeGroup e.cur.core f.skip).pass e) s)

/-! ### TLBINV (R358, R382) -/

/-- The entry is dropped: its page holds the address, or it belongs to the context and is not global (R358, R381). -/
def TlbEntry.dropped (t : TlbEntry) (x va : Nat) (all : Bool) : Bool :=
  if all then t.ctx == x && !t.glob else t.va ≤ va && va < t.va + t.size

/-- A walker's table pointer is dropped: its range holds the address, or it belongs to the context (R358, R381). -/
def WalkPtr.dropped (p : WalkPtr) (x va : Nat) (all : Bool) : Bool := if all then p.ctx == x else p.pre == tablePre p.lvl va

/-- The cores with state, and the clusters, of a context's partition. -/
def State.partCores (s : State) (x : Nat) : List Nat := s.coreNums.filter (fun c => s.inPart (s.ctx x).part c)
def State.partCtlbs (s : State) (x : Nat) : List Nat := (List.range 24).filter (fun k => (s.partClusters (s.ctx x).part).getLsbD k)

/-- The physical ranges of the cached translations that an invalidation drops (R358). -/
def goneRanges (s : State) (x va : Nat) (all : Bool) : List (Nat × Nat) :=
  (((s.partCores x).flatMap (fun c => (s.core c).tlb) ++ (s.partCtlbs x).flatMap (fun k => Tab.get [] s.ctlb k)).filter
    (fun (t : TlbEntry) => t.dropped x va all)).map (fun t => (t.pa, t.size))

/-- A key lies in one of some ranges. -/
def inRanges (rs : List (Nat × Nat)) (k : Nat) : Bool := rs.any (fun r => r.1 ≤ k && k < r.1 + r.2)

/-- The block holds a no-return ATOM on some physical ranges for its merge (R143). -/
def Block.atomIn (b : Block) (rs : List (Nat × Nat)) : Bool :=
  b.pops.any (fun o => match o with
    | .atom a => (List.range a.w).any (fun i => inRanges rs (a.key + i))
    | _ => false)

/-- A block's accesses to some physical ranges have been issued and are not yet performed: LDX transfers, and, unless it is of launch `l`,
what it holds for its phase's merge. The phase of launch `l` cannot end before the handler does (R382, log 83). -/
def Block.pendingIn (b : Block) (l : Option Nat) (rs : List (Nat × Nat)) : Bool :=
  b.ldx.any (fun x => x.failed.isNone && inRanges rs x.src)
    || (some b.launch != l && (b.pheld.any (fun h => (keysOfHeld h).any (inRanges rs)) || b.pover.any (fun e => inRanges rs e.1)
      || b.atomIn rs))

/-- The same of a core: its open chunk, and its blocks, resident or pre-empted (R382). -/
def CoreSt.pendingIn (k : CoreSt) (l : Option Nat) (rs : List (Nat × Nat)) : Bool :=
  k.chunk.ovl.any (fun e => inRanges rs e.1) || k.chunk.held.any (fun h => (keysOfHeld h).any (inRanges rs))
    || (Tab.vals k.arch.blocks ++ k.saved.flatMap (fun v => Tab.vals v.arch.blocks)).any (fun (b : Block) => b.pendingIn l rs)

/-- The command at the head of a stream is in the middle of a step that reads some physical ranges; one that waits for a page has
paused (R382, R385). -/
def stepIn (s : State) (r : StreamRef) (rs : List (Nat × Nat)) : Bool :=
  match headClear s r with
  | none => false
  | some (st, q, e) => !q.final && ((cmdStep s e st q.done).getD []).any (fun u =>
      (engUnread e u.1 u.2.1).length < (wordPieces u.1.toNat u.2.1).length
        && (engPieces s e u.1 u.2.1 u.2.2).any (fun p => match p.2.2 with
          | .at k _ _ => inRanges rs k
          | _ => false))

/-- The streams of a partition: of its cores' engines, and of the fabric engine for its contexts. -/
def State.partStreams (s : State) (x : Nat) : List StreamRef :=
  (s.partCores x).flatMap (fun c => (s.core c).eng.streams.map (fun (e : Nat × Stream) =>
      (⟨BitVec.ofNat 2 (e.1 / 16), c, BitVec.ofNat 4 (e.1 % 16)⟩ : StreamRef)))
    ++ s.ctxs.flatMap (fun (y : Nat × Ctx) => if y.2.part = (s.ctx x).part then y.2.streams.map (fun (e : Nat × Stream) =>
      (⟨3, y.1, BitVec.ofNat 4 e.1⟩ : StreamRef)) else [])

/-- An invalidation waits for accesses and engine steps that have used what it drops (R358, R382). -/
def invPending (s : State) (x va : Nat) (all : Bool) (l : Option Nat) : Bool :=
  let rs := goneRanges s x va all
  (s.partCores x).any (fun c => (s.core c).pendingIn l rs) || landsBlocked s (fun f => (keysOfHeld f.eff).any (inRanges rs))
    || (s.partStreams x).any (fun r => stepIn s r rs)

/-- Drops translations on every core and in every cluster of a context's partition, after the accesses in flight that were made
through them have been performed (R358, R381, R382). -/
def State.invalidate (s : State) (x va : Nat) (all : Bool) : State :=
  let rs := goneRanges s x va all
  let s := s.landWhere (fun f => (keysOfHeld f.eff).any (inRanges rs))
  let keep := fun (es : List TlbEntry) => es.filter (fun t => !t.dropped x va all)
  let s := (s.partCores x).foldl (fun s c => s.updCore c (fun k => { k with tlb := keep k.tlb })) s
  (s.partCtlbs x).foldl (fun s k => { s with
    ctlb := Tab.set [] s.ctlb k (keep (Tab.get [] s.ctlb k))
    wcache := Tab.set [] s.wcache k ((Tab.get [] s.wcache k).filter (fun p => !p.dropped x va all)) }) s

/-- TLBINV, which waits until the accesses made through what it drops have left their chunks and phases, the engine steps that used it have
finished, and its core's released writes can be performed (R358, R382). -/
def execTlbinv (f : GrpF) (s : State) : SysOut :=
  .next (issue (.tlbinv f) (fun e s =>
    let va := (e.read s e.ref f.a).toNat
    let x := e.ctx s
    if invPending s x va f.x (some e.b.launch) || landsBlocked s (fun q => q.core == e.cur.core) then s.hold
    else
      let s := (s.acts e).landWhere (fun q => q.core == e.cur.core)
      (s.invalidate x va f.x).pass e) s)

end Sys2Proof.Machine
end

