-- ==== Sys2Proof/Machine/Service.lean ====
section
/-! DEFINITION. The host's registers, the service of translation requests, reset and firmware, reach groups, and the service of
laser modules and memory links (R383, R384, R418-R430). -/

namespace Sys2Proof.Machine

/-- The answer of a service event. -/
abbrev ServOut := Host.Outcome State Fault Refusal

/-! ### Translation requests (R383-R385) -/

/-- Groups that wait for a request, by core, slot and quadrant. -/
def waitingGroups (s : State) (tag : Nat) : List (Nat × Nat × Nat) :=
  s.cores.flatMap (fun (k : Nat × CoreSt) => groupsOn k.1 k.2.arch)
where
  /-- Those of one core's blocks. -/
  groupsOn (c : Nat) (a : CoreArch) : List (Nat × Nat × Nat) :=
    a.blocks.flatMap (fun (e : Nat × Block) =>
      ((e.2.threads.filter (fun th => !th.exited && ((th.xtags).getD []).contains tag)).map (fun th =>
        (c, e.1, th.quad))).dedup)

/-- The number of groups that wait for a request, those of pre-empted blocks among them (R384, R390). -/
def waitingCount (s : State) (tag : Nat) : Nat :=
  (waitingGroups s tag).length + (s.cores.map (fun (k : Nat × CoreSt) =>
    (k.2.saved.map (fun v => (waitingGroups.groupsOn tag k.1 v.arch).length)).sum)).sum

/-- The need of an access class. -/
def classNeed (cls : Nat) : Need := if cls = 0 then .read else if cls = 1 then .write else .fetch

/-- The firmware's answer by policy, from a fresh walk: whether it refuses (R384, R420). -/
def policyRefuses (s : State) (q : XReq) : Bool :=
  !((s.ctx q.ctx).policy.getLsbD 0 && (match walk s q.ctx (q.gran * 65536) with
    | .leaf _ => true
    | _ => false))

/-- TRANSLATION_REQUEST_SERVICE: the oldest request of a partition is taken (R384). -/
def execTranslationRequestService (part : Nat) (s : State) : ServOut :=
  match s.xreqs.find? (fun q => !q.posted && (s.ctx q.ctx).part == part) with
  | none => .next s
  | some q =>
    let s' := { s with xreqs := s.xreqs.map (fun (r : XReq) => if r.tag = q.tag then ({ r with posted := true } : XReq) else r) }
    if q.host then
      .next (s'.post q.ctx 0x60 0 [(0x10, natLe 8 (q.gran * 65536)), (0x18, natLe 1 q.cls), (0x19, natLe 1 q.sub),
        (0x1A, natLe 2 q.tag), (0x1C, natLe 4 (waitingCount s q.tag))])
    else .next { s' with xanswers := s'.xanswers ++ [(q.tag, policyRefuses s q)] }

/-- An answer reaches a waiting thread. -/
def Thread.answer (th : Thread) (tag sub : Nat) (refuse : Bool) : Thread :=
  match th.wait with
  | .xlate tags own ref =>
    if !tags.contains tag then th
    else
      let mine := match own with
        | some o => o.1 == tag
        | none => false
      { th with wait := .xlate (tags.filter (fun t => t != tag)) own (if refuse && mine then some sub else ref) }
  | _ => th

/-- An answer reaches the threads of a core's state. -/
def CoreArch.answer (a : CoreArch) (tag sub : Nat) (refuse : Bool) : CoreArch :=
  { a with blocks := Tab.mapV a.blocks (fun _ b => { b with threads := b.threads.map (fun th => th.answer tag sub refuse) }) }

/-- An answer reaches a command; a refused one takes ENGINE 0x06 (R385). -/
def Cmd.answer (q : Cmd) (tag : Nat) (refuse : Bool) : Cmd :=
  if !q.wait.contains tag then q
  else if refuse then { q with wait := [], leaveErr := some 6 }
  else { q with wait := q.wait.filter (fun t => t != tag) }

def Stream.answer (st : Stream) (tag : Nat) (refuse : Bool) : Stream :=
  { st with q := st.q.map (fun q => q.answer tag refuse) }

def Engines.answer (e : Engines) (tag : Nat) (refuse : Bool) : Engines :=
  { e with streams := Tab.mapV e.streams (fun _ st => st.answer tag refuse) }

/-- An answer reaches the commands of peers; a refused one is aborted, and its sender told (R302, R385). -/
def State.answerPeers (s : State) (tag : Nat) (refuse : Bool) : State :=
  (s.arriving.filter (fun a => a.wait.contains tag)).foldl (fun s a =>
    if refuse then
      match s.group? a.handle with
      | some g => s.refuseCopy g a
      | none => s.finishArriving a
    else s.setArriving a (fun b => { b with wait := b.wait.filter (fun t => t != tag) })) s

/-- An answer takes effect everywhere (R384, R385). -/
def State.giveAnswer (s : State) (q : XReq) (refuse : Bool) : State :=
  let gs := waitingGroups s q.tag
  let f := fun (a : CoreArch) => a.answer q.tag q.sub refuse
  let s := s.coreNums.foldl (fun s c => (s.updBoth c f).updCore c (fun k => { k with
    saved := k.saved.map (fun v => { v with arch := f v.arch }), eng := k.eng.answer q.tag refuse
    engSaved := Tab.mapV k.engSaved (fun _ e => e.answer q.tag refuse) })) s
  let s := { s with ctxs := Tab.mapV s.ctxs (fun _ x => { x with
    streams := Tab.mapV x.streams (fun _ st => st.answer q.tag refuse) }) }
  let s := s.answerPeers q.tag refuse
  gs.foldl (fun s g => s.answered g.1 g.2.2 g.2.1) s

/-- TRANSLATION_ANSWER: an answer that has been given takes effect (R384). -/
def execTranslationAnswer (part tag : Nat) (s : State) : ServOut :=
  .next (match s.xanswers.find? (fun a => a.1 == tag), s.xreqs.find? (fun q => q.tag == tag && (s.ctx q.ctx).part == part) with
    | some a, some q =>
      ({ s with xanswers := s.xanswers.filter (fun b => b.1 != tag), xreqs := s.xreqs.filter (fun r => r.tag != tag) }
        ).giveAnswer q a.2
    | _, _ => s)

/-- TRANSLATION_ANSWER_WRITE: the host answers a request that has been posted to it (R384, R420). -/
def execTranslationAnswerWrite (ctx : Nat) (value : Word) (s : State) : ServOut :=
  let tag := field value 0 16
  .next (if s.xreqs.any (fun q => q.tag == tag && q.ctx == ctx && q.posted) && !s.xanswers.any (fun a => a.1 == tag)
    then { s with xanswers := s.xanswers ++ [(tag, value.getLsbD 16)] } else s)

/-! ### Reset and boot (R423, R424) -/

/-- A slot of flash holds a valid image: the one that the device came with, or one that passes its check (R425). -/
def slotValid (c : Option Nat) : Bool := (c.map Config.firmwareCrcOk).getD true

/-- What the two slots hold after a reset: of the slot that was being written, nobody knows (R425; log 108). -/
def State.flashSlots (s : State) : Option Nat × Option Nat :=
  let torn := some (Config.freeWord s.tick).toNat
  (if s.fwState = 1 && s.image then torn else s.fwSlotA, if s.fwState = 1 && !s.image then torn else s.fwSlotB)

/-- The image that a boot starts: that of `slot` when it is valid, the other otherwise; none when neither is (R425). -/
def bootImage (slotB validA validB : Bool) : Option Bool :=
  if slotB then (if validB then some true else if validA then some false else none)
  else if validA then some false else if validB then some true else none

/-- The wavelengths of the bank that a module feeds (R394). -/
def bankMask (m : Nat) : BitVec 16 := (0xF : BitVec 16) <<< (4 * (m % 4))

/-- The ports whose transmit fibres a module feeds (R394). -/
def bankPorts (m : Nat) : List Nat := (List.range 16).map (fun i => 16 * (m / 4) + i)

/-- A laser module after a reset. -/
def Laser.rebooted (m : Laser) : Laser :=
  if !m.present then { m with state := 0, en := false, warming := false }
  else if m.state = 2 then { m with warming := false } else { Laser.new with temp := m.temp }

/-- A memory link after a reset: the link of a module that is present trains (R423). -/
def MemLink.rebooted (m : MemLink) : MemLink :=
  if m.state = 0 || m.size = 0 then ⟨0, 0, 0, 0, 0, false⟩ else ⟨1, m.size, 0, 0, m.size, false⟩

/-- A memory link has trained. -/
def MemLink.up (m : MemLink) : MemLink := if m.state = 1 then { m with state := 2 } else m

/-- The cores of a die that fail self-test or that the repair table lists (R109, R424). -/
def dieBad (repair : List Nat) (die : Nat) : List Nat :=
  repair.dedup.filter (fun c => 2 * (c / 16 / 6 / 2) + c / 16 % 6 / 3 == die)

/-- The cores that no spare of their die replaces: each die has two spares, which replace the first two that are listed
(R424; log 93). -/
def unreplaced (repair : List Nat) : List Nat := (List.range 4).flatMap (fun d => (dieBad repair d).drop 2)

/-- The clusters without an unreplaced core (R424). -/
def activeClusters (repair : List Nat) : BitVec 24 :=
  let un := unreplaced repair
  BitVec.ofFnLE (fun k => un.all (fun c => c / 16 != k.val))

/-- A reset: all state is lost but what flash holds and what stands in the sockets, and the boot is at its step 1 (R423-R425). -/
def State.reboot (s : State) : State :=
  let sl := s.flashSlots
  let img := bootImage (s.fwCtl.getLsbD 8) (slotValid sl.1) (slotValid sl.2)
  let ls := (s.lasers.map (fun (e : Nat × Laser) => (e.1, e.2.rebooted))).filter (fun e => e.2 != Laser.new)
  (ls.filter (fun e => e.2.state ≠ 1)).foldl (fun s e => (bankPorts e.1).foldl (fun s p => s.updPort p (fun q => { q with
    lit := q.lit &&& ~~~bankMask e.1 })) s)
  { State.reset with
    fwCtl := s.fwCtl &&& 0x100, fwSlotA := sl.1, fwSlotB := sl.2, fwValidA := slotValid sl.1, fwValidB := slotValid sl.2
    image := img.getD false, active := 0, repair := s.repair, portFlash := s.portFlash, bootStep := 1, bar2Log := s.bar2Log
    lasers := ls
    links := (List.range 32).map (fun j => (j, (Tab.get MemLink.new s.links j).rebooted))
    agenda := s.agenda, tick := s.tick }

/-- The ports that flash enables train (R403, R423). -/
def State.trainFlash (s : State) : State :=
  ((List.range 64).filter (fun p => s.portFlash.getLsbD p)).foldl (fun s p => s.updPort p (fun q => { q with en := true, state := 1 })) s

/-- The next step of a boot, which `fails` or not: a boot that fails at step 1 tries the other slot once, when it is valid (R423-R425;
log 108). -/
def State.bootNext (s : State) (fails : Bool) : State :=
  let stop := { s with bootStep := 15, bootFail := s.bootStep }
  match s.bootStep with
  | 1 =>
    let other := if s.image then s.fwValidA else s.fwValidB
    if !(s.fwValidA || s.fwValidB) then stop
    else if !fails then { s with bootStep := 2 }
    else if other && !s.fwTried then { s with image := !s.image, fwTried := true }
    else stop
  | 2 => if fails then stop else { s with
      bootStep := 3
      links := (s.links.map (fun (e : Nat × MemLink) => (e.1, e.2.up))).filter (fun e => e.2 != MemLink.new) }
  | 3 => if fails then stop else { s with bootStep := 4, active := activeClusters (s.repair ++ Config.selfTest s.tick) }
  | 4 => if fails then stop else { s.trainFlash with bootStep := 5 }
  | _ => s

/-- DEVICE_RESET: a write of the reset register (R420, R423). -/
def execDeviceReset (value : Word) (s : State) : ServOut :=
  .next (if field value 16 16 = 0xD04A && value.getLsbD 0 then s.reboot else s)

/-- POWER_ON (R423). -/
def execPowerOn (s : State) : ServOut := .next s.reboot

/-- FUNCTION_LEVEL_RESET (R423). -/
def execFunctionLevelReset (s : State) : ServOut := .next s.reboot

/-! ### Firmware (R425) -/

/-- FIRMWARE_WRITE: the management core starts to write. -/
def execFirmwareWrite (s : State) : ServOut := .next { s with fwState := 1 }

/-- The staged image goes to the slot that is not running, when it passes its check. -/
def State.firmwareWritten (s : State) : State :=
  if s.fwState ≠ 1 then s
  else
    let a := s.fwAddr.toNat % 2 ^ 56
    let n := leNat (s.readMem a s.fwLen.toNat)
    let s := s.lookAt a s.fwLen.toNat
    if !Config.firmwareCrcOk n then { s with fwState := 3 }
    else if s.image then { s with fwState := 2, fwSlotA := some n, fwValidA := true }
    else { s with fwState := 2, fwSlotB := some n, fwValidB := true }

/-- FIRMWARE_SWITCH: scheduling stops, and the other image starts. -/
def execFirmwareSwitch (s : State) : ServOut :=
  .next (if s.fwSwitch = .none then { s with fwSwitch := .starting, fwStart := s.mclock } else s)

/-- A switch may take 10^8 cycles of the management core. -/
def switchLate (s : State) : Bool := s.fwStart + 10 ^ 8 < s.mclock

/-- FIRMWARE_SLOT: the image of the next boot. -/
def execFirmwareSlot (b : Bool) (s : State) : ServOut := .next { s with fwCtl := if b then 0x100 else 0 }

/-- FIRMWARE_SWITCH_RESUMED: within the limit; what has waited for the scheduling goes on. -/
def execFirmwareSwitchResumed (s : State) : ServOut :=
  .next (if s.fwSwitch = .none || switchLate s then s
    else (({ s with fwSwitch := .none, image := !s.image, fwCtl := if s.image then 0 else 0x100 }).postDev 0x80 0
      [(0x10, natLe 8 (if s.image then 0 else 1))]).serveBinds)

/-- FIRMWARE_SWITCH_TIMEOUT: beyond the limit the previous image goes on. -/
def execFirmwareSwitchTimeout (s : State) : ServOut :=
  .next (if s.fwSwitch = .none || !switchLate s then s
    else (({ s with fwSwitch := .none }).postDev 0x81 0 [(0x10, natLe 8 (if s.image then 0 else 1))]).serveBinds)

/-! ### Registers (R419, R420) -/

/-- Some context of a partition is created. -/
def partLive (s : State) (p : Nat) : Bool := s.ctxs.any (fun (e : Nat × Ctx) => e.2.created && e.2.part == p)

/-- The engine state of a context that is created: every field zero (R278, R305). -/
def State.freshEngines (s : State) (x : Nat) : State :=
  s.coreNums.foldl (fun s c => s.updCore c (fun k =>
    let k := { k with engSaved := Tab.del k.engSaved x }
    if k.engCtx = some x then { k with eng := Engines.new, arch := { k.arch with iNum := [] } } else k)) s

/-- CONTEXT_CREATED_WRITE (R420, R423); of a created context a write with bit 0 at 1 changes the partition alone (log 65). -/
def execContextCreatedWrite (ctx : Nat) (value : Word) (s : State) : ServOut :=
  let c := s.ctx ctx
  if value.getLsbD 0 then
    if c.created then .next (s.updCtx ctx (fun c => { c with part := field value 8 3 }))
    else if s.bootStep ≠ 5 || 64 ≤ ctx then .next s
    else .next ((s.freshEngines ctx).updCtx ctx (fun c => { c with
      created := true, part := field value 8 3, eseq := 0, streams := [], counters := [], arms := [], slots := [], outNum := []
      stepAddr := none, queues := [] }))
  else if c.created && s.launches.any (fun ln => ln.ctx == ctx && !isEnd ln.status) then .next s
  else .next (s.updCtx ctx (fun c => { c with created := false, part := field value 8 3 }))

/-- The address that an invalidation of the host names. -/
def invVa (v : Word) : Nat := (v &&& 0x00FFFFFFFFFF0000).toNat

/-- An invalidation of the host takes effect and counts as completed; others still wait (R382, R420). -/
def State.invTake (s : State) (ctx : Nat) (v : Word) (rest : List Word) : State :=
  (s.invalidate ctx (invVa v) (v.getLsbD 0)).updCtx ctx (fun c => { c with invs := c.invs + 1, invWait := rest })

/-- Something that it drops is in use (R382). -/
def invHeld (s : State) (ctx : Nat) (v : Word) : Bool := invPending s ctx (invVa v) (v.getLsbD 0) none

/-- The host's first waiting invalidation goes on once nothing that it drops is in use (R382, R420). -/
def State.invNext (s : State) (ctx : Nat) : State :=
  match (s.ctx ctx).invWait with
  | [] => s
  | v :: rest => if invHeld s ctx v then s else s.invTake ctx v rest

/-- INVALIDATION_WRITE: as TLBINV, with its waits, one after another (R358, R382, R420). -/
def execInvalidationWrite (ctx : Nat) (value : Word) (s : State) : ServOut :=
  .next (if (s.ctx ctx).invWait.isEmpty && !invHeld s ctx value then s.invTake ctx value []
    else s.updCtx ctx (fun c => { c with invWait := c.invWait ++ [value] }))

/-- FORWARDED_TRAP_RESUME: a group stopped by a forwarded fault resumes, as GRPRES resumes one (R356, R420). -/
def execForwardedTrapResume (ctx : Nat) (value : Word) (s : State) : ServOut :=
  let c := field value 16 9
  let d := value &&& 0xFFFFFFFF00000FFF
  let mine := fun (f : Word × FaultRec) => f.1 == d && (match s.block? c f.2.slot with
    | some b => s.ctxOf b == ctx
    | none => false)
  .next (match (s.core c).arch.fwd.find? mine with
    | none => s
    | some f =>
      s.updBoth c (fun a => { a.updBlock f.2.slot (fun b => b.mapTids f.2.tids (fun th =>
          if th.exited || th.wait != .stopped then th
          else
            let pc := if value.getLsbD 12 then th.pc + 8 else th.pc
            { th with wait := .run, pc := pc, acted := th.acted && pc == th.pc })) with
        fwd := a.fwd.filter (fun g => g != f) }))

/-- STEP_LIST_ADDRESS (R411, R420). -/
def execStepListAddress (ctx : Nat) (value : Word) (s : State) : ServOut :=
  .next (s.updCtx ctx (fun c => { c with stepAddr := some value }))

/-- BIND_RECORD_WRITE: the record is taken at the write of its last word; the answer stands in the result register (R372-R374, R420). -/
def execBindRecordWrite (ctx core : Nat) (value : Word) (s : State) : ServOut :=
  let c := s.ctx ctx
  let r : BitVec 256 := value ++ (c.bindW.getD 2 0 ++ (c.bindW.getD 1 0 ++ c.bindW.getD 0 0 : BitVec 128) : BitVec 192)
  let put := fun (s : State) (w : Word) => s.updCtx ctx (fun c => { c with bindRes := w })
  if !(c.mode.getLsbD 0 || (c.mode.getLsbD 5 && bindField r 5 3 = 2)) then .next (put s 0xF0)
  else if bindField r 8 6 ≠ ctx then .next (put s 0)
  else if bindHeld s r then .next { put s 0 with bindWait := s.bindWait ++ [(ctx, core, r)] }
  else .next ((s.bind core r).1.bindAnswer ctx (s.bind core r).2)

/-- The bits that an event ring, an event vector and an address register keep. -/
def ringMask : Word := 0x00FFFFFFFFFFF01F
def vecMask : Word := 0x87FF
def addrMask : Word := 0x00FFFFFFFFFFFFFF

/-- A write of a device register (R420). -/
def State.deviceWrite (s : State) (o : Nat) (v : Word) : State :=
  match o with
  | 0x018 => { s with bar2Base := BitVec.ofNat 64 ((v &&& addrMask).toNat / 2 ^ s.bar2Log * 2 ^ s.bar2Log) }
  | 0x020 => { s with dering := v &&& ringMask }
  | 0x030 => { s with decons := v }
  | 0x038 => { s with devec := v &&& vecMask }
  | 0x0C8 => { s with fwAddr := v }
  | 0x0D0 => { s with fwLen := v }
  | 0x0E0 => { s with drainRes := v }
  | o =>
    if 0x040 ≤ o && o < 0x080 then
      let p := (o - 0x040) / 8
      if partLive s p then s else { s with clusterMask := Tab.set 0 s.clusterMask p (v.extractLsb' 0 24 &&& s.active) }
    else if 0x080 ≤ o && o < 0x0C0 then
      (List.range 8).foldl (fun s i =>
        let port := o - 0x080 + i
        let p : BitVec 8 := v.extractLsb' (8 * i) 8
        if partLive s (p.toNat % 8) || partLive s (s.port port).partOf then s
        else s.updPort port (fun q => { q with part := p })) s
    else s

/-- A write of a context register (R420). -/
def State.contextWrite (s : State) (x o : Nat) (v : Word) : State :=
  let f := fun (g : Ctx → Ctx) => s.updCtx x g
  match o with
  | 0x008 => f (fun c => { c with qtable := v &&& 0x00FFFFFFFFFFC000 })
  | 0x010 => f (fun c => { c with level0 := v &&& 0x00FFFFFFFFF00000 })
  | 0x018 => f (fun c => { c with mode := v.extractLsb' 0 6 })
  | 0x020 => f (fun c => { c with ering := v &&& ringMask })
  | 0x030 => f (fun c => { c with econs := v })
  | 0x038 => f (fun c => { c with evec := v &&& vecMask })
  | 0x040 => f (fun c => { c with save := v &&& addrMask })
  | 0x048 => f (fun c => { c with policy := v &&& 1 })
  | 0x080 => f (fun c => { c with bindW := c.bindW.set 0 v })
  | 0x088 => f (fun c => { c with bindW := c.bindW.set 1 v })
  | 0x090 => f (fun c => { c with bindW := c.bindW.set 2 v })
  | _ => s

/-- The bits of a reach group entry's words that hold fields (R421). -/
def groupMask0 : Word := 0x8073FFFF1FFFFFFF
def groupMask1 : Word := 0x00FFFFFFFFFFFFC0

/-- A group entry by number. -/
def State.groupEntry (s : State) (i : Nat) : GroupEntry := Tab.get GroupEntry.new s.groups i
def State.setGroup (s : State) (i : Nat) (g : GroupEntry) : State := { s with groups := Tab.set GroupEntry.new s.groups i g }

/-- REGISTER_WRITE: an aligned 64-bit write of a BAR0 register that has no behaviour of its own; a register that only reads ignores
it (R418-R420). -/
def execRegisterWrite (off : Nat) (value : Word) (s : State) : ServOut :=
  .next (if off % 8 ≠ 0 then s
    else if off < 0x1000 then s.deviceWrite off value
    else if 0x10000 ≤ off && off < 0x50000 then s.contextWrite ((off - 0x10000) / 0x1000) (off % 0x1000) value
    else if 0xA0000 ≤ off && off < 0xA4000 && off % 0x40 = 8 then
      let i := (off - 0xA0000) / 0x40
      s.setGroup i { s.groupEntry i with w1 := value &&& groupMask1 }
    else s)

/-! ### What the host reads (R403, R419-R421, R425-R427) -/

/-- A port's status register (R403). -/
def Port.status (p : Port) : Word :=
  BitVec.ofNat 64 ((if p.en then 1 else 0) + 16 * p.state + 2 ^ 9 * p.partOf + 2 ^ 16 * p.lost.toNat + 2 ^ 32 * p.act.toNat)

/-- A device register. -/
def deviceRead (s : State) (o : Nat) : Word :=
  match o with
  | 0x000 => 0x0100
  | 0x008 => BitVec.ofNat 64 (s.bootStep + 16 * s.bootFail + 2 ^ 16 * s.active.toNat + (if s.image then 2 ^ 40 else 0))
  | 0x018 => s.bar2Base
  | 0x020 => s.dering
  | 0x028 => s.deprod
  | 0x030 => s.decons
  | 0x038 => s.devec
  | 0x0C0 => s.fwCtl
  | 0x0C8 => s.fwAddr
  | 0x0D0 => s.fwLen
  | 0x0D8 => BitVec.ofNat 64 (s.fwState + (if s.fwValidA then 256 else 0) + (if s.fwValidB then 512 else 0))
  | 0x0E0 => s.drainRes
  | o =>
    if 0x040 ≤ o && o < 0x080 then (s.partClusters ((o - 0x040) / 8)).setWidth 64
    else if 0x080 ≤ o && o < 0x0C0 then leWord ((List.range 8).map (fun i => (s.port (o - 0x080 + i)).part))
    else 0

/-- A context register. -/
def contextRead (s : State) (x o : Nat) : Word :=
  let c := s.ctx x
  match o with
  | 0x000 => BitVec.ofNat 64 ((if c.created then 1 else 0) + 256 * c.part)
  | 0x008 => c.qtable
  | 0x010 => c.level0
  | 0x018 => c.mode.setWidth 64
  | 0x020 => c.ering
  | 0x028 => c.eprod
  | 0x030 => c.econs
  | 0x038 => c.evec
  | 0x040 => c.save
  | 0x048 => c.policy
  | 0x060 => c.invs
  | 0x0A0 => c.bindRes
  | _ => 0

/-- An aligned 64-bit read of BAR0; it changes nothing. -/
def hostRead (s : State) (off : Nat) : Word :=
  let o := off % 0x40
  if off % 8 ≠ 0 then 0
  else if off < 0x1000 then deviceRead s off
  else if 0x10000 ≤ off && off < 0x50000 then contextRead s ((off - 0x10000) / 0x1000) (off % 0x1000)
  else if 0x60000 ≤ off && off < 0x61000 then
    let p := s.port ((off - 0x60000) / 0x40)
    match o with
    | 0x00 => p.status
    | 0x08 => p.restr.setWidth 64
    | 0x10 => p.sent
    | 0x18 => p.replayed
    | 0x20 => p.discarded
    | 0x28 => p.losses
    | _ => 0
  else if 0x70000 ≤ off && off < 0x70400 then
    let m := Tab.get Laser.new s.lasers ((off - 0x70000) / 0x40)
    if o = 0 then BitVec.ofNat 64 (m.state + (if m.en then 256 else 0) + 65536 * m.temp.toNat) else 0
  else if 0x80000 ≤ off && off < 0x82000 then
    let m := Tab.get MemLink.new s.links ((off - 0x80000) / 0x100)
    match off % 0x100 with
    | 0x00 => BitVec.ofNat 64 m.state
    | 0x08 => BitVec.ofNat 64 m.size
    | 0x10 => BitVec.ofNat 64 m.cmd
    | 0x18 => BitVec.ofNat 64 m.moved
    | _ => 0
  else if 0x90000 ≤ off && off < 0x90080 then Tab.get 0 s.ras ((off - 0x90000) / 8)
  else if 0xA0000 ≤ off && off < 0xA4000 then
    let g := s.groupEntry ((off - 0xA0000) / 0x40)
    if o = 0 then g.w0 else if o = 8 then g.w1 else 0
  else 0

/-! ### Reach groups (R404, R421) -/

/-- The route lists of a table. -/
def readRoutes (s : State) (table n : Nat) : List (List Nat) :=
  (List.range n).map (fun j => ((s.readMem (table + 4 * j) 4).map (fun b => b.toNat)).takeWhile (fun p => p != 0xFF))

/-- The first listed port outside a partition. -/
def foreignPort (s : State) (part : Nat) (rs : List (List Nat)) : Option Nat :=
  (rs.flatten).find? (fun p => 64 ≤ p || (s.port p).partOf != part)

/-- The lowest reason to refuse an entry, with the port of reason 1 (R421). -/
def groupRefused (s : State) (i : Nat) (g : GroupEntry) : Option (Nat × Nat) :=
  match foreignPort s g.part g.routes with
  | some p => some (1, p)
  | none =>
    if g.handle = 0 || s.groups.any (fun (e : Nat × GroupEntry) => e.1 != i && e.2.valid && e.2.handle == g.handle) then
      some (2, 0xFF)
    else if g.size = 0 || 4096 < g.size then some (3, 0xFF)
    else if g.size ≤ g.rank then some (4, 0xFF)
    else none

/-- A write of an entry's word with `valid` 1 creates the group, or loads its table again (R421). -/
def State.groupLoad (s : State) (entry : Nat) (value : Word) : State :=
  let old := s.groupEntry entry
  let w0 := value &&& groupMask0
  let table := old.w1.toNat
  let g : GroupEntry := ⟨w0, old.w1, readRoutes s table (w0.extractLsb' 16 13).toNat⟩
  let s := s.lookAt table (4 * (w0.extractLsb' 16 13).toNat)
  match groupRefused s entry g with
  | none => s.setGroup entry g
  | some (n, p) =>
    let s := if old.valid then s else s.setGroup entry ⟨w0 &&& 0x7FFFFFFFFFFFFFFF, old.w1, []⟩
    s.postDev 0x86 0 [(0x10, natLe 8 entry), (0x18, natLe 1 n), (0x1A, natLe 1 p), (0x20, natLe 8 w0.toNat),
      (0x28, natLe 8 old.w1.toNat)]

/-- A command of a group is in progress on the device; a COLL is, from its first read on (R421). -/
def groupBusy (s : State) (g : GroupEntry) : Bool :=
  s.arriving.any (fun a => a.handle == g.handle) || s.colls.any (fun c => c.handle == g.handle)
    || s.switch.any (fun q => q.handle == g.handle)
    || (s.ctx g.ctx).streams.any (fun (e : Nat × Stream) => match e.2.q with
      | q :: _ => (q.done ≠ 0 && ((q.fn = 0x27 && field (param q.ps 3) 0 16 = g.handle)
          || (q.fn = 0x63 && field (param q.ps 0) 16 16 = g.handle)))
        || (q.fn = 0x60 && !q.final && (q.done ≠ 0 || q.sent ≠ 0 || !q.got.isEmpty)
          && numAt (collPb s (s.engOf ⟨3, g.ctx, BitVec.ofNat 4 e.1⟩ q)) 8 2 = g.handle)
      | [] => false)

/-- The numbers that a deleted group leaves. -/
def State.dropGroup (s : State) (g : GroupEntry) : State :=
  let mine := fun (k : Nat) => k / 2 ^ 16 == g.handle
  let s := { s with
    applied := s.applied.filter (fun e => !mine e.1), collSeq := s.collSeq.filter (fun e => e.1 / 16 != g.handle) }
  s.updCtx g.ctx (fun c => { c with outNum := c.outNum.filter (fun e => !mine e.1) })

/-- A write of an entry's word with `valid` 0 deletes the group (R421). -/
def State.groupUnload (s : State) (entry : Nat) (value : Word) : State :=
  let g := s.groupEntry entry
  (if g.valid then s.dropGroup g else s).setGroup entry ⟨value &&& groupMask0, g.w1, []⟩

/-- A write of an entry's word takes effect now: a deletion only when no command of the group is in progress (R421). -/
def groupFree (s : State) (entry : Nat) (value : Word) : Bool :=
  let g := s.groupEntry entry
  value.getLsbD 63 || !(g.valid && groupBusy s g)

/-- A write of an entry's word takes effect. -/
def State.groupWrite (s : State) (entry : Nat) (value : Word) : State :=
  if value.getLsbD 63 then s.groupLoad entry value else s.groupUnload entry value

/-- A write of an entry's word: a deletion waits until no command of the group is in progress, and later writes of the word wait behind
it (R421; log 66). -/
def State.groupTake (s : State) (entry : Nat) (value : Word) : State :=
  if 256 ≤ entry then s
  else if s.groupWait.any (fun w => w.1 == entry) || !groupFree s entry value then
    { s with groupWait := s.groupWait ++ [(entry, value)] }
  else s.groupWrite entry value

/-- The first waiting write of an entry's word goes on once it can (R421). -/
def State.groupNext (s : State) (entry : Nat) : State :=
  match s.groupWait.find? (fun w => w.1 == entry) with
  | none => s
  | some w => if groupFree s entry w.2 then ({ s with groupWait := s.groupWait.erase w }).groupWrite entry w.2 else s

/-- GROUP_CREATE: a write of a word with `valid` 1 (R421). -/
def execGroupCreate (entry : Nat) (value : Word) (s : State) : ServOut :=
  .next (if value.getLsbD 63 then s.groupTake entry value else s)

/-- GROUP_DELETE: a write of a word with `valid` 0 takes effect once no command of the group is in progress (R421). -/
def execGroupDelete (entry : Nat) (value : Word) (s : State) : ServOut :=
  .next (if value.getLsbD 63 then s else s.groupTake entry value)

/-! ### BAR2 (R418) -/

/-- A context whose launch has written a line, or else the lowest that is created: the one whose ring names an error that no consumer
has met (log 34). -/
def State.lineCtx (s : State) (l : Nat) : Nat :=
  let of := fun (o : Nat) => ((s.launch? o).map (fun ln => ln.ctx)).getD 0
  match s.owner l with
  | .private_ o _ => of o
  | .shared (o :: _) => of o
  | _ => ((List.range 64).find? (fun x => (s.ctx x).created)).getD 0

/-- The host reads part of an aligned 8-byte word of device memory: a touch by another block. Data that fail their check quarantine their
line, and the host is given other bytes, which no rule states (R120, R388, R418; log 109). -/
def State.bar2Read (s : State) (k n : Nat) (first : Bool) : State :=
  let l := k / 256
  let bad := s.quar.contains l || (Tab.find? s.badLines l).isSome
  let bs := if bad then natLe n (Config.freeWord s.tick).toNat else s.readMem k n
  let s := (s.outTouch [l]).quarantine (s.lineCtx l) [l] 0
  { s with bar2Data := if first then bs else s.bar2Data ++ bs }

/-- The host's first waiting access goes on: once its line is free, a write while no priority chunk is open, and a doorbell after the writes
before it (R46, R158, R418). Part of a quarantined line is not written (R388). -/
def State.bar2Next (s : State) : State :=
  match s.bar2Wait with
  | [] => s
  | .read k n first :: rest =>
    if s.heldLines.contains (k / 256) then s else ({ s with bar2Wait := rest }).bar2Read k n first
  | .write k bs :: rest =>
    if s.heldLines.contains (k / 256) || prioOpen s then s
    else if s.quar.contains (k / 256) then { s with bar2Wait := rest }
    else ({ s with bar2Wait := rest }).outWrite k bs
  | .doorbell x q v after :: rest => if after.any (hostWaits s) then s else ({ s with bar2Wait := rest }).doorbell x q v

/-- The parts of an 8-byte access through BAR2 in aligned words, each within the window: offset, length, and place (R418). -/
def bar2Parts (s : State) (off : Nat) : List (Nat × Nat × Nat) :=
  let n := 8 - off % 8
  ([(off, n, 0)] ++ (if n = 8 then [] else [(off + n, 8 - n, n)])).filter (fun p => p.1 < 2 ^ s.bar2Log)

/-- BAR2_ACCESS: an 8-byte access of the host to device memory, each aligned word by itself. An access to a held line waits until the
publish, and those after it wait behind it (R158, R418; log 68). -/
def execBar2Access (off : Nat) (write : Bool) (value : Word) (s : State) : ServOut :=
  let acc := fun (p : Nat × Nat × Nat) =>
    let k := (s.bar2Base.toNat + p.1) % 2 ^ 56
    if write then HostAcc.write k (((natLe 8 value.toNat).drop p.2.2).take p.2.1) else .read k p.2.1 (p.2.2 == 0)
  let s' := { s with bar2Wait := s.bar2Wait ++ (bar2Parts s off).map acc }
  .next (if s.bar2Wait.isEmpty then s'.bar2Next else s')

/-- The link gives BAR2 another size, of 16 GiB to 8 TiB; the window base stays a multiple of it (R418, R420; log 109). -/
def State.bar2Resize (s : State) (log : Nat) : State :=
  if log < 34 || 43 < log then s
  else { s with bar2Log := log, bar2Base := BitVec.ofNat 64 (s.bar2Base.toNat / 2 ^ log * 2 ^ log) }

/-! ### Laser modules (R394, R426) -/

def State.laser (s : State) (m : Nat) : Laser := Tab.get Laser.new s.lasers m

/-- A module changes its state: its bank of 16 transmit fibres has light while it works, and the change is reported (R394, R426). -/
def State.setLaser (s : State) (m : Nat) (l : Laser) : State :=
  let old := s.laser m
  let s := { s with lasers := Tab.set Laser.new s.lasers m l }
  let s := if (l.state = 1) == (old.state = 1) then s else (bankPorts m).foldl (fun s p => s.updPort p (fun q => { q with
    lit := if l.state = 1 then q.lit ||| bankMask m else q.lit &&& ~~~bankMask m })) s
  if old.state = l.state then s else s.postDev 0x84 0 [(0x10, natLe 8 m), (0x18, natLe 1 l.state), (0x19, natLe 1 old.state)]

/-- LASER_ENABLE: a write of a module's `en` (R426). -/
def execLaserEnable (m : Nat) (value : Word) (s : State) : ServOut :=
  let l := s.laser m
  .next (if 16 ≤ m then s
    else if value.getLsbD 8 then
      if !l.present then s else s.setLaser m { l with en := true, warming := l.warming || l.state = 3 }
    else s.setLaser m { l with en := false, warming := false, state := if l.state = 1 then 3 else l.state })

/-- A module's temperature changes (R426). -/
def State.laserTemp (s : State) (m : Nat) (t : BitVec 8) : State :=
  if 16 ≤ m || !(s.laser m).present then s else { s with lasers := Tab.set Laser.new s.lasers m { s.laser m with temp := t } }

/-- LASER_WARM_UP_DONE: the module works, and the ports that it feeds, which lack wavelengths of its bank, rejoin it by retraining (R401,
R426). -/
def execLaserWarmUpDone (m : Nat) (s : State) : ServOut :=
  let l := s.laser m
  if !l.warming then .next s
  else
    let s := s.setLaser m { l with state := 1, warming := false }
    .next ((bankPorts m).foldl (fun s p =>
      if ((s.port p).txLost &&& bankMask m) = 0 && ((s.port p).state ≠ 2 || ((s.port p).act &&& bankMask m) = bankMask m) then s
      else s.updPort p (fun q => { q with
        txLost := q.txLost &&& ~~~bankMask m
        tmask := if q.state = 2 then q.act ||| bankMask m else if q.tmask = 0 then 0 else q.tmask ||| bankMask m
        state := if q.en && (q.state = 2 || q.state = 4) then 1 else q.state })) s)

/-- LASER_MODULE_FAILURE: the module fails, or is removed (R426). -/
def execLaserModuleFailure (m : Nat) (removed : Bool) (s : State) : ServOut :=
  let l := s.laser m
  .next (if 16 ≤ m || !l.present then s
    else if removed then s.setLaser m { l with state := 0, en := false, present := false, warming := false }
    else s.setLaser m { l with state := 2, warming := false })

/-- LASER_MODULE_INSERTED (R426). -/
def execLaserModuleInserted (m : Nat) (s : State) : ServOut :=
  let l := s.laser m
  .next (if 16 ≤ m || l.present then s
    else s.setLaser m { l with state := 3, en := false, present := true, warming := false })

/-! ### Memory links (R427) -/

def State.link (s : State) (j : Nat) : MemLink := Tab.get MemLink.new s.links j
def State.setLink (s : State) (j : Nat) (m : MemLink) : State := { s with links := Tab.set MemLink.new s.links j m }

/-- MiB of reserve free on the other up modules, beside the lines that stand there already. -/
def reserveFree (s : State) (j : Nat) : Nat :=
  let all := (List.range 32).filter (fun i => i != j)
  ((all.filter (fun i => (s.link i).state = 2)).map (fun i => min s.drainRes.toNat (s.link i).size)).sum
    - ((all.filter (fun i => (s.link i).away)).map (fun i => (s.link i).old)).sum

/-- DRAIN: lines start to move into the reserve, or the drain is refused (R427). -/
def execDrain (link : Nat) (s : State) : ServOut :=
  let m := s.link link
  .next (if 32 ≤ link || m.state ≠ 2 || m.away then s
    else if reserveFree s link < m.size then
      s.postDev 0x82 0 [(0x10, natLe 8 link), (0x18, natLe 8 m.size), (0x20, natLe 8 (reserveFree s link))]
    else s.setLink link { m with state := 3, cmd := 1, moved := 0, old := m.size, away := true })

/-- RESTORE: lines start to move back to a module that has trained (R427). -/
def execRestore (link : Nat) (s : State) : ServOut :=
  let m := s.link link
  .next (if m.away && (m.state = 2 || m.state = 4) then s.setLink link { m with state := 5, cmd := 2, moved := 0 } else s)

/-- DRAIN_END: every line has moved (R427). -/
def execDrainEnd (link : Nat) (s : State) : ServOut :=
  let m := s.link link
  let n := m.old * 4096
  let report := fun (s : State) (k : Nat) => s.postDev 0x83 0 [(0x10, natLe 8 link), (0x18, natLe 8 k), (0x20, natLe 8 n)]
  .next (if m.moved ≠ n then s
    else if m.state = 3 then report (s.setLink link { m with state := 4 }) 1
    else if m.state = 5 then report (s.setLink link { m with state := 2, away := false }) 2
    else s)

/-- One line of a module moves into the reserve, or back (R427). -/
def State.lineMoved (s : State) (link : Nat) : State :=
  let m := s.link link
  if (m.state = 3 || m.state = 5) && m.moved < m.old * 4096 then s.setLink link { m with moved := m.moved + 1 } else s

/-- MEMORY_LINK_RETRAIN: eight failed retries; the link trains again, which costs only time (R388). -/
def execMemoryLinkRetrain (link : Nat) (s : State) : ServOut :=
  let m := s.link link
  .next (if link < 32 && m.state = 2 then s.setLink link { m with state := 1 } else s)

/-- MEMORY_MODULE_REMOVED (R427). -/
def execMemoryModuleRemoved (link : Nat) (s : State) : ServOut :=
  let m := s.link link
  .next (if m.state = 4 then s.setLink link { m with state := 0, size := 0 } else s)

/-- MEMORY_MODULE_INSERTED (R427). -/
def execMemoryModuleInserted (link size : Nat) (s : State) : ServOut :=
  let m := s.link link
  .next (if link < 32 && m.state = 0 then s.setLink link { m with state := 1, size := size } else s)

/-- MEMORY_LINK_TRAINED: the link is up when its module is at least as large as the one before (R427). -/
def execMemoryLinkTrained (link : Nat) (s : State) : ServOut :=
  let m := s.link link
  .next (if m.state = 1 && m.old ≤ m.size then s.setLink link { m with state := 2 } else s)

/-- QUARANTINE_RELEASE: the line's quarantine ends, and it reads zero (R388, R427). -/
def execQuarantineRelease (addr : Word) (s : State) : ServOut :=
  let l := addr.toNat % 2 ^ 56 / 256
  .next (if s.quar.contains l then
      { s with quar := s.quar.filter (fun n => n != l), mem := s.mem.filter (fun (e : Host.Cell) => e.1 / 256 != l) }
    else s)

/-! ### Power and cooling (R428) -/

/-- THERMAL_THROTTLE: the arithmetic clock is lowered by 50 MHz; no result changes (R428). -/
def execThermalThrottle (s : State) : ServOut := .next { s with clockMHz := s.clockMHz - 50 }

/-- OVER_TEMPERATURE_STOP: at 110 °C every core stops issue, and the device waits for a reset (R428). -/
def execOverTemperatureStop (die temp : Nat) (s : State) : ServOut :=
  .next (if temp < 110 then s
    else ({ s with stopped := true }).postDev 0x85 0 [(0x10, natLe 8 die), (0x18, natLe 8 temp)])

end Sys2Proof.Machine
end

