-- ==== Sys2Proof/Machine/Ports.lean ====
section
/-! DEFINITION. What a fibre port does with each flit it receives, its timers, loss of light and retraining, and the service of a
port's registers (R393-R405, R409). -/

namespace Sys2Proof.Machine

/-- The answer of a port event. -/
abbrev PortOut := Host.Outcome State Fault Refusal

/-! ### Arrival (R397, R398) -/

/-- A flit reaches a port's receiver: it is taken, discarded, or not received. New flits follow what the flit itself calls for (R398). -/
def State.receive (s : State) (port ty : Nat) (f : Flit) (k : Port → State → State) : PortOut :=
  let p := s.port port
  .next (if 64 ≤ port then s
    else match p.rx ty f with
    | .ignored => s
    | .discard nak => s.updPort port (fun p => p.discard nak)
    | .take => (k p (s.updPort port (fun p => p.ack (flitAck f)))).updPort port Port.pump)

/-- A packet that came by a port passes to the switch, unless its group or its context is another partition's (R393). -/
def State.toSwitch (s : State) (port : Nat) (q : Packet) : State :=
  match s.group? q.handle with
  | some g => if s.mayPass g port then { s with switch := s.switch ++ [q] } else s
  | none => s

/-- A sequenced flit in its turn is accepted exactly once (R398). -/
def State.acceptFlit (s : State) (port : Nat) (f : Flit) : State :=
  let r := ((s.port port).tracked (packetOf f))
  let s := s.updPort port (fun _ => { r.1 with expect := r.1.expect + 1, naked := if r.1.nakDue then r.1.naked else none })
  if r.2.isResume then s else s.toSwitch port r.2

/-- DATA_FLIT (R395, R398). -/
def execDataFlit (port : Nat) (f : Flit) (s : State) : PortOut := s.receive port 1 f (fun _ s => s.acceptFlit port f)
/-- COMMAND_HEADER (R395, R398). -/
def execCommandHeader (port : Nat) (f : Flit) (s : State) : PortOut := s.receive port 2 f (fun _ s => s.acceptFlit port f)
/-- COUNTER_UPDATE (R306, R395, R398). -/
def execCounterUpdate (port : Nat) (f : Flit) (s : State) : PortOut := s.receive port 6 f (fun _ s => s.acceptFlit port f)
/-- IDLE_FLIT (R397). -/
def execIdleFlit (port : Nat) (f : Flit) (s : State) : PortOut := s.receive port 0 f (fun _ s => s)

/-- NAK: every unacknowledged flit from the named one on is sent again, after the training when the port trains or has stopped (R398). -/
def execNak (port : Nat) (f : Flit) (s : State) : PortOut :=
  let n := BitVec.ofNat 16 (flitNat f 0 2)
  s.receive port 3 f (fun p s => s.updPort port (fun q => if p.state = 2 then q.replayFrom n
    else if p.state = 1 || p.state = 3 then { q with nakFrom := some n } else q))

/-! ### Loss of light (R399-R402) -/

/-- LOSS_OF_LIGHT: the receiver flags wavelengths and tells its peer, in place of a NAK that is due (R399, R414); when fewer than four
are left it reports that the direction fails (R400, R402). -/
def execLossOfLight (port : Nat) (lost : BitVec 16) (s : State) : PortOut :=
  let p := s.port port
  let new := lost &&& ~~~p.lost
  .next (if 64 ≤ port || !p.en || p.state = 0 || new = 0 then s
    else
      let s := s.updPort port (fun p =>
        { p.control 4 (natLe 2 (p.lost ||| lost).toNat ++ natLe 2 p.expect.toNat) with
          lost := p.lost ||| lost, lossRx := p.lossRx ++ [new], nakDue := false, blind := true
          losses := p.losses + BitVec.ofNat 64 (popMask new) })
      if popMask (~~~(p.lost ||| lost)) < 4 && 4 ≤ popMask (~~~p.lost) then
        (s.updPort port (fun p => { p with rxAct := 0, lossRx := [] })).portRecord 0x71 port false new 0 0 0
      else s)

/-- LOSS_OF_LIGHT_NOTICE: the sender restripes, stops for the host, or fails (R400, R401). -/
def execLossOfLightNotice (port : Nat) (f : Flit) (s : State) : PortOut :=
  s.receive port 4 f (fun _ s => s.restripe port (BitVec.ofNat 16 (flitNat f 0 2)) (BitVec.ofNat 16 (flitNat f 2 2)))

/-- TRAINING: the peer has retrained; the flags of the wavelengths that it uses end, and the receiver reports the change
(R400, R402, R403, R416; log 49). -/
def execTraining (port : Nat) (f : Flit) (s : State) : PortOut :=
  s.receive port 5 f (fun p s =>
    let m : BitVec 16 := BitVec.ofNat 16 (flitNat f 0 2)
    let back := m &&& ~~~p.rxAct
    let s := s.updPort port (fun p => { p with
      lost := p.lost &&& ~~~m, blind := false, rxAct := m, naked := if p.nakDue then p.naked else none, lossRx := [] })
    let s := s.lossRecords port false p.lossRx m 0 p.expect
    if back ≠ 0 then s.portRecord 0x72 port false back m 0 0 else s)

/-- RETRAIN_COMPLETE: the sender's wavelengths are active, its beats count from 0, and it replays from the notice's number,
or from that of a NAK that has come meanwhile (R396, R398, R400, R401, R402; log 49). -/
def execRetrainComplete (port : Nat) (s : State) : PortOut :=
  let p := s.port port
  let m := p.survivors
  if !p.en || p.state ≠ 1 then .next s
  else if popMask m < 4 then .next (s.failPort port)
  else
    let s := s.updPort port (fun p => { ({ p with
        act := m, state := 2, tmask := 0, notice := none, nakFrom := none, lossTx := [], beat := 0 }).control 5 (natLe 2 m.toNat) with beat := 0 })
    let rep := match p.notice with
      | some n => (p.from n).length
      | none => 0
    let s := match p.notice <|> p.nakFrom with
      | some n => s.updPort port (fun p => p.replayFrom n)
      | none => s
    let s := s.updPort port Port.pump
    let s := s.lossRecords port true p.lossTx m rep (p.notice.getD 0)
    .next (if m &&& ~~~p.act ≠ 0 then s.portRecord 0x72 port true (m &&& ~~~p.act) m 0 0 else s)

/-! ### Timers (R397, R398) -/

/-- REPLAY_TIMEOUT: the oldest unacknowledged flit has waited 4,096 cycles (R398). -/
def execReplayTimeout (port : Nat) (s : State) : PortOut :=
  let p := s.port port
  .next (match p.replay with
    | e :: _ => if p.state = 2 then s.updPort port (fun p => p.replayFrom e.1) else s
    | [] => s)

/-- NAK_REPEAT_TIMEOUT: another NAK for the expected number may be sent (R398). -/
def execNakRepeatTimeout (port : Nat) (s : State) : PortOut :=
  .next (if (s.port port).naked.isSome then s.updPort port (fun p => { p with naked := none }) else s)

/-- IDLE_ACK_TIMER: an idle flit carries the acknowledgement (R397). -/
def execIdleAckTimer (port : Nat) (s : State) : PortOut :=
  .next (if (s.port port).state = 2 then s.updPort port (fun p => p.control 0 []) else s)

/-! ### Registers (R401, R403) -/

/-- PORT_ENABLE: the port trains, or goes down at a flit boundary, which takes its wavelengths out of use (R402, R403; log 49). -/
def execPortEnable (port : Nat) (value : Word) (s : State) : PortOut :=
  let p := s.port port
  .next (if 64 ≤ port then s
    else if value.getLsbD 0 then (if p.en then s else s.updPort port (fun p => { p with en := true, state := 1 }))
    else
      let s := s.updPort port (fun p => { p with en := false, state := 0, act := 0, rxAct := 0 })
      if p.act = 0 then s else s.portRecord 0x70 port true p.act 0 0 0)

/-- RESTRIPE_WRITE: the host names the wavelengths of a stopped port (R401). -/
def execRestripeWrite (port : Nat) (value : Word) (s : State) : PortOut :=
  let p := s.port port
  let m := value.extractLsb' 0 16
  .next (if 64 ≤ port || p.state ≠ 3 || (m &&& (p.txLost ||| ~~~p.lit)) ≠ 0 || popMask m < 4 then s
    else s.updPort port (fun p => { p with restr := m, tmask := m, state := 1 }))

/-- PORT_COUNTER_CLEAR (R403). -/
def execPortCounterClear (port counter : Nat) (s : State) : PortOut :=
  .next (if 64 ≤ port then s
    else s.updPort port (fun p => match counter with
      | 0 => { p with sent := 0 }
      | 1 => { p with replayed := 0 }
      | 2 => { p with discarded := 0 }
      | 3 => { p with losses := 0 }
      | _ => p))

/-! ### An unreachable rank (R405, R409) -/

/-- A collective that a rank is lost to: it leaves the collective without inputs or without an add node as far as this rank can tell, it is
rank 0, which decides, or a rank of a step list that is not known to have finished (R409; log 48). -/
def rankMissed (g : GroupEntry) (rank : Nat) (c : CollSt) : Bool :=
  match c.pbs with
  | [] => false
  | e :: _ => rank = 0 || (g.rank = 0 && (Tab.find? c.pbs rank).isNone)
      || (if c.steps.isSome then !c.ready.contains rank else (collCtx e.2 g).missed c rank)

/-- A rank has become unreachable: a collective that misses it is aborted, by the rank that decides (R405, R409). -/
def State.rankLost (s : State) (g : GroupEntry) (rank : Nat) (c : CollSt) : State :=
  if c.handle ≠ g.handle || c.go || c.abort.isSome || c.lost.contains rank then s
  else
    let s := s.updColl g.handle c.stream c.k (fun c => { c with lost := rank :: c.lost })
    if rankMissed g rank c then s.decideAbort g c.root c.stream c.k 2 else s

/-- ROUTE_UNREACHABLE: no listed port has qualified for 65,536 cycles (R405, R409). -/
def execRouteUnreachable (entry rank : Nat) (s : State) : PortOut :=
  let g := s.groupEntry entry
  .next (if !g.valid || g.size ≤ rank || rank = g.rank || (s.outPort g rank).isSome then s
    else s.colls.foldl (fun s c => s.rankLost g rank c) s)

end Sys2Proof.Machine
end

