-- ==== Sys2Proof/Machine/Sfu.lean ====
section
/-! DEFINITION. The special functions 0x60 to 0x6B (R102-R105, R240, R241). The manual fixes special inputs, exact intervals
and error bounds; a result inside its bound is the free value of Config (logs 6, 7), and one outside its bound is not
delivered: the nearest value is. -/

namespace Sys2Proof.Machine

/-! ### Real functions in fixed point -/

/-- Bits after the point: far below the spacing of every result. -/
def fxBits : Nat := 320

/-- A real number times 2^320. -/
abbrev Fx := Int

def fxOne : Fx := 2 ^ fxBits
def fxMul (a b : Fx) : Fx := a * b / 2 ^ fxBits
def fxDiv (a b : Fx) : Fx := a * 2 ^ fxBits / b

/-- A finite value in fixed point. -/
def fxOf (neg : Bool) (m : Nat) (e : Int) : Fx :=
  let k := e + fxBits
  let v : Int := if 0 ≤ k then m * 2 ^ k.toNat else m / 2 ^ (-k).toNat
  if neg then -v else v

/-- Sum of a power series: the first term, and the factor from term `k` to term `k` + 1. -/
def fxSeries (n : Nat) (t0 : Fx) (f : Nat → Fx → Fx) : Fx :=
  ((List.range n).foldl (fun (p : Fx × Fx) k => (p.1 + p.2, f k p.2)) (0, t0)).1

/-- 2 · artanh(y) for |y| ≤ 1/3: y^(2k+1)/(2k+1) summed. -/
def fxAtanh2 (y : Fx) : Fx :=
  2 * ((List.range 110).foldl (fun (p : Fx × Fx) k => (p.1 + p.2 / (2 * k + 1), fxMul (fxMul p.2 y) y)) (0, y)).1

/-- ln 2. -/
def fxLn2 : Fx := fxAtanh2 (fxOne / 3)

/-- The arctangent of 1/q. -/
def fxAtanInv (q : Nat) : Fx :=
  ((List.range 150).foldl (fun (p : Fx × Fx) k =>
    (p.1 + (if k % 2 = 0 then p.2 / (2 * k + 1) else -(p.2 / (2 * k + 1))), p.2 / (q * q))) (0, fxOne / q)).1

/-- π. -/
def fxPi : Fx := 16 * fxAtanInv 5 - 4 * fxAtanInv 239

/-- 2^f for 0 ≤ f < 1. -/
def fxExp2Frac (f : Fx) : Fx := fxSeries 90 fxOne (fun k t => fxMul (fxMul t f) fxLn2 / (k + 1))

/-- 2^x. -/
def fxExp2 (x : Fx) : Fx :=
  let n := x / 2 ^ fxBits
  let v := fxExp2Frac (x - n * 2 ^ fxBits)
  if 0 ≤ n then v * 2 ^ n.toNat else v / 2 ^ (-n).toNat

/-- e^x. -/
def fxExp (x : Fx) : Fx := fxExp2 (fxDiv x fxLn2)

/-- log2 of m · 2^e, m > 0. -/
def fxLog2 (m : Nat) (e : Int) : Fx :=
  let k : Int := Nat.log2 m
  let y := fxOf false m (-k)
  (k + e) * 2 ^ fxBits + fxDiv (fxAtanh2 (fxDiv (y - fxOne) (y + fxOne))) fxLn2

/-- sin(π·x) for 0 ≤ x ≤ 1/2. -/
def fxSinHalf (x : Fx) : Fx :=
  let y := fxMul x fxPi
  fxSeries 60 y (fun k t => -(fxMul (fxMul t y) y / ((2 * k + 2) * (2 * k + 3))))

/-- sin(π·x). -/
def fxSinPi (x : Fx) : Fx :=
  let r := x % (2 * fxOne)
  let neg := fxOne ≤ r
  let r := if neg then r - fxOne else r
  let v := fxSinHalf (if 2 * r ≤ fxOne then r else fxOne - r)
  if neg then -v else v

/-- tanh x. -/
def fxTanh (x : Fx) : Fx :=
  let t := fxExp (-2 * |x|)
  let v := fxDiv (fxOne - t) (fxOne + t)
  if x < 0 then -v else v

/-- 1/(1 + e^-x); beyond ±256 the value is 0 or 1 to within 2^-320. -/
def fxSigm (x : Fx) : Fx :=
  if 256 * fxOne < x then fxOne else if x < -256 * fxOne then 0 else fxDiv fxOne (fxOne + fxExp (-x))

/-- erf x for |x| < 4. -/
def fxErf (x : Fx) : Fx :=
  let s := ((List.range 200).foldl (fun (p : Fx × Fx) k =>
    (p.1 + p.2 / (2 * k + 1), -(fxMul (fxMul p.2 x) x / (k + 1)))) (0, x)).1
  fxDiv (2 * s) (isqrt 330 ((fxPi * fxOne).toNat))

/-! ### Results in f32 (R103, R104) -/

/-- The function numbers of 0x60 to 0x69. -/
inductive Sfu where
  | exp2 | log2 | sinpi | cospi | tanh | sigm | erf | rcp | rsqrt | silu
deriving DecidableEq, Repr

def Sfu.num : Sfu → Nat
  | .exp2 => 0 | .log2 => 1 | .sinpi => 2 | .cospi => 3 | .tanh => 4 | .sigm => 5 | .erf => 6 | .rcp => 7 | .rsqrt => 8
  | .silu => 9

/-- An ulp at an exact value: the spacing of f32 values there (R103). -/
def fxUlp (v : Fx) : Fx := 2 ^ (max ((Nat.log2 v.natAbs : Int) - fxBits) (-126) + 297).toNat

/-- The exact value of a function in fixed point and its error bound (R103), for inputs outside the exact intervals and
the special inputs. -/
def Sfu.bound (f : Sfu) (neg : Bool) (m : Nat) (e : Int) : Fx × Fx :=
  let x := fxOf neg m e
  let abs22 : Fx := 2 ^ (fxBits - 22)
  match f with
  | .exp2 =>
    let v := fxExp2 x
    (v, if x < -126 * fxOne then 2 ^ (fxBits - 149) else 2 * fxUlp v)
  | .log2 =>
    let v := fxLog2 m e
    (v, if fxOne ≤ 2 * x && x ≤ 2 * fxOne then abs22 else 2 * fxUlp v)
  | .sinpi => (fxSinPi x, abs22)
  | .cospi => (fxSinPi (x + fxOne / 2), abs22)
  | .tanh => (fxTanh x, 2 * fxUlp (fxTanh x))
  | .sigm => (fxSigm x, 2 ^ (fxBits - 23))
  | .erf => (fxErf x, 2 * fxUlp (fxErf x))
  | .rcp => (fxDiv fxOne x, fxUlp (fxDiv fxOne x))
  | .rsqrt =>
    let k := 640 + (if e % 2 = 0 then 0 else 1)
    let r : Fx := 2 ^ (320 + k / 2 + fxBits) / (isqrt 700 (m * 2 ^ k))
    let h := (e - k % 2) / 2 + 320
    let v := if 0 ≤ h then r / 2 ^ h.toNat else r * 2 ^ (-h).toNat
    (v, fxUlp v)
  | .silu =>
    let v := fxMul x (fxSigm x)
    (v, max (3 * fxUlp v) abs22)

/-- The result of an ordinary input: Config's value when it is a finite f32 value within the bound, otherwise the value
nearest to the exact one (R102, R103; log 6). -/
def Sfu.value (f : Sfu) (x : Nat) (neg : Bool) (m : Nat) (e : Int) : Nat :=
  let p := f.bound neg m e
  let c := (Config.sfu f.num 1 (BitVec.ofNat 64 x)).toNat % 2 ^ 32
  let near := (FF.f32.round .rne false (p.1 < 0) p.1.natAbs (-fxBits) true).1
  match FF.f32.read c with
  | .fin n cm ce => if |fxOf n cm ce - p.1| ≤ p.2 then c else near
  | _ => near

/-- A special function on an f32 encoding: the result, and its flags when they are fixed whatever it is (R103, R104). -/
def Sfu.eval (f : Sfu) (x : Nat) : Nat × Option FFlags :=
  let nan := FF.f32.nan
  let inf := fun (n : Bool) => FF.f32.signBit n + FF.f32.inf
  let zero := fun (n : Bool) => FF.f32.signBit n
  let one := fun (n : Bool) => FF.f32.signBit n + 0x3F800000
  match FF.f32.read x with
  | .nan _ s => (nan, some (if s then fNv else fNone))
  | .inf n =>
    match f with
    | .exp2 => (if n then zero false else inf false, some fNone)
    | .log2 => if n then (nan, some fNv) else (inf false, some fNone)
    | .sinpi => (nan, some fNv)
    | .cospi => (nan, some fNv)
    | .tanh => (one n, some fNone)
    | .erf => (one n, some fNone)
    | .sigm => (if n then zero false else one false, some fNone)
    | .rcp => (zero n, some fNone)
    | .rsqrt => if n then (nan, some fNv) else (zero false, some fNone)
    | .silu => (if n then zero true else inf false, some fNone)
  | .fin n m e =>
    let v := fxOf n m e
    if m = 0 then
      match f with
      | .exp2 => (one false, some fNone)
      | .log2 => (inf true, some fDz)
      | .sinpi => (zero n, some fNone)
      | .cospi => (f.value x n m e, none)
      | .tanh => (zero n, some fNone)
      | .erf => (zero n, some fNone)
      | .silu => (zero n, some fNone)
      | .sigm => (0x3F000000, some fNone)
      | .rcp => (inf n, some fDz)
      | .rsqrt => (inf n, some fDz)
    else match f with
      | .exp2 =>
        if v ≤ -150 * fxOne then (zero false, none)
        else if 128 * fxOne ≤ v then (inf false, none)
        else (f.value x n m e, none)
      | .log2 =>
        if n then (nan, some fNv)
        else if v = fxOne then (zero false, some fNone)
        else (f.value x n m e, none)
      | .sinpi =>
        if |v| < 2 ^ 22 * fxOne then (f.value x n m e, none)
        else
          let h := (v / 2 ^ (fxBits - 1)) % 4
          (if h = 0 then zero false else if h = 2 then zero true else one (h = 3), none)
      | .cospi =>
        if |v| < 2 ^ 22 * fxOne then (f.value x n m e, none)
        else
          let h := (v / 2 ^ (fxBits - 1)) % 4
          (if h = 0 then one false else if h = 2 then one true else zero false, none)
      | .tanh => if 9 * fxOne ≤ |v| then (one n, none) else (f.value x n m e, none)
      | .erf => if 4 * fxOne ≤ |v| then (one n, none) else (f.value x n m e, none)
      | .sigm => (f.value x n m e, none)
      | .rcp => (f.value x n m e, none)
      | .rsqrt => if n then (nan, some fNv) else (f.value x n m e, none)
      | .silu =>
        if |v| < 2 ^ (fxBits - 24) then ((FF.f32.round .rne false n m (e - 1) false).1, none)
        else (f.value x n m e, none)

/-- Delivers an f32 result in an element format: rounded with rne and flushed; flags of R104. -/
def sfuDeliver (ff : FF) (ftz : Bool) (r : Nat × Option FFlags) : Res :=
  let d := match FF.f32.read r.1 with
    | .fin n m e => (ff.round .rne ftz n m e false).1
    | .inf n => ff.signBit n + ff.inf
    | .nan _ _ => ff.nan
  match r.2 with
  | some fl => (d, fl)
  | none =>
    let mag := d % 2 ^ (ff.eb + ff.mb)
    (d, if mag = ff.inf then fOf ||| fNx else if mag < 2 ^ ff.mb then fUf ||| fNx else fNx)

/-- A special function on an element (R102). -/
def Sfu.elem (f : Sfu) (ff : FF) (ftz : Bool) (x : Nat) : Res :=
  let x32 := match ff.input ftz x with
    | .fin n m e => (FF.f32.round .rne false n m e false).1
    | .inf n => FF.f32.signBit n + FF.f32.inf
    | .nan n s => FF.f32.signBit n + FF.f32.inf + (if s then 1 else 0x400000)
  sfuDeliver ff ftz (f.eval x32)

/-- A special-function instruction (R240). -/
def sfuForm (i : Instr) (f : SfuF) (g : Sfu) (s : State) : Out :=
  .next (perThreadF i f.d (fun s e th =>
    fltMap f.fmt (fun k => g.elem (ffOf f.fmt) f.ftz (fltEl f.fmt (fltSrc s e th f.fmt f.a) k))) s)

/-- EXP2 (R240). -/
def execExp2 (f : SfuF) (s : State) : Out := sfuForm (.exp2 f) f .exp2 s
/-- LOG2 (R240). -/
def execLog2 (f : SfuF) (s : State) : Out := sfuForm (.log2 f) f .log2 s
/-- SINPI (R240). -/
def execSinpi (f : SfuF) (s : State) : Out := sfuForm (.sinpi f) f .sinpi s
/-- COSPI (R240). -/
def execCospi (f : SfuF) (s : State) : Out := sfuForm (.cospi f) f .cospi s
/-- TANH (R240). -/
def execTanh (f : SfuF) (s : State) : Out := sfuForm (.tanh f) f .tanh s
/-- SIGM (R240). -/
def execSigm (f : SfuF) (s : State) : Out := sfuForm (.sigm f) f .sigm s
/-- ERF (R240). -/
def execErf (f : SfuF) (s : State) : Out := sfuForm (.erf f) f .erf s
/-- RCP (R240). -/
def execRcp (f : SfuF) (s : State) : Out := sfuForm (.rcp f) f .rcp s
/-- RSQRT (R240). -/
def execRsqrt (f : SfuF) (s : State) : Out := sfuForm (.rsqrt f) f .rsqrt s
/-- SILU (R240). -/
def execSilu (f : SfuF) (s : State) : Out := sfuForm (.silu f) f .silu s

/-! ### Seeds (R105, R241) -/

/-- A candidate y approximates 1/√(m·2^e) or 1/(m·2^e) within 2^-24 relative: both are compared as y^p · x against
1 by their exact products (p is 1 or 2). -/
def seedNear (p : Nat) (ym : Nat) (ye : Int) (m : Nat) (e : Int) : Bool :=
  let q := ye * p + e + 24 * p
  let v : Int := ym ^ p * m
  let at_ := fun (b : Int) => if 0 ≤ q then compare (v * 2 ^ q.toNat) (b ^ p) else compare v (b ^ p * 2 ^ (-q).toNat)
  at_ (2 ^ 24 - 1) != .lt && at_ (2 ^ 24 + 1) != .gt

/-- 1/(m·2^e) lies below the smallest normal magnitude. -/
def recipTiny (ff : FF) (m : Nat) (e : Int) : Bool :=
  let emin : Int := 1 - ff.bias
  let q := e + emin
  if 0 ≤ q then 1 < m * 2 ^ q.toNat else 2 ^ (-q).toNat < m

/-- 1/√(m·2^e), formed in f64 and rounded to the format: its relative error stays within 2^-24 (R105). -/
def rsqNear (ff : FF) (m : Nat) (e : Int) : Nat :=
  let r := FF.f64.div .rne false (.fin false 1 0) (FF.f64.read (FF.f64.sqrt .rne false (.fin false m e)).1)
  (ff.convert .rne false (FF.f64.read r.1)).1

/-- A seed of a finite non-zero input (R105): Config's value where it meets the bound, otherwise the rounded exact value;
free where the exact value exceeds the largest finite one, for which the manual states no result (log 7). -/
def seedValue (ff : FF) (isSqrt : Bool) (x : Nat) (n : Bool) (m : Nat) (e : Int) : Nat :=
  let c := (Config.seed (if isSqrt then 1 else 0) ff.mb (BitVec.ofNat 64 x)).toNat % 2 ^ ff.bits
  let near := if isSqrt then rsqNear ff m e
    else (ff.div .rne false (.fin false 1 0) (.fin n m e)).1
  if near % 2 ^ (ff.eb + ff.mb) = ff.inf then c
  else match ff.read c with
    | .fin cn cm ce =>
      if cn != n then near
      else if !isSqrt && recipTiny ff m e then
        let q := min ce (1 - ff.bias - 24)
        let z := ff.mb + 80
        let ex := fxOf false m e
        let d := |fxOf false cm ce - fxDiv fxOne ex|
        if ff.mb = 23 then (if d ≤ 2 ^ (fxBits - 150) then c else near)
        else
          -- exact: |cm·2^ce - 1/(m·2^e)| ≤ 2^(-1022-24), both sides times m·2^(z)
          let a : Int := cm * m * 2 ^ (ce - q).toNat
          let one : Int := if 0 ≤ q + e then 0 else 2 ^ (-(q + e)).toNat
          let b : Int := m * 2 ^ ((1 - (ff.bias : Int) - 24) - q).toNat
          if z = 0 || |a - one| ≤ b then c else near
      else if seedNear (if isSqrt then 2 else 1) cm ce m e then c else near
    | _ => near

/-- RCPSEED and RSQSEED on an element; no flag for finite non-zero inputs (R105, R241). -/
def seedElem (isSqrt : Bool) (ff : FF) (ftz : Bool) (x : Nat) : Res :=
  match ff.input ftz x with
  | .nan _ s => ff.nanOf s
  | .inf n => if isSqrt && n then ff.invalid else (ff.signBit (n && !isSqrt), fNone)
  | .fin n m e =>
    if m = 0 then (ff.signBit n + ff.inf, fDz)
    else if isSqrt && n then ff.invalid
    else (ff.flushed ftz (seedValue ff isSqrt x n m e), fNone)

/-- A seed instruction (R241). -/
def seedForm (i : Instr) (f : SfuF) (isSqrt : Bool) (s : State) : Out :=
  .next (perThreadF i f.d (fun s e th =>
    fltMap f.fmt (fun k => seedElem isSqrt (ffOf f.fmt) f.ftz (fltEl f.fmt (fltSrc s e th f.fmt f.a) k))) s)

/-- RCPSEED (R241). -/
def execRcpseed (f : SfuF) (s : State) : Out := seedForm (.rcpseed f) f false s
/-- RSQSEED (R241). -/
def execRsqseed (f : SfuF) (s : State) : Out := seedForm (.rsqseed f) f true s

end Sys2Proof.Machine
end

