-- ==== Sys2Proof/Machine/Work.lean ====
section
/-! DEFINITION. Work creation: WORKNEXT, the fill of a mailbox, and EMIT (R39-R42, R269, R270). -/

namespace Sys2Proof.Machine

/-- The answer of a work meaning. -/
abbrev WorkOut := Host.Outcome State Fault Refusal

/-! ### Mailboxes (R39) -/

/-- The key of mailbox `m` of a block on core `c`. -/
def mailboxKey (c : Nat) (b : Block) (m : Nat) : Nat := sliceKey (c * sliceSize + b.winBase + 64 * m)

/-- The address of mailbox `m` of a block on core `c`. -/
def mailboxVa (c : Nat) (b : Block) (m : Nat) : Word :=
  BitVec.ofNat 64 (apertureBase + c * sliceSize + b.winBase + 64 * m)

/-- The 64 bytes of a filled mailbox: a work index, or none left (R39). -/
def mailboxBytes (t : Tree) (dev : Nat) (w : Option Nat) : List Byte :=
  match w with
  | some i => natLe 8 1 ++ natLe 8 i ++ (List.range 16).flatMap (fun l =>
      natLe 2 (if l < t.blockLvl then 0 else t.idx dev i 0 l)) ++ natLe 16 0
  | none => natLe 8 1 ++ List.replicate 40 255 ++ natLe 16 0

/-- The `j`-th allocation of a block at an ordered level (R40). -/
def orderedWork (l : Launch) (lin j : Nat) : Option Nat :=
  if l.tree.persist = 0 then none
  else if lin + j * l.tree.persist < l.tree.blocks then some (lin + j * l.tree.persist) else none

/-- One allocation: the mailbox bytes, and under FREE the withdrawal request (R40). -/
def State.allocate (s : State) (e : Site) (l : Launch) (j : Nat) : State :=
  let m := j % 16
  let key := mailboxKey e.cur.core e.b m
  if l.det = 0 then
    (((s.comWrite e.cur.core e.cur.slot key (natLe 64 0)).clearResv e.cur.core e.cur.slot 4096 key 64).updChunk e.cur.core (fun h => { h with
      held := h.held ++ [.withdraw e.cur.slot m] })).updBlock e.cur.core e.cur.slot (fun b => { b with
        wnWait := b.wnWait ++ [m] })
  else (s.comWrite e.cur.core e.cur.slot key (mailboxBytes l.tree l.dev (orderedWork l e.b.lin j))).clearResv e.cur.core
    e.cur.slot 4096 key 64

/-- A WORKNEXT that waits for a pending fill first ends the open chunk (R41, R133). -/
def State.waitFill (s : State) (c : Nat) : State :=
  let h := (s.core c).chunk
  if h.fresh then s.hold
  else if !h.suspend.isEmpty then (s.updChunk c (fun h => { h with pendEnd := true })).hold
  else (s.endChunk c).hold

/-- WORKNEXT (R39-R41, R269). -/
def execWorknext (f : One) (s : State) : WorkOut :=
  .next (issue (.worknext f) (fun e s =>
    let l := s.launchOf e.b
    let n := e.act.length
    if 16 < n then s.fault e ⟨4, 6, laneMask (e.act.drop 16), 0⟩
    else if (List.range n).any (fun i => e.b.wnWait.contains ((e.b.wnCount + i) % 16)) then s.waitFill e.cur.core
    else s.storing e ((List.range n).map (fun i => (mailboxKey e.cur.core e.b ((e.b.wnCount + i) % 16), 64))) (fun s =>
      let s := (List.range n).foldl (fun s i => s.allocate e l (e.b.wnCount + i)) (s.acts e)
      let s := s.updBlock e.cur.core e.cur.slot (fun b => { b with wnCount := b.wnCount + n })
      s.finish e (fun th =>
        ((th.setD f.o (mailboxVa e.cur.core e.b ((e.b.wnCount + e.tids.idxOf th.ltid) % 16))).cleared f.o).next))) s)

/-- Bytes that an agent outside the chunks writes to COMMITTED memory for context `x`: later reads see them, and reservations on them
end (R151). Where the allocation has been copied out they go to the copy, and what stands in its place is not touched (R391). -/
def State.outsideWrite (s : State) (x key : Nat) (bs : List Byte) : State :=
  let out := s.copiedOut.any (fun r => r.ctx == x && r.lo ≤ key && key < r.hi)
  if out then s.applyWrites x (overWrite [] key bs)
  else
  let s := s.coreNums.foldl (fun s c => s.updChunk c (fun h => { h with
    ovl := h.ovl.filter (fun e => !(key ≤ e.1 && e.1 < key + bs.length)) }))
    ((s.keepOld (fun _ => (List.range bs.length).map (fun i => key + i))).applyWrites x (overWrite [] key bs))
  s.breakResv 384 (overWrite [] key bs)

/-- The work that the distributor hands out next: the lowest block not yet placed, which is withdrawn, or the next
index of a persistent launch (R40). -/
def State.takeWork (s : State) (l : Nat) (ln : Launch) : State × Option Nat :=
  if ln.tree.persist = 0 then
    if ln.next < ln.tree.blocks then
      (s.updLaunch l (fun ln => { ln with next := ln.next + 1, withdrawn := ln.withdrawn ++ [ln.next] }), some ln.next)
    else (s, none)
  else if ln.workNext < ln.tree.blocks then
    (s.updLaunch l (fun ln => { ln with workNext := ln.workNext + 1 }), some ln.workNext)
  else (s, none)

/-- The block that asked for work: (launch, `s.lin`) on a core, resident in whatever slot, or in the core's save area (R390). -/
def State.asker (s : State) (core l lin : Nat) : Option Block :=
  let k := s.core core
  (Tab.vals k.arch.blocks ++ k.saved.flatMap (fun sv => Tab.vals sv.arch.blocks)).find? (fun b =>
    b.launch == l && b.lin == lin)

/-- A mailbox of a block waits for no fill any more. -/
def Block.filled (b : Block) (l lin m : Nat) : Block :=
  if b.launch == l && b.lin == lin then { b with wnWait := b.wnWait.filter (fun k => k != m) } else b

/-- The fill reaches the mailbox of the block that asked, resident or pre-empted (R40, R391). -/
def State.fillMailbox (s : State) (core l lin m : Nat) (b : Block) (bs : List Byte) : State :=
  let upd := fun (a : CoreArch) => { a with blocks := Tab.mapV a.blocks (fun sl b => if sl = handlerSlot then b else b.filled l lin m) }
  ((s.outsideWrite (s.ctxOf b) (mailboxKey core b m) bs).updBoth core upd).updCore core (fun k => { k with
    saved := k.saved.map (fun sv => { sv with arch := upd sv.arch }) })

/-- The launch whose first request stands for this core, slot and mailbox: that of the slot's block, or another whose block is
pre-empted. -/
def State.firstAsk (s : State) (core slot m : Nat) : Option (Nat × Launch × Nat × List (Nat × Nat × Nat × Nat)) :=
  let own := ((s.block? core slot).map (fun b => b.launch)).toList
  (own ++ List.range s.launches.length).findSome? (fun l => match s.launch? l with
    | some ln => match ln.workReq with
      | (c, sl, k, lin) :: rest => if c == core && sl == slot && k == m then some (l, ln, lin, rest) else none
      | [] => none
    | none => none)

/-- MAILBOX_FILL: the distributor answers a launch's first request (R40, R41). -/
def execMailboxFill (core slot m : Nat) (s : State) : WorkOut :=
  match s.firstAsk core slot m with
  | none => .next s
  | some (l, ln, lin, rest) =>
    match s.asker core l lin with
    | none => .next s
    | some b =>
      let s := s.updLaunch l (fun ln => { ln with workReq := rest })
      let r := s.takeWork l ln
      .next ((r.1.fillMailbox core l lin m b (mailboxBytes ln.tree ln.dev r.2)).memberChecks l)

/-! ### EMIT (R42, R270) -/

/-- The queue has room for `n` more records beside those reserved (R42). -/
def emitFits (s : State) (tmpl n : Nat) : Bool :=
  (List.range n).all (fun i => emitRoom s tmpl (appended s tmpl + reserved s tmpl + i))

/-- EMIT (R42, R270). -/
def execEmit (f : One) (s : State) : WorkOut :=
  .next (issue (.emit f) (fun e s =>
    let va := fun (th : Thread) => e.read s th f.o
    match (s.launchOf e.b).succ with
    | none =>
      match e.act.filter (fun th => (va th).toNat % 64 ≠ 0) with
      | [] => s.fault e ⟨9, 0, laneMask e.act, va e.ref⟩
      | th :: bad => s.fault e ⟨7, 0, laneMask (th :: bad), va th⟩
    | some tmpl =>
      s.access e (fun th => [⟨va th, 64, 64, .read, .plain⟩]) (fun rs s =>
        if !emitFits s tmpl rs.length then s.hold
        else
          let bytes := rs.map (fun (r : Acc) => (r.1.ltid, readTarget s e.cur.core e.cur.slot r.1.ltid (accTarget r) 64))
          let s := ((s.acts e).noteSources e [f.o]).noteLoads e rs 64 0 false
          (bytes.foldl (fun s p => s.relWrite e.cur.core e.cur.slot (.emit tmpl p.1 p.2)) s).pass e)) s)

end Sys2Proof.Machine
end

