-- ==== Sys2Proof/Machine/Dispatch.lean ====
section
/-! DEFINITION. The dispatch of an instruction or event to its meaning, one arm per constructor. -/

namespace Sys2Proof.Machine

/-- What an instruction word does for the issue group named by `cur`, and what an event does. -/
def exec (i : Instr) (s : State) : Host.Outcome State Fault Refusal :=
  match i with
  | .add f => Sys2Proof.Machine.execAdd f s
  | .addi f => Sys2Proof.Machine.execAddi f s
  | .sub f => Sys2Proof.Machine.execSub f s
  | .addc f ci => Sys2Proof.Machine.execAddc f ci s
  | .subb f ci => Sys2Proof.Machine.execSubb f ci s
  | .mul f => Sys2Proof.Machine.execMul f s
  | .mulh f => Sys2Proof.Machine.execMulh f s
  | .mad f => Sys2Proof.Machine.execMad f s
  | .madw f => Sys2Proof.Machine.execMadw f s
  | .div f => Sys2Proof.Machine.execDiv f s
  | .rem f => Sys2Proof.Machine.execRem f s
  | .abs f => Sys2Proof.Machine.execAbs f s
  | .min f => Sys2Proof.Machine.execMin f s
  | .max f => Sys2Proof.Machine.execMax f s
  | .clamp f => Sys2Proof.Machine.execClamp f s
  | .addmin f => Sys2Proof.Machine.execAddmin f s
  | .addmax f => Sys2Proof.Machine.execAddmax f s
  | .and f => Sys2Proof.Machine.execAnd f s
  | .or f => Sys2Proof.Machine.execOr f s
  | .xor f => Sys2Proof.Machine.execXor f s
  | .andn f => Sys2Proof.Machine.execAndn f s
  | .orn f => Sys2Proof.Machine.execOrn f s
  | .andi f => Sys2Proof.Machine.execAndi f s
  | .ori f => Sys2Proof.Machine.execOri f s
  | .xori f => Sys2Proof.Machine.execXori f s
  | .shl f => Sys2Proof.Machine.execShl f s
  | .shr f => Sys2Proof.Machine.execShr f s
  | .sar f => Sys2Proof.Machine.execSar f s
  | .rol f => Sys2Proof.Machine.execRol f s
  | .shli f => Sys2Proof.Machine.execShli f s
  | .shri f => Sys2Proof.Machine.execShri f s
  | .sari f => Sys2Proof.Machine.execSari f s
  | .bfx f => Sys2Proof.Machine.execBfx f s
  | .bfi f => Sys2Proof.Machine.execBfi f s
  | .popc f => Sys2Proof.Machine.execPopc f s
  | .clz f => Sys2Proof.Machine.execClz f s
  | .ctz f => Sys2Proof.Machine.execCtz f s
  | .brev f => Sys2Proof.Machine.execBrev f s
  | .bperm f => Sys2Proof.Machine.execBperm f s
  | .sel f => Sys2Proof.Machine.execSel f s
  | .cmp f => Sys2Proof.Machine.execCmp f s
  | .cmpi f => Sys2Proof.Machine.execCmpi f s
  | .lea f => Sys2Proof.Machine.execLea f s
  | .mov f => Sys2Proof.Machine.execMov f s
  | .plog f => Sys2Proof.Machine.execPlog f s
  | .vote f => Sys2Proof.Machine.execVote f s
  | .ballot f => Sys2Proof.Machine.execBallot f s
  | .pset f => Sys2Proof.Machine.execPset f s
  | .fadd f => Sys2Proof.Machine.execFadd f s
  | .fsub f => Sys2Proof.Machine.execFsub f s
  | .fmul f => Sys2Proof.Machine.execFmul f s
  | .ffma f => Sys2Proof.Machine.execFfma f s
  | .ffms f => Sys2Proof.Machine.execFfms f s
  | .fnma f => Sys2Proof.Machine.execFnma f s
  | .fmin f => Sys2Proof.Machine.execFmin f s
  | .fmax f => Sys2Proof.Machine.execFmax f s
  | .fabs f => Sys2Proof.Machine.execFabs f s
  | .fneg f => Sys2Proof.Machine.execFneg f s
  | .fsign f => Sys2Proof.Machine.execFsign f s
  | .fcmp f => Sys2Proof.Machine.execFcmp f s
  | .fclass f => Sys2Proof.Machine.execFclass f s
  | .fdiv f => Sys2Proof.Machine.execFdiv f s
  | .fsqrt f => Sys2Proof.Machine.execFsqrt f s
  | .frnd f => Sys2Proof.Machine.execFrnd f s
  | .fscale f => Sys2Proof.Machine.execFscale f s
  | .fgetexp f => Sys2Proof.Machine.execFgetexp f s
  | .fgetmant f => Sys2Proof.Machine.execFgetmant f s
  | .twosum f => Sys2Proof.Machine.execTwosum f s
  | .faddmin f => Sys2Proof.Machine.execFaddmin f s
  | .cvtf f => Sys2Proof.Machine.execCvtf f s
  | .cvtfi f => Sys2Proof.Machine.execCvtfi f s
  | .cvtif f => Sys2Proof.Machine.execCvtif f s
  | .cvtn f => Sys2Proof.Machine.execCvtn f s
  | .scaleest f => Sys2Proof.Machine.execScaleest f s
  | .cbdec f => Sys2Proof.Machine.execCbdec f s
  | .pack f => Sys2Proof.Machine.execPack f s
  | .unpack f => Sys2Proof.Machine.execUnpack f s
  | .exp2 f => Sys2Proof.Machine.execExp2 f s
  | .log2 f => Sys2Proof.Machine.execLog2 f s
  | .sinpi f => Sys2Proof.Machine.execSinpi f s
  | .cospi f => Sys2Proof.Machine.execCospi f s
  | .tanh f => Sys2Proof.Machine.execTanh f s
  | .sigm f => Sys2Proof.Machine.execSigm f s
  | .erf f => Sys2Proof.Machine.execErf f s
  | .rcp f => Sys2Proof.Machine.execRcp f s
  | .rsqrt f => Sys2Proof.Machine.execRsqrt f s
  | .silu f => Sys2Proof.Machine.execSilu f s
  | .rcpseed f => Sys2Proof.Machine.execRcpseed f s
  | .rsqseed f => Sys2Proof.Machine.execRsqseed f s
  | .shfl f => Sys2Proof.Machine.execShfl f s
  | .lshift f => Sys2Proof.Machine.execLshift f s
  | .scan f => Sys2Proof.Machine.execScan f s
  | .reduce f => Sys2Proof.Machine.execReduce f s
  | .compact f => Sys2Proof.Machine.execCompact f s
  | .match_ f => Sys2Proof.Machine.execMatch f s
  | .elect f => Sys2Proof.Machine.execElect f s
  | .rendezvousComplete core slot tid => Sys2Proof.Machine.execRendezvousComplete core slot tid s
  | .ld f => Sys2Proof.Machine.execLd f s
  | .st f => Sys2Proof.Machine.execSt f s
  | .ldp f => Sys2Proof.Machine.execLdp f s
  | .stp f => Sys2Proof.Machine.execStp f s
  | .ldx f => Sys2Proof.Machine.execLdx f s
  | .ldxTransferLanded core slot idx => Sys2Proof.Machine.execLdxTransferLanded core slot idx s
  | .pref f => Sys2Proof.Machine.execPref f s
  | .atom f => Sys2Proof.Machine.execAtom f s
  | .lr f => Sys2Proof.Machine.execLr f s
  | .sc f => Sys2Proof.Machine.execSc f s
  | .fence f => Sys2Proof.Machine.execFence f s
  | .cctl f => Sys2Proof.Machine.execCctl f s
  | .bar f => Sys2Proof.Machine.execBar f s
  | .bara f => Sys2Proof.Machine.execBara f s
  | .barw f => Sys2Proof.Machine.execBarw f s
  | .mbar f => Sys2Proof.Machine.execMbar f s
  | .quiesce f => Sys2Proof.Machine.execQuiesce f s
  | .barrierPhaseComplete core slot tid level => Sys2Proof.Machine.execBarrierPhaseComplete core slot tid level s
  | .chunkend g => Sys2Proof.Machine.execChunkend g s
  | .lehrw f => Sys2Proof.Machine.execLehrw f s
  | .lehrpush f => Sys2Proof.Machine.execLehrpush f s
  | .lehrOccupancyEnd core slot level node k => Sys2Proof.Machine.execLehrOccupancyEnd core slot level node k s
  | .lehrread f => Sys2Proof.Machine.execLehrread f s
  | .lehrclr f => Sys2Proof.Machine.execLehrclr f s
  | .worknext f => Sys2Proof.Machine.execWorknext f s
  | .mailboxFill core slot m => Sys2Proof.Machine.execMailboxFill core slot m s
  | .emit f => Sys2Proof.Machine.execEmit f s
  | .waitseq f => Sys2Proof.Machine.execWaitseq f s
  | .waitval f => Sys2Proof.Machine.execWaitval f s
  | .waitReevaluation core slot tid => Sys2Proof.Machine.execWaitReevaluation core slot tid s
  | .nbrpush f => Sys2Proof.Machine.execNbrpush f s
  | .nbrpop f => Sys2Proof.Machine.execNbrpop f s
  | .bra f => Sys2Proof.Machine.execBra f s
  | .bru f => Sys2Proof.Machine.execBru f s
  | .jmp f => Sys2Proof.Machine.execJmp f s
  | .call f => Sys2Proof.Machine.execCall f s
  | .calli f => Sys2Proof.Machine.execCalli f s
  | .ret f => Sys2Proof.Machine.execRet f s
  | .coswap f => Sys2Proof.Machine.execCoswap f s
  | .exit g => Sys2Proof.Machine.execExit g s
  | .yield g => Sys2Proof.Machine.execYield g s
  | .nop g => Sys2Proof.Machine.execNop g s
  | .pcget f => Sys2Proof.Machine.execPcget f s
  | .movl f => Sys2Proof.Machine.execMovl f s
  | .addl f => Sys2Proof.Machine.execAddl f s
  | .pairNop a b => Sys2Proof.Machine.execPairNop a b s
  | .pairMov a b => Sys2Proof.Machine.execPairMov a b s
  | .pairAdd a b => Sys2Proof.Machine.execPairAdd a b s
  | .pairAddi a b => Sys2Proof.Machine.execPairAddi a b s
  | .pairSub a b => Sys2Proof.Machine.execPairSub a b s
  | .pairAnd a b => Sys2Proof.Machine.execPairAnd a b s
  | .pairOr a b => Sys2Proof.Machine.execPairOr a b s
  | .pairXor a b => Sys2Proof.Machine.execPairXor a b s
  | .pairShli a b => Sys2Proof.Machine.execPairShli a b s
  | .pairShri a b => Sys2Proof.Machine.execPairShri a b s
  | .pairSari a b => Sys2Proof.Machine.execPairSari a b s
  | .pairMin a b => Sys2Proof.Machine.execPairMin a b s
  | .pairMax a b => Sys2Proof.Machine.execPairMax a b s
  | .pairMul a b => Sys2Proof.Machine.execPairMul a b s
  | .pairFaddF32 a b => Sys2Proof.Machine.execPairFaddF32 a b s
  | .pairFmulF32 a b => Sys2Proof.Machine.execPairFmulF32 a b s
  | .pairFaddF64 a b => Sys2Proof.Machine.execPairFaddF64 a b s
  | .pairFmulF64 a b => Sys2Proof.Machine.execPairFmulF64 a b s
  | .pairFminF64 a b => Sys2Proof.Machine.execPairFminF64 a b s
  | .pairFmaxF64 a b => Sys2Proof.Machine.execPairFmaxF64 a b s
  | .pairFminF32 a b => Sys2Proof.Machine.execPairFminF32 a b s
  | .pairFmaxF32 a b => Sys2Proof.Machine.execPairFmaxF32 a b s
  | .pairMovi a b => Sys2Proof.Machine.execPairMovi a b s
  | .mma x => Sys2Proof.Machine.execMma x s
  | .mfmt x => Sys2Proof.Machine.execMfmt x s
  | .accz x => Sys2Proof.Machine.execAccz x s
  | .accld x => Sys2Proof.Machine.execAccld x s
  | .accst x => Sys2Proof.Machine.execAccst x s
  | .cbload x => Sys2Proof.Machine.execCbload x s
  | .scload x => Sys2Proof.Machine.execScload x s
  | .msync x => Sys2Proof.Machine.execMsync x s
  | .copy x => Sys2Proof.Machine.execCopy x s
  | .copymma x => Sys2Proof.Machine.execCopymma x s
  | .gather x => Sys2Proof.Machine.execGather x s
  | .scatter x => Sys2Proof.Machine.execScatter x s
  | .expand x => Sys2Proof.Machine.execExpand x s
  | .fill x => Sys2Proof.Machine.execFill x s
  | .publish x => Sys2Proof.Machine.execPublish x s
  | .rcopy x => Sys2Proof.Machine.execRcopy x s
  | .chain x => Sys2Proof.Machine.execChain x s
  | .tail x => Sys2Proof.Machine.execTail x s
  | .seq x => Sys2Proof.Machine.execSeq x s
  | .coll x => Sys2Proof.Machine.execColl x s
  | .arm x => Sys2Proof.Machine.execArm x s
  | .cntrd x => Sys2Proof.Machine.execCntrd x s
  | .cntadd x => Sys2Proof.Machine.execCntadd x s
  | .disarm x => Sys2Proof.Machine.execDisarm x s
  | .chainEntryExecute r => Sys2Proof.Machine.execChainEntryExecute r s
  | .engineCommandComplete r => Sys2Proof.Machine.execEngineCommandComplete r s
  | .engineDeferredFault r => Sys2Proof.Machine.execEngineDeferredFault r s
  | .counterChange ctx counter addend => Sys2Proof.Machine.execCounterChange ctx counter addend s
  | .trap f => Sys2Proof.Machine.execTrap f s
  | .bkpt f => Sys2Proof.Machine.execBkpt f s
  | .sysrd f => Sys2Proof.Machine.execSysrd f s
  | .syswr f => Sys2Proof.Machine.execSyswr f s
  | .eret g => Sys2Proof.Machine.execEret g s
  | .grpsel f => Sys2Proof.Machine.execGrpsel f s
  | .grprd f => Sys2Proof.Machine.execGrprd f s
  | .grpwr f => Sys2Proof.Machine.execGrpwr f s
  | .grpres f => Sys2Proof.Machine.execGrpres f s
  | .tlbinv f => Sys2Proof.Machine.execTlbinv f s
  | .halt f => Sys2Proof.Machine.execHalt f s
  | .streamRetry ctx value => Sys2Proof.Machine.execStreamRetry ctx value s
  | .streamCancel ctx value => Sys2Proof.Machine.execStreamCancel ctx value s
  | .chunkTimeLimit core => Sys2Proof.Machine.execChunkTimeLimit core s
  | .chunkCommit core => Sys2Proof.Machine.execChunkCommit core s
  | .phaseMerge ctx record => Sys2Proof.Machine.execPhaseMerge ctx record s
  | .blockRetire core slot => Sys2Proof.Machine.execBlockRetire core slot s
  | .launchRetire ctx record => Sys2Proof.Machine.execLaunchRetire ctx record s
  | .doorbell off value => Sys2Proof.Machine.execDoorbell off value s
  | .packetNop ctx queue => Sys2Proof.Machine.execPacketNop ctx queue s
  | .launchPacket ctx queue => Sys2Proof.Machine.execLaunchPacket ctx queue s
  | .decrPacket ctx queue => Sys2Proof.Machine.execDecrPacket ctx queue s
  | .setdet ctx queue => Sys2Proof.Machine.execSetdet ctx queue s
  | .qfence ctx queue => Sys2Proof.Machine.execQfence ctx queue s
  | .queueWaitRelease ctx queue => Sys2Proof.Machine.execQueueWaitRelease ctx queue s
  | .unassignedPacket ctx queue => Sys2Proof.Machine.execUnassignedPacket ctx queue s
  | .schedulingPass part => Sys2Proof.Machine.execSchedulingPass part s
  | .bindPlace core rec => Sys2Proof.Machine.execBindPlace core rec s
  | .bindResume core rec => Sys2Proof.Machine.execBindResume core rec s
  | .bindPreempt core rec => Sys2Proof.Machine.execBindPreempt core rec s
  | .preemptSquashTimeout core => Sys2Proof.Machine.execPreemptSquashTimeout core s
  | .preemptComplete core => Sys2Proof.Machine.execPreemptComplete core s
  | .preemptionReserveReached ctx record => Sys2Proof.Machine.execPreemptionReserveReached ctx record s
  | .deadlinePassed ctx record => Sys2Proof.Machine.execDeadlinePassed ctx record s
  | .translationRequestService part => Sys2Proof.Machine.execTranslationRequestService part s
  | .translationAnswer part tag => Sys2Proof.Machine.execTranslationAnswer part tag s
  | .deviceReset value => Sys2Proof.Machine.execDeviceReset value s
  | .powerOn => Sys2Proof.Machine.execPowerOn  s
  | .functionLevelReset => Sys2Proof.Machine.execFunctionLevelReset  s
  | .firmwareWrite => Sys2Proof.Machine.execFirmwareWrite  s
  | .firmwareSwitch => Sys2Proof.Machine.execFirmwareSwitch  s
  | .firmwareSlot b => Sys2Proof.Machine.execFirmwareSlot b s
  | .firmwareSwitchResumed => Sys2Proof.Machine.execFirmwareSwitchResumed  s
  | .firmwareSwitchTimeout => Sys2Proof.Machine.execFirmwareSwitchTimeout  s
  | .contextCreatedWrite ctx value => Sys2Proof.Machine.execContextCreatedWrite ctx value s
  | .translationAnswerWrite ctx value => Sys2Proof.Machine.execTranslationAnswerWrite ctx value s
  | .invalidationWrite ctx value => Sys2Proof.Machine.execInvalidationWrite ctx value s
  | .forwardedTrapResume ctx value => Sys2Proof.Machine.execForwardedTrapResume ctx value s
  | .stepListAddress ctx value => Sys2Proof.Machine.execStepListAddress ctx value s
  | .bindRecordWrite ctx core value => Sys2Proof.Machine.execBindRecordWrite ctx core value s
  | .registerWrite off value => Sys2Proof.Machine.execRegisterWrite off value s
  | .groupCreate entry value => Sys2Proof.Machine.execGroupCreate entry value s
  | .groupDelete entry value => Sys2Proof.Machine.execGroupDelete entry value s
  | .portEnable port value => Sys2Proof.Machine.execPortEnable port value s
  | .restripeWrite port value => Sys2Proof.Machine.execRestripeWrite port value s
  | .portCounterClear port counter => Sys2Proof.Machine.execPortCounterClear port counter s
  | .laserEnable m value => Sys2Proof.Machine.execLaserEnable m value s
  | .laserWarmUpDone m => Sys2Proof.Machine.execLaserWarmUpDone m s
  | .laserModuleFailure m removed => Sys2Proof.Machine.execLaserModuleFailure m removed s
  | .drain link => Sys2Proof.Machine.execDrain link s
  | .restore link => Sys2Proof.Machine.execRestore link s
  | .drainEnd link => Sys2Proof.Machine.execDrainEnd link s
  | .quarantineRelease addr => Sys2Proof.Machine.execQuarantineRelease addr s
  | .memoryLinkRetrain link => Sys2Proof.Machine.execMemoryLinkRetrain link s
  | .thermalThrottle => Sys2Proof.Machine.execThermalThrottle  s
  | .overTemperatureStop die temp => Sys2Proof.Machine.execOverTemperatureStop die temp s
  | .lossOfLight port lost => Sys2Proof.Machine.execLossOfLight port lost s
  | .dataFlit port f => Sys2Proof.Machine.execDataFlit port f s
  | .commandHeader port f => Sys2Proof.Machine.execCommandHeader port f s
  | .counterUpdate port f => Sys2Proof.Machine.execCounterUpdate port f s
  | .idleFlit port f => Sys2Proof.Machine.execIdleFlit port f s
  | .nak port f => Sys2Proof.Machine.execNak port f s
  | .lossOfLightNotice port f => Sys2Proof.Machine.execLossOfLightNotice port f s
  | .training port f => Sys2Proof.Machine.execTraining port f s
  | .retrainComplete port => Sys2Proof.Machine.execRetrainComplete port s
  | .replayTimeout port => Sys2Proof.Machine.execReplayTimeout port s
  | .nakRepeatTimeout port => Sys2Proof.Machine.execNakRepeatTimeout port s
  | .idleAckTimer port => Sys2Proof.Machine.execIdleAckTimer port s
  | .routeUnreachable entry rank => Sys2Proof.Machine.execRouteUnreachable entry rank s
  | .bar2Access off write value => Sys2Proof.Machine.execBar2Access off write value s
  | .laserModuleInserted m => Sys2Proof.Machine.execLaserModuleInserted m s
  | .memoryModuleRemoved link => Sys2Proof.Machine.execMemoryModuleRemoved link s
  | .memoryModuleInserted link size => Sys2Proof.Machine.execMemoryModuleInserted link size s
  | .memoryLinkTrained link => Sys2Proof.Machine.execMemoryLinkTrained link s

end Sys2Proof.Machine
end

