-- ==== Sys2Proof/Machine/Issue.lean ====
section
/-! DEFINITION. A quadrant issues one word (R27): the group of the first ready block is fetched, decoded and executed. -/

namespace Sys2Proof.Machine

/-- The answer of a step. -/
abbrev Answer := Host.Outcome State Fault Refusal

/-! ### The register shadow bank (R132, R133) -/

/-- The specifiers that a word writes in a thread: registers, or the mark of a lehr register. -/
def writeSpecs (w : Word) : List (BitVec 10) :=
  if w.getLsbD 63 then
    [Half.ofBits (fHalfA w), Half.ofBits (fHalfB w)].flatMap (fun h => h.dest.toList.map (fun r => BitVec.ofNat 10 r))
  else
    (if [0xA6, 0xA7, 0xA9].contains (fOp w).toNat then [lehrMark (fSLvl w).toNat (w.extractLsb' 40 3).toNat] else [])
      ++ (usedSpecs w).flatMap (fun p => match p.2 with
        | .src => []
        | .pred => []
        | .unused => []
        | .params _ => []
        | .pair _ => if fOp w == 0x83 then [] else [p.1, p.1 + 1] ++ (if fOp w == 0xC6 then [126] else [])
        | _ => [p.1])

/-- Words of a lehr register, counted as GRPRD reads it (R355; log 19). -/
def lehrWords : Nat := 194

/-- What the shadow bank names a register that a thread writes, if the bank holds it: keys from 2^60 on are lehr registers. -/
def shadowKey (e : Site) (th : Thread) (x : BitVec 10) : Option Nat :=
  let own := some ((e.cur.slot * 2048 + th.ltid) * 1024 + x.toNat)
  if x.toNat / 128 = 3 then
    some (2 ^ 60 + e.cur.slot * 2 ^ 40 + nodeKey (x.toNat / 8 % 16) (e.node th (x.toNat / 8 % 16)) (x.toNat % 8))
  else match Operand.get x with
    | .lane _ => own
    | .pred _ => own
    | .scoped l i => if l.toNat ≤ e.t.blockLvl then
        some (2 ^ 50 + e.cur.slot * 2 ^ 40 + nodeKey l.toNat (e.node th l.toNat) i.toNat) else none
    | _ => none

/-- The registers that a word writes for its active members. -/
def shadowKeys (s : State) (w : Word) : List Nat :=
  match s.site? (if w.getLsbD 63 then pairActive w else fullActive w) with
  | none => []
  | some e => if s.isExact e.cur.slot e.b then [] else
      addNew [] (e.act.flatMap (fun th => (writeSpecs w).filterMap (shadowKey e th)))

/-- 8-byte words that the bank needs for some registers. -/
def shadowWords (ks : List Nat) : Nat := (ks.map (fun k => if 2 ^ 60 ≤ k then lehrWords else 1)).sum

/-- The bank of 256 KiB can record the first writes of a word (R133). -/
def shadowFits (s : State) (c : Nat) (ks : List Nat) : Bool := shadowWords (addNew (s.core c).chunk.regs ks) ≤ 32768

/-- The registers that a word has written in the open chunk are in the bank. -/
def State.shadowed (s : State) (c : Nat) (ks : List Nat) : State :=
  if (s.core c).chunk.fresh || ks.isEmpty then s else s.updChunk c (fun h => { h with regs := addNew h.regs ks })

/-- A decoded word executes; when the shadow bank cannot record its writes, the chunk ends before it (R133). -/
def runWord (i : Instr) (w : Word) (c : Nat) (s : State) : Answer :=
  let ks := shadowKeys s w
  let s := if shadowFits s c ks then s else s.closeBefore c (fun s => s)
  if s.cur.isNone then .next s
  else match exec i s with
    | .next t => .next (if t.cur.isSome then t.shadowed c ks else t)
    | a => a

/-- Fetches, decodes and executes the word of the group that `cur` names. -/
def issueGroup (s : State) (cur : Cur) : Answer :=
  match fetch s cur with
  | .fault f ls => .next (s.fetchFault cur f ls)
  | .xlate sub => .next (s.fetchXlate cur sub)
  | .word w x =>
    match decode w with
    | .ok i => runWord i w cur.core (s.noteFetch cur x)
    | .error _ => .next (issueIllegal w (s.noteFetch cur x))

/-- A slot is about to be given to a block: what its own stream ends there ends, then come answers and deferred faults (R31,
R281, R384). -/
def State.prepare (s : State) (c q slot : Nat) : State := (s.completeLocal c q slot).before c q slot

/-- The state in which a group issues: its block's fairness state moved on, and the block as it was kept for the chunk that the
word may open. -/
def State.given (s : State) (c slot : Nat) (b b' : Block) (cur : Cur) : State :=
  { s.updBlock c slot (fun _ => b') with cur := some cur, was := if slot = handlerSlot then none else some (c, slot, b) }

/-- Tries the block of one slot: the answer, and whether its word has issued. A word that waits leaves the fairness
state of its block as it was (R27, R31). -/
def issueAt (s : State) (c q slot : Nat) : Answer × Bool :=
  match candidate s c q slot, s.block? c slot with
  | some (b', cur), some b =>
    match issueGroup (s.given c slot b b' cur) cur with
    | .next s' =>
      if s'.cur.isSome then (.next (s'.issued cur), true)
      else (.next { s'.updBlock c slot (fun n => n.unchosen b) with was := none }, false)
    | .fault f => (.fault f, true)
    | .refused r => (.refused r, true)
  | _, _ => (.next s, false)

/-- Looks at block slots in turn; a block that is not ready is passed over (R27). -/
def issueOver (slots : List Nat) (s : State) (c q : Nat) : Answer :=
  match slots with
  | [] => .next s
  | sl :: rest =>
    if s.coreStalled c then .next s
    else
      let s := s.prepare c q sl
      if s.coreStalled c then .next s
      else match issueAt s c q sl with
        | (.next s', false) => issueOver rest s' c q
        | (a, _) => a

/-- A queued fault that no handler serves, as after a resumption, enters the handler in a new chunk (R344, R390). -/
def State.queued (s : State) (c : Nat) : State :=
  let a := (s.core c).arch
  if s.coreStalled c || a.serving.isSome || a.faultq.isEmpty then s
  else { s.closeForTrap c (fun s => (s.enterHandlers c).seal c) with cur := s.cur }

/-- A quadrant's issue cycle. -/
def issueMove (s : State) (c q : Nat) : Answer := issueOver (slotOrder (s.queued c) c q) (s.queued c) c q

/-! ### A loaded word (log 15) -/

/-- The launch that stands for a loaded program: one thread in one block bound to CORE. -/
def loadedLaunch (x : Nat) : Launch :=
  { Launch.blank with ctx := x, tree := ⟨2, 16, 0, 0, [⟨.core, 1, 32, 8, 0⟩]⟩, entry := 0x10000, status := 3, next := 1 }

/-- Its block, with the thread at the start of its row. -/
def loadedBlock (l : Nat) : Block :=
  { launch := l, lin := 0, q0 := 0, winBase := 0, winSize := 1024, pstore := 0, seq := 0
    threads := [{ handlerThread 0x10000 with ltid := 0 }], fair := [⟨0, 0⟩, ⟨0, 0⟩, ⟨0, 0⟩, ⟨0, 0⟩], nregs := []
    lehrs := [], bars := [], wnCount := 0, wnWait := [], phase := 0, pdone := false, pover := [], pops := [], pheld := []
    plines := [], deferred := [], ldx := [], failing := false }

/-- The translation of the page that holds the word. -/
def loadedPage (x : Nat) : TlbEntry :=
  { va := 0x10000, size := 0x10000, pa := 0x10000, ctx := x, glob := false, r := true, w := true, x := true, kind := 0
    d := true, ptr := 0 }

/-- Bytes of an instruction at the loaded thread's PC, with everything its fetch needs; the next step issues it. -/
def State.load (s : State) (bs : List Byte) : State :=
  let n := s.launches.length
  let s := { s with launches := s.launches ++ [loadedLaunch 0], stopped := false, heldLines := [], quar := []
                    badLines := [], clusterMask := Tab.set 0 s.clusterMask 0 0xFFFFFF, cur := none
                    agenda := [.issue 0 0] }
  let s := s.updCtx 0 (fun c => { c with created := true, part := 0 })
  let s := s.updCore 0 (fun k => { k with
    arch := { k.arch with blocks := [(0, loadedBlock n)], serving := none, faultq := [] }
    chunk := Chunk.new, preempt := none, prioReq := false, engCtx := some 0, rrSlot := [], icache := [], tlb := loadedPage 0 :: k.tlb })
  s.writeMem 0x10000 bs

end Sys2Proof.Machine
end

