-- ==== Sys2Proof/Machine/Moves.lean ====
section
/-! DEFINITION. The moves of the device's agents, and the choice among those that can come next (log 1). -/

namespace Sys2Proof.Machine

/-! ### What one move does -/

/-- The chunk of a core ends for want of a resource that the model does not count; an LR suspends such an end (R133, R134). -/
def State.fillChunk (s : State) (c : Nat) : State :=
  let h := (s.core c).chunk
  if h.fresh || h.ended || !h.suspend.isEmpty then s else s.endChunk c

/-- The released access at place `n` is performed, unless an earlier one of its core to the same line waits (R126, R130,
R145). -/
def State.landAt (s : State) (n : Nat) : State :=
  match s.flights[n]? with
  | none => s
  | some f =>
    let first := fun (g : Flight) => g.core == f.core && g.eff.sharesLine f.eff
    if flightBlocked s f || (s.flights.take n).any (fun g => first g && g.eff.ord ≤ f.eff.ord)
        || (s.flights.drop (n + 1)).any (fun g => first g && g.eff.ord < f.eff.ord) then s
    else ({ s with flights := s.flights.eraseIdx n }.land f).wakeDrains f.core

/-- Copies that a core drops: a TLB entry, an L1 line, an instruction line (R117, R381). -/
def State.evictTlb (s : State) (c n : Nat) : State := s.updCore c (fun k => { k with tlb := k.tlb.eraseIdx n })
def State.evictL1 (s : State) (c n : Nat) : State := s.updCore c (fun k =>
  if n < k.l1.length then { k with l1 := k.l1.eraseIdx n } else { k with l1c := k.l1c.eraseIdx (n - k.l1.length) })
def State.evictIc (s : State) (c n : Nat) : State := s.updCore c (fun k => { k with icache := k.icache.eraseIdx n })

/-- A cluster's TLB or walker cache drops an entry (R381). -/
def State.evictCtlb (s : State) (k n : Nat) : State :=
  { s with ctlb := Tab.set [] s.ctlb k ((Tab.get [] s.ctlb k).eraseIdx n) }
def State.evictWalk (s : State) (k n : Nat) : State :=
  { s with wcache := Tab.set [] s.wcache k ((Tab.get [] s.wcache k).eraseIdx n) }

/-- A failing line is evicted or written back, which quarantines it without a fault (R388). -/
def State.evictBad (s : State) (l : Nat) : State := s.quarantine (s.lineCtx l) [l] 0

/-- A register of a thread fails its check; a scoped or lehr register does so for every thread of its node (R62, R388). -/
def State.corruptReg (s : State) (c slot ltid : Nat) (spec : BitVec 10) : State :=
  let mark := fun (th : Thread) => { th with bad := if th.bad.contains spec then th.bad else spec :: th.bad }
  if spec.toNat / 128 = 3 then
    match s.block? c slot with
    | some b => (s.nodeThreads c slot b (s.treeOf slot b) (spec.toNat / 8 % 16) ltid).foldl (fun s q =>
        s.mapTids q.1 q.2.1 [q.2.2.2.ltid] mark) s
    | none => s
  else match s.block? c slot, Operand.dec spec with
  | some b, some (.scoped l _) =>
    (s.nodeThreads c slot b (s.treeOf slot b) l.toNat ltid).foldl (fun s q => s.mapTids q.1 q.2.1 [q.2.2.2.ltid] mark) s
  | some _, some _ => s.mapTids c slot [ltid] mark
  | _, _ => s

/-- The fabric engine applies a command that has arrived whole. -/
def State.applyAt (s : State) (n : Nat) : State :=
  match s.arriving[n]? with
  | some a => s.applyOne a
  | none => s

/-- A corrected error of a structure is counted (R388, R427). -/
def State.corrected (s : State) (sub : Nat) : State := { s with ras := Tab.set 0 s.ras (sub % 16) (Tab.get 0 s.ras (sub % 16) + 1) }

/-- One move. -/
def move (m : Move) (s : State) : Answer :=
  match m with
  | .issue c q => issueMove s c q
  | .event i => exec i s
  | .chunkFull c => .next (s.fillChunk c)
  | .land n => .next (s.landAt n)
  | .tlbEvict c n => .next (s.evictTlb c n)
  | .ctlbEvict k n => .next (s.evictCtlb k n)
  | .walkEvict k n => .next (s.evictWalk k n)
  | .l1Evict c n => .next (s.evictL1 c n)
  | .icEvict c n => .next (s.evictIc c n)
  | .tick n => .next { s with mclock := s.mclock + n }
  | .engineUnit r => .next (s.engineUnit r)
  | .corrupt line sub => .next { s with badLines := Tab.put s.badLines line sub }
  | .corruptReg c slot ltid spec => .next (s.corruptReg c slot ltid spec)
  | .corrected sub => .next (s.corrected sub)
  | .corruptShadow c sub => .next (s.updChunk c (fun h => { h with bad := some sub }))
  | .corruptStore c unit => .next (s.updCore c (fun k => { k with eng := { k.eng with bad := addNew k.eng.bad [unit] } }))
  | .evictBad l => .next (s.evictBad l)
  | .bar2Go => .next s.bar2Next
  | .groupGo i => .next (s.groupNext i)
  | .invGo x => .next (s.invNext x)
  | .bootNext fails => .next (s.bootNext fails)
  | .firmwareWritten => .next s.firmwareWritten
  | .laserTemp m t => .next (s.laserTemp m t)
  | .bar2Resize n => .next (s.bar2Resize n)
  | .lineMoved j => .next (s.lineMoved j)
  | .switchStep n => .next (s.switchMove n)
  | .applyArrived n => .next (s.applyAt n)
  | .nakSent p => .next (s.updPort p Port.sendNak)
  | .taken p => .next (s.updPort p (fun p => { p with wire := p.wire.tail }))
  | .msixSent => .next { s with msix := s.msix.tail }

/-! ### The moves that the device can make by itself -/

/-- The moves of a core's quadrants, chunk and copies. -/
def coreMoves (c : Nat) (k : CoreSt) : List Move :=
  (List.range 4).map (fun q => Move.issue c q)
    ++ [Move.chunkFull c, Move.event (Instr.chunkTimeLimit c), Move.event (Instr.chunkCommit c), Move.event (Instr.preemptSquashTimeout c)
        , Move.event (Instr.preemptComplete c)]
    ++ (List.range k.tlb.length).map (fun n => Move.tlbEvict c n) ++ (List.range (k.l1.length + k.l1c.length)).map (fun n => Move.l1Evict c n)
    ++ (List.range k.icache.length).map (fun n => Move.icEvict c n)

/-- The moves of a resident block: its rendezvous, barriers, waits, transfers, lehr registers and its end. -/
def blockMoves (c slot : Nat) (b : Block) : List Move :=
  (Move.event (Instr.blockRetire c slot)) :: (List.range b.ldx.length).map (fun i => Move.event (Instr.ldxTransferLanded c slot i))
    ++ b.lehrs.map (fun (e : Nat × Lehr) => Move.event (Instr.lehrOccupancyEnd c slot (e.1 / 262144) (e.1 / 64 % 4096) (e.1 % 64)))
    ++ b.threads.flatMap (fun th => (Move.event (Instr.rendezvousComplete c slot th.ltid)) :: (Move.event (Instr.waitReevaluation c slot th.ltid))
      :: (List.range 16).map (fun l => Move.event (Instr.barrierPhaseComplete c slot th.ltid l)))

/-- The streams of a core's engines and of a context's fabric engine that hold a command. -/
def busyStreams (s : State) : List StreamRef :=
  s.cores.flatMap (fun (k : Nat × CoreSt) => (k.2.eng.streams.filter (fun (e : Nat × Stream) => !e.2.q.isEmpty)).map
      (fun e => ⟨BitVec.ofNat 2 (e.1 / 16), k.1, BitVec.ofNat 4 (e.1 % 16)⟩))
    ++ s.ctxs.flatMap (fun (x : Nat × Ctx) => (x.2.streams.filter (fun (e : Nat × Stream) => !e.2.q.isEmpty)).map
      (fun e => ⟨3, x.1, BitVec.ofNat 4 e.1⟩))

/-- The moves of an engine stream. -/
def streamMoves (r : StreamRef) : List Move :=
  [Move.engineUnit r, Move.event (Instr.chainEntryExecute r), Move.event (Instr.engineCommandComplete r), Move.event (Instr.engineDeferredFault r)]

/-- The moves that the firmware makes for a launch. -/
def launchMoves (ln : Launch) : List Move :=
  [Move.event (Instr.phaseMerge ln.ctx ln.rec_), Move.event (Instr.launchRetire ln.ctx ln.rec_), Move.event (Instr.preemptionReserveReached ln.ctx ln.rec_)
    , Move.event (Instr.deadlinePassed ln.ctx ln.rec_)] ++ ln.workReq.map (fun q => Move.event (Instr.mailboxFill q.1 q.2.1 q.2.2.1))

/-- The moves that the firmware makes for a context's queues. -/
def queueMoves (x : Nat) (c : Ctx) : List Move :=
  c.queues.flatMap (fun (e : Nat × QueueSt) => [Move.event (Instr.packetNop x e.1), Move.event (Instr.launchPacket x e.1), Move.event (Instr.decrPacket x e.1)
    , Move.event (Instr.setdet x e.1), Move.event (Instr.qfence x e.1), Move.event (Instr.queueWaitRelease x e.1), Move.event (Instr.unassignedPacket x e.1)])

/-- The moves of the firmware for the partitions, the translation requests, its own images and the boot (R359, R370, R384, R423, R425). -/
def serviceMoves (s : State) : List Move :=
  (List.range 8).flatMap (fun p => [Move.event (Instr.schedulingPass p), Move.event (Instr.translationRequestService p)])
    ++ s.xreqs.map (fun q => Move.event (Instr.translationAnswer (s.ctx q.ctx).part q.tag))
    ++ (if s.fwSwitch = .none then [] else [Move.event Instr.firmwareSwitchResumed, Move.event Instr.firmwareSwitchTimeout])
    ++ (if s.fwState = 1 then [Move.firmwareWritten] else [])
    ++ (if 1 ≤ s.bootStep && s.bootStep ≤ 4 then [Move.bootNext false, Move.bootNext true] else [])

/-- The moves of the fabric: the switch, what has arrived, and the ports with their timers. -/
def fabricMoves (s : State) : List Move :=
  (List.range s.switch.length).map (fun n => Move.switchStep n) ++ (List.range s.arriving.length).map (fun n => Move.applyArrived n)
    ++ s.ports.flatMap (fun (p : Nat × Port) => [Move.taken p.1, Move.nakSent p.1, Move.event (Instr.retrainComplete p.1), Move.event (Instr.replayTimeout p.1)
      , Move.event (Instr.nakRepeatTimeout p.1), Move.event (Instr.idleAckTimer p.1)])
    ++ s.groups.flatMap (fun (g : Nat × GroupEntry) => (List.range 4096).map (fun r => Move.event (Instr.routeUnreachable g.1 r)))

/-- The moves of what the clusters share, of failing lines, and of the host's waiting accesses. -/
def cacheMoves (s : State) : List Move :=
  s.ctlb.flatMap (fun (e : Nat × List TlbEntry) => (List.range e.2.length).map (fun n => Move.ctlbEvict e.1 n))
    ++ s.wcache.flatMap (fun (e : Nat × List WalkPtr) => (List.range e.2.length).map (fun n => Move.walkEvict e.1 n))
    ++ s.badLines.map (fun (e : Nat × Nat) => Move.evictBad e.1) ++ (if s.bar2Wait.isEmpty then [] else [Move.bar2Go])

/-- The moves of the lasers, of the memory links, of the host's waiting writes of BAR0, and of the interrupt messages. -/
def plantMoves (s : State) : List Move :=
  s.lasers.map (fun (m : Nat × Laser) => Move.event (Instr.laserWarmUpDone m.1))
    ++ s.links.flatMap (fun (l : Nat × MemLink) => [Move.lineMoved l.1, Move.event (Instr.drainEnd l.1), Move.event (Instr.memoryLinkTrained l.1)])
    ++ s.groupWait.map (fun w => Move.groupGo w.1)
    ++ (s.ctxs.filter (fun (x : Nat × Ctx) => !x.2.invWait.isEmpty)).map (fun (x : Nat × Ctx) => Move.invGo x.1)
    ++ (List.range 16).map (fun m => Move.laserTemp m (BitVec.ofNat 8 (Config.freeWord s.tick).toNat))
    ++ (if s.msix.isEmpty then [] else [Move.msixSent])

/-- The moves that the device can make by itself; a move whose conditions do not hold changes nothing (log 1). -/
def enabled (s : State) : List Move :=
  Move.tick 1 :: s.cores.flatMap (fun k => coreMoves k.1 k.2 ++ k.2.arch.blocks.flatMap (fun (b : Nat × Block) => blockMoves k.1 b.1 b.2))
    ++ (List.range s.flights.length).map (fun n => Move.land n) ++ (busyStreams s).flatMap streamMoves
    ++ s.launches.flatMap launchMoves ++ s.ctxs.flatMap (fun (x : Nat × Ctx) => queueMoves x.1 x.2) ++ serviceMoves s
    ++ fabricMoves s ++ cacheMoves s ++ plantMoves s

/-- Chooses among the enabled moves (log 1). -/
def pickMove (s : State) : Option Move :=
  let ms := enabled s
  if ms.isEmpty then none else ms[Config.freePick s.tick % ms.length]?

end Sys2Proof.Machine
end

