-- ==== Sys2Proof/Machine/Step.lean ====
section
/-! DEFINITION. The step of the device: the head of the agenda, or a move that the device makes by itself. -/

namespace Sys2Proof.Machine

/-- One step. The agenda holds the moves that a run fixes; when it is empty, any move that the device can make by itself
may come (log 1). At 110 °C the device has stopped and waits for a reset (R428). -/
def step (s : State) : Host.Outcome State Fault Refusal :=
  match s.agenda with
  | m :: ms => move m { s with agenda := ms, tick := s.tick + 1 }
  | [] =>
    if s.stopped then .fault .overTemperature
    else match pickMove s with
      | some m => move m { s with tick := s.tick + 1 }
      | none => .next { s with tick := s.tick + 1 }

/-- The state with the instruction of a table word where the next step fetches (log 15). -/
def State.withFetchWord (s : State) (nbits w : Nat) : State :=
  s.load (wordBytes (BitVec.ofNat 64 (w % 2 ^ nbits)))

end Sys2Proof.Machine
end

