-- ==== Sys2Proof/Safety.lean ====
section
/-! DEFINITION. What a safe state is, and the terms in which claims about one word and one event are stated. -/

namespace Sys2Proof

/-- Memory stands in its one canonical form: keys rise strictly and no byte 0 is listed, so that equal memories are
equal data (log 2). -/
def MemoryOk (s : Machine.State) : Prop := Machine.Memory.wf s.mem = true

namespace Machine

/-- A word that `act` selects active members for reaches its effect at a site: it has an active member, no fault comes before
the effect, and nothing makes it wait (R26, R183, R387). -/
def RunsFor (w : Word) (act : Thread → Bool) (s : State) (e : Site) : Prop :=
  s.site? act = some e ∧ e.act ≠ [] ∧ preFault s e w = none ∧ homeHeld s e w = false ∧ replyPending s e w = false

/-- A full word reaches its effect. -/
def Runs (i : Instr) (s : State) (e : Site) : Prop := RunsFor (wordOf i) (fullActive (wordOf i)) s e

/-- The state in which a word acts: its core's chunk is open, and its sources have been noted. -/
def State.noted (s : State) (i : Instr) (e : Site) : State := (s.acts e).noteSources e (sourceOps (wordOf i))

/-- A thread of a resident block. -/
def State.thread? (s : State) (c slot ltid : Nat) : Option Thread := (s.block? c slot).bind (fun b => b.thread? ltid)

/-- From `s` to `t` the active members of a group change by `f`, its other members go on to the next word, and the block's
other threads stay as they are. -/
def GroupGoes (s t : State) (e : Site) (f : Thread → Thread) : Prop :=
  ∀ l, t.thread? e.cur.core e.cur.slot l = (s.thread? e.cur.core e.cur.slot l).map (fun th =>
    if (e.mem.map (fun m => m.ltid)).contains th.ltid then (if e.active th then f th else th.next) else th)

/-- From `s` to `t` nothing changes but the site's block and the effects that its core's chunk holds: every byte of memory, every
other block, every fault register and every chunk's bytes of every core, the launches, the contexts with their streams and counters, and what
is in flight stay as they are. -/
def OnlyBlock (s t : State) (e : Site) : Prop :=
  (∀ a, Memory.byte t.mem a = Memory.byte s.mem a)
    ∧ (∀ c sl, c ≠ e.cur.core ∨ sl ≠ e.cur.slot → t.block? c sl = s.block? c sl)
    ∧ (∀ c, { (t.core c).arch with blocks := [] } = { (s.core c).arch with blocks := [] })
    ∧ (∀ c, (t.core c).chunk.ovl = (s.core c).chunk.ovl)
    ∧ (∀ c, c ≠ e.cur.core → (t.core c).chunk.held = (s.core c).chunk.held)
    ∧ t.launches = s.launches ∧ t.ctxs = s.ctxs ∧ t.flights = s.flights ∧ t.ports = s.ports ∧ t.groups = s.groups ∧ t.msix = s.msix

/-- A block apart from its threads. -/
def Block.apart (b : Block) : Block := { b with threads := [] }

/-- Of the site's own block only what `f` changes differs, threads apart. -/
def BlockGoes (s t : State) (e : Site) (f : Block → Block) : Prop :=
  (t.block? e.cur.core e.cur.slot).map Block.apart = (s.block? e.cur.core e.cur.slot).map (fun b => (f b).apart)

/-- The core's chunk holds the effects that it held before, and `hs` after them. -/
def Holds (s t : State) (c : Nat) (hs : List Held) : Prop := (t.core c).chunk.held = (s.core c).chunk.held ++ hs

/-- From `s` to `t` nothing changes but the threads of the site's block. -/
def OnlyGroup (s t : State) (e : Site) : Prop :=
  OnlyBlock s t e ∧ BlockGoes s t e id ∧ Holds s t e.cur.core []

end Machine

end Sys2Proof
end

