-- ==== Sys2Proof/Certificates/Slice0/Obligations.lean ====
section
/-! DEFINITION. The statements for the provers. The tables before each group of statements name the instructions that the
statement covers, and what the rules give each of them. -/

namespace Sys2Proof.Machine

/-! ### Vocabulary -/

/-- The answer is a next state. -/
abbrev Completes (i : Instr) (s t : State) : Prop := exec i s = .next t

/-- Writes a destination, whose data are good again. -/
def putD (d : Operand) (w : Word) (th : Thread) : Thread := (th.setD d w).cleared d

/-- What an active member becomes, from the state in which the word acts. -/
abbrev Effect := State → Site → Thread → Thread

/-- `OP d, a, b` on whole operands of the integer group (R191). -/
def effect3 (f : Int3) (g : IntMod → Word → Word → Word) : Effect := fun s e th =>
  putD f.d (g f.m (intSrc s e th f.m.w f.a) (intSrc s e th f.m.w f.b)) th

/-- `OP d, a, b, c` of the integer group. -/
def effect4 (f : Int4) (g : IntMod → Word → Word → Word → Word) : Effect := fun s e th =>
  putD f.d (g f.m (intSrc s e th f.m.w f.a) (intSrc s e th f.m.w f.b) (intSrc s e th f.m.w f.c)) th

/-- `OP d, a` of the integer group. -/
def effect2 (f : Int2) (g : IntMod → Word → Word) : Effect := fun s e th => putD f.d (g f.m (intSrc s e th f.m.w f.a)) th

/-- `OP d, a, #imm` (R197). -/
def effectI (f : IntI) (g : IntMod → Word → Word → Word) : Effect := fun s e th =>
  putD f.d (g (immMod f) (intSrc s e th (immMod f).w f.a) (f.imm.signExtend 64)) th

/-- An exact function of the elements, wrapped or clamped (R73, R191). -/
def exact2 (g : Int → Int → Int) (m : IntMod) : Word → Word → Word := int2 m g

/-- A logical function of the bits of each element (R196). -/
def bitwise (g : Nat → Nat → Nat) (m : IntMod) : Word → Word → Word := int2 m (bitsOf (wBits m.w) g)

/-- The carry in of ADDC and SUBB (R194). -/
def carryIn (s : State) (e : Site) (th : Thread) (ci : Bool) (c : Operand) : Nat :=
  if ci && e.read s th c != 0 then 1 else 0

/-- ADDC and SUBB: the low n bits to d, then the carry or borrow out to predicate c (R194). -/
def carryEffect (f : Int4) (ci : Bool) (g : Nat → Nat → Nat → Nat → Nat × Bool) : Effect := fun s e th =>
  let n := wBits f.m.w
  let r := g n (elem (intSrc s e th f.m.w f.a) n 0) (elem (intSrc s e th f.m.w f.b) n 0) (carryIn s e th ci f.c)
  putD f.c (boolWord r.2) (putD f.d (assemble f.m.w f.m.sg [r.1]) th)

/-- The integer, comparison, address, predicate-logic and long-immediate instructions, with what each does to an active thread
(R191-R208). -/
def intEffect : Instr → Option Effect
  | .add f => some (effect3 f (exact2 (fun a b => a + b)))
  | .addi f => some (effectI f (exact2 (fun a b => a + b)))
  | .sub f => some (effect3 f (exact2 (fun a b => a - b)))
  | .addc f ci => some (carryEffect f ci addCarry)
  | .subb f ci => some (carryEffect f ci subBorrow)
  | .mul f => some (effect3 f (exact2 (fun a b => a * b)))
  | .mulh f => some (effect3 f (fun m => int2 m (fun a b => a * b / 2 ^ wBits m.w)))
  | .mad f => some (effect4 f (fun m => int3 m (fun a b c => a * b + c)))
  | .madw f => some (fun s e th => putD f.d (madw f.m (intSrc s e th f.m.w f.a) (intSrc s e th f.m.w f.b)
      (intSrc s e th (madwWide f.m.w) f.c)) th)
  | .div f => some (effect3 f (fun m => int2 m (quot (wBits m.w))))
  | .rem f => some (effect3 f (exact2 rema))
  | .abs f => some (effect2 f (fun m a => mapElems m (fun e => |readInt (wBits m.w) true (elem a (wBits m.w) e)|)))
  | .min f => some (effect3 f (exact2 min))
  | .max f => some (effect3 f (exact2 max))
  | .clamp f => some (effect4 f (fun m => int3 m (fun a b c => min (max a b) c)))
  | .addmin f => some (effect4 f (addThen min))
  | .addmax f => some (effect4 f (addThen max))
  | .and f => some (effect3 f (bitwise (fun x y => x &&& y)))
  | .or f => some (effect3 f (bitwise (fun x y => x ||| y)))
  | .xor f => some (effect3 f (bitwise (fun x y => x ^^^ y)))
  | .andn f => some (effect3 f (fun m => bitwise (fun x y => x &&& notN (wBits m.w) y) m))
  | .orn f => some (effect3 f (fun m => bitwise (fun x y => x ||| notN (wBits m.w) y) m))
  | .andi f => some (effectI f (bitwise (fun x y => x &&& y)))
  | .ori f => some (effectI f (bitwise (fun x y => x ||| y)))
  | .xori f => some (effectI f (bitwise (fun x y => x ^^^ y)))
  | .shl f => some (effect3 f (fun m => shiftOp m shlN))
  | .shr f => some (effect3 f (fun m => shiftOp m shrN))
  | .sar f => some (effect3 f (fun m => shiftOp m sarN))
  | .rol f => some (effect3 f (fun m => shiftOp m rolN))
  | .shli f => some (effectI f (fun m => shiftOp m shlN))
  | .shri f => some (effectI f (fun m => shiftOp m shrN))
  | .sari f => some (effectI f (fun m => shiftOp m sarN))
  | .bfx f => some (fun s e th => putD f.d (assemble f.m.w f.m.sg
      [bfxN (wBits f.m.w) f.m.sg (elem (e.read s th f.a) (wBits f.m.w) 0) (e.read s th f.b)]) th)
  | .bfi f => some (fun s e th => putD f.d (assemble f.m.w f.m.sg
      [bfiN (wBits f.m.w) (elem (e.read s th f.a) (wBits f.m.w) 0) (elem (e.read s th f.b) (wBits f.m.w) 0)
        (e.read s th f.c)]) th)
  | .popc f => some (effect2 f (fun m => bitOp m popN))
  | .clz f => some (effect2 f (fun m => bitOp m clzN))
  | .ctz f => some (effect2 f (fun m => bitOp m ctzN))
  | .brev f => some (effect2 f (fun m => bitOp m brevN))
  | .bperm f => some (fun s e th => putD f.d (bpermW (e.read s th f.a) (e.read s th f.b) (e.read s th f.c)) th)
  | .sel f => some (fun s e th => putD f.d (if e.read s th f.c != 0 then e.read s th f.a else e.read s th f.b) th)
  | .cmp f => some (fun s e th => putD f.d (cmpResult f.d f.w f.sg (e.read s th f.c != 0)
      (cmpElems f.w f.sg f.x (intSrc s e th f.w f.a) (intSrc s e th f.w f.b))) th)
  | .cmpi f => some (fun s e th => putD f.d (cmpResult f.d .w64 false true
      [cmpiCond f.cc (e.read s th f.a) (f.imm.signExtend 64)]) th)
  | .lea f => some (fun s e th => putD f.d (assemble f.w f.sg [wrap (wBits f.w) ((elem (e.read s th f.a) (wBits f.w) 0 : Int)
      + shlN (wBits f.w) (elem (e.read s th f.b) (wBits f.w) 0) f.x.toNat + elem (e.read s th f.c) (wBits f.w) 0)]) th)
  | .plog f => some (fun s e th => putD f.d
      (boolWord (f.x.getLsbD (2 * (e.read s th f.a).toNat + (e.read s th f.b).toNat))) th)
  | .pset f => some (fun s e th => putD f.d
      (boolWord ((e.read s th f.a).getLsbD ((e.read s th f.b).toNat % 64) != f.x.getLsbD 0)) th)
  | .movl f => some (fun s e th => putD f.d (
      if f.sel = 0 then f.imm.setWidth 64
      else if f.sel = 1 then f.imm.signExtend 64
      else if f.sel = 2 then f.imm ++ (e.read s th f.d).extractLsb' 0 32
      else f.imm ++ (0 : BitVec 32)) th)
  | .addl f => some (fun s e th => putD f.d
      (e.read s th f.d + (if f.sel = 0 then f.imm.signExtend 64 else f.imm ++ (0 : BitVec 32))) th)
  | _ => none

/-- The float, conversion and special-function instructions with one result, and their destinations (R220-R241). -/
def floatDest : Instr → Option Operand
  | .fadd f => some f.d | .fsub f => some f.d | .fmul f => some f.d | .ffma f => some f.d | .ffms f => some f.d
  | .fnma f => some f.d | .fmin f => some f.d | .fmax f => some f.d | .fabs f => some f.d | .fneg f => some f.d
  | .fsign f => some f.d | .fcmp f => some f.d | .fclass f => some f.d | .fdiv f => some f.d | .fsqrt f => some f.d
  | .frnd f => some f.d | .fscale f => some f.d | .fgetexp f => some f.d | .fgetmant f => some f.d | .faddmin f => some f.d
  | .cvtf f => some f.d | .cvtfi f => some f.d | .cvtif f => some f.d | .cvtn f => some f.d | .scaleest f => some f.d
  | .cbdec f => some f.d | .unpack f => some f.d
  | .exp2 f => some f.d | .log2 f => some f.d | .sinpi f => some f.d | .cospi f => some f.d | .tanh f => some f.d
  | .sigm f => some f.d | .erf f => some f.d | .rcp f => some f.d | .rsqrt f => some f.d | .silu f => some f.d
  | .rcpseed f => some f.d | .rsqseed f => some f.d
  | _ => none

/-- The result of a rounding form on one element: the correctly rounded function of the inputs' values, in the layout's format
and the rounding mode in force (R80, R83, R223). -/
def roundedElem : Instr → Option (FMod × Operand × (FF → RM → (Operand → Fv) → Res))
  | .fadd f => some (f.m, f.d, fun ff rm x => ff.add rm f.m.ftz (x f.a) (x f.b))
  | .fsub f => some (f.m, f.d, fun ff rm x => ff.add rm f.m.ftz (x f.a) (x f.b).negate)
  | .fmul f => some (f.m, f.d, fun ff rm x => ff.mul rm f.m.ftz (x f.a) (x f.b))
  | .fdiv f => some (f.m, f.d, fun ff rm x => ff.div rm f.m.ftz (x f.a) (x f.b))
  | .ffma f => some (f.m, f.d, fun ff rm x => ff.fma rm f.m.ftz (x f.a) (x f.b) (x f.c))
  | .ffms f => some (f.m, f.d, fun ff rm x => ff.fma rm f.m.ftz (x f.a) (x f.b) (x f.c).negate)
  | .fnma f => some (f.m, f.d, fun ff rm x => ff.fma rm f.m.ftz (x f.a).negate (x f.b) (x f.c))
  | .fsqrt f => some (f.m, f.d, fun ff rm x => ff.sqrt rm f.m.ftz (x f.a))
  | .frnd f => some (f.m, f.d, fun ff rm x => ff.rint rm f.m.ftz (x f.a))
  | _ => none

/-- The paired words: half A's operation, both halves (R177, R178). -/
def pairHalves : Instr → Option (Half × Half)
  | .pairNop a b => some (⟨.nop, a⟩, b) | .pairMov a b => some (⟨.mov, a⟩, b) | .pairAdd a b => some (⟨.add, a⟩, b)
  | .pairAddi a b => some (⟨.addi, a⟩, b) | .pairSub a b => some (⟨.sub, a⟩, b) | .pairAnd a b => some (⟨.and, a⟩, b)
  | .pairOr a b => some (⟨.or, a⟩, b) | .pairXor a b => some (⟨.xor, a⟩, b) | .pairShli a b => some (⟨.shli, a⟩, b)
  | .pairShri a b => some (⟨.shri, a⟩, b) | .pairSari a b => some (⟨.sari, a⟩, b) | .pairMin a b => some (⟨.min, a⟩, b)
  | .pairMax a b => some (⟨.max, a⟩, b) | .pairMul a b => some (⟨.mul, a⟩, b)
  | .pairFaddF32 a b => some (⟨.faddF32, a⟩, b) | .pairFmulF32 a b => some (⟨.fmulF32, a⟩, b)
  | .pairFaddF64 a b => some (⟨.faddF64, a⟩, b) | .pairFmulF64 a b => some (⟨.fmulF64, a⟩, b)
  | .pairFminF64 a b => some (⟨.fminF64, a⟩, b) | .pairFmaxF64 a b => some (⟨.fmaxF64, a⟩, b)
  | .pairFminF32 a b => some (⟨.fminF32, a⟩, b) | .pairFmaxF32 a b => some (⟨.fmaxF32, a⟩, b)
  | .pairMovi a b => some (⟨.movi, a⟩, b)
  | _ => none

/-- What a half does to a thread, from the thread as it stood before the word (R178, R179). -/
def halfDoes (old : Thread) (h : Half) (th : Thread) : Thread :=
  if h.hop == .nop || !old.halfGuard h.f then th
  else (putD (.lane h.f.d) (halfValue h old).1 th).flag (halfValue h old).2

end Sys2Proof.Machine

open Sys2Proof Sys2Proof.Machine

/-! ### Encoding and decoding -/

/-- Decoding the encoding of any well-formed instruction word gives the instruction back, with every operand at every value that
the encoding admits (R164-R183). -/
def Obligations.DecodeEncode : Prop := ∀ i : Instr, i.wf = true → ∀ w, encode i = some w → decode w = .ok i

/-- Words written out from the encodings of the manual decode to what they stand for: the worked encodings of the manual (R219 and
R179), and the all-zero word (R166). -/
def Obligations.DecodeOfWords : Prop :=
  decode 0x0780200501505817 = .ok (.addmin ⟨⟨0, false⟩, ⟨.w16x4, false, false⟩, .lane 20, .lane 21, .lane 22, .lane 23⟩)
    ∧ decode 0x1580028800400007 = .ok (.mov ⟨⟨0, false⟩, .w64, false, true, false, .faddF32, .scoped 1 0, .lane 4⟩)
    ∧ decode 0x60800104FFFFFFC0 = .ok (.bru ⟨⟨0, false⟩, false, .pred 4, 0xFFFFFFC0⟩)
    ∧ decode 0x6800080412345678 = .ok (.movl ⟨⟨0, false⟩, 2, .lane 4, 0x12345678⟩)
    ∧ decode 0x84020480588680FA = .ok (.pairAdd ⟨false, 0, 8, 9, 0⟩ ⟨.movi, ⟨false, 2, 13, 0, 0x7D⟩⟩)
    ∧ decode 0 = .ok (.add ⟨⟨0, false⟩, ⟨.w64, false, false⟩, .lane 0, .lane 0, .lane 0⟩)

/-! ### A step -/

/-- A step whose agenda begins with the issue of a quadrant fetches, decodes and executes the word at the PC of the group that the
quadrant issues, whose slot stands first in its order but for slots without a block: it is `exec` of the decoded instruction at that
state, when the register shadow bank can record its writes; then the bank holds them and the group's block is marked as issued
(R25-R28, R133). -/
def Obligations.StepRunsDecodedWord : Prop :=
  ∀ (s : State) (c q sl : Nat) (pre post : List Nat) (b b' : Block) (cur : Cur) (w : Word) (x : Xlat) (i : Instr) (t : State)
    (rest : List Move),
    s.agenda = .issue c q :: rest →
    let s0 := State.queued { s with agenda := rest, tick := s.tick + 1 } c
    s0.coreStalled c = false → slotOrder s0 c q = pre ++ sl :: post → (∀ k ∈ pre, s0.block? c k = none) →
    let s1 := s0.prepare c q sl
    s1.coreStalled c = false → candidate s1 c q sl = some (b', cur) → s1.block? c sl = some b →
    let s2 := s1.given c sl b b' cur
    fetch s2 cur = .word w x → decode w = .ok i →
    let s3 := s2.noteFetch cur x
    let ks := shadowKeys s3 w
    shadowFits s3 c ks = true → exec i s3 = .next t → t.cur.isSome = true →
    step s = .next ((t.shadowed c ks).issued cur)

/-- Memory keeps its canonical form in every step (log 2). -/
def Obligations.StepKeepsMemoryOk : Prop := ∀ s t : State, MemoryOk s → step s = .next t → MemoryOk t

/-- Memory has its canonical form after reset. -/
def Obligations.ResetMemoryOk : Prop := MemoryOk State.reset

/-! ### Thread-local words -/

/-- Every integer, comparison, address, predicate-logic and long-immediate word that reaches its effect completes: each active
member's destination receives the value that the rules give, computed from its own sources, every member goes on to PC + 8, and,
in a launch that is not checked for races, nothing else changes (R26, R191-R208). -/
def Obligations.IntegerWords : Prop :=
  ∀ (i : Instr) (f : Effect), intEffect i = some f → ∀ (s : State) (e : Site), Runs i s e →
    ∃ t, Completes i s t ∧ GroupGoes (s.noted i e) t e (fun th => (f (s.noted i e) e th).next)
      ∧ ((s.launchOf e.b).race = false → OnlyGroup s t e)

/-- DIV rounds the quotient towards zero and REM gives the remainder the sign of the dividend; a divisor of 0 gives all ones and the
dividend, the most negative dividend over −1 wraps to itself with remainder 0, and neither traps (R75). -/
def Obligations.DivisionRounds : Prop :=
  ∀ (f : Int3) (s : State) (e : Site), f.m.sat = false →
    (Runs (.div f) s e → ∃ t, Completes (.div f) s t ∧ GroupGoes (s.noted (.div f) e) t e (fun th =>
      (putD f.d (int2 f.m (fun x y => if y = 0 then (if f.m.sg then -1 else 2 ^ wBits f.m.w - 1) else Int.tdiv x y)
        (intSrc (s.noted (.div f) e) e th f.m.w f.a) (intSrc (s.noted (.div f) e) e th f.m.w f.b)) th).next))
    ∧ (Runs (.rem f) s e → ∃ t, Completes (.rem f) s t ∧ GroupGoes (s.noted (.rem f) e) t e (fun th =>
      (putD f.d (int2 f.m (fun x y => if y = 0 then x else Int.tmod x y)
        (intSrc (s.noted (.rem f) e) e th f.m.w f.a) (intSrc (s.noted (.rem f) e) e th f.m.w f.b)) th).next))
    ∧ (f.m.sg = true → let n := wBits f.m.w
      narrow n true false (Int.tdiv (-(2 ^ (n - 1))) (-1)) = narrow n true false (-(2 ^ (n - 1)))
        ∧ Int.tmod (-(2 ^ (n - 1))) (-1) = 0)

/-- Every float, conversion and special-function word with one result completes: each active member's destination receives one
value and its exception flags may rise, every member goes on to PC + 8, and, in a launch that is not checked for races, nothing
else changes (R26, R86, R220-R241). -/
def Obligations.FloatWords : Prop :=
  ∀ (i : Instr) (d : Operand), floatDest i = some d → ∀ (s : State) (e : Site), Runs i s e →
    ∃ (t : State) (v : Thread → Word × BitVec 5), Completes i s t
      ∧ GroupGoes (s.noted i e) t e (fun th => ((putD d (v th).1 th).flag (v th).2).next)
      ∧ ((s.launchOf e.b).race = false → OnlyGroup s t e)

/-- The rounding float forms give, in each element, the correctly rounded result of the inputs' values, and raise the union of the
elements' flags (R80, R83, R86, R223). -/
def Obligations.RoundedResults : Prop :=
  ∀ (i : Instr) (m : FMod) (d : Operand) (g : FF → RM → (Operand → Fv) → Res), roundedElem i = some (m, d, g) →
    ∀ (s : State) (e : Site), Runs i s e → ∃ t, Completes i s t
      ∧ GroupGoes (s.noted i e) t e (fun th =>
        let r := fun (k : Nat) => g (ffOf m.fmt) (th.rm m.rm) (fun o =>
          (ffOf m.fmt).input m.ftz (fltEl m.fmt (fltSrc (s.noted i e) e th m.fmt o) k))
        ((putD d (pack (ffOf m.fmt).bits ((List.range m.fmt.ne).map (fun k => (r k).1))) th).flag
          ((List.range m.fmt.ne).foldl (fun fl k => fl ||| (r k).2) 0)).next)

/-- TWOSUM writes the rounded sums to d and their errors to c, whose write wins, and raises the union of the elements' flags; PACK
moves the low bits of the elements (R228, R238). -/
def Obligations.TwosumAndPack : Prop :=
  (∀ (f : Flt4) (s : State) (e : Site), Runs (.twosum f) s e → ∃ t, Completes (.twosum f) s t
      ∧ GroupGoes (s.noted (.twosum f) e) t e (fun th =>
        let ff := ffOf f.m.fmt
        let x := fun (o : Operand) (k : Nat) =>
          ff.input f.m.ftz (fltEl f.m.fmt (fltSrc (s.noted (.twosum f) e) e th f.m.fmt o) k)
        let rs := (List.range f.m.fmt.ne).map (fun k => ff.twosum (th.rm f.m.rm) f.m.ftz (x f.a k) (x f.b k))
        ((putD f.c (pack ff.bits (rs.map (fun r => r.2.1))) (putD f.d (pack ff.bits (rs.map (fun r => r.1))) th)).flag
          (rs.foldl (fun fl r => fl ||| r.2.2) 0)).next)
      ∧ ((s.launchOf e.b).race = false → OnlyGroup s t e))
  ∧ (∀ (f : PackF) (s : State) (e : Site), Runs (.pack f) s e → ∃ t, Completes (.pack f) s t
      ∧ GroupGoes (s.noted (.pack f) e) t e (fun th => (putD f.d (
        let a := e.read (s.noted (.pack f) e) th f.a
        let b := e.read (s.noted (.pack f) e) th f.b
        if f.n4 then pack 4 ((List.range 16).map (fun j => if j < 8 then elem a 8 j else elem b 8 (j - 8)))
        else pack 6 ((List.range 8).map (fun j => elem a 8 j))) th).next)
      ∧ ((s.launchOf e.b).race = false → OnlyGroup s t e))

/-- Both halves of a paired word read before either writes, each half acts where its own guard holds, and the word advances every
member by 8 (R177-R179). -/
def Obligations.PairedWords : Prop :=
  ∀ (i : Instr) (a b : Half), pairHalves i = some (a, b) → ∀ (s : State) (e : Site),
    RunsFor (wordOf i) (pairActive (wordOf i)) s e →
    ∃ t, Completes i s t ∧ GroupGoes (s.noted i e) t e (fun th => (halfDoes th b (halfDoes th a th)).next)
      ∧ ((s.launchOf e.b).race = false → OnlyGroup s t e)

/-! ### Words that do not reach their effect -/

/-- A word without an active member goes on to PC + 8 in every member and, apart from the opening of a chunk, changes nothing
else, whatever its encoding; a rendezvous word is the exception (R26, R183). -/
def Obligations.InactiveWordPasses : Prop :=
  ∀ (w : Word) (act : Thread → Bool) (body : Site → State → State) (s : State) (e : Site), s.site? act = some e → e.act = [] →
    GroupGoes s (issueWith w act body s) e Thread.next ∧ OnlyGroup s (issueWith w act body s) e

/-- A word whose encoding is illegal under the launch's `lanes` takes ILLEGAL, with the lowest subcode, the word in `ctl.eaddr`
and the active members' mask, whatever else it could raise; so does, with subcode 0x07, a SYSWR of a value that its register does not
take, in any thread. A privileged instruction outside the handler thread takes PRIV, when it is not illegal (R183, R184, R341, R345,
R387). -/
def Obligations.IllegalAndPrivilegedWords : Prop :=
  (∀ (w : Word) (act : Thread → Bool) (body : Site → State → State) (s : State) (e : Site) (c : Illegal),
    s.site? act = some e → e.act ≠ [] → illegal e.t.lanes w = some c →
    issueWith w act body s = s.takeFault e.cur 1 c.code.toNat (laneMask e.act) w)
  ∧ (∀ (w : Word) (act : Thread → Bool) (body : Site → State → State) (s : State) (e : Site),
    s.site? act = some e → e.act ≠ [] → illegal e.t.lanes w = none → sysValueBad s e w = true →
    issueWith w act body s = s.takeFault e.cur 1 7 (laneMask e.act) w)
  ∧ (∀ (w : Word) (act : Thread → Bool) (body : Site → State → State) (s : State) (e : Site),
    s.site? act = some e → e.act ≠ [] → illegal e.t.lanes w = none → sysValueBad s e w = false → privileged w = true →
    e.cur.slot ≠ handlerSlot →
    issueWith w act body s = s.takeFault e.cur 0x0F 0 (laneMask e.act) w)

/-- A fault of a group, on a core whose chunk is fresh, that serves no fault and has none queued, in a context that keeps its faults
and has a handler: the group stops at its PC with its reservations cleared, the fault registers hold the cause, the PC, the mask
and the address, and the handler thread starts at `ctl.handler` with every register zero (R342, R343, R344, R346). -/
def Obligations.FaultEntersHandler : Prop :=
  ∀ (s : State) (cur : Cur) (b : Block) (code sub : Nat) (emask eaddr : Word),
    (s.core cur.core).chunk.fresh = true → cur.slot ≠ handlerSlot → s.block? cur.core cur.slot = some b →
    (s.core cur.core).arch.serving = none → (s.core cur.core).arch.faultq = [] →
    (s.ctx (s.ctxOf b)).mode.getLsbD 2 = false → (s.ctx (s.ctxOf b)).handler ≠ 0 →
    let t := s.takeFault cur code sub emask eaddr
    let a := (t.core cur.core).arch
    a.cause = causeWord code sub false ∧ a.epc = cur.pc ∧ a.emask = emask ∧ a.eaddr = eaddr
      ∧ (∃ h, t.thread? cur.core handlerSlot 0 = some h ∧ h.pc = (s.ctx (s.ctxOf b)).handler ∧ h.v = [] ∧ h.p = 0
          ∧ h.wait = .run)
      ∧ (∀ l th, s.thread? cur.core cur.slot l = some th → cur.tids.contains l = true → th.exited = false →
          t.thread? cur.core cur.slot l = some { th with wait := .stopped, resv := none, kept := none })
      ∧ (∀ k, Memory.byte t.mem k = Memory.byte s.mem k)

/-! ### MOV -/

namespace Sys2Proof.Machine

/-- The nodes of level `l` that a group's upward write reaches, with the values of their threads (R55). -/
def movNodes (s : State) (e : Site) (f : MovF) (l : Nat) : List (Nat × List (Thread × Word)) :=
  e.byNode l (e.act.map (fun th => (th, movVal s e th f)))

/-- What an upward write gives a node's register, and the flags of the node's threads: the value on which they agree; with `red` the
tree of R96 over their values by rank; with `acc` the operator on the old value and that tree (R55). -/
def movGives (e : Site) (f : MovF) (l : Nat) (vs : List (Thread × Word)) (old : Word) : WRes :=
  let tree := reduction f.red .rne (atRank (vs.map (fun v => (e.t.rank l e.b.lin v.1.ltid, v.2)))) (e.t.per l)
  let both := redApp f.red .rne old tree.1
  if !f.rd then ((vs.head?.map (fun v => v.2)).getD 0, fNone)
  else if f.acc then (both.1, tree.2 ||| both.2) else tree

/-- The members of a group stand at the next word with their registers as they were, `s.fflags` raised by `fl` of each thread. -/
def GroupFlagged (s t : State) (e : Site) (fl : Nat → FFlags) : Prop :=
  ∀ l th, s.thread? e.cur.core e.cur.slot l = some th → ∃ th', t.thread? e.cur.core e.cur.slot l = some th'
    ∧ th'.v = th.v ∧ th'.p = th.p ∧ th'.frm = th.frm ∧ th'.fflags = th.fflags ||| fl l ∧ th'.exited = th.exited
    ∧ th'.pc = if (e.mem.map (fun m => m.ltid)).contains l then th.pc + 8 else th.pc

/-- The flags of the node that a thread writes. -/
def nodeFlags (ns : List (Nat × List (Thread × Word))) (fl : Nat × List (Thread × Word) → FFlags) (l : Nat) : FFlags :=
  ((ns.find? (fun n => n.2.any (fun v => v.1.ltid == l))).map fl).getD fNone

/-- The thread, and the block, without reservations. -/
def Thread.unresv (th : Thread) : Thread := { th with resv := none }
def Block.unresv (b : Block) : Block := { b with threads := b.threads.map Thread.unresv }

/-- From `s` to `t` a word has written in its block's view only: every byte of memory that `p` takes, the other blocks, reservations
apart, the other chunks with what they hold, the launches, the contexts, and what is in flight stay as they are. A write ends the
reservations on its bytes (R151). -/
def OnlyView (s t : State) (e : Site) (p : Nat → Prop) : Prop :=
  (∀ a, p a → Memory.byte t.mem a = Memory.byte s.mem a)
    ∧ (∀ c sl, c ≠ e.cur.core ∨ sl ≠ e.cur.slot → (t.block? c sl).map Block.unresv = (s.block? c sl).map Block.unresv)
    ∧ (∀ c, { (t.core c).arch with blocks := [] } = { (s.core c).arch with blocks := [] })
    ∧ (∀ c, c ≠ e.cur.core → (t.core c).chunk.ovl = (s.core c).chunk.ovl ∧ (t.core c).chunk.held = (s.core c).chunk.held)
    ∧ t.launches = s.launches ∧ t.ctxs = s.ctxs ∧ t.flights = s.flights ∧ t.ports = s.ports ∧ t.groups = s.groups ∧ t.msix = s.msix

end Sys2Proof.Machine

/-- MOV to a lane register, a predicate, a writable special register or `s.none` copies its source after the `w` step. MOV to a scoped
register whose threads agree in every node, and whose store fits: each node's register receives the common value, the reduction of its
threads, or the old value combined with it; every other scoped register, and everything else, stays. At a level of the block the
register is the block's own; above it, it is eight bytes of COMMITTED memory in the block's view, and under EXACT an `acc` waits for the
phase merge and the block goes on reading the old value. Threads of one node that disagree in a plain upward write take SWRITE, and
nothing is written (R55, R56, R61, R205). That a constant with a floating-point `red` is read in the operator's format is the model's
choice (log 105). -/
def Obligations.MovWrites : Prop :=
  (∀ (f : MovF) (s : State) (e : Site), (∀ l i, f.d ≠ .scoped l i) → Runs (.mov f) s e →
    ∃ t, Completes (.mov f) s t
      ∧ GroupGoes (s.noted (.mov f) e) t e (fun th =>
        (putD f.d (assemble f.w f.sg [elem (e.read (s.noted (.mov f) e) th f.a) (wBits f.w) 0]) th).next)
      ∧ ((s.launchOf e.b).race = false → OnlyGroup s t e))
  ∧ (∀ (f : MovF) (l : BitVec 4) (i : BitVec 5) (s : State) (e : Site), f.d = .scoped l i → Runs (.mov f) s e →
    let ns := movNodes s e f l.toNat
    let key := fun (n : Nat × List (Thread × Word)) => nodeKey l.toNat n.1 i.toNat
    (f.rd = true ∨ ∀ n ∈ ns, disagreeing n.2 = []) → storesFit s e [] = true → l.toNat ≤ e.t.blockLvl →
    ∃ (t : State) (b' : Block), Completes (.mov f) s t
      ∧ ((s.launchOf e.b).race = false → (e.b.threads.map (fun th => th.ltid)).Nodup →
        let gives := fun (n : Nat × List (Thread × Word)) => movGives e f l.toNat n.2 (Tab.get 0 e.b.nregs (key n))
        t.block? e.cur.core e.cur.slot = some b'
        ∧ (∀ n ∈ ns, Tab.get 0 b'.nregs (key n) = (gives n).1)
        ∧ (∀ k, (∀ n ∈ ns, k ≠ key n) → Tab.get 0 b'.nregs k = Tab.get 0 e.b.nregs k)
        ∧ GroupFlagged s t e (nodeFlags ns (fun n => (gives n).2))
        ∧ OnlyBlock s t e ∧ Holds s t e.cur.core [] ∧ BlockGoes s t e (fun b => { b with nregs := b'.nregs })))
  ∧ (∀ (f : MovF) (l : BitVec 4) (i : BitVec 5) (s : State) (e : Site) (k : Nat), f.d = .scoped l i → Runs (.mov f) s e →
    let vs := e.act.map (fun th => (th, movVal s e th f))
    let later := f.acc && s.isExact e.cur.slot e.b
    (f.rd = true ∨ disagreeing vs = []) → (f.acc = true → scopedErr s e f.d = none) →
    storesFit s e (movCells s e f l.toNat i.toNat) = true → e.t.blockLvl < l.toNat → e.cur.slot ≠ handlerSlot →
    homeKey (s.launchOf e.b) e.b.lin l.toNat i.toNat = some k →
    ∃ (t : State) (b' : Block), Completes (.mov f) s t
      ∧ ((s.launchOf e.b).race = false → (e.b.threads.map (fun th => th.ltid)).Nodup →
        let read := fun (t : State) (a n : Nat) => comRead t e.cur.core e.cur.slot a n
        let gives := movGives e (if later then { f with acc := false } else f) l.toNat vs (leWord (read s k 8))
        t.block? e.cur.core e.cur.slot = some b'
        ∧ (later = false → read t k 8 = natLe 8 gives.1.toNat ∧ b'.pops = e.b.pops)
        ∧ (f.rd = true → later = true → read t k 8 = read s k 8 ∧ b'.pops = e.b.pops ++ [.acc k f.red gives.1 e.tids])
        ∧ (∀ a, a < k ∨ k + 8 ≤ a → read t a 1 = read s a 1)
        ∧ GroupFlagged s t e (fun lt => if e.tids.contains lt then gives.2 else fNone)
        ∧ OnlyView s t e (fun _ => True) ∧ Holds s t e.cur.core []
        ∧ BlockGoes s t e (fun b => { b with pover := b'.pover, plines := b'.plines, pops := b'.pops })))
  ∧ (∀ (f : MovF) (l : BitVec 4) (i : BitVec 5) (s : State) (e : Site) (n : Nat × List (Thread × Word))
    (ns : List (Nat × List (Thread × Word))), f.d = .scoped l i → f.rd = false → Runs (.mov f) s e →
    (movNodes s e f l.toNat).filter (fun n => !(disagreeing n.2).isEmpty) = n :: ns →
    Completes (.mov f) s (s.takeFault e.cur 5 0 (laneMask ((n :: ns).flatMap (fun n => disagreeing n.2)))
      ((n.2.head?.map (fun v => v.2)).getD 0)))

/-! ### Control -/

/-- BRA sends each active thread to PC + sext(off); the others go on to PC + 8 (R213). -/
def Obligations.BraGoes : Prop :=
  ∀ (f : BraF) (s : State) (e : Site), Runs (.bra f) s e → ∃ t, Completes (.bra f) s t
    ∧ GroupGoes (s.noted (.bra f) e) t e (fun th => { th with pc := th.pc + f.off.signExtend 64 })
    ∧ ((s.launchOf e.b).race = false → OnlyGroup s t e)

/-- BRU: when the condition is equal in every active thread, all go to the target, or all to PC + 8; otherwise UNIFORM is taken, with
the members that differ from the reference member in the mask (R35, R36, R214). -/
def Obligations.BruGoes : Prop :=
  ∀ (f : CtlF) (s : State) (e : Site), Runs (.bru f) s e →
    let c := fun (th : Thread) => (e.read s th f.a != 0) != f.neg
    ((∀ th ∈ e.act, c th = c e.ref) → ∃ t, Completes (.bru f) s t
      ∧ GroupGoes (s.noted (.bru f) e) t e (fun th => if c th then { th with pc := th.pc + f.off.signExtend 64 } else th.next)
      ∧ ((s.launchOf e.b).race = false → OnlyGroup s t e))
    ∧ ((∃ th ∈ e.act, c th ≠ c e.ref) →
      Completes (.bru f) s (s.takeFault e.cur 2 0 (laneMask (e.act.filter (fun th => c th != c e.ref))) (boolWord (c e.ref))))

namespace Sys2Proof.Machine

/-- The transfers to a register target, and whether they link (R215). -/
def jumpForm : Instr → Option (CtlF × Bool)
  | .jmp f => some (f, false)
  | .calli f => some (f, true)
  | .ret f => some (f, false)
  | _ => none

end Sys2Proof.Machine

/-- JMP, CALLI and RET: when the active threads' targets are equal and aligned, all go there, and CALLI first writes PC + 8 to its
register; equal targets that are misaligned take ALIGN; different ones take UNIFORM. CALL links and goes to PC + sext(off); PCGET
writes PC + sext(off); NOP has no effect (R36, R165, R215, R219). -/
def Obligations.JumpsGo : Prop :=
  (∀ (i : Instr) (f : CtlF) (link : Bool), jumpForm i = some (f, link) → ∀ (s : State) (e : Site), Runs i s e →
    let g := fun (th : Thread) => e.read s th f.a + f.off.signExtend 64
    ((∀ th ∈ e.act, g th = g e.ref ∧ g th &&& 7 = 0) → ∃ t, Completes i s t
      ∧ GroupGoes (s.noted i e) t e (fun th => { (if link then putD f.a (th.pc + 8) th else th) with pc := g th })
      ∧ ((s.launchOf e.b).race = false → OnlyGroup s t e))
    ∧ ((∀ th ∈ e.act, g th = g e.ref ∧ g th &&& 7 ≠ 0) →
      Completes i s (s.takeFault e.cur 7 0 (laneMask e.act) (g e.ref)))
    ∧ ((∃ th ∈ e.act, g th ≠ g e.ref) →
      Completes i s (s.takeFault e.cur 2 0 (laneMask (e.act.filter (fun th => g th != g e.ref))) (g e.ref))))
  ∧ (∀ (f : CtlF) (s : State) (e : Site), Runs (.call f) s e → ∃ t, Completes (.call f) s t
    ∧ GroupGoes (s.noted (.call f) e) t e (fun th => { putD f.a (th.pc + 8) th with pc := th.pc + f.off.signExtend 64 })
    ∧ ((s.launchOf e.b).race = false → OnlyGroup s t e))
  ∧ (∀ (f : CtlF) (s : State) (e : Site), Runs (.pcget f) s e → ∃ t, Completes (.pcget f) s t
    ∧ GroupGoes (s.noted (.pcget f) e) t e (fun th => (putD f.a (th.pc + f.off.signExtend 64) th).next)
    ∧ ((s.launchOf e.b).race = false → OnlyGroup s t e))
  ∧ (∀ (g : Guard) (s : State) (e : Site), Runs (.nop g) s e → ∃ t, Completes (.nop g) s t
    ∧ GroupGoes (s.noted (.nop g) e) t e Thread.next ∧ ((s.launchOf e.b).race = false → OnlyGroup s t e))

/-- COSWAP with aligned targets: the pair (target, value) and (PC + 8, v126) change places; a misaligned target takes ALIGN (R37,
R216). -/
def Obligations.CoswapExchanges : Prop :=
  ∀ (f : One) (i : BitVec 7) (s : State) (e : Site), f.o = .lane i → i.toNat < 125 → Runs (.coswap f) s e →
    ((∀ th ∈ e.act, th.lane i.toNat &&& 7 = 0) → ∃ t, Completes (.coswap f) s t
      ∧ (∀ th l, s.thread? e.cur.core e.cur.slot l = some th → e.tids.contains l = true → (e.mem.map (fun m => m.ltid)).contains l = true →
        ∃ th', t.thread? e.cur.core e.cur.slot l = some th' ∧ th'.pc = th.lane i.toNat ∧ th'.lane i.toNat = th.pc + 8
          ∧ th'.lane (i.toNat + 1) = th.lane 126 ∧ th'.lane 126 = th.lane (i.toNat + 1)
          ∧ ∀ j, j ≠ i.toNat → j ≠ i.toNat + 1 → j ≠ 126 → th'.lane j = th.lane j)
      ∧ OnlyGroup s t e)
    ∧ (∀ (th : Thread) (ths : List Thread), e.act.filter (fun th => th.lane i.toNat &&& 7 != 0) = th :: ths →
      Completes (.coswap f) s (s.takeFault e.cur 7 0 (laneMask (th :: ths)) (th.lane i.toNat)))

/-- EXIT ends every active thread for good, its reservation with it, and the other members go on; then its arrivals are withdrawn:
inside the block at once, and above it at once under EXACT, and otherwise when the exit is final, with the chunk, which holds the
withdrawal. The chunk ends when the block has no thread left, and the checks of R34 are made. Of a block that keeps a thread, in a
launch that no block of which raises MEMBER, nothing else changes. A withdrawal removes the threads from an object's arrivals, and
leaves an object alone that holds none of them (R34, R133, R137, R217, R261). -/
def Obligations.ExitEndsThreads : Prop :=
  (∀ (g : Guard) (s : State) (e : Site), Runs (.exit g) s e → ∃ s2 : State,
    GroupGoes s s2 e (fun th => { th with exited := true, resv := none, acted := false })
    ∧ OnlyBlock { s with launches := s2.launches } s2 e
    ∧ (s.isExact e.cur.slot e.b = true → s2.launches = (s.withdrawHigh e.cur.core e.cur.slot e.tids).launches
      ∧ Holds s s2 e.cur.core [])
    ∧ (s.isExact e.cur.slot e.b = false → s2.launches = s.launches
      ∧ Holds s s2 e.cur.core (if e.cur.slot = handlerSlot then [] else [.exits e.cur.slot e.tids]))
    ∧ BlockGoes s s2 e (fun b => if e.cur.slot = handlerSlot then b
      else { b with bars := Tab.mapV b.bars (fun _ o => dropArrivals (e.tids.map (threadUid e.b)) o) })
    ∧ Completes (.exit g) s ((if s2.allExited e.cur.core e.cur.slot && !s2.isExact e.cur.slot e.b
         then { s2.closeAfter e.cur.core with cur := s2.cur } else s2).memberAfter e.b.launch)
    ∧ (s2.allExited e.cur.core e.cur.slot = false →
      (∀ x ∈ s2.blocksOf e.b.launch, s2.memberGroup x.1 x.2.1 x.2.2 = none) → Completes (.exit g) s s2))
  ∧ (∀ (c sl x : Nat) (tids : List Nat) (s : State), s.release c x (.exits sl tids) = s.withdrawHigh c sl tids)
  ∧ (∀ (c sl : Nat) (tids : List Nat) (s : State) (b : Block) (l : Nat), s.block? c sl = some b →
    (s.withdrawHigh c sl tids).launch? l = (s.launch? l).map (fun ln => if l = b.launch then { ln with
      nodes := Tab.mapV ln.nodes (fun _ n => { n with bar := dropArrivals (tids.map (threadUid b)) n.bar }) } else ln))
  ∧ (∀ (us : List Nat) (o : Bar), (dropArrivals us o).who = o.who.filter (fun u => !us.contains u)
    ∧ ((∃ u ∈ o.who, u ∈ us) → dropArrivals us o = { o with
      who := (dropArrivals us o).who, arrived := (dropArrivals us o).who.length })
    ∧ ((∀ u ∈ o.who, u ∉ us) → dropArrivals us o = o))

/-- YIELD sets the fairness counter of its block in its quadrant to the launch's threshold, closes the open window, and changes
nothing else (R218). -/
def Obligations.YieldOpensWindow : Prop :=
  ∀ (g : Guard) (s : State) (e : Site), Runs (.yield g) s e → ∃ t, Completes (.yield g) s t
    ∧ (∀ l, t.thread? e.cur.core e.cur.slot l = (s.thread? e.cur.core e.cur.slot l).map (fun th =>
      let m := if (e.mem.map (fun m => m.ltid)).contains th.ltid then th.next else th
      if th.quad = e.cur.quad then { m with inWin := false } else m))
    ∧ OnlyBlock s t e ∧ Holds s t e.cur.core []
    ∧ BlockGoes s t e (fun b => { b with fair := b.fair.set e.cur.quad ⟨(s.launchOf e.b).fairThr, 0⟩ })

/-! ### Rendezvous -/

namespace Sys2Proof.Machine

/-- The rendezvous operations. -/
def isRendezvous : Instr → Bool
  | .vote _ | .ballot _ | .shfl _ | .lshift _ | .scan _ | .reduce _ | .compact _ | .match_ _ | .elect _ => true
  | _ => false

end Sys2Proof.Machine

namespace Sys2Proof.Machine

/-- What VOTE, BALLOT, SHFL, LSHIFT, COMPACT, MATCH and ELECT give the one contributor of a node of level 0, with its operands
(R209, R210, R245, R246, R248-R250). -/
def aloneEffect : Instr → Option (Word → Word → Thread → Thread)
  | .vote f => some (fun a _ => putD f.d (boolWord (decide (2 ≤ f.mode.toNat) || a != 0)))
  | .ballot f => some (fun a _ => putD f.d (if f.imm.toNat = 0 ∧ a ≠ 0 then 1 else 0))
  | .shfl f => some (fun a _ => putD f.d a)
  | .lshift f => some (fun a b => putD f.d (if f.imm.toNat = 0 then a else b))
  | .compact f => some (fun a _ th => putD f.b (if a ≠ 0 then 1 else 0) (putD f.d 0 th))
  | .match_ f => some (fun _ _ => putD f.d (if f.imm.toNat = 0 then 1 else 0))
  | .elect f => some (fun _ _ => putD f.d 1)
  | _ => none

/-- A thread stands parked at an operation, as an active member or not, with its operands. -/
def Thread.parkAt (th : Thread) (i : Instr) (act : Bool) (a b : Word) : Thread :=
  { th with wait := .parked i act a b, acted := false }

/-- The state in which a group has arrived at a rendezvous below CLUSTER. -/
def rendArrived (s : State) (e : Site) (i : Instr) : State :=
  (s.noted i e).mapTids e.cur.core e.cur.slot (e.mem.map (fun m => m.ltid)) (fun th =>
    th.parkAt i (fullActive (wordOf i) th) (rendSrc i s e th) (e.read s th (rendOperands i).2))

end Sys2Proof.Machine

/-- At level 0 a rendezvous operation is complete at once: each active thread is the one contributor of its node. At a level above 0
bound to CORE or below every member parks with its operands, active or not; then the checks of R34 are made. When the group is the
last of a node of such a level inside its block to arrive, the operation completes there: with the arrived threads as the parties
each active member of the node receives the result and goes on to the next word (R32, R209, R210, R243-R250). -/
def Obligations.RendezvousArrives : Prop :=
  (∀ (i : Instr), isRendezvous i = true → rendLvl i = 0 → ∀ (s : State) (e : Site), Runs i s e →
    ∃ t, Completes i s t
      ∧ GroupGoes (s.noted i e) t e (fun th =>
        let p : Party := ⟨e.cur.core, e.cur.slot, th, 0, true, rendSrc i (s.noted i e) e th,
          e.read (s.noted i e) th (rendOperands i).2⟩
        (rendEffect i 1 [p] p th).next)
      ∧ (∀ f, aloneEffect i = some f → GroupGoes (s.noted i e) t e (fun th =>
        (f (rendSrc i (s.noted i e) e th) (e.read (s.noted i e) th (rendOperands i).2) th).next))
      ∧ ((s.launchOf e.b).race = false → OnlyGroup s t e))
  ∧ (∀ (i : Instr), isRendezvous i = true → rendLvl i ≠ 0 → ∀ (s : State) (e : Site), Runs i s e →
    (e.t.bind (rendLvl i)).code < 4 → Completes i s ((rendArrived s e i).memberAfter e.b.launch)
      ∧ ((s.launchOf e.b).race = false → OnlyGroup s (rendArrived s e i) e
        ∧ (∀ l, (rendArrived s e i).thread? e.cur.core e.cur.slot l = (s.thread? e.cur.core e.cur.slot l).map (fun th =>
          if (e.mem.map (fun m => m.ltid)).contains th.ltid
          then th.parkAt i (fullActive (wordOf i) th) (rendSrc i s e th) (e.read s th (rendOperands i).2) else th))))
  ∧ (∀ (i : Instr), isRendezvous i = true → rendLvl i ≠ 0 → ∀ (s : State) (e : Site) (m : Thread), Runs i s e →
    (e.t.bind (rendLvl i)).code < 4 → rendLvl i ≤ e.t.blockLvl → (s.launchOf e.b).race = false →
    (e.b.threads.map (fun th => th.ltid)).Nodup → m ∈ e.mem → (∀ th ∈ e.mem, th.pc = m.pc) →
    (∀ th ∈ e.b.threads, th.live = true → e.node th (rendLvl i) = e.node m (rendLvl i) →
      th ∈ e.mem ∨ (th.parkedAt = some i ∧ th.pc = m.pc)) →
    (∀ x ∈ (rendArrived s e i).blocksOf e.b.launch, (rendArrived s e i).memberGroup x.1 x.2.1 x.2.2 = none) →
    ∃ (t : State) (ps : List Party), Completes i s (rendArrived s e i)
      ∧ Completes (.rendezvousComplete e.cur.core e.cur.slot m.ltid) (rendArrived s e i) t
      ∧ ps.map (fun p => p.th.ltid) = (e.b.threads.filter (fun th => th.live && e.node th (rendLvl i) == e.node m (rendLvl i))).map
        (fun th => th.ltid)
      ∧ (∀ th ∈ e.act, e.node th (rendLvl i) = e.node m (rendLvl i) → ∃ p ∈ ps, p.th.ltid = th.ltid ∧ p.act = true
        ∧ p.a = rendSrc i s e th ∧ p.b = e.read s th (rendOperands i).2 ∧ p.rank = e.t.rank (rendLvl i) e.b.lin th.ltid
        ∧ ∃ th', t.thread? e.cur.core e.cur.slot th.ltid = some th' ∧ th'.pc = th.pc + 8 ∧ th'.wait = .run
          ∧ th'.v = (rendEffect i (e.t.per (rendLvl i)) ps p th).v ∧ th'.p = (rendEffect i (e.t.per (rendLvl i)) ps p th).p
          ∧ th'.fflags = (rendEffect i (e.t.per (rendLvl i)) ps p th).fflags))

/-- The completion of a parked instance below CLUSTER: each party that arrived active receives the operation's result over the
parties, and every party goes on to the next word (R32, R209, R210, R243-R250). -/
def Obligations.RendezvousCompletes : Prop :=
  ∀ (c sl tid : Nat) (s : State) (b : Block) (i : Instr) (t : Tree) (ps : List Party),
    s.block? c sl = some b → s.parties? c sl tid = some (i, t, ps) → rendLvl i ≤ t.blockLvl →
    ∃ s', Completes (.rendezvousComplete c sl tid) s s'
      ∧ (∀ l, s'.thread? c sl l = (s.thread? c sl l).map (fun th =>
        match ps.find? (fun p => p.core == c && p.slot == sl && p.th.ltid == th.ltid && th.live) with
        | some p => (if p.act then rendEffect i (t.per (rendLvl i)) ps p th else th).depart (threadUid b th.ltid)
            (partyClock s ps)
        | none => th))
      ∧ (∀ k, Memory.byte s'.mem k = Memory.byte s.mem k)

namespace Sys2Proof.Machine

/-- The left-nested reduction of some values (R65). -/
def leftNested (op : RedOp) (xs : List Word) : Word :=
  match xs with
  | [] => 0
  | x :: xs => xs.foldl (fun a v => (redApp op .rne a v).1) x

/-- The rank that SHFL names as a thread's source (R245). -/
def shflNames (mode : Nat) (p : Party) (r : Nat) : Prop :=
  match mode with
  | 0 => r = p.b.toNat
  | 1 => r + p.b.toNat = p.rank
  | 2 => r = p.rank + p.b.toNat
  | _ => r = (BitVec.ofNat 64 p.rank ^^^ p.b).toNat

/-- The rank that LSHIFT names as a thread's source (R246). -/
def lshiftNames (down : Bool) (k : Nat) (p : Party) (r : Nat) : Prop := if down then r = p.rank + k else r + k = p.rank

/-- A result taken from the contributor of a named rank below `n`, or else the thread's own `own`. -/
def FromNamed (n : Nat) (ps : List Party) (names : Nat → Prop) (own v : Word) : Prop :=
  (∀ q ∈ ps, q.act = true → q.rank < n → names q.rank → v = q.a)
    ∧ ((∀ q ∈ ps, q.act = true → q.rank < n → ¬ names q.rank) → v = own)

/-- The contributors' values below rank `m`, in ascending rank. -/
def valuesBelow (ps : List Party) (m : Nat) : List Word := (List.range m).filterMap (valueAt ps)

end Sys2Proof.Machine

/-- ELECT writes 1, or true, to the contributor of lowest rank, and 0, or false, to every other contributor; COMPACT gives each
contributor the number of contributors of lower rank with a ≠ 0, and in b the number of all of them, whose write wins; MATCH gives
each contributor the mask of the contributors in its window of 64 ranks whose a equals its own; VOTE gives all, any or uni of a ≠ 0,
and BALLOT the mask of a ≠ 0. SHFL and LSHIFT give the a of the contributor whose rank they name, or else the thread's own a, and
the thread's own b. REDUCE gives the tree of R96 over the contributors by rank, with its flags; SCAN the value of R97 at the thread's
rank, with the flags of all; over an integer operator these are the left-nested combinations of the contributors' values in
ascending rank (R96, R97, R209, R210, R245, R246, R247, R248, R249, R250). -/
def Obligations.RankedResults : Prop :=
  (∀ (n : Nat) (ps : List Party) (p : Party) (th : Thread), p ∈ ps → p.act = true →
    (∀ f : LvlF, rendEffect (.elect f) n ps p th
      = putD f.d (if ∀ q ∈ ps, q.act = true → p.rank ≤ q.rank then 1 else 0) th)
    ∧ (∀ f : LvlF, rendEffect (.compact f) n ps p th
      = putD f.b (BitVec.ofNat 64 (ps.filter (fun q => q.act && q.a != 0)).length)
        (putD f.d (BitVec.ofNat 64 (ps.filter (fun q => q.act && q.a != 0 && decide (q.rank < p.rank))).length) th))
    ∧ (∀ f : LvlF, ∃ m : Word, rendEffect (.match_ f) n ps p th = putD f.d m th
      ∧ (∀ j, m.getLsbD j = true ↔ ∃ q ∈ ps, q.act = true ∧ q.rank = 64 * f.imm.toNat + j ∧ j < 64 ∧ q.a = p.a)
      ∧ (p.rank / 64 = f.imm.toNat → m.getLsbD (p.rank % 64) = true))
    ∧ (∀ f : LvlF, ∃ r : Bool, rendEffect (.vote f) n ps p th = putD f.d (boolWord r) th
      ∧ (f.mode.toNat = 0 → (r = true ↔ ∀ q ∈ ps, q.act = true → q.a ≠ 0))
      ∧ (f.mode.toNat = 1 → (r = true ↔ ∃ q ∈ ps, q.act = true ∧ q.a ≠ 0))
      ∧ (2 ≤ f.mode.toNat → (r = true ↔ (∀ q ∈ ps, q.act = true → q.a ≠ 0) ∨ ∀ q ∈ ps, q.act = true → q.a = 0)))
    ∧ (∀ f : LvlF, ∃ m : Word, rendEffect (.ballot f) n ps p th = putD f.d m th
      ∧ ∀ j, m.getLsbD j = true ↔ ∃ q ∈ ps, q.act = true ∧ q.rank = 64 * f.imm.toNat + j ∧ j < 64 ∧ q.a ≠ 0)
    ∧ ((∀ q ∈ ps, ∀ r ∈ ps, q.act = true → r.act = true → q.rank = r.rank → q = r) →
      (∀ f : LvlF, ∃ v, rendEffect (.shfl f) n ps p th = putD f.d v th
        ∧ FromNamed n ps (shflNames f.mode.toNat p) p.a v)
      ∧ (∀ f : LvlF, ∃ v, rendEffect (.lshift f) n ps p th = putD f.d v th
        ∧ FromNamed n ps (lshiftNames (f.mode != 0) f.imm.toNat p) p.b v))
    ∧ (∀ f : ScanF, rendEffect (.reduce f) n ps p th = (putD f.d (reduction f.red f.rm (valueAt ps) n).1 th).flag
        (reduction f.red f.rm (valueAt ps) n).2)
    ∧ (∀ f : ScanF, rendEffect (.scan f) n ps p th = (putD f.d (scanAt f ps p.rank).1 th).flag
        (unionFlags ((ps.filter (fun q => q.act)).map (fun q => scanAt f ps q.rank)))))
  ∧ (∀ (op : RedOp) (rm : RM) (x : Nat → Option Word) (lo k : Nat),
    redTree op rm x lo (k + 1) = redJoin op rm (redTree op rm x lo k) (redTree op rm x (lo + 2 ^ k) k))
  ∧ (∀ (op : RedOp) (rm : RM) (ps : List Party) (n : Nat), redFmt op = none → n ≤ 2 ^ 63 →
    reduction op rm (valueAt ps) n = (leftNested op (valuesBelow ps (2 ^ treeLog n)), fNone) ∧ n ≤ 2 ^ treeLog n)
  ∧ (∀ (f : ScanF) (ps : List Party) (r : Nat), redFmt f.red = none → r + 1 < 2 ^ 32 →
    scanAt f ps r = (leftNested f.red (valuesBelow ps (if f.excl then r else r + 1)), fNone))

/-! ### Memory -/

namespace Sys2Proof.Machine

/-- The byte belongs to no page-table entry through which the accesses of a group are translated: the accessed and dirty bits of
those entries may rise (R380). -/
def LeafFree (rs : List Acc) (a : Nat) : Prop :=
  ∀ r ∈ rs, ∀ x, Target.main x ∈ r.2.2 → a < x.ptr ∨ x.ptr + 8 ≤ a

/-- From `s` to `t` accesses have left their traces only: translations, tracking and copies. -/
def OnlyTraces (s t : State) (rs : List Acc) : Prop :=
  (∀ a, LeafFree rs a → Memory.byte t.mem a = Memory.byte s.mem a)
    ∧ (∀ c, (t.core c).arch = (s.core c).arch ∧ (t.core c).chunk.ovl = (s.core c).chunk.ovl
        ∧ (t.core c).chunk.held = (s.core c).chunk.held)
    ∧ t.launches = s.launches ∧ t.ctxs = s.ctxs ∧ t.flights = s.flights ∧ t.ports = s.ports ∧ t.groups = s.groups ∧ t.msix = s.msix

/-- The accesses of a group pass their checks: `rs` are the accesses, and no walk met an entry that has changed since it was read (R124,
R380). -/
def Passes (s : State) (e : Site) (req : Thread → List Req) (rs : List Acc) : Prop :=
  checkGroup s e req = .ok rs ∧ walksStale (s.noteWalks e req true) rs = false

/-- The members of a group stand at the next word, with their registers as they were. -/
def GroupAdvances (s t : State) (e : Site) : Prop :=
  ∀ l th, s.thread? e.cur.core e.cur.slot l = some th → ∃ th', t.thread? e.cur.core e.cur.slot l = some th'
    ∧ th'.v = th.v ∧ th'.p = th.p ∧ th'.frm = th.frm ∧ th'.fflags = th.fflags ∧ th'.exited = th.exited
    ∧ th'.pc = if (e.mem.map (fun m => m.ltid)).contains l then th.pc + 8 else th.pc

/-- `GroupGoes`, reservations apart: a write ends those on the bytes that it writes (R151). -/
def GroupGoesFree (s t : State) (e : Site) (f : Thread → Thread) : Prop :=
  ∀ l, (t.thread? e.cur.core e.cur.slot l).map Thread.unresv = (s.thread? e.cur.core e.cur.slot l).map (fun th =>
    (if (e.mem.map (fun m => m.ltid)).contains th.ltid then (if e.active th then f th else th.next) else th).unresv)

/-- A load: address operand, offset, bytes, cache policy, use, the value read, and what a thread does with it. -/
structure LoadShape where
  a   : Operand
  off : BitVec 20
  n   : Nat
  cp  : Nat
  use : Use
  val : State → Site → Acc → Nat
  put : Acc → Nat → Thread → Thread

/-- What a thread reads at its address. -/
def readAt (s : State) (e : Site) (r : Acc) (n : Nat) : Nat :=
  leNat (readTarget s e.cur.core e.cur.slot r.1.ltid (accTarget r) n)

/-- The loads (R251, R252, R258); an LDP of a RELEASE or STREAM page takes the half that it has read before as it was then (R127). -/
def loadShape : Instr → Option LoadShape
  | .ld f => some ⟨f.a, f.off, MemW.n f.w, f.cp.toNat, .plain, fun s e r => readAt s e r (MemW.n f.w),
      fun _ v => putD f.d (loadValue (MemW.n f.w) f.sx v)⟩
  | .ldp f => some ⟨f.a, f.off, 16, f.x.toNat, .plain, fun s e r => match keptHalf r with
      | none => readAt s e r 16
      | some (true, w) => readAt s e r 16 % 2 ^ 64 + w.toNat * 2 ^ 64
      | some (false, w) => w.toNat + readAt s e r 16 / 2 ^ 64 * 2 ^ 64,
    fun _ v th => { (match f.d with
      | .lane i => (((th.setLane i.toNat (BitVec.ofNat 64 v)).setLane (i.toNat + 1) (BitVec.ofNat 64 (v / 2 ^ 64))).cleared
        (.lane i)).cleared (.lane (i + 1))
      | _ => th) with kept := none }⟩
  | .lr f => some ⟨f.a, f.off, MemW.n f.w, f.cp.toNat, .committed, fun s e r => readAt s e r (MemW.n f.w), fun r v th =>
      { putD f.d (loadValue (MemW.n f.w) f.sx v) th with resv := some ((accTarget r).key, MemW.n f.w) }⟩
  | _ => none

/-- The effective addresses of a group, as accesses of `n` bytes aligned to `n` (R122, R251). -/
def reqAt (s : State) (e : Site) (a : Operand) (off : BitVec 20) (n : Nat) (need : Need) (use : Use) (th : Thread) : List Req :=
  [⟨e.read s th a + off.signExtend 64, n, n, need, use⟩]

/-- The state in which the loads of a group read: the walks have marked their entries, and the traces of the reads have been left. -/
def loadNoted (s : State) (e : Site) (l : LoadShape) (rs : List Acc) : State :=
  (((s.noteWalks e (reqAt s e l.a l.off l.n .read l.use) true).acts e).noteSources e [l.a]).noteLoads e rs l.n l.cp
    (l.use == .committed)

/-- The 64-bit words that an access of `n` bytes reads belong to no page-table entry in use. -/
def WordsFree (rs : List Acc) (r : Acc) (n : Nat) : Prop :=
  ∀ a, (accTarget r).key / 8 * 8 ≤ a → a < (accTarget r).key + n + 8 → LeafFree rs a

/-- A store: address operand, offset, bytes, and the bytes that a thread stores. -/
structure StoreShape where
  a   : Operand
  off : BitVec 20
  n   : Nat
  val : State → Site → Thread → List Byte

/-- The stores (R252). -/
def storeShape : Instr → Option StoreShape
  | .st f => some ⟨f.a, f.off, MemW.n f.w, fun s e th => natLe (MemW.n f.w) (e.read s th f.d).toNat⟩
  | .stp f => some ⟨f.a, f.off, 16, fun _ _ th => match f.d with
    | .lane i => natLe 8 (th.lane i.toNat).toNat ++ natLe 8 (th.lane (i.toNat + 1)).toNat
    | _ => []⟩
  | _ => none

/-- The access writes COMMITTED memory at byte `a`. -/
def covers (n a : Nat) (r : Acc) : Bool :=
  (accTarget r).kind == 0 && decide ((accTarget r).key ≤ a) && decide (a < (accTarget r).key + n)

/-- The writes that a store of `bs` at an address of a RELEASE or STREAM page is held as: of 16 bytes, its 64-bit halves, and which
is performed first is not fixed (R123, R127). -/
def heldStores (s : State) (r : Acc) (bs : List Byte) : List Held :=
  let st := (accTarget r).kind == 2
  let k := (accTarget r).key
  if bs.length ≤ 8 then [.store k bs st s.tick]
  else if Config.freePick s.tick % 2 = 0 then [.store k (bs.take 8) st s.tick, .store (k + 8) (bs.drop 8) st s.tick]
  else [.store (k + 8) (bs.drop 8) st s.tick, .store k (bs.take 8) st s.tick]

/-- The stores to RELEASE and STREAM pages that a slot's chunk, or its phase under EXACT, holds. -/
def heldOf (s : State) (c slot : Nat) : List Held :=
  match s.block? c slot with
  | some b => if s.isExact slot b then b.pheld else (s.core c).chunk.held
  | none => []

end Sys2Proof.Machine

/-- LD, LDP and LR complete when every access of the group passes its checks: each active thread's destination receives the
little-endian bytes that stand at its address as the thread reads them, extended as the form says, and LR sets the thread's
reservation; every member goes on to the next word. An LDP of a RELEASE or STREAM page makes two reads of 64 bits: it first reads one
half of each such address, in an order that is not fixed, and waits at its word, where it reads the rest. In a launch that is not
checked for races these are the bytes that it would read in the state before the word, unless they are those of a page-table entry
that the word uses, and every byte of memory, apart from accessed and dirty bits of those entries, reads as before (R123, R124, R127,
R251, R252, R258, R380). -/
def Obligations.LoadWords : Prop :=
  (∀ (i : Instr) (l : LoadShape), loadShape i = some l → ∀ (s : State) (e : Site) (rs : List Acc), Runs i s e →
    Passes s e (reqAt s e l.a l.off l.n .read l.use) rs → (l.n = 16 → rs.any halfDue = false) →
    ∃ t : State, Completes i s t
      ∧ GroupGoes (loadNoted s e l rs) t e (fun th => (match rs.find? (fun (r : Acc) => r.1.ltid == th.ltid) with
        | some r => l.put r (l.val (loadNoted s e l rs) e r) th
        | none => th).next)
      ∧ ((s.launchOf e.b).race = false →
        (∀ k, (loadNoted s e l rs).thread? e.cur.core e.cur.slot k = s.thread? e.cur.core e.cur.slot k)
        ∧ (∀ r ∈ rs, WordsFree rs r l.n → l.val (loadNoted s e l rs) e r = l.val s e r)
        ∧ OnlyTraces s (loadNoted s e l rs) rs ∧ OnlyGroup (loadNoted s e l rs) t e))
  ∧ (∀ (f : MemX) (s : State) (e : Site) (rs : List Acc), Runs (.ldp f) s e → (s.launchOf e.b).race = false →
    Passes s e (reqAt s e f.a f.off 16 .read .plain) rs → rs.any halfDue = true →
    ∃ (s1 t : State) (hi : Nat → Bool), Completes (.ldp f) s t ∧ t.cur = none
      ∧ OnlyTraces s s1 rs ∧ OnlyGroup s1 t e
      ∧ (∀ r ∈ rs, WordsFree rs r 16 → readAt s1 e r 16 = readAt s e r 16)
      ∧ ∀ l, t.thread? e.cur.core e.cur.slot l = (s.thread? e.cur.core e.cur.slot l).map (fun th =>
        match (rs.filter halfDue).find? (fun (r : Acc) => r.1.ltid == th.ltid) with
        | some r => { th with kept := some (th.pc, hi th.ltid, BitVec.ofNat 64
            (if hi th.ltid then readAt s1 e r 16 / 2 ^ 64 else readAt s1 e r 16 % 2 ^ 64)) }
        | none => th))

/-- ST and STP complete when every access of the group passes its checks and the stores fit the chunk or the phase store. In a launch
that is not checked for races: in the view of the block, a byte of COMMITTED memory reads as the last store of the group to it, and
every other byte as before; stores to RELEASE and STREAM pages join those that are held, each 64-bit half as a write of its own;
memory itself, apart from accessed and dirty bits, and everything else, does not change (R123, R124, R132, R138, R139, R252, R380). -/
def Obligations.StoreWords : Prop :=
  ∀ (i : Instr) (st : StoreShape), storeShape i = some st → i.wf = true →
    ∀ (s : State) (e : Site) (rs : List Acc), Runs i s e →
    let req := reqAt s e st.a st.off st.n .write .plain
    let bytes := fun (r : Acc) => st.val (s.noteWalks e req true) e r.1
    Passes s e req rs → storesFit s e (committedCells rs st.n) = true → (s.winBlock? e.cur.core e.cur.slot).isSome = true →
    ∃ (t : State) (b' : Block), Completes i s t
      ∧ ((s.launchOf e.b).race = false →
        (∀ a, match rs.reverse.find? (covers st.n a) with
          | some r => comRead t e.cur.core e.cur.slot a 1 = [(bytes r).getD (a - (accTarget r).key) 0]
          | none => LeafFree rs a → comRead t e.cur.core e.cur.slot a 1 = comRead s e.cur.core e.cur.slot a 1)
        ∧ heldOf t e.cur.core e.cur.slot = heldOf s e.cur.core e.cur.slot
          ++ (rs.filter (fun r => (accTarget r).kind != 0)).flatMap (fun r => heldStores s r (bytes r))
        ∧ GroupAdvances s t e ∧ OnlyView s t e (LeafFree rs) ∧ t.block? e.cur.core e.cur.slot = some b'
        ∧ BlockGoes s t e (fun b => { b with pover := b'.pover, plines := b'.plines, pheld := b'.pheld }))

/-- SC completes when every access passes its checks and the stores fit: a thread without a reservation on the unit receives 1 and
stores nothing; one with it, whose unit no other thread of the group names, receives 0 and its value is stored; no reservation of
the group's active threads stays; every other byte reads as before, and nothing else changes (R151, R258). -/
def Obligations.StoreConditional : Prop :=
  ∀ (f : ScF) (s : State) (e : Site) (rs : List Acc), Runs (.sc f) s e → (s.launchOf e.b).race = false →
    (e.b.threads.map (fun th => th.ltid)).Nodup →
    let n := if f.w64 then 8 else 4
    let req := fun (th : Thread) => [(⟨e.read s th f.a, n, n, .write, .committed⟩ : Req)]
    Passes s e req rs → storesFit s e (committedCells rs n) = true → (s.winBlock? e.cur.core e.cur.slot).isSome = true →
    ∃ (t : State) (b' : Block), Completes (.sc f) s t
      ∧ (∀ r ∈ rs, ∀ th, s.thread? e.cur.core e.cur.slot r.1.ltid = some th →
        let alone := ∀ q ∈ rs, q.1.ltid = r.1.ltid
          ∨ (accTarget q).key + n ≤ (accTarget r).key ∨ (accTarget r).key + n ≤ (accTarget q).key
        ∃ v : Word, t.thread? e.cur.core e.cur.slot r.1.ltid = some { (putD f.d v th).next with resv := none }
          ∧ (th.resv ≠ some ((accTarget r).key, n) → v = 1)
          ∧ (th.resv = some ((accTarget r).key, n) → alone → v = 0
            ∧ comRead t e.cur.core e.cur.slot (accTarget r).key n
              = natLe n (e.read (s.noteWalks e req true) r.1 f.b).toNat))
      ∧ (∀ l, e.tids.contains l = false → (t.thread? e.cur.core e.cur.slot l).map Thread.unresv
        = (s.thread? e.cur.core e.cur.slot l).map (fun th =>
          (if (e.mem.map (fun m => m.ltid)).contains l then th.next else th).unresv))
      ∧ (∀ a, LeafFree rs a → rs.any (covers n a) = false →
        comRead t e.cur.core e.cur.slot a 1 = comRead s e.cur.core e.cur.slot a 1)
      ∧ OnlyView s t e (LeafFree rs) ∧ Holds s t e.cur.core [] ∧ t.block? e.cur.core e.cur.slot = some b'
      ∧ BlockGoes s t e (fun b => { b with pover := b'.pover, plines := b'.plines })

namespace Sys2Proof.Machine

/-- The accesses of a group that an ATOM performs now: with a reply, outside EXACT, those of RELEASE and STREAM pages go first and the
others issue the word again (log 95). -/
def atomGo (s : State) (e : Site) (f : AtomF) (rs : List Acc) : List Acc :=
  let home := rs.filter (fun r => (accTarget r).kind != 0)
  if AtomF.replies f && !s.isExact e.cur.slot e.b && !home.isEmpty then home else rs

/-- An ATOM acts at once: no store of another EXACT block stands before it, it ends no chunk, and its stores fit (R130, R133, R142,
R150). -/
def AtomNow (s : State) (e : Site) (f : AtomF) (rs : List Acc) : Prop :=
  let n := if f.w64 then 8 else 4
  (AtomF.replies f = true → atomBlocked s e rs n = false)
    ∧ (if AtomF.replies f && !s.isExact e.cur.slot e.b && rs.any (fun r => (accTarget r).kind != 0) then
        (s.core e.cur.core).chunk.fresh = true
      else s.isExact e.cur.slot e.b = true ∧ AtomF.replies f = false ∨ storesFit s e (committedCells rs n) = true)

/-- The traces and order stamps of an ATOM's requests. -/
def atomStart (s : State) (e : Site) (f : AtomF) (rs : List Acc) : State :=
  rs.foldl (fun t r => t.stampAcc e r (if f.w64 then 8 else 4) true true) ((s.acts e).noteSources e [f.a, f.b, f.c])

end Sys2Proof.Machine

/-- ATOM completes when its accesses pass their checks and it can act now: the request of each distinct address is performed in
turn, each active thread with a reply register receives its own reply, and every member goes on; of a group of a replying ATOM that
names both COMMITTED and other memory, those of the other memory act first (log 95, the model's choice). When all name one COMMITTED
address and the request is performed in the chunk, the address then holds `old op c` and the replies are those of R149; a group
that names COMMITTED memory alone changes nothing but the bytes that it names, in its block's view (R149, R150, R257). -/
def Obligations.AtomWords : Prop :=
  ∀ (f : AtomF) (s : State) (e : Site) (rs : List Acc), Runs (.atom f) s e →
    let n := if f.w64 then 8 else 4
    let req := fun (th : Thread) => [(⟨e.read s th f.a, n, n, .atomic, .plain⟩ : Req)]
    let sw := s.noteWalks e req true
    Passes s e req rs → AtomNow s e f rs →
    (∃ (s1 t : State) (v : Nat → Nat), Completes (.atom f) s t
      ∧ GroupGoes s1 t e (fun th => if (atomGo s e f rs).any (fun r => r.1.ltid == th.ltid)
        then (if AtomF.replies f then putD f.d (BitVec.ofNat 64 (v th.ltid)) th else th).next else th)
      ∧ OnlyGroup s1 t e
      ∧ (∃ out, (s1, out) = (atomJobs sw e f (atomGo s e f rs)).foldl (fun (acc : State × List (Nat × Nat)) j =>
          let q := acc.1.atomJob e f j
          (q.1, acc.2 ++ q.2)) (atomStart sw e f (atomGo s e f rs), []) ∧ v = valueOf out)
      ∧ ((s.launchOf e.b).race = false → (∀ r ∈ rs, (accTarget r).kind = 0) →
        OnlyView s t e (LeafFree rs) ∧ Holds s t e.cur.core []
        ∧ (∀ a, LeafFree rs a → rs.any (covers n a) = false →
          comRead t e.cur.core e.cur.slot a 1 = comRead s e.cur.core e.cur.slot a 1)))
    ∧ (∀ (s0 : State) (j : AtomJob) (k : Nat), (accTarget j.acc).kind = 0 → (accTarget j.acc).key = k →
      (∀ o, accTarget j.acc ≠ .desc o) → (s0.block? e.cur.core e.cur.slot).isSome = true →
      (s0.winBlock? e.cur.core e.cur.slot).isSome = true →
      (s.isExact e.cur.slot e.b && !AtomF.replies f) = false → s0.isExact e.cur.slot e.b = s.isExact e.cur.slot e.b →
      (∀ x, accTarget j.acc = .main x → x.ptr + 8 ≤ k ∨ k + n ≤ x.ptr) →
      let old := leNat (comRead s0 e.cur.core e.cur.slot k n)
      let r := atomAll f.aop.toNat (8 * n) old (j.xs.map (fun x => x.2))
      (s0.atomJob e f j).2 = (j.xs.map (fun x => x.1)).zip r.2
        ∧ comRead (s0.atomJob e f j).1 e.cur.core e.cur.slot k n = natLe n r.1)

/-- FENCE below CLUSTER only orders; at CLUSTER or above, in a fresh chunk, the core's released writes to RELEASE pages are all
performed by a release (that it waits here for each of them, with neither bit set too, is the model's choice, log 20), those to STREAM
pages stay in flight, and its copies of RELEASE lines are gone after an acquire; while one of those writes stands behind a store that
an EXACT block of its core holds, the word waits. PREF and CCTL change no register. Each advances its members (R131, R145, R146, R254,
R255, R259). -/
def Obligations.FencePrefCctl : Prop :=
  (∀ (f : FenceF) (s : State) (e : Site), Runs (.fence f) s e → (s.launchOf e.b).race = false →
    let released := fun (q : Flight) => q.core == e.cur.core && !q.eff.isStream
    ((e.t.bind f.lvl.toNat).code < 4 → ∃ t, Completes (.fence f) s t ∧ GroupGoes s t e Thread.next ∧ OnlyGroup s t e)
    ∧ (4 ≤ (e.t.bind f.lvl.toNat).code → s.isExact e.cur.slot e.b = false → (s.core e.cur.core).chunk.fresh = true →
      (landsBlocked s released = false → ∃ t, Completes (.fence f) s t ∧ GroupGoes s t e Thread.next
        ∧ (f.rel = true ∨ f.acq = false → ∀ q ∈ t.flights, q.core = e.cur.core → q.eff.isStream = true)
        ∧ (∀ q ∈ s.flights, q.eff.isStream = true → q ∈ t.flights)
        ∧ (f.acq = true ∨ f.rel = false → ∀ l ∈ (t.core e.cur.core).l1, l.stream = true))
      ∧ (landsBlocked s released = true → Completes (.fence f) s s.hold)))
  ∧ (∀ (f : StF) (s : State) (e : Site), Runs (.pref f) s e → (s.launchOf e.b).race = false → s.badLines = [] →
    (∀ th ∈ e.act, r107Bad (eaOf s e th f.a f.off) = false) →
    ∃ t, Completes (.pref f) s t ∧ GroupGoes s t e Thread.next ∧ t.flights = s.flights ∧ t.launches = s.launches)
  ∧ (∀ (f : MemX) (s : State) (e : Site) (rs : List Acc), Runs (.cctl f) s e → (s.launchOf e.b).race = false →
    Passes s e (fun th => cctlReq (eaOf s e th f.a f.off)) rs →
    ∃ t, Completes (.cctl f) s t ∧ GroupGoes s t e Thread.next ∧ t.flights = s.flights ∧ t.launches = s.launches
      ∧ (∀ a, LeafFree rs a → Memory.byte t.mem a = Memory.byte s.mem a))

/-- LDX checks source and destination, attaches one transfer of each active thread to the barrier object of its node, whose pending
count rises by the number of the node's transfers, and goes on without the data; the landing of a transfer puts the source's bytes,
read then, at the destination and detaches it (R256, R260, R261). -/
def Obligations.LdxAndLanding : Prop :=
  (∀ (f : LdxF) (s : State) (e : Site) (rs : List Acc), Runs (.ldx f) s e → (s.launchOf e.b).race = false →
    let n := MemW.n f.w
    let key := fun node => nodeKey f.lvl.toNat node 0
    Passes s e (fun th => [⟨e.read s th f.a, n, n, .read, .ldxSrc⟩, ⟨e.read s th f.d, n, n, .write, .ldxDst⟩]) rs →
    storesFit s e (rs.filterMap (fun r => (r.2.2.getLast?).map (fun t => (t.key, n)))) = true →
    ∃ (t : State) (b' : Block), Completes (.ldx f) s t ∧ GroupGoes s t e Thread.next
      ∧ t.block? e.cur.core e.cur.slot = some b'
      ∧ (b'.ldx.drop e.b.ldx.length).map (fun x => (x.src, x.dst, x.n, x.level, x.node, x.failed))
        = rs.filterMap (fun r => match r.2.2 with
          | [src, dst] => some (src.key, dst.key, n, f.lvl.toNat, e.node r.1 f.lvl.toNat, none)
          | _ => none)
      ∧ b'.ldx.take e.b.ldx.length = e.b.ldx
      ∧ (∀ node, Tab.get Bar.new b'.bars (key node) = { Tab.get Bar.new e.b.bars (key node) with
        pending := (Tab.get Bar.new e.b.bars (key node)).pending
          + (e.act.filter (fun th => e.node th f.lvl.toNat == node)).length })
      ∧ OnlyView s t e (LeafFree rs) ∧ Holds s t e.cur.core []
      ∧ BlockGoes s t e (fun b => { b with ldx := b'.ldx, bars := b'.bars, plines := b'.plines }))
  ∧ (∀ (c sl idx : Nat) (s : State) (b : Block) (x : LdxXfer), s.block? c sl = some b → b.ldx[idx]? = some x →
    x.failed = none → linesHeld s (s.ctxOf b) x.src x.n = false → linesHeld s (s.ctxOf b) x.dst x.n = false →
    (s.core c).chunk.served ≠ some sl → lineErr s x.src x.n = none → (s.winBlock? c sl).isSome = true →
    ∃ (t : State) (b' : Block), Completes (.ldxTransferLanded c sl idx) s t ∧ t.block? c sl = some b'
      ∧ comRead t c sl x.dst x.n = ldxBytes s c sl x ∧ b'.ldx = b.ldx.eraseIdx idx
      ∧ (Tab.get Bar.new b'.bars (nodeKey x.level x.node 0)).pending
        = (Tab.get Bar.new b.bars (nodeKey x.level x.node 0)).pending - 1
      ∧ (∀ a, (a < x.dst ∨ x.dst + x.n ≤ a) → comRead t c sl a 1 = comRead s c sl a 1)
      ∧ (∀ a, Memory.byte t.mem a = Memory.byte s.mem a) ∧ t.flights = s.flights ∧ t.launches = s.launches)

/-! ### Barriers, waits and chunks -/

namespace Sys2Proof.Machine

/-- An instruction at a level can act now, for the site `e'`: below CLUSTER; in a fresh chunk; or under EXACT behind its phase
point, for the members whose phase has merged (R133, R140). -/
def ActsAt (s : State) (e : Site) (l : Nat) (e' : Site) : Prop :=
  ((e.t.bind l).code < 4 ∧ e' = e)
    ∨ (4 ≤ (e.t.bind l).code ∧ s.isExact e.cur.slot e.b = false ∧ (s.core e.cur.core).chunk.fresh = true ∧ e' = e)
    ∨ (4 ≤ (e.t.bind l).code ∧ s.isExact e.cur.slot e.b = true ∧ (∃ th ∈ e.act, th.acted = true)
        ∧ e' = e.restrict (fun th => th.acted || !e.active th))

/-- The barrier instructions that arrive: level, kind, and whether they wait (R264). -/
def barShape : Instr → Option (Nat × Arrival × Bool)
  | .bar f => some (f.lvl.toNat, .plain, true)
  | .bara f => some (f.lvl.toNat, .plain, false)
  | .mbar f => some (f.lvl.toNat, .masked, true)
  | _ => none

/-- The mask that a thread gives to MBAR: as read now, or as it read it when it came to the word while it stood arrived (R264, R336). -/
def barMask (i : Instr) (s : State) (e : Site) (th : Thread) : Word :=
  match i with
  | .mbar f => match th.kept with
    | some (pc, _, m) => if pc = th.pc then m else e.read s th f.o
    | none => e.read s th f.o
  | _ => 0

/-- BARA's token: the count before the arrival (R264). -/
def barToken (i : Instr) (c : BitVec 32) (th : Thread) : Thread :=
  match i with
  | .bara f => putD f.o (c.setWidth 64) th
  | _ => th

/-- The barrier instructions that a level bound to LANE takes, with what each writes there (R264). -/
def laneBar : Instr → Option (Nat × (Thread → Thread))
  | .bar f => some (f.lvl.toNat, fun th => th)
  | .barw f => some (f.lvl.toNat, fun th => th)
  | .bara f => some (f.lvl.toNat, putD f.o 0)
  | _ => none

/-- The object of a thread's node. -/
def objOf (s : State) (e : Site) (l : Nat) (th : Thread) : Bar := s.bar e.b e.t l (barNode e.t l e.b th.ltid)

/-- From `s` to `t` the active members of `e` have arrived at their nodes' objects of level `l`: each counts them and takes its
kind, and a masked phase its mask; the level's other objects stay (R260, R261, R264). -/
def Arrives (s t : State) (e : Site) (l : Nat) (how : Arrival) (mask : Word) : Prop :=
  ∃ b', t.block? e.cur.core e.cur.slot = some b' ∧ ∀ n,
    let o := s.bar e.b e.t l n
    let o' := t.bar b' e.t l n
    let k := (e.act.filter (fun th => barNode e.t l e.b th.ltid == n)).length
    o'.count = o.count ∧ o'.pending = o.pending ∧ o'.arrived = o.arrived + k ∧ (k = 0 → o' = o)
      ∧ (k ≠ 0 → o'.kind = (match how with
          | .masked => 2
          | .quiesce => 3
          | .plain => if o.kind = 3 then 3 else 1)
        ∧ o'.mask = if how = .masked ∧ o.kind ≠ 2 then mask else o.mask)

/-- No active member breaks R265, none stands arrived, and no transfer that it would wait for has failed. -/
def MayArrive (s : State) (e : Site) (l : Nat) (how : Arrival) (waits : Bool) (mask : Thread → Word) : Prop :=
  ∀ th ∈ e.act, (objOf s e l th).who.contains (threadUid e.b th.ltid) = false
    ∧ (waits = true → l ≤ e.t.blockLvl → failedLdx e.b l (barNode e.t l e.b th.ltid) = none)
    ∧ memberSub e.t l e.b.lin (objOf s e l th) how (mask e.ref) th (mask th) = none

/-- The object of level `l` exists: it is the block's own, or its node above the block stands in the launch. -/
def HasBar (s : State) (e : Site) (l : Nat) : Prop :=
  l ≤ e.t.blockLvl ∨ ((s.launch? e.b.launch).isSome = true
    ∧ (Tab.find? (s.launchOf e.b).nodes (highKey l (e.t.highNode l e.b.lin))).isSome = true)

end Sys2Proof.Machine

/-- BAR, BARA and MBAR at a level bound to WARP or CORE, when no member breaks R265 and none stands arrived, arrive: each node's
object counts the arriving threads and takes its kind; BAR and MBAR wait there, BARA takes the count as its token and goes on. At
any level, BAR, BARA, MBAR and QUIESCE that can act arrive with the members of `e'`, and the object above the block, and QUIESCE's at
every level, counts them in the same way; above CORE they wait while an access that their core has released stands behind a store that
an EXACT block holds. BARW lets a thread whose token is no longer the
count go on, and the others wait; at a level bound to LANE each barrier instruction is a fence at that level and passes at once
(R130, R260, R261, R262, R264, R266, R336). -/
def Obligations.BarrierWords : Prop :=
  (∀ (i : Instr) (l : Nat) (how : Arrival) (waits : Bool), barShape i = some (l, how, waits) →
    ∀ (s : State) (e : Site), Runs i s e → (s.launchOf e.b).race = false → e.t.bind l ≠ .lane → l ≤ e.t.blockLvl →
      (e.t.bind l).code < 4 → MayArrive s e l how waits (barMask i s e) →
      ∃ (t : State) (b' : Block), Completes i s t
        ∧ GroupGoes s t e (fun th => if waits then { th with wait := .barrier l, acted := false, kept := none }
          else (barToken i (objOf s e l th).count th).next)
        ∧ Arrives s t e l how (barMask i s e e.ref)
        ∧ t.block? e.cur.core e.cur.slot = some b'
        ∧ OnlyBlock s t e ∧ Holds s t e.cur.core [] ∧ BlockGoes s t e (fun b => { b with bars := b'.bars }))
  ∧ (∀ (i : Instr) (l : Nat) (how : Arrival) (waits : Bool), barShape i = some (l, how, waits) →
    ∀ (s : State) (e e' : Site), Runs i s e → e.t.bind l ≠ .lane → ActsAt s e l e' →
      let behind := landsBlocked s (fun q => q.core == e.cur.core && !q.eff.isStream)
      ((e.t.bind l).code < 4 ∨ behind = false →
        ∃ f t, Completes i s t
          ∧ t = arriveAll l how (fun _ e th => barMask i s e th) waits f e' (s.arrivalEdge i e' l)
          ∧ ((s.launchOf e.b).race = false → e.t.blockLvl < l → HasBar s e l → MayArrive s e' l how waits (barMask i s e') →
            Arrives s t e' l how (barMask i s e' e'.ref)
            ∧ GroupGoes s t e' (fun th => if waits then { th with wait := .barrier l, acted := false, kept := none }
              else (barToken i (objOf s e l th).count th).next)))
      ∧ (4 ≤ (e.t.bind l).code → behind = true → Completes i s s.hold))
  ∧ (∀ (f : LvlOnly) (s : State) (e : Site), Runs (.quiesce f) s e →
    s.isExact e.cur.slot e.b = true ∨ (s.core e.cur.core).chunk.fresh = true →
    let l := f.lvl.toNat
    (e.t.bind l ≠ .lane →
      ∃ g t, Completes (.quiesce f) s t ∧ t = arriveAll l .quiesce (fun _ _ _ => 0) true g e (s.releasePheld e)
        ∧ ((s.launchOf e.b).race = false → HasBar s e l → MayArrive s e l .quiesce true (fun _ => 0) →
          Arrives s t e l .quiesce 0
          ∧ GroupGoes s t e (fun th => { th with wait := .barrier l, acted := false, kept := none })))
    ∧ (e.t.bind l = .lane → s.isExact e.cur.slot e.b = false → (∀ q ∈ s.flights, q.core ≠ e.cur.core) →
      ∃ t, Completes (.quiesce f) s t ∧ GroupGoes s t e Thread.next ∧ (t.core e.cur.core).l1 = []))
  ∧ (∀ (f : LvlOp) (s : State) (e : Site), Runs (.barw f) s e → (s.launchOf e.b).race = false →
    let l := f.lvl.toNat
    e.t.bind l ≠ .lane → l ≤ e.t.blockLvl → (e.t.bind l).code < 4 →
    (∀ th ∈ e.act, failedLdx e.b l (barNode e.t l e.b th.ltid) = none) →
    ∃ t, Completes (.barw f) s t ∧ OnlyGroup s t e ∧ GroupGoes s t e (fun th =>
      if (objOf s e l th).count = (e.read s th f.o).extractLsb' 0 32
      then { th with wait := .barw l ((e.read s th f.o).extractLsb' 0 32), acted := false }
      else (th.joinClk (objOf s e l th).clkOut).next))
  ∧ (∀ (i : Instr) (g : Thread → Thread) (l : Nat), laneBar i = some (l, g) → ∀ (s : State) (e : Site), Runs i s e → (s.launchOf e.b).race = false →
    e.t.bind l = .lane → ∃ t, Completes i s t ∧ GroupGoes s t e (fun th => (g th).next) ∧ OnlyGroup s t e)

/-- A phase of an object inside a block completes when every expected thread has arrived and no transfer is pending: the count
rises by 1, the arrivals and the kind become 0, the threads that wait for the phase go on to the next word, and threads at their
arriving instruction issue it again. A quiesce phase first takes, for each core of the node, the number of accesses that it has
released so far, and completes once they are all performed, with the core's L1 copies gone (R261, R264, R266). That the mask, too, becomes
0 is the model's choice (log 110). -/
def Obligations.BarrierCompletes : Prop :=
  ∀ (c sl tid l : Nat) (s : State) (b : Block), s.block? c sl = some b → l < (s.treeOf sl b).depth →
    l ≤ (s.treeOf sl b).blockLvl →
    let t := s.treeOf sl b
    let n := barNode t l b tid
    let o := Tab.get Bar.new b.bars (nodeKey l n 0)
    let done := fun (p : Nat × Nat) => p.2 ≤ s.doneOf p.1 (s.ctxOf b)
    s.phaseReady c sl b t l tid o = true →
    ((o.kind ≠ 3 ∨ ∃ sw, o.sweep = some sw ∧ ∀ p ∈ sw, done p) →
      ∃ (s' : State) (b' : Block), Completes (.barrierPhaseComplete c sl tid l) s s' ∧ s'.block? c sl = some b'
        ∧ (let o' := Tab.get Bar.new b'.bars (nodeKey l n 0)
           o'.count = o.count + 1 ∧ o'.arrived = 0 ∧ o'.kind = 0 ∧ o'.mask = 0 ∧ o'.pending = o.pending)
        ∧ b'.threads = b.threads.map (fun th =>
          if !th.exited && barNode t l b th.ltid == n then th.leaveBar l o.clkIn else th)
        ∧ (o.kind = 3 → (∃ th ∈ b.threads, th.live = true ∧ barNode t l b th.ltid = n) → (s'.core c).l1 = [])
        ∧ (∀ a, Memory.byte s'.mem a = Memory.byte s.mem a))
    ∧ (o.kind = 3 → o.sweep = none →
      ∃ (s' : State) (b' : Block), Completes (.barrierPhaseComplete c sl tid l) s s' ∧ s'.block? c sl = some b'
        ∧ Tab.get Bar.new b'.bars (nodeKey l n 0) = { o with sweep := some ((nodeCores (s.nodeThreads c sl b t l tid)).map (fun c =>
          (c, Tab.get 0 (s.core c).sent (s.ctxOf b)))) }
        ∧ b'.threads = b.threads)
    ∧ (∀ sw, o.kind = 3 → o.sweep = some sw → (∃ p ∈ sw, ¬ done p) → Completes (.barrierPhaseComplete c sl tid l) s s)

/-- CHUNKEND passes and ends the chunk after itself; a chunk that touched no shared line, waits for no read of an LDX, and has written
no line that a publish holds, commits at once, and another waits for its grant. Under EXACT it is a phase
point. The chunk's time limit ends it too. The arbiter commits an ended chunk when no priority chunk is open elsewhere and neither of
those holds it, and grants a priority chunk to the core that has asked for it first. After a commit of a chunk that holds no record, every
byte of memory reads as the chunk last wrote it, or as before, and the next chunk is open. An instruction at a level bound to CLUSTER or
above, in a chunk that is not fresh, ends
the chunk first: nothing else happens when the chunk must wait for its grant; under EXACT its active members park at their phase
point (R46, R133, R136, R139, R140, R158, R244, R267). -/
def Obligations.ChunkEnds : Prop :=
  (∀ (g : Guard) (s : State) (e : Site), Runs (.chunkend g) s e →
    (s.isExact e.cur.slot e.b = false → (s.core e.cur.core).chunk.suspend = [] →
      Completes (.chunkend g) s { ((s.acts e).pass e).endChunk e.cur.core with cur := ((s.acts e).pass e).cur })
    ∧ (s.isExact e.cur.slot e.b = true → (∀ th ∈ e.act, th.acted = true) →
      ∃ t, Completes (.chunkend g) s t ∧ GroupGoes s t e Thread.next ∧ OnlyGroup s t e)
    ∧ (s.isExact e.cur.slot e.b = true → (∀ th ∈ e.act, th.acted = false) →
      ∃ t, Completes (.chunkend g) s t ∧ GroupGoes s t e (fun th => { th with wait := .phase }) ∧ OnlyGroup s t e))
  ∧ (∀ (c : Nat) (s : State), (s.core c).chunk.rd = [] → (s.core c).chunk.wr = [] → ldxReading s c = false →
    commitHeld s c = false → s.endChunk c = s.commit c)
  ∧ (∀ (c : Nat) (s : State), ((s.core c).chunk.rd ≠ [] ∨ (s.core c).chunk.wr ≠ [] ∨ ldxReading s c = true ∨ commitHeld s c = true) →
    ((s.endChunk c).core c).chunk.ended = true ∧ (s.endChunk c).mem = s.mem)
  ∧ (∀ (c : Nat) (s : State), prioElsewhere s c = false → (s.core c).chunk.ended = true → ldxReading s c = false →
    commitHeld s c = false → Completes (.chunkCommit c) s ((s.commit c).coreChecks c)
      ∧ ((∀ l, ∀ x ∈ (s.commit c).blocksOf l, (s.commit c).memberGroup x.1 x.2.1 x.2.2 = none) →
        Completes (.chunkCommit c) s (s.commit c)))
  ∧ (∀ (c : Nat) (s : State), (∀ x t bs, .emit x t bs ∉ (s.core c).chunk.held) → (∀ d, (s.core d).chunk.bad = none) →
    s.copiedOut = [] → ((s.core c).chunk.ovl.map (fun e => e.1)).Nodup →
    (∀ a, Memory.byte (s.commit c).mem a = (Tab.find? (s.core c).chunk.ovl a).getD (Memory.byte s.mem a))
      ∧ ((s.commit c).core c).chunk = Chunk.new ∧ ((s.commit c).core c).chunks = (s.core c).chunks + 1)
  ∧ (∀ (c : Nat) (s : State), prioElsewhere s c = false → (s.core c).chunk.ended = false → (s.core c).prioReq = true →
    (s.core c).chunk.fresh = true → (s.core c).chunk.prio = false → s.priority.head? = some c →
    ∃ t, Completes (.chunkCommit c) s t ∧ (t.core c).chunk.prio = true ∧ t.mem = s.mem)
  ∧ (∀ (c : Nat) (s : State), (s.core c).chunk.fresh = false → (s.core c).chunk.ended = false →
    Completes (.chunkTimeLimit c) s (s.endChunk c))
  ∧ (∀ (s : State) (e : Site) (l : Nat) (body : Site → State → State), 4 ≤ (e.t.bind l).code →
    (s.isExact e.cur.slot e.b = false → (s.core e.cur.core).chunk.fresh = false →
      (s.core e.cur.core).chunk.suspend = [] →
      ((s.core e.cur.core).chunk.rd ≠ [] ∨ (s.core e.cur.core).chunk.wr ≠ []) →
      (s.atHigh e l body).cur = none ∧ ((s.atHigh e l body).core e.cur.core).chunk.ended = true
        ∧ (∀ c, ((s.atHigh e l body).core c).arch = (s.core c).arch) ∧ (s.atHigh e l body).mem = s.mem)
    ∧ (s.isExact e.cur.slot e.b = true → (∀ th ∈ e.act, th.acted = false) →
      GroupGoes s (s.atHigh e l body) e (fun th => { th with wait := .phase }) ∧ OnlyGroup s (s.atHigh e l body) e))

namespace Sys2Proof.Machine

/-- The word that a wait names. -/
def waitReq (s : State) (e : Site) (f : WaitF) (th : Thread) : List Req := [⟨(waitArgs s e f th).1, 8, 8, .read, .plain⟩]

/-- The state in which the waits of a group are evaluated: the walks' bits set, the sources noted, and the words read at their homes
(R271, R380). -/
def waitNoted (s : State) (e : Site) (f : WaitF) (rs : List Acc) : State :=
  rs.foldl (fun s r => s.freshLine e.cur.core (accTarget r))
    (((s.noteWalks e (fun th => [⟨e.read s th f.a, 8, 8, .read, .plain⟩]) true).acts e).noteSources e [f.a, f.b])

/-- The word that a wait of a thread reads. -/
def waitWord (s : State) (e : Site) (rs : List Acc) (th : Thread) : Word :=
  BitVec.ofNat 64 ((rs.find? (fun (r : Acc) => r.1.ltid == th.ltid)).elim 0 (fun r => readAt s e r 8))

end Sys2Proof.Machine

namespace Sys2Proof.Machine

/-- A thread whose wait is satisfied goes on with the value; another waits, with its operands as read at issue (R271, R336). -/
def waitGoes (i : Instr) (f : WaitF) (holds : Bool) (v : Word) (args : Word × Word) (th : Thread) : Thread :=
  if holds then { (putD f.d v th).next with wait := .run, kept := none }
  else { th with wait := .mem i args.1 args.2, acted := false, kept := none }

end Sys2Proof.Machine

/-- WAITSEQ and WAITVAL, in a block that is not under EXACT: each active thread whose condition holds receives the value
of its word and goes on, the others wait with their operands as read, and unless all go on the chunk ends. WAIT_REEVALUATION: the threads of a quadrant that stand
at one WAITSEQ or WAITVAL look at their words again, with the operands read at issue, unless a deferred fault suspends the wait; their
looks touch the lines; when none of the conditions holds, nothing else changes, and otherwise those whose condition holds go on in the
open chunk (R120, R271, R281, R336, R338). -/
def Obligations.WaitWords : Prop :=
  (∀ (i : Instr) (f : WaitF) (cond : Word → Word → Bool), waitParts i = some (f, cond) →
    ∀ (s : State) (e : Site) (rs : List Acc), Runs i s e → s.isExact e.cur.slot e.b = false →
      (e.b.threads.map (fun th => th.ltid)).Nodup →
      Passes s e (fun th => [⟨e.read s th f.a, 8, 8, .read, .plain⟩]) rs →
      let s1 := waitNoted s e f rs
      let m := waitWord s1 e rs
      let holds := fun (th : Thread) => cond (m th) (waitArgs s1 e f th).2
      ((s.launchOf e.b).race = false → OnlyTraces s s1 rs)
        ∧ ∃ t s2, Completes i s t
          ∧ ((s.launchOf e.b).race = false → GroupGoes s s2 e (fun th =>
            waitGoes i f (holds th) (m th) (waitArgs s1 e f th) th))
          ∧ t = if rs.all (fun r => holds r.1) then s2 else { s2.closeAfter e.cur.core with cur := s2.cur })
  ∧ (∀ (c sl tid : Nat) (s : State) (b : Block) (th : Thread) (i : Instr) (f : WaitF) (cond : Word → Word → Bool),
    s.block? c sl = some b → s.isExact sl b = false → s.coreStalled c = false → s.waitHeld c sl tid = false →
    (s.core c).chunk.served ≠ some sl → b.thread? tid = some th → th.waitsAt i = true → waitParts i = some (f, cond) →
    let ms := b.threads.filter (fun o => !o.exited && o.waitsAt i && o.pc == th.pc && o.quad == th.quad)
    let e : Site := ⟨⟨c, th.quad, sl, th.pc, ms.map (fun o => o.ltid)⟩, b, s.treeOf sl b, ms, ms⟩
    ∀ rs, checkGroup s e (waitReq s e f) = .ok rs →
      let s1 := s.touchWaits c sl rs
      let vs := rs.map (fun (r : Acc) => (r.1.ltid, accValue (s1.freshLine c (accTarget r)) e r 8))
      let val := fun (o : Thread) => BitVec.ofNat 64 (valueOf vs o.ltid)
      let holds := fun (o : Thread) => cond (val o) (waitArgs s e f o).2
      OnlyTraces s s1 []
      ∧ ((∀ o ∈ ms, holds o = false) → Completes (.waitReevaluation c sl tid) s s1)
      ∧ ((∃ o ∈ ms, holds o = true) → ∃ t, Completes (.waitReevaluation c sl tid) s t
        ∧ t = ((s1.dirty c).evalWaits e i f cond rs).1
        ∧ ((s.launchOf b).race = false → (b.threads.map (fun th => th.ltid)).Nodup → ∀ o ∈ ms, t.thread? c sl o.ltid
          = some (waitGoes i f (holds o) (val o) (waitArgs s e f o) o))))

/-! ### Lehr registers, work and neighbour links -/

namespace Sys2Proof.Machine

/-- No register that a lehr instruction reaches is occupied (R67). -/
def LehrFree (e : Site) (lvl k : Nat) : Prop := ∀ key ∈ lehrKeys e lvl k, (e.b.lehr key).busy = false

end Sys2Proof.Machine

namespace Sys2Proof.Machine

/-- The pushes of some threads in turn into one register, which they leave occupied (R65, R67). -/
def pushAll (val : RedOp → Thread → Word) (ths : List Thread) (r : Lehr) : Lehr :=
  ths.foldl (fun r th => { (r.push (val r.op th)).1 with busy := true }) r

/-- From `s` to `t` nothing changes but the group, which goes on, and the block's lehr registers. -/
def OnlyLehrs (s t : State) (e : Site) (b' : Block) : Prop :=
  OnlyBlock s t e ∧ Holds s t e.cur.core [] ∧ BlockGoes s t e (fun b => { b with lehrs := b'.lehrs })

end Sys2Proof.Machine

/-- LEHRW sets window and operator and empties the register, LEHRCLR empties it, LEHRPUSH pushes the active threads' values of each
node in ascending logical thread id into the node's register and occupies it, each thread's flags rising by those of its own push, and the
end of an occupancy frees one register. Every other register, and everything else, stays (R62, R63, R65, R67, R268, R340). -/
def Obligations.LehrWords : Prop :=
  (∀ (f : LehrWF) (s : State) (e : Site), Runs (.lehrw f) s e → LehrFree e f.lvl.toNat f.k.toNat →
    ∃ (t : State) (b' : Block), Completes (.lehrw f) s t ∧ ((s.launchOf e.b).race = false →
      t.block? e.cur.core e.cur.slot = some b' ∧ GroupAdvances s t e ∧ OnlyLehrs s t e b'
      ∧ ∀ key, b'.lehr key = if key ∈ lehrKeys e f.lvl.toNat f.k.toNat
        then ⟨f.wm1.toNat + 1, f.red, [], [], 0, (e.b.lehr key).busy⟩ else e.b.lehr key))
  ∧ (∀ (f : LehrC) (s : State) (e : Site), Runs (.lehrclr f) s e → LehrFree e f.lvl.toNat f.k.toNat →
    ∃ (t : State) (b' : Block), Completes (.lehrclr f) s t ∧ ((s.launchOf e.b).race = false →
      t.block? e.cur.core e.cur.slot = some b' ∧ GroupAdvances s t e ∧ OnlyLehrs s t e b'
      ∧ ∀ key, b'.lehr key = if key ∈ lehrKeys e f.lvl.toNat f.k.toNat then { e.b.lehr key with front := [], back := [], bagg := 0 }
        else e.b.lehr key))
  ∧ (∀ (f : LehrF) (s : State) (e : Site), Runs (.lehrpush f) s e → LehrFree e f.lvl.toNat f.k.toNat →
    ∃ (t : State) (b' : Block) (fl : Nat → FFlags), Completes (.lehrpush f) s t ∧ ((s.launchOf e.b).race = false →
      (e.b.threads.map (fun th => th.ltid)).Pairwise (· < ·) →
      let s1 := s.noted (.lehrpush f) e
      let val := fun op th => redSrc op s1 e th f.o
      let near := fun key (ths : List Thread) => ths.filter (fun th => lehrKey e f.lvl.toNat f.k.toNat th == key)
      t.block? e.cur.core e.cur.slot = some b' ∧ (e.act.map (fun th => th.ltid)).Pairwise (· < ·)
      ∧ (∀ key, b'.lehr key = pushAll val (near key e.act) (e.b.lehr key))
      ∧ GroupFlagged s t e fl ∧ (∀ l, e.tids.contains l = false → fl l = fNone)
      ∧ (∀ pre th post, e.act = pre ++ th :: post →
        let key := lehrKey e f.lvl.toNat f.k.toNat th
        let r := pushAll val (near key pre) (e.b.lehr key)
        fl th.ltid = (r.push (val r.op th)).2.2)
      ∧ OnlyLehrs s t e b'))
  ∧ (∀ (c sl lvl node k : Nat) (s : State) (b : Block), s.block? c sl = some b →
    ∃ (t : State) (b' : Block), Completes (.lehrOccupancyEnd c sl lvl node k) s t ∧ t.block? c sl = some b'
      ∧ b' = { b with lehrs := b'.lehrs }
      ∧ (∀ key, b'.lehr key = if key = nodeKey lvl node k then { b.lehr key with busy := false } else b.lehr key)
      ∧ (∀ c' sl', c' ≠ c ∨ sl' ≠ sl → t.block? c' sl' = s.block? c' sl')
      ∧ t.mem = s.mem ∧ t.launches = s.launches ∧ t.ctxs = s.ctxs ∧ t.flights = s.flights ∧ t.ports = s.ports)

namespace Sys2Proof.Machine

/-- The right-nested reduction of some values (R65). -/
def rightNested (op : RedOp) (xs : List Word) : Word :=
  match xs with
  | [] => 0
  | [x] => x
  | x :: y :: xs => (redApp op .rne x (rightNested op (y :: xs))).1

end Sys2Proof.Machine

/-- LEHRREAD gives each active thread what a read of its own node's register gives. Whatever has been pushed since the register was
emptied, it holds the last min(pushes, W) values in push order, split where the last flip left them into a front, whose aggregate is
right-nested, and a back, whose aggregate is left-nested; a read gives zero, the one aggregate, or the front's combined with the back's (R65, R66). -/
def Obligations.LehrReads : Prop :=
  (∀ (f : LehrF) (s : State) (e : Site), Runs (.lehrread f) s e → LehrFree e f.lvl.toNat f.k.toNat →
    ∃ t, Completes (.lehrread f) s t
      ∧ GroupGoes (s.noted (.lehrread f) e) t e (fun th =>
        let r := (e.b.lehr (lehrKey e f.lvl.toNat f.k.toNat th)).read
        ((putD f.o r.1 th).flag r.2).next)
      ∧ ((s.launchOf e.b).race = false → OnlyGroup s t e))
  ∧ (∀ (op : RedOp) (w : Nat) (xs : List Word), 0 < w →
    let r := xs.foldl (fun (r : Lehr) x => (r.push x).1) { Lehr.new with win := w, op := op }
    let ys := (xs.drop (xs.length - w)).map (redVal op)
    let n := xs.length
    let k := if n ≤ w then 0 else w - 1 - (n - w - 1) % w
    r.front.map (fun v => v.1) = ys.take k ∧ r.back = ys.drop k
      ∧ r.read.1 = (match ys.take k, ys.drop k with
        | [], [] => 0
        | [], b :: bs => leftNested op (b :: bs)
        | a :: as, [] => rightNested op (a :: as)
        | a :: as, b :: bs => (redApp op .rne (rightNested op (a :: as)) (leftNested op (b :: bs))).1))

/-- WORKNEXT gives the active threads the addresses of the next mailboxes in turn and counts them; under FREE each mailbox is cleared and
its request waits in the chunk for its commit, and otherwise the mailbox is filled at once, in the block's view. The mailbox of the block that made the launch's first request is filled with the next piece of work, or with the
mark of none (R39-R41, R269). -/
def Obligations.WorkIsHandedOut : Prop :=
  (∀ (f : One) (s : State) (e : Site), Runs (.worknext f) s e → e.act.length ≤ 16 → (s.launchOf e.b).race = false →
    (∀ j < e.act.length, e.b.wnWait.contains ((e.b.wnCount + j) % 16) = false) →
    storesFit s e ((List.range e.act.length).map (fun j => (mailboxKey e.cur.core e.b ((e.b.wnCount + j) % 16), 64))) = true →
    ∃ (t : State) (b' : Block), Completes (.worknext f) s t ∧ t.block? e.cur.core e.cur.slot = some b'
      ∧ GroupGoesFree s t e (fun th =>
        (putD f.o (mailboxVa e.cur.core e.b ((e.b.wnCount + e.tids.idxOf th.ltid) % 16)) th).next)
      ∧ b'.wnCount = e.b.wnCount + e.act.length
      ∧ (∀ j < e.act.length, comRead t e.cur.core e.cur.slot (mailboxKey e.cur.core e.b ((e.b.wnCount + j) % 16)) 64
        = if (s.launchOf e.b).det = 0 then natLe 64 0
          else mailboxBytes (s.launchOf e.b).tree (s.launchOf e.b).dev (orderedWork (s.launchOf e.b) e.b.lin (e.b.wnCount + j)))
      ∧ ((s.launchOf e.b).det = 0 → b'.wnWait = e.b.wnWait ++ (List.range e.act.length).map (fun j => (e.b.wnCount + j) % 16)
        ∧ (t.core e.cur.core).chunk.held = (s.core e.cur.core).chunk.held
          ++ (List.range e.act.length).map (fun j => Held.withdraw e.cur.slot ((e.b.wnCount + j) % 16))))
  ∧ (∀ (c sl m : Nat) (s : State) (b : Block) (ln : Launch) (rest : List (Nat × Nat × Nat × Nat)), s.block? c sl = some b →
    s.launch? b.launch = some ln → ln.workReq = (c, sl, m, b.lin) :: rest → sl ≠ handlerSlot →
    s.asker c b.launch b.lin = some b → s.copiedOut = [] →
    ∃ t : State, Completes (.mailboxFill c sl m) s (t.memberChecks b.launch)
      ∧ ((∀ x ∈ t.blocksOf b.launch, t.memberGroup x.1 x.2.1 x.2.2 = none) → Completes (.mailboxFill c sl m) s t)
      ∧ (∃ b', t.block? c sl = some b' ∧ b'.wnWait = b.wnWait.filter (fun k => k != m))
      ∧ (∃ ln', t.launch? b.launch = some ln' ∧ ln'.workReq = rest)
      ∧ Memory.read t.mem (mailboxKey c b m) 64 = mailboxBytes ln.tree ln.dev
        (if ln.tree.persist = 0 then (if ln.next < ln.tree.blocks then some ln.next else none)
         else if ln.workNext < ln.tree.blocks then some ln.workNext else none))

/-- EMIT to a template with room holds one record of 64 bytes of each active thread: it leaves at the chunk's commit, or at the merge
of the phase; without a template it faults, with PERM and the reference member's address after ALIGN (R42, R270; the choice of the cause and the
address is log 57). -/
def Obligations.EmitHoldsRecords : Prop :=
  ∀ (f : One) (s : State) (e : Site), Runs (.emit f) s e →
    (∀ (tmpl : Nat) (rs : List Acc), (s.launchOf e.b).succ = some tmpl → (s.launchOf e.b).race = false →
      let req := fun (th : Thread) => [(⟨e.read s th f.o, 64, 64, .read, .plain⟩ : Req)]
      let sw := s.noteWalks e req true
      Passes s e req rs → emitFits sw tmpl rs.length = true →
      ∃ (t : State) (b' : Block), Completes (.emit f) s t ∧ GroupGoes s t e Thread.next
        ∧ heldOf t e.cur.core e.cur.slot = heldOf s e.cur.core e.cur.slot ++ rs.map (fun r =>
          Held.emit tmpl r.1.ltid (readTarget sw e.cur.core e.cur.slot r.1.ltid (accTarget r) 64))
        ∧ OnlyView s t e (LeafFree rs) ∧ t.block? e.cur.core e.cur.slot = some b'
        ∧ BlockGoes s t e (fun b => { b with pheld := b'.pheld }))
    ∧ ((s.launchOf e.b).succ = none → (∀ th ∈ e.act, (e.read s th f.o).toNat % 64 = 0) →
      Completes (.emit f) s (s.takeFault e.cur 9 0 (laneMask e.act) (e.read s e.ref f.o)))

/-- NBRPUSH puts one beat of the group's elements at the tail of the far core's queue; NBRPOP takes the head of its own and gives each
active member the element of its lane; where no link leads, both take PERM, with `ctl.eaddr` 0 (R115, R272; the 0 is the model's choice, log 28). -/
def Obligations.NeighbourLinks : Prop :=
  (∀ (f : NbrF) (s : State) (e : Site) (far : Nat), Runs (.nbrpush f) s e → (s.launchOf e.b).race = false →
    nbrCore s (s.ctxOf e.b) e.cur.core f.dir.toNat = some far →
    let key := nbrKey ((f.dir.toNat + 2) % 4) f.ch.toNat
    nbrFill s far key < 16 →
    ∃ (t : State) (src : Option Nat), Completes (.nbrpush f) s t ∧ GroupGoes s t e Thread.next
      ∧ Tab.get [] (t.core far).arch.nbr key
        = Tab.get [] (s.core far).arch.nbr key ++ [beatOf (fun th => e.read s th f.o) e.act src]
      ∧ (∀ a, Memory.byte t.mem a = Memory.byte s.mem a))
  ∧ (∀ (f : NbrF) (s : State) (e : Site) (b : Beat), Runs (.nbrpop f) s e →
    (nbrCore s (s.ctxOf e.b) e.cur.core f.dir.toNat).isSome = true →
    let key := nbrKey f.dir.toNat f.ch.toNat
    (s.core e.cur.core).arch.beat? key = some b →
    ∃ t, Completes (.nbrpop f) s t
      ∧ GroupGoes s t e (fun th => (putD f.o (Tab.get 0 b.elems (th.off % 32)) th).next)
      ∧ Tab.get [] (t.core e.cur.core).arch.nbr key = (Tab.get [] (s.core e.cur.core).arch.nbr key).tail
      ∧ (∀ a, Memory.byte t.mem a = Memory.byte s.mem a))
  ∧ (∀ (i : Instr) (f : NbrF), (i = .nbrpush f ∨ i = .nbrpop f) → ∀ (s : State) (e : Site), Runs i s e →
    nbrCore s (s.ctxOf e.b) e.cur.core f.dir.toNat = none →
    Completes i s (s.takeFault e.cur 9 0 (laneMask e.act) 0))

/-! ### Engine commands -/

namespace Sys2Proof.Machine

/-- The engine instructions: function number and fields (R274, R291). -/
def engineForm : Instr → Option (Nat × XcF)
  | .mma f => some (0x00, f) | .mfmt f => some (0x01, f) | .accz f => some (0x02, f) | .accld f => some (0x03, f)
  | .accst f => some (0x04, f) | .cbload f => some (0x05, f) | .scload f => some (0x06, f) | .msync f => some (0x07, f)
  | .copy f => some (0x20, f) | .copymma f => some (0x21, f) | .gather f => some (0x22, f) | .scatter f => some (0x23, f)
  | .expand f => some (0x24, f) | .fill f => some (0x25, f) | .publish f => some (0x26, f) | .rcopy f => some (0x27, f)
  | .chain f => some (0x40, f) | .tail f => some (0x50, f) | .seq f => some (0x51, f)
  | .coll f => some (0x60, f) | .arm f => some (0x61, f) | .cntrd f => some (0x62, f) | .cntadd f => some (0x63, f)
  | .disarm f => some (0x64, f)
  | _ => none

/-- What a queued command shows: its number, function, and whether it has left its core. -/
def Cmd.shown (q : Cmd) : Nat × Nat × Bool := (q.num, q.fn, q.left)

/-- From `s` to `t` a stream has the commands of before, and behind them some that show as listed: all of one XC of the site's block, to
leave its core by the number `o`. -/
def Queued (s t : State) (e : Site) (r : StreamRef) (o : Nat) (qs : List (Nat × Nat × Bool)) : Prop :=
  ∃ new : List Cmd, (t.stream r).q = (s.stream r).q ++ new ∧ new.map Cmd.shown = qs
    ∧ ∀ q ∈ new, q.order = o ∧ q.core = e.cur.core ∧ q.blk = some ⟨e.b.launch, e.b.lin⟩ ∧ q.exact_ = s.isExact e.cur.slot e.b

/-- From `s` to `t` a word has queued commands and written replies only: memory, the block apart from its threads, the effects and the
bytes of the core's chunk, the launches and what is in flight stay as they are. -/
def OnlyQueues (s t : State) (e : Site) : Prop :=
  (∀ a, Memory.byte t.mem a = Memory.byte s.mem a) ∧ BlockGoes s t e id ∧ Holds s t e.cur.core []
    ∧ (t.core e.cur.core).chunk.ovl = (s.core e.cur.core).chunk.ovl ∧ t.launches = s.launches ∧ t.flights = s.flights

/-- A command of the stream leaves core `c` by the number `num`. -/
def Cmd.goes (q : Cmd) (c num : Nat) : Bool := q.order == num && q.core == c && !q.left

end Sys2Proof.Machine

/-- Every engine instruction whose parameters agree, lie in the window and pass the checks at issue queues its command on its stream:
on a core's engine with the next number, which is the reply; on the fabric engine without one yet; COPYMMA queues the copy and the
MMA; TAIL queues one command of each entry. Under EXACT the commands leave at once, with the view of the phase; otherwise the chunk holds
them, and ends with the word unless an LR suspends its end. A command that leaves meets the checks that need memory, of those issued by
its core up to it; one of the fabric engine takes its number then, behind the commands that have reached it, and but for CNTRD replies
with it. Threads that disagree in a parameter take UNIFORM, or FMTDIV in a format word; a local address outside the window takes
SCRATCH, and a failed check takes ENGINE with its subcode (R112, R133, R139, R155, R275-R279, R282, R284, R301, R306). -/
def Obligations.EngineWordsQueue : Prop :=
  (∀ (i : Instr) (fn : Nat) (f : XcF), engineForm i = some (fn, f) → ∀ (s : State) (e : Site) (ps : List Word), Runs i s e →
    (s.launchOf e.b).race = false → xcUniform s e fn f = none → xcParams s e fn f = .ok ps → xcEngine s e fn f ps = none →
    let eng := engineOf fn (e.read s e.ref f.b).toNat
    let st := f.stream.toNat
    let c := e.cur.core
    (eng ≠ 3 → fn ≠ 0x21 →
      let n := if fn = 0x50 then (param ps 1).toNat else 1
      let k := Tab.get 0 (s.core c).arch.iNum (16 * eng + st)
      ∃ t : State, Completes i s (t.xcLeave e [(eng, st, k + 1)]) ∧ OnlyQueues s t e
        ∧ Queued s t e (xcStream s e eng st) (k + 1) ((List.range n).map (fun j => (k + 1 + j, if fn = 0x50 then 0x7F else fn, false)))
        ∧ (∀ r, r ≠ xcStream s e eng st → t.stream r = s.stream r)
        ∧ Tab.get 0 (t.core c).arch.iNum (16 * eng + st) = k + n
        ∧ GroupGoes s t e (fun th => (putD f.d (BitVec.ofNat 64 (k + n)) th).next))
    ∧ (eng = 3 → fn ≠ 0x21 →
      let n := if fn = 0x50 then (param ps 1).toNat else 1
      let o := (s.ctx (s.ctxOf e.b)).dseq
      ∃ t : State, Completes i s (t.xcLeave e [(3, st, o)]) ∧ OnlyQueues s t e
        ∧ Queued s t e (xcStream s e 3 st) o ((List.range n).map (fun j => (j, if fn = 0x50 then 0x7F else fn, false)))
        ∧ (∀ r, r ≠ xcStream s e 3 st → t.stream r = s.stream r)
        ∧ (t.ctx (s.ctxOf e.b)).dseq = o + 1 ∧ GroupGoes s t e Thread.next)
    ∧ (fn = 0x21 →
      let m := field (param ps 4) 0 4
      let k := Tab.get 0 (s.core c).arch.iNum (16 + st)
      let j := Tab.get 0 (s.core c).arch.iNum m
      ∃ t : State, Completes i s (t.xcLeave e [(1, st, k + 1), (0, m, j + 1)]) ∧ OnlyQueues s t e
        ∧ Queued s t e (xcStream s e 1 st) (k + 1) [(k + 1, 0x20, false)]
        ∧ Queued s t e (xcStream s e 0 m) (j + 1) [(j + 1, 0x00, false)]
        ∧ GroupGoes s t e (fun th => (putD f.d (BitVec.ofNat 64 (k + 1)) th).next)))
  ∧ (∀ (i : Instr) (fn : Nat) (f : XcF), engineForm i = some (fn, f) → ∀ (s : State) (e : Site), Runs i s e →
    (∀ x, xcUniform s e fn f = some x → (x.code = 2 ∨ x.code = 3) ∧ Completes i s (s.fault e x))
    ∧ (∀ va, xcUniform s e fn f = none → xcParams s e fn f = .error va →
      Completes i s (s.takeFault e.cur 0x0A 0 (laneMask e.act) va))
    ∧ (∀ ps n, xcUniform s e fn f = none → xcParams s e fn f = .ok ps → xcEngine s e fn f ps = some n →
      Completes i s (s.takeFault e.cur 0x0C n (laneMask e.act) 0)))
  ∧ (∀ (s : State) (e : Site) (c : Nat × Nat × Nat), s.isExact e.cur.slot e.b = true →
    s.xcLeave e [c] = s.leave e.cur.core c.1 c.2.1 c.2.2 (s.ctxOf e.b) (exactView s e)
      ∧ (e.b.pheld = [] → exactView s e = e.b.pover))
  ∧ (∀ (s : State) (e : Site) (cs : List (Nat × Nat × Nat)), s.isExact e.cur.slot e.b = false →
    let h := (s.core e.cur.core).chunk
    let held := h.held ++ cs.map (fun c => Held.cmd c.1 c.2.1 c.2.2 (if h.suspend.isEmpty then none else some h.ovl))
    let u := s.updChunk e.cur.core (fun h => { h with held := held })
    (h.suspend ≠ [] → s.xcLeave e cs = u.updChunk e.cur.core (fun h => { h with pendEnd := true }))
    ∧ (h.suspend = [] → (h.rd ≠ [] ∨ h.wr ≠ []) →
      s.xcLeave e cs = u.updChunk e.cur.core (fun h => { h with ended := true, pendEnd := false, suspend := [] }))
    ∧ (h.suspend = [] → h.rd = [] → h.wr = [] → ldxReading s e.cur.core = false → commitHeld s e.cur.core = false →
      s.xcLeave e cs = { u.commit e.cur.core with cur := s.cur }))
  ∧ (∀ (c x eng st num : Nat) (cut : Option Overlay) (s : State),
    s.release c x (.cmd eng st num cut) = s.leave c eng st num x (cut.getD []))
  ∧ (∀ (c x eng st num : Nat) (view : Overlay) (s : State), eng < 3 →
    let r : StreamRef := ⟨BitVec.ofNat 2 eng, c, BitVec.ofNat 4 st⟩
    let t := s.leave c eng st num x view
    (∀ r', r' ≠ r → t.stream r' = s.stream r') ∧ t.mem = s.mem ∧ (t.stream r).i = (s.stream r).i ∧ (t.stream r).c = (s.stream r).c
      ∧ (t.stream r).q.length = (s.stream r).q.length
      ∧ ∀ (i : Nat) (q : Cmd), (s.stream r).q[i]? = some q → (t.stream r).q[i]? = some (if q.goes c num = true then { q with
        left := true, view := view, sentAt := Tab.get 0 (s.core c).sent x
        leaveErr := if q.checked then none
          else leaveCheck s (q.blk.bind s.issuer?) c x q.fn q.ps (fmtAfter ((s.stream r).q.take i) (s.stream r).fmtw) } else q))
  ∧ (∀ (c x st num : Nat) (view : Overlay) (s : State),
    let r : StreamRef := ⟨3, x, BitVec.ofNat 4 st⟩
    let t := s.leave c 3 st num x view
    let qs := (s.stream r).q
    let mine := qs.filter (fun q => q.goes c num)
    (∀ q ∈ qs, q.left = true → q.num ≤ (s.stream r).i) →
    (t.stream r).i = (s.stream r).i + mine.length ∧ t.mem = s.mem
      ∧ (t.stream r).q.map Cmd.shown = (qs.filter (fun q => q.left)).map Cmd.shown
        ++ mine.mapIdx (fun j q => ((s.stream r).i + 1 + j, q.fn, true))
        ++ (qs.filter (fun q => !q.left && !(q.core == c && q.order == num))).map Cmd.shown
      ∧ ∀ (q : Cmd) (id : BlockId) (sl l : Nat) (ts : List Nat) (g : BitVec 7) (b : Block) (th : Thread), mine = [q] → q.fn ≠ 0x62 →
        q.blk = some id → q.reply = some (sl, ts, g) → s.block? q.core sl = some b → b.launch = id.launch → b.lin = id.lin →
        b.thread? l = some th → ts.contains l = true → ∃ th', t.thread? q.core sl l = some th'
          ∧ th'.lane g.toNat = BitVec.ofNat 64 ((s.stream r).i + 1) ∧ ∀ j, j ≠ g.toNat → th'.lane j = th.lane j)

/-- A command whose effects are final completes: C takes its number, the completion word receives it, and the next command is at its
turn; an entry of a chain is read and checked before it is executed; a command that meets a fault at its turn stops its stream with
the cause and hands a deferred fault to its block; an add changes a counter, and the arms that it reaches fire together, in the order of their
registration, and are gone: each puts its operation on the stream that its entry names, behind the commands that have reached the
engine. A retry clears the fault of a stream, whose head runs again from its start; a cancel
completes the faulted command without performing it (R280, R281, R284, R305, R307, R348). -/
def Obligations.EngineEvents : Prop :=
  (∀ (r : StreamRef) (s : State) (st : Stream) (q : Cmd) (e : Eng), headReady s r = some (st, q, e) → q.final = true →
    engStatus s e (headRanges s e st) = .ok → st.w = 0 →
    prioOpen s = false → ∃ t, Completes (.engineCommandComplete r) s t
      ∧ t.stream r = { st with c := q.num, pos := nextPos st q, q := st.q.tail } ∧ t.mem = s.mem)
  ∧ (∀ (r : StreamRef) (s : State) (st : Stream) (q : Cmd) (e : Eng) (l : Bool) (last : Word),
    headReady s r = some (st, q, e) → engStatus s e (headRanges s e st) = .ok → q.kind = .entry l last → q.fn = 0x7F →
    let ws := entryWords s e st.pos
    let walk := st.pos ≠ 0 ∧ (if l then st.pos = last else param ws 1 ≠ 0) ∧ entryBad s q r.eng.toNat ws = false
    ∃ t q', Completes (.chainEntryExecute r) s t ∧ t.head? r = some q'
      ∧ (¬ walk → q'.leaveErr = some 9 ∧ q'.fn = 0x7F)
      ∧ (walk → q'.fn = entryFn (param ws 0) ∧ q'.ps = (ws.drop 2).take 6 ++ [param ws 1] ∧ q'.lvl = entryLvl (param ws 0)))
  ∧ (∀ (r : StreamRef) (s : State) (q : Cmd) (code sub : Nat) (id : BlockId), s.head? r = some q →
    (s.stream r).fault = none → q.wait = [] → (if r.eng = 3 then s.descheduled (s.streamCtx r) else engStopped s r.unit) = false →
    headTrouble s r (s.stream r) q = some (code, sub) → code ≠ 0x0B → (∀ n, q.kind ≠ .fired n) → q.blk = some id →
    s.coreNums.Nodup →
    ∃ t, Completes (.engineDeferredFault r) s t ∧ (t.stream r).fault = some (code, sub)
      ∧ (∀ c sl b, c ∈ s.coreNums → sl ≠ handlerSlot → s.block? c sl = some b → b.launch = id.launch → b.lin = id.lin →
        b.failing = false → ∃ b', t.block? c sl = some b' ∧ b'.deferred = b.deferred
          ++ [⟨0, 0, [], causeWord code sub true, 0, BitVec.ofNat 64 (r.stream.toNat + 16 * r.eng.toNat),
            BitVec.ofNat 64 q.num, true, none⟩]))
  ∧ (∀ (x k : Nat) (v : Word) (s : State), k < 1024 →
    let new := Tab.get 0 (s.ctx x).counters k + v
    (∀ a ∈ (s.ctx x).arms, a.counter ≠ k ∨ new.toNat < a.thr.toNat) →
    ∃ t, Completes (.counterChange x k v) s t ∧ Tab.get 0 (t.ctx x).counters k = new ∧ (t.ctx x).arms = (s.ctx x).arms
      ∧ (∀ j, j ≠ k → Tab.get 0 (t.ctx x).counters j = Tab.get 0 (s.ctx x).counters j) ∧ t.mem = s.mem)
  ∧ (∀ (x k : Nat) (v : Word) (s : State), k < 1024 →
    let new := Tab.get 0 (s.ctx x).counters k + v
    let due := (s.ctx x).arms.filter (fun a => a.counter == k && a.thr.toNat ≤ new.toNat)
    ∃ s1 : State, (s1.ctx x).counters = Tab.set 0 (s.ctx x).counters k new
      ∧ (∀ a, a ∈ (s1.ctx x).arms ↔ a ∈ (s.ctx x).arms ∧ a ∉ due)
      ∧ Completes (.counterChange x k v) s (due.foldl (fun t a => t.fire x a) s1))
  ∧ (∀ (x : Nat) (a : Arm) (s : State),
    let w := param a.entry 0
    let r : StreamRef := ⟨3, x, BitVec.ofNat 4 (entryStream w)⟩
    let t := s.fire x a
    ∃ q : Cmd, (t.stream r).q = (s.stream r).q.filter (fun q => q.left) ++ q :: (s.stream r).q.filter (fun q => !q.left)
      ∧ q.shown = ((s.stream r).i + 1, entryFn w, true) ∧ q.ps = a.entry.drop 2 ∧ q.kind = .fired a.counter ∧ q.lvl = entryLvl w
      ∧ q.blk = a.blk ∧ (t.stream r).i = (s.stream r).i + 1 ∧ (∀ r', r' ≠ r → t.stream r' = s.stream r') ∧ t.mem = s.mem)
  ∧ (∀ (x : Nat) (v : Word) (s : State) (q : Cmd) (rest : List Cmd) (y : Nat × Nat), v.getLsbD 8 = false → v.extractLsb' 4 2 = 3 →
    let r := actionStream x (field v 16 9) v
    (s.stream r).fault = some y → (s.stream r).q = q :: rest → q.fn ≠ 0x60 →
    ∃ t q', Completes (.streamRetry x v) s t ∧ (t.stream r).fault = none ∧ (t.stream r).q = q' :: rest
      ∧ q'.num = q.num ∧ (q.final = false → q'.done = 0 ∧ q'.got = [] ∧ q'.landed = []) ∧ q'.wait = [] ∧ (t.stream r).c = (s.stream r).c ∧ t.mem = s.mem)
  ∧ (∀ (x : Nat) (v : Word) (s : State) (q : Cmd) (y : Nat × Nat), v.getLsbD 8 = true → v.extractLsb' 4 2 = 3 →
    let r := actionStream x (field v 16 9) v
    (s.stream r).fault = some y → (s.stream r).q = [q] → q.left = true → q.fn ≠ 0x60 → q.fn ≠ 0x62 → (s.stream r).w = 0 →
    ∃ t, Completes (.streamCancel x v) s t ∧ (t.stream r).fault = none ∧ (t.stream r).q = [] ∧ (t.stream r).c = q.num
      ∧ t.mem = s.mem)

/-! ### The system instructions -/

namespace Sys2Proof.Machine

/-- The bits that a system register keeps of a value written to it; registers that only read keep none (R345-R349). -/
def sysMask (i : Nat) : Option Word :=
  if 0x108 ≤ i then some 0xFF
  else if 0x100 ≤ i then some 0xFFFFFFFFFFFFFFFF
  else match i with
  | 0x001 => some 0x000000020000FFFF
  | 0x002 => some 0xFFFFFFFFFFFFFFF8
  | 0x003 => some 0xFFFFFFFFFFFFFFFF
  | 0x004 => some 0xFFFFFFFFFFFFFFFF
  | 0x006 => some 0x00FFFFFFFFFFFFF8
  | 0x00A => some 0xFFFFFFFFFFFFFFFF
  | 0x00B => some 0x00000000FFFFFFFF
  | 0x00C => some 1
  | _ => none

end Sys2Proof.Machine

/-- SYSRD gives the system register of its index; SYSWR, in a fresh chunk, writes it and is a chunk by itself; a value that the
register does not take is ILLEGAL 0x07. A register that was written reads as written in the bits that it has, its reserved bits
read zero, and every other system register reads as before; `ctl.status` keeps its two bits beside the count of queued faults
(R8, R345, R346, R353). -/
def Obligations.SystemRegisterWords : Prop :=
  (∀ (f : SysF) (s : State) (e : Site), Runs (.sysrd f) s e → ∃ t, Completes (.sysrd f) s t
    ∧ GroupGoes s t e (fun th => (putD f.o (ctlRead s e f.idx.toNat) th).next) ∧ OnlyGroup s t e)
  ∧ (∀ (f : SysF) (s : State) (e : Site), (Instr.syswr f).wf = true → s.site? (fullActive (wordOf (.syswr f))) = some e → e.act ≠ [] →
    illegal e.t.lanes (wordOf (.syswr f)) = none → levelFault e.t (wordOf (.syswr f)) = none →
    ctlBad f.idx.toNat (e.read s e.ref f.o) = true →
    Completes (.syswr f) s (s.takeFault e.cur 1 7 (laneMask e.act) (wordOf (.syswr f))))
  ∧ (∀ (f : SysF) (s : State) (e : Site), Runs (.syswr f) s e → (s.core e.cur.core).chunk.fresh = true →
    ∃ t, t = ((s.acts e).ctlWrite e.cur.core (e.ctx s) f.idx.toNat (e.read s e.ref f.o)).pass e
      ∧ Completes (.syswr f) s { t.closeAfter e.cur.core with cur := t.cur })
  ∧ (∀ (s : State) (e : Site) (i : Nat) (w : Word),
    let t := s.ctlWrite e.cur.core (e.ctx s) i w
    (∀ m, sysMask i = some m → ctlRead t e i = w &&& m)
    ∧ (i = 0 → ctlRead t e 0 = (w &&& 3) ||| (ctlRead s e 0 &&& ~~~3))
    ∧ (∀ j, j ≠ i → i ≠ 0x010 → ctlRead t e j = ctlRead s e j))

/-- ERET, when no other fault waits or has been forwarded: the served group runs on at `ctl.epc`, threads stopped by GRPSEL at their own
PCs, and the handler thread is gone with its registers; a deferred fault of a block under EXACT, whose waits the ERET evaluates anew,
stands apart. A fault that has waited meanwhile is entered before the core issues again, in a new chunk, with its own cause, PC, mask and
address (R281, R344, R356). -/
def Obligations.EretReturns : Prop :=
  (∀ (g : Guard) (s : State) (e : Site) (f : FaultRec), Runs (.eret g) s e →
    (s.core e.cur.core).arch.serving = some f → (s.core e.cur.core).arch.faultq = [] → f.slot ≠ handlerSlot →
    (∀ h ∈ (s.core e.cur.core).arch.fwd, h.2.slot ≠ f.slot) →
    (∀ b, f.dfr = true → s.block? e.cur.core f.slot = some b → s.isExact f.slot b = false) →
    ∃ t, Completes (.eret g) s t ∧ (t.core e.cur.core).arch.serving = none ∧ t.block? e.cur.core handlerSlot = none
      ∧ (∀ l th, s.thread? e.cur.core f.slot l = some th → ∃ th', t.thread? e.cur.core f.slot l = some th'
        ∧ (th.exited = false → th.wait = .stopped → th'.wait = .run
          ∧ th'.pc = (if f.tids.contains l then (s.core e.cur.core).arch.epc else th.pc))
        ∧ (th.exited = true ∨ th.wait ≠ .stopped → th' = th)
        ∧ th'.v = th.v ∧ th'.p = th.p)
      ∧ (∀ a, Memory.byte t.mem a = Memory.byte s.mem a))
  ∧ (∀ (s : State) (c : Nat) (f : FaultRec) (q : List FaultRec) (b : Block), s.coreStalled c = false →
    (s.core c).chunk.fresh = true → (s.core c).arch.serving = none → (s.core c).arch.faultq = f :: q → f.slot ≠ handlerSlot →
    s.block? c f.slot = some b → (s.ctx (s.ctxOf b)).handler ≠ 0 →
    let t := s.queued c
    let a := (t.core c).arch
    a.serving = some f ∧ a.faultq = q ∧ a.cause = f.cause ∧ a.epc = f.epc ∧ a.emask = f.emask ∧ a.eaddr = f.eaddr
      ∧ (∃ h, t.thread? c handlerSlot 0 = some h ∧ h.pc = (s.ctx (s.ctxOf b)).handler ∧ h.v = [] ∧ h.p = 0 ∧ h.wait = .run)
      ∧ (t.core c).chunk.fresh = true ∧ t.cur = s.cur ∧ t.mem = s.mem)

/-- GRPSEL selects a group of the served block, stops its members and answers its descriptor, or 0; GRPRD gives an item of a member;
GRPWR writes a lane register of the members that its mask names; GRPRES lets the selected group run on, at its PC or past it
(R354-R356). -/
def Obligations.GroupWords : Prop :=
  (∀ (f : GrpF) (s : State) (e : Site) (slot : Nat) (b : Block), Runs (.grpsel f) s e → servedSlot s e.cur.core = some slot →
    s.block? e.cur.core slot = some b → slot ≠ e.cur.slot →
    (∀ q ts, selection s e.cur.core slot b f.x (e.read s e.ref f.a) = some (q, ts) →
      ∃ t ent, Completes (.grpsel f) s t
        ∧ GroupGoes s t e (fun th => (putD f.d (grpWord true q (b.pick ts) ent) th).next)
        ∧ (let a := (t.core e.cur.core).arch
           a.grpValid = true ∧ a.grpQuad = q ∧ a.grpSlot = slot ∧ a.grpTids = ts)
        ∧ (∀ l th, s.thread? e.cur.core slot l = some th → ts.contains l = true → th.exited = false →
          t.thread? e.cur.core slot l = some th.select))
    ∧ (selection s e.cur.core slot b f.x (e.read s e.ref f.a) = none →
      ∃ t, Completes (.grpsel f) s t ∧ GroupGoes s t e (fun th => (putD f.d 0 th).next)
        ∧ (t.core e.cur.core).arch.grpValid = false))
  ∧ (∀ (f : Grp3) (s : State) (e : Site), Runs (.grprd f) s e →
    let lane := field (e.read s e.ref f.y) 0 5
    let item := e.read s e.ref f.z
    (memberOn s e.cur.core lane = none → ∃ t, Completes (.grprd f) s t
      ∧ GroupGoes s t e (fun th => (putD f.x 0 th).next) ∧ OnlyGroup s t e)
    ∧ (∀ th m, memberOn s e.cur.core lane = some th → memberSite s e.cur.core th = some m →
      (s.launchOf m.b).race = false → lehrItemBusy s e.cur.core item = false → itemBad th item = false →
      ∃ t, Completes (.grprd f) s t ∧ GroupGoes s t e (fun o => (putD f.x (memberItem s m th item) o).next) ∧ OnlyGroup s t e))
  ∧ (∀ (f : Grp3) (s : State) (e : Site) (i : BitVec 7) (b : Block), Runs (.grpwr f) s e →
    field (e.read s e.ref f.y) 10 2 = 0 → Operand.get ((e.read s e.ref f.y).extractLsb' 0 10) = .lane i →
    (s.core e.cur.core).arch.grpSlot ≠ e.cur.slot → s.block? e.cur.core (s.core e.cur.core).arch.grpSlot = some b →
    lanePresent (s.treeOf (s.core e.cur.core).arch.grpSlot b).lanes i.toNat = true →
    ∃ t, Completes (.grpwr f) s t ∧ GroupGoes s t e Thread.next
      ∧ (∀ k th, k < 32 → (e.read s e.ref f.x).getLsbD k = true → memberOn s e.cur.core k = some th →
        ∃ th', t.thread? e.cur.core (s.core e.cur.core).arch.grpSlot th.ltid = some th'
          ∧ th'.lane i.toNat = e.read s e.ref f.z))
  ∧ (∀ (f : GrpRes) (s : State) (e : Site), Runs (.grpres f) s e →
    let a := (s.core e.cur.core).arch
    a.grpValid = true → a.grpSlot ≠ e.cur.slot →
    ∃ t, Completes (.grpres f) s t ∧ GroupGoes s t e Thread.next ∧ (t.core e.cur.core).arch.grpValid = false
      ∧ (∀ l th, s.thread? e.cur.core a.grpSlot l = some th → a.grpTids.contains l = true → th.exited = false →
        th.wait = .stopped → ∃ th', t.thread? e.cur.core a.grpSlot l = some th' ∧ th'.wait = .run
          ∧ th'.pc = if f.skip then th.pc + 8 else th.pc))

/-- TLBINV, once nothing of the partition has an access through what it drops still to perform, performs the core's released writes
and drops the translations that it names on every core and in every cluster of the partition; until then it does not issue. That its own
launch's phase is not waited for is the model's choice (log 83). HALT ends the service: the handler is gone, the served block fails, with
its queued faults discarded, and the record 0x0011 is posted; then the next fault is entered. TRAP always takes TRAPSW with its code and the reference member's operand; BKPT takes BKPT when
`ctl.status.bkpt` is set, and is a NOP otherwise (R350, R352, R357, R358, R382). -/
def Obligations.TrapsTlbinvHalt : Prop :=
  (∀ (f : GrpF) (s : State) (e : Site), Runs (.tlbinv f) s e →
    let va := (e.read s e.ref f.a).toNat
    (invPending s (s.ctxOf e.b) va f.x (some e.b.launch) = true → Completes (.tlbinv f) s s.hold)
    ∧ (invPending s (s.ctxOf e.b) va f.x (some e.b.launch) = false → landsBlocked s (fun q => q.core == e.cur.core) = false →
    ∃ t, Completes (.tlbinv f) s t ∧ GroupGoes s t e Thread.next ∧ (∀ q ∈ t.flights, q.core ≠ e.cur.core)
      ∧ (∀ c ∈ s.coreNums, s.inPart (s.ctx (s.ctxOf e.b)).part c = true →
        (t.core c).tlb = (s.core c).tlb.filter (fun k => !k.dropped (s.ctxOf e.b) va f.x))
      ∧ (∀ k ∈ s.partCtlbs (s.ctxOf e.b),
        Tab.get [] t.ctlb k = (Tab.get [] s.ctlb k).filter (fun k => !k.dropped (s.ctxOf e.b) va f.x)
        ∧ Tab.get [] t.wcache k = (Tab.get [] s.wcache k).filter (fun k => !k.dropped (s.ctxOf e.b) va f.x))
      ∧ (∀ c, s.inPart (s.ctx (s.ctxOf e.b)).part c = false → (t.core c).tlb = (s.core c).tlb)))
  ∧ (∀ (f : One) (s : State) (e : Site) (q : FaultRec) (b : Block), Runs (.halt f) s e → (s.core e.cur.core).chunk.fresh = true →
    (s.core e.cur.core).arch.serving = some q → q.slot ≠ handlerSlot → s.block? e.cur.core q.slot = some b →
    let a := (s.core e.cur.core).arch
    ∃ (s1 : State) (b' : Block), Completes (.halt f) s (((s1.post (s.ctxOf b) 0x11 0
        [(0x10, natLe 8 ((e.read s e.ref f.o) &&& 0xFFFF).toNat), (0x18, natLe 8 a.cause.toNat), (0x20, natLe 8 a.epc.toNat),
          (0x30, natLe 4 b.lin), (0x34, natLe 4 e.cur.core)]).enterHandlers e.cur.core).seal e.cur.core)
      ∧ (s1.core e.cur.core).arch.serving = none ∧ s1.block? e.cur.core handlerSlot = none
      ∧ (s1.core e.cur.core).arch.faultq = a.faultq.filter (fun g => g.slot != q.slot)
      ∧ s1.block? e.cur.core q.slot = some b' ∧ b'.failing = true ∧ b'.deferred = []
      ∧ b'.threads = b.threads.map (fun th => if th.exited then th else { th with wait := .stopped, resv := none })
      ∧ (∀ ln, s.launch? b.launch = some ln → ∃ ln', s1.launch? b.launch = some ln' ∧ ln'.failed = true)
      ∧ (∀ sl, sl ≠ q.slot → sl ≠ handlerSlot → s1.block? e.cur.core sl = s.block? e.cur.core sl) ∧ s1.mem = s.mem)
  ∧ (∀ (f : TrapF) (s : State) (e : Site), Runs (.trap f) s e →
    Completes (.trap f) s (s.takeFault e.cur 0x0D f.k.toNat (laneMask e.act) (e.read s e.ref f.a)))
  ∧ (∀ (f : TrapF) (s : State) (e : Site), Runs (.bkpt f) s e →
    ((s.core e.cur.core).arch.status.getLsbD 0 = true →
      Completes (.bkpt f) s (s.takeFault e.cur 0x0E f.k.toNat (laneMask e.act) (e.read s e.ref f.a)))
    ∧ ((s.core e.cur.core).arch.status.getLsbD 0 = false → ∃ t, Completes (.bkpt f) s t ∧ GroupGoes s t e Thread.next
      ∧ OnlyGroup s t e))

/-! ### Chunks, phases, blocks and launches -/

/-- A squash puts a core back to the start of its chunk: threads and fault registers as they were recorded, but for reservations,
which end; what the chunk wrote is gone (R137). -/
def Obligations.SquashRestores : Prop :=
  ∀ (c : Nat) (s : State) (a : CoreArch), (s.core c).chunk.snap = some a → (s.core c).chunk.bad = none →
    (∀ e ∈ (s.core c).arch.blocks, s.isExact e.1 e.2 = false) → (∀ e ∈ a.blocks, s.isExact e.1 e.2 = false) →
    let t := s.squash c
    (t.core c).chunk.ovl = [] ∧ (t.core c).chunk.held = [] ∧ (t.core c).squashes = (s.core c).squashes + 1
      ∧ (t.core c).arch.cause = a.cause ∧ (t.core c).arch.epc = a.epc ∧ (t.core c).arch.serving = a.serving
      ∧ (∀ sl b, Tab.find? a.blocks sl = some b → ∃ b', t.block? c sl = some b'
        ∧ b'.threads = b.threads.map (fun th => { th with resv := none }) ∧ b'.nregs = b.nregs ∧ b'.bars = b.bars)
      ∧ t.mem = s.mem

namespace Sys2Proof.Machine

/-- The byte that some writes, in their order, leave at a place. -/
def lastByte (o : Overlay) (a : Nat) : Option Byte := (o.reverse.find? (fun e => e.1 == a)).map (fun e => e.2)

end Sys2Proof.Machine

/-- An EXACT phase merges when every block has reached it, and the next one opens for its blocks: the blocks' bytes are written in
ascending block, then the bytes of their publishes, so that the last write of a byte stays; then each held contribution is applied to
merged memory, and touches nothing else. A block retires when its threads have exited and nothing of it is outstanding, and counts for
its launch. A launch retires when its last block has: its status is 4, or 5 when it has failed, in the record too, and its completion word
receives it; an instance counts for its template (R38, R140, R143, R366-R368). -/
def Obligations.EndsOfWork : Prop :=
  (∀ (x rec l : Nat) (ls : List Nat) (ln : Launch) (s : State), recLaunches s x rec (mergeReady s) = l :: ls →
    s.launch? l = some ln → Completes (.phaseMerge x rec) s (s.mergePhase l ln))
  ∧ (∀ (l : Nat) (ln : Launch) (s : State), s.launch? l = some ln → ln.det = 2 →
    (∀ c, (s.core c).chunk.bad = none) →
    (∀ x ∈ s.blocksOf l, x.2.2.pheld = [] ∧ ∀ th ∈ x.2.2.threads, ∀ i a b, th.wait ≠ .mem i a b) →
    let t := s.mergePhase l ln
    (∀ a, Memory.byte t.mem a = Memory.byte (s.mergeWrites ln (byLin (s.blocksOf l))).mem a)
      ∧ (((s.blocksOf l).map (fun x => (x.1, x.2.1))).Nodup → (∀ c, (s.core c).chunk.snap = none) →
        ∀ c sl b, (c, sl, b) ∈ s.blocksOf l → s.block? c sl = some b → ∃ b', t.block? c sl = some b' ∧ b'.phase = b.phase + 1
        ∧ b'.pover = [] ∧ b'.pops = [] ∧ b'.nregs = b.nregs
        ∧ ∀ th, b.thread? th.ltid = some th → ∃ th', b'.thread? th.ltid = some th' ∧ th'.v = th.v ∧ th'.p = th.p ∧ th'.pc = th.pc
          ∧ (th.wait = .phase → th'.wait = .run)))
  ∧ (∀ (ln : Launch) (bs : List (Nat × Nat × Block)) (s : State) (a : Nat), (∀ e ∈ bs, ∀ o ∈ e.2.2.pops, a ∉ o.keys) →
    Memory.byte (s.mergeWrites ln bs).mem a = (lastByte (bs.flatMap (fun e => e.2.2.pover)
      ++ bs.flatMap (fun e => (ln.pubs.filter (fun p => p.1 == e.2.2.lin)).flatMap (fun p => p.2))) a).getD (Memory.byte s.mem a))
  ∧ (∀ (c sl : Nat) (o : PhaseOp) (s : State),
    (∀ a, o = .atom a → (a.w = 4 ∨ a.w = 8) → (s.mergeOp c sl o).natMem a.key a.w
      = atomApply a.aop (8 * a.w) (s.natMem a.key a.w) a.x.toNat a.cmp.toNat % 2 ^ (8 * a.w))
    ∧ (∀ k red x ts, o = .acc k red x ts → (s.mergeOp c sl o).wordMem k = (redApp red .rne (s.wordMem k) x).1)
    ∧ (∀ a, a ∉ o.keys → Memory.byte (s.mergeOp c sl o).mem a = Memory.byte s.mem a))
  ∧ (∀ (c sl : Nat) (s : State) (b : Block), s.block? c sl = some b → retirable s c sl b = true →
    ∃ s1 : State, Completes (.blockRetire c sl) s (s1.memberChecks b.launch) ∧ s1.block? c sl = none
      ∧ ((∀ x ∈ s1.blocksOf b.launch, s1.memberGroup x.1 x.2.1 x.2.2 = none) → Completes (.blockRetire c sl) s s1)
      ∧ (∀ ln, s.launch? b.launch = some ln → ∃ ln', s1.launch? b.launch = some ln' ∧ ln'.retired = ln.retired + 1)
      ∧ s1.mem = s.mem)
  ∧ (∀ (x rec l : Nat) (ls : List Nat) (ln : Launch) (s : State), recLaunches s x rec (launchDone s) = l :: ls →
    s.launch? l = some ln → Completes (.launchRetire x rec) s (match ln.parent with
      | some t => (s.releaseLaunch l ln).endInstance l t ln
      | none => (s.releaseLaunch l ln).endRecord l (if ln.failed = true ∨ ln.noForm = true then 5 else 4)))
  ∧ (∀ (l st : Nat) (ln : Launch) (s : State), s.launch? l = some ln → (st = 4 ∨ st = 5) →
    (∃ ln', (s.endRecord l st).launch? l = some ln' ∧ ln'.status = st)
    ∧ (st = 4 → ln.nDeps = 0 → ln.succ = none → ln.parent = none → (∀ c, (s.core c).chunk.bad = none) →
      (ln.doneWord = 0 → Memory.byte (s.endRecord l st).mem (ln.rec_ + 0x34) = 4
        ∧ ∀ a, a ≠ ln.rec_ + 0x34 → Memory.byte (s.endRecord l st).mem a = Memory.byte s.mem a)
      ∧ (ln.doneWord ≠ 0 → (s.endRecord l st).natMem ln.doneWord 8 = 4)))
  ∧ (∀ (l t : Nat) (ln tn : Launch) (s : State), l ≠ t → s.launch? l = some ln → s.launch? t = some tn →
    (∃ ln', (s.endInstance l t ln).launch? l = some ln' ∧ ln'.status = if ln.failed then 5 else 4)
    ∧ ∃ tn', (s.endInstance l t ln).launch? t = some tn' ∧ tn'.instDone = tn.instDone ++ [ln.instance_]
      ∧ tn'.failed = (tn.failed || ln.failed))

/-! ### Queues and scheduling -/

/-- A doorbell within the queue's bounds sets the tail and starts the queue; another, one that moves the tail backwards among them, posts
the event code 0x34, and so does one of a queue whose ring size is outside 16 to 65,536 (log 63). The device reads the queue's
descriptor for it. A doorbell behind writes of the host that have not taken effect waits for them (R363, R418). -/
def Obligations.DoorbellRings : Prop :=
  ∀ (off : Nat) (v : Word) (s : State), off % 8 = 0 → off / 4096 < 64 → off % 4096 / 8 < 256 →
    (s.ctx (off / 4096)).created = true →
    let x := off / 4096
    let q := off % 4096 / 8
    let d := qDesc s x q
    let good := d.enabled = true ∧ 4 ≤ d.log ∧ d.log ≤ 16 ∧ d.head ≤ v.toNat ∧ v.toNat ≤ d.head + 2 ^ d.log
      ∧ (s.queue x q).tail ≤ v.toNat
    (s.bar2Wait = [] → hostPending s = [] →
      (good → ∃ t, Completes (.doorbell off v) s t ∧ (t.queue x q).tail = v.toNat ∧ (t.queue x q).on = true ∧ t.mem = s.mem)
      ∧ (¬ good → Completes (.doorbell off v) s ((s.lookAt d.key 64).postQueue x 0 0x34 q)))
    ∧ ((s.bar2Wait ≠ [] ∨ hostPending s ≠ []) →
      Completes (.doorbell off v) s { s with bar2Wait := s.bar2Wait ++ [.doorbell x q v (hostPending s)] })

/-- The packet at the head of a queue is consumed by the event of its type: a NOP alone, a launch's record dequeued, a dependence
counter decremented, the level set or the fence passed once every earlier launch of the queue has ended; a packet of an unassigned
type, or with a byte set that is to be zero, is skipped. Consuming a packet moves the head of its queue by one, in memory, and a
decrement takes its amount from the counter of a record. Reading a packet and its descriptor touches their lines (R120, R364, R366). -/
def Obligations.PacketsConsumed : Prop :=
  (∀ (x q : Nat) (s : State) (p : Packet64), headPacket s x q = some p → let s' := s.sawPacket p
    (p.good = true → p.ty = 0 → Completes (.packetNop x q) s (s'.consume x q p))
    ∧ (p.good = true → p.ty = 1 → Completes (.launchPacket x q) s ((s'.dequeue x q p.addr p.d).consume x q p))
    ∧ (p.good = true → p.ty = 2 → p.val ≠ 0 → p.val.toNat < 2 ^ 32 →
      Completes (.decrPacket x q) s ((s'.decrement x q p.addr p.val.toNat).consume x q p))
    ∧ (p.good = true → p.ty = 3 → p.val.toNat ≤ 3 → queueIdle s x q = true →
      Completes (.setdet x q) s ((s'.outWrite (p.d.key + 0xA) (natLe 1 p.val.toNat)).consume x q p))
    ∧ (p.good = true → p.ty = 4 → queueIdle s x q = true → Completes (.qfence x q) s (s'.consume x q p))
    ∧ (p.good = true → (p.ty = 3 ∧ p.val.toNat ≤ 3 ∨ p.ty = 4) → queueIdle s x q = false →
      ∃ t, Completes (if p.ty = 3 then .setdet x q else .qfence x q) s t ∧ (t.queue x q).waiting = true ∧ t.mem = s.mem)
    ∧ (p.good = true → p.ty = 4 → queueIdle s x q = true → (s.queue x q).waiting = true →
      Completes (.queueWaitRelease x q) s (s'.consume x q p))
    ∧ (4 < p.ty ∨ p.good = false → Completes (.unassignedPacket x q) s (s'.skip x q p)))
  ∧ (∀ (x q : Nat) (s : State) (p : Packet64), (∀ c, (s.core c).chunk.bad = none) →
    Memory.read (s.consume x q p).mem (p.d.key + 0x10) 8 = natLe 8 (p.d.head + 1)
      ∧ (∀ a, a < p.d.key + 0x10 ∨ p.d.key + 0x18 ≤ a → Memory.byte (s.consume x q p).mem a = Memory.byte s.mem a))
  ∧ (∀ (x q rec n : Nat) (s : State), (∀ c, (s.core c).chunk.bad = none) → n < s.natMem (rec + 0x30) 4 →
    (s.decrement x q rec n).natMem (rec + 0x30) 4 = s.natMem (rec + 0x30) 4 - n
      ∧ (∀ a, a < rec + 0x30 ∨ rec + 0x34 ≤ a → Memory.byte (s.decrement x q rec n).mem a = Memory.byte s.mem a))

namespace Sys2Proof.Machine

/-- A row position of a core that a resident block's thread occupies. -/
def Occupied (s : State) (c : Nat) (p : Nat × Nat) : Prop :=
  ∃ e ∈ (s.core c).arch.blocks, e.1 < 16 ∧ ∃ th ∈ e.2.threads, (th.quad, th.pos) = p

/-- The number of the first check of R373, in order, that a place record fails; none when it fails none. The launch that it names, its
rows, and what the core has in use are given. -/
def PlaceAnswer (s : State) (c : Nat) (r : BitVec 256) (a : Option Nat) : Prop :=
  let x := bindField r 8 6
  let q0 := bindField r 14 2
  let u := s.use c x
  let bad1 := (s.block? c (bindField r 0 4)).isSome = true
  let bad2 := (s.core c).preempt.isSome = true ∨ ∃ e ∈ (s.core c).arch.blocks, s.ctxOf e.2 ≠ x
  (bad1 → a = some 1) ∧ (¬ bad1 → bad2 → a = some 2)
    ∧ (¬ bad1 → ¬ bad2 → bindLaunch s r = none → a = some 3)
    ∧ ∀ l ln, ¬ bad1 → ¬ bad2 → bindLaunch s r = some l → s.launch? l = some ln →
      let t := ln.tree
      let bad3 := ln.ctx ≠ x ∨ ln.unplaced = false ∨ ln.next ≠ bindField r 64 32 ∨ lowerPlaced s ln = false
      let bad4 := (∃ d, d < 4 ∧ (bindPos r ((q0 + d) % 4)).length ≠ t.rowsAt d) ∨ ∃ p ∈ rowPlan t q0 (bindPos r), Occupied s c p
      let bad5 := ∃ d, d < 4 ∧ 1024 < u.regs.getD ((q0 + d) % 4) 0 + t.rowsAt d * t.laneRegs
      let bad6 := u.scratchPlan t (ln.det == 2) (ln.nodeNeeds ln.next) = none ∨ u.capsOk t q0 = false
        ∨ instanceOk s ln ln.next c = false ∨ s.inPart (s.ctx x).part c = false
      (bad3 → a = some 3) ∧ (¬ bad3 → bad4 → a = some 4) ∧ (¬ bad3 → ¬ bad4 → bad5 → a = some 5)
        ∧ (¬ bad3 → ¬ bad4 → ¬ bad5 → bad6 → a = some 6) ∧ (¬ bad3 → ¬ bad4 → ¬ bad5 → ¬ bad6 → a = none)

end Sys2Proof.Machine

/-- A scheduling pass goes over the partition's launches in their order of precedence: class, then those with a budget before those
without, then the earlier deadline, then the order in which they became ready. In a launch's turn nothing happens while a launch ahead of
it has a block that a core could take (that this holds for resumption too is log 60, the model's reading); else its pre-empted blocks
whose cores can take them return as they were saved, and its next block goes to the core with the most free rows, the lowest number on a
tie, or, of a persistent launch, all its blocks or none. A place record is answered with the number of the first check that it fails, and
changes nothing then; one that fails none places the next block at the slot and on the rows that it names. A resume record is checked
alike, and one that does not repeat its place record is rejected with 0 (log 59, the model's choice). A launch that has reached its
reserve starts the pre-emption of the chosen cores, and one past its deadline is reported once (R369-R375). -/
def Obligations.SchedulingEvents : Prop :=
  (∀ (p : Nat) (s : State), s.fwSwitch = .none → s.stopped = false →
    Completes (.schedulingPass p) s (s.passes p (passBound s)))
  ∧ (∀ (p n : Nat) (s : State), let t := s.passOver (scheduled s p) []
    s.passes p (n + 1) = if t.blockSeq = s.blockSeq ∧ savedCount t = savedCount s then s else t.passes p n)
  ∧ (∀ (p : Nat) (s : State),
    (∀ l, l ∈ scheduled s p ↔ ∃ ln, s.launch? l = some ln ∧ (s.ctx ln.ctx).created = true ∧ (s.ctx ln.ctx).part = p
      ∧ (s.ctx ln.ctx).mode.getLsbD 0 = false ∧ ln.template = false ∧ (ln.status = 2 ∨ ln.status = 3))
    ∧ (scheduled s p).Pairwise (fun l m => ∀ a b, s.launch? l = some a → s.launch? m = some b →
      a.cls < b.cls ∨ (a.cls = b.cls ∧ ((a.budget ≠ 0 ∧ b.budget = 0)
        ∨ (a.budget ≠ 0 ∧ b.budget ≠ 0 ∧ a.readyAt + a.budget < b.readyAt + b.budget)
        ∨ (a.budget ≠ 0 ∧ b.budget ≠ 0 ∧ a.readyAt + a.budget = b.readyAt + b.budget ∧ a.readySeq ≤ b.readySeq)
        ∨ (a.budget = 0 ∧ b.budget = 0 ∧ a.readySeq ≤ b.readySeq)))))
  ∧ (∀ (l : Nat) (ahead : List Nat) (s : State),
    ((∃ m ∈ ahead, couldPlace s m = true) → s.passTurn l ahead = s)
    ∧ ((∀ m ∈ ahead, couldPlace s m = false) → s.passTurn l ahead = (s.resumeAll l (savedBlocks s l).length).placeTurn l)
    ∧ (savedBlocks s l = [] → s.resumeAll l (savedBlocks s l).length = s)
    ∧ ∀ v n, (savedBlocks s l).find? (canResume s) = some v → s.resumeAll l (n + 1) = (s.resumeBlock v).resumeAll l n)
  ∧ (∀ (l : Nat) (ln : Launch) (s : State), s.launch? l = some ln →
    (ln.unplaced = false ∨ lowerPlaced s ln = false → s.placeTurn l = s)
    ∧ (ln.unplaced = true → lowerPlaced s ln = true → (ln.tree.persist = 0 ∨ ln.next ≠ 0) →
      (chooseCore s ln ln.next = none → s.placeTurn l = s)
      ∧ ∀ c p, chooseCore s ln ln.next = some (c, p) → s.placeTurn l = s.placeBlock c l ln p)
    ∧ (ln.unplaced = true → lowerPlaced s ln = true → ln.tree.persist ≠ 0 → ln.next = 0 →
      s.placeTurn l = (placeMany s l ln.tree.persist).getD s))
  ∧ (∀ (ln : Launch) (lin c : Nat) (p : Plan) (s : State), chooseCore s ln lin = some (c, p) →
    corePlan s ln lin c = some p ∧ s.inPart (s.ctx ln.ctx).part c = true ∧ coreTaken s c ln.ctx = false
      ∧ instanceOk s ln lin c = true ∧ s.block? c p.slot = none ∧ (∀ sl, sl < p.slot → s.block? c sl ≠ none)
      ∧ (∀ r ∈ p.rows, ¬ Occupied s c r)
      ∧ ∀ d q, d ∈ partCores s (s.ctx ln.ctx).part → corePlan s ln lin d = some q →
        (s.use d ln.ctx).allRows ln.tree < (s.use c ln.ctx).allRows ln.tree
          ∨ ((s.use d ln.ctx).allRows ln.tree = (s.use c ln.ctx).allRows ln.tree ∧ c ≤ d))
  ∧ (∀ (c l : Nat) (ln : Launch) (p : Plan) (s : State), s.launch? l = some ln → ∃ (s1 : State) (ln' : Launch),
    s.placeBlock c l ln p = (s1.running l).memberChecks l ∧ s1.block? c p.slot = some (newBlock ln l ln.next s.blockSeq p)
      ∧ s1.launch? l = some ln' ∧ ln'.next = ln.next + 1 ∧ ln'.status = ln.status ∧ s1.blockSeq = s.blockSeq + 1
      ∧ (∀ d sl, d ≠ c ∨ sl ≠ p.slot → s1.block? d sl = s.block? d sl))
  ∧ (∀ (l : Nat) (ln : Launch) (s : State), s.launch? l = some ln → ln.status = 2 → ln.parent = none →
    ∃ ln', (s.running l).launch? l = some ln' ∧ ln'.status = 3)
  ∧ (∀ (v : SavedAt) (sv : Saved) (s : State), (s.core v.core).saved[v.pos]? = some sv → v.slot ≠ handlerSlot →
    sv.arch.serving = none → sv.arch.faultq = [] → (s.core v.core).arch.faultq = [] →
    (∀ th ∈ v.blk.threads, (∀ i a b, th.wait ≠ .mem i a b) ∧ ∀ d k, th.wait ≠ .nbr d k) →
    ∃ s1 : State, s.resumeBlock v = (s1.wakeDrains v.core).memberChecks v.blk.launch ∧ s1.block? v.core v.slot = some v.blk
      ∧ (s1.core v.core).saved = ((s.core v.core).saved.set v.pos { sv with arch := sv.arch.without v.slot }).filter (fun o =>
        !o.arch.blocks.isEmpty))
  ∧ (∀ (c : Nat) (r : BitVec 256) (s : State), c < 384 → bindHeld s r = false →
    (bindField r 5 3 = 0 → bindReserved r = true → ∃ a, PlaceAnswer s c r a ∧ (s.bindPlace c r).2 = a
      ∧ Completes (.bindPlace c r) s (s.bindPlace c r).1
      ∧ (a ≠ none → Completes (.bindPlace c r) s s)
      ∧ (a = none → ∃ l ln p, bindLaunch s r = some l ∧ s.launch? l = some ln ∧ p.slot = bindField r 0 4 ∧ p.q0 = bindField r 14 2
        ∧ p.rows = rowPlan ln.tree p.q0 (bindPos r) ∧ Completes (.bindPlace c r) s (s.placeBlock c l ln p)))
    ∧ (bindField r 5 3 = 1 → bindReserved r = true →
      let x := bindField r 8 6
      let bad1 := (s.block? c (bindField r 0 4)).isSome = true
      let bad2 := (s.core c).preempt.isSome = true ∨ ∃ e ∈ (s.core c).arch.blocks, s.ctxOf e.2 ≠ x
      Completes (.bindResume c r) s (s.bindResume c r).1
      ∧ (bad1 → s.bindResume c r = (s, some 1)) ∧ (¬ bad1 → bad2 → s.bindResume c r = (s, some 2))
      ∧ (¬ bad1 → ¬ bad2 → bindLaunch s r = none → s.bindResume c r = (s, some 3))
      ∧ (∀ l, ¬ bad1 → ¬ bad2 → bindLaunch s r = some l → (∀ v ∈ savedBlocks s l, resumeMatches s c r v = false) →
        s.bindResume c r = (s, some 0))
      ∧ ∀ l v, ¬ bad1 → ¬ bad2 → bindLaunch s r = some l → (savedBlocks s l).find? (resumeMatches s c r) = some v →
        let bad4 := ∃ p ∈ v.blk.rowPlaces, Occupied s c p
        let bad5 := (s.useNow c x).regsOk (s.launchOf v.blk).tree v.blk.q0 = false
        (bad4 → s.bindResume c r = (s, some 4)) ∧ (¬ bad4 → bad5 → s.bindResume c r = (s, some 5))
          ∧ (¬ bad4 → ¬ bad5 → canResume s v = false → s.bindResume c r = (s, some 6))
          ∧ (¬ bad4 → ¬ bad5 → canResume s v = true → s.bindResume c r = (s.resumeBlock v, none)))
    ∧ (bindField r 5 3 = 2 → r.toNat = bindField r 8 6 * 2 ^ 8 + 2 * 2 ^ 5 →
      Completes (.bindPreempt c r) s (s.startPreempt c (bindField r 8 6))))
  ∧ (∀ (x rec l : Nat) (ls : List Nat) (ln : Launch) (s : State), s.fwSwitch = .none → s.stopped = false →
    recLaunches s x rec (reserveReached s) = l :: ls → s.launch? l = some ln →
    let part := (s.ctx x).part
    let going := s.coreNums.filter (fun c => (s.core c).preempt.isSome)
    let order := (s.coreNums.filter (preemptable s part ln.cls)).insertionSort (fun a b => keysGe (rankKeys s a) (rankKeys s b))
    let cores := (selectCores s l part ln.cls order going).filter (fun c => !going.contains c)
    (∀ c ∈ cores, preemptable s part ln.cls c = true) ∧
      Completes (.preemptionReserveReached x rec) s (cores.foldl (fun s c => match (Tab.vals (s.core c).arch.blocks).head? with
        | some b => s.startPreempt c (s.ctxOf b)
        | none => s) s))
  ∧ (∀ (x rec l : Nat) (ls : List Nat) (ln : Launch) (s : State), recLaunches s x rec (deadlineDue s) = l :: ls →
    s.launch? l = some ln →
    Completes (.deadlinePassed x rec) s ((s.updLaunch l (fun ln => { ln with lateMark := true })).post x 0x41 0
      [(0x10, natLe 8 ln.rec_), (0x18, natLe 8 (ln.queue % 2 ^ 16))]))

/-- A placed block's threads stand at the entry of the launch with every register zero, p0 true, in ascending logical thread id, each
in its row's quadrant and at its lane offset (R18, R19, R47, R49, R373). -/
def Obligations.PlacedBlocksStart : Prop :=
  ∀ (ln : Launch) (l lin n : Nat) (p : Plan),
    let b := newBlock ln l lin n p
    b.threads.map (fun th => th.ltid) = List.range ln.tree.blockThreads
      ∧ ∀ th ∈ b.threads, th.pc = ln.entry ∧ (∀ i, th.lane i = 0) ∧ (∀ i, i ≠ 0 → th.pred i = false) ∧ th.pred 0 = true
        ∧ th.frm = 0 ∧ th.fflags = 0 ∧ th.exited = false ∧ th.wait = .run ∧ th.resv = none
        ∧ (th.quad, th.pos) = p.rows.getD (th.ltid / max 1 ln.tree.rowThreads) (0, 0)
        ∧ th.off = ln.tree.laneOff (th.ltid % max 1 ln.tree.rowThreads)

/-- A pre-empted core whose chunk is fresh, with no transfer in flight and no lehr register occupied, goes to the save area once its
engines stand at their step boundaries, with its blocks as they stand, reservations cleared, and is empty; one whose chunk is not fresh
ends it first. The time allowed for its commit point is bounded by a squash. What the save area's bytes become is open, and the model
holds what it saved beside them (log 52; R389, R390). -/
def Obligations.PreemptionSaves : Prop :=
  (∀ (c x : Nat) (s : State), (s.core c).preempt = some x → (s.core c).chunk.fresh = true → (s.core c).chunk.ended = false →
    lehrsBusy s c = false → (∀ e ∈ (s.core c).arch.blocks, e.2.ldx = []) →
    Completes (.preemptComplete c) s ((s.finishUnits c).savePreempted c x))
  ∧ (∀ (c x : Nat) (s : State), (s.core c).preempt = some x → (s.core c).chunk.fresh = false → (s.core c).chunk.ended = false →
    lehrsBusy s c = false → Completes (.preemptComplete c) s (s.endChunk c))
  ∧ (∀ (c x : Nat) (s : State), ∃ s1 : State, (s1.core c).arch.blocks = [] ∧ (s1.core c).preempt = none
    ∧ (s1.core c).chunk.fresh = true ∧ s1.mem = (s.writeSave x).mem
    ∧ (s1.core c).saved = (s.core c).saved ++ [⟨x, { (s.core c).arch with
      blocks := Tab.mapV (s.core c).arch.blocks (fun _ b => b.saved) }⟩]
    ∧ (s.savePreempted c x = s1 ∨ ∃ b n, s.savePreempted c x = s1.post x 0x42 0
      [(0x10, natLe 8 (s1.launchOf b).rec_), (0x18, natLe 8 c), (0x20, natLe 8 n)]))
  ∧ (∀ (c : Nat) (s : State) (x : Nat), (s.core c).preempt = some x → (s.core c).chunk.ended = true →
    (s.core c).chunk.prio = false → Completes (.preemptSquashTimeout c) s (s.squash c))

/-- The oldest unposted translation request of a partition goes to the host when the context's mode said so as it arose, in a record
0x0060 with its granule, class, subcode, tag, and the number of groups that wait, and is answered
by the firmware's policy otherwise; an answer given once takes effect and the request is gone (R350, R383, R384, R420). -/
def Obligations.TranslationService : Prop :=
  (∀ (p : Nat) (q : XReq) (s : State), s.xreqs.find? (fun q => !q.posted && (s.ctx q.ctx).part == p) = some q →
    (q.host = true → ∃ s1 : State, Completes (.translationRequestService p) s (s1.post q.ctx 0x60 0
        [(0x10, natLe 8 (q.gran * 65536)), (0x18, natLe 1 q.cls), (0x19, natLe 1 q.sub), (0x1A, natLe 2 q.tag),
          (0x1C, natLe 4 (waitingCount s q.tag))])
      ∧ (∀ r ∈ s1.xreqs, r.tag = q.tag → r.posted = true) ∧ s1.xanswers = s.xanswers ∧ s1.mem = s.mem)
    ∧ (q.host = false → ∃ t, Completes (.translationRequestService p) s t ∧ t.xanswers = s.xanswers ++ [(q.tag, policyRefuses s q)]
      ∧ (∀ r ∈ t.xreqs, r.tag = q.tag → r.posted = true) ∧ t.mem = s.mem))
  ∧ (∀ (x : Nat) (v : Word) (s : State), (∃ q ∈ s.xreqs, q.tag = field v 0 16 ∧ q.ctx = x ∧ q.posted = true) →
    (∀ a ∈ s.xanswers, a.1 ≠ field v 0 16) →
    ∃ t, Completes (.translationAnswerWrite x v) s t ∧ t.xanswers = s.xanswers ++ [(field v 0 16, v.getLsbD 16)]
      ∧ t.mem = s.mem)
  ∧ (∀ (p tag : Nat) (a : Nat × Bool) (q : XReq) (s : State), s.xanswers.find? (fun a => a.1 == tag) = some a →
    s.xreqs.find? (fun q => q.tag == tag && (s.ctx q.ctx).part == p) = some q →
    ∃ s1 : State, Completes (.translationAnswer p tag) s (s1.giveAnswer q a.2)
      ∧ (∀ r ∈ s1.xreqs, r.tag ≠ tag) ∧ (∀ r ∈ s1.xanswers, r.1 ≠ tag) ∧ s1.mem = s.mem)

/-! ### The host and the plant -/

/-- What reset leaves: scratch zero, the boot at step 1, no context created, no cluster active or in a partition, every port down, every core
without a block, every thread of no block; DEVICE_RESET with its key, POWER_ON and FUNCTION_LEVEL_RESET all lead there. That main memory reads
zero too is the model's choice (log 2). The boot then goes from step to step: it fails at step 1 without a valid image, tries the
other slot once where one fails, stops at a step that fails, and at its end the ports train that flash enables (which these are is the
model's choice, log 64). Step 3 makes the clusters active that have no core which no spare replaces; which cores fail
self-test is open, and which of a die's failing cores its spares replace is the model's choice (logs 93, 108; R345, R403, R423-R425). -/
def Obligations.ResetsLeave : Prop :=
  (∀ (s : State) (v : Word), (v.extractLsb' 16 16 = 0xD04A ∧ v.getLsbD 0 = true) →
    ∃ t, Completes (.deviceReset v) s t ∧ Completes .powerOn s t ∧ Completes .functionLevelReset s t
      ∧ (∀ a, Memory.byte t.mem a = 0) ∧ t.launches = [] ∧ t.msix = []
      ∧ (∀ c, (t.core c).arch.blocks = [] ∧ (t.core c).arch.status = 0 ∧ (t.core c).arch.cause = 0 ∧ (t.core c).arch.epc = 0
        ∧ (t.core c).tlb = [] ∧ (t.core c).chunks = 0)
      ∧ (∀ x, (t.ctx x).created = false ∧ (t.ctx x).handler = 0 ∧ (t.ctx x).fair = 0x00400100 ∧ (t.ctx x).race = 0)
      ∧ (∀ p, (t.port p).en = false ∧ (t.port p).state = 0) ∧ (∀ p, Tab.get 0 t.clusterMask p = 0)
      ∧ t.repair = s.repair ∧ t.active = 0 ∧ t.bootStep = 1 ∧ t.bootFail = 0
      ∧ t.fwValidA = slotValid t.fwSlotA ∧ t.fwValidB = slotValid t.fwSlotB)
  ∧ (∀ s : State, s.bootStep = 1 →
    (s.fwValidA = false → s.fwValidB = false → ∀ b, (s.bootNext b).bootStep = 15 ∧ (s.bootNext b).bootFail = 1)
    ∧ (s.fwValidA = true ∨ s.fwValidB = true → (s.bootNext false).bootStep = 2)
    ∧ (∀ other, other = (if s.image then s.fwValidA else s.fwValidB) →
      (other = true → s.fwTried = false → (s.bootNext true).bootStep = 1 ∧ (s.bootNext true).image = !s.image
        ∧ (s.bootNext true).fwTried = true)
      ∧ (other = false ∨ s.fwTried = true → (s.bootNext true).bootStep = 15 ∧ (s.bootNext true).bootFail = 1)))
  ∧ (∀ s : State, (s.bootStep = 2 ∨ s.bootStep = 3 ∨ s.bootStep = 4) →
    (s.bootNext true).bootStep = 15 ∧ (s.bootNext true).bootFail = s.bootStep ∧ (s.bootNext false).bootStep = s.bootStep + 1
      ∧ (s.bootStep = 3 → ∀ k, (s.bootNext false).active.getLsbD k = true ↔
        k < 24 ∧ ∀ c ∈ unreplaced (s.repair ++ Config.selfTest s.tick), c / 16 ≠ k)
      ∧ (s.bootStep = 4 → ∀ p, (s.bootNext false).port p = if p < 64 ∧ s.portFlash.getLsbD p = true
        then { s.port p with en := true, state := 1 } else s.port p))

/-- The firmware's registers and events: a write of the staged image begins, and ends with the image in the slot that does not run, valid,
when its check passes; a switch begins, and ends within its limit by resuming the other image, or beyond it by a timeout that keeps this
one, and the bind records that have waited for its end are taken; the slot bit chooses the next boot's image (R425). -/
def Obligations.FirmwareEvents : Prop :=
  (∀ s : State, Completes .firmwareWrite s { s with fwState := 1 })
  ∧ (∀ s : State, s.fwState = 1 →
    let n := leNat (s.readMem (s.fwAddr.toNat % 2 ^ 56) s.fwLen.toNat)
    let t := s.firmwareWritten
    t.image = s.image ∧ t.mem = s.mem
      ∧ (Config.firmwareCrcOk n = true → t.fwState = 2
        ∧ (s.image = true → t.fwSlotA = some n ∧ t.fwValidA = true ∧ t.fwSlotB = s.fwSlotB ∧ t.fwValidB = s.fwValidB)
        ∧ (s.image = false → t.fwSlotB = some n ∧ t.fwValidB = true ∧ t.fwSlotA = s.fwSlotA ∧ t.fwValidA = s.fwValidA))
      ∧ (Config.firmwareCrcOk n = false → t.fwState = 3 ∧ t.fwValidA = s.fwValidA ∧ t.fwValidB = s.fwValidB
        ∧ t.fwSlotA = s.fwSlotA ∧ t.fwSlotB = s.fwSlotB))
  ∧ (∀ s : State, s.fwSwitch = .none →
    ∃ t, Completes .firmwareSwitch s t ∧ t.fwSwitch = .starting ∧ t.fwStart = s.mclock ∧ t.image = s.image ∧ t.cores = s.cores)
  ∧ (∀ (b : Bool) (s : State), ∃ t, Completes (.firmwareSlot b) s t ∧ t.fwCtl.getLsbD 8 = b ∧ t.image = s.image)
  ∧ (∀ s : State, s.fwSwitch = .starting →
    (s.mclock ≤ s.fwStart + 10 ^ 8 →
      (∃ t : State, Completes .firmwareSwitchResumed s (t.postDev 0x80 0 [(0x10, natLe 8 (if s.image then 0 else 1))]).serveBinds
        ∧ t.image = !s.image ∧ t.fwSwitch = .none ∧ t.cores = s.cores ∧ t.bindWait = s.bindWait)
      ∧ Completes .firmwareSwitchTimeout s s)
    ∧ (s.fwStart + 10 ^ 8 < s.mclock →
      (∃ t : State, Completes .firmwareSwitchTimeout s (t.postDev 0x81 0 [(0x10, natLe 8 (if s.image then 0 else 1))]).serveBinds
        ∧ t.image = s.image ∧ t.fwSwitch = .none ∧ t.cores = s.cores ∧ t.bindWait = s.bindWait)
      ∧ Completes .firmwareSwitchResumed s s))
  ∧ (∀ s : State, (s.bindWait = [] → s.serveBinds = s)
    ∧ ∀ x c r, s.bindWait = [(x, c, r)] →
      let a := ({ s with bindWait := [] } : State).bind c r
      s.serveBinds = a.1.bindAnswer x a.2)

/-- The host's registers of a context: its creation and deletion, invalidation, the resumption of a forwarded fault, the address of a
step list, and bind records, whose answer stands in the result register. That creation empties the context's queues, and that a write with
bit 0 at 1 changes nothing but the partition of a created context, is the model's choice (log 65). An invalidation drops what it names
once nothing has an access through it still to perform, and counts then (log 83); a bind record that the firmware's switch holds off
waits (R356, R358, R372, R382, R411, R420, R423, R425). -/
def Obligations.ContextRegisters : Prop :=
  (∀ (x : Nat) (v : Word) (s : State), x < 64 → v.getLsbD 0 = true → (s.ctx x).created = false → s.bootStep = 5 →
    ∃ t, Completes (.contextCreatedWrite x v) s t ∧ (t.ctx x).created = true ∧ (t.ctx x).part = field v 8 3
      ∧ (t.ctx x).streams = [] ∧ (t.ctx x).counters = [] ∧ (t.ctx x).arms = [] ∧ (t.ctx x).queues = [] ∧ t.mem = s.mem)
  ∧ (∀ (x : Nat) (v : Word) (s : State), v.getLsbD 0 = true → (s.ctx x).created = true →
    Completes (.contextCreatedWrite x v) s (s.updCtx x (fun c => { c with part := field v 8 3 })))
  ∧ (∀ (x : Nat) (v : Word) (s : State), v.getLsbD 0 = false → (∀ ln ∈ s.launches, ln.ctx = x → isEnd ln.status = true) →
    ∃ t, Completes (.contextCreatedWrite x v) s t ∧ (t.ctx x).created = false ∧ t.mem = s.mem)
  ∧ (∀ (x : Nat) (v : Word) (s : State), (s.ctx x).invWait = [] →
    let va := (v &&& 0x00FFFFFFFFFF0000).toNat
    (invHeld s x v = invPending s x va (v.getLsbD 0) none)
    ∧ (invHeld s x v = false → ∃ t, Completes (.invalidationWrite x v) s t
      ∧ (t.ctx x).invs = (s.ctx x).invs + 1 ∧ (t.ctx x).invWait = []
      ∧ (∀ c ∈ s.coreNums, s.inPart (s.ctx x).part c = true →
        (t.core c).tlb = (s.core c).tlb.filter (fun k => !k.dropped x va (v.getLsbD 0))))
    ∧ (invHeld s x v = true → ∃ t, Completes (.invalidationWrite x v) s t
      ∧ (t.ctx x).invs = (s.ctx x).invs ∧ (t.ctx x).invWait = [v] ∧ t.cores = s.cores ∧ t.mem = s.mem))
  ∧ (∀ (x : Nat) (v : Word) (vs : List Word) (s : State), (s.ctx x).invWait = v :: vs →
    (invHeld s x v = true → s.invNext x = s)
    ∧ (invHeld s x v = false → ((s.invNext x).ctx x).invs = (s.ctx x).invs + 1 ∧ ((s.invNext x).ctx x).invWait = vs))
  ∧ (∀ (x : Nat) (v : Word) (s : State) (d : Word) (f : FaultRec) (b : Block) (l : Nat) (th : Thread), (s.core (field v 16 9)).arch.fwd = [(d, f)] →
    d = v &&& 0xFFFFFFFF00000FFF → s.block? (field v 16 9) f.slot = some b → s.ctxOf b = x →
    b.thread? l = some th → f.tids.contains l = true → th.exited = false → th.wait = .stopped →
    ∃ t th', Completes (.forwardedTrapResume x v) s t ∧ t.thread? (field v 16 9) f.slot l = some th' ∧ th'.wait = .run
      ∧ th'.pc = (if v.getLsbD 12 then th.pc + 8 else th.pc) ∧ (t.core (field v 16 9)).arch.fwd = [])
  ∧ (∀ (x : Nat) (v : Word) (s : State), ∃ t, Completes (.stepListAddress x v) s t ∧ (t.ctx x).stepAddr = some v
    ∧ t.mem = s.mem ∧ t.cores = s.cores)
  ∧ (∀ (x c : Nat) (v : Word) (s : State),
    let r : BitVec 256 := v ++ ((s.ctx x).bindW.getD 2 0 ++ ((s.ctx x).bindW.getD 1 0 ++ (s.ctx x).bindW.getD 0 0 : BitVec 128)
      : BitVec 192)
    x < 64 → (s.ctx x).mode.getLsbD 0 = true → bindField r 8 6 = x →
    (bindHeld s r = false → ∃ t, Completes (.bindRecordWrite x c v) s t ∧ (t.ctx x).bindRes = (match (s.bind c r).2 with
      | none => 1
      | some n => BitVec.ofNat 64 (16 * n)))
    ∧ (bindHeld s r = true → ∃ t, Completes (.bindRecordWrite x c v) s t ∧ (t.ctx x).bindRes = 0
      ∧ t.bindWait = s.bindWait ++ [(x, c, r)] ∧ t.cores = s.cores ∧ t.mem = s.mem))

/-- A plain register of the host reads as written in the bits that it has, a reach group is created from its words and its table when
no check fails, a group is deleted by a write that waits until no command of it is in progress, an aligned access of the host to device
memory within the window writes or reads eight bytes, and a quarantined line that
is released reads zero (R388, R418-R421, R427). -/
def Obligations.HostAccess : Prop :=
  (∀ (off : Nat) (v : Word) (s : State), (off = 0x018 ∨ off = 0x030 ∨ off = 0x0C8 ∨ off = 0x0D0 ∨ off = 0x0E0) →
    ∃ t, Completes (.registerWrite off v) s t ∧ hostRead t off = (if off = 0x018 then BitVec.ofNat 64 ((v &&& 0x00FFFFFFFFFFFFFF).toNat / 2 ^ s.bar2Log * 2 ^ s.bar2Log) else v)
      ∧ t.mem = s.mem ∧ t.cores = s.cores)
  ∧ (∀ (x : Nat) (v : Word) (s : State), x < 64 → ∃ t, Completes (.registerWrite (0x10000 + 0x1000 * x + 0x18) v) s t
    ∧ (t.ctx x).mode = v.extractLsb' 0 6 ∧ (∀ y, y ≠ x → t.ctx y = s.ctx y) ∧ t.mem = s.mem)
  ∧ (∀ (i : Nat) (v : Word) (s : State), i < 256 → v.getLsbD 63 = true →
    let g : GroupEntry := ⟨v &&& groupMask0, (s.groupEntry i).w1,
      readRoutes s (s.groupEntry i).w1.toNat ((v &&& groupMask0).extractLsb' 16 13).toNat⟩
    groupRefused s i g = none → s.groupWait = [] → ∃ t, Completes (.groupCreate i v) s t ∧ t.groupEntry i = g ∧ t.mem = s.mem)
  ∧ (∀ (i : Nat) (v : Word) (s : State), i < 256 → v.getLsbD 63 = false → s.groupWait = [] →
    (groupBusy s (s.groupEntry i) = false →
      ∃ t, Completes (.groupDelete i v) s t ∧ (t.groupEntry i).valid = false ∧ t.groupWait = [] ∧ t.mem = s.mem)
    ∧ ((s.groupEntry i).valid = true → groupBusy s (s.groupEntry i) = true →
      Completes (.groupDelete i v) s { s with groupWait := [(i, v)] }))
  ∧ (∀ (i : Nat) (v : Word) (s : State), s.groupWait = [(i, v)] → v.getLsbD 63 = false →
    (groupBusy s (s.groupEntry i) = false → ((s.groupNext i).groupEntry i).valid = false ∧ (s.groupNext i).groupWait = [])
    ∧ ((s.groupEntry i).valid = true → groupBusy s (s.groupEntry i) = true → s.groupNext i = s))
  ∧ (∀ (off : Nat) (v : Word) (s : State), off % 8 = 0 → off < 2 ^ s.bar2Log →
    let k := (s.bar2Base.toNat + off) % 2 ^ 56
    s.bar2Wait = [] → s.heldLines.contains (k / 256) = false → s.quar.contains (k / 256) = false →
    ((∀ c, (s.core c).chunk.bad = none) → prioOpen s = false →
      ∃ t, Completes (.bar2Access off true v) s t ∧ Memory.read t.mem k 8 = natLe 8 v.toNat
        ∧ ∀ a, a < k ∨ k + 8 ≤ a → Memory.byte t.mem a = Memory.byte s.mem a)
    ∧ (Tab.find? s.badLines (k / 256) = none →
      ∃ t, Completes (.bar2Access off false v) s t ∧ t.bar2Data = s.readMem k 8 ∧ t.mem = s.mem))
  ∧ (∀ (a : Word) (s : State), let l := a.toNat % 2 ^ 56 / 256
    s.quar.contains l = true → ∃ t, Completes (.quarantineRelease a) s t ∧ t.quar.contains l = false
      ∧ (∀ k, k / 256 = l → Memory.byte t.mem k = 0) ∧ (∀ k, k / 256 ≠ l → Memory.byte t.mem k = Memory.byte s.mem k))

/-- Laser modules and memory links move between their states as the host and the plant say; a change of a laser, the refusal of a drain
and the end of a move are reported. That an inserted module is off, what `en` does to a failed one, the reserve that is free, a restore
from either state, and a retraining link's state are the model's choice (log 67); lines move one by one, and a move ends when all have
(log 94; R388, R394, R401, R426, R427). -/
def Obligations.PlantEvents : Prop :=
  (∀ (m : Nat) (v : Word) (s : State), m < 16 → v.getLsbD 8 = true → (s.laser m).present = true →
    ∃ t, Completes (.laserEnable m v) s t ∧ (t.laser m).en = true ∧ (t.laser m).state = (s.laser m).state)
  ∧ (∀ (m : Nat) (v : Word) (s : State), m < 16 → v.getLsbD 8 = false →
    ∃ t : Laser, Completes (.laserEnable m v) s (s.setLaser m t) ∧ t.en = false ∧ ((s.laser m).state = 1 → t.state = 3))
  ∧ (∀ (m : Nat) (s : State), (s.laser m).warming = true → ∃ t, Completes (.laserWarmUpDone m) s t
    ∧ t.laser m = { s.laser m with state := 1, warming := false }
    ∧ (∀ p, p / 16 = m / 4 → (t.port p).txLost = (s.port p).txLost &&& ~~~bankMask m
      ∧ ((s.port p).en = true → (s.port p).state = 2 → (s.port p).act &&& bankMask m ≠ bankMask m →
        (t.port p).state = 1 ∧ (t.port p).tmask = (s.port p).act ||| bankMask m)))
  ∧ (∀ (m : Nat) (b : Bool) (s : State), m < 16 → (s.laser m).present = true → ∃ t : Laser,
    Completes (.laserModuleFailure m b) s (s.setLaser m t) ∧ t.state = (if b then 0 else 2) ∧ t.present = !b)
  ∧ (∀ (m : Nat) (s : State), m < 16 → (s.laser m).present = false → ∃ t : Laser,
    Completes (.laserModuleInserted m) s (s.setLaser m t) ∧ t.present = true ∧ t.state = 3)
  ∧ (∀ (j : Nat) (s : State), j < 32 → (s.link j).state = 2 → (s.link j).away = false →
    ((s.link j).size ≤ reserveFree s j → ∃ t, Completes (.drain j) s t ∧ (t.link j).state = 3 ∧ (t.link j).cmd = 1
      ∧ (t.link j).moved = 0 ∧ (t.link j).old = (s.link j).size ∧ (t.link j).away = true ∧ t.mem = s.mem)
    ∧ (reserveFree s j < (s.link j).size → Completes (.drain j) s (s.postDev 0x82 0
      [(0x10, natLe 8 j), (0x18, natLe 8 (s.link j).size), (0x20, natLe 8 (reserveFree s j))])))
  ∧ (∀ (j : Nat) (s : State), (s.link j).away = true → ((s.link j).state = 2 ∨ (s.link j).state = 4) →
    ∃ t, Completes (.restore j) s t ∧ (t.link j).state = 5 ∧ (t.link j).cmd = 2 ∧ (t.link j).moved = 0 ∧ t.mem = s.mem)
  ∧ (∀ (j : Nat) (s : State), ((s.link j).state = 3 ∨ (s.link j).state = 5) →
    ((s.link j).moved < (s.link j).old * 4096 → Completes (.drainEnd j) s s
      ∧ (s.lineMoved j).link j = { s.link j with moved := (s.link j).moved + 1 })
    ∧ ((s.link j).moved = (s.link j).old * 4096 → ∃ s1 : State,
      Completes (.drainEnd j) s (s1.postDev 0x83 0 [(0x10, natLe 8 j), (0x18, natLe 8 (if (s.link j).state = 3 then 1 else 2)),
        (0x20, natLe 8 ((s.link j).old * 4096))])
        ∧ (s1.link j).state = (if (s.link j).state = 3 then 4 else 2) ∧ ((s.link j).state = 5 → (s1.link j).away = false)
        ∧ s1.mem = s.mem))
  ∧ (∀ (j : Nat) (s : State), j < 32 → (s.link j).state = 2 →
    ∃ t, Completes (.memoryLinkRetrain j) s t ∧ (t.link j).state = 1 ∧ t.mem = s.mem)
  ∧ (∀ (j : Nat) (s : State), (s.link j).state = 4 →
    ∃ t, Completes (.memoryModuleRemoved j) s t ∧ (t.link j).state = 0 ∧ (t.link j).size = 0 ∧ t.mem = s.mem)
  ∧ (∀ (j n : Nat) (s : State), j < 32 → (s.link j).state = 0 →
    ∃ t, Completes (.memoryModuleInserted j n) s t ∧ (t.link j).state = 1 ∧ (t.link j).size = n ∧ t.mem = s.mem)
  ∧ (∀ (j : Nat) (s : State), (s.link j).state = 1 → (s.link j).old ≤ (s.link j).size →
    ∃ t, Completes (.memoryLinkTrained j) s t ∧ (t.link j).state = 2 ∧ t.mem = s.mem)
  ∧ (∀ s : State, ∃ t, Completes .thermalThrottle s t ∧ t.clockMHz = s.clockMHz - 50 ∧ t.mem = s.mem ∧ t.cores = s.cores)
  ∧ (∀ (d n : Nat) (s : State), 110 ≤ n → ∃ t : State, Completes (.overTemperatureStop d n) s (t.postDev 0x85 0
      [(0x10, natLe 8 d), (0x18, natLe 8 n)]) ∧ t.stopped = true ∧ t.mem = s.mem)

namespace Sys2Proof.Machine

/-- The flits that carry a sequence number, and their types (R395). -/
def sequencedFlit : Instr → Option (Nat × Flit × Nat)
  | .dataFlit p f => some (p, f, 1)
  | .commandHeader p f => some (p, f, 2)
  | .counterUpdate p f => some (p, f, 6)
  | _ => none

end Sys2Proof.Machine

/-- A port takes a flit whose CRC, type and number are right: a sequenced flit raises the expected number by one; a NAK sends again from
its number, or names it for the training to come; a training flit ends the flags of the wavelengths that it uses; a notice restripes;
every taken flit acknowledges, and new flits follow only what the flit itself calls for. A sequenced flit that is not whole, of another type, or
out of turn is discarded: the count rises, nothing else of it is taken, and unless a wavelength has been flagged since the last training one
NAK for the expected number falls due, and stays due; when it is sent it names the number expected then. Once a wavelength has been flagged,
nothing but training is taken. The mask in a training flit is log 69, and the number in a NAK and the number and mask in a notice are
log 10, the model's choice: the manual gives these payloads no layout (R397-R402, R414, R416). -/
def Obligations.FlitsTaken : Prop :=
  (∀ (i : Instr) (p ty : Nat) (f : Flit), sequencedFlit i = some (p, f, ty) → ∀ s : State, p < 64 →
    (s.port p).rx ty f = .take → ∃ t, Completes i s t ∧ (t.port p).expect = (s.port p).expect + 1
      ∧ (t.port p).naked = (if (s.port p).nakDue then (s.port p).naked else none) ∧ (t.port p).nakDue = (s.port p).nakDue
      ∧ t.mem = s.mem ∧ t.cores = s.cores)
  ∧ (∀ (p : Nat) (f : Flit) (s : State), p < 64 → (s.port p).rx 0 f = .take →
    Completes (.idleFlit p f) s ((s.updPort p (fun q => q.ack (flitAck f))).updPort p Port.pump))
  ∧ (∀ (p : Nat) (f : Flit) (s : State), p < 64 → (s.port p).rx 3 f = .take → let n := BitVec.ofNat 16 (flitNat f 0 2)
    ((s.port p).state = 2 → ∃ t, Completes (.nak p f) s t ∧ t.port p = (((s.port p).ack (flitAck f)).replayFrom n).pump)
    ∧ ((s.port p).state = 1 ∨ (s.port p).state = 3 → ∃ t, Completes (.nak p f) s t
      ∧ t.port p = { (s.port p).ack (flitAck f) with nakFrom := some n }))
  ∧ (∀ (p : Nat) (f : Flit) (s : State), p < 64 → (s.port p).rx 4 f = .take →
    Completes (.lossOfLightNotice p f) s (((s.updPort p (fun q => q.ack (flitAck f))).restripe p
      (BitVec.ofNat 16 (flitNat f 0 2)) (BitVec.ofNat 16 (flitNat f 2 2))).updPort p Port.pump))
  ∧ (∀ (p : Nat) (f : Flit) (s : State), p < 64 → (s.port p).rx 5 f = .take →
    let m : BitVec 16 := BitVec.ofNat 16 (flitNat f 0 2)
    ∃ t, Completes (.training p f) s t ∧ (t.port p).lost = (s.port p).lost &&& ~~~m ∧ (t.port p).blind = false
      ∧ (t.port p).rxAct = m ∧ (t.port p).naked = (if (s.port p).nakDue then (s.port p).naked else none) ∧ (t.port p).lossRx = []
      ∧ ((s.port p).lossRx = [] → m &&& ~~~(s.port p).rxAct = 0 → t.mem = s.mem))
  ∧ (∀ (i : Instr) (p ty : Nat) (f : Flit), sequencedFlit i = some (p, f, ty) → ∀ (s : State) (nak : Bool), p < 64 →
    (s.port p).rx ty f = .discard nak → ∃ t, Completes i s t ∧ (t.port p).discarded = (s.port p).discarded + 1
      ∧ (t.port p).expect = (s.port p).expect ∧ t.switch = s.switch ∧ t.mem = s.mem
      ∧ (nak = true → (t.port p).nakDue = true ∨ (s.port p).naked = some (s.port p).expect)
      ∧ (nak = true → (s.port p).nakDue = false → (t.port p).naked = some (s.port p).expect)
      ∧ (nak = false → (t.port p).nakDue = (s.port p).nakDue ∧ (t.port p).naked = (s.port p).naked))
  ∧ (∀ q : Port, q.nakDue = true →
    q.sendNak = { q.control 3 (natLe 2 q.expect.toNat) with nakDue := false, naked := some q.expect })
  ∧ (∀ (q : Port) (ty : Nat) (f : Flit), q.en = true → q.state ≠ 0 → q.blind = true → ty ≠ 5 → q.rx ty f = .discard false)

/-- A port's own events: loss of light is flagged, counted and told to the peer; a survivor set of four or more completes the
retraining, with beats that count from 0 again, and a smaller one fails the port; the timers replay, allow another NAK and send an idle
flit, whose 20 beats of 4 bytes go one after another to the active wavelengths, beat k to the (k mod n)-th; the host enables, names
wavelengths and clears counters. A rank that no port reaches is lost to every collective of its group that is not decided: where rank 0
still waits for that rank's command it aborts the collective with subcode 2, on itself and by a message to every other rank, and a
command whose collective is aborted takes COLLECT with the subcode. Which rank decides, and which collectives miss a rank, is the
model's choice (log 48; R310, R396-R405, R409). -/
def Obligations.PortEvents : Prop :=
  (∀ (p : Nat) (m : BitVec 16) (s : State), p < 64 → (s.port p).en = true → (s.port p).state ≠ 0 →
    m &&& ~~~(s.port p).lost ≠ 0 → ∃ t, Completes (.lossOfLight p m) s t ∧ (t.port p).lost = (s.port p).lost ||| m
      ∧ (t.port p).losses = (s.port p).losses + BitVec.ofNat 64 (popMask (m &&& ~~~(s.port p).lost))
      ∧ (t.port p).blind = true ∧ (t.port p).nakDue = false
      ∧ (4 ≤ popMask (~~~((s.port p).lost ||| m)) → t.mem = s.mem))
  ∧ (∀ (p : Nat) (s : State), (s.port p).en = true → (s.port p).state = 1 →
    (popMask (s.port p).survivors < 4 → Completes (.retrainComplete p) s (s.failPort p))
    ∧ (4 ≤ popMask (s.port p).survivors →
      ∃ t, Completes (.retrainComplete p) s t ∧ (t.port p).state = 2 ∧ (t.port p).act = (s.port p).survivors
        ∧ (t.port p).tmask = 0 ∧ (t.port p).notice = none ∧ (t.port p).nakFrom = none ∧ (t.port p).restr = (s.port p).restr
        ∧ ((s.port p).pend = [] → (s.port p).notice = none → (s.port p).nakFrom = none → (t.port p).beat = 0)
        ∧ ((s.port p).lossTx = [] → (s.port p).survivors &&& ~~~(s.port p).act = 0 → t.mem = s.mem)))
  ∧ (∀ (p : Nat) (s : State) (e : BitVec 16 × Packet) (r : List (BitVec 16 × Packet)), (s.port p).replay = e :: r →
    (s.port p).state = 2 → ∃ t, Completes (.replayTimeout p) s t ∧ t.port p = (s.port p).replayFrom e.1)
  ∧ (∀ (p : Nat) (s : State), (s.port p).naked.isSome = true → ∃ t, Completes (.nakRepeatTimeout p) s t
    ∧ t.port p = { s.port p with naked := none })
  ∧ (∀ (p : Nat) (s : State), (s.port p).state = 2 → ∃ t x, Completes (.idleAckTimer p) s t ∧ t.port p = (s.port p).control 0 []
    ∧ (t.port p).wire = (s.port p).wire ++ [x] ∧ (t.port p).beat = (s.port p).beat + 20 ∧ x.beats.length = 20
    ∧ ∀ j, j < 20 → let ws := (List.range 16).filter (fun i => (s.port p).act.getLsbD i)
      let w := ws.getD (((s.port p).beat + j) % max 1 ws.length) 0
      x.beats[j]? = some (w, if (s.port p).lit.getLsbD w then some ((x.flit.drop (4 * j)).take 4) else none))
  ∧ (∀ (p : Nat) (v : Word) (s : State), p < 64 → ∃ t, Completes (.portEnable p v) s t ∧ (t.port p).en = v.getLsbD 0
    ∧ (v.getLsbD 0 = false → (t.port p).state = 0 ∧ (t.port p).act = 0)
    ∧ (v.getLsbD 0 = true → (s.port p).en = false → (t.port p).state = 1) ∧ (∀ q, q ≠ p → t.port q = s.port q))
  ∧ (∀ (p : Nat) (v : Word) (s : State), p < 64 → (s.port p).state = 3 →
    v.extractLsb' 0 16 &&& ((s.port p).txLost ||| ~~~(s.port p).lit) = 0 → 4 ≤ popMask (v.extractLsb' 0 16) →
    ∃ t, Completes (.restripeWrite p v) s t ∧ (t.port p).state = 1 ∧ (t.port p).restr = v.extractLsb' 0 16
      ∧ (t.port p).survivors = v.extractLsb' 0 16)
  ∧ (∀ (p k : Nat) (s : State), p < 64 → ∃ t, Completes (.portCounterClear p k) s t
    ∧ (t.port p).sent = (if k = 0 then 0 else (s.port p).sent) ∧ (t.port p).replayed = (if k = 1 then 0 else (s.port p).replayed)
    ∧ (t.port p).discarded = (if k = 2 then 0 else (s.port p).discarded)
    ∧ (t.port p).losses = (if k = 3 then 0 else (s.port p).losses))
  ∧ (∀ (i r : Nat) (s : State), let g := s.groupEntry i
    g.valid = true → r < g.size → r ≠ g.rank → s.outPort g r = none →
    Completes (.routeUnreachable i r) s (s.colls.foldl (fun s c => s.rankLost g r c) s))
  ∧ (∀ (g : GroupEntry) (r : Nat) (c : CollSt) (s : State), g.rank = 0 → r ≠ 0 → c.handle = g.handle →
    s.coll? g.handle c.stream c.k = some c → c.go = false → c.abort = none → c.lost.contains r = false → c.pbs ≠ [] →
    Tab.find? c.pbs r = none →
    let t := s.rankLost g r c
    (∃ c', t.coll? g.handle c.stream c.k = some c' ∧ c'.abort = some 2)
      ∧ ∀ d, d < g.size → d ≠ 0 → ∃ q ∈ t.switch, q.dst = d ∧ q.src = 0 ∧ q.handle = g.handle ∧ q.stream = c.stream
        ∧ q.payload = header fnAbort 0 [(1, natLe 1 2), (0x18, natLe 4 c.k)])
  ∧ (∀ (e : Eng) (g : GroupEntry) (c : CollSt) (n : Nat) (s : State), collRead e = true → 2 ≤ e.cmd.done →
    collOf s e = some (g, c) → c.abort = some n → (collTrouble s e).1 = some (0x10, n))
end

