-- ==== Sys2Proof/Laws/Tab.lean ====
section
/-! SUPPORT. Laws of sparse tables: reading after an update, and the canonical form. -/

namespace Sys2Proof.Machine

variable {α : Type}

/-! ### Reading -/

theorem Tab.find?_del_same (t : Tab α) (k : Nat) : Tab.find? (Tab.del t k) k = none := by
  induction t with
  | nil => rfl
  | cons e t ih =>
    obtain ⟨k', v⟩ := e
    by_cases h : k' = k <;> simp [Tab.del, Tab.find?, h, ih]

theorem Tab.find?_del_ne (t : Tab α) {k j : Nat} (h : j ≠ k) : Tab.find? (Tab.del t k) j = Tab.find? t j := by
  induction t with
  | nil => rfl
  | cons e t ih =>
    obtain ⟨k', v⟩ := e
    by_cases hk : k' = k
    · subst hk
      simp [Tab.del, Tab.find?, ih, Ne.symm h]
    · simp only [Tab.del, hk, ↓reduceIte, Tab.find?, ih]

theorem Tab.find?_ins_ne (t : Tab α) {k j : Nat} (v : α) (h : j ≠ k) : Tab.find? (Tab.ins t k v) j = Tab.find? t j := by
  induction t with
  | nil => simp [Tab.ins, Tab.find?, Ne.symm h]
  | cons e t ih =>
    obtain ⟨k', v'⟩ := e
    by_cases hk : k < k'
    · simp [Tab.ins, Tab.find?, hk, Ne.symm h]
    · simp only [Tab.ins, hk, ↓reduceIte, Tab.find?, ih]

theorem Tab.find?_ins_same (t : Tab α) (k : Nat) (v : α) (h : Tab.find? t k = none) :
    Tab.find? (Tab.ins t k v) k = some v := by
  induction t with
  | nil => simp [Tab.ins, Tab.find?]
  | cons e t ih =>
    obtain ⟨k', v'⟩ := e
    by_cases hk : k' = k
    · simp [Tab.find?, hk] at h
    · simp only [Tab.find?, hk, ↓reduceIte] at h
      by_cases hlt : k < k' <;> simp [Tab.ins, Tab.find?, hlt, hk, ih h]

@[simp] theorem Tab.find?_put_same (t : Tab α) (k : Nat) (v : α) : Tab.find? (Tab.put t k v) k = some v :=
  Tab.find?_ins_same _ _ _ (Tab.find?_del_same t k)

theorem Tab.find?_put_ne (t : Tab α) {k j : Nat} (v : α) (h : j ≠ k) : Tab.find? (Tab.put t k v) j = Tab.find? t j := by
  rw [Tab.put, Tab.find?_ins_ne _ _ h, Tab.find?_del_ne _ h]

/-- A read after a write to the same key gives the value written. -/
@[simp] theorem Tab.get_set_same [DecidableEq α] (d : α) (t : Tab α) (k : Nat) (v : α) :
    Tab.get d (Tab.set d t k v) k = v := by
  unfold Tab.get Tab.set
  split
  · next h => simp [Tab.find?_del_same, h]
  · simp

/-- A write leaves every other key alone. -/
theorem Tab.get_set_ne [DecidableEq α] (d : α) (t : Tab α) {k j : Nat} (v : α) (h : j ≠ k) :
    Tab.get d (Tab.set d t k v) j = Tab.get d t j := by
  unfold Tab.get Tab.set
  split
  · rw [Tab.find?_del_ne _ h]
  · rw [Tab.find?_put_ne _ _ h]

theorem Tab.find?_mapV (t : Tab α) (f : Nat → α → α) (k : Nat) :
    Tab.find? (Tab.mapV t f) k = (Tab.find? t k).map (f k) := by
  induction t with
  | nil => rfl
  | cons e t ih =>
    obtain ⟨k', v⟩ := e
    by_cases h : k' = k
    · subst h; simp [Tab.mapV, Tab.find?]
    · simpa [Tab.mapV, Tab.find?, h] using ih

/-! ### The canonical form -/

/-- Every key of a table is at least `b`. -/
def Tab.above (t : Tab α) (b : Nat) : Prop := ∀ e ∈ t, b ≤ e.1

theorem Tab.sorted_cons (k : Nat) (v : α) (t : Tab α) :
    Tab.sorted ((k, v) :: t) = true ↔ Tab.sorted t = true ∧ Tab.above t (k + 1) := by
  induction t generalizing k v with
  | nil => simp [Tab.sorted, Tab.above]
  | cons e t ih =>
    obtain ⟨k', v'⟩ := e
    simp only [Tab.sorted, Bool.and_eq_true, decide_eq_true_eq, Tab.above, List.mem_cons, forall_eq_or_imp]
    constructor
    · rintro ⟨h, hs⟩
      refine ⟨hs, h, fun e he => ?_⟩
      have := ((ih k' v').1 hs).2 e he
      omega
    · rintro ⟨hs, h, _⟩
      exact ⟨h, hs⟩

theorem Tab.del_above (t : Tab α) (k b : Nat) (h : Tab.above t b) : Tab.above (Tab.del t k) b := by
  induction t with
  | nil => exact h
  | cons e t ih =>
    obtain ⟨k', v⟩ := e
    have h' : Tab.above t b := fun x hx => h x (List.mem_cons_of_mem _ hx)
    by_cases hk : k' = k
    · simpa [Tab.del, hk] using ih h'
    · intro x hx
      simp only [Tab.del, hk, ↓reduceIte, List.mem_cons] at hx
      rcases hx with rfl | hx
      · exact h _ (List.mem_cons_self ..)
      · exact ih h' x hx

theorem Tab.ins_above (t : Tab α) (k b : Nat) (v : α) (h : Tab.above t b) (hb : b ≤ k) : Tab.above (Tab.ins t k v) b := by
  induction t with
  | nil => intro x hx; simp [Tab.ins] at hx; subst hx; exact hb
  | cons e t ih =>
    obtain ⟨k', v'⟩ := e
    have h' : Tab.above t b := fun x hx => h x (List.mem_cons_of_mem _ hx)
    by_cases hk : k < k'
    · intro x hx
      simp only [Tab.ins, hk, ↓reduceIte, List.mem_cons] at hx
      rcases hx with rfl | rfl | hx
      · exact hb
      · exact h _ (List.mem_cons_self ..)
      · exact h' x hx
    · intro x hx
      simp only [Tab.ins, hk, ↓reduceIte, List.mem_cons] at hx
      rcases hx with rfl | hx
      · exact h _ (List.mem_cons_self ..)
      · exact ih h' x hx

theorem Tab.sorted_del (t : Tab α) (k : Nat) (h : Tab.sorted t = true) : Tab.sorted (Tab.del t k) = true := by
  induction t with
  | nil => exact h
  | cons e t ih =>
    obtain ⟨k', v⟩ := e
    obtain ⟨hs, ha⟩ := (Tab.sorted_cons ..).1 h
    by_cases hk : k' = k
    · simpa [Tab.del, hk] using ih hs
    · simp only [Tab.del, hk, ↓reduceIte]
      exact (Tab.sorted_cons ..).2 ⟨ih hs, Tab.del_above _ _ _ ha⟩

theorem Tab.mem_del (t : Tab α) (k : Nat) {e : Nat × α} (h : e ∈ Tab.del t k) : e ∈ t ∧ e.1 ≠ k := by
  induction t with
  | nil => simp [Tab.del] at h
  | cons e' t ih =>
    obtain ⟨k', v⟩ := e'
    by_cases hk : k' = k
    · simp only [Tab.del, hk, ↓reduceIte] at h
      exact ⟨List.mem_cons_of_mem _ (ih h).1, (ih h).2⟩
    · simp only [Tab.del, hk, ↓reduceIte, List.mem_cons] at h
      rcases h with rfl | h
      · exact ⟨List.mem_cons_self .., hk⟩
      · exact ⟨List.mem_cons_of_mem _ (ih h).1, (ih h).2⟩

theorem Tab.sorted_ins (t : Tab α) (k : Nat) (v : α) (h : Tab.sorted t = true) (hk : ∀ e ∈ t, e.1 ≠ k) :
    Tab.sorted (Tab.ins t k v) = true := by
  induction t with
  | nil => rfl
  | cons e t ih =>
    obtain ⟨k', v'⟩ := e
    obtain ⟨hs, ha⟩ := (Tab.sorted_cons ..).1 h
    have hne : k' ≠ k := hk _ (List.mem_cons_self ..)
    by_cases hlt : k < k'
    · simp only [Tab.ins, hlt, ↓reduceIte]
      refine (Tab.sorted_cons ..).2 ⟨h, fun x hx => ?_⟩
      rcases List.mem_cons.1 hx with rfl | hx
      · exact hlt
      · have := ha x hx; omega
    · simp only [Tab.ins, hlt, ↓reduceIte]
      exact (Tab.sorted_cons ..).2 ⟨ih hs (fun e he => hk e (List.mem_cons_of_mem _ he)), Tab.ins_above _ _ _ _ ha (by omega)⟩

theorem Tab.sorted_put (t : Tab α) (k : Nat) (v : α) (h : Tab.sorted t = true) : Tab.sorted (Tab.put t k v) = true :=
  Tab.sorted_ins _ _ _ (Tab.sorted_del _ _ h) (fun _ he => (Tab.mem_del _ _ he).2)

theorem Tab.mem_ins (t : Tab α) (k : Nat) (v : α) {e : Nat × α} (h : e ∈ Tab.ins t k v) : e = (k, v) ∨ e ∈ t := by
  induction t with
  | nil => simpa [Tab.ins] using h
  | cons e' t ih =>
    obtain ⟨k', v'⟩ := e'
    by_cases hlt : k < k'
    · simpa [Tab.ins, hlt] using h
    · simp only [Tab.ins, hlt, ↓reduceIte, List.mem_cons] at h ⊢
      rcases h with rfl | h
      · exact Or.inr (Or.inl rfl)
      · rcases ih h with rfl | h
        · exact Or.inl rfl
        · exact Or.inr (Or.inr h)

theorem Tab.wf_iff [DecidableEq α] (d : α) (t : Tab α) : Tab.wf d t = true ↔ Tab.sorted t = true ∧ ∀ e ∈ t, e.2 ≠ d := by
  simp [Tab.wf]

/-- Setting a key keeps the canonical form. -/
theorem Tab.wf_set [DecidableEq α] (d : α) (t : Tab α) (k : Nat) (v : α) (h : Tab.wf d t = true) :
    Tab.wf d (Tab.set d t k v) = true := by
  rw [Tab.wf_iff] at h ⊢
  unfold Tab.set
  split
  · exact ⟨Tab.sorted_del _ _ h.1, fun e he => h.2 e (Tab.mem_del _ _ he).1⟩
  · next hv =>
    refine ⟨Tab.sorted_put _ _ _ h.1, fun e he => ?_⟩
    rcases Tab.mem_ins _ _ _ he with rfl | he
    · exact hv
    · exact h.2 e (Tab.mem_del _ _ he).1

theorem Tab.filter_above (t : Tab α) (p : Nat × α → Bool) (b : Nat) (h : Tab.above t b) : Tab.above (t.filter p) b :=
  fun e he => h e (List.mem_filter.1 he).1

theorem Tab.sorted_filter (t : Tab α) (p : Nat × α → Bool) (h : Tab.sorted t = true) : Tab.sorted (t.filter p) = true := by
  induction t with
  | nil => exact h
  | cons e t ih =>
    obtain ⟨k, v⟩ := e
    obtain ⟨hs, ha⟩ := (Tab.sorted_cons ..).1 h
    by_cases hp : p (k, v) = true
    · simp only [List.filter_cons, hp, ↓reduceIte]
      exact (Tab.sorted_cons ..).2 ⟨ih hs, Tab.filter_above _ _ _ ha⟩
    · simpa [List.filter_cons, hp] using ih hs

/-- Dropping entries keeps the canonical form. -/
theorem Tab.wf_filter [DecidableEq α] (d : α) (t : Tab α) (p : Nat × α → Bool) (h : Tab.wf d t = true) :
    Tab.wf d (t.filter p) = true := by
  rw [Tab.wf_iff] at h ⊢
  exact ⟨Tab.sorted_filter _ _ h.1, fun e he => h.2 e (List.mem_filter.1 he).1⟩

end Sys2Proof.Machine
end

