-- ==== Sys2Proof/Laws/State.lean ====
section
/-! SUPPORT. What each update of the state leaves alone: one lemma per field per update, and what a read gives after it. -/

namespace Sys2Proof.Machine

variable (s : State)

/-! ### setCore -/

@[simp] theorem State.setCore_mem (c : Nat) (k : CoreSt) : (s.setCore c k).mem = s.mem := rfl
@[simp] theorem State.setCore_ctxs (c : Nat) (k : CoreSt) : (s.setCore c k).ctxs = s.ctxs := rfl
@[simp] theorem State.setCore_launches (c : Nat) (k : CoreSt) : (s.setCore c k).launches = s.launches := rfl
@[simp] theorem State.setCore_flights (c : Nat) (k : CoreSt) : (s.setCore c k).flights = s.flights := rfl
@[simp] theorem State.setCore_ctlb (c : Nat) (k : CoreSt) : (s.setCore c k).ctlb = s.ctlb := rfl
@[simp] theorem State.setCore_wcache (c : Nat) (k : CoreSt) : (s.setCore c k).wcache = s.wcache := rfl
@[simp] theorem State.setCore_plat (c : Nat) (k : CoreSt) : (s.setCore c k).plat = s.plat := rfl
@[simp] theorem State.setCore_clusterMask (c : Nat) (k : CoreSt) : (s.setCore c k).clusterMask = s.clusterMask := rfl
@[simp] theorem State.setCore_ports (c : Nat) (k : CoreSt) : (s.setCore c k).ports = s.ports := rfl
@[simp] theorem State.setCore_groups (c : Nat) (k : CoreSt) : (s.setCore c k).groups = s.groups := rfl
@[simp] theorem State.setCore_groupWait (c : Nat) (k : CoreSt) : (s.setCore c k).groupWait = s.groupWait := rfl
@[simp] theorem State.setCore_lasers (c : Nat) (k : CoreSt) : (s.setCore c k).lasers = s.lasers := rfl
@[simp] theorem State.setCore_links (c : Nat) (k : CoreSt) : (s.setCore c k).links = s.links := rfl
@[simp] theorem State.setCore_applied (c : Nat) (k : CoreSt) : (s.setCore c k).applied = s.applied := rfl
@[simp] theorem State.setCore_switch (c : Nat) (k : CoreSt) : (s.setCore c k).switch = s.switch := rfl
@[simp] theorem State.setCore_arriving (c : Nat) (k : CoreSt) : (s.setCore c k).arriving = s.arriving := rfl
@[simp] theorem State.setCore_colls (c : Nat) (k : CoreSt) : (s.setCore c k).colls = s.colls := rfl
@[simp] theorem State.setCore_collSeq (c : Nat) (k : CoreSt) : (s.setCore c k).collSeq = s.collSeq := rfl
@[simp] theorem State.setCore_xreqs (c : Nat) (k : CoreSt) : (s.setCore c k).xreqs = s.xreqs := rfl
@[simp] theorem State.setCore_xtag (c : Nat) (k : CoreSt) : (s.setCore c k).xtag = s.xtag := rfl
@[simp] theorem State.setCore_xanswers (c : Nat) (k : CoreSt) : (s.setCore c k).xanswers = s.xanswers := rfl
@[simp] theorem State.setCore_quar (c : Nat) (k : CoreSt) : (s.setCore c k).quar = s.quar := rfl
@[simp] theorem State.setCore_badLines (c : Nat) (k : CoreSt) : (s.setCore c k).badLines = s.badLines := rfl
@[simp] theorem State.setCore_ras (c : Nat) (k : CoreSt) : (s.setCore c k).ras = s.ras := rfl
@[simp] theorem State.setCore_heldLines (c : Nat) (k : CoreSt) : (s.setCore c k).heldLines = s.heldLines := rfl
@[simp] theorem State.setCore_bar2Wait (c : Nat) (k : CoreSt) : (s.setCore c k).bar2Wait = s.bar2Wait := rfl
@[simp] theorem State.setCore_bar2Data (c : Nat) (k : CoreSt) : (s.setCore c k).bar2Data = s.bar2Data := rfl
@[simp] theorem State.setCore_bar2Log (c : Nat) (k : CoreSt) : (s.setCore c k).bar2Log = s.bar2Log := rfl
@[simp] theorem State.setCore_bindWait (c : Nat) (k : CoreSt) : (s.setCore c k).bindWait = s.bindWait := rfl
@[simp] theorem State.setCore_portFlash (c : Nat) (k : CoreSt) : (s.setCore c k).portFlash = s.portFlash := rfl
@[simp] theorem State.setCore_fwSlotA (c : Nat) (k : CoreSt) : (s.setCore c k).fwSlotA = s.fwSlotA := rfl
@[simp] theorem State.setCore_fwSlotB (c : Nat) (k : CoreSt) : (s.setCore c k).fwSlotB = s.fwSlotB := rfl
@[simp] theorem State.setCore_fwStart (c : Nat) (k : CoreSt) : (s.setCore c k).fwStart = s.fwStart := rfl
@[simp] theorem State.setCore_fwTried (c : Nat) (k : CoreSt) : (s.setCore c k).fwTried = s.fwTried := rfl
@[simp] theorem State.setCore_copiedOut (c : Nat) (k : CoreSt) : (s.setCore c k).copiedOut = s.copiedOut := rfl
@[simp] theorem State.setCore_bar2Base (c : Nat) (k : CoreSt) : (s.setCore c k).bar2Base = s.bar2Base := rfl
@[simp] theorem State.setCore_dering (c : Nat) (k : CoreSt) : (s.setCore c k).dering = s.dering := rfl
@[simp] theorem State.setCore_deprod (c : Nat) (k : CoreSt) : (s.setCore c k).deprod = s.deprod := rfl
@[simp] theorem State.setCore_decons (c : Nat) (k : CoreSt) : (s.setCore c k).decons = s.decons := rfl
@[simp] theorem State.setCore_devec (c : Nat) (k : CoreSt) : (s.setCore c k).devec = s.devec := rfl
@[simp] theorem State.setCore_deseq (c : Nat) (k : CoreSt) : (s.setCore c k).deseq = s.deseq := rfl
@[simp] theorem State.setCore_drainRes (c : Nat) (k : CoreSt) : (s.setCore c k).drainRes = s.drainRes := rfl
@[simp] theorem State.setCore_bootStep (c : Nat) (k : CoreSt) : (s.setCore c k).bootStep = s.bootStep := rfl
@[simp] theorem State.setCore_bootFail (c : Nat) (k : CoreSt) : (s.setCore c k).bootFail = s.bootFail := rfl
@[simp] theorem State.setCore_active (c : Nat) (k : CoreSt) : (s.setCore c k).active = s.active := rfl
@[simp] theorem State.setCore_repair (c : Nat) (k : CoreSt) : (s.setCore c k).repair = s.repair := rfl
@[simp] theorem State.setCore_image (c : Nat) (k : CoreSt) : (s.setCore c k).image = s.image := rfl
@[simp] theorem State.setCore_fwCtl (c : Nat) (k : CoreSt) : (s.setCore c k).fwCtl = s.fwCtl := rfl
@[simp] theorem State.setCore_fwAddr (c : Nat) (k : CoreSt) : (s.setCore c k).fwAddr = s.fwAddr := rfl
@[simp] theorem State.setCore_fwLen (c : Nat) (k : CoreSt) : (s.setCore c k).fwLen = s.fwLen := rfl
@[simp] theorem State.setCore_fwState (c : Nat) (k : CoreSt) : (s.setCore c k).fwState = s.fwState := rfl
@[simp] theorem State.setCore_fwValidA (c : Nat) (k : CoreSt) : (s.setCore c k).fwValidA = s.fwValidA := rfl
@[simp] theorem State.setCore_fwValidB (c : Nat) (k : CoreSt) : (s.setCore c k).fwValidB = s.fwValidB := rfl
@[simp] theorem State.setCore_fwSwitch (c : Nat) (k : CoreSt) : (s.setCore c k).fwSwitch = s.fwSwitch := rfl
@[simp] theorem State.setCore_msix (c : Nat) (k : CoreSt) : (s.setCore c k).msix = s.msix := rfl
@[simp] theorem State.setCore_clockMHz (c : Nat) (k : CoreSt) : (s.setCore c k).clockMHz = s.clockMHz := rfl
@[simp] theorem State.setCore_stopped (c : Nat) (k : CoreSt) : (s.setCore c k).stopped = s.stopped := rfl
@[simp] theorem State.setCore_mclock (c : Nat) (k : CoreSt) : (s.setCore c k).mclock = s.mclock := rfl
@[simp] theorem State.setCore_readySeq (c : Nat) (k : CoreSt) : (s.setCore c k).readySeq = s.readySeq := rfl
@[simp] theorem State.setCore_blockSeq (c : Nat) (k : CoreSt) : (s.setCore c k).blockSeq = s.blockSeq := rfl
@[simp] theorem State.setCore_priority (c : Nat) (k : CoreSt) : (s.setCore c k).priority = s.priority := rfl
@[simp] theorem State.setCore_agenda (c : Nat) (k : CoreSt) : (s.setCore c k).agenda = s.agenda := rfl
@[simp] theorem State.setCore_cur (c : Nat) (k : CoreSt) : (s.setCore c k).cur = s.cur := rfl
@[simp] theorem State.setCore_was (c : Nat) (k : CoreSt) : (s.setCore c k).was = s.was := rfl
@[simp] theorem State.setCore_tick (c : Nat) (k : CoreSt) : (s.setCore c k).tick = s.tick := rfl

/-! ### setCtx -/

@[simp] theorem State.setCtx_mem (x : Nat) (c : Ctx) : (s.setCtx x c).mem = s.mem := rfl
@[simp] theorem State.setCtx_cores (x : Nat) (c : Ctx) : (s.setCtx x c).cores = s.cores := rfl
@[simp] theorem State.setCtx_launches (x : Nat) (c : Ctx) : (s.setCtx x c).launches = s.launches := rfl
@[simp] theorem State.setCtx_flights (x : Nat) (c : Ctx) : (s.setCtx x c).flights = s.flights := rfl
@[simp] theorem State.setCtx_ctlb (x : Nat) (c : Ctx) : (s.setCtx x c).ctlb = s.ctlb := rfl
@[simp] theorem State.setCtx_wcache (x : Nat) (c : Ctx) : (s.setCtx x c).wcache = s.wcache := rfl
@[simp] theorem State.setCtx_plat (x : Nat) (c : Ctx) : (s.setCtx x c).plat = s.plat := rfl
@[simp] theorem State.setCtx_clusterMask (x : Nat) (c : Ctx) : (s.setCtx x c).clusterMask = s.clusterMask := rfl
@[simp] theorem State.setCtx_ports (x : Nat) (c : Ctx) : (s.setCtx x c).ports = s.ports := rfl
@[simp] theorem State.setCtx_groups (x : Nat) (c : Ctx) : (s.setCtx x c).groups = s.groups := rfl
@[simp] theorem State.setCtx_groupWait (x : Nat) (c : Ctx) : (s.setCtx x c).groupWait = s.groupWait := rfl
@[simp] theorem State.setCtx_lasers (x : Nat) (c : Ctx) : (s.setCtx x c).lasers = s.lasers := rfl
@[simp] theorem State.setCtx_links (x : Nat) (c : Ctx) : (s.setCtx x c).links = s.links := rfl
@[simp] theorem State.setCtx_applied (x : Nat) (c : Ctx) : (s.setCtx x c).applied = s.applied := rfl
@[simp] theorem State.setCtx_switch (x : Nat) (c : Ctx) : (s.setCtx x c).switch = s.switch := rfl
@[simp] theorem State.setCtx_arriving (x : Nat) (c : Ctx) : (s.setCtx x c).arriving = s.arriving := rfl
@[simp] theorem State.setCtx_colls (x : Nat) (c : Ctx) : (s.setCtx x c).colls = s.colls := rfl
@[simp] theorem State.setCtx_collSeq (x : Nat) (c : Ctx) : (s.setCtx x c).collSeq = s.collSeq := rfl
@[simp] theorem State.setCtx_xreqs (x : Nat) (c : Ctx) : (s.setCtx x c).xreqs = s.xreqs := rfl
@[simp] theorem State.setCtx_xtag (x : Nat) (c : Ctx) : (s.setCtx x c).xtag = s.xtag := rfl
@[simp] theorem State.setCtx_xanswers (x : Nat) (c : Ctx) : (s.setCtx x c).xanswers = s.xanswers := rfl
@[simp] theorem State.setCtx_quar (x : Nat) (c : Ctx) : (s.setCtx x c).quar = s.quar := rfl
@[simp] theorem State.setCtx_badLines (x : Nat) (c : Ctx) : (s.setCtx x c).badLines = s.badLines := rfl
@[simp] theorem State.setCtx_ras (x : Nat) (c : Ctx) : (s.setCtx x c).ras = s.ras := rfl
@[simp] theorem State.setCtx_heldLines (x : Nat) (c : Ctx) : (s.setCtx x c).heldLines = s.heldLines := rfl
@[simp] theorem State.setCtx_bar2Wait (x : Nat) (c : Ctx) : (s.setCtx x c).bar2Wait = s.bar2Wait := rfl
@[simp] theorem State.setCtx_bar2Data (x : Nat) (c : Ctx) : (s.setCtx x c).bar2Data = s.bar2Data := rfl
@[simp] theorem State.setCtx_bar2Log (x : Nat) (c : Ctx) : (s.setCtx x c).bar2Log = s.bar2Log := rfl
@[simp] theorem State.setCtx_bindWait (x : Nat) (c : Ctx) : (s.setCtx x c).bindWait = s.bindWait := rfl
@[simp] theorem State.setCtx_portFlash (x : Nat) (c : Ctx) : (s.setCtx x c).portFlash = s.portFlash := rfl
@[simp] theorem State.setCtx_fwSlotA (x : Nat) (c : Ctx) : (s.setCtx x c).fwSlotA = s.fwSlotA := rfl
@[simp] theorem State.setCtx_fwSlotB (x : Nat) (c : Ctx) : (s.setCtx x c).fwSlotB = s.fwSlotB := rfl
@[simp] theorem State.setCtx_fwStart (x : Nat) (c : Ctx) : (s.setCtx x c).fwStart = s.fwStart := rfl
@[simp] theorem State.setCtx_fwTried (x : Nat) (c : Ctx) : (s.setCtx x c).fwTried = s.fwTried := rfl
@[simp] theorem State.setCtx_copiedOut (x : Nat) (c : Ctx) : (s.setCtx x c).copiedOut = s.copiedOut := rfl
@[simp] theorem State.setCtx_bar2Base (x : Nat) (c : Ctx) : (s.setCtx x c).bar2Base = s.bar2Base := rfl
@[simp] theorem State.setCtx_dering (x : Nat) (c : Ctx) : (s.setCtx x c).dering = s.dering := rfl
@[simp] theorem State.setCtx_deprod (x : Nat) (c : Ctx) : (s.setCtx x c).deprod = s.deprod := rfl
@[simp] theorem State.setCtx_decons (x : Nat) (c : Ctx) : (s.setCtx x c).decons = s.decons := rfl
@[simp] theorem State.setCtx_devec (x : Nat) (c : Ctx) : (s.setCtx x c).devec = s.devec := rfl
@[simp] theorem State.setCtx_deseq (x : Nat) (c : Ctx) : (s.setCtx x c).deseq = s.deseq := rfl
@[simp] theorem State.setCtx_drainRes (x : Nat) (c : Ctx) : (s.setCtx x c).drainRes = s.drainRes := rfl
@[simp] theorem State.setCtx_bootStep (x : Nat) (c : Ctx) : (s.setCtx x c).bootStep = s.bootStep := rfl
@[simp] theorem State.setCtx_bootFail (x : Nat) (c : Ctx) : (s.setCtx x c).bootFail = s.bootFail := rfl
@[simp] theorem State.setCtx_active (x : Nat) (c : Ctx) : (s.setCtx x c).active = s.active := rfl
@[simp] theorem State.setCtx_repair (x : Nat) (c : Ctx) : (s.setCtx x c).repair = s.repair := rfl
@[simp] theorem State.setCtx_image (x : Nat) (c : Ctx) : (s.setCtx x c).image = s.image := rfl
@[simp] theorem State.setCtx_fwCtl (x : Nat) (c : Ctx) : (s.setCtx x c).fwCtl = s.fwCtl := rfl
@[simp] theorem State.setCtx_fwAddr (x : Nat) (c : Ctx) : (s.setCtx x c).fwAddr = s.fwAddr := rfl
@[simp] theorem State.setCtx_fwLen (x : Nat) (c : Ctx) : (s.setCtx x c).fwLen = s.fwLen := rfl
@[simp] theorem State.setCtx_fwState (x : Nat) (c : Ctx) : (s.setCtx x c).fwState = s.fwState := rfl
@[simp] theorem State.setCtx_fwValidA (x : Nat) (c : Ctx) : (s.setCtx x c).fwValidA = s.fwValidA := rfl
@[simp] theorem State.setCtx_fwValidB (x : Nat) (c : Ctx) : (s.setCtx x c).fwValidB = s.fwValidB := rfl
@[simp] theorem State.setCtx_fwSwitch (x : Nat) (c : Ctx) : (s.setCtx x c).fwSwitch = s.fwSwitch := rfl
@[simp] theorem State.setCtx_msix (x : Nat) (c : Ctx) : (s.setCtx x c).msix = s.msix := rfl
@[simp] theorem State.setCtx_clockMHz (x : Nat) (c : Ctx) : (s.setCtx x c).clockMHz = s.clockMHz := rfl
@[simp] theorem State.setCtx_stopped (x : Nat) (c : Ctx) : (s.setCtx x c).stopped = s.stopped := rfl
@[simp] theorem State.setCtx_mclock (x : Nat) (c : Ctx) : (s.setCtx x c).mclock = s.mclock := rfl
@[simp] theorem State.setCtx_readySeq (x : Nat) (c : Ctx) : (s.setCtx x c).readySeq = s.readySeq := rfl
@[simp] theorem State.setCtx_blockSeq (x : Nat) (c : Ctx) : (s.setCtx x c).blockSeq = s.blockSeq := rfl
@[simp] theorem State.setCtx_priority (x : Nat) (c : Ctx) : (s.setCtx x c).priority = s.priority := rfl
@[simp] theorem State.setCtx_agenda (x : Nat) (c : Ctx) : (s.setCtx x c).agenda = s.agenda := rfl
@[simp] theorem State.setCtx_cur (x : Nat) (c : Ctx) : (s.setCtx x c).cur = s.cur := rfl
@[simp] theorem State.setCtx_was (x : Nat) (c : Ctx) : (s.setCtx x c).was = s.was := rfl
@[simp] theorem State.setCtx_tick (x : Nat) (c : Ctx) : (s.setCtx x c).tick = s.tick := rfl

/-! ### updPort -/

@[simp] theorem State.updPort_mem (p : Nat) (f : Port → Port) : (s.updPort p f).mem = s.mem := rfl
@[simp] theorem State.updPort_cores (p : Nat) (f : Port → Port) : (s.updPort p f).cores = s.cores := rfl
@[simp] theorem State.updPort_ctxs (p : Nat) (f : Port → Port) : (s.updPort p f).ctxs = s.ctxs := rfl
@[simp] theorem State.updPort_launches (p : Nat) (f : Port → Port) : (s.updPort p f).launches = s.launches := rfl
@[simp] theorem State.updPort_flights (p : Nat) (f : Port → Port) : (s.updPort p f).flights = s.flights := rfl
@[simp] theorem State.updPort_ctlb (p : Nat) (f : Port → Port) : (s.updPort p f).ctlb = s.ctlb := rfl
@[simp] theorem State.updPort_wcache (p : Nat) (f : Port → Port) : (s.updPort p f).wcache = s.wcache := rfl
@[simp] theorem State.updPort_plat (p : Nat) (f : Port → Port) : (s.updPort p f).plat = s.plat := rfl
@[simp] theorem State.updPort_clusterMask (p : Nat) (f : Port → Port) : (s.updPort p f).clusterMask = s.clusterMask := rfl
@[simp] theorem State.updPort_groups (p : Nat) (f : Port → Port) : (s.updPort p f).groups = s.groups := rfl
@[simp] theorem State.updPort_groupWait (p : Nat) (f : Port → Port) : (s.updPort p f).groupWait = s.groupWait := rfl
@[simp] theorem State.updPort_lasers (p : Nat) (f : Port → Port) : (s.updPort p f).lasers = s.lasers := rfl
@[simp] theorem State.updPort_links (p : Nat) (f : Port → Port) : (s.updPort p f).links = s.links := rfl
@[simp] theorem State.updPort_applied (p : Nat) (f : Port → Port) : (s.updPort p f).applied = s.applied := rfl
@[simp] theorem State.updPort_switch (p : Nat) (f : Port → Port) : (s.updPort p f).switch = s.switch := rfl
@[simp] theorem State.updPort_arriving (p : Nat) (f : Port → Port) : (s.updPort p f).arriving = s.arriving := rfl
@[simp] theorem State.updPort_colls (p : Nat) (f : Port → Port) : (s.updPort p f).colls = s.colls := rfl
@[simp] theorem State.updPort_collSeq (p : Nat) (f : Port → Port) : (s.updPort p f).collSeq = s.collSeq := rfl
@[simp] theorem State.updPort_xreqs (p : Nat) (f : Port → Port) : (s.updPort p f).xreqs = s.xreqs := rfl
@[simp] theorem State.updPort_xtag (p : Nat) (f : Port → Port) : (s.updPort p f).xtag = s.xtag := rfl
@[simp] theorem State.updPort_xanswers (p : Nat) (f : Port → Port) : (s.updPort p f).xanswers = s.xanswers := rfl
@[simp] theorem State.updPort_quar (p : Nat) (f : Port → Port) : (s.updPort p f).quar = s.quar := rfl
@[simp] theorem State.updPort_badLines (p : Nat) (f : Port → Port) : (s.updPort p f).badLines = s.badLines := rfl
@[simp] theorem State.updPort_ras (p : Nat) (f : Port → Port) : (s.updPort p f).ras = s.ras := rfl
@[simp] theorem State.updPort_heldLines (p : Nat) (f : Port → Port) : (s.updPort p f).heldLines = s.heldLines := rfl
@[simp] theorem State.updPort_bar2Wait (p : Nat) (f : Port → Port) : (s.updPort p f).bar2Wait = s.bar2Wait := rfl
@[simp] theorem State.updPort_bar2Data (p : Nat) (f : Port → Port) : (s.updPort p f).bar2Data = s.bar2Data := rfl
@[simp] theorem State.updPort_bar2Log (p : Nat) (f : Port → Port) : (s.updPort p f).bar2Log = s.bar2Log := rfl
@[simp] theorem State.updPort_bindWait (p : Nat) (f : Port → Port) : (s.updPort p f).bindWait = s.bindWait := rfl
@[simp] theorem State.updPort_portFlash (p : Nat) (f : Port → Port) : (s.updPort p f).portFlash = s.portFlash := rfl
@[simp] theorem State.updPort_fwSlotA (p : Nat) (f : Port → Port) : (s.updPort p f).fwSlotA = s.fwSlotA := rfl
@[simp] theorem State.updPort_fwSlotB (p : Nat) (f : Port → Port) : (s.updPort p f).fwSlotB = s.fwSlotB := rfl
@[simp] theorem State.updPort_fwStart (p : Nat) (f : Port → Port) : (s.updPort p f).fwStart = s.fwStart := rfl
@[simp] theorem State.updPort_fwTried (p : Nat) (f : Port → Port) : (s.updPort p f).fwTried = s.fwTried := rfl
@[simp] theorem State.updPort_copiedOut (p : Nat) (f : Port → Port) : (s.updPort p f).copiedOut = s.copiedOut := rfl
@[simp] theorem State.updPort_bar2Base (p : Nat) (f : Port → Port) : (s.updPort p f).bar2Base = s.bar2Base := rfl
@[simp] theorem State.updPort_dering (p : Nat) (f : Port → Port) : (s.updPort p f).dering = s.dering := rfl
@[simp] theorem State.updPort_deprod (p : Nat) (f : Port → Port) : (s.updPort p f).deprod = s.deprod := rfl
@[simp] theorem State.updPort_decons (p : Nat) (f : Port → Port) : (s.updPort p f).decons = s.decons := rfl
@[simp] theorem State.updPort_devec (p : Nat) (f : Port → Port) : (s.updPort p f).devec = s.devec := rfl
@[simp] theorem State.updPort_deseq (p : Nat) (f : Port → Port) : (s.updPort p f).deseq = s.deseq := rfl
@[simp] theorem State.updPort_drainRes (p : Nat) (f : Port → Port) : (s.updPort p f).drainRes = s.drainRes := rfl
@[simp] theorem State.updPort_bootStep (p : Nat) (f : Port → Port) : (s.updPort p f).bootStep = s.bootStep := rfl
@[simp] theorem State.updPort_bootFail (p : Nat) (f : Port → Port) : (s.updPort p f).bootFail = s.bootFail := rfl
@[simp] theorem State.updPort_active (p : Nat) (f : Port → Port) : (s.updPort p f).active = s.active := rfl
@[simp] theorem State.updPort_repair (p : Nat) (f : Port → Port) : (s.updPort p f).repair = s.repair := rfl
@[simp] theorem State.updPort_image (p : Nat) (f : Port → Port) : (s.updPort p f).image = s.image := rfl
@[simp] theorem State.updPort_fwCtl (p : Nat) (f : Port → Port) : (s.updPort p f).fwCtl = s.fwCtl := rfl
@[simp] theorem State.updPort_fwAddr (p : Nat) (f : Port → Port) : (s.updPort p f).fwAddr = s.fwAddr := rfl
@[simp] theorem State.updPort_fwLen (p : Nat) (f : Port → Port) : (s.updPort p f).fwLen = s.fwLen := rfl
@[simp] theorem State.updPort_fwState (p : Nat) (f : Port → Port) : (s.updPort p f).fwState = s.fwState := rfl
@[simp] theorem State.updPort_fwValidA (p : Nat) (f : Port → Port) : (s.updPort p f).fwValidA = s.fwValidA := rfl
@[simp] theorem State.updPort_fwValidB (p : Nat) (f : Port → Port) : (s.updPort p f).fwValidB = s.fwValidB := rfl
@[simp] theorem State.updPort_fwSwitch (p : Nat) (f : Port → Port) : (s.updPort p f).fwSwitch = s.fwSwitch := rfl
@[simp] theorem State.updPort_msix (p : Nat) (f : Port → Port) : (s.updPort p f).msix = s.msix := rfl
@[simp] theorem State.updPort_clockMHz (p : Nat) (f : Port → Port) : (s.updPort p f).clockMHz = s.clockMHz := rfl
@[simp] theorem State.updPort_stopped (p : Nat) (f : Port → Port) : (s.updPort p f).stopped = s.stopped := rfl
@[simp] theorem State.updPort_mclock (p : Nat) (f : Port → Port) : (s.updPort p f).mclock = s.mclock := rfl
@[simp] theorem State.updPort_readySeq (p : Nat) (f : Port → Port) : (s.updPort p f).readySeq = s.readySeq := rfl
@[simp] theorem State.updPort_blockSeq (p : Nat) (f : Port → Port) : (s.updPort p f).blockSeq = s.blockSeq := rfl
@[simp] theorem State.updPort_priority (p : Nat) (f : Port → Port) : (s.updPort p f).priority = s.priority := rfl
@[simp] theorem State.updPort_agenda (p : Nat) (f : Port → Port) : (s.updPort p f).agenda = s.agenda := rfl
@[simp] theorem State.updPort_cur (p : Nat) (f : Port → Port) : (s.updPort p f).cur = s.cur := rfl
@[simp] theorem State.updPort_was (p : Nat) (f : Port → Port) : (s.updPort p f).was = s.was := rfl
@[simp] theorem State.updPort_tick (p : Nat) (f : Port → Port) : (s.updPort p f).tick = s.tick := rfl

/-! ### updLaunch -/

@[simp] theorem State.updLaunch_mem (l : Nat) (f : Launch → Launch) : (s.updLaunch l f).mem = s.mem := rfl
@[simp] theorem State.updLaunch_cores (l : Nat) (f : Launch → Launch) : (s.updLaunch l f).cores = s.cores := rfl
@[simp] theorem State.updLaunch_ctxs (l : Nat) (f : Launch → Launch) : (s.updLaunch l f).ctxs = s.ctxs := rfl
@[simp] theorem State.updLaunch_flights (l : Nat) (f : Launch → Launch) : (s.updLaunch l f).flights = s.flights := rfl
@[simp] theorem State.updLaunch_ctlb (l : Nat) (f : Launch → Launch) : (s.updLaunch l f).ctlb = s.ctlb := rfl
@[simp] theorem State.updLaunch_wcache (l : Nat) (f : Launch → Launch) : (s.updLaunch l f).wcache = s.wcache := rfl
@[simp] theorem State.updLaunch_plat (l : Nat) (f : Launch → Launch) : (s.updLaunch l f).plat = s.plat := rfl
@[simp] theorem State.updLaunch_clusterMask (l : Nat) (f : Launch → Launch) : (s.updLaunch l f).clusterMask = s.clusterMask := rfl
@[simp] theorem State.updLaunch_ports (l : Nat) (f : Launch → Launch) : (s.updLaunch l f).ports = s.ports := rfl
@[simp] theorem State.updLaunch_groups (l : Nat) (f : Launch → Launch) : (s.updLaunch l f).groups = s.groups := rfl
@[simp] theorem State.updLaunch_groupWait (l : Nat) (f : Launch → Launch) : (s.updLaunch l f).groupWait = s.groupWait := rfl
@[simp] theorem State.updLaunch_lasers (l : Nat) (f : Launch → Launch) : (s.updLaunch l f).lasers = s.lasers := rfl
@[simp] theorem State.updLaunch_links (l : Nat) (f : Launch → Launch) : (s.updLaunch l f).links = s.links := rfl
@[simp] theorem State.updLaunch_applied (l : Nat) (f : Launch → Launch) : (s.updLaunch l f).applied = s.applied := rfl
@[simp] theorem State.updLaunch_switch (l : Nat) (f : Launch → Launch) : (s.updLaunch l f).switch = s.switch := rfl
@[simp] theorem State.updLaunch_arriving (l : Nat) (f : Launch → Launch) : (s.updLaunch l f).arriving = s.arriving := rfl
@[simp] theorem State.updLaunch_colls (l : Nat) (f : Launch → Launch) : (s.updLaunch l f).colls = s.colls := rfl
@[simp] theorem State.updLaunch_collSeq (l : Nat) (f : Launch → Launch) : (s.updLaunch l f).collSeq = s.collSeq := rfl
@[simp] theorem State.updLaunch_xreqs (l : Nat) (f : Launch → Launch) : (s.updLaunch l f).xreqs = s.xreqs := rfl
@[simp] theorem State.updLaunch_xtag (l : Nat) (f : Launch → Launch) : (s.updLaunch l f).xtag = s.xtag := rfl
@[simp] theorem State.updLaunch_xanswers (l : Nat) (f : Launch → Launch) : (s.updLaunch l f).xanswers = s.xanswers := rfl
@[simp] theorem State.updLaunch_quar (l : Nat) (f : Launch → Launch) : (s.updLaunch l f).quar = s.quar := rfl
@[simp] theorem State.updLaunch_badLines (l : Nat) (f : Launch → Launch) : (s.updLaunch l f).badLines = s.badLines := rfl
@[simp] theorem State.updLaunch_ras (l : Nat) (f : Launch → Launch) : (s.updLaunch l f).ras = s.ras := rfl
@[simp] theorem State.updLaunch_heldLines (l : Nat) (f : Launch → Launch) : (s.updLaunch l f).heldLines = s.heldLines := rfl
@[simp] theorem State.updLaunch_bar2Wait (l : Nat) (f : Launch → Launch) : (s.updLaunch l f).bar2Wait = s.bar2Wait := rfl
@[simp] theorem State.updLaunch_bar2Data (l : Nat) (f : Launch → Launch) : (s.updLaunch l f).bar2Data = s.bar2Data := rfl
@[simp] theorem State.updLaunch_bar2Log (l : Nat) (f : Launch → Launch) : (s.updLaunch l f).bar2Log = s.bar2Log := rfl
@[simp] theorem State.updLaunch_bindWait (l : Nat) (f : Launch → Launch) : (s.updLaunch l f).bindWait = s.bindWait := rfl
@[simp] theorem State.updLaunch_portFlash (l : Nat) (f : Launch → Launch) : (s.updLaunch l f).portFlash = s.portFlash := rfl
@[simp] theorem State.updLaunch_fwSlotA (l : Nat) (f : Launch → Launch) : (s.updLaunch l f).fwSlotA = s.fwSlotA := rfl
@[simp] theorem State.updLaunch_fwSlotB (l : Nat) (f : Launch → Launch) : (s.updLaunch l f).fwSlotB = s.fwSlotB := rfl
@[simp] theorem State.updLaunch_fwStart (l : Nat) (f : Launch → Launch) : (s.updLaunch l f).fwStart = s.fwStart := rfl
@[simp] theorem State.updLaunch_fwTried (l : Nat) (f : Launch → Launch) : (s.updLaunch l f).fwTried = s.fwTried := rfl
@[simp] theorem State.updLaunch_copiedOut (l : Nat) (f : Launch → Launch) : (s.updLaunch l f).copiedOut = s.copiedOut := rfl
@[simp] theorem State.updLaunch_bar2Base (l : Nat) (f : Launch → Launch) : (s.updLaunch l f).bar2Base = s.bar2Base := rfl
@[simp] theorem State.updLaunch_dering (l : Nat) (f : Launch → Launch) : (s.updLaunch l f).dering = s.dering := rfl
@[simp] theorem State.updLaunch_deprod (l : Nat) (f : Launch → Launch) : (s.updLaunch l f).deprod = s.deprod := rfl
@[simp] theorem State.updLaunch_decons (l : Nat) (f : Launch → Launch) : (s.updLaunch l f).decons = s.decons := rfl
@[simp] theorem State.updLaunch_devec (l : Nat) (f : Launch → Launch) : (s.updLaunch l f).devec = s.devec := rfl
@[simp] theorem State.updLaunch_deseq (l : Nat) (f : Launch → Launch) : (s.updLaunch l f).deseq = s.deseq := rfl
@[simp] theorem State.updLaunch_drainRes (l : Nat) (f : Launch → Launch) : (s.updLaunch l f).drainRes = s.drainRes := rfl
@[simp] theorem State.updLaunch_bootStep (l : Nat) (f : Launch → Launch) : (s.updLaunch l f).bootStep = s.bootStep := rfl
@[simp] theorem State.updLaunch_bootFail (l : Nat) (f : Launch → Launch) : (s.updLaunch l f).bootFail = s.bootFail := rfl
@[simp] theorem State.updLaunch_active (l : Nat) (f : Launch → Launch) : (s.updLaunch l f).active = s.active := rfl
@[simp] theorem State.updLaunch_repair (l : Nat) (f : Launch → Launch) : (s.updLaunch l f).repair = s.repair := rfl
@[simp] theorem State.updLaunch_image (l : Nat) (f : Launch → Launch) : (s.updLaunch l f).image = s.image := rfl
@[simp] theorem State.updLaunch_fwCtl (l : Nat) (f : Launch → Launch) : (s.updLaunch l f).fwCtl = s.fwCtl := rfl
@[simp] theorem State.updLaunch_fwAddr (l : Nat) (f : Launch → Launch) : (s.updLaunch l f).fwAddr = s.fwAddr := rfl
@[simp] theorem State.updLaunch_fwLen (l : Nat) (f : Launch → Launch) : (s.updLaunch l f).fwLen = s.fwLen := rfl
@[simp] theorem State.updLaunch_fwState (l : Nat) (f : Launch → Launch) : (s.updLaunch l f).fwState = s.fwState := rfl
@[simp] theorem State.updLaunch_fwValidA (l : Nat) (f : Launch → Launch) : (s.updLaunch l f).fwValidA = s.fwValidA := rfl
@[simp] theorem State.updLaunch_fwValidB (l : Nat) (f : Launch → Launch) : (s.updLaunch l f).fwValidB = s.fwValidB := rfl
@[simp] theorem State.updLaunch_fwSwitch (l : Nat) (f : Launch → Launch) : (s.updLaunch l f).fwSwitch = s.fwSwitch := rfl
@[simp] theorem State.updLaunch_msix (l : Nat) (f : Launch → Launch) : (s.updLaunch l f).msix = s.msix := rfl
@[simp] theorem State.updLaunch_clockMHz (l : Nat) (f : Launch → Launch) : (s.updLaunch l f).clockMHz = s.clockMHz := rfl
@[simp] theorem State.updLaunch_stopped (l : Nat) (f : Launch → Launch) : (s.updLaunch l f).stopped = s.stopped := rfl
@[simp] theorem State.updLaunch_mclock (l : Nat) (f : Launch → Launch) : (s.updLaunch l f).mclock = s.mclock := rfl
@[simp] theorem State.updLaunch_readySeq (l : Nat) (f : Launch → Launch) : (s.updLaunch l f).readySeq = s.readySeq := rfl
@[simp] theorem State.updLaunch_blockSeq (l : Nat) (f : Launch → Launch) : (s.updLaunch l f).blockSeq = s.blockSeq := rfl
@[simp] theorem State.updLaunch_priority (l : Nat) (f : Launch → Launch) : (s.updLaunch l f).priority = s.priority := rfl
@[simp] theorem State.updLaunch_agenda (l : Nat) (f : Launch → Launch) : (s.updLaunch l f).agenda = s.agenda := rfl
@[simp] theorem State.updLaunch_cur (l : Nat) (f : Launch → Launch) : (s.updLaunch l f).cur = s.cur := rfl
@[simp] theorem State.updLaunch_was (l : Nat) (f : Launch → Launch) : (s.updLaunch l f).was = s.was := rfl
@[simp] theorem State.updLaunch_tick (l : Nat) (f : Launch → Launch) : (s.updLaunch l f).tick = s.tick := rfl

/-! ### writeMem -/

@[simp] theorem State.writeMem_cores (k : Nat) (bs : List Byte) : (s.writeMem k bs).cores = s.cores := rfl
@[simp] theorem State.writeMem_ctxs (k : Nat) (bs : List Byte) : (s.writeMem k bs).ctxs = s.ctxs := rfl
@[simp] theorem State.writeMem_launches (k : Nat) (bs : List Byte) : (s.writeMem k bs).launches = s.launches := rfl
@[simp] theorem State.writeMem_flights (k : Nat) (bs : List Byte) : (s.writeMem k bs).flights = s.flights := rfl
@[simp] theorem State.writeMem_ctlb (k : Nat) (bs : List Byte) : (s.writeMem k bs).ctlb = s.ctlb := rfl
@[simp] theorem State.writeMem_wcache (k : Nat) (bs : List Byte) : (s.writeMem k bs).wcache = s.wcache := rfl
@[simp] theorem State.writeMem_plat (k : Nat) (bs : List Byte) : (s.writeMem k bs).plat = s.plat := rfl
@[simp] theorem State.writeMem_clusterMask (k : Nat) (bs : List Byte) : (s.writeMem k bs).clusterMask = s.clusterMask := rfl
@[simp] theorem State.writeMem_ports (k : Nat) (bs : List Byte) : (s.writeMem k bs).ports = s.ports := rfl
@[simp] theorem State.writeMem_groups (k : Nat) (bs : List Byte) : (s.writeMem k bs).groups = s.groups := rfl
@[simp] theorem State.writeMem_groupWait (k : Nat) (bs : List Byte) : (s.writeMem k bs).groupWait = s.groupWait := rfl
@[simp] theorem State.writeMem_lasers (k : Nat) (bs : List Byte) : (s.writeMem k bs).lasers = s.lasers := rfl
@[simp] theorem State.writeMem_links (k : Nat) (bs : List Byte) : (s.writeMem k bs).links = s.links := rfl
@[simp] theorem State.writeMem_applied (k : Nat) (bs : List Byte) : (s.writeMem k bs).applied = s.applied := rfl
@[simp] theorem State.writeMem_switch (k : Nat) (bs : List Byte) : (s.writeMem k bs).switch = s.switch := rfl
@[simp] theorem State.writeMem_arriving (k : Nat) (bs : List Byte) : (s.writeMem k bs).arriving = s.arriving := rfl
@[simp] theorem State.writeMem_colls (k : Nat) (bs : List Byte) : (s.writeMem k bs).colls = s.colls := rfl
@[simp] theorem State.writeMem_collSeq (k : Nat) (bs : List Byte) : (s.writeMem k bs).collSeq = s.collSeq := rfl
@[simp] theorem State.writeMem_xreqs (k : Nat) (bs : List Byte) : (s.writeMem k bs).xreqs = s.xreqs := rfl
@[simp] theorem State.writeMem_xtag (k : Nat) (bs : List Byte) : (s.writeMem k bs).xtag = s.xtag := rfl
@[simp] theorem State.writeMem_xanswers (k : Nat) (bs : List Byte) : (s.writeMem k bs).xanswers = s.xanswers := rfl
@[simp] theorem State.writeMem_quar (k : Nat) (bs : List Byte) : (s.writeMem k bs).quar = s.quar := rfl
@[simp] theorem State.writeMem_badLines (k : Nat) (bs : List Byte) : (s.writeMem k bs).badLines = s.badLines := rfl
@[simp] theorem State.writeMem_ras (k : Nat) (bs : List Byte) : (s.writeMem k bs).ras = s.ras := rfl
@[simp] theorem State.writeMem_heldLines (k : Nat) (bs : List Byte) : (s.writeMem k bs).heldLines = s.heldLines := rfl
@[simp] theorem State.writeMem_bar2Wait (k : Nat) (bs : List Byte) : (s.writeMem k bs).bar2Wait = s.bar2Wait := rfl
@[simp] theorem State.writeMem_bar2Data (k : Nat) (bs : List Byte) : (s.writeMem k bs).bar2Data = s.bar2Data := rfl
@[simp] theorem State.writeMem_bar2Log (k : Nat) (bs : List Byte) : (s.writeMem k bs).bar2Log = s.bar2Log := rfl
@[simp] theorem State.writeMem_bindWait (k : Nat) (bs : List Byte) : (s.writeMem k bs).bindWait = s.bindWait := rfl
@[simp] theorem State.writeMem_portFlash (k : Nat) (bs : List Byte) : (s.writeMem k bs).portFlash = s.portFlash := rfl
@[simp] theorem State.writeMem_fwSlotA (k : Nat) (bs : List Byte) : (s.writeMem k bs).fwSlotA = s.fwSlotA := rfl
@[simp] theorem State.writeMem_fwSlotB (k : Nat) (bs : List Byte) : (s.writeMem k bs).fwSlotB = s.fwSlotB := rfl
@[simp] theorem State.writeMem_fwStart (k : Nat) (bs : List Byte) : (s.writeMem k bs).fwStart = s.fwStart := rfl
@[simp] theorem State.writeMem_fwTried (k : Nat) (bs : List Byte) : (s.writeMem k bs).fwTried = s.fwTried := rfl
@[simp] theorem State.writeMem_copiedOut (k : Nat) (bs : List Byte) : (s.writeMem k bs).copiedOut = s.copiedOut := rfl
@[simp] theorem State.writeMem_bar2Base (k : Nat) (bs : List Byte) : (s.writeMem k bs).bar2Base = s.bar2Base := rfl
@[simp] theorem State.writeMem_dering (k : Nat) (bs : List Byte) : (s.writeMem k bs).dering = s.dering := rfl
@[simp] theorem State.writeMem_deprod (k : Nat) (bs : List Byte) : (s.writeMem k bs).deprod = s.deprod := rfl
@[simp] theorem State.writeMem_decons (k : Nat) (bs : List Byte) : (s.writeMem k bs).decons = s.decons := rfl
@[simp] theorem State.writeMem_devec (k : Nat) (bs : List Byte) : (s.writeMem k bs).devec = s.devec := rfl
@[simp] theorem State.writeMem_deseq (k : Nat) (bs : List Byte) : (s.writeMem k bs).deseq = s.deseq := rfl
@[simp] theorem State.writeMem_drainRes (k : Nat) (bs : List Byte) : (s.writeMem k bs).drainRes = s.drainRes := rfl
@[simp] theorem State.writeMem_bootStep (k : Nat) (bs : List Byte) : (s.writeMem k bs).bootStep = s.bootStep := rfl
@[simp] theorem State.writeMem_bootFail (k : Nat) (bs : List Byte) : (s.writeMem k bs).bootFail = s.bootFail := rfl
@[simp] theorem State.writeMem_active (k : Nat) (bs : List Byte) : (s.writeMem k bs).active = s.active := rfl
@[simp] theorem State.writeMem_repair (k : Nat) (bs : List Byte) : (s.writeMem k bs).repair = s.repair := rfl
@[simp] theorem State.writeMem_image (k : Nat) (bs : List Byte) : (s.writeMem k bs).image = s.image := rfl
@[simp] theorem State.writeMem_fwCtl (k : Nat) (bs : List Byte) : (s.writeMem k bs).fwCtl = s.fwCtl := rfl
@[simp] theorem State.writeMem_fwAddr (k : Nat) (bs : List Byte) : (s.writeMem k bs).fwAddr = s.fwAddr := rfl
@[simp] theorem State.writeMem_fwLen (k : Nat) (bs : List Byte) : (s.writeMem k bs).fwLen = s.fwLen := rfl
@[simp] theorem State.writeMem_fwState (k : Nat) (bs : List Byte) : (s.writeMem k bs).fwState = s.fwState := rfl
@[simp] theorem State.writeMem_fwValidA (k : Nat) (bs : List Byte) : (s.writeMem k bs).fwValidA = s.fwValidA := rfl
@[simp] theorem State.writeMem_fwValidB (k : Nat) (bs : List Byte) : (s.writeMem k bs).fwValidB = s.fwValidB := rfl
@[simp] theorem State.writeMem_fwSwitch (k : Nat) (bs : List Byte) : (s.writeMem k bs).fwSwitch = s.fwSwitch := rfl
@[simp] theorem State.writeMem_msix (k : Nat) (bs : List Byte) : (s.writeMem k bs).msix = s.msix := rfl
@[simp] theorem State.writeMem_clockMHz (k : Nat) (bs : List Byte) : (s.writeMem k bs).clockMHz = s.clockMHz := rfl
@[simp] theorem State.writeMem_stopped (k : Nat) (bs : List Byte) : (s.writeMem k bs).stopped = s.stopped := rfl
@[simp] theorem State.writeMem_mclock (k : Nat) (bs : List Byte) : (s.writeMem k bs).mclock = s.mclock := rfl
@[simp] theorem State.writeMem_readySeq (k : Nat) (bs : List Byte) : (s.writeMem k bs).readySeq = s.readySeq := rfl
@[simp] theorem State.writeMem_blockSeq (k : Nat) (bs : List Byte) : (s.writeMem k bs).blockSeq = s.blockSeq := rfl
@[simp] theorem State.writeMem_priority (k : Nat) (bs : List Byte) : (s.writeMem k bs).priority = s.priority := rfl
@[simp] theorem State.writeMem_agenda (k : Nat) (bs : List Byte) : (s.writeMem k bs).agenda = s.agenda := rfl
@[simp] theorem State.writeMem_cur (k : Nat) (bs : List Byte) : (s.writeMem k bs).cur = s.cur := rfl
@[simp] theorem State.writeMem_was (k : Nat) (bs : List Byte) : (s.writeMem k bs).was = s.was := rfl
@[simp] theorem State.writeMem_tick (k : Nat) (bs : List Byte) : (s.writeMem k bs).tick = s.tick := rfl

/-! ### updCore -/

@[simp] theorem State.updCore_mem (c : Nat) (f : CoreSt → CoreSt) : (s.updCore c f).mem = s.mem := rfl
@[simp] theorem State.updCore_ctxs (c : Nat) (f : CoreSt → CoreSt) : (s.updCore c f).ctxs = s.ctxs := rfl
@[simp] theorem State.updCore_launches (c : Nat) (f : CoreSt → CoreSt) : (s.updCore c f).launches = s.launches := rfl
@[simp] theorem State.updCore_flights (c : Nat) (f : CoreSt → CoreSt) : (s.updCore c f).flights = s.flights := rfl
@[simp] theorem State.updCore_plat (c : Nat) (f : CoreSt → CoreSt) : (s.updCore c f).plat = s.plat := rfl
@[simp] theorem State.updCore_clusterMask (c : Nat) (f : CoreSt → CoreSt) : (s.updCore c f).clusterMask = s.clusterMask := rfl
@[simp] theorem State.updCore_ports (c : Nat) (f : CoreSt → CoreSt) : (s.updCore c f).ports = s.ports := rfl
@[simp] theorem State.updCore_groups (c : Nat) (f : CoreSt → CoreSt) : (s.updCore c f).groups = s.groups := rfl
@[simp] theorem State.updCore_groupWait (c : Nat) (f : CoreSt → CoreSt) : (s.updCore c f).groupWait = s.groupWait := rfl
@[simp] theorem State.updCore_quar (c : Nat) (f : CoreSt → CoreSt) : (s.updCore c f).quar = s.quar := rfl
@[simp] theorem State.updCore_badLines (c : Nat) (f : CoreSt → CoreSt) : (s.updCore c f).badLines = s.badLines := rfl
@[simp] theorem State.updCore_heldLines (c : Nat) (f : CoreSt → CoreSt) : (s.updCore c f).heldLines = s.heldLines := rfl
@[simp] theorem State.updCore_cur (c : Nat) (f : CoreSt → CoreSt) : (s.updCore c f).cur = s.cur := rfl
@[simp] theorem State.updCore_agenda (c : Nat) (f : CoreSt → CoreSt) : (s.updCore c f).agenda = s.agenda := rfl
@[simp] theorem State.updCore_tick (c : Nat) (f : CoreSt → CoreSt) : (s.updCore c f).tick = s.tick := rfl

/-! ### updArch -/

@[simp] theorem State.updArch_mem (c : Nat) (f : CoreArch → CoreArch) : (s.updArch c f).mem = s.mem := rfl
@[simp] theorem State.updArch_ctxs (c : Nat) (f : CoreArch → CoreArch) : (s.updArch c f).ctxs = s.ctxs := rfl
@[simp] theorem State.updArch_launches (c : Nat) (f : CoreArch → CoreArch) : (s.updArch c f).launches = s.launches := rfl
@[simp] theorem State.updArch_flights (c : Nat) (f : CoreArch → CoreArch) : (s.updArch c f).flights = s.flights := rfl
@[simp] theorem State.updArch_plat (c : Nat) (f : CoreArch → CoreArch) : (s.updArch c f).plat = s.plat := rfl
@[simp] theorem State.updArch_clusterMask (c : Nat) (f : CoreArch → CoreArch) : (s.updArch c f).clusterMask = s.clusterMask := rfl
@[simp] theorem State.updArch_ports (c : Nat) (f : CoreArch → CoreArch) : (s.updArch c f).ports = s.ports := rfl
@[simp] theorem State.updArch_groups (c : Nat) (f : CoreArch → CoreArch) : (s.updArch c f).groups = s.groups := rfl
@[simp] theorem State.updArch_groupWait (c : Nat) (f : CoreArch → CoreArch) : (s.updArch c f).groupWait = s.groupWait := rfl
@[simp] theorem State.updArch_quar (c : Nat) (f : CoreArch → CoreArch) : (s.updArch c f).quar = s.quar := rfl
@[simp] theorem State.updArch_badLines (c : Nat) (f : CoreArch → CoreArch) : (s.updArch c f).badLines = s.badLines := rfl
@[simp] theorem State.updArch_heldLines (c : Nat) (f : CoreArch → CoreArch) : (s.updArch c f).heldLines = s.heldLines := rfl
@[simp] theorem State.updArch_cur (c : Nat) (f : CoreArch → CoreArch) : (s.updArch c f).cur = s.cur := rfl
@[simp] theorem State.updArch_agenda (c : Nat) (f : CoreArch → CoreArch) : (s.updArch c f).agenda = s.agenda := rfl
@[simp] theorem State.updArch_tick (c : Nat) (f : CoreArch → CoreArch) : (s.updArch c f).tick = s.tick := rfl

/-! ### updChunk -/

@[simp] theorem State.updChunk_mem (c : Nat) (f : Chunk → Chunk) : (s.updChunk c f).mem = s.mem := rfl
@[simp] theorem State.updChunk_ctxs (c : Nat) (f : Chunk → Chunk) : (s.updChunk c f).ctxs = s.ctxs := rfl
@[simp] theorem State.updChunk_launches (c : Nat) (f : Chunk → Chunk) : (s.updChunk c f).launches = s.launches := rfl
@[simp] theorem State.updChunk_flights (c : Nat) (f : Chunk → Chunk) : (s.updChunk c f).flights = s.flights := rfl
@[simp] theorem State.updChunk_plat (c : Nat) (f : Chunk → Chunk) : (s.updChunk c f).plat = s.plat := rfl
@[simp] theorem State.updChunk_clusterMask (c : Nat) (f : Chunk → Chunk) : (s.updChunk c f).clusterMask = s.clusterMask := rfl
@[simp] theorem State.updChunk_ports (c : Nat) (f : Chunk → Chunk) : (s.updChunk c f).ports = s.ports := rfl
@[simp] theorem State.updChunk_groups (c : Nat) (f : Chunk → Chunk) : (s.updChunk c f).groups = s.groups := rfl
@[simp] theorem State.updChunk_groupWait (c : Nat) (f : Chunk → Chunk) : (s.updChunk c f).groupWait = s.groupWait := rfl
@[simp] theorem State.updChunk_quar (c : Nat) (f : Chunk → Chunk) : (s.updChunk c f).quar = s.quar := rfl
@[simp] theorem State.updChunk_badLines (c : Nat) (f : Chunk → Chunk) : (s.updChunk c f).badLines = s.badLines := rfl
@[simp] theorem State.updChunk_heldLines (c : Nat) (f : Chunk → Chunk) : (s.updChunk c f).heldLines = s.heldLines := rfl
@[simp] theorem State.updChunk_cur (c : Nat) (f : Chunk → Chunk) : (s.updChunk c f).cur = s.cur := rfl
@[simp] theorem State.updChunk_agenda (c : Nat) (f : Chunk → Chunk) : (s.updChunk c f).agenda = s.agenda := rfl
@[simp] theorem State.updChunk_tick (c : Nat) (f : Chunk → Chunk) : (s.updChunk c f).tick = s.tick := rfl

/-! ### updBoth -/

@[simp] theorem State.updBoth_mem (c : Nat) (f : CoreArch → CoreArch) : (s.updBoth c f).mem = s.mem := rfl
@[simp] theorem State.updBoth_ctxs (c : Nat) (f : CoreArch → CoreArch) : (s.updBoth c f).ctxs = s.ctxs := rfl
@[simp] theorem State.updBoth_launches (c : Nat) (f : CoreArch → CoreArch) : (s.updBoth c f).launches = s.launches := rfl
@[simp] theorem State.updBoth_flights (c : Nat) (f : CoreArch → CoreArch) : (s.updBoth c f).flights = s.flights := rfl
@[simp] theorem State.updBoth_plat (c : Nat) (f : CoreArch → CoreArch) : (s.updBoth c f).plat = s.plat := rfl
@[simp] theorem State.updBoth_clusterMask (c : Nat) (f : CoreArch → CoreArch) : (s.updBoth c f).clusterMask = s.clusterMask := rfl
@[simp] theorem State.updBoth_ports (c : Nat) (f : CoreArch → CoreArch) : (s.updBoth c f).ports = s.ports := rfl
@[simp] theorem State.updBoth_groups (c : Nat) (f : CoreArch → CoreArch) : (s.updBoth c f).groups = s.groups := rfl
@[simp] theorem State.updBoth_groupWait (c : Nat) (f : CoreArch → CoreArch) : (s.updBoth c f).groupWait = s.groupWait := rfl
@[simp] theorem State.updBoth_quar (c : Nat) (f : CoreArch → CoreArch) : (s.updBoth c f).quar = s.quar := rfl
@[simp] theorem State.updBoth_badLines (c : Nat) (f : CoreArch → CoreArch) : (s.updBoth c f).badLines = s.badLines := rfl
@[simp] theorem State.updBoth_heldLines (c : Nat) (f : CoreArch → CoreArch) : (s.updBoth c f).heldLines = s.heldLines := rfl
@[simp] theorem State.updBoth_cur (c : Nat) (f : CoreArch → CoreArch) : (s.updBoth c f).cur = s.cur := rfl
@[simp] theorem State.updBoth_agenda (c : Nat) (f : CoreArch → CoreArch) : (s.updBoth c f).agenda = s.agenda := rfl
@[simp] theorem State.updBoth_tick (c : Nat) (f : CoreArch → CoreArch) : (s.updBoth c f).tick = s.tick := rfl

/-! ### updBlock -/

@[simp] theorem State.updBlock_mem (c slot : Nat) (f : Block → Block) : (s.updBlock c slot f).mem = s.mem := rfl
@[simp] theorem State.updBlock_ctxs (c slot : Nat) (f : Block → Block) : (s.updBlock c slot f).ctxs = s.ctxs := rfl
@[simp] theorem State.updBlock_launches (c slot : Nat) (f : Block → Block) : (s.updBlock c slot f).launches = s.launches := rfl
@[simp] theorem State.updBlock_flights (c slot : Nat) (f : Block → Block) : (s.updBlock c slot f).flights = s.flights := rfl
@[simp] theorem State.updBlock_plat (c slot : Nat) (f : Block → Block) : (s.updBlock c slot f).plat = s.plat := rfl
@[simp] theorem State.updBlock_clusterMask (c slot : Nat) (f : Block → Block) : (s.updBlock c slot f).clusterMask = s.clusterMask := rfl
@[simp] theorem State.updBlock_ports (c slot : Nat) (f : Block → Block) : (s.updBlock c slot f).ports = s.ports := rfl
@[simp] theorem State.updBlock_groups (c slot : Nat) (f : Block → Block) : (s.updBlock c slot f).groups = s.groups := rfl
@[simp] theorem State.updBlock_groupWait (c slot : Nat) (f : Block → Block) : (s.updBlock c slot f).groupWait = s.groupWait := rfl
@[simp] theorem State.updBlock_quar (c slot : Nat) (f : Block → Block) : (s.updBlock c slot f).quar = s.quar := rfl
@[simp] theorem State.updBlock_badLines (c slot : Nat) (f : Block → Block) : (s.updBlock c slot f).badLines = s.badLines := rfl
@[simp] theorem State.updBlock_heldLines (c slot : Nat) (f : Block → Block) : (s.updBlock c slot f).heldLines = s.heldLines := rfl
@[simp] theorem State.updBlock_cur (c slot : Nat) (f : Block → Block) : (s.updBlock c slot f).cur = s.cur := rfl
@[simp] theorem State.updBlock_agenda (c slot : Nat) (f : Block → Block) : (s.updBlock c slot f).agenda = s.agenda := rfl
@[simp] theorem State.updBlock_tick (c slot : Nat) (f : Block → Block) : (s.updBlock c slot f).tick = s.tick := rfl

/-! ### updBlockBoth -/

@[simp] theorem State.updBlockBoth_mem (c slot : Nat) (f : Block → Block) : (s.updBlockBoth c slot f).mem = s.mem := rfl
@[simp] theorem State.updBlockBoth_ctxs (c slot : Nat) (f : Block → Block) : (s.updBlockBoth c slot f).ctxs = s.ctxs := rfl
@[simp] theorem State.updBlockBoth_launches (c slot : Nat) (f : Block → Block) : (s.updBlockBoth c slot f).launches = s.launches := rfl
@[simp] theorem State.updBlockBoth_flights (c slot : Nat) (f : Block → Block) : (s.updBlockBoth c slot f).flights = s.flights := rfl
@[simp] theorem State.updBlockBoth_plat (c slot : Nat) (f : Block → Block) : (s.updBlockBoth c slot f).plat = s.plat := rfl
@[simp] theorem State.updBlockBoth_clusterMask (c slot : Nat) (f : Block → Block) : (s.updBlockBoth c slot f).clusterMask = s.clusterMask := rfl
@[simp] theorem State.updBlockBoth_ports (c slot : Nat) (f : Block → Block) : (s.updBlockBoth c slot f).ports = s.ports := rfl
@[simp] theorem State.updBlockBoth_groups (c slot : Nat) (f : Block → Block) : (s.updBlockBoth c slot f).groups = s.groups := rfl
@[simp] theorem State.updBlockBoth_groupWait (c slot : Nat) (f : Block → Block) : (s.updBlockBoth c slot f).groupWait = s.groupWait := rfl
@[simp] theorem State.updBlockBoth_quar (c slot : Nat) (f : Block → Block) : (s.updBlockBoth c slot f).quar = s.quar := rfl
@[simp] theorem State.updBlockBoth_badLines (c slot : Nat) (f : Block → Block) : (s.updBlockBoth c slot f).badLines = s.badLines := rfl
@[simp] theorem State.updBlockBoth_heldLines (c slot : Nat) (f : Block → Block) : (s.updBlockBoth c slot f).heldLines = s.heldLines := rfl
@[simp] theorem State.updBlockBoth_cur (c slot : Nat) (f : Block → Block) : (s.updBlockBoth c slot f).cur = s.cur := rfl
@[simp] theorem State.updBlockBoth_agenda (c slot : Nat) (f : Block → Block) : (s.updBlockBoth c slot f).agenda = s.agenda := rfl
@[simp] theorem State.updBlockBoth_tick (c slot : Nat) (f : Block → Block) : (s.updBlockBoth c slot f).tick = s.tick := rfl

/-! ### mapTids -/

@[simp] theorem State.mapTids_mem (c slot : Nat) (ts : List Nat) (f : Thread → Thread) : (s.mapTids c slot ts f).mem = s.mem := rfl
@[simp] theorem State.mapTids_ctxs (c slot : Nat) (ts : List Nat) (f : Thread → Thread) : (s.mapTids c slot ts f).ctxs = s.ctxs := rfl
@[simp] theorem State.mapTids_launches (c slot : Nat) (ts : List Nat) (f : Thread → Thread) : (s.mapTids c slot ts f).launches = s.launches := rfl
@[simp] theorem State.mapTids_flights (c slot : Nat) (ts : List Nat) (f : Thread → Thread) : (s.mapTids c slot ts f).flights = s.flights := rfl
@[simp] theorem State.mapTids_plat (c slot : Nat) (ts : List Nat) (f : Thread → Thread) : (s.mapTids c slot ts f).plat = s.plat := rfl
@[simp] theorem State.mapTids_clusterMask (c slot : Nat) (ts : List Nat) (f : Thread → Thread) : (s.mapTids c slot ts f).clusterMask = s.clusterMask := rfl
@[simp] theorem State.mapTids_ports (c slot : Nat) (ts : List Nat) (f : Thread → Thread) : (s.mapTids c slot ts f).ports = s.ports := rfl
@[simp] theorem State.mapTids_groups (c slot : Nat) (ts : List Nat) (f : Thread → Thread) : (s.mapTids c slot ts f).groups = s.groups := rfl
@[simp] theorem State.mapTids_groupWait (c slot : Nat) (ts : List Nat) (f : Thread → Thread) : (s.mapTids c slot ts f).groupWait = s.groupWait := rfl
@[simp] theorem State.mapTids_quar (c slot : Nat) (ts : List Nat) (f : Thread → Thread) : (s.mapTids c slot ts f).quar = s.quar := rfl
@[simp] theorem State.mapTids_badLines (c slot : Nat) (ts : List Nat) (f : Thread → Thread) : (s.mapTids c slot ts f).badLines = s.badLines := rfl
@[simp] theorem State.mapTids_heldLines (c slot : Nat) (ts : List Nat) (f : Thread → Thread) : (s.mapTids c slot ts f).heldLines = s.heldLines := rfl
@[simp] theorem State.mapTids_cur (c slot : Nat) (ts : List Nat) (f : Thread → Thread) : (s.mapTids c slot ts f).cur = s.cur := rfl
@[simp] theorem State.mapTids_agenda (c slot : Nat) (ts : List Nat) (f : Thread → Thread) : (s.mapTids c slot ts f).agenda = s.agenda := rfl
@[simp] theorem State.mapTids_tick (c slot : Nat) (ts : List Nat) (f : Thread → Thread) : (s.mapTids c slot ts f).tick = s.tick := rfl

/-! ### updCtx -/

@[simp] theorem State.updCtx_mem (x : Nat) (f : Ctx → Ctx) : (s.updCtx x f).mem = s.mem := rfl
@[simp] theorem State.updCtx_launches (x : Nat) (f : Ctx → Ctx) : (s.updCtx x f).launches = s.launches := rfl
@[simp] theorem State.updCtx_flights (x : Nat) (f : Ctx → Ctx) : (s.updCtx x f).flights = s.flights := rfl
@[simp] theorem State.updCtx_plat (x : Nat) (f : Ctx → Ctx) : (s.updCtx x f).plat = s.plat := rfl
@[simp] theorem State.updCtx_clusterMask (x : Nat) (f : Ctx → Ctx) : (s.updCtx x f).clusterMask = s.clusterMask := rfl
@[simp] theorem State.updCtx_ports (x : Nat) (f : Ctx → Ctx) : (s.updCtx x f).ports = s.ports := rfl
@[simp] theorem State.updCtx_groups (x : Nat) (f : Ctx → Ctx) : (s.updCtx x f).groups = s.groups := rfl
@[simp] theorem State.updCtx_groupWait (x : Nat) (f : Ctx → Ctx) : (s.updCtx x f).groupWait = s.groupWait := rfl
@[simp] theorem State.updCtx_quar (x : Nat) (f : Ctx → Ctx) : (s.updCtx x f).quar = s.quar := rfl
@[simp] theorem State.updCtx_badLines (x : Nat) (f : Ctx → Ctx) : (s.updCtx x f).badLines = s.badLines := rfl
@[simp] theorem State.updCtx_heldLines (x : Nat) (f : Ctx → Ctx) : (s.updCtx x f).heldLines = s.heldLines := rfl
@[simp] theorem State.updCtx_cur (x : Nat) (f : Ctx → Ctx) : (s.updCtx x f).cur = s.cur := rfl
@[simp] theorem State.updCtx_agenda (x : Nat) (f : Ctx → Ctx) : (s.updCtx x f).agenda = s.agenda := rfl
@[simp] theorem State.updCtx_tick (x : Nat) (f : Ctx → Ctx) : (s.updCtx x f).tick = s.tick := rfl
@[simp] theorem State.updCtx_cores (x : Nat) (f : Ctx → Ctx) : (s.updCtx x f).cores = s.cores := rfl

/-! ### Reading a part after it was updated -/

@[simp] theorem State.core_setCore (c : Nat) (k : CoreSt) : (s.setCore c k).core c = k := Tab.get_set_same ..

theorem State.core_setCore_ne {c d : Nat} (k : CoreSt) (h : d ≠ c) : (s.setCore c k).core d = s.core d :=
  Tab.get_set_ne _ _ _ h

@[simp] theorem State.core_updCore (c : Nat) (f : CoreSt → CoreSt) : (s.updCore c f).core c = f (s.core c) :=
  Tab.get_set_same ..

theorem State.core_updCore_ne {c d : Nat} (f : CoreSt → CoreSt) (h : d ≠ c) : (s.updCore c f).core d = s.core d :=
  Tab.get_set_ne _ _ _ h

@[simp] theorem State.core_updArch (c : Nat) (f : CoreArch → CoreArch) :
    (s.updArch c f).core c = { s.core c with arch := f (s.core c).arch } := Tab.get_set_same ..

theorem State.core_updArch_ne {c d : Nat} (f : CoreArch → CoreArch) (h : d ≠ c) : (s.updArch c f).core d = s.core d :=
  Tab.get_set_ne _ _ _ h

@[simp] theorem State.core_updChunk (c : Nat) (f : Chunk → Chunk) :
    (s.updChunk c f).core c = { s.core c with chunk := f (s.core c).chunk } := Tab.get_set_same ..

theorem State.core_updChunk_ne {c d : Nat} (f : Chunk → Chunk) (h : d ≠ c) : (s.updChunk c f).core d = s.core d :=
  Tab.get_set_ne _ _ _ h

@[simp] theorem State.ctx_setCtx (x : Nat) (c : Ctx) : (s.setCtx x c).ctx x = c := Tab.get_set_same ..

theorem State.ctx_setCtx_ne {x y : Nat} (c : Ctx) (h : y ≠ x) : (s.setCtx x c).ctx y = s.ctx y := Tab.get_set_ne _ _ _ h

@[simp] theorem State.ctx_updCtx (x : Nat) (f : Ctx → Ctx) : (s.updCtx x f).ctx x = f (s.ctx x) := Tab.get_set_same ..

theorem State.ctx_updCtx_ne {x y : Nat} (f : Ctx → Ctx) (h : y ≠ x) : (s.updCtx x f).ctx y = s.ctx y :=
  Tab.get_set_ne _ _ _ h

@[simp] theorem State.port_updPort (p : Nat) (f : Port → Port) : (s.updPort p f).port p = f (s.port p) :=
  Tab.get_set_same ..

theorem State.port_updPort_ne {p q : Nat} (f : Port → Port) (h : q ≠ p) : (s.updPort p f).port q = s.port q :=
  Tab.get_set_ne _ _ _ h

/-! ### Blocks and threads -/

/-- The block of a slot after an update of that slot. -/
theorem State.block?_updBlock (c slot : Nat) (f : Block → Block) :
    (s.updBlock c slot f).block? c slot = (s.block? c slot).map f := by
  simp only [State.block?, State.updBlock, State.core_updArch, CoreArch.updBlock]
  cases h : (s.core c).arch.block? slot with
  | none => simpa using h
  | some b => simp [CoreArch.block?]

/-- The block of another slot, or of another core. -/
theorem State.block?_updBlock_ne {c slot c' slot' : Nat} (f : Block → Block) (h : c' ≠ c ∨ slot' ≠ slot) :
    (s.updBlock c slot f).block? c' slot' = s.block? c' slot' := by
  by_cases hc : c' = c
  · subst hc
    have hs : slot' ≠ slot := by simpa using h
    simp only [State.block?, State.updBlock, State.core_updArch, CoreArch.updBlock]
    cases hb : (s.core c').arch.block? slot with
    | none => rfl
    | some b => simp [CoreArch.block?, Tab.find?_put_ne _ _ hs]
  · simp [State.block?, State.updBlock, State.core_updArch_ne _ _ hc]

/-- A thread of a block after some threads have changed. -/
theorem Block.thread?_mapTids (b : Block) (ts : List Nat) (f : Thread → Thread) (t : Nat)
    (hf : ∀ th, (f th).ltid = th.ltid) :
    (b.mapTids ts f).thread? t = (b.thread? t).map (fun th => if ts.contains th.ltid then f th else th) := by
  unfold Block.thread? Block.mapTids
  simp only [List.find?_map]
  congr 1
  congr 1
  funext th
  by_cases h : th.ltid ∈ ts <;> simp [h, hf]

/-- A thread of a resident block after some threads have changed. -/
theorem State.block?_mapTids (c slot : Nat) (ts : List Nat) (f : Thread → Thread) :
    (s.mapTids c slot ts f).block? c slot = (s.block? c slot).map (fun b => b.mapTids ts f) :=
  State.block?_updBlock ..

end Sys2Proof.Machine
end

