-- ==== Sys2Proof/Laws/Issue.lean ====
section
/-! SUPPORT. What the issue of a word can do: one lemma per way it ends, and what finishing a word does to its group. -/

namespace Sys2Proof.Machine

variable {w : Word} {act : Thread → Bool} {s : State} {e : Site}

/-- A word that reaches its effect has it. -/
theorem issueWith_of_runs (body : Site → State → State) (h : RunsFor w act s e) : issueWith w act body s = body e s := by
  obtain ⟨hs, ha, hp, hh, hr⟩ := h
  have ha' : e.act.isEmpty = false := by simpa using ha
  simp [issueWith, hs, ha', hp, hh, hr]

/-- A full word that reaches its effect has it. -/
theorem issue_of_runs {i : Instr} (body : Site → State → State) (h : Runs i s e) : issue i body s = body e s :=
  issueWith_of_runs body h

/-- A word without a group changes nothing. -/
theorem issueWith_of_none (body : Site → State → State) (h : s.site? act = none) : issueWith w act body s = s := by
  simp [issueWith, h]

/-- A word without an active member passes (R26, R183). -/
theorem issueWith_of_inactive (body : Site → State → State) (h : s.site? act = some e) (ha : e.act = []) :
    issueWith w act body s = (s.acts e).pass e := by
  simp [issueWith, h, ha]

/-- A word with a fault before its effect takes it (R387). -/
theorem issueWith_of_fault (body : Site → State → State) {f : Flt} (h : s.site? act = some e) (ha : e.act ≠ [])
    (hf : preFault s e w = some f) : issueWith w act body s = s.faultLast e w f body := by
  have ha' : e.act.isEmpty = false := by simpa using ha
  simp [issueWith, h, ha', hf]

/-- Everything that the issue of a word can do. -/
theorem issueWith_cases (body : Site → State → State) :
    (s.site? act = none ∧ issueWith w act body s = s)
      ∨ ∃ e, s.site? act = some e
        ∧ ((e.act = [] ∧ issueWith w act body s = (s.acts e).pass e)
          ∨ (∃ f, preFault s e w = some f ∧ issueWith w act body s = s.faultLast e w f body)
          ∨ issueWith w act body s = s.waitLine e
          ∨ issueWith w act body s = s.hold
          ∨ (RunsFor w act s e ∧ issueWith w act body s = body e s)) := by
  cases hs : s.site? act with
  | none => exact Or.inl ⟨rfl, issueWith_of_none body hs⟩
  | some e =>
    refine Or.inr ⟨e, rfl, ?_⟩
    by_cases ha : e.act = []
    · exact Or.inl ⟨ha, issueWith_of_inactive body hs ha⟩
    · cases hf : preFault s e w with
      | some f => exact Or.inr (Or.inl ⟨f, rfl, issueWith_of_fault body hs ha hf⟩)
      | none =>
        have ha' : e.act.isEmpty = false := by simpa using ha
        by_cases hh : homeHeld s e w = true
        · exact Or.inr (Or.inr (Or.inl (by simp [issueWith, hs, ha', hf, hh])))
        · by_cases hr : replyPending s e w = true
          · exact Or.inr (Or.inr (Or.inr (Or.inl (by simp [issueWith, hs, ha', hf, hh, hr]))))
          · have h : RunsFor w act s e := ⟨hs, ha, hf, by simpa using hh, by simpa using hr⟩
            exact Or.inr (Or.inr (Or.inr (Or.inr ⟨h, issueWith_of_runs body h⟩)))

/-! ### Threads -/

@[simp] theorem Thread.next_ltid (th : Thread) : th.next.ltid = th.ltid := rfl
@[simp] theorem Thread.next_pc (th : Thread) : th.next.pc = th.pc + 8 := rfl
@[simp] theorem Thread.next_v (th : Thread) : th.next.v = th.v := rfl
@[simp] theorem Thread.next_p (th : Thread) : th.next.p = th.p := rfl
@[simp] theorem Thread.flag_ltid (th : Thread) (fl : BitVec 5) : (th.flag fl).ltid = th.ltid := rfl
@[simp] theorem Thread.flag_pc (th : Thread) (fl : BitVec 5) : (th.flag fl).pc = th.pc := rfl
@[simp] theorem Thread.setLane_ltid (th : Thread) (i : Nat) (w : Word) : (th.setLane i w).ltid = th.ltid := rfl
@[simp] theorem Thread.setLane_pc (th : Thread) (i : Nat) (w : Word) : (th.setLane i w).pc = th.pc := rfl

@[simp] theorem Thread.setPred_ltid (th : Thread) (i : Nat) (b : Bool) : (th.setPred i b).ltid = th.ltid := by
  unfold Thread.setPred; split <;> rfl
@[simp] theorem Thread.setPred_pc (th : Thread) (i : Nat) (b : Bool) : (th.setPred i b).pc = th.pc := by
  unfold Thread.setPred; split <;> rfl
@[simp] theorem Thread.setPred_v (th : Thread) (i : Nat) (b : Bool) : (th.setPred i b).v = th.v := by
  unfold Thread.setPred; split <;> rfl
@[simp] theorem Thread.cleared_ltid (th : Thread) (d : Operand) : (th.cleared d).ltid = th.ltid := by
  unfold Thread.cleared; split <;> rfl
@[simp] theorem Thread.cleared_pc (th : Thread) (d : Operand) : (th.cleared d).pc = th.pc := by
  unfold Thread.cleared; split <;> rfl
@[simp] theorem Thread.cleared_v (th : Thread) (d : Operand) : (th.cleared d).v = th.v := by
  unfold Thread.cleared; split <;> rfl
@[simp] theorem Thread.cleared_p (th : Thread) (d : Operand) : (th.cleared d).p = th.p := by
  unfold Thread.cleared; split <;> rfl

@[simp] theorem Thread.setD_ltid (th : Thread) (d : Operand) (w : Word) : (th.setD d w).ltid = th.ltid := by
  cases d <;> simp only [Thread.setD, Thread.setLane_ltid, Thread.setPred_ltid]
  split
  · rfl
  · split <;> rfl

@[simp] theorem Thread.setD_pc (th : Thread) (d : Operand) (w : Word) : (th.setD d w).pc = th.pc := by
  cases d <;> simp only [Thread.setD, Thread.setLane_pc, Thread.setPred_pc]
  split
  · rfl
  · split <;> rfl

/-- A lane register that was written reads as written. -/
@[simp] theorem Thread.lane_setLane (th : Thread) (i : Nat) (w : Word) : (th.setLane i w).lane i = w := Tab.get_set_same ..

/-- Another lane register reads as before. -/
theorem Thread.lane_setLane_ne (th : Thread) {i j : Nat} (w : Word) (h : j ≠ i) : (th.setLane i w).lane j = th.lane j :=
  Tab.get_set_ne _ _ _ h

/-- p0 reads true whatever is written to it (R49). -/
@[simp] theorem Thread.pred_zero (th : Thread) : th.pred 0 = true := rfl

/-! ### Finishing a word -/

/-- A thread of a block after some threads of the block have changed. -/
theorem State.thread?_mapTids (s : State) (c slot : Nat) (ts : List Nat) (f : Thread → Thread) (l : Nat)
    (hf : ∀ th, (f th).ltid = th.ltid) :
    (s.mapTids c slot ts f).thread? c slot l
      = (s.thread? c slot l).map (fun th => if ts.contains th.ltid then f th else th) := by
  unfold State.thread?
  rw [State.block?_mapTids]
  cases s.block? c slot with
  | none => rfl
  | some b => exact Block.thread?_mapTids _ _ _ _ hf

/-- Finishing a word changes the group as it says. -/
theorem State.finish_goes (s : State) (e : Site) (f : Thread → Thread) (hf : ∀ th, (f th).ltid = th.ltid) :
    GroupGoes s (s.finish e f) e f := by
  intro l
  exact State.thread?_mapTids _ _ _ _ _ _ (fun th => by by_cases h : e.active th = true <;> simp [h, hf])

/-- A change of a block leaves its core's chunk alone. -/
theorem State.chunk_updBlock (s : State) (c slot : Nat) (f : Block → Block) (d : Nat) :
    ((s.updBlock c slot f).core d).chunk = (s.core d).chunk := by
  by_cases hd : d = c
  · subst hd; rw [State.updBlock, State.core_updArch]
  · rw [State.updBlock, State.core_updArch_ne _ _ hd]

/-- A change of a block changes nothing outside it. -/
theorem OnlyBlock.updBlock (s : State) (e : Site) (f : Block → Block) :
    OnlyBlock s (s.updBlock e.cur.core e.cur.slot f) e := by
  refine ⟨fun a => rfl, fun c sl h => State.block?_updBlock_ne _ _ h, fun c => ?_,
    fun c => by rw [State.chunk_updBlock], fun c _ => by rw [State.chunk_updBlock], rfl, rfl, rfl, rfl, rfl, rfl⟩
  by_cases hc : c = e.cur.core
  · subst hc
    simp only [State.updBlock, State.core_updArch, CoreArch.updBlock]
    cases (s.core e.cur.core).arch.block? e.cur.slot <;> rfl
  · rw [State.updBlock, State.core_updArch_ne _ _ hc]

/-- Finishing a word changes nothing but the threads of the site's block. -/
theorem State.finish_only (s : State) (e : Site) (f : Thread → Thread) : OnlyGroup s (s.finish e f) e := by
  refine ⟨OnlyBlock.updBlock _ _ _, ?_, ?_⟩
  · rw [BlockGoes, State.finish, State.mapTids, State.block?_updBlock, Option.map_map]; rfl
  · rw [Holds, State.finish, State.mapTids, State.chunk_updBlock, List.append_nil]

theorem OnlyBlock.trans {s t u : State} {e : Site} (h : OnlyBlock s t e) (g : OnlyBlock t u e) : OnlyBlock s u e := by
  obtain ⟨h1, h2, h3, h4, h5, h6, h7, h8, h9, h10, h11⟩ := h
  obtain ⟨g1, g2, g3, g4, g5, g6, g7, g8, g9, g10, g11⟩ := g
  exact ⟨fun a => (g1 a).trans (h1 a), fun c sl hc => (g2 c sl hc).trans (h2 c sl hc), fun c => (g3 c).trans (h3 c),
    fun c => (g4 c).trans (h4 c), fun c hc => (g5 c hc).trans (h5 c hc), g6.trans h6, g7.trans h7, g8.trans h8, g9.trans h9,
    g10.trans h10, g11.trans h11⟩

theorem OnlyGroup.trans {s t u : State} {e : Site} (h : OnlyGroup s t e) (g : OnlyGroup t u e) : OnlyGroup s u e := by
  obtain ⟨h1, h2, h3⟩ := h
  obtain ⟨g1, g2, g3⟩ := g
  refine ⟨h1.trans g1, ?_, ?_⟩
  · simp only [BlockGoes, id_eq] at *; rw [g2, ← h2]
  · simp only [Holds, List.append_nil] at *; rw [g3, h3]

theorem OnlyBlock.refl (s : State) (e : Site) : OnlyBlock s s e :=
  ⟨fun _ => rfl, fun _ _ _ => rfl, fun _ => rfl, fun _ => rfl, fun _ _ => rfl, rfl, rfl, rfl, rfl, rfl, rfl⟩

theorem OnlyGroup.refl (s : State) (e : Site) : OnlyGroup s s e :=
  ⟨OnlyBlock.refl s e, rfl, (List.append_nil _).symm⟩

end Sys2Proof.Machine
end

