-- ==== Sys2Proof/Laws/Memory.lean ====
section
/-! SUPPORT. Laws of memory: what a read gives after a write, and that every memory operation keeps the canonical form. -/

namespace Sys2Proof.Machine

/-! ### Reading after writing -/

/-- A byte outside a write reads as before. -/
theorem Memory.byte_write_out (m : Memory) (k : Nat) (bs : List Byte) (a : Nat) (h : a < k ∨ k + bs.length ≤ a) :
    Memory.byte (Memory.write m k bs) a = Memory.byte m a := by
  induction bs generalizing m k with
  | nil => rfl
  | cons b bs ih =>
    simp only [List.length_cons] at h
    rw [Memory.write, ih _ _ (by omega)]
    exact Tab.get_set_ne _ _ _ (by omega)

/-- A byte of a write reads as written. -/
theorem Memory.byte_write_in (m : Memory) (k : Nat) (bs : List Byte) (i : Nat) (h : i < bs.length) :
    Memory.byte (Memory.write m k bs) (k + i) = bs[i] := by
  induction bs generalizing m k i with
  | nil => simp at h
  | cons b bs ih =>
    cases i with
    | zero =>
      rw [Memory.write, Memory.byte_write_out _ _ _ _ (by omega)]
      simp [Memory.byte]
    | succ i =>
      have hi : i < bs.length := by simpa using h
      rw [Memory.write, show k + (i + 1) = (k + 1) + i by omega, ih _ _ _ hi]
      simp

/-- A read after a write to the same place gives what was written. -/
theorem Memory.read_write (m : Memory) (k : Nat) (bs : List Byte) :
    Memory.read (Memory.write m k bs) k bs.length = bs := by
  apply List.ext_getElem (by simp [Memory.read])
  intro i h1 h2
  simp [Memory.read, Memory.byte_write_in _ _ _ _ h2]

/-- A read that meets no byte of a write is as before. -/
theorem Memory.read_write_out (m : Memory) (k : Nat) (bs : List Byte) (a n : Nat) (h : a + n ≤ k ∨ k + bs.length ≤ a) :
    Memory.read (Memory.write m k bs) a n = Memory.read m a n := by
  refine List.map_congr_left fun i hi => Memory.byte_write_out _ _ _ _ ?_
  have := List.mem_range.1 hi
  omega

/-! ### Little-endian numbers (R6) -/

@[simp] theorem natLe_length (n v : Nat) : (natLe n v).length = n := by
  induction n generalizing v with
  | zero => rfl
  | succ n ih => simp [natLe, ih]

theorem leNat_natLe (n v : Nat) : leNat (natLe n v) = v % 256 ^ n := by
  induction n generalizing v with
  | zero => simp [natLe, leNat, Nat.mod_one]
  | succ n ih =>
    have h : leNat (natLe (n + 1) v) = v % 256 + 256 * leNat (natLe n (v / 256)) := by
      simp [natLe, leNat]
    rw [h, ih, pow_succ, mul_comm (256 ^ n) 256, Nat.mod_mul]

theorem leWord_natLe (w : Word) : leWord (natLe 8 w.toNat) = w := by
  unfold leWord
  rw [leNat_natLe]
  apply BitVec.eq_of_toNat_eq
  have := w.isLt
  simp only [BitVec.toNat_ofNat]
  omega

/-- A word read after it was written at the same place. -/
theorem Memory.word_write (m : Memory) (k : Nat) (w : Word) : Memory.word (Memory.write m k (natLe 8 w.toNat)) k = w := by
  have h := Memory.read_write m k (natLe 8 w.toNat)
  rw [natLe_length] at h
  rw [Memory.word, h, leWord_natLe]

/-! ### The canonical form -/

/-- A write keeps the canonical form. -/
theorem Memory.wf_write (m : Memory) (k : Nat) (bs : List Byte) (h : Memory.wf m = true) :
    Memory.wf (Memory.write m k bs) = true := by
  induction bs generalizing m k with
  | nil => exact h
  | cons b bs ih => exact ih _ _ (Tab.wf_set _ _ _ _ h)

/-- An overlay applied keeps the canonical form. -/
theorem Memory.wf_apply (m : Memory) (o : Overlay) (h : Memory.wf m = true) : Memory.wf (Memory.apply m o) = true := by
  induction o generalizing m with
  | nil => exact h
  | cons e o ih => exact ih _ (Tab.wf_set _ _ _ _ h)

/-- Bytes removed keep the canonical form. -/
theorem Memory.wf_filter (m : Memory) (p : Host.Cell → Bool) (h : Memory.wf m = true) :
    Memory.wf (List.filter p m) = true :=
  Tab.wf_filter _ _ _ h

/-- A byte that no entry of an overlay names is as before. -/
theorem Memory.byte_apply_out (m : Memory) (o : Overlay) (a : Nat) (h : ∀ e ∈ o, e.1 ≠ a) :
    Memory.byte (Memory.apply m o) a = Memory.byte m a := by
  induction o generalizing m with
  | nil => rfl
  | cons e o ih =>
    rw [Memory.apply, List.foldl_cons]
    exact (ih _ (fun x hx => h x (List.mem_cons_of_mem _ hx))).trans
      (Tab.get_set_ne _ _ _ (Ne.symm (h e (List.mem_cons_self ..))))

/-! ### Overlays -/

/-- A byte written into an overlay is seen through it. -/
theorem overByte_put (o : Overlay) (m : Memory) (k : Nat) (b : Byte) : overByte (Tab.put o k b) m k = b := by
  simp [overByte]

theorem overByte_put_ne (o : Overlay) (m : Memory) {k a : Nat} (b : Byte) (h : a ≠ k) :
    overByte (Tab.put o k b) m a = overByte o m a := by
  simp [overByte, Tab.find?_put_ne _ _ h]

theorem overByte_overWrite_out (o : Overlay) (m : Memory) (k : Nat) (bs : List Byte) (a : Nat)
    (h : a < k ∨ k + bs.length ≤ a) : overByte (overWrite o k bs) m a = overByte o m a := by
  induction bs generalizing o k with
  | nil => rfl
  | cons b bs ih =>
    simp only [List.length_cons] at h
    rw [overWrite, ih _ _ (by omega), overByte_put_ne _ _ _ (by omega)]

theorem overByte_overWrite_in (o : Overlay) (m : Memory) (k : Nat) (bs : List Byte) (i : Nat) (h : i < bs.length) :
    overByte (overWrite o k bs) m (k + i) = bs[i] := by
  induction bs generalizing o k i with
  | nil => simp at h
  | cons b bs ih =>
    cases i with
    | zero => rw [overWrite, overByte_overWrite_out _ _ _ _ _ (by omega)]; simp [overByte]
    | succ i =>
      have hi : i < bs.length := by simpa using h
      rw [overWrite, show k + (i + 1) = (k + 1) + i by omega, ih _ _ _ hi]
      simp

/-- Bytes read through an overlay after they were written into it. -/
theorem overRead_overWrite (o : Overlay) (m : Memory) (k : Nat) (bs : List Byte) :
    overRead (overWrite o k bs) m k bs.length = bs := by
  apply List.ext_getElem (by simp [overRead])
  intro i h1 h2
  simp [overRead, overByte_overWrite_in _ _ _ _ _ h2]

end Sys2Proof.Machine
end

