-- ==== Sys2Proof/Laws/Link.lean ====
section
/-! SUPPORT. A flit that the model sends is whole, and how a receiver takes a whole flit (R395, R398). -/

namespace Sys2Proof.Machine

theorem padTo_length (n : Nat) (bs : List Byte) : (padTo n bs).length = n := by
  simp only [padTo, List.length_take, List.length_append, natLe_length]
  omega

/-- A list cut where its first part ends. -/
theorem take_drop_append (a b : List Byte) (n : Nat) (h : a.length = n) : (a ++ b).take n = a ∧ (a ++ b).drop n = b := by
  subst h
  simp

/-- Every flit that a port forms has 80 bytes and a correct CRC. -/
theorem flitWhole_flitOf (p : Packet) (seq ack : BitVec 16) : flitWhole (flitOf p seq ack) = true := by
  unfold flitOf
  extract_lets body
  have hb : body.length = 76 := by simp [body, padTo_length]
  obtain ⟨ht, hd⟩ := take_drop_append body (natLe 4 (crc32 body).toNat) 76 hb
  have hl : (natLe 4 (crc32 body).toNat).length = 4 := natLe_length _ _
  have hn : flitNat (body ++ natLe 4 (crc32 body).toNat) 76 4 = (crc32 body).toNat := by
    rw [flitNat, hd, List.take_of_length_le (Nat.le_of_eq hl), leNat_natLe]
    exact Nat.mod_eq_of_lt (crc32 body).isLt
  simp only [flitWhole, ht, hn, List.length_append, hb, hl, beq_self_eq_true, Bool.and_self]

/-- A whole flit is judged by the port's state, the flit's type and its number. -/
theorem Port.rx_whole (p : Port) (ty : Nat) (f : Flit) (h : flitWhole f = true) :
    p.rx ty f = if !p.en || p.state = 0 then .ignored
      else if flitNat f 0x44 1 ≠ ty || 6 < ty then .discard (!p.dark)
      else if p.dark && ty ≠ 5 then .discard false
      else if (ty = 1 || ty = 2 || ty = 6) && flitSeq f ≠ p.expect then .discard true
      else .take := by
  simp [Port.rx, h]

end Sys2Proof.Machine
end

