-- ==== Sys2Proof/Laws/Quiet.lean ====
section
/-! SUPPORT. Steps that change chunks, counters and ownership only: the opening of a chunk, the tracking of reads, and the notes of
a word's sources while its launch is not checked for races. -/

namespace Sys2Proof.Machine

/-- From `s` to `t` memory, the blocks and fault registers of every core, the contexts, the launches, and what is in flight
or on its way out stay as they are. -/
structure Quiet (s t : State) : Prop where
  mem : t.mem = s.mem
  arch : ∀ c, (t.core c).arch = (s.core c).arch
  ovl : ∀ c, (t.core c).chunk.ovl = (s.core c).chunk.ovl
  held : ∀ c, (t.core c).chunk.held = (s.core c).chunk.held
  ctxs : t.ctxs = s.ctxs
  launches : t.launches = s.launches
  flights : t.flights = s.flights
  ports : t.ports = s.ports
  groups : t.groups = s.groups
  msix : t.msix = s.msix
  cur : t.cur = s.cur

theorem Quiet.refl (s : State) : Quiet s s := ⟨rfl, fun _ => rfl, fun _ => rfl, fun _ => rfl, rfl, rfl, rfl, rfl, rfl, rfl, rfl⟩

theorem Quiet.trans {s t u : State} (h : Quiet s t) (g : Quiet t u) : Quiet s u :=
  ⟨g.mem.trans h.mem, fun c => (g.arch c).trans (h.arch c), fun c => (g.ovl c).trans (h.ovl c), fun c => (g.held c).trans (h.held c), g.ctxs.trans h.ctxs, g.launches.trans h.launches,
    g.flights.trans h.flights, g.ports.trans h.ports, g.groups.trans h.groups, g.msix.trans h.msix, g.cur.trans h.cur⟩

/-- A fold of quiet steps is quiet. -/
theorem Quiet.foldl {α : Type} (f : State → α → State) (hf : ∀ s a, Quiet s (f s a)) (l : List α) (s : State) :
    Quiet s (l.foldl f s) := by
  induction l generalizing s with
  | nil => exact Quiet.refl s
  | cons a l ih => exact (hf s a).trans (ih (f s a))

/-- A change of a core that keeps its blocks and fault registers, and what its chunk has written and holds, is quiet. -/
theorem Quiet.setCore (s : State) (c : Nat) (k : CoreSt) (h : k.arch = (s.core c).arch)
    (ho : k.chunk.ovl = (s.core c).chunk.ovl) (hh : k.chunk.held = (s.core c).chunk.held) : Quiet s (s.setCore c k) := by
  refine ⟨rfl, fun d => ?_, fun d => ?_, fun d => ?_, rfl, rfl, rfl, rfl, rfl, rfl, rfl⟩
  all_goals
    by_cases hd : d = c
    · subst hd; simp [h, ho, hh]
    · rw [State.core_setCore_ne _ _ hd]

theorem Quiet.updChunk (s : State) (c : Nat) (f : Chunk → Chunk) (ho : ∀ h, (f h).ovl = h.ovl) (hh : ∀ h, (f h).held = h.held) :
    Quiet s (s.updChunk c f) := Quiet.setCore _ _ _ rfl (ho _) (hh _)

theorem Quiet.plat (s : State) (p : Tab Plat) : Quiet s { s with plat := p } :=
  ⟨rfl, fun _ => rfl, fun _ => rfl, fun _ => rfl, rfl, rfl, rfl, rfl, rfl, rfl, rfl⟩

theorem Quiet.count (s : State) (c code n : Nat) : Quiet s (s.count c code n) := by
  unfold State.count
  dsimp only
  split
  · exact Quiet.setCore _ _ _ rfl rfl rfl
  · exact Quiet.refl s

theorem Quiet.dirty (s : State) (c : Nat) : Quiet s (s.dirty c) := by
  unfold State.dirty
  dsimp only
  split
  · exact Quiet.setCore _ _ _ rfl rfl rfl
  · exact Quiet.refl s

theorem Quiet.acts (s : State) (e : Site) : Quiet s (s.acts e) := by
  unfold State.acts
  split
  · exact Quiet.refl s
  · exact Quiet.dirty _ _

theorem Quiet.shareOwner (s : State) (l b n : Nat) : Quiet s (s.shareOwner l b n) := by
  refine Quiet.foldl _ (fun t c => ?_) _ _
  dsimp only
  split
  · exact Quiet.updChunk _ _ _ (fun _ => rfl) (fun _ => rfl)
  · exact Quiet.refl t

theorem Quiet.touch (s : State) (l b n : Nat) : Quiet s (s.touch l b n) := by
  unfold State.touch
  split
  · exact Quiet.plat _ _
  · split
    · exact Quiet.refl s
    · exact (Quiet.plat _ _).trans (Quiet.shareOwner _ _ _ _)
  · split
    · exact Quiet.refl s
    · exact Quiet.plat _ _

theorem Quiet.touchOn (s : State) (c l b n : Nat) : Quiet s (s.touchOn c l b n) := by
  have h := Quiet.touch s l b n
  unfold State.touchOn
  dsimp only
  split
  · split
    · exact h
    · exact h.trans (Quiet.count _ _ _ _)
  · exact h

theorem Quiet.trackRead (s : State) (c slot k n : Nat) : Quiet s (s.trackRead c slot k n) := by
  unfold State.trackRead
  split
  · exact Quiet.refl s
  · next b _ =>
    refine Quiet.foldl _ (fun t l => ?_) _ _
    refine (Quiet.touchOn t c b.launch b.lin l).trans ?_
    dsimp only
    repeat' split
    all_goals first | exact Quiet.refl _ | exact Quiet.updChunk _ _ _ (fun _ => rfl) (fun _ => rfl)

/-- Blocks, and what is computed from them, are the same after a quiet step. -/
theorem Quiet.block? {s t : State} (h : Quiet s t) (c slot : Nat) : t.block? c slot = s.block? c slot := by
  simp only [State.block?, h.arch]

theorem Quiet.thread? {s t : State} (h : Quiet s t) (c slot l : Nat) : t.thread? c slot l = s.thread? c slot l := by
  simp only [State.thread?, h.block?]

theorem Quiet.launchOf {s t : State} (h : Quiet s t) (b : Block) : t.launchOf b = s.launchOf b := by
  simp only [State.launchOf, State.launch?, h.launches]

/-- The order-stamp unit does nothing for a launch that is not checked (R162). -/
theorem State.stamp_off (s : State) (cur : Cur) (l key n : Nat) (w y r : Bool) (va : Word) (b : Block)
    (hb : s.block? cur.core cur.slot = some b) (h : (s.launchOf b).race = false) : s.stamp cur l key n w y r va = s := by
  unfold State.stamp
  simp only [hb]
  split
  · rfl
  · simp [h]

/-- The block that a site names. -/
def Site.names (e : Site) (s : State) : Prop := s.block? e.cur.core e.cur.slot = some e.b

theorem State.site?_names {s : State} {act : Thread → Bool} {e : Site} (h : s.site? act = some e) : e.names s := by
  unfold State.site? at h
  split at h
  · cases h
  · split at h
    · cases h
    · next b hb =>
      dsimp only at h
      split at h
      · cases h
      · cases h; exact hb

theorem Quiet.noteScoped (s : State) (e : Site) (th : Thread) (k i : Nat) (w t : Bool) (hb : e.names s)
    (hr : (s.launchOf e.b).race = false) : Quiet s (s.noteScoped e th k i w t) := by
  unfold State.noteScoped
  split
  · split
    · rw [State.stamp_off _ _ _ _ _ _ _ _ _ _ hb hr]; exact Quiet.refl s
    · exact Quiet.refl s
  · split
    · next key _ =>
      have q : Quiet s (if w || !t then s else s.trackRead e.cur.core e.cur.slot key 8) := by
        split
        · exact Quiet.refl s
        · exact Quiet.trackRead _ _ _ _ _
      rw [State.stamp_off _ _ _ _ _ _ _ _ _ e.b ((q.block? _ _).trans hb) (by rw [q.launchOf]; exact hr)]
      exact q
    · exact Quiet.refl s

/-- A fold of steps that are quiet while the site's launch is not checked for races. -/
theorem Quiet.foldl_at {α : Type} (e : Site) (f : State → α → State)
    (hf : ∀ s a, e.names s → (s.launchOf e.b).race = false → Quiet s (f s a)) (l : List α) (s : State) (hb : e.names s)
    (hr : (s.launchOf e.b).race = false) : Quiet s (l.foldl f s) := by
  induction l generalizing s with
  | nil => exact Quiet.refl s
  | cons a l ih =>
    have q := hf s a hb hr
    exact q.trans (ih (f s a) ((q.block? _ _).trans hb) (by rw [q.launchOf]; exact hr))

theorem Quiet.noteSrcs (s : State) (e : Site) (os : List Operand) (t : Bool) (hb : e.names s)
    (hr : (s.launchOf e.b).race = false) : Quiet s (s.noteSrcs e os t) := by
  refine Quiet.foldl_at e _ (fun s o hb hr => ?_) os s hb hr
  split
  · exact Quiet.foldl_at e _ (fun s th hb hr => Quiet.noteScoped s e th _ _ _ _ hb hr) _ s hb hr
  · exact Quiet.refl s

/-- Noting a word's sources is quiet while its launch is not checked for races (R162). -/
theorem Quiet.noted (s : State) (i : Instr) (e : Site) (hb : e.names s) (hr : (s.launchOf e.b).race = false) :
    Quiet s (s.noted i e) := by
  have q := Quiet.acts s e
  exact q.trans (Quiet.noteSrcs _ _ _ _ ((q.block? _ _).trans hb) (by rw [q.launchOf]; exact hr))

theorem Quiet.only {s t : State} (h : Quiet s t) (e : Site) : OnlyGroup s t e :=
  ⟨⟨fun a => by rw [h.mem], fun c sl _ => h.block? c sl, fun c => by rw [h.arch], h.ovl, fun c _ => h.held c, h.launches, h.ctxs,
    h.flights, h.ports, h.groups, h.msix⟩, by simp only [BlockGoes, id_eq, h.block?], by rw [Holds, h.held, List.append_nil]⟩

/-- A word that changes its group after its sources have been noted changes nothing else (R26). -/
theorem State.finish_noted_only (s : State) (i : Instr) (e : Site) (f : Thread → Thread) (hb : e.names s)
    (hr : (s.launchOf e.b).race = false) : OnlyGroup s ((s.noted i e).finish e f) e :=
  ((Quiet.noted s i e hb hr).only e).trans (State.finish_only _ e f)

/-- A word whose active members each change by `F` in the open chunk, when it reaches its effect (R26). -/
theorem issue_simple {i : Instr} {s : State} {e : Site} (F : State → Site → Thread → Thread) (h : Runs i s e) :
    issue i (simple i F) s = (s.noted i e).finish e (fun th => (F (s.noted i e) e th).next) := by
  rw [issue_of_runs _ h]; rfl

/-- The group of such a word, and the rest of the state. -/
theorem issue_simple_goes {i : Instr} {s : State} {e : Site} (F : State → Site → Thread → Thread) (h : Runs i s e)
    (hF : ∀ s e th, (F s e th).ltid = th.ltid) :
    GroupGoes (s.noted i e) (issue i (simple i F) s) e (fun th => (F (s.noted i e) e th).next)
      ∧ ((s.launchOf e.b).race = false → OnlyGroup s (issue i (simple i F) s) e) := by
  rw [issue_simple F h]
  exact ⟨State.finish_goes _ _ _ (fun th => by simp [hF]),
    fun hr => State.finish_noted_only s i e _ (State.site?_names h.1) hr⟩

end Sys2Proof.Machine
end

