-- ==== Sys2Proof/Tests/Slice0.lean ====
section
/-! SUPPORT. Tests: ill-formed terms that the checks refuse, words written out from the encodings of the manual, states that meet the
hypotheses of each statement, and single words with results worked out by hand from the rules. -/

namespace Sys2Proof.Tests

open Sys2Proof Sys2Proof.Machine

/-! ### Small states -/

/-- One thread of a FREE launch, alone in a block bound to CORE, at a word at 0x10000. -/
def one : State := { State.reset.load [] with agenda := [], cur := some ⟨0, 0, 0, 0x10000, [0]⟩ }

/-- Changes the threads of the block. -/
def State.threads (s : State) (f : Thread → Thread) : State :=
  s.updBlock 0 0 (fun b => { b with threads := b.threads.map f })

/-- Sets lane registers of every thread of the block. -/
def State.lanes (s : State) (vs : List (Nat × Word)) : State :=
  State.threads s (fun th => vs.foldl (fun th v => th.setLane v.1 v.2) th)

/-- Changes the launch. -/
def State.launch (s : State) (f : Launch → Launch) : State := s.updLaunch 0 f

/-- A second thread beside the first, in the same row, with its own value of a lane register. -/
def State.pair (s : State) (i : Nat) (x : Word) : State :=
  let s := s.updBlock 0 0 (fun b => { b with threads := b.threads ++ b.threads.map (fun th =>
    { th.setLane i x with ltid := 1, off := 1, rank := 1 }) })
  { State.launch s (fun l => { l with tree := ⟨2, 16, 0, 0, [⟨.core, 2, 32, 8, 0⟩]⟩ }) with
    cur := some ⟨0, 0, 0, 0x10000, [0, 1]⟩ }

/-- The site at which a word issues. -/
def siteOf (act : Thread → Bool) (s : State) : Site :=
  (s.site? act).getD ⟨⟨0, 0, 0, 0, []⟩, loadedBlock 0, (loadedLaunch 0).tree, [], []⟩

/-- The site at which a full word issues. -/
def siteAt (i : Instr) (s : State) : Site := siteOf (fullActive (wordOf i)) s

/-- A word with members, of which one is active, that passes the checks before its effect. -/
def runsAt (i : Instr) (s : State) : Bool :=
  let e := siteAt i s
  decide (s.site? (fullActive (wordOf i)) = some e) && !e.act.isEmpty && decide (preFault s e (wordOf i) = none)
    && !homeHeld s e (wordOf i) && !replyPending s e (wordOf i)

theorem runs_of_runsAt {i : Instr} {s : State} (h : runsAt i s = true) : Runs i s (siteAt i s) := by
  simp only [runsAt, Bool.and_eq_true, Bool.not_eq_true', decide_eq_true_eq] at h
  obtain ⟨⟨⟨⟨h1, h2⟩, h3⟩, h4⟩, h5⟩ := h
  exact ⟨h1, by intro h; simp [h] at h2, h3, h4, h5⟩

/-- The accesses of a group, when it passes its checks. -/
def passRs (s : State) (e : Site) (req : Thread → List Req) : List Acc :=
  match checkGroup s e req with
  | .ok rs => rs
  | _ => []

/-- The group passes its checks, and no walk met an entry that has changed since. -/
def passes (s : State) (e : Site) (req : Thread → List Req) : Bool :=
  match checkGroup s e req with
  | .ok rs => !walksStale (s.noteWalks e req true) rs
  | _ => false

theorem passes_of {s : State} {e : Site} {req : Thread → List Req} (h : passes s e req = true) : Passes s e req (passRs s e req) := by
  unfold passes at h
  unfold Passes passRs
  split at h <;> simp_all

/-- The state that an answer gives. -/
def next (a : Host.Outcome State Fault Refusal) : State :=
  match a with
  | .next t => t
  | _ => State.reset


/-! ### Ill-formed terms, one for each check -/

/-- A guard past p95. -/
def badG : Guard := ⟨96, false⟩
/-- A reserved specifier. -/
def rsv : Operand := .special 50
/-- The two operands that most terms below share. -/
def d9 : Operand := .lane 9
def a10 : Operand := .lane 10
def wInt (w : IntW) (sg sat : Bool) (d a b : Operand) : Int3 := ⟨.always, ⟨w, sg, sat⟩, d, a, b⟩

/-- What stands beside each refused term: the same terms with the fields in range are well formed. -/
theorem smoke_wf_accepts : Instr.wf (.add (wInt .w8x8 true true d9 a10 d9)) = true
    ∧ Instr.wf (.add (wInt .w8x8 true true Operand.none_ (.const 63) (.scoped 15 31))) = true
    ∧ Instr.wf (.add (wInt .w8x8 true true (.pred 95) (.special 44) (.pred 0))) = true
    ∧ Instr.wf (.pairAdd ⟨false, 0, 8, 9, 0⟩ ⟨.nop, ⟨false, 0, 0, 0, 0⟩⟩) = true := by decide
theorem smoke_guard : Instr.wf (.add ⟨badG, ⟨.w64, false, false⟩, d9, a10, a10⟩) = false ∧ Instr.wf (.exit badG) = false
    ∧ Instr.wf (.chunkend badG) = false ∧ Instr.wf (.eret badG) = false ∧ Instr.wf (.fence ⟨badG, 3, true, true⟩) = false := by decide
theorem smoke_operand : Instr.wf (.add (wInt .w64 false false d9 rsv a10)) = false
    ∧ Instr.wf (.add (wInt .w64 false false d9 (.special 45) a10)) = false
    ∧ Instr.wf (.add (wInt .w64 false false d9 (.pred 96) a10)) = false
    ∧ Instr.wf (.add (wInt .w64 false false d9 a10 (.scoped 0 3))) = false := by decide
theorem smoke_destination : Instr.wf (.add (wInt .w64 false false (.const 1) a10 a10)) = false
    ∧ Instr.wf (.add (wInt .w64 false false (.special 37) a10 a10)) = false
    ∧ Instr.wf (.add (wInt .w64 false false (.scoped 3 0) a10 a10)) = false := by decide
theorem smoke_integer : Instr.wf (.addc ⟨.always, ⟨.w8x8, false, false⟩, d9, a10, a10, .pred 1⟩ true) = false
    ∧ Instr.wf (.addc ⟨.always, ⟨.w64, false, false⟩, d9, a10, a10, a10⟩ true) = false
    ∧ Instr.wf (.mulh (wInt .w64 false true d9 a10 a10)) = false
    ∧ Instr.wf (.madw ⟨.always, ⟨.w64, false, false⟩, d9, a10, a10, a10⟩) = false
    ∧ Instr.wf (.abs ⟨.always, ⟨.w64, true, false⟩, .const 3, a10⟩) = false
    ∧ Instr.wf (.popc ⟨.always, ⟨.w64, false, true⟩, d9, a10⟩) = false
    ∧ Instr.wf (.bfx (wInt .w16x4 false false d9 a10 a10)) = false
    ∧ Instr.wf (.lea ⟨.always, .w8x8, false, 0, d9, a10, a10, a10⟩) = false := by decide
theorem smoke_immediate : Instr.wf (.shli ⟨.always, false, false, false, d9, a10, 256⟩) = false
    ∧ Instr.wf (.andi ⟨.always, false, false, true, d9, a10, 1⟩) = false
    ∧ Instr.wf (.cmpi ⟨.always, 1, .const 0, a10, 1⟩) = false
    ∧ Instr.wf (.movl ⟨.always, 3, .special 38, 1⟩) = false ∧ Instr.wf (.addl ⟨.always, 2, d9, 1⟩) = false := by decide
theorem smoke_select : Instr.wf (.sel ⟨.always, d9, a10, a10, a10⟩) = false
    ∧ Instr.wf (.bperm ⟨.always, d9, a10, a10, rsv⟩) = false ∧ Instr.wf (.cmp ⟨.always, .w64, false, 0, d9, a10, a10, a10⟩) = false := by
  decide
theorem smoke_mov : Instr.wf (.mov ⟨.always, .w16x4, false, false, false, .addN64, d9, a10⟩) = false
    ∧ Instr.wf (.mov ⟨.always, .w32, false, true, false, .addN64, .scoped 3 1, a10⟩) = false
    ∧ Instr.wf (.mov ⟨.always, .w64, false, true, false, .addN64, d9, a10⟩) = false
    ∧ Instr.wf (.mov ⟨.always, .w64, false, false, true, .addN64, d9, a10⟩) = false
    ∧ Instr.wf (.mov ⟨.always, .w64, false, false, false, .minI64, d9, a10⟩) = false
    ∧ Instr.wf (.mov ⟨.always, .w64, false, false, false, .addN64, .special 36, a10⟩) = false := by decide
theorem smoke_predicates : Instr.wf (.plog ⟨.always, 0, d9, .pred 1, .pred 2⟩) = false
    ∧ Instr.wf (.plog ⟨.always, 0, .pred 3, a10, .pred 2⟩) = false ∧ Instr.wf (.pset ⟨.always, 2, .pred 3, a10, a10⟩) = false := by decide
theorem smoke_float : Instr.wf (.fadd ⟨.always, ⟨.f64, .rne, true⟩, d9, a10, a10⟩) = false
    ∧ Instr.wf (.fmin ⟨.always, .f64, true, false, d9, a10, a10⟩) = false
    ∧ Instr.wf (.fabs ⟨.always, .f64, true, d9, a10⟩) = false ∧ Instr.wf (.fsign ⟨.always, .f64, true, d9, a10, a10⟩) = false
    ∧ Instr.wf (.fcmp ⟨.always, .f32, 0, false, d9, a10, a10, a10⟩) = false
    ∧ Instr.wf (.fsqrt ⟨.always, ⟨.f32, .rne, false⟩, d9, rsv⟩) = false
    ∧ Instr.wf (.twosum ⟨.always, ⟨.f32, .rne, false⟩, d9, a10, a10, .pred 1⟩) = false
    ∧ Instr.wf (.exp2 ⟨.always, .f64, 0, false, d9, a10⟩) = false ∧ Instr.wf (.rcpseed ⟨.always, .f16x4, 0, false, d9, a10⟩) = false := by
  decide
theorem smoke_convert : Instr.wf (.cvtf ⟨.always, ⟨.f32, .rne, false⟩, 10, 0, d9, a10, .lane 0⟩) = false
    ∧ Instr.wf (.cvtf ⟨.always, ⟨.f32, .rne, true⟩, 0, 0, d9, a10, .lane 0⟩) = false
    ∧ Instr.wf (.cvtf ⟨.always, ⟨.f16x4, .rne, false⟩, 9, 4, d9, a10, a10⟩) = false
    ∧ Instr.wf (.cvtf ⟨.always, ⟨.f16x4, .rne, false⟩, 1, 0, .pred 1, a10, .lane 0⟩) = false
    ∧ Instr.wf (.cvtf ⟨.always, ⟨.f32, .rne, false⟩, 2, 0, d9, a10, a10⟩) = false
    ∧ Instr.wf (.cvtfi ⟨.always, ⟨.f16x4, .rne, false⟩, 1, true, d9, a10⟩) = false
    ∧ Instr.wf (.cvtn ⟨.always, .f16x4, 0, false, 4, 0, d9, a10, a10⟩) = false
    ∧ Instr.wf (.cvtn ⟨.always, .f16x4, 0, false, 5, 0, .pred 4, a10, a10⟩) = false
    ∧ Instr.wf (.cvtn ⟨.always, .f16x4, 0, false, 5, 2, d9, a10, a10⟩) = false
    ∧ Instr.wf (.scaleest ⟨.always, .f16x4, false, 10, d9, a10⟩) = false
    ∧ Instr.wf (.cbdec ⟨.always, ⟨.f16x4, .rne, false⟩, 0, false, 4, d9, a10, .lane 0⟩) = false
    ∧ Instr.wf (.cbdec ⟨.always, ⟨.f16x4, .rne, false⟩, 0, false, 0, d9, a10, a10⟩) = false
    ∧ Instr.wf (.pack ⟨.always, false, d9, a10, a10⟩) = false
    ∧ Instr.wf (.unpack ⟨.always, ⟨.f16x4, .rne, false⟩, 4, 0, d9, a10, a10⟩) = false := by decide
theorem smoke_cross_lane : Instr.wf (.vote ⟨.always, 2, 3, d9, a10, .lane 0, 0⟩) = false
    ∧ Instr.wf (.vote ⟨.always, 2, 0, d9, a10, .lane 0, 1⟩) = false ∧ Instr.wf (.elect ⟨.always, 2, 0, d9, a10, .lane 0, 0⟩) = false
    ∧ Instr.wf (.compact ⟨.always, 2, 0, d9, a10, .const 1, 0⟩) = false
    ∧ Instr.wf (.lshift ⟨.always, 2, 2, d9, a10, a10, 0⟩) = false
    ∧ Instr.wf (.reduce ⟨.always, 2, .addN64, true, .rne, d9, a10⟩) = false
    ∧ Instr.wf (.scan ⟨.always, 2, .faddF64, true, .dyn, d9, a10⟩) = false
    ∧ Instr.wf (.scan ⟨.always, 2, .addN64, true, .rtz, d9, a10⟩) = false := by decide
theorem smoke_memory : Instr.wf (.lr ⟨.always, .b8, false, 0, d9, a10, 0⟩) = false
    ∧ Instr.wf (.ld ⟨.always, .b8, false, 0, .const 1, a10, 0⟩) = false ∧ Instr.wf (.pref ⟨.always, .b8, 0, d9, a10, 0⟩) = false
    ∧ Instr.wf (.ldp ⟨.always, 0, .lane 127, a10, 0⟩) = false ∧ Instr.wf (.stp ⟨.always, 0, .const 0, a10, 0⟩) = false
    ∧ Instr.wf (.cctl ⟨.always, 0, d9, a10, 0⟩) = false ∧ Instr.wf (.ldx ⟨.always, .b8, 0, 2, rsv, a10⟩) = false
    ∧ Instr.wf (.atom ⟨.always, true, 13, d9, a10, a10, .lane 0⟩) = false
    ∧ Instr.wf (.atom ⟨.always, true, 0, d9, a10, a10, a10⟩) = false
    ∧ Instr.wf (.atom ⟨.always, true, 0, .pred 2, a10, a10, .lane 0⟩) = false
    ∧ Instr.wf (.sc ⟨.always, true, 0, .const 2, a10, a10⟩) = false := by decide
theorem smoke_sync : Instr.wf (.bara ⟨.always, 3, .const 0⟩) = false ∧ Instr.wf (.barw ⟨.always, 3, rsv⟩) = false
    ∧ Instr.wf (.lehrpush ⟨.always, 3, 0, rsv⟩) = false ∧ Instr.wf (.lehrread ⟨.always, 3, 0, .const 0⟩) = false
    ∧ Instr.wf (.worknext ⟨.always, .pred 1⟩) = false ∧ Instr.wf (.emit ⟨.always, rsv⟩) = false
    ∧ Instr.wf (.waitseq ⟨.always, 0, false, 1, d9, a10, a10⟩) = false
    ∧ Instr.wf (.waitval ⟨.always, 2, false, 1, d9, a10, a10⟩) = false
    ∧ Instr.wf (.nbrpush ⟨.always, 0, 0, rsv⟩) = false ∧ Instr.wf (.nbrpop ⟨.always, 0, 0, .scoped 2 2⟩) = false := by decide
theorem smoke_control : Instr.wf (.bra ⟨.always, 4⟩) = false ∧ Instr.wf (.bru ⟨.always, false, d9, 8⟩) = false
    ∧ Instr.wf (.jmp ⟨.always, true, d9, 8⟩) = false ∧ Instr.wf (.call ⟨.always, false, .pred 2, 8⟩) = false
    ∧ Instr.wf (.calli ⟨.always, false, .const 2, 8⟩) = false ∧ Instr.wf (.coswap ⟨.always, .lane 125⟩) = false
    ∧ Instr.wf (.pcget ⟨.always, false, .const 2, 8⟩) = false ∧ Instr.wf (.pcget ⟨.always, false, d9, 12⟩) = false := by decide
/-- The unused fields and the three pairing rules (R178, R179). -/
theorem smoke_paired : Instr.wf (.pairNop ⟨false, 0, 1, 0, 0⟩ ⟨.nop, ⟨false, 0, 0, 0, 0⟩⟩) = false
    ∧ Instr.wf (.pairAdd ⟨false, 0, 8, 9, 1⟩ ⟨.nop, ⟨false, 0, 0, 0, 0⟩⟩) = false
    ∧ Instr.wf (.pairMovi ⟨false, 0, 8, 9, 1⟩ ⟨.nop, ⟨false, 0, 0, 0, 0⟩⟩) = false
    ∧ Instr.wf (.pairMov ⟨false, 0, 8, 9, 0⟩ ⟨.mov, ⟨false, 0, 12, 10, 0⟩⟩) = false
    ∧ Instr.wf (.pairAdd ⟨false, 0, 8, 12, 0⟩ ⟨.mov, ⟨false, 0, 9, 16, 0⟩⟩) = false
    ∧ Instr.wf (.pairMov ⟨false, 0, 8, 9, 0⟩ ⟨.mov, ⟨false, 0, 10, 8, 0⟩⟩) = false := by decide
theorem smoke_engine : Instr.wf (.mma ⟨.always, .pred 1, .lane 20, .lane 0, 0, 0⟩) = false
    ∧ Instr.wf (.mma ⟨.always, d9, .lane 124, .lane 0, 0, 0⟩) = false ∧ Instr.wf (.copy ⟨.always, d9, .const 0, .lane 0, 0, 0⟩) = false
    ∧ Instr.wf (.publish ⟨.always, d9, .lane 4, .lane 0, 0, 0⟩) = false ∧ Instr.wf (.copy ⟨.always, d9, .lane 4, .lane 1, 0, 0⟩) = false
    ∧ Instr.wf (.tail ⟨.always, d9, .lane 4, .lane 1, 0, 1⟩) = false := by decide
theorem smoke_system : Instr.wf (.trap ⟨.always, rsv, 0⟩) = false ∧ Instr.wf (.bkpt ⟨.always, rsv, 0⟩) = false
    ∧ Instr.wf (.sysrd ⟨.always, d9, 7⟩) = false ∧ Instr.wf (.sysrd ⟨.always, d9, 0x110⟩) = false
    ∧ Instr.wf (.syswr ⟨.always, d9, 5⟩) = false ∧ Instr.wf (.grpsel ⟨.always, false, .const 0, a10⟩) = false
    ∧ Instr.wf (.grprd ⟨.always, .const 0, a10, a10⟩) = false ∧ Instr.wf (.grpwr ⟨.always, rsv, a10, a10⟩) = false
    ∧ Instr.wf (.grpres ⟨badG, false⟩) = false ∧ Instr.wf (.tlbinv ⟨.always, true, .lane 0, a10⟩) = false
    ∧ Instr.wf (.tlbinv ⟨.always, false, d9, a10⟩) = false ∧ Instr.wf (.halt ⟨.always, rsv⟩) = false := by decide
theorem smoke_events : Instr.wf (.chunkCommit 384) = false ∧ Instr.wf (.barrierPhaseComplete 0 0 0 16) = false
    ∧ Instr.wf (.lehrOccupancyEnd 0 0 3 0 8) = false ∧ Instr.wf (.mailboxFill 0 0 16) = false
    ∧ Instr.wf (.engineCommandComplete ⟨3, 64, 0⟩) = false ∧ Instr.wf (.counterChange 0 1024 1) = false
    ∧ Instr.wf (.launchPacket 64 0) = false ∧ Instr.wf (.schedulingPass 8) = false ∧ Instr.wf (.groupCreate 256 0) = false
    ∧ Instr.wf (.retrainComplete 64) = false ∧ Instr.wf (.laserWarmUpDone 16) = false ∧ Instr.wf (.drainEnd 32) = false
    ∧ Instr.wf (.nak 0 []) = false := by decide

/-! ### Words written out bit by bit from the encodings -/

theorem test_decode_integer_1 :
    decode 0x0003AC0240A02C00 = .ok (.add ⟨⟨3, true⟩, ⟨.w16x4, true, true⟩, .lane 9, .lane 10, .lane 11⟩)
      ∧ decode 0x008070240AFFFFFE = .ok (.addi ⟨⟨0, false⟩, true, true, true, .lane 9, .lane 10, 0xFFFFFE⟩)
      ∧ decode 0x0103980240A02C00 = .ok (.sub ⟨⟨3, true⟩, ⟨.w32, true, false⟩, .lane 9, .lane 10, .lane 11⟩)
      ∧ decode 0x0187110240A02D04 = .ok (.addc ⟨⟨7, false⟩, ⟨.w32, false, false⟩, .lane 9, .lane 10, .lane 11, .pred 4⟩ true)
      ∧ decode 0x0207080240A02D05 = .ok (.subb ⟨⟨7, false⟩, ⟨.w64, true, false⟩, .lane 9, .lane 10, .lane 11, .pred 5⟩ false)
      ∧ decode 0x0283B40240A02C00 = .ok (.mul ⟨⟨3, true⟩, ⟨.w8x8, false, true⟩, .lane 9, .lane 10, .lane 11⟩)
      ∧ decode 0x0303C80240A02C00 = .ok (.mulh ⟨⟨3, true⟩, ⟨.w32x2, true, false⟩, .lane 9, .lane 10, .lane 11⟩)
      ∧ decode 0x0387040240A02C0C = .ok (.mad ⟨⟨7, false⟩, ⟨.w64, false, true⟩, .lane 9, .lane 10, .lane 11, .lane 12⟩)
      ∧ decode 0x04072C0240A02C0C = .ok (.madw ⟨⟨7, false⟩, ⟨.w16x4, true, true⟩, .lane 9, .lane 10, .lane 11, .lane 12⟩)
      ∧ decode 0x0483880240A02C00 = .ok (.div ⟨⟨3, true⟩, ⟨.w64, true, false⟩, .lane 9, .lane 10, .lane 11⟩)
      ∧ decode 0x0503900240A02C00 = .ok (.rem ⟨⟨3, true⟩, ⟨.w32, false, false⟩, .lane 9, .lane 10, .lane 11⟩)
      ∧ decode 0x0580240240A00000 = .ok (.abs ⟨⟨0, false⟩, ⟨.w16x4, false, true⟩, .lane 9, .lane 10⟩)
      ∧ decode 0x0603B80240A02C00 = .ok (.min ⟨⟨3, true⟩, ⟨.w8x8, true, false⟩, .lane 9, .lane 10, .lane 11⟩)
      ∧ decode 0x0683800240A02C00 = .ok (.max ⟨⟨3, true⟩, ⟨.w64, false, false⟩, .lane 9, .lane 10, .lane 11⟩)
      ∧ decode 0x0707180240A02C0C = .ok (.clamp ⟨⟨7, false⟩, ⟨.w32, true, false⟩, .lane 9, .lane 10, .lane 11, .lane 12⟩)
      ∧ decode 0x0787200240A02C0C = .ok (.addmin ⟨⟨7, false⟩, ⟨.w16x4, false, false⟩, .lane 9, .lane 10, .lane 11, .lane 12⟩) := by
  decide

theorem test_decode_integer_2 :
    decode 0x08073C0240A02C0C = .ok (.addmax ⟨⟨7, false⟩, ⟨.w8x8, true, true⟩, .lane 9, .lane 10, .lane 11, .lane 12⟩)
      ∧ decode 0x0883800240A02C00 = .ok (.and ⟨⟨3, true⟩, ⟨.w64, false, false⟩, .lane 9, .lane 10, .lane 11⟩)
      ∧ decode 0x0903900240A02C00 = .ok (.or ⟨⟨3, true⟩, ⟨.w32, false, false⟩, .lane 9, .lane 10, .lane 11⟩)
      ∧ decode 0x0983A00240A02C00 = .ok (.xor ⟨⟨3, true⟩, ⟨.w16x4, false, false⟩, .lane 9, .lane 10, .lane 11⟩)
      ∧ decode 0x0A03B00240A02C00 = .ok (.andn ⟨⟨3, true⟩, ⟨.w8x8, false, false⟩, .lane 9, .lane 10, .lane 11⟩)
      ∧ decode 0x0A83C00240A02C00 = .ok (.orn ⟨⟨3, true⟩, ⟨.w32x2, false, false⟩, .lane 9, .lane 10, .lane 11⟩)
      ∧ decode 0x0B0000240A7FFFFF = .ok (.andi ⟨⟨0, false⟩, false, false, false, .lane 9, .lane 10, 0x7FFFFF⟩)
      ∧ decode 0x0B8040240AFFFFFF = .ok (.ori ⟨⟨0, false⟩, true, false, false, .lane 9, .lane 10, 0xFFFFFF⟩)
      ∧ decode 0x0C0020240A123456 = .ok (.xori ⟨⟨0, false⟩, false, true, false, .lane 9, .lane 10, 0x123456⟩)
      ∧ decode 0x0C83800240A02C00 = .ok (.shl ⟨⟨3, true⟩, ⟨.w64, false, false⟩, .lane 9, .lane 10, .lane 11⟩)
      ∧ decode 0x0D03900240A02C00 = .ok (.shr ⟨⟨3, true⟩, ⟨.w32, false, false⟩, .lane 9, .lane 10, .lane 11⟩)
      ∧ decode 0x0D83A00240A02C00 = .ok (.sar ⟨⟨3, true⟩, ⟨.w16x4, false, false⟩, .lane 9, .lane 10, .lane 11⟩)
      ∧ decode 0x0E03B00240A02C00 = .ok (.rol ⟨⟨3, true⟩, ⟨.w8x8, false, false⟩, .lane 9, .lane 10, .lane 11⟩)
      ∧ decode 0x0E8000240A000040 = .ok (.shli ⟨⟨0, false⟩, false, false, false, .lane 9, .lane 10, 0x000040⟩)
      ∧ decode 0x0F0040240A0000FF = .ok (.shri ⟨⟨0, false⟩, true, false, false, .lane 9, .lane 10, 0x0000FF⟩)
      ∧ decode 0x0F8060240A000003 = .ok (.sari ⟨⟨0, false⟩, true, true, false, .lane 9, .lane 10, 0x000003⟩) := by
  decide

theorem test_decode_integer_3 :
    decode 0x1003980240A02C00 = .ok (.bfx ⟨⟨3, true⟩, ⟨.w32, true, false⟩, .lane 9, .lane 10, .lane 11⟩)
      ∧ decode 0x1087000240A02C0C = .ok (.bfi ⟨⟨7, false⟩, ⟨.w64, false, false⟩, .lane 9, .lane 10, .lane 11, .lane 12⟩)
      ∧ decode 0x1100000240A00000 = .ok (.popc ⟨⟨0, false⟩, ⟨.w64, false, false⟩, .lane 9, .lane 10⟩)
      ∧ decode 0x1180100240A00000 = .ok (.clz ⟨⟨0, false⟩, ⟨.w32, false, false⟩, .lane 9, .lane 10⟩)
      ∧ decode 0x1200200240A00000 = .ok (.ctz ⟨⟨0, false⟩, ⟨.w16x4, false, false⟩, .lane 9, .lane 10⟩)
      ∧ decode 0x1280300240A00000 = .ok (.brev ⟨⟨0, false⟩, ⟨.w8x8, false, false⟩, .lane 9, .lane 10⟩) := by
  decide

theorem test_decode_address_and_predicate :
    decode 0x1300000240A02C0C = .ok (.bperm ⟨⟨0, false⟩, .lane 9, .lane 10, .lane 11, .lane 12⟩)
      ∧ decode 0x138000024BF30506 = .ok (.sel ⟨⟨0, false⟩, .lane 9, .const 0x3F, .special 1, .pred 6⟩)
      ∧ decode 0x14001D4080A02D06 = .ok (.cmp ⟨⟨0, false⟩, .w32, true, 5, .pred 2, .lane 10, .lane 11, .pred 6⟩)
      ∧ decode 0x148040240AFFFFF8 = .ok (.cmpi ⟨⟨0, false⟩, 4, .lane 9, .lane 10, 0xFFFFF8⟩)
      ∧ decode 0x1500130240A02C0C = .ok (.lea ⟨⟨0, false⟩, .w32, false, 3, .lane 9, .lane 10, .lane 11, .lane 12⟩)
      ∧ decode 0x1580039140A0000C = .ok (.mov ⟨⟨0, false⟩, .w64, false, true, true, .fmaxF32, .scoped 2 5, .lane 10⟩)
      ∧ decode 0x1C00004250A42C06 = .ok (.plog ⟨⟨0, false⟩, 6, .pred 9, .pred 10, .pred 11⟩)
      ∧ decode 0x1D80014240A21400 = .ok (.pset ⟨⟨0, false⟩, 1, .pred 9, .lane 10, .const 5⟩)
      ∧ decode 0x6800040980000001 = .ok (.movl ⟨⟨0, false⟩, 1, .lane 9, 0x80000001⟩)
      ∧ decode 0x6880040912345678 = .ok (.addl ⟨⟨0, false⟩, 1, .lane 9, 0x12345678⟩) := by
  decide

theorem test_decode_float_1 :
    decode 0x2000000240A02C00 = .ok (.fadd ⟨⟨0, false⟩, ⟨.f64, .rne, false⟩, .lane 9, .lane 10, .lane 11⟩)
      ∧ decode 0x2080130240A02C00 = .ok (.fsub ⟨⟨0, false⟩, ⟨.f32, .rtz, true⟩, .lane 9, .lane 10, .lane 11⟩)
      ∧ decode 0x2100240240A02C00 = .ok (.fmul ⟨⟨0, false⟩, ⟨.f32x2, .rdn, false⟩, .lane 9, .lane 10, .lane 11⟩)
      ∧ decode 0x2180370240A02C0C = .ok (.ffma ⟨⟨0, false⟩, ⟨.f16x4, .rup, true⟩, .lane 9, .lane 10, .lane 11, .lane 12⟩)
      ∧ decode 0x2200480240A02C0C = .ok (.ffms ⟨⟨0, false⟩, ⟨.bf16x4, .rna, false⟩, .lane 9, .lane 10, .lane 11, .lane 12⟩)
      ∧ decode 0x22800E0240A02C0C = .ok (.fnma ⟨⟨0, false⟩, ⟨.f64, .dyn, false⟩, .lane 9, .lane 10, .lane 11, .lane 12⟩)
      ∧ decode 0x2300120240A02C00 = .ok (.fmin ⟨⟨0, false⟩, .f32, true, false, .lane 9, .lane 10, .lane 11⟩)
      ∧ decode 0x2380310240A02C00 = .ok (.fmax ⟨⟨0, false⟩, .f16x4, false, true, .lane 9, .lane 10, .lane 11⟩)
      ∧ decode 0x2400000240A00000 = .ok (.fabs ⟨⟨0, false⟩, .f64, false, .lane 9, .lane 10⟩)
      ∧ decode 0x2480110240A00000 = .ok (.fneg ⟨⟨0, false⟩, .f32, true, .lane 9, .lane 10⟩)
      ∧ decode 0x2500210240A02C00 = .ok (.fsign ⟨⟨0, false⟩, .f32x2, true, .lane 9, .lane 10, .lane 11⟩)
      ∧ decode 0x25801B40C0A02D04 = .ok (.fcmp ⟨⟨0, false⟩, .f32, 5, true, .pred 3, .lane 10, .lane 11, .pred 4⟩)
      ∧ decode 0x2600410240A00000 = .ok (.fclass ⟨⟨0, false⟩, .bf16x4, true, .lane 9, .lane 10⟩)
      ∧ decode 0x2680060240A02C00 = .ok (.fdiv ⟨⟨0, false⟩, ⟨.f64, .rup, false⟩, .lane 9, .lane 10, .lane 11⟩)
      ∧ decode 0x2700190240A00000 = .ok (.fsqrt ⟨⟨0, false⟩, ⟨.f32, .rna, true⟩, .lane 9, .lane 10⟩)
      ∧ decode 0x2780020240A00000 = .ok (.frnd ⟨⟨0, false⟩, ⟨.f64, .rtz, false⟩, .lane 9, .lane 10⟩) := by
  decide

theorem test_decode_float_2 :
    decode 0x28003E0240A02C00 = .ok (.fscale ⟨⟨0, false⟩, ⟨.f16x4, .dyn, false⟩, .lane 9, .lane 10, .lane 11⟩)
      ∧ decode 0x2880100240A00000 = .ok (.fgetexp ⟨⟨0, false⟩, .f32, false, .lane 9, .lane 10⟩)
      ∧ decode 0x2900310240A00000 = .ok (.fgetmant ⟨⟨0, false⟩, .f16x4, true, .lane 9, .lane 10⟩)
      ∧ decode 0x2980000240A02C0C = .ok (.twosum ⟨⟨0, false⟩, ⟨.f64, .rne, false⟩, .lane 9, .lane 10, .lane 11, .lane 12⟩)
      ∧ decode 0x2A00140240A02C0C = .ok (.faddmin ⟨⟨0, false⟩, ⟨.f32, .rdn, false⟩, .lane 9, .lane 10, .lane 11, .lane 12⟩)
      ∧ decode 0x2A80320240A00021 = .ok (.cvtf ⟨⟨0, false⟩, ⟨.f16x4, .rtz, false⟩, 1, 2, .lane 9, .lane 10, .lane 0⟩)
      ∧ decode 0x2B00150240A00007 = .ok (.cvtfi ⟨⟨0, false⟩, ⟨.f32, .rdn, true⟩, 3, true, .lane 9, .lane 10⟩)
      ∧ decode 0x2B80000240A00001 = .ok (.cvtif ⟨⟨0, false⟩, ⟨.f64, .rne, false⟩, 1, false, .lane 9, .lane 10⟩)
      ∧ decode 0x2C002A0240A02C79 = .ok (.cvtn ⟨⟨0, false⟩, .f32x2, 5, false, 9, 7, .lane 9, .lane 10, .lane 11⟩)
      ∧ decode 0x2C80110240A00006 = .ok (.scaleest ⟨⟨0, false⟩, .f32, true, 6, .lane 9, .lane 10⟩)
      ∧ decode 0x2D00400240A02C3D = .ok (.cbdec ⟨⟨0, false⟩, ⟨.bf16x4, .rne, false⟩, 5, true, 3, .lane 9, .lane 10, .lane 11⟩)
      ∧ decode 0x2D80000240A02C01 = .ok (.pack ⟨⟨0, false⟩, true, .lane 9, .lane 10, .lane 11⟩)
      ∧ decode 0x2E00260240A02C17 = .ok (.unpack ⟨⟨0, false⟩, ⟨.f32x2, .rup, false⟩, 7, 1, .lane 9, .lane 10, .lane 11⟩) := by
  decide

theorem test_decode_special_function :
    decode 0x3000100240A00000 = .ok (.exp2 ⟨⟨0, false⟩, .f32, 0, false, .lane 9, .lane 10⟩)
      ∧ decode 0x3080230240A00000 = .ok (.log2 ⟨⟨0, false⟩, .f32x2, 1, true, .lane 9, .lane 10⟩)
      ∧ decode 0x3100340240A00000 = .ok (.sinpi ⟨⟨0, false⟩, .f16x4, 2, false, .lane 9, .lane 10⟩)
      ∧ decode 0x3180170240A00000 = .ok (.cospi ⟨⟨0, false⟩, .f32, 3, true, .lane 9, .lane 10⟩)
      ∧ decode 0x3200280240A00000 = .ok (.tanh ⟨⟨0, false⟩, .f32x2, 4, false, .lane 9, .lane 10⟩)
      ∧ decode 0x32803B0240A00000 = .ok (.sigm ⟨⟨0, false⟩, .f16x4, 5, true, .lane 9, .lane 10⟩)
      ∧ decode 0x33001C0240A00000 = .ok (.erf ⟨⟨0, false⟩, .f32, 6, false, .lane 9, .lane 10⟩)
      ∧ decode 0x33802F0240A00000 = .ok (.rcp ⟨⟨0, false⟩, .f32x2, 7, true, .lane 9, .lane 10⟩)
      ∧ decode 0x3400300240A00000 = .ok (.rsqrt ⟨⟨0, false⟩, .f16x4, 0, false, .lane 9, .lane 10⟩)
      ∧ decode 0x3480130240A00000 = .ok (.silu ⟨⟨0, false⟩, .f32, 1, true, .lane 9, .lane 10⟩)
      ∧ decode 0x3500140240A00000 = .ok (.rcpseed ⟨⟨0, false⟩, .f32, 2, false, .lane 9, .lane 10⟩)
      ∧ decode 0x3580170240A00000 = .ok (.rsqseed ⟨⟨0, false⟩, .f32, 3, true, .lane 9, .lane 10⟩) := by
  decide

theorem test_decode_cross_lane :
    decode 0x1C80101415060000 = .ok (.vote ⟨⟨0, false⟩, 2, 1, .pred 5, .pred 6, .lane 0, 0⟩)
      ∧ decode 0x1D001800240A0021 = .ok (.ballot ⟨⟨0, false⟩, 3, 0, .lane 9, .lane 10, .lane 0, 33⟩)
      ∧ decode 0x38000830240A02C0 = .ok (.shfl ⟨⟨0, false⟩, 1, 3, .lane 9, .lane 10, .lane 11, 0⟩)
      ∧ decode 0x38801010240A02FF = .ok (.lshift ⟨⟨0, false⟩, 2, 1, .lane 9, .lane 10, .lane 11, 63⟩)
      ∧ decode 0x39001160240A0003 = .ok (.scan ⟨⟨0, false⟩, 2, .faddF64, true, .rup, .lane 9, .lane 10⟩)
      ∧ decode 0x398028F0240A0000 = .ok (.reduce ⟨⟨0, false⟩, 5, .xor, false, .rne, .lane 9, .lane 10⟩)
      ∧ decode 0x3A000800240A02C0 = .ok (.compact ⟨⟨0, false⟩, 1, 0, .lane 9, .lane 10, .lane 11, 0⟩)
      ∧ decode 0x3A800800240A0011 = .ok (.match_ ⟨⟨0, false⟩, 1, 0, .lane 9, .lane 10, .lane 0, 17⟩)
      ∧ decode 0x3B0008041C000000 = .ok (.elect ⟨⟨0, false⟩, 1, 0, .pred 7, .lane 0, .lane 0, 0⟩) := by
  decide

theorem test_decode_memory :
    decode 0x40001C0240AFFFFC = .ok (.ld ⟨⟨0, false⟩, .b16, true, 2, .lane 9, .lane 10, 0xFFFFC⟩)
      ∧ decode 0x40802288C0A7FFFF = .ok (.st ⟨⟨0, false⟩, .b32, 1, .scoped 1 3, .lane 10, 0x7FFFF⟩)
      ∧ decode 0x4100460200A00010 = .ok (.ldp ⟨⟨0, false⟩, 3, .lane 8, .lane 10, 16⟩)
      ∧ decode 0x4180400200A00020 = .ok (.stp ⟨⟨0, false⟩, 0, .lane 8, .lane 10, 32⟩)
      ∧ decode 0x4200320240A00002 = .ok (.ldx ⟨⟨0, false⟩, .b64, 1, 2, .lane 9, .lane 10⟩)
      ∧ decode 0x4280240000A00100 = .ok (.pref ⟨⟨0, false⟩, .b32, 2, .lane 0, .lane 10, 256⟩)
      ∧ decode 0x4300390240A02C0C = .ok (.atom ⟨⟨0, false⟩, true, 9, .lane 9, .lane 10, .lane 11, .lane 12⟩)
      ∧ decode 0x4380280240A00004 = .ok (.lr ⟨⟨0, false⟩, .b32, true, 0, .lane 9, .lane 10, 4⟩)
      ∧ decode 0x4400324040A02C00 = .ok (.sc ⟨⟨0, false⟩, true, 1, .pred 1, .lane 10, .lane 11⟩)
      ∧ decode 0x4480202000000000 = .ok (.fence ⟨⟨0, false⟩, 4, false, true⟩)
      ∧ decode 0x4500300000A00008 = .ok (.cctl ⟨⟨0, false⟩, 3, .lane 0, .lane 10, 8⟩) := by
  decide

theorem test_decode_synchronisation :
    decode 0x5000180000000000 = .ok (.bar ⟨⟨0, false⟩, 3⟩)
      ∧ decode 0x5080100024000000 = .ok (.bara ⟨⟨0, false⟩, 2, .lane 9⟩)
      ∧ decode 0x51001000000A0000 = .ok (.barw ⟨⟨0, false⟩, 2, .lane 10⟩)
      ∧ decode 0x51800800000A0000 = .ok (.mbar ⟨⟨0, false⟩, 1, .lane 10⟩)
      ∧ decode 0x5200780000000000 = .ok (.quiesce ⟨⟨0, false⟩, 15⟩)
      ∧ decode 0x5283800000000000 = .ok (.chunkend ⟨3, true⟩)
      ∧ decode 0x53000D700000003F = .ok (.lehrw ⟨⟨0, false⟩, 1, 5, .faddF32, 63⟩)
      ∧ decode 0x53800D0000A00000 = .ok (.lehrpush ⟨⟨0, false⟩, 1, 5, .const 32⟩)
      ∧ decode 0x5400170024000000 = .ok (.lehrread ⟨⟨0, false⟩, 2, 7, .lane 9⟩)
      ∧ decode 0x5480110000000000 = .ok (.lehrclr ⟨⟨0, false⟩, 2, 1⟩)
      ∧ decode 0x5500000024000000 = .ok (.worknext ⟨⟨0, false⟩, .lane 9⟩)
      ∧ decode 0x55800000000A0000 = .ok (.emit ⟨⟨0, false⟩, .lane 10⟩)
      ∧ decode 0x56003010240A02C0 = .ok (.waitseq ⟨⟨0, false⟩, 6, true, 0, .lane 9, .lane 10, .lane 11⟩)
      ∧ decode 0x568000C0240A02C0 = .ok (.waitval ⟨⟨0, false⟩, 0, false, 6, .lane 9, .lane 10, .lane 11⟩)
      ∧ decode 0x570000B0000A0000 = .ok (.nbrpush ⟨⟨0, false⟩, 3, 2, .lane 10⟩)
      ∧ decode 0x578000D024000000 = .ok (.nbrpop ⟨⟨0, false⟩, 1, 3, .lane 9⟩) := by
  decide

theorem test_decode_control :
    decode 0x60038000FFFFFFF8 = .ok (.bra ⟨⟨3, true⟩, 0xFFFFFFF8⟩)
      ∧ decode 0x6080050400000010 = .ok (.bru ⟨⟨0, false⟩, true, .pred 4, 16⟩)
      ∧ decode 0x6100000A00000018 = .ok (.jmp ⟨⟨0, false⟩, false, .lane 10, 24⟩)
      ∧ decode 0x618000FF80000000 = .ok (.call ⟨⟨0, false⟩, false, .special 63, 0x80000000⟩)
      ∧ decode 0x6200007D00000008 = .ok (.calli ⟨⟨0, false⟩, false, .lane 125, 8⟩)
      ∧ decode 0x6280007D00000000 = .ok (.ret ⟨⟨0, false⟩, false, .lane 125, 0⟩)
      ∧ decode 0x6300007C00000000 = .ok (.coswap ⟨⟨0, false⟩, .lane 124⟩)
      ∧ decode 0x6387000000000000 = .ok (.exit ⟨7, false⟩)
      ∧ decode 0x6400000000000000 = .ok (.yield ⟨0, false⟩)
      ∧ decode 0x6480000000000000 = .ok (.nop ⟨0, false⟩)
      ∧ decode 0x6500000900000028 = .ok (.pcget ⟨⟨0, false⟩, false, .lane 9, 40⟩) := by
  decide

theorem test_decode_engine_1 :
    decode 0x6C00000241400350 = .ok (.mma ⟨⟨0, false⟩, .lane 9, .lane 20, .lane 0, 13, 4⟩)
      ∧ decode 0x6C00010241400350 = .ok (.mfmt ⟨⟨0, false⟩, .lane 9, .lane 20, .lane 0, 13, 4⟩)
      ∧ decode 0x6C00020241400350 = .ok (.accz ⟨⟨0, false⟩, .lane 9, .lane 20, .lane 0, 13, 4⟩)
      ∧ decode 0x6C00030241400350 = .ok (.accld ⟨⟨0, false⟩, .lane 9, .lane 20, .lane 0, 13, 4⟩)
      ∧ decode 0x6C00040241400350 = .ok (.accst ⟨⟨0, false⟩, .lane 9, .lane 20, .lane 0, 13, 4⟩)
      ∧ decode 0x6C00050241400350 = .ok (.cbload ⟨⟨0, false⟩, .lane 9, .lane 20, .lane 0, 13, 4⟩)
      ∧ decode 0x6C00060241400350 = .ok (.scload ⟨⟨0, false⟩, .lane 9, .lane 20, .lane 0, 13, 4⟩)
      ∧ decode 0x6C00070241400350 = .ok (.msync ⟨⟨0, false⟩, .lane 9, .lane 20, .lane 0, 13, 4⟩)
      ∧ decode 0x6C00200241400350 = .ok (.copy ⟨⟨0, false⟩, .lane 9, .lane 20, .lane 0, 13, 4⟩)
      ∧ decode 0x6C00210241400350 = .ok (.copymma ⟨⟨0, false⟩, .lane 9, .lane 20, .lane 0, 13, 4⟩)
      ∧ decode 0x6C00220241400350 = .ok (.gather ⟨⟨0, false⟩, .lane 9, .lane 20, .lane 0, 13, 4⟩)
      ∧ decode 0x6C00230241400350 = .ok (.scatter ⟨⟨0, false⟩, .lane 9, .lane 20, .lane 0, 13, 4⟩)
      ∧ decode 0x6C00240241400350 = .ok (.expand ⟨⟨0, false⟩, .lane 9, .lane 20, .lane 0, 13, 4⟩)
      ∧ decode 0x6C00250241400350 = .ok (.fill ⟨⟨0, false⟩, .lane 9, .lane 20, .lane 0, 13, 4⟩)
      ∧ decode 0x6C00260240000350 = .ok (.publish ⟨⟨0, false⟩, .lane 9, .lane 0, .lane 0, 13, 4⟩)
      ∧ decode 0x6C00270241400350 = .ok (.rcopy ⟨⟨0, false⟩, .lane 9, .lane 20, .lane 0, 13, 4⟩) := by
  decide

theorem test_decode_engine_2 :
    decode 0x6C00400241400350 = .ok (.chain ⟨⟨0, false⟩, .lane 9, .lane 20, .lane 0, 13, 4⟩)
      ∧ decode 0x6C00500241402F40 = .ok (.tail ⟨⟨0, false⟩, .lane 9, .lane 20, .lane 11, 13, 0⟩)
      ∧ decode 0x6C00510241402F50 = .ok (.seq ⟨⟨0, false⟩, .lane 9, .lane 20, .lane 11, 13, 4⟩)
      ∧ decode 0x6C00600241400350 = .ok (.coll ⟨⟨0, false⟩, .lane 9, .lane 20, .lane 0, 13, 4⟩)
      ∧ decode 0x6C00610241400350 = .ok (.arm ⟨⟨0, false⟩, .lane 9, .lane 20, .lane 0, 13, 4⟩)
      ∧ decode 0x6C00620241400350 = .ok (.cntrd ⟨⟨0, false⟩, .lane 9, .lane 20, .lane 0, 13, 4⟩)
      ∧ decode 0x6C00630241400350 = .ok (.cntadd ⟨⟨0, false⟩, .lane 9, .lane 20, .lane 0, 13, 4⟩)
      ∧ decode 0x6C00640241400350 = .ok (.disarm ⟨⟨0, false⟩, .lane 9, .lane 20, .lane 0, 13, 4⟩) := by
  decide

theorem test_decode_system :
    decode 0x700000000A0000FF = .ok (.trap ⟨⟨0, false⟩, .lane 10, 0xFF⟩)
      ∧ decode 0x708000000A000001 = .ok (.bkpt ⟨⟨0, false⟩, .lane 10, 1⟩)
      ∧ decode 0x7100002400000003 = .ok (.sysrd ⟨⟨0, false⟩, .lane 9, 0x003⟩)
      ∧ decode 0x718000000A000002 = .ok (.syswr ⟨⟨0, false⟩, .lane 10, 0x002⟩)
      ∧ decode 0x7200000000000000 = .ok (.eret ⟨0, false⟩)
      ∧ decode 0x7280010240A00000 = .ok (.grpsel ⟨⟨0, false⟩, true, .lane 9, .lane 10⟩)
      ∧ decode 0x7300000240A02C00 = .ok (.grprd ⟨⟨0, false⟩, .lane 9, .lane 10, .lane 11⟩)
      ∧ decode 0x7380000000A02C0C = .ok (.grpwr ⟨⟨0, false⟩, .lane 10, .lane 11, .lane 12⟩)
      ∧ decode 0x7400010000000000 = .ok (.grpres ⟨⟨0, false⟩, true⟩)
      ∧ decode 0x7480000000A00000 = .ok (.tlbinv ⟨⟨0, false⟩, false, .lane 0, .lane 10⟩)
      ∧ decode 0x7500000A00000000 = .ok (.halt ⟨⟨0, false⟩, .lane 10⟩) := by
  decide

theorem test_decode_paired_1 :
    decode 0x800000005A43000A = .ok (.pairNop ⟨false, 0, 0, 0, 0⟩ ⟨.movi, ⟨true, 1, 6, 0, 5⟩⟩)
      ∧ decode 0x824204805A43000A = .ok (.pairMov ⟨false, 2, 8, 9, 0⟩ ⟨.movi, ⟨true, 1, 6, 0, 5⟩⟩)
      ∧ decode 0x844204805A43000A = .ok (.pairAdd ⟨false, 2, 8, 9, 0⟩ ⟨.movi, ⟨true, 1, 6, 0, 5⟩⟩)
      ∧ decode 0x864200415A43000A = .ok (.pairAddi ⟨false, 2, 8, 0, 65⟩ ⟨.movi, ⟨true, 1, 6, 0, 5⟩⟩)
      ∧ decode 0x884204805A43000A = .ok (.pairSub ⟨false, 2, 8, 9, 0⟩ ⟨.movi, ⟨true, 1, 6, 0, 5⟩⟩)
      ∧ decode 0x8A4204805A43000A = .ok (.pairAnd ⟨false, 2, 8, 9, 0⟩ ⟨.movi, ⟨true, 1, 6, 0, 5⟩⟩)
      ∧ decode 0x8C4204805A43000A = .ok (.pairOr ⟨false, 2, 8, 9, 0⟩ ⟨.movi, ⟨true, 1, 6, 0, 5⟩⟩)
      ∧ decode 0x8E4204805A43000A = .ok (.pairXor ⟨false, 2, 8, 9, 0⟩ ⟨.movi, ⟨true, 1, 6, 0, 5⟩⟩)
      ∧ decode 0x904200415A43000A = .ok (.pairShli ⟨false, 2, 8, 0, 65⟩ ⟨.movi, ⟨true, 1, 6, 0, 5⟩⟩)
      ∧ decode 0x924200415A43000A = .ok (.pairShri ⟨false, 2, 8, 0, 65⟩ ⟨.movi, ⟨true, 1, 6, 0, 5⟩⟩)
      ∧ decode 0x944200415A43000A = .ok (.pairSari ⟨false, 2, 8, 0, 65⟩ ⟨.movi, ⟨true, 1, 6, 0, 5⟩⟩)
      ∧ decode 0x964204805A43000A = .ok (.pairMin ⟨false, 2, 8, 9, 0⟩ ⟨.movi, ⟨true, 1, 6, 0, 5⟩⟩)
      ∧ decode 0x984204805A43000A = .ok (.pairMax ⟨false, 2, 8, 9, 0⟩ ⟨.movi, ⟨true, 1, 6, 0, 5⟩⟩)
      ∧ decode 0x9A4204805A43000A = .ok (.pairMul ⟨false, 2, 8, 9, 0⟩ ⟨.movi, ⟨true, 1, 6, 0, 5⟩⟩)
      ∧ decode 0x9C4204805A43000A = .ok (.pairFaddF32 ⟨false, 2, 8, 9, 0⟩ ⟨.movi, ⟨true, 1, 6, 0, 5⟩⟩)
      ∧ decode 0x9E4204805A43000A = .ok (.pairFmulF32 ⟨false, 2, 8, 9, 0⟩ ⟨.movi, ⟨true, 1, 6, 0, 5⟩⟩) := by
  decide

theorem test_decode_paired_2 :
    decode 0xA04204805A43000A = .ok (.pairFaddF64 ⟨false, 2, 8, 9, 0⟩ ⟨.movi, ⟨true, 1, 6, 0, 5⟩⟩)
      ∧ decode 0xA24204805A43000A = .ok (.pairFmulF64 ⟨false, 2, 8, 9, 0⟩ ⟨.movi, ⟨true, 1, 6, 0, 5⟩⟩)
      ∧ decode 0xA44204805A43000A = .ok (.pairFminF64 ⟨false, 2, 8, 9, 0⟩ ⟨.movi, ⟨true, 1, 6, 0, 5⟩⟩)
      ∧ decode 0xA64204805A43000A = .ok (.pairFmaxF64 ⟨false, 2, 8, 9, 0⟩ ⟨.movi, ⟨true, 1, 6, 0, 5⟩⟩)
      ∧ decode 0xA84204805A43000A = .ok (.pairFminF32 ⟨false, 2, 8, 9, 0⟩ ⟨.movi, ⟨true, 1, 6, 0, 5⟩⟩)
      ∧ decode 0xAA4204805A43000A = .ok (.pairFmaxF32 ⟨false, 2, 8, 9, 0⟩ ⟨.movi, ⟨true, 1, 6, 0, 5⟩⟩)
      ∧ decode 0xAC4200415A43000A = .ok (.pairMovi ⟨false, 2, 8, 0, 65⟩ ⟨.movi, ⟨true, 1, 6, 0, 5⟩⟩) := by
  decide


/-! ### Witnesses: the hypotheses of each statement can be met -/

theorem witness_DecodeEncode : Instr.wf (.pairAddi ⟨true, 7, 127, 0, 0x7F⟩ ⟨.movi, ⟨false, 1, 0, 0, 0x40⟩⟩) = true
    ∧ (encode (.pairAddi ⟨true, 7, 127, 0, 0x7F⟩ ⟨.movi, ⟨false, 1, 0, 0, 0x40⟩⟩)).isSome = true := by decide

/-- A word placed where the next step fetches. -/
def loaded : State := State.reset.load (wordBytes 0x6480000000000000)
def loaded0 : State := State.queued { loaded with agenda := [], tick := loaded.tick + 1 } 0
def loaded1 : State := loaded0.prepare 0 0 0
def loadedCur : Cur := ⟨0, 0, 0, 0x10000, [0]⟩
def loaded2 : State := loaded1.given 0 0 ((loaded1.block? 0 0).getD (loadedBlock 0))
  ((candidate loaded1 0 0 0).getD (loadedBlock 0, loadedCur)).1 loadedCur

theorem witness_StepRunsDecodedWord : loaded.agenda = [.issue 0 0] ∧ loaded0.coreStalled 0 = false
    ∧ (slotOrder loaded0 0 0).take 2 = [16, 0] ∧ loaded0.block? 0 16 = none ∧ loaded1.coreStalled 0 = false
    ∧ (candidate loaded1 0 0 0).map (fun c => c.2) = some loadedCur ∧ (loaded1.block? 0 0).isSome = true
    ∧ decode 0x6480000000000000 = .ok (.nop .always)
    ∧ (match fetch loaded2 loadedCur with
      | .word w x => w == 0x6480000000000000 && shadowFits (loaded2.noteFetch loadedCur x) 0 (shadowKeys (loaded2.noteFetch loadedCur x) w)
        && (match exec (.nop .always) (loaded2.noteFetch loadedCur x) with
          | .next t => t.cur.isSome
          | _ => false)
      | _ => false) = true := by
  exact ⟨by decide, by decide, by decide, by decide, by decide, by decide, by decide, by decide, by decide +kernel⟩

theorem witness_StepKeepsMemoryOk : ∃ s t : State, MemoryOk s ∧ step s = .next t :=
  ⟨{ State.reset with agenda := [.tick 1] }, _, rfl, rfl⟩

/-- The integer form of the witnesses. -/
def f3 : Int3 := ⟨.always, ⟨.w64, true, false⟩, .lane 9, .lane 10, .lane 11⟩

theorem witness_IntegerWords : (intEffect (.add f3)).isSome = true ∧ Runs (.add f3) one (siteAt (.add f3) one)
    ∧ ((one.launchOf (siteAt (.add f3) one).b).race = false) :=
  ⟨rfl, runs_of_runsAt (by decide), by decide⟩

theorem witness_DivisionRounds : f3.m.sat = false ∧ f3.m.sg = true ∧ Runs (.div f3) one (siteAt (.div f3) one)
    ∧ Runs (.rem f3) one (siteAt (.rem f3) one) :=
  ⟨rfl, rfl, runs_of_runsAt (by decide), runs_of_runsAt (by decide)⟩

/-- The float form of the witnesses. -/
def g3 : Flt3 := ⟨.always, ⟨.f64, .dyn, false⟩, .lane 9, .lane 10, .lane 11⟩

theorem witness_FloatWords : (floatDest (.fadd g3)).isSome = true ∧ Runs (.fadd g3) one (siteAt (.fadd g3) one)
    ∧ (one.launchOf (siteAt (.fadd g3) one).b).race = false :=
  ⟨rfl, runs_of_runsAt (by decide), by decide⟩

theorem witness_RoundedResults : (roundedElem (.fadd g3)).isSome = true ∧ Runs (.fadd g3) one (siteAt (.fadd g3) one) :=
  ⟨rfl, runs_of_runsAt (by decide)⟩

def g4 : Flt4 := ⟨.always, ⟨.f32x2, .rne, true⟩, .lane 9, .lane 10, .lane 11, .lane 12⟩
def pk : PackF := ⟨.always, true, .lane 9, .lane 10, .lane 11⟩

theorem witness_TwosumAndPack : Runs (.twosum g4) one (siteAt (.twosum g4) one) ∧ Runs (.pack pk) one (siteAt (.pack pk) one)
    ∧ (one.launchOf (siteAt (.pack pk) one).b).race = false :=
  ⟨runs_of_runsAt (by decide), runs_of_runsAt (by decide), by decide⟩

def pairW : Instr := .pairAdd ⟨false, 0, 8, 9, 0⟩ ⟨.movi, ⟨false, 0, 13, 0, 0x7D⟩⟩

theorem witness_PairedWords : (pairHalves pairW).isSome = true
    ∧ RunsFor (wordOf pairW) (pairActive (wordOf pairW)) one (siteOf (pairActive (wordOf pairW)) one)
    ∧ (one.launchOf (siteOf (pairActive (wordOf pairW)) one).b).race = false := by
  unfold RunsFor; decide

theorem witness_InactiveWordPasses : one.site? (fun _ => false) = some (siteOf (fun _ => false) one)
    ∧ (siteOf (fun _ => false) one).act = [] := by decide

theorem witness_IllegalAndPrivilegedWords :
    (one.site? (fun _ => true) = some (siteOf (fun _ => true) one) ∧ (siteOf (fun _ => true) one).act ≠ []
      ∧ illegal (siteOf (fun _ => true) one).t.lanes 0x7FFFFFFFFFFFFFFF = some .badOpcode)
    ∧ (illegal (siteOf (fun _ => true) one).t.lanes 0x7200000000000000 = none
      ∧ sysValueBad one (siteOf (fun _ => true) one) 0x7200000000000000 = false ∧ privileged 0x7200000000000000 = true
      ∧ (siteOf (fun _ => true) one).cur.slot ≠ handlerSlot)
    ∧ (illegal (siteOf (fun _ => true) (State.lanes one [(9, 10)])).t.lanes (wordOf (.syswr ⟨.always, .lane 9, 0x10F⟩)) = none
      ∧ (siteOf (fun _ => true) (State.lanes one [(9, 10)])).act ≠ []
      ∧ sysValueBad (State.lanes one [(9, 10)]) (siteOf (fun _ => true) (State.lanes one [(9, 10)]))
        (wordOf (.syswr ⟨.always, .lane 9, 0x10F⟩)) = true) := by decide

/-- The context has a handler. -/
def handled : State := one.updCtx 0 (fun x => { x with handler := 0x20000 })

theorem witness_FaultEntersHandler : (handled.core 0).chunk.fresh = true ∧ loadedCur.slot ≠ handlerSlot
    ∧ (handled.block? 0 0).isSome = true ∧ (handled.core 0).arch.serving = none ∧ (handled.core 0).arch.faultq = []
    ∧ (handled.ctx 0).mode.getLsbD 2 = false ∧ (handled.ctx 0).handler ≠ 0
    ∧ (∀ b, handled.block? 0 0 = some b → handled.ctxOf b = 0)
    ∧ (∃ th, handled.thread? 0 0 0 = some th ∧ loadedCur.tids.contains 0 = true ∧ th.exited = false) := by
  refine ⟨by decide, by decide, by decide, by decide, by decide, by decide, by decide, ?_, _, rfl, by decide, by decide⟩
  intro b h; cases h; decide

def mv (d : Operand) (rd acc : Bool) : MovF := ⟨.always, .w64, false, rd, acc, .addN64, d, .lane 10⟩
/-- Two threads of one block whose lane register 10 differs. -/
def two : State := State.pair one 10 5

/-- A tree of `n` threads in a block bound to CORE, whose level 2 is bound to PACKAGE, with the home slice of its one node. -/
def highTree (n : Nat) (s : State) : State := State.launch s (fun l => { l with
  tree := ⟨3, 16, 0, 0, [⟨.core, n, 32, 8, 0⟩, ⟨.package, 1, 4, 0, 256⟩]⟩, nodes := [(highKey 2 0, ⟨0, 0x1000, 512, Bar.new⟩)] })
/-- The launch runs under EXACT. -/
def exact1 (s : State) : State := State.launch s (fun l => { l with det := 2 })

/-- The premises of an upward write in the block. -/
def movsIn (f : MovF) (s : State) : Bool :=
  let e := siteAt (.mov f) s
  (f.rd || (movNodes s e f 1).all (fun n => (disagreeing n.2).isEmpty)) && storesFit s e [] && decide (1 ≤ e.t.blockLvl)
    && !(s.launchOf e.b).race && decide (e.b.threads.map (fun th => th.ltid)).Nodup
/-- The premises of an upward write above the block. -/
def movsAbove (f : MovF) (i : Nat) (s : State) : Bool :=
  let e := siteAt (.mov f) s
  (f.rd || (disagreeing (e.act.map (fun th => (th, movVal s e th f)))).isEmpty) && (!f.acc || (scopedErr s e f.d).isNone)
    && storesFit s e (movCells s e f 2 i) && decide (e.t.blockLvl < 2) && decide (e.cur.slot ≠ handlerSlot)
    && decide (homeKey (s.launchOf e.b) e.b.lin 2 i = some (sliceKey (0x1000 + 8 * i))) && !(s.launchOf e.b).race
    && decide (e.b.threads.map (fun th => th.ltid)).Nodup

/-- The two threads of a block below a node of level 2. -/
def high2 : State := highTree 2 two

theorem witness_MovWrites :
    (Runs (.mov (mv (.lane 9) false false)) one (siteAt (.mov (mv (.lane 9) false false)) one))
    ∧ ((Runs (.mov (mv (.scoped 1 31) true true)) two (siteAt (.mov (mv (.scoped 1 31) true true)) two)
        ∧ movsIn (mv (.scoped 1 31) true true) two = true)
      ∧ (Runs (.mov (mv (.scoped 1 0) false false)) one (siteAt (.mov (mv (.scoped 1 0) false false)) one)
        ∧ movsIn (mv (.scoped 1 0) false false) one = true))
    ∧ ((Runs (.mov (mv (.scoped 2 3) true true)) high2 (siteAt (.mov (mv (.scoped 2 3) true true)) high2)
        ∧ movsAbove (mv (.scoped 2 3) true true) 3 high2 = true)
      ∧ (Runs (.mov (mv (.scoped 2 0) true false)) high2 (siteAt (.mov (mv (.scoped 2 0) true false)) high2)
        ∧ movsAbove (mv (.scoped 2 0) true false) 0 high2 = true)
      ∧ (Runs (.mov (mv (.scoped 2 0) false false)) (highTree 1 one) (siteAt (.mov (mv (.scoped 2 0) false false)) (highTree 1 one))
        ∧ movsAbove (mv (.scoped 2 0) false false) 0 (highTree 1 one) = true)
      ∧ (Runs (.mov (mv (.scoped 2 3) true true)) (exact1 high2) (siteAt (.mov (mv (.scoped 2 3) true true)) (exact1 high2))
        ∧ movsAbove (mv (.scoped 2 3) true true) 3 (exact1 high2) = true
        ∧ (exact1 high2).isExact 0 (siteAt (.mov (mv (.scoped 2 3) true true)) (exact1 high2)).b = true))
    ∧ (Runs (.mov (mv (.scoped 1 31) false false)) two (siteAt (.mov (mv (.scoped 1 31) false false)) two)
      ∧ ((movNodes two (siteAt (.mov (mv (.scoped 1 31) false false)) two) (mv (.scoped 1 31) false false) 1).filter
        (fun n => !(disagreeing n.2).isEmpty)).length = 1) :=
  ⟨runs_of_runsAt (by decide), ⟨⟨runs_of_runsAt (by decide), by decide⟩, runs_of_runsAt (by decide), by decide⟩,
    ⟨⟨runs_of_runsAt (by decide), by decide⟩, ⟨runs_of_runsAt (by decide), by decide⟩, ⟨runs_of_runsAt (by decide), by decide⟩,
      runs_of_runsAt (by decide), by decide, by decide⟩, runs_of_runsAt (by decide), by decide⟩

theorem witness_BraGoes : Runs (.bra ⟨.always, 0x80000000⟩) one (siteAt (.bra ⟨.always, 0x80000000⟩) one)
    ∧ (one.launchOf (siteAt (.bra ⟨.always, 0x80000000⟩) one).b).race = false := ⟨runs_of_runsAt (by decide), by decide⟩

def bruW : CtlF := ⟨.always, false, .pred 4, 16⟩
/-- Two threads whose predicate 4 differs. -/
def twoP : State := State.threads two (fun th => th.setPred 4 (th.ltid == 1))

theorem witness_BruGoes :
    (Runs (.bru bruW) two (siteAt (.bru bruW) two) ∧ ∀ th ∈ (siteAt (.bru bruW) two).act,
      ((siteAt (.bru bruW) two).read two th (.pred 4) != 0) = ((siteAt (.bru bruW) two).read two (siteAt (.bru bruW) two).ref (.pred 4) != 0))
    ∧ (Runs (.bru bruW) twoP (siteAt (.bru bruW) twoP) ∧ ∃ th ∈ (siteAt (.bru bruW) twoP).act,
      ((siteAt (.bru bruW) twoP).read twoP th (.pred 4) != 0)
        ≠ ((siteAt (.bru bruW) twoP).read twoP (siteAt (.bru bruW) twoP).ref (.pred 4) != 0)) :=
  ⟨⟨runs_of_runsAt (by decide), by decide⟩, runs_of_runsAt (by decide), by decide⟩

def jmpW : CtlF := ⟨.always, false, .lane 10, 24⟩
def targets (s : State) (f : CtlF) : List Word :=
  (siteAt (.jmp f) s).act.map (fun th => (siteAt (.jmp f) s).read s th f.a + f.off.signExtend 64)

theorem witness_JumpsGo :
    (jumpForm (.jmp jmpW)).isSome = true
    ∧ (Runs (.jmp jmpW) one (siteAt (.jmp jmpW) one) ∧ targets one jmpW = [24])
    ∧ (Runs (.jmp jmpW) (State.lanes one [(10, 4)]) (siteAt (.jmp jmpW) (State.lanes one [(10, 4)]))
      ∧ targets (State.lanes one [(10, 4)]) jmpW = [28])
    ∧ (Runs (.jmp jmpW) two (siteAt (.jmp jmpW) two) ∧ targets two jmpW = [24, 29])
    ∧ Runs (.call jmpW) one (siteAt (.call jmpW) one) ∧ Runs (.pcget jmpW) one (siteAt (.pcget jmpW) one)
    ∧ Runs (.nop .always) one (siteAt (.nop .always) one) :=
  ⟨rfl, ⟨runs_of_runsAt (by decide), by decide⟩, ⟨runs_of_runsAt (by decide), by decide⟩,
    ⟨runs_of_runsAt (by decide), by decide⟩, runs_of_runsAt (by decide), runs_of_runsAt (by decide), runs_of_runsAt (by decide)⟩

def cosW : One := ⟨.always, .lane 124⟩
def badTarget : State := State.lanes one [(124, 4)]

theorem witness_CoswapExchanges :
    (Runs (.coswap cosW) one (siteAt (.coswap cosW) one) ∧ ∀ th ∈ (siteAt (.coswap cosW) one).act, th.lane 124 &&& 7 = 0)
    ∧ (Runs (.coswap cosW) badTarget (siteAt (.coswap cosW) badTarget)
      ∧ (siteAt (.coswap cosW) badTarget).act.filter (fun th => th.lane 124 &&& 7 != 0) ≠ []) :=
  ⟨⟨runs_of_runsAt (by decide), by decide⟩, runs_of_runsAt (by decide), by decide⟩

/-- One of the two threads is active, so that the block keeps a thread. -/
def exitF : Guard := ⟨4, false⟩
theorem witness_ExitEndsThreads : Runs (.exit .always) two (siteAt (.exit .always) two)
    ∧ two.isExact 0 (siteAt (.exit .always) two).b = false
    ∧ (Runs (.exit .always) (exact1 two) (siteAt (.exit .always) (exact1 two))
      ∧ (exact1 two).isExact 0 (siteAt (.exit .always) (exact1 two)).b = true)
    ∧ (two.block? 0 0).isSome = true
    ∧ ((∃ u ∈ [3, 4], u ∈ [4]) ∧ ∀ u ∈ [3], u ∉ [4])
    ∧ (Runs (.exit exitF) twoP (siteAt (.exit exitF) twoP) ∧ (siteAt (.exit exitF) twoP).act.length = 1
      ∧ (next (exec (.exit exitF) twoP)).allExited 0 0 = false
      ∧ ∀ x ∈ (next (exec (.exit exitF) twoP)).blocksOf 0, (next (exec (.exit exitF) twoP)).memberGroup x.1 x.2.1 x.2.2 = none) :=
  ⟨runs_of_runsAt (by decide), by decide, ⟨runs_of_runsAt (by decide), by decide⟩, by decide, by decide, runs_of_runsAt (by decide),
    by decide, by decide, by decide⟩

theorem witness_YieldOpensWindow : Runs (.yield .always) two (siteAt (.yield .always) two)
    ∧ (siteAt (.yield .always) two).cur.quad < (siteAt (.yield .always) two).b.fair.length := ⟨runs_of_runsAt (by decide), by decide⟩

/-! #### Rendezvous -/

def elect (l : BitVec 4) : Instr := .elect ⟨.always, l, 0, .lane 9, .lane 0, .lane 0, 0⟩
/-- Both threads parked at an ELECT of level 1. -/
def parked2 : State := State.threads two (fun th => { th with wait := .parked (elect 1) true 0 0 })

theorem witness_RendezvousArrives :
    (isRendezvous (elect 0) = true ∧ rendLvl (elect 0) = 0 ∧ Runs (elect 0) one (siteAt (elect 0) one)
      ∧ (one.launchOf (siteAt (elect 0) one).b).race = false)
    ∧ (isRendezvous (elect 1) = true ∧ rendLvl (elect 1) ≠ 0 ∧ Runs (elect 1) two (siteAt (elect 1) two)
      ∧ ((siteAt (elect 1) two).t.bind (rendLvl (elect 1))).code < 4
      ∧ (two.launchOf (siteAt (elect 1) two).b).race = false)
    ∧ (rendLvl (elect 1) ≤ (siteAt (elect 1) two).t.blockLvl ∧ ((siteAt (elect 1) two).b.threads.map (fun th => th.ltid)).Nodup
      ∧ ∃ m ∈ (siteAt (elect 1) two).mem, (∀ th ∈ (siteAt (elect 1) two).mem, th.pc = m.pc)
        ∧ (∀ th ∈ (siteAt (elect 1) two).b.threads, th.live = true → (siteAt (elect 1) two).node th 1 = (siteAt (elect 1) two).node m 1 →
          th ∈ (siteAt (elect 1) two).mem ∨ (th.parkedAt = some (elect 1) ∧ th.pc = m.pc))
        ∧ ∀ x ∈ (rendArrived two (siteAt (elect 1) two) (elect 1)).blocksOf (siteAt (elect 1) two).b.launch,
          (rendArrived two (siteAt (elect 1) two) (elect 1)).memberGroup x.1 x.2.1 x.2.2 = none)
    ∧ (aloneEffect (elect 0)).isSome = true :=
  ⟨⟨rfl, rfl, runs_of_runsAt (by decide), by decide⟩, ⟨rfl, by decide, runs_of_runsAt (by decide), by decide, by decide⟩,
    by decide, rfl⟩

theorem witness_RendezvousCompletes : (parked2.block? 0 0).isSome = true
    ∧ (parked2.parties? 0 0 1).map (fun p => (p.1, p.2.2.length, decide (rendLvl p.1 ≤ p.2.1.blockLvl))) = some (elect 1, 2, true) := by
  decide

def party (r : Nat) (a : Word) : Party := ⟨0, 0, { handlerThread 0 with ltid := r }, r, true, a, 0⟩

theorem witness_RankedResults : party 1 7 ∈ [party 0 7, party 1 7] ∧ (party 1 7).act = true
    ∧ (party 1 7).rank / 64 = (0 : BitVec 6).toNat
    ∧ (∀ q ∈ [party 0 7, party 1 7], ∀ r ∈ [party 0 7, party 1 7], q.act = true → r.act = true → q.rank = r.rank → q = r)
    ∧ (shflNames 0 { party 1 7 with b := 0 } 0 ∧ (party 0 7).rank < 2 ∧ ¬ shflNames 1 (party 0 7) 1)
    ∧ (lshiftNames true 1 (party 0 7) 1 ∧ ∀ q ∈ [party 0 7, party 1 7], ¬ lshiftNames false 2 (party 1 7) q.rank)
    ∧ redFmt .addN64 = none ∧ (31 : Nat) + 1 < 2 ^ 32 := by
  exact ⟨by decide, by decide, by decide, by decide, ⟨by simp [shflNames], by decide, by simp [shflNames, party]⟩,
    ⟨by simp [lshiftNames, party], by simp [lshiftNames, party]⟩, by decide, by decide⟩

/-! #### Memory -/

/-- Lane register 10 holds an address of the mapped page, 11 a value. -/
def mem1 : State := State.lanes one [(10, 0x10100), (11, 0x1122334455667788)]
/-- Both threads store to one address. -/
def mem2 : State := State.pair mem1 11 9

def ldW : Instr := .ld ⟨.always, .b64, false, 0, .lane 9, .lane 10, 0xFFFF8⟩
def lrW : Instr := .lr ⟨.always, .b32, true, 0, .lane 9, .lane 10, 4⟩
def ldpW : Instr := .ldp ⟨.always, 0, .lane 126, .lane 10, 16⟩
def stW : Instr := .st ⟨.always, .b16, 0, .lane 11, .lane 10, 2⟩
def stpW : Instr := .stp ⟨.always, 0, .lane 10, .lane 10, 0⟩

/-- A group whose loads pass their checks. -/
def loads (i : Instr) (s : State) : Bool :=
  match loadShape i with
  | some l => passes s (siteAt i s) (reqAt s (siteAt i s) l.a l.off l.n .read l.use)
  | none => false

/-- A group whose stores pass their checks and fit. -/
def stores (i : Instr) (s : State) : Bool :=
  match storeShape i with
  | some l =>
    let req := reqAt s (siteAt i s) l.a l.off l.n .write .plain
    passes s (siteAt i s) req && storesFit s (siteAt i s) (committedCells (passRs s (siteAt i s) req) l.n) && (s.winBlock? 0 0).isSome
  | none => false

/-- The accesses of the load of `mem2`. -/
def ldAccs : List Acc := passRs mem2 (siteAt ldW mem2) (reqAt mem2 (siteAt ldW mem2) (.lane 10) 0xFFFF8 8 .read .plain)

/-- The page is a RELEASE page. -/
def release1 (s : State) : State := s.updCore 0 (fun k => { k with tlb := k.tlb.map (fun e => { e with kind := 1 }) })
/-- The accesses of the LDP. -/
def ldpAccs (s : State) : List Acc := passRs s (siteAt ldpW s) (reqAt s (siteAt ldpW s) (.lane 10) 16 16 .read .plain)
/-- The thread has read the upper half. -/
def halfRead : State := State.threads (release1 mem1) (fun th => { th with kept := some (0x10000, true, 5) })

/-- No entry in use stands at or above the words that the access reads. -/
def entriesBelow (rs : List Acc) (r : Acc) : Bool :=
  rs.all (fun q => q.2.2.all (fun t => match t with
    | .main x => decide (x.ptr + 8 ≤ (accTarget r).key / 8 * 8)
    | _ => true))

theorem wordsFree_of {rs : List Acc} {r : Acc} {n : Nat} (h : entriesBelow rs r = true) : WordsFree rs r n := by
  intro a h1 _ q hq x hx
  simp only [entriesBelow, List.all_eq_true] at h
  have := h q hq _ hx
  simp only [decide_eq_true_eq] at this
  omega

theorem witness_LoadWords :
    (Runs ldW mem2 (siteAt ldW mem2) ∧ loads ldW mem2 = true) ∧ (Runs lrW mem1 (siteAt lrW mem1) ∧ loads lrW mem1 = true)
    ∧ (Runs ldpW mem1 (siteAt ldpW mem1) ∧ loads ldpW mem1 = true) ∧ (mem2.launchOf (siteAt ldW mem2).b).race = false
    ∧ (ldAccs.length = 2 ∧ ∀ r ∈ ldAccs, WordsFree ldAccs r 8)
    ∧ ((ldpAccs mem1).any halfDue = false ∧ (Runs ldpW (release1 mem1) (siteAt ldpW (release1 mem1)) ∧ loads ldpW (release1 mem1) = true
        ∧ (ldpAccs (release1 mem1)).any halfDue = true)
      ∧ (Runs ldpW halfRead (siteAt ldpW halfRead) ∧ loads ldpW halfRead = true ∧ (ldpAccs halfRead).any halfDue = false)) :=
  ⟨⟨runs_of_runsAt (by decide), by decide⟩, ⟨runs_of_runsAt (by decide), by decide⟩,
    ⟨runs_of_runsAt (by decide), by decide⟩, by decide, ⟨by decide, fun r hr => wordsFree_of (by revert r; decide)⟩,
    by decide, ⟨runs_of_runsAt (by decide), by decide, by decide⟩, runs_of_runsAt (by decide), by decide, by decide⟩

theorem witness_StoreWords :
    (Runs stW mem2 (siteAt stW mem2) ∧ stW.wf = true ∧ stores stW mem2 = true)
    ∧ (Runs stpW mem1 (siteAt stpW mem1) ∧ stpW.wf = true ∧ stores stpW mem1 = true) :=
  ⟨⟨runs_of_runsAt (by decide), by decide, by decide⟩, runs_of_runsAt (by decide), by decide, by decide⟩

def scF : ScF := ⟨.always, true, 0, .lane 9, .lane 10, .lane 11⟩
def scW : Instr := .sc scF
/-- The thread holds a reservation on the unit. -/
def resv1 : State := State.threads mem1 (fun th => { th with resv := some (0x10100, 8) })
def scReq (s : State) (th : Thread) : List Req := [⟨(siteAt scW s).read s th scF.a, 8, 8, .write, .committed⟩]
def scAccs (s : State) : List Acc := passRs s (siteAt scW s) (scReq s)

theorem witness_StoreConditional :
    Runs scW resv1 (siteAt scW resv1) ∧ (resv1.launchOf (siteAt scW resv1).b).race = false
    ∧ ((siteAt scW resv1).b.threads.map (fun th => th.ltid)).Nodup
    ∧ passes resv1 (siteAt scW resv1) (scReq resv1) = true
    ∧ storesFit resv1 (siteAt scW resv1) (committedCells (scAccs resv1) 8) = true ∧ (resv1.winBlock? 0 0).isSome = true
    ∧ (∃ r ∈ scAccs resv1, (resv1.thread? 0 0 r.1.ltid).map (fun th => th.resv) = some (some ((accTarget r).key, 8))
      ∧ ∀ q ∈ scAccs resv1, q.1.ltid = r.1.ltid)
    ∧ (∃ r ∈ scAccs mem1, (mem1.thread? 0 0 r.1.ltid).map (fun th => th.resv) = some none) := by
  exact ⟨runs_of_runsAt (by decide), by decide, by decide, by decide, by decide, by decide, by decide, by decide⟩

def atomF (d : Operand) : AtomF := ⟨.always, true, 0, d, .lane 10, .lane 11, .lane 0⟩
def atomReq (f : AtomF) (s : State) (th : Thread) : List Req := [⟨(siteAt (.atom f) s).read s th f.a, 8, 8, .atomic, .plain⟩]
def atomAccs (f : AtomF) (s : State) : List Acc := passRs s (siteAt (.atom f) s) (atomReq f s)
/-- A replying ATOM, and one without a reply. -/
def atomR : AtomF := atomF (.lane 9)
def atomN : AtomF := atomF (.special 63)
/-- The premises of an ATOM that acts now. -/
def AtomRuns (f : AtomF) (s : State) : Prop := Runs (.atom f) s (siteAt (.atom f) s)
  ∧ Passes s (siteAt (.atom f) s) (atomReq f s) (atomAccs f s) ∧ AtomNow s (siteAt (.atom f) s) f (atomAccs f s)

theorem atomRuns_of {f : AtomF} {s : State} (h : runsAt (.atom f) s = true) (p : passes s (siteAt (.atom f) s) (atomReq f s) = true)
    (n : AtomNow s (siteAt (.atom f) s) f (atomAccs f s)) : AtomRuns f s := ⟨runs_of_runsAt h, passes_of p, n⟩

theorem witness_AtomWords :
    (AtomRuns atomR mem2 ∧ (atomAccs atomR mem2).length = 2 ∧ (∀ r ∈ atomAccs atomR mem2, (accTarget r).kind = 0)
      ∧ (mem2.launchOf (siteAt (.atom atomR) mem2).b).race = false)
    ∧ (atomJobs mem2 (siteAt (.atom atomR) mem2) atomR (atomAccs atomR mem2)).map
      (fun j => ((accTarget j.acc).kind, (accTarget j.acc).key, j.xs.length)) = [(0, 0x10100, 2)]
    ∧ (atomJobs mem2 (siteAt (.atom atomR) mem2) atomR (atomAccs atomR mem2)).all (fun j => match accTarget j.acc with
        | .main x => decide (x.ptr + 8 ≤ 0x10100)
        | _ => false) = true
    ∧ ((mem2.block? 0 0).isSome = true ∧ (mem2.winBlock? 0 0).isSome = true
      ∧ (mem2.isExact 0 (siteAt (.atom atomR) mem2).b && !AtomF.replies atomR) = false)
    ∧ (AtomRuns atomN (release1 mem1) ∧ AtomRuns atomR (release1 mem1) ∧ AtomRuns atomN (exact1 mem1) ∧ AtomRuns atomR (exact1 mem1)) := by
  refine ⟨⟨atomRuns_of (by decide) (by decide) ?_, by decide, by decide, by decide⟩, by decide, by decide, by decide,
    atomRuns_of (by decide) (by decide) ?_, atomRuns_of (by decide) (by decide) ?_, atomRuns_of (by decide) (by decide) ?_,
    atomRuns_of (by decide) (by decide) ?_⟩
  all_goals (unfold AtomNow; decide)

def fenceW (l : BitVec 4) : Instr := .fence ⟨.always, l, true, true⟩
def prefF : StF := ⟨.always, .b8, 0, .lane 0, .lane 10, 0⟩
def cctlF : MemX := ⟨.always, 2, .lane 0, .lane 10, 0⟩
def high1 : State := highTree 1 mem1
def cctlReqs (th : Thread) : List Req := cctlReq (eaOf mem1 (siteAt (.cctl cctlF) mem1) th cctlF.a cctlF.off)
/-- A released store of the core, and one to the same line, issued before it, that an EXACT block of the core holds. -/
def behind (s : State) : State := { s.updArch 0 (fun a => { a with
    blocks := a.blocks ++ [(1, { loadedBlock 0 with pheld := [.store 0x10100 [1] false 3] })] }) with
  flights := [⟨0, 0, 0, .store 0x10100 [2] false 5⟩] }

theorem witness_FencePrefCctl :
    (Runs (fenceW 1) mem1 (siteAt (fenceW 1) mem1) ∧ ((siteAt (fenceW 1) mem1).t.bind 1).code < 4)
    ∧ (Runs (fenceW 2) high1 (siteAt (fenceW 2) high1) ∧ 4 ≤ ((siteAt (fenceW 2) high1).t.bind 2).code
      ∧ high1.isExact 0 (siteAt (fenceW 2) high1).b = false ∧ (high1.core 0).chunk.fresh = true
      ∧ landsBlocked high1 (fun q => q.core == 0 && !q.eff.isStream) = false)
    ∧ (Runs (fenceW 2) (behind high1) (siteAt (fenceW 2) (behind high1)) ∧ ((behind high1).core 0).chunk.fresh = true
      ∧ landsBlocked (behind high1) (fun q => q.core == 0 && !q.eff.isStream) = true)
    ∧ (Runs (.pref prefF) mem1 (siteAt (.pref prefF) mem1) ∧ mem1.badLines = []
      ∧ ∀ th ∈ (siteAt (.pref prefF) mem1).act, r107Bad (eaOf mem1 (siteAt (.pref prefF) mem1) th (.lane 10) 0) = false)
    ∧ (Runs (.cctl cctlF) mem1 (siteAt (.cctl cctlF) mem1)
      ∧ passes mem1 (siteAt (.cctl cctlF) mem1) cctlReqs = true)
    ∧ (mem1.launchOf (siteAt (fenceW 1) mem1).b).race = false ∧ (high1.launchOf (siteAt (fenceW 2) high1).b).race = false :=
  ⟨⟨runs_of_runsAt (by decide), by decide⟩, ⟨runs_of_runsAt (by decide), by decide, by decide, by decide, by decide⟩,
    ⟨runs_of_runsAt (by decide), by decide, by decide⟩, ⟨runs_of_runsAt (by decide), by decide, by decide⟩,
    ⟨runs_of_runsAt (by decide), by decide⟩, by decide, by decide⟩

def ldxF : LdxF := ⟨.always, .b64, 0, 1, .lane 11, .lane 10⟩
/-- The destination is the last eight bytes of the block's window. -/
def ldx1 : State := State.lanes one [(10, 0x10100), (11, BitVec.ofNat 64 (apertureBase + 1016))]
def ldxReq (th : Thread) : List Req :=
  [⟨(siteAt (.ldx ldxF) ldx1).read ldx1 th ldxF.a, 8, 8, .read, .ldxSrc⟩, ⟨(siteAt (.ldx ldxF) ldx1).read ldx1 th ldxF.d, 8, 8, .write, .ldxDst⟩]
/-- A transfer in flight. -/
def flying : State := one.updBlock 0 0 (fun b => { b with
  ldx := [⟨0x10100, 0, sliceKey 1016, 8, 1, 0, true, none, 0x10100, 0⟩], bars := Tab.put b.bars (nodeKey 1 0 0) { Bar.new with pending := 1 } })

theorem witness_LdxAndLanding :
    (Runs (.ldx ldxF) ldx1 (siteAt (.ldx ldxF) ldx1) ∧ (ldx1.launchOf (siteAt (.ldx ldxF) ldx1).b).race = false
      ∧ passes ldx1 (siteAt (.ldx ldxF) ldx1) ldxReq = true
      ∧ storesFit ldx1 (siteAt (.ldx ldxF) ldx1) ((passRs ldx1 (siteAt (.ldx ldxF) ldx1) ldxReq).filterMap (fun r => (r.2.2.getLast?).map (fun t => (t.key, 8)))) = true)
    ∧ (∃ b x, flying.block? 0 0 = some b ∧ b.ldx[0]? = some x ∧ x.failed = none
      ∧ linesHeld flying (flying.ctxOf b) x.src x.n = false ∧ linesHeld flying (flying.ctxOf b) x.dst x.n = false
      ∧ (flying.core 0).chunk.served ≠ some 0 ∧ lineErr flying x.src x.n = none ∧ (flying.winBlock? 0 0).isSome = true) := by
  refine ⟨⟨runs_of_runsAt (by decide), by decide, by decide, by decide⟩, _, _, rfl, rfl, rfl, by decide, by decide, by decide, by decide, by decide⟩

/-! #### Barriers, waits and chunks -/

/-- A tree whose level 1 is bound to WARP, with scoped and lehr registers, in a block bound to CORE. -/
def warpTree (s : State) : State := State.launch s (fun l => { l with
  tree := ⟨3, 16, 0, 0, [⟨.warp, 2, 4, 2, 256⟩, ⟨.core, 1, 4, 2, 256⟩]⟩ })
def warp2 : State := warpTree two
/-- Level 1 is bound to LANE. -/
def laneTree (s : State) : State := State.launch s (fun l => { l with
  tree := ⟨3, 16, 0, 0, [⟨.lane, 1, 4, 2, 256⟩, ⟨.core, 2, 4, 2, 256⟩]⟩ })
def lane2 : State := laneTree two
/-- The members stand past their phase point. -/
def acted (s : State) : State := State.threads s (fun th => { th with acted := true })

def barW (l : BitVec 4) : Instr := .bar ⟨.always, l⟩
def baraW (l : BitVec 4) : Instr := .bara ⟨.always, l, .lane 9⟩
def mbarW (l : BitVec 4) : Instr := .mbar ⟨.always, l, .lane 12⟩
def barwF (l : BitVec 4) : LvlOp := ⟨.always, l, .lane 9⟩
def quiW (l : BitVec 4) : Instr := .quiesce ⟨.always, l⟩
/-- Lane register 12 names child 0, and lane register 9 a token that is the count. -/
def masked1 : State := State.lanes (warpTree one) [(12, 1)]
/-- Lane register 9 holds another token than the count. -/
def token1 : State := State.lanes (warpTree one) [(9, 7)]

def joins (i : Instr) (l : Nat) (how : Arrival) (s : State) : Bool :=
  let e := siteAt i s
  e.act.all (fun th => !(objOf s e l th).who.contains (threadUid e.b th.ltid)
    && (failedLdx e.b l (barNode e.t l e.b th.ltid)).isNone
    && decide (memberSub e.t l e.b.lin (objOf s e l th) how (barMask i s e e.ref) th (barMask i s e th) = none))

/-- The object of the node that a group names at level 2. -/
def has2 (i : Instr) (s : State) : Prop := HasBar s (siteAt i s) 2

theorem witness_BarrierWords :
    ((Runs (barW 1) warp2 (siteAt (barW 1) warp2) ∧ joins (barW 1) 1 .plain warp2 = true)
      ∧ (Runs (baraW 2) warp2 (siteAt (baraW 2) warp2) ∧ joins (baraW 2) 2 .plain warp2 = true)
      ∧ (Runs (mbarW 2) masked1 (siteAt (mbarW 2) masked1) ∧ joins (mbarW 2) 2 .masked masked1 = true)
      ∧ (warp2.launchOf (siteAt (barW 1) warp2).b).race = false ∧ (siteAt (barW 1) warp2).t.bind 1 = .warp
      ∧ (siteAt (barW 1) warp2).t.bind 2 = .core ∧ (siteAt (barW 1) warp2).t.blockLvl = 2)
    ∧ (ActsAt warp2 (siteAt (barW 1) warp2) 1 (siteAt (barW 1) warp2)
      ∧ (Runs (barW 2) high1 (siteAt (barW 2) high1) ∧ ActsAt high1 (siteAt (barW 2) high1) 2 (siteAt (barW 2) high1)
        ∧ landsBlocked high1 (fun q => q.core == 0 && !q.eff.isStream) = false ∧ (siteAt (barW 2) high1).t.blockLvl < 2
        ∧ (high1.launchOf (siteAt (barW 2) high1).b).race = false ∧ joins (barW 2) 2 .plain high1 = true ∧ has2 (barW 2) high1)
      ∧ (Runs (barW 2) (behind high1) (siteAt (barW 2) (behind high1))
        ∧ ActsAt (behind high1) (siteAt (barW 2) (behind high1)) 2 (siteAt (barW 2) (behind high1))
        ∧ landsBlocked (behind high1) (fun q => q.core == 0 && !q.eff.isStream) = true)
      ∧ (Runs (barW 2) (acted (exact1 high1)) (siteAt (barW 2) (acted (exact1 high1)))
        ∧ ActsAt (acted (exact1 high1)) (siteAt (barW 2) (acted (exact1 high1))) 2
          ((siteAt (barW 2) (acted (exact1 high1))).restrict (fun th => th.acted || !(siteAt (barW 2) (acted (exact1 high1))).active th))))
    ∧ ((Runs (quiW 1) warp2 (siteAt (quiW 1) warp2) ∧ (siteAt (quiW 1) warp2).t.bind 1 ≠ .lane
        ∧ (warp2.core 0).chunk.fresh = true ∧ joins (quiW 1) 1 .quiesce warp2 = true ∧ HasBar warp2 (siteAt (quiW 1) warp2) 1)
      ∧ (Runs (quiW 2) high1 (siteAt (quiW 2) high1) ∧ joins (quiW 2) 2 .quiesce high1 = true ∧ has2 (quiW 2) high1)
      ∧ (Runs (quiW 1) lane2 (siteAt (quiW 1) lane2) ∧ (siteAt (quiW 1) lane2).t.bind 1 = .lane)
      ∧ lane2.isExact 0 (siteAt (quiW 1) lane2).b = false ∧ (lane2.core 0).chunk.fresh = true ∧ lane2.flights = [])
    ∧ ((Runs (.barw (barwF 1)) token1 (siteAt (.barw (barwF 1)) token1)
        ∧ ∀ th ∈ (siteAt (.barw (barwF 1)) token1).act, failedLdx (siteAt (.barw (barwF 1)) token1).b 1
          (barNode (siteAt (.barw (barwF 1)) token1).t 1 (siteAt (.barw (barwF 1)) token1).b th.ltid) = none)
      ∧ Runs (.barw (barwF 1)) (warpTree one) (siteAt (.barw (barwF 1)) (warpTree one)))
    ∧ (Runs (barW 1) lane2 (siteAt (barW 1) lane2) ∧ Runs (baraW 1) lane2 (siteAt (baraW 1) lane2)
      ∧ Runs (.barw (barwF 1)) lane2 (siteAt (.barw (barwF 1)) lane2)) := by
  refine ⟨⟨⟨runs_of_runsAt (by decide), by decide⟩, ⟨runs_of_runsAt (by decide), by decide⟩,
    ⟨runs_of_runsAt (by decide), by decide⟩, by decide, by decide, by decide, by decide⟩, ⟨?_,
    ⟨runs_of_runsAt (by decide), ?_, by decide, by decide, by decide, by decide, ?_⟩, ⟨runs_of_runsAt (by decide), ?_, by decide⟩,
    runs_of_runsAt (by decide), ?_⟩, ⟨⟨runs_of_runsAt (by decide), by decide, by decide, by decide, ?_⟩,
      ⟨runs_of_runsAt (by decide), by decide, ?_⟩, ⟨runs_of_runsAt (by decide), by decide⟩, by decide,
    by decide, by decide⟩, ⟨⟨runs_of_runsAt (by decide), by decide⟩, runs_of_runsAt (by decide)⟩, runs_of_runsAt (by decide),
    runs_of_runsAt (by decide), runs_of_runsAt (by decide)⟩
  all_goals ((try unfold ActsAt); (try unfold has2); (try unfold HasBar); decide)

/-- Both threads of a node have arrived at a barrier. -/
def arrived2 : State := (State.threads warp2 (fun th => { th with wait := .barrier 1 })).updBlock 0 0 (fun b => { b with
  bars := [(nodeKey 1 0 0, { Bar.new with arrived := 2, kind := 1, who := [0, 1] })] })

/-- The phase is a quiesce phase; `sw` accesses of the core are awaited. -/
def quiesced (sw : Option (List (Nat × Nat))) : State := arrived2.updBlock 0 0 (fun b => { b with
  bars := b.bars.map (fun x => (x.1, { x.2 with kind := 3, sweep := sw })) })
/-- The phase is ready, and its object is a quiesce phase's, which has taken `sw`. -/
def quiReady (sw : Option (List (Nat × Nat))) : Prop := ∃ b, (quiesced sw).block? 0 0 = some b ∧
  (let o := Tab.get Bar.new b.bars (nodeKey 1 (barNode ((quiesced sw).treeOf 0 b) 1 b 0) 0)
  (quiesced sw).phaseReady 0 0 b ((quiesced sw).treeOf 0 b) 1 0 o = true ∧ o.kind = 3 ∧ o.sweep = sw)

theorem witness_BarrierCompletes : (quiReady none ∧ (quiReady (some [(0, 0)]) ∧ 0 ≤ (quiesced (some [(0, 0)])).doneOf 0 0)
      ∧ (quiReady (some [(0, 1)]) ∧ ¬ 1 ≤ (quiesced (some [(0, 1)])).doneOf 0 0))
    ∧ ∃ b, arrived2.block? 0 0 = some b ∧ 1 < (arrived2.treeOf 0 b).depth
    ∧ 1 ≤ (arrived2.treeOf 0 b).blockLvl
    ∧ (let o := Tab.get Bar.new b.bars (nodeKey 1 (barNode (arrived2.treeOf 0 b) 1 b 0) 0)
      arrived2.phaseReady 0 0 b (arrived2.treeOf 0 b) 1 0 o = true ∧ o.kind ≠ 3) := by
  refine ⟨⟨⟨_, rfl, by decide⟩, ⟨⟨_, rfl, by decide⟩, by decide⟩, ⟨_, rfl, by decide⟩, by decide⟩, _, rfl, by decide, by decide, by decide,
    by decide⟩

/-- The chunk has read and written a line. -/
def touched (s : State) : State := s.updChunk 0 (fun h => { h with fresh := false, rd := [0x101], wr := [0x101], ovl := [(0x10100, 7)] })
def endedChunk : State := (touched one).updChunk 0 (fun h => { h with ended := true })
/-- A publish holds the line that the chunk has written. -/
def heldChunk : State := { endedChunk with heldLines := [0x101] }
def wantsPrio : State := { one.updCore 0 (fun k => { k with prioReq := true }) with priority := [0] }
def ceW : Instr := .chunkend .always

theorem bad_none {s : State} (h : ∀ e ∈ s.cores, e.2.chunk.bad = none) (d : Nat) : (s.core d).chunk.bad = none := by
  unfold State.core Tab.get
  revert h
  induction s.cores with
  | nil => intro _; rfl
  | cons e es ih =>
    intro h
    by_cases he : e.1 = d
    · simpa [Tab.find?, he] using h e (by simp)
    · simpa [Tab.find?, he] using ih (fun x hx => h x (by simp [hx]))

theorem witness_ChunkEnds :
    ((Runs ceW one (siteAt ceW one) ∧ one.isExact 0 (siteAt ceW one).b = false ∧ (one.core 0).chunk.suspend = [])
      ∧ (Runs ceW (acted (exact1 one)) (siteAt ceW (acted (exact1 one)))
        ∧ (acted (exact1 one)).isExact 0 (siteAt ceW (acted (exact1 one))).b = true
        ∧ ∀ th ∈ (siteAt ceW (acted (exact1 one))).act, th.acted = true))
    ∧ ((one.core 0).chunk.rd = [] ∧ (one.core 0).chunk.wr = [] ∧ commitHeld one 0 = false)
    ∧ (((touched one).core 0).chunk.wr ≠ [] ∧ commitHeld heldChunk 0 = true)
    ∧ (ldxReading one 0 = false ∧ prioElsewhere endedChunk 0 = false ∧ (endedChunk.core 0).chunk.ended = true ∧ ldxReading endedChunk 0 = false
      ∧ commitHeld endedChunk 0 = false)
    ∧ (∀ x ∈ (endedChunk.commit 0).blocksOf 0, (endedChunk.commit 0).memberGroup x.1 x.2.1 x.2.2 = none)
    ∧ (prioElsewhere wantsPrio 0 = false ∧ (wantsPrio.core 0).chunk.ended = false ∧ (wantsPrio.core 0).prioReq = true
      ∧ (wantsPrio.core 0).chunk.fresh = true ∧ (wantsPrio.core 0).chunk.prio = false ∧ wantsPrio.priority.head? = some 0)
    ∧ (((touched one).core 0).chunk.fresh = false ∧ ((touched one).core 0).chunk.ended = false)
    ∧ ((touched one).copiedOut = [] ∧ (((touched one).core 0).chunk.ovl.map (fun c => c.1)).Nodup
      ∧ ((touched one).core 0).chunk.held = [] ∧ ∀ d, ((touched one).core d).chunk.bad = none)
    ∧ (4 ≤ ((siteAt (barW 2) (touched high1)).t.bind 2).code ∧ (touched high1).isExact 0 (siteAt (barW 2) (touched high1)).b = false
      ∧ ((touched high1).core 0).chunk.fresh = false ∧ ((touched high1).core 0).chunk.suspend = []
      ∧ ((touched high1).core 0).chunk.rd ≠ [])
    ∧ ((exact1 high1).isExact 0 (siteAt (barW 2) (exact1 high1)).b = true
      ∧ ∀ th ∈ (siteAt (barW 2) (exact1 high1)).act, th.acted = false) :=
  ⟨⟨⟨runs_of_runsAt (by decide), by decide, by decide⟩, runs_of_runsAt (by decide), by decide, by decide⟩, by decide, by decide,
    by decide, by decide, by decide, by decide, ⟨by decide, by decide, by decide, bad_none (by decide)⟩, by decide, by decide⟩

def waitF : WaitF := ⟨.always, 0, true, 0, .lane 9, .lane 10, .lane 11⟩
/-- The word waited for holds 5; lane register 11 holds what is waited for. -/
def waiting (x : Word) : State := { State.lanes one [(10, 0x10100), (11, x)] with mem := [(0x10100, 5)] }
def waitRq (s : State) (th : Thread) : List Req := [⟨(siteAt (.waitseq waitF) s).read s th waitF.a, 8, 8, .read, .plain⟩]
def waitAccs (s : State) : List Acc := passRs s (siteAt (.waitseq waitF) s) (waitRq s)
/-- Whether the condition of each active thread holds. -/
def waitMet (x : Word) : List Bool :=
  let s1 := waitNoted (waiting x) (siteAt (.waitseq waitF) (waiting x)) waitF (waitAccs (waiting x))
  (waitAccs (waiting x)).map (fun r => match waitParts (.waitseq waitF) with
    | some p => p.2 (waitWord s1 (siteAt (.waitseq waitF) (waiting x)) (waitAccs (waiting x)) r.1)
      (waitArgs s1 (siteAt (.waitseq waitF) (waiting x)) waitF r.1).2
    | none => false)
/-- The thread stands at the wait. -/
def atWait (x : Word) : State := State.threads (waiting x) (fun th => { th with wait := .mem (.waitseq waitF) 0x10100 x })
/-- Whether the conditions of the threads that stand at the wait hold. -/
def waitHolds (x : Word) : Option (List Bool) :=
  let s := atWait x
  ((s.block? 0 0).bind (fun b => b.thread? 0)).bind (fun th => (s.block? 0 0).bind (fun b =>
    let e : Site := ⟨⟨0, th.quad, 0, th.pc, [0]⟩, b, s.treeOf 0 b, [th], [th]⟩
    match checkGroup s e (waitReq s e waitF) with
    | .ok rs => (waitParts (.waitseq waitF)).map (fun p => rs.map (fun (r : Acc) =>
      p.2 (BitVec.ofNat 64 (accValue ((s.touchWaits 0 0 rs).freshLine 0 (accTarget r)) e r 8)) (waitArgs s e waitF r.1).2))
    | _ => none))

theorem witness_WaitWords :
    (waitParts (.waitseq waitF)).isSome = true
    ∧ ((Runs (.waitseq waitF) (waiting 5) (siteAt (.waitseq waitF) (waiting 5))
        ∧ (waiting 5).isExact 0 (siteAt (.waitseq waitF) (waiting 5)).b = false
        ∧ ((siteAt (.waitseq waitF) (waiting 5)).b.threads.map (fun th => th.ltid)).Nodup
        ∧ passes (waiting 5) (siteAt (.waitseq waitF) (waiting 5)) (waitRq (waiting 5)) = true ∧ waitMet 5 = [true])
      ∧ (Runs (.waitseq waitF) (waiting 6) (siteAt (.waitseq waitF) (waiting 6))
        ∧ passes (waiting 6) (siteAt (.waitseq waitF) (waiting 6)) (waitRq (waiting 6)) = true ∧ waitMet 6 = [false]))
    ∧ (∃ b th, (atWait 5).block? 0 0 = some b ∧ (atWait 5).isExact 0 b = false ∧ (atWait 5).coreStalled 0 = false
      ∧ (atWait 5).waitHeld 0 0 0 = false ∧ ((atWait 5).core 0).chunk.served ≠ some 0 ∧ b.thread? 0 = some th ∧ th.waitsAt (.waitseq waitF) = true)
    ∧ (waitHolds 5 = some [true] ∧ waitHolds 6 = some [false]) :=
  ⟨rfl, ⟨⟨runs_of_runsAt (by decide), by decide, by decide, by decide, by decide⟩, runs_of_runsAt (by decide), by decide, by decide⟩,
    ⟨_, _, rfl, by decide, by decide, by decide, by decide, rfl, by decide⟩, by decide⟩

/-! #### Lehr registers, work and neighbour links -/

def lehrS : State := State.lanes (warpTree one) [(10, 3)]
def lwF : LehrWF := ⟨.always, 1, 1, .faddF32, 63⟩
def lpF : LehrF := ⟨.always, 2, 1, .lane 10⟩
def lcF : LehrC := ⟨.always, 1, 0⟩

theorem witness_LehrWords :
    (Runs (.lehrw lwF) lehrS (siteAt (.lehrw lwF) lehrS) ∧ LehrFree (siteAt (.lehrw lwF) lehrS) 1 1)
    ∧ (Runs (.lehrclr lcF) lehrS (siteAt (.lehrclr lcF) lehrS) ∧ LehrFree (siteAt (.lehrclr lcF) lehrS) 1 0)
    ∧ (Runs (.lehrpush lpF) lehrS (siteAt (.lehrpush lpF) lehrS) ∧ LehrFree (siteAt (.lehrpush lpF) lehrS) 2 1
      ∧ (siteAt (.lehrpush lpF) lehrS).act.length = 1)
    ∧ (Runs (.lehrpush lpF) (warpTree two) (siteAt (.lehrpush lpF) (warpTree two)) ∧ LehrFree (siteAt (.lehrpush lpF) (warpTree two)) 2 1
      ∧ ((siteAt (.lehrpush lpF) (warpTree two)).b.threads.map (fun th => th.ltid)).Pairwise (· < ·)
      ∧ (siteAt (.lehrpush lpF) (warpTree two)).act.length = 2)
    ∧ (lehrS.launchOf (siteAt (.lehrw lwF) lehrS).b).race = false ∧ (lehrS.block? 0 0).isSome = true := by
  refine ⟨⟨runs_of_runsAt (by decide), ?_⟩, ⟨runs_of_runsAt (by decide), ?_⟩, ⟨runs_of_runsAt (by decide), ?_, by decide⟩,
    ⟨runs_of_runsAt (by decide), ?_, by decide, by decide⟩, by decide, by decide⟩
  all_goals (unfold LehrFree; decide)

theorem witness_LehrReads : Runs (.lehrread lpF) lehrS (siteAt (.lehrread lpF) lehrS)
    ∧ LehrFree (siteAt (.lehrread lpF) lehrS) 2 1 ∧ (0 : Nat) < 1 := by
  refine ⟨runs_of_runsAt (by decide), ?_, by decide⟩
  unfold LehrFree; decide

def wnF : One := ⟨.always, .lane 9⟩
/-- A request of mailbox 15 is the launch's first. -/
def asked : State := (State.launch one (fun l => { l with workReq := [(0, 0, 15, 0)] })).updBlock 0 0 (fun b => { b with wnWait := [15] })

theorem witness_WorkIsHandedOut :
    (Runs (.worknext wnF) two (siteAt (.worknext wnF) two) ∧ (siteAt (.worknext wnF) two).act.length ≤ 16
      ∧ (two.launchOf (siteAt (.worknext wnF) two).b).race = false
      ∧ (∀ j < (siteAt (.worknext wnF) two).act.length, (siteAt (.worknext wnF) two).b.wnWait.contains
        (((siteAt (.worknext wnF) two).b.wnCount + j) % 16) = false)
      ∧ storesFit two (siteAt (.worknext wnF) two) ((List.range 2).map (fun j =>
        (mailboxKey 0 (siteAt (.worknext wnF) two).b (((siteAt (.worknext wnF) two).b.wnCount + j) % 16), 64))) = true
      ∧ (siteAt (.worknext wnF) two).act.length = 2 ∧ (two.launchOf (siteAt (.worknext wnF) two).b).det = 0)
    ∧ (∃ b ln, asked.block? 0 0 = some b ∧ asked.launch? b.launch = some ln ∧ ln.workReq = (0, 0, 15, b.lin) :: []
      ∧ asked.asker 0 b.launch b.lin = some b ∧ asked.copiedOut = []
      ∧ ∀ x ∈ (next (exec (.mailboxFill 0 0 15) asked)).blocksOf b.launch,
        (next (exec (.mailboxFill 0 0 15) asked)).memberGroup x.1 x.2.1 x.2.2 = none) :=
  ⟨⟨runs_of_runsAt (by decide), by decide, by decide, by decide, by decide, by decide, by decide⟩, _, _, rfl, rfl, rfl, by decide,
    by decide, by decide⟩

def emF : One := ⟨.always, .lane 10⟩
/-- The launch has a template, whose record says a queue of 64 records. -/
def emits : State := State.launch { mem1 with mem := [(0x30078, 6)] } (fun l => { l with succ := some 0x30000 })
def emitReq (th : Thread) : List Req := [⟨(siteAt (.emit emF) emits).read emits th emF.o, 64, 64, .read, .plain⟩]

theorem witness_EmitHoldsRecords :
    (Runs (.emit emF) emits (siteAt (.emit emF) emits) ∧ (emits.launchOf (siteAt (.emit emF) emits).b).succ = some 0x30000
      ∧ (emits.launchOf (siteAt (.emit emF) emits).b).race = false ∧ passes emits (siteAt (.emit emF) emits) emitReq = true
      ∧ emitFits (emits.noteWalks (siteAt (.emit emF) emits) emitReq true) 0x30000
        (passRs emits (siteAt (.emit emF) emits) emitReq).length = true)
    ∧ (Runs (.emit emF) mem1 (siteAt (.emit emF) mem1) ∧ (mem1.launchOf (siteAt (.emit emF) mem1).b).succ = none
      ∧ ∀ th ∈ (siteAt (.emit emF) mem1).act, ((siteAt (.emit emF) mem1).read mem1 th (.lane 10)).toNat % 64 = 0) :=
  ⟨⟨runs_of_runsAt (by decide), by decide, by decide, by decide, by decide⟩, runs_of_runsAt (by decide), by decide, by decide⟩

def nbF (d : BitVec 2) : NbrF := ⟨.always, d, 3, .lane 10⟩
/-- A beat has come from the east. -/
def beaten : State := mem1.updArch 0 (fun a => { a with nbr := [(nbrKey 1 3, [⟨[(0, 9)], 1, none⟩])] })

theorem witness_NeighbourLinks :
    (Runs (.nbrpush (nbF 1)) mem1 (siteAt (.nbrpush (nbF 1)) mem1) ∧ (mem1.launchOf (siteAt (.nbrpush (nbF 1)) mem1).b).race = false
      ∧ nbrCore mem1 (mem1.ctxOf (siteAt (.nbrpush (nbF 1)) mem1).b) 0 1 = some 16 ∧ nbrFill mem1 16 (nbrKey 3 3) < 16)
    ∧ (Runs (.nbrpop (nbF 1)) beaten (siteAt (.nbrpop (nbF 1)) beaten)
      ∧ (nbrCore beaten (beaten.ctxOf (siteAt (.nbrpop (nbF 1)) beaten).b) 0 1).isSome = true
      ∧ (beaten.core 0).arch.beat? (nbrKey 1 3) = some ⟨[(0, 9)], 1, none⟩)
    ∧ (Runs (.nbrpush (nbF 0)) mem1 (siteAt (.nbrpush (nbF 0)) mem1)
      ∧ nbrCore mem1 (mem1.ctxOf (siteAt (.nbrpush (nbF 0)) mem1).b) 0 0 = none) :=
  ⟨⟨runs_of_runsAt (by decide), by decide, by decide, by decide⟩, ⟨runs_of_runsAt (by decide), by decide, by decide⟩,
    runs_of_runsAt (by decide), by decide⟩

/-! #### Engine commands -/

/-- Commands of level 1 on stream 15, with parameters from lane register 20. -/
def xcF (b : Operand) : XcF := ⟨.always, .lane 9, .lane 20, b, 15, 1⟩
def fillW : Instr := .fill (xcF (.lane 0))
def cntW : Instr := .cntadd (xcF (.lane 0))
def copymmaW : Instr := .copymma (xcF (.lane 0))
def tailW : Instr := .tail ⟨.always, .lane 9, .lane 20, .lane 11, 15, 0⟩
/-- FILL of no bytes; CNTADD of 0 to counter 0. -/
def xc1 : State := one
/-- COPYMMA of no bytes and a 16 × 16 × 4 product of f64 on matrix stream 2. -/
def xcMma : State := State.lanes one [(24, 2), (25, 0x4000000000), (26, 0x8000000000), (27, 0x100), (28, 0x401001000)]
/-- TAIL of three entries at 0x10100 on the chain engine. -/
def xcTail : State := State.lanes one [(20, 0x10100), (21, 3), (11, 2)]
/-- Threads that differ in a parameter; an alias beyond the window; a size beyond 40 bits. -/
def xcDiff : State := State.pair one 21 5
def xcAlias : State := State.lanes one [(20, BitVec.ofNat 64 (aliasBase + 1024))]
def xcBad : State := State.lanes one [(21, 0x10000000000)]

def queues (i : Instr) (s : State) : Bool :=
  match engineForm i with
  | some (fn, f) => match xcUniform s (siteAt i s) fn f, xcParams s (siteAt i s) fn f with
    | none, .ok ps => (xcEngine s (siteAt i s) fn f ps).isNone
    | _, _ => false
  | none => false

/-- The chunk that an LR's thread suspends; the one that an XC ends at once; the launch under EXACT. -/
def suspended : State := one.updChunk 0 (fun h => { h with fresh := false, suspend := [(0, 0, 17)] })
/-- A command of chain stream 3 that has not left its core, and one of the fabric engine that writes its number to lane register 9. -/
def chainR : StreamRef := ⟨2, 0, 3⟩
def fabR : StreamRef := ⟨3, 0, 3⟩
def cmd0 (fn : Nat) (kind : CmdKind) : Cmd := { Cmd.new with num := 1, fn := fn, kind := kind, lvl := 1, blk := some ⟨0, 0⟩, order := 1 }
def unsent : Cmd := { cmd0 0x40 .direct with left := false }
def unsentF : Cmd := { cmd0 0x63 .direct with left := false, reply := some (0, [0], 9) }
def sends : State := (one.setStream chainR { Stream.new with i := 1, q := [unsent] }).setStream fabR
  { Stream.new with i := 1, q := [cmd0 0x63 .direct, unsentF] }

theorem witness_CommandsLeave :
    ((exact1 one).isExact 0 (siteAt fillW (exact1 one)).b = true ∧ (siteAt fillW (exact1 one)).b.pheld = [])
    ∧ (one.isExact 0 (siteAt fillW one).b = false ∧ (suspended.core 0).chunk.suspend ≠ []
      ∧ (((touched one).core 0).chunk.suspend = [] ∧ ((touched one).core 0).chunk.rd ≠ [])
      ∧ ((one.core 0).chunk.suspend = [] ∧ (one.core 0).chunk.rd = [] ∧ (one.core 0).chunk.wr = [] ∧ ldxReading one 0 = false
        ∧ commitHeld one 0 = false))
    ∧ ((sends.stream ⟨BitVec.ofNat 2 2, 0, BitVec.ofNat 4 3⟩).q[0]? = some unsent ∧ unsent.goes 0 1 = true)
    ∧ ((∀ q ∈ (sends.stream fabR).q, q.left = true → q.num ≤ (sends.stream fabR).i)
      ∧ (sends.stream fabR).q.filter (fun q => q.goes 0 1) = [unsentF] ∧ unsentF.fn ≠ 0x62
      ∧ ∃ b th, sends.block? 0 0 = some b ∧ b.launch = 0 ∧ b.lin = 0 ∧ b.thread? 0 = some th) :=
  ⟨by decide, by decide, by decide, by decide, by decide, by decide, _, _, rfl, by decide, by decide, rfl⟩

theorem witness_EngineWordsQueue :
    ((Runs fillW xc1 (siteAt fillW xc1) ∧ queues fillW xc1 = true) ∧ (Runs cntW xc1 (siteAt cntW xc1) ∧ queues cntW xc1 = true)
      ∧ (Runs copymmaW xcMma (siteAt copymmaW xcMma) ∧ queues copymmaW xcMma = true)
      ∧ (Runs tailW xcTail (siteAt tailW xcTail) ∧ queues tailW xcTail = true)
      ∧ (xc1.launchOf (siteAt fillW xc1).b).race = false)
    ∧ ((Runs fillW xcDiff (siteAt fillW xcDiff) ∧ (xcUniform xcDiff (siteAt fillW xcDiff) 0x25 (xcF (.lane 0))).isSome = true)
      ∧ (Runs fillW xcAlias (siteAt fillW xcAlias) ∧ xcUniform xcAlias (siteAt fillW xcAlias) 0x25 (xcF (.lane 0)) = none
        ∧ (match xcParams xcAlias (siteAt fillW xcAlias) 0x25 (xcF (.lane 0)) with
          | .error va => decide (va = BitVec.ofNat 64 (aliasBase + 1024))
          | .ok _ => false) = true)
      ∧ (Runs fillW xcBad (siteAt fillW xcBad) ∧ xcUniform xcBad (siteAt fillW xcBad) 0x25 (xcF (.lane 0)) = none
        ∧ (match xcParams xcBad (siteAt fillW xcBad) 0x25 (xcF (.lane 0)) with
          | .ok ps => decide (xcEngine xcBad (siteAt fillW xcBad) 0x25 (xcF (.lane 0)) ps = some 1)
          | .error _ => false) = true)) :=
  ⟨⟨⟨runs_of_runsAt (by decide), by decide⟩, ⟨runs_of_runsAt (by decide), by decide⟩, ⟨runs_of_runsAt (by decide), by decide⟩,
    ⟨runs_of_runsAt (by decide), by decide⟩, by decide⟩, ⟨runs_of_runsAt (by decide), by decide⟩,
    ⟨runs_of_runsAt (by decide), by decide, by decide⟩, runs_of_runsAt (by decide), by decide, by decide⟩

def heads (r : StreamRef) (q : Cmd) (s : State) : State := s.setStream r { Stream.new with i := 1, q := [q] }
/-- A command whose effects are final. -/
def finalS : State := heads chainR { cmd0 0x40 .direct with final := true } one
/-- An entry that has not been read, at 0x10100 and at 0. -/
def entryS (pos : Word) : State := { (heads chainR (cmd0 0x7F (.entry true pos)) one).setStream chainR
  { Stream.new with i := 1, pos := pos, q := [cmd0 0x7F (.entry true pos)] } with mem := [(0x10100, 0x40)] }
/-- A command whose check failed when it left. -/
def failedS : State := heads chainR { cmd0 0x40 .direct with leaveErr := some 7 } one
/-- A stream of the fabric engine that has stopped with a fault. -/
def stoppedS : State := one.setStream fabR { Stream.new with i := 1, q := [cmd0 0x63 .direct], fault := some (0x0C, 7) }
/-- Two arms of counter 1023. -/
def armedS : State := one.updCtx 0 (fun x => { x with
  arms := [⟨1023, 5, [], none, 0, 0, 0⟩, ⟨1023, 0xFFFFFFFFFFFFFFFF, [], none, 0, 0, 0⟩] })

def ready (s : State) (r : StreamRef) : Bool :=
  match headReady s r with
  | some (st, _, e) => engStatus s e (headRanges s e st) == .ok
  | none => false

theorem witness_EngineEvents :
    (ready finalS chainR = true ∧ (finalS.head? chainR).any (fun q => q.final) = true ∧ (finalS.stream chainR).w = 0 ∧ prioOpen finalS = false)
    ∧ ((ready (entryS 0x10100) chainR = true ∧ (headReady (entryS 0x10100) chainR).map (fun h => (h.2.1.kind, h.2.1.fn))
        = some (.entry true 0x10100, 0x7F)
        ∧ (headReady (entryS 0x10100) chainR).any (fun h => !entryBad (entryS 0x10100) h.2.1 2 (entryWords (entryS 0x10100) h.2.2 h.1.pos)) = true)
      ∧ (ready (entryS 0) chainR = true ∧ (headReady (entryS 0) chainR).map (fun h => (h.2.1.kind, h.2.1.fn)) = some (.entry true 0, 0x7F)))
    ∧ (∃ q, failedS.head? chainR = some q ∧ (failedS.stream chainR).fault = none ∧ q.wait = []
      ∧ (if chainR.eng = 3 then failedS.descheduled (failedS.streamCtx chainR) else engStopped failedS chainR.unit) = false
      ∧ headTrouble failedS chainR (failedS.stream chainR) q = some (0x0C, 7) ∧ (0x0C : Nat) ≠ 0x0B ∧ q.kind = .direct
      ∧ q.blk = some ⟨0, 0⟩ ∧ failedS.coreNums.Nodup
      ∧ (0 ∈ failedS.coreNums ∧ (failedS.block? 0 0).any (fun b => b.launch == 0 && b.lin == 0 && !b.failing) = true))
    ∧ ((1023 : Nat) < 1024 ∧ (∀ a ∈ (armedS.ctx 0).arms, a.counter ≠ 1023 ∨ (Tab.get 0 (armedS.ctx 0).counters 1023 + 4).toNat < a.thr.toNat))
    ∧ ((armedS.ctx 0).arms.filter (fun a => a.counter == 1023 && decide (a.thr.toNat ≤ (Tab.get 0 (armedS.ctx 0).counters 1023 + 5).toNat))).length = 1
    ∧ (((0x033 : Word).getLsbD 8 = false ∧ (0x033 : Word).extractLsb' 4 2 = 3)
      ∧ (stoppedS.stream (actionStream 0 (field 0x033 16 9) 0x033)).fault = some (0x0C, 7)
      ∧ (stoppedS.stream (actionStream 0 (field 0x033 16 9) 0x033)).q = [cmd0 0x63 .direct] ∧ (cmd0 0x63 .direct).fn ≠ 0x60)
    ∧ (((0x133 : Word).getLsbD 8 = true ∧ (0x133 : Word).extractLsb' 4 2 = 3)
      ∧ (stoppedS.stream (actionStream 0 (field 0x133 16 9) 0x133)).fault = some (0x0C, 7)
      ∧ (stoppedS.stream (actionStream 0 (field 0x133 16 9) 0x133)).q = [cmd0 0x63 .direct] ∧ (cmd0 0x63 .direct).left = true
      ∧ (cmd0 0x63 .direct).fn ≠ 0x62 ∧ (stoppedS.stream (actionStream 0 (field 0x133 16 9) 0x133)).w = 0) := by
  refine ⟨by decide, ⟨by decide, by decide⟩, ⟨_, rfl, ?_⟩, by decide, by decide, by decide, by decide⟩
  decide

/-! #### The system instructions -/

/-- The handler thread stands at a word and serves a fault of the block in slot 0. -/
def served : State :=
  let s := one.updArch 0 (fun a => { a with
    blocks := Tab.put a.blocks handlerSlot (handlerBlock (loadedBlock 0) 0x20000)
    serving := some ⟨0, 0, [0], causeWord 0x0D 7 false, 0x10000, 1, 0, false, none⟩, epc := 0x10008 })
  { State.threads s (fun th => { th with wait := .stopped }) with cur := some ⟨0, 0, handlerSlot, 0x20000, [0]⟩ }
/-- Registers of the handler thread. -/
def State.handler (s : State) (vs : List (Nat × Word)) : State := s.updBlock 0 handlerSlot (fun b => { b with
  threads := b.threads.map (fun th => vs.foldl (fun th v => th.setLane v.1 v.2) th) })
/-- A group has been selected. -/
def selected (s : State) : State := s.updArch 0 (fun a => { a with grpValid := true, grpQuad := 0, grpSlot := 0, grpTids := [0] })

def sysF (i : BitVec 12) : SysF := ⟨.always, .lane 9, i⟩

theorem witness_SystemRegisterWords :
    Runs (.sysrd (sysF 0x10F)) served (siteAt (.sysrd (sysF 0x10F)) served)
    ∧ (Runs (.syswr (sysF 2)) served (siteAt (.syswr (sysF 2)) served) ∧ (served.core 0).chunk.fresh = true)
    ∧ ((Instr.syswr (sysF 0x10F)).wf = true
      ∧ (State.handler served [(9, 10)]).site? (fullActive (wordOf (.syswr (sysF 0x10F))))
        = some (siteAt (.syswr (sysF 0x10F)) (State.handler served [(9, 10)]))
      ∧ (siteAt (.syswr (sysF 0x10F)) (State.handler served [(9, 10)])).act ≠ []
      ∧ illegal (siteAt (.syswr (sysF 0x10F)) (State.handler served [(9, 10)])).t.lanes (wordOf (.syswr (sysF 0x10F))) = none
      ∧ levelFault (siteAt (.syswr (sysF 0x10F)) (State.handler served [(9, 10)])).t (wordOf (.syswr (sysF 0x10F))) = none
      ∧ ctlBad 0x10F ((siteAt (.syswr (sysF 0x10F)) (State.handler served [(9, 10)])).read (State.handler served [(9, 10)])
        (siteAt (.syswr (sysF 0x10F)) (State.handler served [(9, 10)])).ref (.lane 9)) = true)
    ∧ (sysMask 0x10F = some 0xFF ∧ sysMask 1 = some 0x20000FFFF) := by
  exact ⟨runs_of_runsAt (by decide), ⟨runs_of_runsAt (by decide), by decide⟩, by decide, by decide⟩

/-- A fault waits for its service, and none is served. -/
def waits1 : State := (handled.updArch 0 (fun a => { a with
  faultq := [⟨0, 0, [0], causeWord 0x0D 7 false, 0x10000, 1, 0, false, none⟩] }))

theorem witness_EretReturns : (∃ f q b, waits1.coreStalled 0 = false ∧ (waits1.core 0).chunk.fresh = true ∧ (waits1.core 0).arch.serving = none
      ∧ (waits1.core 0).arch.faultq = f :: q ∧ f.slot ≠ handlerSlot ∧ waits1.block? 0 f.slot = some b
      ∧ (waits1.ctx (waits1.ctxOf b)).handler ≠ 0)
    ∧ ∃ f, Runs (.eret .always) served (siteAt (.eret .always) served)
    ∧ (served.core 0).arch.serving = some f ∧ (served.core 0).arch.faultq = [] ∧ f.slot ≠ handlerSlot
    ∧ (served.core 0).arch.fwd = [] ∧ f.dfr = false
    ∧ (served.thread? 0 f.slot 0).any (fun th => !th.exited && th.wait == .stopped && f.tids.contains 0) = true :=
  ⟨⟨_, _, _, by decide, rfl, rfl, rfl, by decide, rfl, by decide⟩, _, runs_of_runsAt (by decide), rfl, rfl, by decide, rfl, rfl,
    by decide⟩

def selF (x : Bool) : GrpF := ⟨.always, x, .lane 9, .lane 10⟩
def rdF : Grp3 := ⟨.always, .lane 9, .lane 10, .lane 11⟩
def wrF : Grp3 := ⟨.always, .lane 10, .lane 11, .lane 12⟩
def resF : GrpRes := ⟨.always, true⟩
/-- GRPWR of lane register 127 of member 0. -/
def writes : State := State.handler (selected served) [(10, 1), (11, 127), (12, 5)]

theorem witness_GroupWords :
    ((Runs (.grpsel (selF true)) served (siteAt (.grpsel (selF true)) served) ∧ servedSlot served 0 = some 0
        ∧ ∃ b, served.block? 0 0 = some b ∧ (0 : Nat) ≠ (siteAt (.grpsel (selF true)) served).cur.slot
          ∧ (selection served 0 0 b true ((siteAt (.grpsel (selF true)) served).read served (siteAt (.grpsel (selF true)) served).ref (.lane 10))).isSome = true)
      ∧ (Runs (.grpsel (selF true)) (State.handler served [(10, 3)]) (siteAt (.grpsel (selF true)) (State.handler served [(10, 3)]))
        ∧ ∃ b, (State.handler served [(10, 3)]).block? 0 0 = some b ∧ selection (State.handler served [(10, 3)]) 0 0 b true 3 = none))
    ∧ ((Runs (.grprd rdF) served (siteAt (.grprd rdF) served) ∧ memberOn served 0 0 = none)
      ∧ (Runs (.grprd rdF) (selected served) (siteAt (.grprd rdF) (selected served))
        ∧ ∃ th m, memberOn (selected served) 0 0 = some th ∧ memberSite (selected served) 0 th = some m
          ∧ ((selected served).launchOf m.b).race = false ∧ lehrItemBusy (selected served) 0 0 = false ∧ itemBad th 0 = false))
    ∧ (Runs (.grpwr wrF) writes (siteAt (.grpwr wrF) writes)
      ∧ field ((siteAt (.grpwr wrF) writes).read writes (siteAt (.grpwr wrF) writes).ref wrF.y) 10 2 = 0
      ∧ Operand.get (((siteAt (.grpwr wrF) writes).read writes (siteAt (.grpwr wrF) writes).ref wrF.y).extractLsb' 0 10) = .lane 127
      ∧ (writes.core 0).arch.grpSlot ≠ handlerSlot ∧ (writes.block? 0 0).isSome = true
      ∧ lanePresent (loadedLaunch 0).tree.lanes 127 = true ∧ (memberOn writes 0 0).isSome = true)
    ∧ (Runs (.grpres resF) (selected served) (siteAt (.grpres resF) (selected served)) ∧ ((selected served).core 0).arch.grpValid = true
      ∧ ((selected served).core 0).arch.grpSlot ≠ (siteAt (.grpres resF) (selected served)).cur.slot
      ∧ ((selected served).thread? 0 0 0).any (fun th => !th.exited && th.wait == .stopped) = true) := by
  refine ⟨⟨⟨runs_of_runsAt (by decide), by decide, _, rfl, by decide, by decide⟩, runs_of_runsAt (by decide), _, rfl, by decide⟩,
    ⟨⟨runs_of_runsAt (by decide), by decide⟩, runs_of_runsAt (by decide), _, _, rfl, rfl, by decide, by decide, by decide⟩,
    ⟨runs_of_runsAt (by decide), by decide, by decide, by decide, by decide, by decide, by decide⟩, runs_of_runsAt (by decide),
    by decide, by decide, by decide⟩

def tlbF (x : Bool) : GrpF := ⟨.always, x, .lane 0, .lane 0⟩
def trapF (k : BitVec 8) : TrapF := ⟨.always, .lane 10, k⟩
def haltF : One := ⟨.always, .lane 10⟩
/-- Breakpoints are enabled on core 0. -/
def breaks : State := one.updArch 0 (fun a => { a with status := 1 })

theorem witness_TrapsTlbinvHalt :
    (Runs (.tlbinv (tlbF true)) served (siteAt (.tlbinv (tlbF true)) served) ∧ 0 ∈ served.coreNums
      ∧ invPending served 0 0 true (some (siteAt (.tlbinv (tlbF true)) served).b.launch) = false
      ∧ landsBlocked served (fun q => q.core == 0) = false ∧ served.ctxOf (siteAt (.tlbinv (tlbF true)) served).b = 0
      ∧ served.inPart (served.ctx (served.ctxOf (siteAt (.tlbinv (tlbF true)) served).b)).part 0 = true
      ∧ served.inPart 1 0 = false)
    ∧ (Runs (.tlbinv (tlbF true)) (touched served) (siteAt (.tlbinv (tlbF true)) (touched served))
      ∧ invPending (touched served) 0 0 true (some (siteAt (.tlbinv (tlbF true)) (touched served)).b.launch) = true)
    ∧ (∃ q b, (served.core 0).arch.serving = some q ∧ q.slot ≠ handlerSlot ∧ served.block? 0 q.slot = some b
      ∧ (served.launch? b.launch).isSome = true)
    ∧ (Runs (.halt haltF) served (siteAt (.halt haltF) served) ∧ (served.core 0).chunk.fresh = true)
    ∧ (one.block? 0 0).isSome = true
    ∧ Runs (.trap (trapF 0xFF)) one (siteAt (.trap (trapF 0xFF)) one)
    ∧ (Runs (.bkpt (trapF 1)) breaks (siteAt (.bkpt (trapF 1)) breaks) ∧ (breaks.core 0).arch.status.getLsbD 0 = true)
    ∧ (Runs (.bkpt (trapF 1)) one (siteAt (.bkpt (trapF 1)) one) ∧ (one.core 0).arch.status.getLsbD 0 = false) :=
  ⟨⟨runs_of_runsAt (by decide), by decide, by decide, by decide, by decide, by decide, by decide⟩,
    ⟨runs_of_runsAt (by decide), by decide⟩, ⟨_, _, rfl, by decide, rfl, by decide⟩, ⟨runs_of_runsAt (by decide), by decide⟩, by decide,
    runs_of_runsAt (by decide), ⟨runs_of_runsAt (by decide), by decide⟩, runs_of_runsAt (by decide), by decide⟩

/-! #### Chunks, phases, blocks and launches -/

/-- A chunk that began with another value of lane register 9. -/
def snapped : State := (State.lanes one [(9, 5)]).updChunk 0 (fun h => { h with fresh := false, snap := some (one.core 0).arch, ovl := [(0x10100, 7)] })

theorem witness_SquashRestores : (snapped.core 0).chunk.snap = some (one.core 0).arch ∧ (snapped.core 0).chunk.bad = none
    ∧ (∀ e ∈ (snapped.core 0).arch.blocks, snapped.isExact e.1 e.2 = false)
    ∧ (∀ e ∈ (one.core 0).arch.blocks, snapped.isExact e.1 e.2 = false) ∧ (Tab.find? (one.core 0).arch.blocks 0).isSome = true := by
  decide

/-- An EXACT launch whose thread is at its phase point; one whose thread has exited; one whose block has retired. -/
def mergeable : State := State.threads (exact1 one) (fun th => { th with wait := .phase })
def exited1 : State := State.threads one (fun th => { th with exited := true })
def retired1 : State := (State.launch one (fun l => { l with retired := 1 })).updArch 0 (fun a => { a with blocks := [] })

/-- A block that has written a byte of its phase, and one that has not. -/
def wrote : List (Nat × Nat × Block) := [(0, 0, { loadedBlock 0 with pover := [(5, 7), (5, 8)] }), (1, 0, loadedBlock 0)]
/-- A template and an instance of it. -/
def instances : State := { one with launches := [{ loadedLaunch 0 with template := true }, { loadedLaunch 0 with parent := some 0 }] }

theorem witness_MergesAndEnds :
    (∃ ln, mergeable.launch? 0 = some ln ∧ ln.det = 2 ∧ (∀ d, (mergeable.core d).chunk.bad = none)
      ∧ (∀ x ∈ mergeable.blocksOf 0, x.2.2.pheld = []) ∧ (mergeable.blocksOf 0).length = 1
      ∧ ((mergeable.blocksOf 0).map (fun x => (x.1, x.2.1))).Nodup ∧ (mergeable.core 0).chunk.snap = none)
    ∧ (∀ e ∈ wrote, ∀ o ∈ e.2.2.pops, 5 ∉ o.keys)
    ∧ (∃ ln, one.launch? 0 = some ln ∧ ln.nDeps = 0 ∧ ln.succ = none ∧ ln.parent = none ∧ ln.doneWord = 0 ∧ ∀ d, (one.core d).chunk.bad = none)
    ∧ (∃ ln, (State.launch one (fun l => { l with doneWord := 0x50000 })).launch? 0 = some ln ∧ ln.doneWord ≠ 0)
    ∧ ((instances.launch? 1).isSome = true ∧ (instances.launch? 0).isSome = true) :=
  ⟨⟨_, rfl, by decide, bad_none (by decide), by decide, by decide, by decide, by decide⟩, by decide,
    ⟨_, rfl, rfl, rfl, rfl, rfl, bad_none (by decide)⟩, ⟨_, rfl, by decide⟩, by decide⟩

theorem witness_EndsOfWork :
    (recLaunches mergeable 0 0 (mergeReady mergeable) = [0] ∧ (mergeable.launch? 0).isSome = true)
    ∧ (∃ b, exited1.block? 0 0 = some b ∧ retirable exited1 0 0 b = true ∧ (exited1.launch? b.launch).isSome = true
      ∧ ∀ x ∈ (next (exec (.blockRetire 0 0) exited1)).blocksOf b.launch,
        (next (exec (.blockRetire 0 0) exited1)).memberGroup x.1 x.2.1 x.2.2 = none)
    ∧ (recLaunches retired1 0 0 (launchDone retired1) = [0] ∧ (retired1.launch? 0).isSome = true) := by
  refine ⟨by decide, ⟨_, rfl, by decide, by decide, by decide⟩, by decide⟩

/-! #### Queues and scheduling -/

/-- Queue 0 of context 0, with one packet at its head. -/
def packet (ty : Byte) (val extra : Byte) : State :=
  { one.updCtx 0 (fun x => { x with qtable := 0x40000, queues := [(0, ⟨1, true, false⟩)] }) with
    mem := Memory.write [(0x40001, 0x10), (0x40002, 4), (0x40008, 4), (0x4000B, 1)] 0x41000 [ty, extra, 0, 0, 0, 0, 0, 0, 0, 0, 5, 0, 0, 0, 0, 0, val] }
/-- The launch has ended, so that the queue is idle; and the packet at the head waits. -/
def idle (s : State) : State := State.launch s (fun l => { l with status := 4 })
def waits (s : State) : State := s.setQueue 0 0 ⟨1, true, true⟩

theorem witness_DoorbellRings : (8 * 255 + 4096 * 0) % 8 = 0 ∧ (8 * 255) / 4096 < 64 ∧ (8 * 255) % 4096 / 8 < 256 ∧ (one.ctx 0).created = true
    ∧ (let d := qDesc (packet 0 0 0) 0 0
      d.enabled = true ∧ 4 ≤ d.log ∧ d.log ≤ 16 ∧ d.head ≤ 16 ∧ 16 ≤ d.head + 2 ^ d.log ∧ ((packet 0 0 0).queue 0 0).tail ≤ 16
        ∧ ¬ (17 ≤ d.head + 2 ^ d.log))
    ∧ ((packet 0 0 0).bar2Wait = [] ∧ hostPending (packet 0 0 0) = [])
    ∧ (hostPending { one with groupWait := [(255, 0)] } ≠ [] ∧ hostPending (one.updCtx 0 (fun x => { x with invWait := [1] })) ≠ []) := by decide

/-- A record whose dependence counter is 1. -/
def counterS : State := { one with mem := [(0x30030, 1)] }
def headOf (s : State) : Option (Nat × Bool × Word) := (headPacket s 0 0).map (fun p => (p.ty, p.good, p.val))

theorem witness_PacketsConsumed :
    headOf (packet 0 0 0) = some (0, true, 0) ∧ headOf (packet 1 0 0) = some (1, true, 0) ∧ headOf (packet 2 1 0) = some (2, true, 1)
    ∧ (headOf (idle (packet 3 3 0)) = some (3, true, 3) ∧ queueIdle (idle (packet 3 3 0)) 0 0 = true)
    ∧ (headOf (idle (packet 4 0 0)) = some (4, true, 0) ∧ queueIdle (idle (packet 4 0 0)) 0 0 = true)
    ∧ (headOf (packet 4 0 0) = some (4, true, 0) ∧ queueIdle (packet 4 0 0) 0 0 = false)
    ∧ (headOf (idle (waits (packet 4 0 0))) = some (4, true, 0) ∧ ((idle (waits (packet 4 0 0))).queue 0 0).waiting = true)
    ∧ (headOf (packet 5 0 0) = some (5, true, 0) ∧ headOf (packet 0 0 1) = some (0, false, 0))
    ∧ ((packet 0 0 0).cores.all (fun k => k.2.chunk.bad.isNone) = true)
    ∧ 0 < counterS.natMem (0x30000 + 0x30) 4 :=
  ⟨by decide, by decide, by decide, by decide, by decide, by decide, by decide, by decide, by decide, by decide⟩

/-- A launch of class 1 runs on core 0, and one of class 0 with a budget is ready and finds no core. -/
def urgent : State :=
  let s := State.launch one (fun l => { l with cls := 1 })
  { s with
    launches := s.launches ++ [{ loadedLaunch 0 with rec_ := 0x30000, status := 2, next := 0, budget := 1, reserve := 1, readySeq := 1 }]
    clusterMask := [] }
/-- The one launch has a record at 0x30000 and is ready, and its block is placed nowhere; the same with its block pre-empted from core 0. -/
def free1 : State := (State.launch one (fun l => { l with rec_ := 0x30000, status := 2, next := 0 })).updArch 0 (fun a => { a with blocks := [] })
def saved1 : State := (State.launch free1 (fun l => { l with next := 1, status := 3 })).updCore 0 (fun k => { k with
  saved := [⟨0, { CoreArch.new with blocks := [(0, loadedBlock 0)] }⟩] })
/-- A bind record of op `op` for slot `sl`, with row position 0 of quadrant 0, block `lin` and the record at `rec`. -/
def bindR (op sl lin rec : Nat) : BitVec 256 := BitVec.ofNat 256 (sl + op * 2 ^ 5 + lin * 2 ^ 64 + 2 ^ 128 + rec * 2 ^ 192)
/-- The core has a block in slot `sl`, changed by `f`. -/
def beside (sl : Nat) (f : Block → Block) (s : State) : State := s.updArch 0 (fun a => { a with blocks := [(sl, f (loadedBlock 0))] })
/-- No cluster is in a partition. -/
def noPart (s : State) : State := { s with clusterMask := [] }
def row1 (b : Block) : Block := { b with threads := b.threads.map (fun th => { th with pos := 1 }) }
/-- The block belongs to a launch of context 1. -/
def other (s : State) : State := beside 1 (fun b => { b with launch := 1 }) { s with launches := s.launches ++ [loadedLaunch 1] }
/-- A second block leaves no room for the lane registers: its launch has 16 rows in quadrant 0. -/
def full (s : State) : State := beside 1 (fun b => { row1 b with launch := 1 }) { s with launches := s.launches ++
  [{ loadedLaunch 0 with tree := ⟨2, 128, 0, 0, [⟨.core, 512, 32, 8, 0⟩]⟩ }] }

/-- A place record fails each check of R373, and passes them all. -/
theorem witness_PlaceAnswer :
    ((free1.bindPlace 0 (bindR 0 15 0 0x30000)).2 = none ∧ ((beside 0 row1 free1).bindPlace 0 (bindR 0 0 0 0x30000)).2 = some 1)
    ∧ ((other free1).bindPlace 0 (bindR 0 0 0 0x30000)).2 = some 2
    ∧ ((free1.bindPlace 0 (bindR 0 0 0 0x30001)).2 = some 3 ∧ (free1.bindPlace 0 (bindR 0 0 1 0x30000)).2 = some 3)
    ∧ ((beside 1 id free1).bindPlace 0 (bindR 0 0 0 0x30000)).2 = some 4 ∧ ((full free1).bindPlace 0 (bindR 0 0 0 0x30000)).2 = some 5
    ∧ ((noPart free1).bindPlace 0 (bindR 0 0 0 0x30000)).2 = some 6 :=
  ⟨by decide, by decide, by decide, by decide, by decide, by decide⟩

/-- So does a resume record. -/
theorem witness_ResumeAnswer :
    (bindLaunch saved1 (bindR 1 0 0 0x30000) = some 0 ∧ (savedBlocks saved1 0).length = 1
      ∧ (savedBlocks saved1 0).find? (resumeMatches saved1 0 (bindR 1 0 0 0x30000)) = some ⟨0, 0, 0, loadedBlock 0⟩
      ∧ canResume saved1 ⟨0, 0, 0, loadedBlock 0⟩ = true ∧ (saved1.core 0).saved[0]?.any (fun v => v.arch.serving.isNone) = true)
    ∧ ((∀ v ∈ savedBlocks saved1 0, resumeMatches saved1 0 (bindR 1 0 1 0x30000) v = false)
      ∧ ((beside 0 row1 saved1).bindResume 0 (bindR 1 0 0 0x30000)).2 = some 1)
    ∧ ((other saved1).bindResume 0 (bindR 1 0 0 0x30000)).2 = some 2 ∧ (saved1.bindResume 0 (bindR 1 0 0 0x30001)).2 = some 3
    ∧ ((beside 1 id saved1).bindResume 0 (bindR 1 0 0 0x30000)).2 = some 4 ∧ ((full saved1).bindResume 0 (bindR 1 0 0 0x30000)).2 = some 5
    ∧ ((noPart saved1).bindResume 0 (bindR 1 0 0 0x30000)).2 = some 6 :=
  ⟨by decide, by decide, by decide, by decide, by decide, by decide, by decide⟩

/-- Launches take their turns: one that could be placed, one that could not, one that holds pre-empted blocks, one that is persistent. -/
theorem witness_Turns :
    (scheduled free1 0 = [0] ∧ couldPlace free1 0 = true ∧ couldPlace urgent 1 = false)
    ∧ (savedBlocks saved1 0).find? (canResume saved1) = some ⟨0, 0, 0, loadedBlock 0⟩
    ∧ (∃ ln, free1.launch? 0 = some ln ∧ ln.unplaced = true ∧ lowerPlaced free1 ln = true ∧ ln.tree.persist = 0 ∧ ln.status = 2 ∧ ln.parent = none
      ∧ (chooseCore free1 ln ln.next).isSome = true ∧ chooseCore (noPart free1) ln ln.next = none)
    ∧ (∃ ln, saved1.launch? 0 = some ln ∧ ln.unplaced = false)
    ∧ (∃ ln, (State.launch free1 (fun l => { l with tree := { l.tree with persist := 1 } })).launch? 0 = some ln ∧ ln.unplaced = true
      ∧ ln.tree.persist ≠ 0 ∧ ln.next = 0) :=
  ⟨by decide, by decide, ⟨_, rfl, by decide, by decide, by decide, by decide, by decide, by decide, by decide⟩, ⟨_, rfl, by decide⟩,
    _, rfl, by decide, by decide, by decide⟩

def late : State := State.launch one (fun l => { l with budget := 1, readyAt := 0 })
def dueNow : State := { late with mclock := 1 }

theorem witness_SchedulingEvents :
    (urgent.fwSwitch = .none ∧ urgent.stopped = false)
    ∧ (bindHeld free1 (bindR 0 15 0 0x30000) = false ∧ bindHeld { free1 with fwSwitch := .starting } (bindR 1 15 0 0x30000) = true)
    ∧ ((383 : Nat) < 384 ∧ (bindField 0 5 3 = 0 ∧ bindReserved 0 = true) ∧ (bindField 0x20 5 3 = 1 ∧ bindReserved 0x20 = true)
      ∧ (bindField 0x3F40 5 3 = 2 ∧ (0x3F40 : BitVec 256).toNat = bindField 0x3F40 8 6 * 2 ^ 8 + 2 * 2 ^ 5))
    ∧ (recLaunches urgent 0 0x30000 (reserveReached urgent) = [1] ∧ (urgent.launch? 1).isSome = true)
    ∧ (recLaunches dueNow 0 0 (deadlineDue dueNow) = [0] ∧ (dueNow.launch? 0).isSome = true) := by
  refine ⟨by decide, by decide, by decide, ⟨?_, by decide⟩, by decide⟩
  decide

/-- Core 0 is to be pre-empted for context 0. -/
def going : State := one.updCore 0 (fun k => { k with preempt := some 0 })
def goingLate : State := (touched going).updChunk 0 (fun h => { h with ended := true })

theorem witness_PreemptionSaves :
    ((going.core 0).preempt = some 0 ∧ (going.core 0).chunk.fresh = true ∧ (going.core 0).chunk.ended = false
      ∧ lehrsBusy going 0 = false ∧ ∀ e ∈ (going.core 0).arch.blocks, e.2.ldx = [])
    ∧ (((touched going).core 0).preempt = some 0 ∧ ((touched going).core 0).chunk.fresh = false ∧ ((touched going).core 0).chunk.ended = false
      ∧ lehrsBusy (touched going) 0 = false)
    ∧ ((goingLate.core 0).preempt = some 0 ∧ (goingLate.core 0).chunk.ended = true ∧ (goingLate.core 0).chunk.prio = false) := by decide

/-- A translation request of context 0 waits to be posted, has been posted, and has been answered. -/
def xreq (posted : Bool) : XReq := ⟨0, 0x20000, 1, 1, 0xFFFF, 0x200000000, posted, false⟩
def asking : State := { one with xreqs := [xreq false] }
def posted : State := { one with xreqs := [xreq true] }
def answered : State := { posted with xanswers := [(0xFFFF, true)] }

theorem witness_TranslationService :
    (asking.xreqs.find? (fun q => !q.posted && (asking.ctx q.ctx).part == 0) = some (xreq false)
      ∧ (xreq false).host = false)
    ∧ (({ one with xreqs := [{ xreq false with host := true }] } : State).xreqs.find? (fun q => !q.posted && (one.ctx q.ctx).part == 0)
      = some { xreq false with host := true })
    ∧ ((∃ q ∈ posted.xreqs, q.tag = field 0x1FFFF 0 16 ∧ q.ctx = 0 ∧ q.posted = true) ∧ ∀ a ∈ posted.xanswers, a.1 ≠ field 0x1FFFF 0 16)
    ∧ (answered.xanswers.find? (fun a => a.1 == 0xFFFF) = some (0xFFFF, true)
      ∧ answered.xreqs.find? (fun q => q.tag == 0xFFFF && (answered.ctx q.ctx).part == 0) = some (xreq true)) := by decide

/-! #### The host and the plant -/

/-- The boot at a step, with images in its slots. -/
def booting (n : Nat) (a b : Bool) : State := { State.reset with bootStep := n, fwValidA := a, fwValidB := b }

theorem witness_ResetsLeave : ((0xD04A0001 : Word).extractLsb' 16 16 = 0xD04A ∧ (0xD04A0001 : Word).getLsbD 0 = true)
    ∧ ((booting 1 false false).bootStep = 1 ∧ (booting 1 false false).fwValidA = false ∧ (booting 1 false false).fwValidB = false)
    ∧ ((booting 1 true true).fwValidB = true ∧ (booting 1 true true).image = false ∧ (booting 1 true true).fwTried = false)
    ∧ ((booting 2 true true).bootStep = 2 ∧ (booting 3 true true).bootStep = 3 ∧ (booting 4 true true).bootStep = 4) := by decide

/-- A switch that began at clock 0, at clock `n`. -/
def switching (n : Nat) : State := { State.reset with fwSwitch := .starting, mclock := n }

theorem witness_FirmwareEvents : ({ State.reset with fwState := 1 } : State).fwState = 1 ∧ State.reset.fwSwitch = .none
    ∧ ((switching 100000000).fwSwitch = .starting ∧ (switching 100000000).mclock ≤ (switching 100000000).fwStart + 10 ^ 8)
    ∧ (switching 100000001).fwStart + 10 ^ 8 < (switching 100000001).mclock
    ∧ State.reset.bindWait = [] := by decide

/-- A fault of the group has been forwarded to the host. -/
def fwdRec : FaultRec := ⟨0, 0, [0], causeWord 0x0D 7 false, 0x10000, 1, 0, false, none⟩
def forwarded : State := (State.threads one (fun th => { th with wait := .stopped })).updArch 0 (fun a => { a with fwd := [(0x100000800, fwdRec)] })
/-- A context that binds its blocks by records. -/
def hostBound : State := one.updCtx 0 (fun x => { x with mode := 1 })

theorem witness_ContextRegisters :
    ((63 : Nat) < 64 ∧ (0x701 : Word).getLsbD 0 = true ∧ (State.reset.ctx 63).created = false ∧ State.reset.bootStep = 5)
    ∧ ((0 : Word).getLsbD 0 = false ∧ ∀ ln ∈ (idle one).launches, ln.ctx = 0 → isEnd ln.status = true)
    ∧ (one.ctx 0).created = true
    ∧ ((one.ctx 0).invWait = [] ∧ invHeld one 0 1 = false ∧ 0 ∈ one.coreNums ∧ one.inPart (one.ctx 0).part 0 = true)
    ∧ (((touched one).ctx 0).invWait = [] ∧ invHeld (touched one) 0 1 = true)
    ∧ (((one.updCtx 0 (fun x => { x with invWait := [1] })).ctx 0).invWait = [1] ∧ invHeld (one.updCtx 0 (fun x => { x with invWait := [1] })) 0 1 = false)
    ∧ bindHeld { hostBound with fwSwitch := .starting } 0 = true ∧ bindHeld hostBound 0 = false
    ∧ ((forwarded.core (field 0x100001800 16 9)).arch.fwd = [(0x100000800, fwdRec)] ∧ (0x100000800 : Word) = 0x100001800 &&& 0xFFFFFFFF00000FFF
      ∧ ∃ b th, forwarded.block? (field 0x100001800 16 9) fwdRec.slot = some b ∧ forwarded.ctxOf b = 0 ∧ b.thread? 0 = some th
        ∧ fwdRec.tids.contains 0 = true ∧ th.exited = false ∧ th.wait = .stopped)
    ∧ ((hostBound.ctx 0).mode.getLsbD 0 = true
      ∧ bindField ((0 : Word) ++ (((hostBound.ctx 0).bindW.getD 2 0 ++ ((hostBound.ctx 0).bindW.getD 1 0 ++ (hostBound.ctx 0).bindW.getD 0 0 : BitVec 128)
        : BitVec 192)) : BitVec 256) 8 6 = 0) := by
  refine ⟨by decide, by decide, by decide, by decide, by decide, by decide, by decide, by decide, ⟨by decide, by decide, _, _, rfl, by decide, rfl, by decide, by decide, by decide⟩, by decide⟩

/-- Group word 0 of the witnesses. -/
def gv : Word := 0x8000000000020001
/-- A group with a packet under way. -/
def busyGroup : State := { one with groups := [(255, ⟨gv, 0, []⟩)], switch := [⟨1, true, 0, 0, 1, 0, 0, 0, []⟩] }
theorem witness_HostAccess :
    ((0x018 : Nat) = 0x018 ∨ (0x018 : Nat) = 0x030) ∧ (63 : Nat) < 64
    ∧ ((255 : Nat) < 256 ∧ gv.getLsbD 63 = true
      ∧ groupRefused one 255 ⟨gv &&& groupMask0, (one.groupEntry 255).w1,
        readRoutes one (one.groupEntry 255).w1.toNat ((gv &&& groupMask0).extractLsb' 16 13).toNat⟩ = none ∧ one.groupWait = [])
    ∧ ((0 : Word).getLsbD 63 = false ∧ groupBusy one (one.groupEntry 255) = false)
    ∧ ((busyGroup.groupEntry 255).valid = true ∧ groupBusy busyGroup (busyGroup.groupEntry 255) = true ∧ busyGroup.groupWait = [])
    ∧ (({ one with groupWait := [(255, 0)] } : State).groupWait = [(255, 0)]
      ∧ groupBusy { one with groupWait := [(255, 0)] } (({ one with groupWait := [(255, 0)] } : State).groupEntry 255) = false)
    ∧ (({ busyGroup with groupWait := [(255, 0)] } : State).groupEntry 255).valid = true
    ∧ ((2 ^ 43 - 8) % 8 = 0 ∧ 2 ^ 43 - 8 < 2 ^ one.bar2Log ∧ one.bar2Wait = [] ∧ (∀ k ∈ one.cores, k.2.chunk.bad = none) ∧ prioOpen one = false
      ∧ Tab.find? one.badLines (((one.bar2Base.toNat + (2 ^ 43 - 8)) % 2 ^ 56) / 256) = none ∧ one.heldLines.contains (((one.bar2Base.toNat + (2 ^ 43 - 8)) % 2 ^ 56) / 256) = false
      ∧ one.quar.contains (((one.bar2Base.toNat + (2 ^ 43 - 8)) % 2 ^ 56) / 256) = false)
    ∧ ({ one with quar := [0xFFFFFFFFFFFF] } : State).quar.contains ((0x00FFFFFFFFFFFF00 : Word).toNat % 2 ^ 56 / 256) = true := by
  decide

/-- Plant states. -/
def laserIs (l : Laser) : State := State.reset.setLaser 15 l
def linkIs (l : MemLink) : State := { State.reset with links := [(31, l)] }

/-- Three failing cores of die 0: the spares replace the first two listed, and the cluster of the third is not active (R424). -/
theorem test_spares_replace_two : activeClusters [0, 1, 16] = 0xFFFFFD := by decide

theorem witness_PlantEvents :
    ((15 : Nat) < 16 ∧ (0x100 : Word).getLsbD 8 = true ∧ (State.reset.laser 15).present = true)
    ∧ ((0 : Word).getLsbD 8 = false ∧ (State.reset.laser 15).state = 1)
    ∧ ((laserIs { Laser.new with warming := true }).laser 15).warming = true
    ∧ ((laserIs { Laser.new with present := false, state := 0 }).laser 15).present = false
    ∧ ((31 : Nat) < 32 ∧ (State.reset.link 31).state = 2 ∧ (State.reset.link 31).away = false
      ∧ reserveFree State.reset 31 < (State.reset.link 31).size)
    ∧ (({ State.reset with drainRes := 262144 } : State).link 31).size ≤ reserveFree { State.reset with drainRes := 262144 } 31
    ∧ ((linkIs ⟨4, 262144, 1, 0, 262144, true⟩).link 31).away = true ∧ ((linkIs ⟨4, 262144, 1, 0, 262144, true⟩).link 31).state = 4
    ∧ (((linkIs ⟨3, 262144, 1, 4096 * 262144 - 1, 262144, true⟩).link 31).state = 3
      ∧ ((linkIs ⟨3, 262144, 1, 4096 * 262144 - 1, 262144, true⟩).link 31).moved < ((linkIs ⟨3, 262144, 1, 4096 * 262144 - 1, 262144, true⟩).link 31).old * 4096)
    ∧ (((linkIs ⟨5, 262144, 2, 4096 * 262144, 262144, true⟩).link 31).state = 5
      ∧ ((linkIs ⟨5, 262144, 2, 4096 * 262144, 262144, true⟩).link 31).moved = ((linkIs ⟨5, 262144, 2, 4096 * 262144, 262144, true⟩).link 31).old * 4096)
    ∧ ((linkIs ⟨0, 0, 0, 0, 262144, false⟩).link 31).state = 0
    ∧ (((linkIs ⟨1, 262144, 0, 0, 262144, false⟩).link 31).state = 1
      ∧ ((linkIs ⟨1, 262144, 0, 0, 262144, false⟩).link 31).old ≤ ((linkIs ⟨1, 262144, 0, 0, 262144, false⟩).link 31).size)
    ∧ (110 : Nat) ≤ 110 := by decide

/-- Port 63 is up, or in another state, and has a flit to acknowledge. -/
def portIs (f : Port → Port) : State := State.reset.updPort 63 (fun p => f { p with en := true, state := 2, act := 0xFFFF })
def flitS : State := portIs (fun p => { p with rxAct := 0xFFFF })
/-- A flit of a type, whole, with number 0. -/
def flit (ty : Nat) (payload : List Byte) : Flit := flitOf ⟨ty, true, 0, 0, 0, 0, 0, 0, payload⟩ 0 0

theorem witness_FlitsTaken :
    ((sequencedFlit (.dataFlit 63 (flit 1 [7]))).isSome = true ∧ (flitS.port 63).rx 1 (flit 1 [7]) = .take)
    ∧ (flitS.port 63).rx 0 (flit 0 []) = .take
    ∧ ((flitS.port 63).rx 3 (flit 3 []) = .take ∧ (flitS.port 63).state = 2)
    ∧ (flitS.port 63).rx 4 (flit 4 []) = .take
    ∧ ((flitS.port 63).rx 5 (flit 5 [0xFF, 0]) = .take ∧ (flitS.port 63).lossRx = []
      ∧ BitVec.ofNat 16 (flitNat (flit 5 [0xFF, 0]) 0 2) &&& ~~~(flitS.port 63).rxAct = 0)
    ∧ ((portIs (fun p => { p with expect := 1 })).port 63).rx 1 (flit 1 [7]) = .discard true
    ∧ ((portIs (fun p => { p with blind := true })).port 63).rx 1 (flit 1 [7]) = .discard false
    ∧ (((portIs (fun p => { p with state := 1 })).port 63).rx 3 (flit 3 []) = .take ∧ ((portIs (fun p => { p with state := 3 })).port 63).rx 3 (flit 3 []) = .take) := by
  have h : ∀ ty pl, flitWhole (flit ty pl) = true := fun ty pl => flitWhole_flitOf _ _ _
  refine ⟨⟨rfl, ?_⟩, ?_, ⟨?_, by decide⟩, ?_, ⟨?_, by decide, by decide⟩, ?_, ?_, ?_, ?_⟩
  all_goals (rw [Port.rx_whole _ _ _ (h _ _)]; decide)

def trainS (lost : BitVec 16) : State := portIs (fun p => { p with state := 1, txLost := lost })
def replayS : State := portIs (fun p => { p with replay := [(0xFFFF, ⟨1, true, 0, 0, 0, 0, 0, 0, []⟩)], naked := some 0 })
def stopS : State := portIs (fun p => { p with state := 3, txLost := 0xFFF0 })
/-- A group of two ranks without a route. -/
def routeless : State := { State.reset with groups := [(255, ⟨0x8000000000020001, 0, []⟩)] }
/-- Rank 0 waits for rank 1's command of a collective of that group; and the collective has been aborted. -/
def waitsFor (a : Option Nat) : CollSt := { CollSt.new 1 3 1023 with pbs := [(0, List.replicate 128 0)], abort := a }
def abortedS : State := { routeless with colls := [waitsFor (some 2)] }
/-- The fabric engine's command for it, whose parameter block has been read. -/
def collE : Eng := ⟨⟨3, 0, 3⟩, 0, { Cmd.new with
  num := 1, fn := 0x60, ps := [0], done := 1025, got := (List.range 128).map (fun i => (i, if i = 8 then 1 else 0)) }⟩

theorem witness_RanksAreLost :
    ((routeless.groupEntry 255).rank = 0 ∧ (waitsFor none).handle = (routeless.groupEntry 255).handle
      ∧ ({ routeless with colls := [waitsFor none] } : State).coll? 1 3 1023 = some (waitsFor none) ∧ (waitsFor none).go = false
      ∧ (waitsFor none).abort = none ∧ (waitsFor none).lost.contains 1 = false ∧ (waitsFor none).pbs ≠ []
      ∧ Tab.find? (waitsFor none).pbs 1 = none)
    ∧ (collRead collE = true ∧ 2 ≤ collE.cmd.done
      ∧ (collOf abortedS collE).any (fun gc => gc.2 == waitsFor (some 2) && gc.2.abort == some 2) = true) :=
  ⟨by decide, by decide +kernel⟩


theorem witness_PortEvents :
    ((63 : Nat) < 64 ∧ (flitS.port 63).en = true ∧ (flitS.port 63).state ≠ 0 ∧ (0x8000 : BitVec 16) &&& ~~~(flitS.port 63).lost ≠ 0
      ∧ 4 ≤ popMask (~~~((flitS.port 63).lost ||| 0x8000)))
    ∧ (((trainS 0x1FFF).port 63).en = true ∧ ((trainS 0x1FFF).port 63).state = 1 ∧ popMask ((trainS 0x1FFF).port 63).survivors < 4)
    ∧ (((trainS 0x0FFF).port 63).en = true ∧ ((trainS 0x0FFF).port 63).state = 1 ∧ 4 ≤ popMask ((trainS 0x0FFF).port 63).survivors
      ∧ ((trainS 0x0FFF).port 63).lossTx = [] ∧ ((trainS 0x0FFF).port 63).pend = [] ∧ ((trainS 0x0FFF).port 63).notice = none
      ∧ ((trainS 0x0FFF).port 63).nakFrom = none
      ∧ ((trainS 0x0FFF).port 63).survivors &&& ~~~((trainS 0x0FFF).port 63).act = 0)
    ∧ ((replayS.port 63).replay ≠ [] ∧ (replayS.port 63).state = 2 ∧ (replayS.port 63).naked.isSome = true)
    ∧ ((1 : Word).getLsbD 0 = true ∧ (State.reset.port 63).en = false)
    ∧ ((stopS.port 63).state = 3 ∧ (0xF : Word).extractLsb' 0 16 &&& ((stopS.port 63).txLost ||| ~~~(stopS.port 63).lit) = 0 ∧ 4 ≤ popMask ((0xF : Word).extractLsb' 0 16))
    ∧ ((routeless.groupEntry 255).valid = true ∧ 1 < (routeless.groupEntry 255).size ∧ 1 ≠ (routeless.groupEntry 255).rank
      ∧ routeless.outPort (routeless.groupEntry 255) 1 = none) :=
  ⟨by decide, by decide, by decide, by decide, by decide, by decide, by decide⟩

/-! ### Single words, with results worked out by hand from the rules -/

/-- A register of the thread after one word, issued with these lane registers. -/
def val (i : Instr) (vs : List (Nat × Word)) (r : Nat) : Option Word :=
  ((next (exec i (State.lanes one vs))).thread? 0 0 0).map (fun th => th.lane r)

/-- The predicate `i` after one word. -/
def predOf (i : Instr) (vs : List (Nat × Word)) (p : Nat) : Option Bool :=
  ((next (exec i (State.lanes one vs))).thread? 0 0 0).map (fun th => th.pred p)

/-- The flags after one word. -/
def flagsAfter (i : Instr) (vs : List (Nat × Word)) : Option (BitVec 5) :=
  ((next (exec i (State.lanes one vs))).thread? 0 0 0).map (fun th => th.fflags)

/-- The PC after one word. -/
def pcAfter (i : Instr) (s : State) : Option Word := ((next (exec i s)).thread? 0 0 0).map (fun th => th.pc)

def i2 (w : IntW) (sg sat : Bool) : Int2 := ⟨.always, ⟨w, sg, sat⟩, .lane 9, .lane 10⟩
def i3 (w : IntW) (sg sat : Bool) : Int3 := ⟨.always, ⟨w, sg, sat⟩, .lane 9, .lane 10, .lane 11⟩
def i4 (w : IntW) (sg sat : Bool) (c : Operand) : Int4 := ⟨.always, ⟨w, sg, sat⟩, .lane 9, .lane 10, .lane 11, c⟩
def ii (w32 sg sat : Bool) (imm : BitVec 24) : IntI := ⟨.always, w32, sg, sat, .lane 9, .lane 10, imm⟩
def ab (a b : Word) : List (Nat × Word) := [(10, a), (11, b)]
def abc (a b c : Word) : List (Nat × Word) := [(10, a), (11, b), (12, c)]

-- R73, R191, R193: wrap and clamp by element; R48: the w32 fill
theorem test_add : val (.add (i3 .w16x4 true true)) (ab 0x7FFF80000001FFFF 0x0001FFFF00010001) 9 = some 0x7FFF800000020000
    ∧ val (.add (i3 .w8x8 false false)) (ab 0xFF000000000000FF 0x0200000000000001) 9 = some 0x0100000000000000 := by decide
theorem test_addi : val (.addi (ii false false false 0xFFFFFE)) (ab 1 0) 9 = some 0xFFFFFFFFFFFFFFFF := by decide
theorem test_sub : val (.sub (i3 .w32 true false)) (ab 0 1) 9 = some 0xFFFFFFFFFFFFFFFF
    ∧ val (.sub (i3 .w32 false false)) (ab 0 1) 9 = some 0xFFFFFFFF := by decide
-- the 128-bit addition of the manual, and a borrow out of a borrow in
theorem test_addc : val (.addc (i4 .w64 false false (.pred 6)) false) (ab 0xFFFFFFFFFFFFFFFF 2) 9 = some 1
    ∧ predOf (.addc (i4 .w64 false false (.pred 6)) false) (ab 0xFFFFFFFFFFFFFFFF 2) 6 = some true
    ∧ val (.addc (i4 .w64 false false (.pred 0)) true) (ab 1 0) 9 = some 2 := by decide
theorem test_subb : val (.subb (i4 .w32 false false (.pred 0)) true) (ab 0 0) 9 = some 0xFFFFFFFF
    ∧ predOf (.subb (i4 .w64 false false (.pred 7)) false) (ab 1 2) 7 = some true := by decide
theorem test_mul : val (.mul (i3 .w32 true true)) (ab 0x80000000 0xFFFFFFFF) 9 = some 0x7FFFFFFF := by decide
theorem test_mulh : val (.mulh (i3 .w64 false false)) (ab 0xFFFFFFFFFFFFFFFF 0xFFFFFFFFFFFFFFFF) 9 = some 0xFFFFFFFFFFFFFFFE
    ∧ val (.mulh (i3 .w64 true false)) (ab 0xFFFFFFFFFFFFFFFF 2) 9 = some 0xFFFFFFFFFFFFFFFF := by decide
theorem test_mad : val (.mad (i4 .w8x8 true false (.lane 12))) (abc 0xFF 3 1) 9 = some 0xFE := by decide
theorem test_madw : val (.madw (i4 .w8x8 true false (.lane 12))) (abc 0xFF80 0x02FF 0xFFFF0001) 9 = some 0xFFFD0081 := by decide
-- R75
theorem test_div : val (.div (i3 .w64 true false)) (ab 0xFFFFFFFFFFFFFFF9 2) 9 = some 0xFFFFFFFFFFFFFFFD
    ∧ val (.div (i3 .w16x4 false false)) (ab 0x0000000000090005 0x0000000000000002) 9 = some 0xFFFFFFFFFFFF0002 := by decide
theorem test_rem : val (.rem (i3 .w64 true false)) (ab 0xFFFFFFFFFFFFFFF9 2) 9 = some 0xFFFFFFFFFFFFFFFF
    ∧ val (.rem (i3 .w64 true false)) (ab 0x8000000000000000 0xFFFFFFFFFFFFFFFF) 9 = some 0 := by decide
theorem test_abs : val (.abs (i2 .w64 true false)) (ab 0x8000000000000000 0) 9 = some 0x8000000000000000
    ∧ val (.abs (i2 .w64 true true)) (ab 0x8000000000000000 0) 9 = some 0x7FFFFFFFFFFFFFFF := by decide
theorem test_min_max : val (.min (i3 .w8x8 true false)) (ab 0x80 1) 9 = some 0x80 ∧ val (.min (i3 .w8x8 false false)) (ab 0x80 1) 9 = some 1
    ∧ val (.max (i3 .w8x8 true false)) (ab 0x80 1) 9 = some 1 := by decide
theorem test_clamp : val (.clamp (i4 .w64 true false (.lane 12))) (abc 0 7 5) 9 = some 5 := by decide
theorem test_addmin : val (.addmin (i4 .w16x4 false false (.lane 12))) (abc 0xFFFF 1 0x8000) 9 = some 0 := by decide
theorem test_addmax : val (.addmax (i4 .w16x4 false true (.lane 12))) (abc 0xFFFF 1 0x8000) 9 = some 0xFFFF := by decide
theorem test_logic : val (.and (i3 .w64 false false)) (ab 0xC 0xA) 9 = some 8 ∧ val (.or (i3 .w64 false false)) (ab 0xC 0xA) 9 = some 0xE
    ∧ val (.xor (i3 .w64 false false)) (ab 0xC 0xA) 9 = some 6 ∧ val (.andn (i3 .w64 false false)) (ab 0xC 0xA) 9 = some 4
    ∧ val (.orn (i3 .w32 true false)) (ab 0 0x7FFFFFFF) 9 = some 0xFFFFFFFF80000000 := by decide
theorem test_logic_imm : val (.andi (ii false false false 0xFFFFF0)) (ab 0xFF 0) 9 = some 0xF0
    ∧ val (.ori (ii true false false 0x800000)) (ab 1 0) 9 = some 0xFF800001
    ∧ val (.xori (ii false false false 0xFFFFFF)) (ab 0 0) 9 = some 0xFFFFFFFFFFFFFFFF := by decide
-- R74: the amount is the low eight bits; at or past the width nothing, or the sign, remains
theorem test_shifts : val (.shl (i3 .w64 false false)) (ab 1 0x140) 9 = some 0
    ∧ val (.shr (i3 .w64 false false)) (ab 0x8000000000000000 63) 9 = some 1
    ∧ val (.sar (i3 .w64 false false)) (ab 0x8000000000000000 200) 9 = some 0xFFFFFFFFFFFFFFFF
    ∧ val (.rol (i3 .w8x8 false false)) (ab 0x81 9) 9 = some 3 := by decide
theorem test_shift_imm : val (.shli (ii true true false 31)) (ab 1 0) 9 = some 0xFFFFFFFF80000000
    ∧ val (.shri (ii true false false 4)) (ab 0xFF80000000 0) 9 = some 0x08000000
    ∧ val (.sari (ii true false false 4)) (ab 0x80000000 0) 9 = some 0xF8000000 := by decide
-- R198: pos 60, len 8 is cut to four bits
theorem test_bfx : val (.bfx (i3 .w64 true false)) (ab 0x8000000000000000 0x083C) 9 = some 0xFFFFFFFFFFFFFFF8
    ∧ val (.bfx (i3 .w64 false false)) (ab 0xABCD 0x0408) 9 = some 0xB := by decide
theorem test_bfi : val (.bfi (i4 .w64 false false (.lane 12))) (abc 0xFFFF 0x1A5 0x0804) 9 = some 0xFA5F := by decide
theorem test_counts : val (.popc (i2 .w8x8 false false)) (ab 0xFF01 0) 9 = some 0x0801
    ∧ val (.clz (i2 .w16x4 false false)) (ab 0x8000000000000001 0) 9 = some 0x000000100010000F
    ∧ val (.ctz (i2 .w64 false false)) (ab 0 0) 9 = some 64
    ∧ val (.brev (i2 .w8x8 false false)) (ab 0x01 0) 9 = some 0x80 := by decide
-- bytes 15 and 7 of the pool, then byte 0 six times
theorem test_bperm : val (.bperm ⟨.always, .lane 9, .lane 10, .lane 11, .lane 12⟩) (abc 0x1122334455667788 0x99AABBCCDDEEFF00 0xFFFFFFFF0000007F) 9
    = some 0x8888888888881199 := by decide
theorem test_sel : val (.sel ⟨.always, .lane 9, .lane 10, .lane 11, .pred 5⟩) (ab 1 2) 9 = some 2
    ∧ val (.sel ⟨.always, .lane 9, .lane 10, .lane 11, .pred 0⟩) (ab 1 2) 9 = some 1 := by decide
-- R202: all ones in the elements where the condition holds; w32 unsigned fill
theorem test_cmp : val (.cmp ⟨.always, .w16x4, true, 2, .lane 9, .lane 10, .lane 11, .pred 0⟩) (ab 0x8000 0x0001000000000000) 9
      = some 0xFFFF00000000FFFF
    ∧ val (.cmp ⟨.always, .w32, false, 0, .lane 9, .lane 10, .lane 11, .pred 0⟩) (ab 5 5) 9 = some 0xFFFFFFFF
    ∧ predOf (.cmp ⟨.always, .w32, false, 0, .pred 3, .lane 10, .lane 11, .pred 5⟩) (ab 5 5) 3 = some false := by decide
theorem test_cmpi : predOf (.cmpi ⟨.always, 4, .pred 3, .lane 10, 0xFFFFFF⟩) (ab 5 0) 3 = some true
    ∧ predOf (.cmpi ⟨.always, 3, .pred 3, .lane 10, 0xFFFFFF⟩) (ab 5 0) 3 = some true := by decide
theorem test_lea : val (.lea ⟨.always, .w32, true, 7, .lane 9, .lane 10, .lane 11, .lane 12⟩) (abc 1 0x03000001 2) 9 = some 0xFFFFFFFF80000083 := by decide
theorem test_movl : val (.movl ⟨.always, 2, .lane 9, 0x12345678⟩) [(9, 0xFFFFFFFF00000005)] 9 = some 0x1234567800000005
    ∧ val (.movl ⟨.always, 1, .lane 9, 0x80000000⟩) [] 9 = some 0xFFFFFFFF80000000 := by decide
theorem test_addl : val (.addl ⟨.always, 1, .lane 9, 1⟩) [(9, 0xFFFFFFFF00000005)] 9 = some 5
    ∧ val (.addl ⟨.always, 0, .lane 9, 0xFFFFFFFF⟩) [(9, 5)] 9 = some 4 := by decide
theorem test_plog : predOf (.plog ⟨.always, 4, .pred 3, .pred 0, .pred 5⟩) [] 3 = some true
    ∧ predOf (.plog ⟨.always, 2, .pred 3, .pred 0, .pred 5⟩) [] 3 = some false := by decide
theorem test_pset : predOf (.pset ⟨.always, 1, .pred 3, .lane 10, .lane 11⟩) (ab 4 0x42) 3 = some false
    ∧ predOf (.pset ⟨.always, 0, .pred 3, .lane 10, .lane 11⟩) (ab 4 0x42) 3 = some true := by decide


/-! #### Float arithmetic -/

def f2 (fmt : FFmt) (rm : RM) (ftz : Bool) : Flt2 := ⟨.always, ⟨fmt, rm, ftz⟩, .lane 9, .lane 10⟩
def fl3 (fmt : FFmt) (rm : RM) (ftz : Bool) : Flt3 := ⟨.always, ⟨fmt, rm, ftz⟩, .lane 9, .lane 10, .lane 11⟩
def fl4 (fmt : FFmt) (rm : RM) (ftz : Bool) : Flt4 := ⟨.always, ⟨fmt, rm, ftz⟩, .lane 9, .lane 10, .lane 11, .lane 12⟩
def fu (fmt : FFmt) (ftz : Bool) : FUn := ⟨.always, fmt, ftz, .lane 9, .lane 10⟩
/-- The result in lane register 9, and the flags. -/
def res (i : Instr) (vs : List (Nat × Word)) : Option (Word × BitVec 5) :=
  ((next (exec i (State.lanes one vs))).thread? 0 0 0).map (fun th => (th.lane 9, th.fflags))

-- 1 + 2^−53 is half-way between 1 and 1 + 2^−52; f16 65504 + 65504 overflows; −1 + 1 is −0 under rdn
theorem test_fadd : res (.fadd (fl3 .f64 .rne false)) (ab 0x3FF0000000000000 0x3CA0000000000000) = some (0x3FF0000000000000, 1)
    ∧ res (.fadd (fl3 .f16x4 .rup false)) (ab 0x00003C007BFF0000 0x0000BC007BFF0000) = some (0x000000007C000000, 5)
    ∧ res (.fadd (fl3 .f32 .rdn false)) (ab 0xBF800000 0x3F800000) = some (0x80000000, 0) := by decide
theorem test_fsub : res (.fsub (fl3 .f32x2 .rne false)) (ab 0x7F8000003F800000 0x7F80000040000000) = some (0x7FC00000BF800000, 16) := by decide
-- the product of the manual, half-way between two neighbours; a tiny result flushed to a zero of its sign
theorem test_fmul : res (.fmul (fl3 .f32 .rne false)) (ab 0x3F800800 0x3F800800) = some (0x3F801000, 1)
    ∧ res (.fmul (fl3 .f32 .rne true)) (ab 0x80800000 0x3F000000) = some (0x80000000, 3) := by decide
-- 1 + 1·1 in each form, and an invalid product beside a quiet NaN
theorem test_ffma : res (.ffma (fl4 .bf16x4 .rne false)) (abc 0x3F803F803F803F80 0x40004000BF80BF80 0x3F803F803F80BF80)
      = some (0x404040400000C000, 0)
    ∧ res (.ffma (fl4 .f32 .rne false)) (abc 0 0x7F800000 0x7FC00000) = some (0x7FC00000, 16) := by decide
-- the exact error of the product of the manual, 2^−24
theorem test_ffms : res (.ffms (fl4 .f32 .rne false)) (abc 0x3F800800 0x3F800800 0x3F801000) = some (0x33800000, 0) := by decide
theorem test_fnma : res (.fnma (fl4 .f64 .rne false)) (abc 0x4000000000000000 0x4000000000000000 0x3FF0000000000000)
      = some (0xC008000000000000, 0) := by decide
-- R85: −0 below +0; a signalling NaN
theorem test_fmin : res (.fmin ⟨.always, .f32, false, false, .lane 9, .lane 10, .lane 11⟩) (ab 0 0x80000000) = some (0x80000000, 0)
    ∧ res (.fmin ⟨.always, .f32, false, false, .lane 9, .lane 10, .lane 11⟩) (ab 0x7FC00001 0x3F800000) = some (0x7FC00000, 0) := by decide
theorem test_fmax : res (.fmax ⟨.always, .f32, false, true, .lane 9, .lane 10, .lane 11⟩) (ab 0x7F800001 0x3F800000) = some (0x3F800000, 16)
    ∧ res (.fmax ⟨.always, .f32, false, false, .lane 9, .lane 10, .lane 11⟩) (ab 0 0x80000000) = some (0, 0) := by decide
theorem test_sign_words : res (.fabs (fu .f16x4 true)) (ab 0x8001FE00FD00BC00 0) = some (0x00007E007E003C00, 16)
    ∧ res (.fneg (fu .f64 false)) (ab 0x8000000000000001 0) = some (1, 0)
    ∧ res (.fsign ⟨.always, .f32x2, false, .lane 9, .lane 10, .lane 11⟩) (ab 0x3F800000BF800000 0xFFC0000000000000)
      = some (0xBF8000003F800000, 0) := by decide
theorem test_fcmp : res (.fcmp ⟨.always, .f16x4, 2, false, .lane 9, .lane 10, .lane 11, .pred 0⟩) (ab 0xBC0000003C007E00 0x3C0080003C003C00)
      = some (0xFFFF000000000000, 16)
    ∧ res (.fcmp ⟨.always, .f32, 1, false, .lane 9, .lane 10, .lane 11, .pred 0⟩) (ab 0x7FC00000 0) = some (0xFFFFFFFF, 0) := by decide
-- a signalling NaN, −0, a positive subnormal and −∞
theorem test_fclass : res (.fclass (fu .f16x4 false)) (ab 0x7D0080000001FC00 0) = some (0x0100000800200001, 0) := by decide
theorem test_fdiv : res (.fdiv (fl3 .f32 .rtz false)) (ab 0x3F800000 0x40400000) = some (0x3EAAAAAA, 1)
    ∧ res (.fdiv (fl3 .f32x2 .rne false)) (ab 0xBF80000000000000 0) = some (0xFF8000007FC00000, 24) := by decide
theorem test_fsqrt : res (.fsqrt (f2 .f32 .rne false)) (ab 0x40000000 0) = some (0x3FB504F3, 1)
    ∧ res (.fsqrt (f2 .f32x2 .rne false)) (ab 0x80000000BF800000 0) = some (0x800000007FC00000, 16) := by decide +kernel
-- −0.25 under rtz gives −0; 2.5 to 2 under rne and to 3 under rna
theorem test_frnd : res (.frnd (f2 .f64 .rtz false)) (ab 0xBFD0000000000000 0) = some (0x8000000000000000, 1)
    ∧ res (.frnd (f2 .f32 .rna false)) (ab 0x40200000 0) = some (0x40400000, 1) := by decide
-- 1.5·2^−149 in exact arithmetic is half-way between two subnormals
theorem test_fscale : res (.fscale (fl3 .f32 .rne false)) (ab 0x3FC00000 0xFFFFFF6B) = some (2, 3)
    ∧ res (.fscale (fl3 .f64 .rne false)) (ab 0xFFF0000000000000 5) = some (0xFFF0000000000000, 0) := by decide
theorem test_fgetexp : res (.fgetexp (fu .f64 false)) (ab 1 0) = some (0xC090C80000000000, 0)
    ∧ res (.fgetexp (fu .f32 false)) (ab 0 0) = some (0xFF800000, 8) := by decide
theorem test_fgetmant : res (.fgetmant (fu .f64 false)) (ab 0x8000000000000003 0) = some (0xBFF8000000000000, 0)
    ∧ res (.fgetmant (fu .f32 false)) (ab 0x7F800000 0) = some (0x7FC00000, 16) := by decide
-- the two sums of the manual
theorem test_twosum : res (.twosum (fl4 .f32 .rne false)) (ab 0x3F801000 0x33800000) = some (0x3F801000, 1)
    ∧ val (.twosum (fl4 .f32 .rne false)) (ab 0x3F800001 0x33800000) 12 = some 0xB3800000 := by decide
theorem test_faddmin : res (.faddmin (fl4 .f32 .rne false)) (abc 0x3F800000 0x3F800000 0x7F800001) = some (0x7FC00000, 16)
    ∧ res (.faddmin (fl4 .f32 .rne false)) (abc 0x3F800000 0x3F800000 0x3F000000) = some (0x3F000000, 0) := by decide

/-! #### Conversions -/

def cf (fmt : FFmt) (rm : RM) (sf pos : BitVec 4) : CvtF := ⟨.always, ⟨fmt, rm, false⟩, sf, pos, .lane 9, .lane 10, if sf.toNat ≤ 4 then .lane 0 else .lane 11⟩
-- the two placements of the manual, with 1.0 and 2.0
theorem test_cvtf : res (.cvtf (cf .f16x4 .rne 1 2)) [(9, 0x1111222233334444), (10, 0x3F800000)] = some (0x11113C0033334444, 0)
    ∧ res (.cvtf (cf .f32 .rne 3 3)) [(10, 0x4000000000000000)] = some (0x40000000, 0) := by decide
-- 300.0 does not fit i8; −1.5 under rtz
theorem test_cvtfi : res (.cvtfi ⟨.always, ⟨.f32, .rne, false⟩, 3, true, .lane 9, .lane 10⟩) (ab 0x43960000 0) = some (127, 16)
    ∧ res (.cvtfi ⟨.always, ⟨.f64, .rtz, false⟩, 1, true, .lane 9, .lane 10⟩) (ab 0xBFF8000000000000 0) = some (0xFFFFFFFFFFFFFFFF, 1) := by
  decide
-- 2^24 + 1 does not fit f32; 65535 does not fit f16
theorem test_cvtif : res (.cvtif ⟨.always, ⟨.f32, .rup, false⟩, 0, false, .lane 9, .lane 10⟩) (ab 0x1000001 0) = some (0x4B800001, 1)
    ∧ res (.cvtif ⟨.always, ⟨.f16x4, .rne, false⟩, 2, false, .lane 9, .lane 10⟩) (ab 0xFFFF 0) = some (0x7C00, 5) := by decide
-- under E = 0x80, 5.0 and 0.75 become e2m1 codes 4 and 1; −2.5 and 13 become 0xA and 7
theorem test_cvtn : res (.cvtn ⟨.always, .f32x2, 0, false, 9, 1, .lane 9, .lane 10, .lane 11⟩) [(9, 0xFFFFFFFFFFFFFFFF), (10, 0x3F40000040A00000), (11, 0x80)]
      = some (0xFFFFFFFFFFFF14FF, 1)
    ∧ res (.cvtn ⟨.always, .f32x2, 0, false, 9, 0, .lane 9, .lane 10, .lane 11⟩) [(10, 0x41500000C0200000), (11, 0x80)] = some (0x7A, 1) := by
  decide
theorem test_scaleest : res (.scaleest ⟨.always, .f32x2, false, 9, .lane 9, .lane 10⟩) (ab 0xC150000040A00000 0) = some (0x80, 0)
    ∧ res (.scaleest ⟨.always, .f32, false, 6, .lane 9, .lane 10⟩) (ab 0xFF800000 0) = some (0xFE, 0) := by decide
/-- Entry 1 of codebook slot 2 is −1.5. -/
def coded (vs : List (Nat × Word)) : State :=
  (State.lanes one vs).updCore 0 (fun k => { k with engCtx := some 0, eng := { Engines.new with cbook := [(66, 0xC0), (67, 0xBF)] } })
-- nibble 5 is code 1, and E = 0x80 doubles its entry
theorem test_cbdec : ((next (exec (.cbdec ⟨.always, ⟨.f16x4, .rne, false⟩, 2, true, 1, .lane 9, .lane 10, .lane 11⟩)
      (coded (ab 0x100000 0x80)))).thread? 0 0 0).map (fun th => th.lane 9) = some 0x00000000C2000000 := by decide
theorem test_pack : val (.pack ⟨.always, false, .lane 9, .lane 10, .lane 0⟩) (ab 0xC0000000000003BF 0) 9 = some 0xFF
    ∧ val (.pack ⟨.always, true, .lane 9, .lane 10, .lane 11⟩) (ab 0xF70605F4F3F2F1F0 0x0F0E0D0C0B0A0908) 9 = some 0xFEDCBA9876543210 := by decide
-- the e2m3 codes 0x08 (1.0) and 0x2C (−1.5) stand at places 0 and 1
theorem test_unpack : res (.unpack (cf .f32x2 .rne 8 0)) (ab 0xFFFF000000000B08 0x7F) = some (0xBFC000003F800000, 0) := by decide

/-! #### Special functions, at the inputs whose results the manual gives -/

def sf (fmt : FFmt) : SfuF := ⟨.always, fmt, 0, false, .lane 9, .lane 10⟩
theorem test_exp2_log2 : res (.exp2 (sf .f32x2)) (ab 0xFF80000043000000 0) = some (0x000000007F800000, 5)
    ∧ res (.exp2 (sf .f32)) (ab 0x80000000 0) = some (0x3F800000, 0)
    ∧ res (.log2 (sf .f32x2)) (ab 0x3F800000BF800000 0) = some (0x000000007FC00000, 16)
    ∧ res (.log2 (sf .f32)) (ab 0x80000000 0) = some (0xFF800000, 8) := by decide
-- 2^22 + 1/2 and 2^22 + 1, where the results are exact
theorem test_sinpi_cospi : res (.sinpi (sf .f32x2)) (ab 0x4A8000014A800002 0) = some (0x3F80000080000000, 3)
    ∧ res (.cospi (sf .f32x2)) (ab 0x4A8000014A800002 0) = some (0x00000000BF800000, 3)
    ∧ res (.sinpi (sf .f32)) (ab 0x7F800000 0) = some (0x7FC00000, 16) := by decide
theorem test_curves : res (.tanh (sf .f32x2)) (ab 0xC110000080000000 0) = some (0xBF80000080000000, 1)
    ∧ res (.erf (sf .f32)) (ab 0x40800000 0) = some (0x3F800000, 1)
    ∧ res (.sigm (sf .f32x2)) (ab 0xFF80000080000000 0) = some (0x000000003F000000, 0)
    ∧ res (.silu (sf .f32x2)) (ab 0xFF80000080000000 0) = some (0x8000000080000000, 0) := by decide
theorem test_reciprocals : res (.rcp (sf .f16x4)) (ab 0xFC00000080007C00 0) = some (0x80007C00FC000000, 8)
    ∧ res (.rsqrt (sf .f32x2)) (ab 0x80000000BF800000 0) = some (0xFF8000007FC00000, 24)
    ∧ res (.rcpseed (sf .f64)) (ab 0xFFF0000000000000 0) = some (0x8000000000000000, 0)
    ∧ res (.rsqseed (sf .f64)) (ab 0xBFF0000000000000 0) = some (0x7FF8000000000000, 16) := by decide


/-! #### Cross-lane words: the warp of the manual -/

/-- Eight ranks of one warp, with 10 times the rank in lane register 1; rank 5 has exited and p3 is false at rank 2. -/
def warp8 : State :=
  let s := one.updBlock 0 0 (fun b => { b with threads := (List.range 8).flatMap (fun r => b.threads.map (fun th =>
    { ((th.setLane 1 (BitVec.ofNat 64 (10 * r))).setPred 3 (r != 2)) with ltid := r, off := r, rank := r, exited := r == 5 })) })
  { State.launch s (fun l => { l with tree := ⟨3, 16, 0, 0, [⟨.warp, 8, 4, 8, 0⟩, ⟨.core, 1, 4, 8, 0⟩]⟩ }) with
    cur := some ⟨0, 0, 0, 0x10000, [0, 1, 2, 3, 4, 6, 7]⟩ }
/-- A lane register of each rank, once all have arrived and the operation has been executed. -/
def ranks (i : Instr) (r : Nat) : List Word :=
  match (next (exec (.rendezvousComplete 0 0 0) (next (exec i warp8)))).block? 0 0 with
  | some b => b.threads.map (fun th => th.lane r)
  | none => []
def p3 : Guard := ⟨3, false⟩
def lv (mode : BitVec 2) (a b : Operand) (imm : BitVec 6) : LvlF := ⟨p3, 1, mode, .lane 2, a, b, imm⟩

theorem test_lshift : ranks (.lshift (lv 0 (.lane 1) (.const 0) 1)) 2 = [0, 0, 0, 0, 30, 0, 0, 60] := by decide
theorem test_shfl : ranks (.shfl (lv 3 (.lane 1) (.const 1) 0)) 2 = [10, 0, 0, 30, 40, 0, 70, 60] := by decide
theorem test_reduce : ranks (.reduce ⟨p3, 1, .addN64, false, .rne, .lane 2, .lane 1⟩) 2 = [210, 210, 0, 210, 210, 0, 210, 210] := by decide
theorem test_scan : ranks (.scan ⟨p3, 1, .addN64, false, .rne, .lane 2, .lane 1⟩) 2 = [0, 10, 0, 40, 80, 0, 140, 210] := by decide
theorem test_compact : ranks (.compact (lv 0 (.lane 1) (.lane 7) 0)) 2 = [0, 0, 0, 1, 2, 0, 3, 4]
    ∧ ranks (.compact (lv 0 (.lane 1) (.lane 7) 0)) 7 = [5, 5, 0, 5, 5, 0, 5, 5] := by decide
theorem test_elect : ranks (.elect (lv 0 (.lane 0) (.lane 0) 0)) 2 = [1, 0, 0, 0, 0, 0, 0, 0] := by decide
theorem test_match : ranks (.match_ (lv 0 (.special 63) (.lane 0) 0)) 2 = [0xDB, 0xDB, 0, 0xDB, 0xDB, 0, 0xDB, 0xDB]
    ∧ ranks (.match_ (lv 0 (.lane 1) (.lane 0) 0)) 2 = [1, 2, 0, 8, 16, 0, 64, 128] := by decide
theorem test_vote : ranks (.vote (lv 0 (.lane 1) (.lane 0) 0)) 2 = [0, 0, 0, 0, 0, 0, 0, 0]
    ∧ ranks (.vote (lv 1 (.lane 1) (.lane 0) 0)) 2 = [1, 1, 0, 1, 1, 0, 1, 1] := by decide
theorem test_ballot : ranks (.ballot (lv 0 (.lane 1) (.lane 0) 0)) 2 = [0xDA, 0xDA, 0, 0xDA, 0xDA, 0, 0xDA, 0xDA] := by decide

/-! #### Memory -/

/-- Lane register 10 holds an address of the mapped page, whose bytes are 0x81 to 0x88; lane register 11 a value. -/
def data : State := { State.lanes one [(10, 0x10100), (11, 0x1122334455667788)] with
  mem := (List.range 16).map (fun k => (0x10100 + k, BitVec.ofNat 8 (0x81 + k))) }
def after (i : Instr) (r : Nat) : Option Word := ((next (exec i data)).thread? 0 0 0).map (fun th => th.lane r)
/-- What the chunk has written. -/
def written (i : Instr) (s : State) : Overlay := ((next (exec i s)).core 0).chunk.ovl

theorem test_ld : after (.ld ⟨.always, .b16, true, 0, .lane 9, .lane 10, 2⟩) 9 = some 0xFFFFFFFFFFFF8483
    ∧ after (.ld ⟨.always, .b8, false, 0, .lane 9, .lane 10, 0xFFFFF⟩) 9 = some 0 := by decide
theorem test_ldp : after (.ldp ⟨.always, 0, .lane 8, .lane 10, 0⟩) 8 = some 0x8887868584838281
    ∧ after (.ldp ⟨.always, 0, .lane 8, .lane 10, 0⟩) 9 = some 0x908F8E8D8C8B8A89 := by decide
theorem test_lr : after (.lr ⟨.always, .b32, false, 0, .lane 9, .lane 10, 4⟩) 9 = some 0x88878685
    ∧ ((next (exec (.lr ⟨.always, .b32, false, 0, .lane 9, .lane 10, 4⟩) data)).thread? 0 0 0).map (fun th => th.resv)
      = some (some (0x10104, 4)) := by decide
theorem test_st : written (.st ⟨.always, .b16, 0, .lane 11, .lane 10, 2⟩) data = [(0x10102, 0x88), (0x10103, 0x77)] := by decide
theorem test_stp : (written (.stp ⟨.always, 0, .lane 10, .lane 10, 0⟩) data).drop 7 = [(0x10107, 0), (0x10108, 0x88), (0x10109, 0x77),
    (0x1010A, 0x66), (0x1010B, 0x55), (0x1010C, 0x44), (0x1010D, 0x33), (0x1010E, 0x22), (0x1010F, 0x11)] := by decide
theorem test_atom : after (.atom ⟨.always, false, 0, .lane 9, .lane 10, .lane 11, .lane 0⟩) 9 = some 0x84838281
    ∧ written (.atom ⟨.always, false, 0, .lane 9, .lane 10, .lane 11, .lane 0⟩) data
      = [(0x10100, 0x09), (0x10101, 0xFA), (0x10102, 0xE9), (0x10103, 0xD9)] := by decide
def held (w : Nat) : State := State.threads data (fun th => { th with resv := some (0x10100, w) })
theorem test_sc : ((next (exec (.sc ⟨.always, true, 0, .lane 9, .lane 10, .lane 11⟩) (held 8))).thread? 0 0 0).map (fun th => (th.lane 9, th.resv))
      = some (0, none)
    ∧ ((next (exec (.sc ⟨.always, true, 0, .lane 9, .lane 10, .lane 11⟩) (held 4))).thread? 0 0 0).map (fun th => th.lane 9) = some 1
    ∧ written (.sc ⟨.always, true, 0, .lane 9, .lane 10, .lane 11⟩) (held 4) = [] := by decide
/-- The causes that the served record of the core holds. -/
def causeOf (i : Instr) (s : State) : Option Nat :=
  ((next (exec i { s with ctxs := (s.updCtx 0 (fun x => { x with handler := 0x20000 })).ctxs })).core 0).arch.serving.map
    (fun f => f.cause.toNat % 256)

-- R386: ALIGN of an odd address, PERM of an address outside the map's ranges, XLATE of a page that is not mapped
theorem test_load_faults : causeOf (.ld ⟨.always, .b64, false, 0, .lane 9, .lane 10, 1⟩) data = some 7
    ∧ causeOf (.ld ⟨.always, .b8, false, 0, .lane 9, .lane 11, 0⟩) data = some 9 := by decide

/-! #### Control -/

theorem test_bra : pcAfter (.bra ⟨.always, 0xFFFFFFF8⟩) one = some 0xFFF8
    ∧ pcAfter (.bra ⟨⟨5, false⟩, 0x100⟩) one = some 0x10008 := by decide
theorem test_bru : pcAfter (.bru ⟨.always, true, .pred 4, 0x40⟩) one = some 0x10040
    ∧ pcAfter (.bru ⟨.always, false, .pred 4, 0x40⟩) one = some 0x10008 ∧ causeOf (.bru bruW) twoP = some 2 := by decide
theorem test_jmp : pcAfter (.jmp ⟨.always, false, .lane 10, 0xFFFFFFF8⟩) (State.lanes one [(10, 0x20000)]) = some 0x1FFF8
    ∧ causeOf (.jmp ⟨.always, false, .lane 10, 0⟩) (State.lanes one [(10, 0x20004)]) = some 7 := by decide
-- the link is PC + 8; CALLI reads its target first
theorem test_call : pcAfter (.call ⟨.always, false, .lane 125, 0x100⟩) one = some 0x10100
    ∧ val (.call ⟨.always, false, .lane 125, 0x100⟩) [] 125 = some 0x10008
    ∧ pcAfter (.calli ⟨.always, false, .lane 10, 8⟩) (State.lanes one [(10, 0x20000)]) = some 0x20008
    ∧ val (.calli ⟨.always, false, .lane 10, 8⟩) [(10, 0x20000)] 10 = some 0x10008
    ∧ pcAfter (.ret ⟨.always, false, .lane 10, 0⟩) (State.lanes one [(10, 0x20000)]) = some 0x20000 := by decide
theorem test_coswap : pcAfter (.coswap ⟨.always, .lane 10⟩) (State.lanes one [(10, 0x20000), (11, 5)]) = some 0x20000
    ∧ val (.coswap ⟨.always, .lane 10⟩) [(10, 0x20000), (11, 5)] 10 = some 0x10008
    ∧ causeOf (.coswap ⟨.always, .lane 10⟩) (State.lanes one [(10, 4)]) = some 7 := by decide
theorem test_exit : ((next (exec (.exit .always) one)).thread? 0 0 0).map (fun th => th.exited) = some true := by decide
theorem test_pcget : val (.pcget ⟨.always, false, .lane 9, 0xFFFFFFF8⟩) [] 9 = some 0xFFF8
    ∧ pcAfter (.nop .always) one = some 0x10008 := by decide
theorem test_mov : val (.mov ⟨.always, .w32, true, false, false, .addN64, .lane 9, .lane 10⟩) [(10, 0x80000000)] 9 = some 0xFFFFFFFF80000000
    ∧ flagsAfter (.mov ⟨.always, .w64, false, false, false, .addN64, .special 38, .lane 10⟩) [(10, 0xFFF5)] = some 0x15 := by decide

/-! #### Paired words -/

def h7 (d s imm : BitVec 7) : HalfF := ⟨false, 0, d, s, imm⟩
/-- Both registers after a paired word, whose second half is MOVI −64 to lane register 13. -/
def both (i : Instr) (a b : Word) : Option (Word × Word) :=
  ((next (exec i (State.lanes one [(8, a), (9, b)]))).thread? 0 0 0).map (fun th => (th.lane 8, th.lane 13))
def bHalf : Half := ⟨.movi, h7 13 0 64⟩
def m64 : Word := 0xFFFFFFFFFFFFFFC0

theorem test_pair_integer : both (.pairMov (h7 8 9 0) bHalf) 1 2 = some (2, m64) ∧ both (.pairAdd (h7 8 9 0) bHalf) 1 0xFFFFFFFFFFFFFFFF = some (0, m64)
    ∧ both (.pairAddi (h7 8 0 127) bHalf) 1 2 = some (0, m64) ∧ both (.pairSub (h7 8 9 0) bHalf) 1 2 = some (0xFFFFFFFFFFFFFFFF, m64)
    ∧ both (.pairMin (h7 8 9 0) bHalf) 1 0x8000000000000000 = some (0x8000000000000000, m64)
    ∧ both (.pairMax (h7 8 9 0) bHalf) 1 0x8000000000000000 = some (1, m64)
    ∧ both (.pairMul (h7 8 9 0) bHalf) 0x100010000 0x8000 = some (0xFFFFFFFF80000000, m64) := by decide
theorem test_pair_logic : both (.pairAnd (h7 8 9 0) bHalf) 0xC 0xA = some (8, m64) ∧ both (.pairOr (h7 8 9 0) bHalf) 0xC 0xA = some (0xE, m64)
    ∧ both (.pairXor (h7 8 9 0) bHalf) 0xC 0xA = some (6, m64) ∧ both (.pairShli (h7 8 0 64) bHalf) 1 0 = some (0, m64)
    ∧ both (.pairShri (h7 8 0 63) bHalf) 0x8000000000000000 0 = some (1, m64)
    ∧ both (.pairSari (h7 8 0 127) bHalf) 0x8000000000000000 0 = some (0xFFFFFFFFFFFFFFFF, m64)
    ∧ both (.pairMovi (h7 8 0 63) bHalf) 1 2 = some (63, m64) ∧ both (.pairNop (h7 0 0 0) bHalf) 1 2 = some (1, m64) := by decide
theorem test_pair_float : both (.pairFaddF32 (h7 8 9 0) bHalf) 0x3F800000 0x3F800000 = some (0x40000000, m64)
    ∧ both (.pairFmulF32 (h7 8 9 0) bHalf) 0x40000000 0x40400000 = some (0x40C00000, m64)
    ∧ both (.pairFaddF64 (h7 8 9 0) bHalf) 0x3FF0000000000000 0xBFF0000000000000 = some (0, m64)
    ∧ both (.pairFmulF64 (h7 8 9 0) bHalf) 0x4000000000000000 0xC008000000000000 = some (0xC018000000000000, m64)
    ∧ both (.pairFminF64 (h7 8 9 0) bHalf) 0 0x8000000000000000 = some (0x8000000000000000, m64)
    ∧ both (.pairFmaxF64 (h7 8 9 0) bHalf) 0x8000000000000000 0 = some (0, m64)
    ∧ both (.pairFminF32 (h7 8 9 0) bHalf) 0x7F800001 0 = some (0x7FC00000, m64)
    ∧ both (.pairFmaxF32 (h7 8 9 0) bHalf) 0xBF800000 0 = some (0, m64) := by decide

/-! #### Barriers, lehr registers and waits -/

def waitOf (i : Instr) (s : State) : Option Wait := ((next (exec i s)).thread? 0 0 0).map (fun th => th.wait)
theorem test_bar : waitOf (barW 1) warp2 = some (.barrier 1) ∧ waitOf (mbarW 2) masked1 = some (.barrier 2) := by decide
-- the token is the count of completed phases
theorem test_bara : ((next (exec (baraW 2) warp2)).thread? 0 0 0).map (fun th => (th.lane 9, th.wait)) = some (0, .run) := by decide
theorem test_barw : waitOf (.barw (barwF 1)) token1 = some .run ∧ pcAfter (.barw (barwF 1)) token1 = some 0x10008 := by decide
theorem test_waitseq : ((next (exec (.waitseq waitF) (waiting 5))).thread? 0 0 0).map (fun th => (th.lane 9, th.pc)) = some (5, 0x10008)
    ∧ ((next (exec (.waitseq waitF) (waiting 6))).thread? 0 0 0).map (fun th => th.pc) = some 0x10000 := by decide
theorem test_waitval : ((next (exec (.waitval { waitF with cc := 1 }) (waiting 6))).thread? 0 0 0).map (fun th => (th.lane 9, th.pc)) = some (5, 0x10008) := by
  decide

/-! #### System words of the handler thread -/

theorem test_sysrd : ((next (exec (.sysrd ⟨.always, .lane 9, 0x00E⟩) served)).thread? 0 handlerSlot 0).map (fun th => th.lane 9) = some 0x100
    ∧ ((next (exec (.sysrd ⟨.always, .lane 9, 0x002⟩) served)).thread? 0 handlerSlot 0).map (fun th => th.lane 9) = some 0x10008 := by decide
-- bits 2:0 of ctl.epc stay zero
theorem test_syswr : ((next (exec (.syswr ⟨.always, .lane 9, 2⟩) (State.handler served [(9, 0x2000F)]))).core 0).arch.epc = 0x20008 := by decide
theorem test_eret : ((next (exec (.eret .always) served)).thread? 0 0 0).map (fun th => (th.pc, th.wait)) = some (0x10008, .run) := by decide
theorem test_trap : causeOf (.trap ⟨.always, .lane 10, 7⟩) one = some 0x0D ∧ pcAfter (.bkpt ⟨.always, .lane 10, 7⟩) one = some 0x10008
    ∧ causeOf (.halt ⟨.always, .lane 10⟩) one = some 0x0F := by decide
theorem test_grpwr : ((next (exec (.grpwr wrF) writes)).thread? 0 0 0).map (fun th => th.lane 127) = some 5 := by decide

end Sys2Proof.Tests
end

section
/-! Proof of O42: SYSRD and SYSWR read and write the system registers (R8, R345, R346, R353). -/

namespace Sys2Proof

/-! ### Fields of an encoded word -/

section
open BitVec
variable (op : BitVec 8) (g : Guard) (m : BitVec 3) (d a : BitVec 10) (imm : BitVec 24)

@[simp] theorem fOp_encFI : fOp (encFI op g m d a imm) = op := by
  unfold fOp encFI
  repeat rw [extractLsb'_append_eq_of_le (by decide)]
  exact extractLsb'_append_eq_right

@[simp] theorem fIA_encFI : fIA (encFI op g m d a imm) = a :=
  (extractLsb'_append_eq_of_le (by decide)).trans extractLsb'_append_eq_right

theorem getLsbD_encFI_pairBit : (encFI op g m d a imm).getLsbD 63 = false := by
  unfold encFI
  repeat rw [getLsbD_append, if_neg (by decide)]
  rfl

theorem extract_encFI_index (i : BitVec 12) : (encFI op g m d a (0#12 ++ i)).extractLsb' 0 12 = i :=
  (extractLsb'_append_eq_of_add_le (by decide)).trans extractLsb'_append_eq_right

end

theorem Operand.dec_enc : ∀ o : Operand, Operand.dec o.enc = some o
  | .lane i => by revert i; decide
  | .const k => by revert k; decide
  | .special i => by revert i; decide
  | .pred i => by revert i; decide
  | .scoped l i => by revert l i; decide

@[simp] theorem Operand.get_enc (o : Operand) : Operand.get o.enc = o := by
  rw [Operand.get, Operand.dec_enc, Option.getD_some]

end Sys2Proof

namespace Sys2Proof.Machine

/-! ### Low bits of a word -/

theorem getLsbD_lowMask (n : Nat) {i : Nat} (hi : i < 64) :
    (BitVec.ofNat 64 (2 ^ n - 1)).getLsbD i = decide (i < n) := by
  rw [BitVec.getLsbD_ofNat, Nat.testBit_two_pow_sub_one, decide_eq_true hi, Bool.true_and]

/-- A field of the low bits, read as a word, is the word under its mask. -/
theorem setWidth_extractLow (w : Word) (n : Nat) :
    (w.extractLsb' 0 n).setWidth 64 = w &&& BitVec.ofNat 64 (2 ^ n - 1) := by
  refine BitVec.eq_of_getLsbD_eq fun i hi => ?_
  rw [BitVec.getLsbD_and, getLsbD_lowMask n hi, Bool.and_comm]
  simp [hi]

/-- The two bits of `ctl.status` stand below the count of queued faults (R346). -/
theorem getLsbD_statusWord (a : CoreArch) {i : Nat} (hi : i < 64) :
    (statusWord a).getLsbD i
      = if i < 2 then a.status.getLsbD i else (a.faultq.length * 2 ^ 14).testBit (i - 2) := by
  have h : a.status.toNat + a.faultq.length * 2 ^ 16 = 2 ^ 2 * (a.faultq.length * 2 ^ 14) + a.status.toNat := by omega
  rw [statusWord, BitVec.getLsbD_ofNat, h, Nat.testBit_two_pow_mul_add _ a.status.isLt, decide_eq_true hi, Bool.true_and]
  rfl

/-- A write of the two bits leaves the count as it is (R346). -/
theorem statusWord_write (a : CoreArch) (w : Word) :
    statusWord { a with status := w.extractLsb' 0 2 } = (w &&& 3) ||| (statusWord a &&& ~~~3) := by
  refine BitVec.eq_of_getLsbD_eq fun i hi => ?_
  have h3 : (3 : Word).getLsbD i = decide (i < 2) := getLsbD_lowMask 2 hi
  rw [BitVec.getLsbD_or, BitVec.getLsbD_and, BitVec.getLsbD_and, BitVec.getLsbD_not, h3, getLsbD_statusWord _ hi,
    getLsbD_statusWord _ hi]
  by_cases h : i < 2 <;> simp [h, hi]

/-! ### What an update of a core or a context leaves alone -/

section
variable (s : State) (e : Site) (b : Block) (c x : Nat) (f : CoreSt → CoreSt) (g : Ctx → Ctx)

@[simp] theorem State.ctx_updCore : (s.updCore c f).ctx x = s.ctx x := rfl
@[simp] theorem State.launchOf_updCore : (s.updCore c f).launchOf b = s.launchOf b := rfl
@[simp] theorem Site.ctx_updCore : e.ctx (s.updCore c f) = e.ctx s := rfl
@[simp] theorem State.core_updCtx : (s.updCtx x g).core c = s.core c := rfl
@[simp] theorem State.launchOf_updCtx : (s.updCtx x g).launchOf b = s.launchOf b := rfl
@[simp] theorem Site.ctx_updCtx : e.ctx (s.updCtx x g) = e.ctx s := rfl
@[simp] theorem grpReg_updCtx : grpReg (s.updCtx x g) c = grpReg s c := rfl

end

/-! ### System registers after a write

The registers that can be written stand in three places: the performance monitors of the core, its fault registers, and the context.
A write to one place is read in no register whose own field it keeps; a field that a hypothesis does not name is kept. -/

section
variable (s : State) (e : Site)

theorem ctlRead_monitorWrite {pc : CoreSt → Tab Word} {ps : CoreSt → Tab (BitVec 8)} {j : Nat}
    (hc : ¬ 0x108 ≤ j → 0x100 ≤ j → ∀ k, Tab.get 0 (pc k) (j - 0x100) = Tab.get 0 k.pmc (j - 0x100) := by
      exact fun _ _ _ => rfl)
    (hs : 0x108 ≤ j → ∀ k, Tab.get 0 (ps k) (j - 0x108) = Tab.get 0 k.pmsel (j - 0x108) := by exact fun _ _ => rfl) :
    ctlRead (s.updCore e.cur.core (fun k => { k with pmc := pc k, pmsel := ps k })) e j = ctlRead s e j := by
  unfold ctlRead
  split
  · next h => simpa using congrArg (BitVec.setWidth 64) (hs h _)
  split
  · next h h' => simpa using hc h h' _
  split <;> simp [grpReg, State.block?, chunkReg]

theorem ctlRead_faultWrite {st : CoreArch → BitVec 2} {ca ep em ea : CoreArch → Word} {j : Nat}
    (h0 : j = 0x000 → ∀ a, st a = a.status := by exact fun _ _ => rfl)
    (h1 : j = 0x001 → ∀ a, ca a = a.cause := by exact fun _ _ => rfl)
    (h2 : j = 0x002 → ∀ a, ep a = a.epc := by exact fun _ _ => rfl)
    (h3 : j = 0x003 → ∀ a, em a = a.emask := by exact fun _ _ => rfl)
    (h4 : j = 0x004 → ∀ a, ea a = a.eaddr := by exact fun _ _ => rfl) :
    ctlRead (s.updArch e.cur.core (fun a =>
      { a with status := st a, cause := ca a, epc := ep a, emask := em a, eaddr := ea a })) e j = ctlRead s e j := by
  unfold State.updArch ctlRead
  split
  · simp
  split
  · simp
  split <;> simp_all [grpReg, statusWord, State.block?, CoreArch.block?, chunkReg]

theorem ctlRead_ctxWrite {hd sd fa ra : Ctx → Word} {j : Nat}
    (h6 : j = 0x006 → ∀ k, hd k = k.handler := by exact fun _ _ => rfl)
    (hA : j = 0x00A → ∀ k, sd k = k.seed := by exact fun _ _ => rfl)
    (hB : j = 0x00B → ∀ k, fa k = k.fair := by exact fun _ _ => rfl)
    (hC : j = 0x00C → ∀ k, ra k = k.race := by exact fun _ _ => rfl) :
    ctlRead (s.updCtx (e.ctx s) (fun k => { k with handler := hd k, seed := sd k, fair := fa k, race := ra k })) e j
      = ctlRead s e j := by
  unfold ctlRead
  split
  · rfl
  split
  · rfl
  split <;> simp_all

/-- Every other system register reads as before; an engine action (0x010) changes streams. -/
theorem ctlRead_ctlWrite_ne (w : Word) {i j : Nat} (hj : j ≠ i) (hi : i ≠ 0x010) :
    ctlRead (s.ctlWrite e.cur.core (e.ctx s) i w) e j = ctlRead s e j := by
  unfold State.ctlWrite
  split
  · exact ctlRead_monitorWrite s e (hs := fun _ _ => Tab.get_set_ne _ _ _ (by omega))
  split
  · exact ctlRead_monitorWrite s e (hc := fun _ _ _ => Tab.get_set_ne _ _ _ (by omega))
  split
  · exact ctlRead_faultWrite s e (h0 := (absurd · hj))
  · exact ctlRead_faultWrite s e (h1 := (absurd · hj))
  · exact ctlRead_faultWrite s e (h2 := (absurd · hj))
  · exact ctlRead_faultWrite s e (h3 := (absurd · hj))
  · exact ctlRead_faultWrite s e (h4 := (absurd · hj))
  · exact ctlRead_ctxWrite s e (h6 := (absurd · hj))
  · exact ctlRead_ctxWrite s e (hA := (absurd · hj))
  · exact ctlRead_ctxWrite s e (hB := (absurd · hj))
  · exact ctlRead_ctxWrite s e (hC := (absurd · hj))
  · exact absurd rfl hi
  · rfl

/-- A register that was written reads as written in the bits that it has, and zero in the others (R8). -/
theorem ctlRead_ctlWrite_same (w : Word) {i : Nat} {m : Word} (h : sysMask i = some m) :
    ctlRead (s.ctlWrite e.cur.core (e.ctx s) i w) e i = w &&& m := by
  have hw : w &&& 0xFFFFFFFFFFFFFFFF#64 = w := BitVec.and_allOnes
  unfold sysMask at h
  unfold State.ctlWrite ctlRead
  split at h
  · next hi =>
    cases h
    simpa [hi] using setWidth_extractLow w 8
  split at h
  · next hi hi' =>
    cases h
    simp [hi, hi', hw]
  split at h <;> cases h <;> simp [hw]

/-- `ctl.status` reads with the two bits written, beside the count of queued faults (R346). -/
theorem ctlRead_ctlWrite_status (w : Word) :
    ctlRead (s.ctlWrite e.cur.core (e.ctx s) 0 w) e 0 = (w &&& 3) ||| (ctlRead s e 0 &&& ~~~3) := by
  have h := statusWord_write (s.core e.cur.core).arch w
  simpa [State.ctlWrite, State.updArch, ctlRead] using h

end

/-! ### SYSRD and SYSWR -/

/-- What a group does after a quiet step, it does before it. -/
theorem Quiet.goes {s t u : State} {e : Site} {f : Thread → Thread} (h : Quiet s t) (g : GroupGoes t u e f) :
    GroupGoes s u e f := fun l => by rw [g l, h.thread?]

/-- A fault other than MEMERR that is found before the effect is taken at once (R387). -/
theorem State.faultLast_of_code (s : State) (e : Site) (w : Word) (f : Flt) (body : Site → State → State)
    (h : f.code ≠ 0x0B) : s.faultLast e w f body = s.fault e f := by
  simp [State.faultLast, State.faultPre, h]

theorem exec_sysrd (f : SysF) (s : State) : exec (.sysrd f) s = execSysrd f s := rfl

theorem exec_syswr (f : SysF) (s : State) : exec (.syswr f) s = execSyswr f s := rfl

theorem wordOf_syswr (f : SysF) : wordOf (.syswr f) = encFI 0xE3 f.g 0 0 f.o.enc (0#12 ++ f.idx) := rfl

/-- A SYSWR's value is bad when its register does not take it, unless the word has a LEVEL fault. -/
theorem sysValueBad_syswr (f : SysF) (s : State) (e : Site) :
    sysValueBad s e (wordOf (.syswr f))
      = ((levelFault e.t (wordOf (.syswr f))).isNone && ctlBad f.idx.toNat (e.read s e.ref f.o)) := by
  rw [sysValueBad, wordOf_syswr, getLsbD_encFI_pairBit, extract_encFI_index, fOp_encFI, fIA_encFI, Operand.get_enc]
  rfl

section
variable {f : SysF} {s : State} {e : Site}

/-- SYSRD gives its active members the register's value, and changes nothing else (R353). -/
theorem sysrd_goes (h : Runs (.sysrd f) s e) : ∃ t, Completes (.sysrd f) s t
    ∧ GroupGoes s t e (fun th => (putD f.o (ctlRead s e f.idx.toNat) th).next) ∧ OnlyGroup s t e := by
  have q := Quiet.acts s e
  refine ⟨(s.acts e).finish e (fun th => (putD f.o (ctlRead s e f.idx.toNat) th).next), ?_, ?_, ?_⟩
  · rw [Completes, exec_sysrd, execSysrd, issue_of_runs _ h]
    rfl
  · exact q.goes (State.finish_goes _ _ _ (fun th => by simp [putD]))
  · exact (q.only e).trans (State.finish_only _ _ _)

/-- SYSWR of a value that its register does not take is ILLEGAL 0x07 before anything else (R184, R345). -/
theorem syswr_illegal (hs : s.site? (fullActive (wordOf (.syswr f))) = some e) (ha : e.act ≠ [])
    (hi : illegal e.t.lanes (wordOf (.syswr f)) = none) (hl : levelFault e.t (wordOf (.syswr f)) = none)
    (hb : ctlBad f.idx.toNat (e.read s e.ref f.o) = true) :
    Completes (.syswr f) s (s.takeFault e.cur 1 7 (laneMask e.act) (wordOf (.syswr f))) := by
  have hv : sysValueBad s e (wordOf (.syswr f)) = true := by rw [sysValueBad_syswr, hl, hb]; rfl
  have hf : preFault s e (wordOf (.syswr f)) = some ⟨1, 7, laneMask e.act, wordOf (.syswr f)⟩ := by
    simp [preFault, hi, hv]
  rw [Completes, exec_syswr, execSyswr, issue, issueWith_of_fault _ hs ha hf,
    State.faultLast_of_code _ _ _ _ _ (show 1 ≠ 0x0B by decide)]
  rfl

/-- SYSWR writes its register in a fresh chunk, passes, and closes the chunk (R133, R353). -/
theorem syswr_writes (h : Runs (.syswr f) s e) (hc : (s.core e.cur.core).chunk.fresh = true) :
    ∃ t, t = ((s.acts e).ctlWrite e.cur.core (e.ctx s) f.idx.toNat (e.read s e.ref f.o)).pass e
      ∧ Completes (.syswr f) s { t.closeAfter e.cur.core with cur := t.cur } := by
  refine ⟨_, rfl, ?_⟩
  rw [Completes, exec_syswr, execSyswr, issue_of_runs _ h]
  simp only [State.closeBefore, hc, if_true]

end

/-- Settles O42: the words by what the issue of a word can do, the registers by the place that each write changes. -/
theorem systemRegisterWords : Obligations.SystemRegisterWords := by
  refine ⟨fun f s e => sysrd_goes, fun f s e _ => syswr_illegal, fun f s e => syswr_writes, fun s e i w => ⟨?_, ?_, ?_⟩⟩
  · exact fun m => ctlRead_ctlWrite_same s e w
  · rintro rfl
    exact ctlRead_ctlWrite_status s e w
  · exact fun j => ctlRead_ctlWrite_ne s e w

end Sys2Proof.Machine
end

section
/-! Proofs of O6 and O8: the thread-local words act by what their tables give (R26, R191-R208, R220-R241). -/

namespace Sys2Proof.Machine

@[simp] theorem putD_ltid (d : Operand) (w : Word) (th : Thread) : (putD d w th).ltid = th.ltid := by
  rw [putD, Thread.cleared_ltid, Thread.setD_ltid]

/-- A word of the integer table acts, on each active member, by the effect that the table gives it. -/
theorem exec_of_intEffect {i : Instr} {f : Effect} (h : intEffect i = some f) (s : State) :
    exec i s = .next (issue i (simple i f) s) := by
  unfold intEffect at h
  split at h <;> cases h <;> rfl

/-- The effects of the integer table change no thread's id. -/
theorem intEffect_ltid {i : Instr} {f : Effect} (h : intEffect i = some f) (s : State) (e : Site) (th : Thread) :
    (f s e th).ltid = th.ltid := by
  unfold intEffect at h
  split at h <;> cases h
  all_goals simp only [effect3, effect4, effect2, effectI, carryEffect, putD_ltid]

/-- Settles O6: a word of the table is its effect on each active member in the open chunk. -/
theorem integerWords : Obligations.IntegerWords := fun _ f hf s _ h =>
  ⟨_, exec_of_intEffect hf s, issue_simple_goes f h (intEffect_ltid hf)⟩

/-- A word of the float table gives each active member one value and its flags. -/
theorem exec_of_floatDest {i : Instr} {d : Operand} (h : floatDest i = some d) (s : State) :
    ∃ g : State → Site → Thread → WRes, exec i s = .next (perThreadF i d g s) := by
  unfold floatDest at h
  split at h <;> cases h <;> exact ⟨_, rfl⟩

/-- Settles O8: the value and the flags are those that the word computes from the state in which it acts. -/
theorem floatWords : Obligations.FloatWords := by
  intro i d hd s e h
  obtain ⟨g, hg⟩ := exec_of_floatDest hd s
  exact ⟨_, g (s.noted i e) e, hg, issue_simple_goes _ h (fun s e th => by simp)⟩

end Sys2Proof.Machine
end

section
/-! Proof of O12: a word without an active member passes. -/

namespace Sys2Proof.Machine

/-- Passing after a quiet step moves every member on, and changes nothing else (R26). -/
theorem Quiet.pass {s t : State} (q : Quiet s t) (e : Site) :
    GroupGoes s (t.pass e) e Thread.next ∧ OnlyGroup s (t.pass e) e :=
  ⟨q.goes (State.finish_goes _ _ _ (fun _ => rfl)), (q.only e).trans (State.finish_only _ _ _)⟩

/-- Settles O12: with no active member the issue of a word is the opening of the chunk and a pass. -/
theorem inactiveWordPasses : Obligations.InactiveWordPasses := by
  intro w act body s e hs ha
  rw [issueWith_of_inactive body hs ha]
  exact (Quiet.acts s e).pass e

end Sys2Proof.Machine
end

section
/-! Proofs of O17, O18 and O19: the transfers of control (R36, R37, R165, R212-R219). -/

namespace Sys2Proof.Machine

/-! ### The reference member and agreement -/

/-- No UNIFORM fault when every active member has the reference member's value (R35). -/
theorem uniformFault_of_agree {e : Site} {v : Thread → Word} (h : ∀ th ∈ e.act, v th = v e.ref) :
    uniformFault e v = none := by
  have hf : e.act.filter (fun th => v th != v e.ref) = [] := by
    simpa [List.filter_eq_nil_iff] using h
  rw [uniformFault, hf]

/-- The UNIFORM fault names the members that differ from the reference member, and its value (R35, R36). -/
theorem uniformFault_of_differ {e : Site} {v : Thread → Word} (h : ∃ th ∈ e.act, v th ≠ v e.ref) :
    uniformFault e v = some ⟨2, 0, laneMask (e.act.filter (fun th => v th != v e.ref)), v e.ref⟩ := by
  obtain ⟨th, hm, hv⟩ := h
  have hmem : th ∈ e.act.filter (fun th => v th != v e.ref) := by simp [hm, hv]
  rw [uniformFault]
  split
  · next hn => simp [hn] at hmem
  · rfl

/-- No ALIGN fault when every target is aligned (R165). -/
theorem targetFault_of_aligned {ths : List Thread} {t : Thread → Word} (h : ∀ th ∈ ths, t th &&& 7 = 0) :
    targetFault ths t = none := by
  have hf : ths.filter (fun th => t th &&& 7 != 0) = [] := by
    simpa [List.filter_eq_nil_iff] using h
  rw [targetFault, hf]

/-- The ALIGN fault names the members with misaligned targets, and the first of these targets (R165). -/
theorem targetFault_of_misaligned {ths bad : List Thread} {th : Thread} {t : Thread → Word}
    (h : ths.filter (fun th => t th &&& 7 != 0) = th :: bad) :
    targetFault ths t = some ⟨7, 0, laneMask (th :: bad), t th⟩ := by
  rw [targetFault, h]

/-- Equal misaligned targets: every active member takes the ALIGN fault (R165). -/
theorem targetFault_of_all_misaligned {e : Site} {t : Thread → Word} (ha : e.act ≠ [])
    (h : ∀ th ∈ e.act, t th = t e.ref ∧ t th &&& 7 ≠ 0) :
    targetFault e.act t = some ⟨7, 0, laneMask e.act, t e.ref⟩ := by
  have hf : e.act.filter (fun th => t th &&& 7 != 0) = e.act := by
    simpa [List.filter_eq_self] using fun th hm => (h th hm).2
  cases hl : e.act with
  | nil => exact absurd hl ha
  | cons th bad =>
    rw [hl] at hf
    rw [targetFault_of_misaligned hf, (h th (by simp [hl])).1]

/-! ### Transfers -/

/-- A transfer changes the group as it says, and in a launch that is not checked for races nothing else. -/
theorem transfer_goes {i : Instr} {s : State} {e : Site} (h : Runs i s e) (f : Thread → Thread)
    (hf : ∀ th, (f th).ltid = th.ltid) :
    GroupGoes (s.noted i e) (transfer i e s f) e f
      ∧ ((s.launchOf e.b).race = false → OnlyGroup s (transfer i e s f) e) :=
  ⟨State.finish_goes _ _ _ hf, fun hr => State.finish_noted_only s i e _ (State.site?_names h.1) hr⟩

theorem boolWord_ne_zero (b : Bool) : (boolWord b != 0) = b := by cases b <;> rfl

theorem boolWord_inj {a b : Bool} : boolWord a = boolWord b ↔ a = b := by cases a <;> cases b <;> decide

/-- Two truth values differ as words when they differ. -/
theorem boolWord_bne (a b : Bool) : (boolWord a != boolWord b) = (a != b) := by cases a <;> cases b <;> rfl

/-- Settles O17: the condition is compared as a word of one bit. -/
theorem bruGoes : Obligations.BruGoes := by
  intro f s e h c
  have hx : exec (.bru f) s = .next (match uniformFault e (fun th => boolWord (c th)) with
      | some x => s.fault e x
      | none => transfer (.bru f) e s (fun th => if boolWord (c th) != 0 then { th with pc := offsetFrom th.pc f.off }
          else th.next)) := congrArg Host.Outcome.next (issue_of_runs _ h)
  refine ⟨fun ha => ⟨_, ?_, transfer_goes h _ (fun th => ?_)⟩, fun hd => ?_⟩
  · rw [Completes, hx, uniformFault_of_agree (fun th hm => boolWord_inj.2 (ha th hm))]
    simp only [boolWord_ne_zero, offsetFrom]
  · split <;> rfl
  · rw [Completes, hx, uniformFault_of_differ (v := fun th => boolWord (c th))
      (by simpa only [ne_eq, boolWord_inj] using hd)]
    simp only [boolWord_bne]
    rfl

/-! ### Jumps -/

section
variable {i : Instr} {f : CtlF} {link : Bool} {s : State} {e : Site}

/-- JMP, CALLI and RET are the uniform transfer of their form (R215). -/
theorem exec_of_jumpForm (h : jumpForm i = some (f, link)) (s : State) : exec i s = .next (uniformJump i f link s) := by
  unfold jumpForm at h
  split at h <;> cases h <;> rfl

/-- What a uniform transfer that reaches its effect does (R36, R165, R215). -/
theorem uniformJump_of_runs (h : Runs i s e) :
    uniformJump i f link s = match uniformFault e (fun th => e.read s th f.a + f.off.signExtend 64) with
      | some x => s.fault e x
      | none => match targetFault e.act (fun th => e.read s th f.a + f.off.signExtend 64) with
        | some x => s.fault e x
        | none => transfer i e s (fun th =>
          { (if link then putD f.a (th.pc + 8) th else th) with pc := e.read s th f.a + f.off.signExtend 64 }) :=
  issue_of_runs _ h

end

/-- CALL, PCGET and NOP transfer without a check: a word of that shape completes with its transfer. -/
theorem transfer_completes {i : Instr} {s : State} {e : Site} (h : Runs i s e) (f : Thread → Thread)
    (hf : ∀ th, (f th).ltid = th.ltid) (hx : exec i s = .next (issue i (fun e s => transfer i e s f) s)) :
    ∃ t, Completes i s t ∧ GroupGoes (s.noted i e) t e f ∧ ((s.launchOf e.b).race = false → OnlyGroup s t e) :=
  ⟨transfer i e s f, by rw [Completes, hx, issue_of_runs _ h], transfer_goes h f hf⟩

/-- A uniform transfer goes to the common aligned target, or takes ALIGN, or takes UNIFORM (R36, R165, R215). -/
theorem jumpForm_goes {i : Instr} {f : CtlF} {link : Bool} (hi : jumpForm i = some (f, link)) {s : State} {e : Site}
    (h : Runs i s e) :
    let g := fun (th : Thread) => e.read s th f.a + f.off.signExtend 64
    ((∀ th ∈ e.act, g th = g e.ref ∧ g th &&& 7 = 0) → ∃ t, Completes i s t
      ∧ GroupGoes (s.noted i e) t e (fun th => { (if link then putD f.a (th.pc + 8) th else th) with pc := g th })
      ∧ ((s.launchOf e.b).race = false → OnlyGroup s t e))
    ∧ ((∀ th ∈ e.act, g th = g e.ref ∧ g th &&& 7 ≠ 0) →
      Completes i s (s.takeFault e.cur 7 0 (laneMask e.act) (g e.ref)))
    ∧ ((∃ th ∈ e.act, g th ≠ g e.ref) →
      Completes i s (s.takeFault e.cur 2 0 (laneMask (e.act.filter (fun th => g th != g e.ref))) (g e.ref))) := by
  intro g
  refine ⟨fun ha => ⟨_, ?_, transfer_goes h _ (fun th => ?_)⟩, fun hm => ?_, fun hd => ?_⟩
  · rw [Completes, exec_of_jumpForm hi, uniformJump_of_runs h, uniformFault_of_agree (fun th hm => (ha th hm).1),
      targetFault_of_aligned (fun th hm => (ha th hm).2)]
  · cases link
    · rfl
    · exact putD_ltid _ _ _
  · rw [Completes, exec_of_jumpForm hi, uniformJump_of_runs h, uniformFault_of_agree (fun th hm' => (hm th hm').1),
      targetFault_of_all_misaligned h.2.1 hm]
    rfl
  · rw [Completes, exec_of_jumpForm hi, uniformJump_of_runs h, uniformFault_of_differ hd]
    rfl

/-- Settles O18: the register transfers by their three cases, the others by their transfer alone. -/
theorem jumpsGo : Obligations.JumpsGo :=
  ⟨fun _ _ _ hi _ _ h => jumpForm_goes hi h,
    fun _ _ _ h => transfer_completes h _ (fun _ => putD_ltid _ _ _) rfl,
    fun _ _ _ h => transfer_completes h _ (fun _ => putD_ltid _ _ _) rfl,
    fun _ _ _ h => transfer_completes h _ (fun _ => rfl) rfl⟩

/-! ### COSWAP -/

section
open BitVec
variable (op : BitVec 8) (g : Guard) (m : BitVec 5) (a : BitVec 10) (off : BitVec 32)

@[simp] theorem fOp_encFB : fOp (encFB op g m a off) = op := by
  unfold fOp encFB
  repeat rw [extractLsb'_append_eq_of_le (by decide)]
  exact extractLsb'_append_eq_right

theorem getLsbD_encFB_pairBit : (encFB op g m a off).getLsbD 63 = false := by
  unfold encFB
  repeat rw [getLsbD_append, if_neg (by decide)]
  rfl

end

/-- COSWAP names a pair that it exchanges, and no other source (R216). -/
theorem sourceOps_coswap (f : One) : sourceOps (wordOf (.coswap f)) = [] := by
  have hw : wordOf (.coswap f) = encFB 0xC6 f.g 0 f.o.enc 0 := rfl
  have hs : wordShape (wordOf (.coswap f)) = some (shapeB (wordOf (.coswap f)) (mask 42 5 ||| mask 0 32) (.pair 124)) := by
    rw [wordShape, hw, fOp_encFB]; rfl
  rw [sourceOps, hw, getLsbD_encFB_pairBit, ← hw, usedSpecs, hs]
  rfl

@[simp] theorem Thread.lane_cleared (th : Thread) (d : Operand) (j : Nat) : (th.cleared d).lane j = th.lane j := by
  simp only [Thread.lane, Thread.cleared_v]

/-- The lane registers of a thread after COSWAP (R37). -/
theorem coswapThread_lane (th : Thread) (i j : Nat) : (coswapThread i th).lane j
    = (((th.setLane i (th.pc + 8)).setLane (i + 1) (th.lane 126)).setLane 126 (th.lane (i + 1))).lane j := by
  simp only [coswapThread, Thread.lane, Thread.cleared_v]

theorem coswapThread_ltid (th : Thread) (i : Nat) : (coswapThread i th).ltid = th.ltid := by
  simp only [coswapThread, Thread.cleared_ltid, Thread.setLane_ltid]

/-- The pair (target, value) and (PC + 8, v126) change places (R37). -/
theorem coswapThread_exchanges (th : Thread) {i : Nat} (hi : i < 125) :
    (coswapThread i th).pc = th.lane i ∧ (coswapThread i th).lane i = th.pc + 8
      ∧ (coswapThread i th).lane (i + 1) = th.lane 126 ∧ (coswapThread i th).lane 126 = th.lane (i + 1)
      ∧ ∀ j, j ≠ i → j ≠ i + 1 → j ≠ 126 → (coswapThread i th).lane j = th.lane j := by
  refine ⟨rfl, ?_, ?_, ?_, fun j h1 h2 h3 => ?_⟩ <;> rw [coswapThread_lane]
  · rw [Thread.lane_setLane_ne _ _ (by omega), Thread.lane_setLane_ne _ _ (by omega), Thread.lane_setLane]
  · rw [Thread.lane_setLane_ne _ _ (by omega), Thread.lane_setLane]
  · rw [Thread.lane_setLane]
  · rw [Thread.lane_setLane_ne _ _ h3, Thread.lane_setLane_ne _ _ h2, Thread.lane_setLane_ne _ _ h1]

/-- A thread found by its id has it. -/
theorem State.thread?_ltid {s : State} {c sl l : Nat} {th : Thread} (h : s.thread? c sl l = some th) : th.ltid = l := by
  unfold State.thread? Block.thread? at h
  obtain ⟨b, -, hb⟩ := Option.bind_eq_some_iff.1 h
  simpa using List.find?_some hb

/-- What a group of the word does to one of its active members. -/
theorem GroupGoes.active {s t : State} {e : Site} {f : Thread → Thread} (h : GroupGoes s t e f) {th : Thread} {l : Nat}
    (ht : s.thread? e.cur.core e.cur.slot l = some th) (ha : e.tids.contains l = true)
    (hm : (e.mem.map (fun m => m.ltid)).contains l = true) : t.thread? e.cur.core e.cur.slot l = some (f th) := by
  rw [h l, ht, Option.map_some, State.thread?_ltid ht, hm, Site.active, State.thread?_ltid ht, ha]
  rfl

theorem exec_coswap_of_runs {f : One} {s : State} {e : Site} (h : Runs (.coswap f) s e) :
    exec (.coswap f) s = .next (match targetFault e.act (fun th => th.lane (laneNum f.o)) with
      | some x => s.fault e x
      | none => transfer (.coswap f) e s (coswapThread (laneNum f.o))) :=
  congrArg Host.Outcome.next (issue_of_runs _ h)

/-- Settles O19: COSWAP notes no source, so its effect follows on the opening of the chunk. -/
theorem coswapExchanges : Obligations.CoswapExchanges := by
  intro f i s e hi hlt h
  have hn : laneNum f.o = i.toNat := by rw [hi]; rfl
  have hq : s.noted (.coswap f) e = s.acts e := by rw [State.noted, sourceOps_coswap]; rfl
  have q := Quiet.acts s e
  refine ⟨fun ha => ⟨(s.acts e).finish e (coswapThread i.toNat), ?_, fun th l ht hl hm => ?_, ?_⟩, fun th ths hf => ?_⟩
  · rw [Completes, exec_coswap_of_runs h, hn, targetFault_of_aligned ha, ← hq]
    rfl
  · have g := q.goes (State.finish_goes _ e _ (fun th => coswapThread_ltid th i.toNat))
    exact ⟨_, g.active ht hl hm, coswapThread_exchanges th hlt⟩
  · exact (q.only e).trans (State.finish_only _ _ _)
  · rw [Completes, exec_coswap_of_runs h, hn, targetFault_of_misaligned hf]
    rfl

end Sys2Proof.Machine
end

section
/-! Proof of O51: the threads of a block that is placed (R18, R19, R47, R49, R373). -/

namespace Sys2Proof.Machine

theorem newBlock_threads (ln : Launch) (l lin n : Nat) (p : Plan) :
    (newBlock ln l lin n p).threads = (List.range ln.tree.blockThreads).map (newThread ln.tree p.rows ln.entry) := rfl

/-- Settles O51: each thread of the block is the new thread of its id. -/
theorem placedBlocksStart : Obligations.PlacedBlocksStart := by
  intro ln l lin n p b
  refine ⟨?_, fun th hth => ?_⟩
  · rw [newBlock_threads, List.map_map]
    exact List.map_id _
  · rw [newBlock_threads] at hth
    obtain ⟨i, -, rfl⟩ := List.mem_map.1 hth
    refine ⟨rfl, fun _ => rfl, fun k hk => ?_, rfl, rfl, rfl, rfl, rfl, rfl, rfl, rfl⟩
    rw [Thread.pred, beq_false_of_ne hk, Bool.false_or]
    exact BitVec.getLsbD_zero

end Sys2Proof.Machine
end

section
/-! Proof of O3: a step that issues a quadrant executes the word it fetched and decoded (R25-R28, R133). -/

namespace Sys2Proof.Machine

/-- A slot without a block has nothing to take before it issues. -/
theorem State.prepare_of_empty {s : State} {c q sl : Nat} (h : s.block? c sl = none) : s.prepare c q sl = s := by
  simp only [State.prepare, State.completeLocal, State.before, State.answered, State.deferredFirst, h]

/-- A slot without a block is passed over (R27). -/
theorem issueOver_of_empty {s : State} {c q sl : Nat} {rest : List Nat} (hs : s.coreStalled c = false)
    (h : s.block? c sl = none) : issueOver (sl :: rest) s c q = issueOver rest s c q := by
  have hi : issueAt s c q sl = (.next s, false) := by simp only [issueAt, candidate, h]
  simp only [issueOver, hs, State.prepare_of_empty h, hi, Bool.false_eq_true, ↓reduceIte]

/-- Slots without a block are passed over (R27). -/
theorem issueOver_append_of_empty {s : State} {c q : Nat} (pre : List Nat) {rest : List Nat}
    (hs : s.coreStalled c = false) (h : ∀ k ∈ pre, s.block? c k = none) :
    issueOver (pre ++ rest) s c q = issueOver rest s c q := by
  induction pre with
  | nil => rfl
  | cons k pre ih =>
    rw [List.cons_append, issueOver_of_empty hs (h k (List.mem_cons_self ..)),
      ih (fun j hj => h j (List.mem_cons_of_mem _ hj))]

/-- The group that a block would issue stands on its core. -/
theorem candidate_core {s : State} {c q sl : Nat} {b : Block} {cur : Cur} (h : candidate s c q sl = some (b, cur)) :
    cur.core = c := by
  unfold candidate at h
  split at h
  · cases h
  · dsimp only at h
    split at h
    · cases h
    · split at h
      · cases h
      · cases h; rfl

@[simp] theorem State.markLeaf_cur (s : State) (t : Xlat) (need : Need) : (s.markLeaf t need).cur = s.cur := by
  unfold State.markLeaf
  extract_lets wr e e'
  split <;> rfl

@[simp] theorem State.noteXlat_cur (s : State) (c x : Nat) (t : Xlat) (need : Need) :
    (s.noteXlat c x t need).cur = s.cur := by
  unfold State.noteXlat
  split
  · rfl
  · simp

/-- The traces of a fetch leave the group that issues (R119). -/
@[simp] theorem State.noteFetch_cur (s : State) (cur : Cur) (x : Xlat) : (s.noteFetch cur x).cur = s.cur := by
  unfold State.noteFetch
  extract_lets ctx s' l
  split
  · exact State.noteXlat_cur ..
  · exact State.noteXlat_cur ..

/-- A word whose writes the shadow bank can record is executed, and the bank holds them (R133). -/
theorem runWord_of_fits {i : Instr} {w : Word} {c : Nat} {s t : State} (hf : shadowFits s c (shadowKeys s w) = true)
    (hc : s.cur.isSome = true) (hx : exec i s = .next t) (ht : t.cur.isSome = true) :
    runWord i w c s = .next (t.shadowed c (shadowKeys s w)) := by
  have hn : s.cur.isNone = false := by rw [← Option.not_isSome, hc]; rfl
  simp only [runWord, hf, ↓reduceIte, hn, Bool.false_eq_true, hx, ht]

@[simp] theorem State.shadowed_cur (s : State) (c : Nat) (ks : List Nat) : (s.shadowed c ks).cur = s.cur := by
  unfold State.shadowed
  split <;> simp

/-- Settles O3: the slots before the block's are passed over, and its word goes through fetch, decoding and `exec`. -/
theorem stepRunsDecodedWord : Obligations.StepRunsDecodedWord := by
  intro s c q sl pre post b b' cur w x i t rest hag s0 hs0 hord hpre s1 hs1 hcand hb s2 hfetch hdec s3 ks hfit hexec hcur
  have hcc := candidate_core hcand
  have hg : issueGroup s2 cur = .next (t.shadowed c ks) := by
    simp only [issueGroup, hfetch, hdec, hcc]
    exact runWord_of_fits hfit (by simp [s2, State.given]) hexec hcur
  have hat : issueAt s1 c q sl = (.next ((t.shadowed c ks).issued cur), true) := by
    simp only [issueAt, hcand, hb]
    rw [show issueGroup (s1.given c sl b b' cur) cur = _ from hg]
    simp only [State.shadowed_cur, hcur, ↓reduceIte]
  have hstep : step s = issueOver (slotOrder s0 c q) s0 c q := by rw [step, hag]; rfl
  rw [hstep, hord, issueOver_append_of_empty pre hs0 hpre, issueOver]
  simp only [hs0, Bool.false_eq_true, ↓reduceIte]
  rw [if_neg (by rw [show (s0.prepare c q sl).coreStalled c = false from hs1]; decide),
    show issueAt (s0.prepare c q sl) c q sl = _ from hat]

end Sys2Proof.Machine
end

section
/-! Proof of O23: the completion of a rendezvous inside the block (R32, R209, R210, R243-R250). -/

namespace Sys2Proof.Machine

/-! ### What a result keeps -/

@[simp] theorem Thread.parkAt_ltid (th : Thread) (i : Instr) (act : Bool) (a b : Word) :
    (th.parkAt i act a b).ltid = th.ltid := rfl

@[simp] theorem Thread.depart_ltid (th : Thread) (uid : Nat) (clk : Tab Nat) : (th.depart uid clk).ltid = th.ltid := rfl

theorem rendEffect_ltid (i : Instr) (n : Nat) (ps : List Party) (p : Party) (th : Thread) :
    (rendEffect i n ps p th).ltid = th.ltid := by
  unfold rendEffect
  split <;> simp only [Thread.flag_ltid, Thread.cleared_ltid, Thread.setD_ltid]

theorem rendEffect_pc (i : Instr) (n : Nat) (ps : List Party) (p : Party) (th : Thread) :
    (rendEffect i n ps p th).pc = th.pc := by
  unfold rendEffect
  split <;> simp only [Thread.flag_pc, Thread.cleared_pc, Thread.setD_pc]

/-! ### Threads of a block -/

/-- A thread of a block all of whose threads have changed. -/
theorem Block.thread?_map (b : Block) (f : Thread → Thread) (hf : ∀ th, (f th).ltid = th.ltid) (l : Nat) :
    ({ b with threads := b.threads.map f } : Block).thread? l = (b.thread? l).map f := by
  have h : (fun th => th.ltid == l) ∘ f = fun th => th.ltid == l := by funext th; simp [hf]
  rw [Block.thread?, List.find?_map, h]
  rfl

/-- A thread of a block that has changed its threads. -/
theorem State.thread?_updThreads {s : State} {c sl : Nat} {b : Block} (hb : s.block? c sl = some b)
    (f : Block → Thread → Thread) (hf : ∀ b th, (f b th).ltid = th.ltid) (l : Nat) :
    (s.updBlock c sl (fun b => { b with threads := b.threads.map (f b) })).thread? c sl l
      = (s.thread? c sl l).map (f b) := by
  rw [State.thread?, State.thread?, State.block?_updBlock, hb]
  exact Block.thread?_map b (f b) (hf b) l

/-! ### The parties of a rendezvous inside the block -/

/-- The threads of a block that have not exited and stand in a thread's node of a level of the block. -/
def Block.nodeMates (b : Block) (t : Tree) (l tid : Nat) : List Thread :=
  b.threads.filter (fun th => th.live && th.ltid / max 1 (t.per l) == tid / max 1 (t.per l))

/-- A thread of a node as a party of a rendezvous, with the operands that it has parked with. -/
def partyIn (c sl : Nat) (b : Block) (t : Tree) (l : Nat) (th : Thread) : Party :=
  match th.wait with
  | .parked _ act x y => ⟨c, sl, th, t.rank l b.lin th.ltid, act, x, y⟩
  | _ => ⟨c, sl, th, 0, false, 0, 0⟩

theorem partyIn_core (c sl : Nat) (b : Block) (t : Tree) (l : Nat) (th : Thread) : (partyIn c sl b t l th).core = c := by
  unfold partyIn; split <;> rfl
theorem partyIn_slot (c sl : Nat) (b : Block) (t : Tree) (l : Nat) (th : Thread) : (partyIn c sl b t l th).slot = sl := by
  unfold partyIn; split <;> rfl
@[simp] theorem partyIn_th (c sl : Nat) (b : Block) (t : Tree) (l : Nat) (th : Thread) : (partyIn c sl b t l th).th = th := by
  unfold partyIn; split <;> rfl

theorem State.nodeThreads_below (s : State) (c sl : Nat) (b : Block) {t : Tree} {l : Nat} (tid : Nat)
    (hl : l ≤ t.blockLvl) : s.nodeThreads c sl b t l tid = (b.nodeMates t l tid).map (fun th => (c, sl, b, th)) := by
  rw [State.nodeThreads, if_pos hl]
  rfl

/-- What the parties of a rendezvous inside the block are. -/
theorem State.parties?_below {s : State} {c sl tid : Nat} {i : Instr} {t : Tree} {ps : List Party}
    (h : s.parties? c sl tid = some (i, t, ps)) (hl : rendLvl i ≤ t.blockLvl) :
    ∃ b th, s.block? c sl = some b ∧ b.thread? tid = some th ∧ th.live = true
      ∧ ps = (b.nodeMates t (rendLvl i) tid).map (partyIn c sl b t (rendLvl i)) := by
  unfold State.parties? at h
  split at h
  · cases h
  · next b hb =>
    split at h
    · cases h
    · next th hth =>
      split at h
      · cases h
      · dsimp only at h
        split at h
        · cases h
        · next hall =>
          split at h
          · cases h
          · cases h
            refine ⟨b, th, hb, hth, ?_, ?_⟩
            · simp only [Bool.or_eq_true, not_or, Bool.not_eq_true] at hall
              rw [Thread.live, hall.1]
              rfl
            · rw [State.nodeThreads_below _ _ _ _ _ hl, List.map_map]
              rfl

/-- The parties when every thread of a node inside the block is parked at one operation. -/
theorem State.parties?_of_parked {s : State} {c sl tid : Nat} {i : Instr} {b : Block} {th : Thread}
    (hb : s.block? c sl = some b) (ht : b.thread? tid = some th) (hi : th.parkedAt = some i) (he : th.exited = false)
    (hl : rendLvl i ≤ (s.treeOf sl b).blockLvl)
    (hall : ∀ o ∈ b.nodeMates (s.treeOf sl b) (rendLvl i) tid, o.parkedAt = some i ∧ o.pc = th.pc) :
    s.parties? c sl tid = some (i, s.treeOf sl b,
      (b.nodeMates (s.treeOf sl b) (rendLvl i) tid).map (partyIn c sl b (s.treeOf sl b) (rendLvl i))) := by
  have hts : (s.nodeThreads c sl b (s.treeOf sl b) (rendLvl i) tid).all
      (fun e => e.2.2.2.parkedAt == some i && e.2.2.2.pc == th.pc) = true := by
    rw [State.nodeThreads_below _ _ _ _ _ hl, List.all_map, List.all_eq_true]
    intro o ho
    obtain ⟨h1, h2⟩ := hall o ho
    simp [h1, h2]
  unfold State.parties?
  simp only [hb, ht, hi, he, hts, Bool.not_true, Bool.or_self, Bool.false_eq_true, ↓reduceIte, Nat.not_lt.2 hl,
    decide_false, Bool.false_and]
  rw [State.nodeThreads_below _ _ _ _ _ hl, List.map_map]
  rfl

/-! ### The completion -/

/-- What the completion of a rendezvous makes of a thread of a block. -/
def Thread.afterRend (c sl : Nat) (i : Instr) (n : Nat) (ps : List Party) (clk : Tab Nat) (b : Block) (th : Thread) : Thread :=
  match ps.find? (fun p => p.core == c && p.slot == sl && p.th.ltid == th.ltid && th.live) with
  | some p => (if p.act then rendEffect i n ps p th else th).depart (threadUid b th.ltid) clk
  | none => th

theorem Thread.afterRend_ltid (c sl : Nat) (i : Instr) (n : Nat) (ps : List Party) (clk : Tab Nat) (b : Block)
    (th : Thread) : (th.afterRend c sl i n ps clk b).ltid = th.ltid := by
  unfold Thread.afterRend
  split
  · rw [Thread.depart_ltid, apply_ite Thread.ltid, rendEffect_ltid, ite_self]
  · rfl

/-- The chunk in which a completion acts is open; a block under EXACT has none (R132, R140). -/
def State.opened (s : State) (c sl : Nat) : State :=
  match s.block? c sl with
  | some b => if s.isExact sl b then s else s.dirty c
  | none => s

theorem Quiet.opened (s : State) (c sl : Nat) : Quiet s (s.opened c sl) := by
  unfold State.opened
  split
  · split
    · exact Quiet.refl s
    · exact Quiet.dirty s c
  · exact Quiet.refl s

/-- The completion of a rendezvous inside the block changes the threads of that block. -/
theorem State.completeRend_below {s : State} {c sl tid : Nat} {i : Instr} {t : Tree} {ps : List Party}
    (h : s.parties? c sl tid = some (i, t, ps)) (hl : rendLvl i ≤ t.blockLvl) :
    s.completeRend c sl tid = (s.opened c sl).updBlock c sl (fun b => { b with
      threads := b.threads.map (Thread.afterRend c sl i (t.per (rendLvl i)) ps (partyClock s ps) b) }) := by
  obtain ⟨b, th, hb, hth, hlive, hps⟩ := State.parties?_below h hl
  have hmem : th ∈ b.nodeMates t (rendLvl i) tid := by
    have hid : th.ltid = tid := by simpa using List.find?_some hth
    rw [Block.nodeMates, List.mem_filter]
    exact ⟨List.mem_of_find?_eq_some hth, by simp [hlive, hid]⟩
  have hplaces : (ps.map (fun p => (p.core, p.slot))).dedup = [(c, sl)] := by
    have hrep : ps.map (fun p => (p.core, p.slot)) = List.replicate ps.length (c, sl) := by
      rw [hps, List.map_map, List.length_map, ← List.map_const']
      exact List.map_congr_left fun o _ => by simp [partyIn_core, partyIn_slot]
    have hne : ps.length ≠ 0 := by
      rw [hps, List.length_map]
      exact Nat.ne_of_gt (List.length_pos_of_mem hmem)
    rw [hrep, List.replicate_dedup hne]
  unfold State.completeRend
  simp only [h, hplaces, List.foldl_cons, List.foldl_nil, Nat.not_lt.2 hl, ↓reduceIte]
  rfl

/-- Settles O23: below CLUSTER the parties stand in one block, whose threads the completion changes. -/
theorem rendezvousCompletes : Obligations.RendezvousCompletes := by
  intro c sl tid s b i t ps hb hp hl
  have q := Quiet.opened s c sl
  refine ⟨s.completeRend c sl tid, rfl, fun l => ?_, fun k => ?_⟩ <;> rw [State.completeRend_below hp hl]
  · rw [State.thread?_updThreads ((q.block? c sl).trans hb) _ (fun b th => Thread.afterRend_ltid ..), q.thread?]
    rfl
  · rw [State.updBlock_mem, q.mem]

end Sys2Proof.Machine
end

section
/-! Proof of O22: the arrival at a rendezvous, and its completion by the last group inside the block (R32, R34, R243-R250). -/

namespace Sys2Proof.Machine

/-! ### The members of a site -/

/-- What a site is made of. -/
theorem State.site?_parts {s : State} {act : Thread → Bool} {e : Site} (h : s.site? act = some e) :
    e.t = s.treeOf e.cur.slot e.b ∧ e.mem = members e.b e.cur ∧ e.act = e.mem.filter act := by
  unfold State.site? at h
  split at h
  · cases h
  · split at h
    · cases h
    · dsimp only at h
      split at h
      · cases h
      · cases h; exact ⟨rfl, rfl, rfl⟩

/-! ### Judging a launch -/

/-- The checks of R34 change nothing when no block raises MEMBER. -/
theorem State.memberChecks_of_none {s : State} {l : Nat}
    (h : ∀ x ∈ s.blocksOf l, s.memberGroup x.1 x.2.1 x.2.2 = none) : s.memberChecks l = s := by
  have hf : (s.blocksOf l).filterMap (fun e => (s.memberGroup e.1 e.2.1 e.2.2).map
      (fun cur => (cur, laneMask (e.2.2.pick cur.tids)))) = [] :=
    List.filterMap_eq_nil_iff.2 fun x hx => by rw [h x hx]; rfl
  rw [State.memberChecks, hf]
  rfl

theorem State.memberAfter_of_none {s : State} {l : Nat}
    (h : ∀ x ∈ s.blocksOf l, s.memberGroup x.1 x.2.1 x.2.2 = none) : s.memberAfter l = s := by
  rw [State.memberAfter, State.memberChecks_of_none h]

/-! ### The issue of a rendezvous -/

section
variable {i : Instr} {s : State} {e : Site}

theorem exec_of_isRendezvous (h : isRendezvous i = true) (s : State) : exec i s = .next (rendezvous i s) := by
  unfold isRendezvous at h
  split at h
  case h_10 => cases h
  all_goals rfl

/-- At level 0 a rendezvous that reaches its effect has the result of its one contributor (R32). -/
theorem rendezvous_of_level_zero (h : Runs i s e) (hl : rendLvl i = 0) :
    rendezvous i s = (s.noted i e).finish e (fun th =>
      (rendEffect i 1 [⟨e.cur.core, e.cur.slot, th, 0, true, rendSrc i (s.noted i e) e th,
        e.read (s.noted i e) th (rendOperands i).2⟩] ⟨e.cur.core, e.cur.slot, th, 0, true, rendSrc i (s.noted i e) e th,
        e.read (s.noted i e) th (rendOperands i).2⟩ th).next) := by
  obtain ⟨hs, ha, hp, hh, hr⟩ := h
  have ha' : e.act.isEmpty = false := by simpa using ha
  simp only [rendezvous, hs, ha', hp, hh, hr, hl, Bool.not_false, Bool.false_and, Bool.and_false, Bool.false_eq_true,
    ↓reduceIte]
  rfl

/-- Above level 0 and below CLUSTER the group arrives (R32, R243). -/
theorem rendezvous_of_arrival (h : Runs i s e) (hl : rendLvl i ≠ 0) (hc : (e.t.bind (rendLvl i)).code < 4) :
    rendezvous i s = (rendArrived s e i).memberAfter e.b.launch := by
  obtain ⟨hs, ha, hp, hh, hr⟩ := h
  obtain ⟨-, -, hact⟩ := State.site?_parts hs
  have ha' : e.act.isEmpty = false := by simpa using ha
  simp only [rendezvous, hs, ha', hp, hh, hr, hl, Bool.not_false, Bool.false_and, Bool.and_false, Bool.false_eq_true,
    ↓reduceIte, State.atHigh, hc, arrive, Nat.not_le.2 hc, decide_false, ← hact]
  rfl

end

/-! ### The one contributor of a node of level 0 -/

section
variable {p : Party} (hr : p.rank = 0) (ha : p.act = true)
include hr ha

theorem valueAt_alone (r : Nat) : valueAt [p] r = if r = 0 then some p.a else none := by
  by_cases h : r = 0
  · simp [valueAt, hr, ha, h]
  · simp [valueAt, hr, ha, h, Ne.symm h]

/-- One contributor takes its own value, or `own`, from a named rank. -/
theorem fromRank_alone (src : Option Nat) (own : Word) :
    fromRank [p] 1 src own = if src = some 0 then p.a else own := by
  cases src with
  | none => rfl
  | some r =>
    have hlt : r < 1 ↔ r = 0 := by omega
    by_cases h : r = 0 <;> simp [fromRank, valueAt_alone hr ha, hlt, h]

theorem rankMask_alone (k : Nat) (ok : Party → Bool) : rankMask [p] k ok = if k = 0 ∧ ok p = true then 1 else 0 := by
  by_cases h : k = 0
  · simp [rankMask, hr, ha, h]
  · simp [rankMask, hr, ha, h, Ne.symm h]

end

/-- VOTE over one truth value (R209). -/
theorem voteResult_alone (mode : Nat) (v : Bool) : voteResult mode [v] = (decide (2 ≤ mode) || v) := by
  match mode with
  | 0 => simp [voteResult]
  | 1 => simp [voteResult]
  | n + 2 => cases v <;> simp [voteResult]

/-- With one contributor, of rank 0, the results are those of the table (R209, R210, R245, R246, R248-R250). -/
theorem rendEffect_alone {i : Instr} {f : Word → Word → Thread → Thread} (h : aloneEffect i = some f) {p : Party}
    (hr : p.rank = 0) (ha : p.act = true) (th : Thread) : rendEffect i 1 [p] p th = f p.a p.b th := by
  unfold aloneEffect at h
  split at h <;> cases h
  case h_1 f =>
    have hv : ([p].filter (fun q => q.act)).map (fun q => q.a != 0) = [p.a != 0] := by simp [ha]
    simp only [rendEffect, hv, voteResult_alone, putD]
  case h_2 f => simp only [rendEffect, rankMask_alone hr ha, bne_iff_ne, putD]
  case h_3 f => simp only [rendEffect, fromRank_alone hr ha, ite_self, putD]
  case h_4 f =>
    have hsrc : lshiftSource (f.mode != 0) p.rank f.imm.toNat = some 0 ↔ f.imm.toNat = 0 := by
      rw [hr, lshiftSource]
      cases f.mode != 0 <;> simp
    simp only [rendEffect, fromRank_alone hr ha, hsrc, putD]
  case h_5 f => by_cases hz : p.a = 0#64 <;> simp [rendEffect, putD, hr, ha, hz]
  case h_6 f => simp only [rendEffect, rankMask_alone hr ha, beq_self_eq_true, and_true, putD]
  case h_7 f => simp [rendEffect, putD, hr, boolWord]

/-! ### The arrival -/

/-- A change of some threads of the site's block changes nothing else. -/
theorem OnlyGroup.mapTids (s : State) (e : Site) (ts : List Nat) (f : Thread → Thread) :
    OnlyGroup s (s.mapTids e.cur.core e.cur.slot ts f) e := by
  refine ⟨OnlyBlock.updBlock _ _ _, ?_, ?_⟩
  · rw [BlockGoes, State.mapTids, State.block?_updBlock, Option.map_map]; rfl
  · rw [Holds, State.mapTids, State.chunk_updBlock, List.append_nil]

/-- A thread as it stands when its group has arrived, with its operands (R243). -/
def Site.parks (e : Site) (s : State) (i : Instr) (th : Thread) : Thread :=
  th.parkAt i (fullActive (wordOf i) th) (rendSrc i s e th) (e.read s th (rendOperands i).2)

theorem rendArrived_eq (s : State) (e : Site) (i : Instr) : rendArrived s e i
    = (s.noted i e).mapTids e.cur.core e.cur.slot (e.mem.map (fun m => m.ltid)) (e.parks s i) := rfl

/-- The members stand parked, and nothing else has changed (R32). -/
theorem rendArrived_parks {i : Instr} {s : State} {e : Site} (h : Runs i s e) (hr : (s.launchOf e.b).race = false) :
    OnlyGroup s (rendArrived s e i) e
      ∧ ∀ l, (rendArrived s e i).thread? e.cur.core e.cur.slot l = (s.thread? e.cur.core e.cur.slot l).map (fun th =>
        if (e.mem.map (fun m => m.ltid)).contains th.ltid then e.parks s i th else th) := by
  have q := Quiet.noted s i e (State.site?_names h.1) hr
  refine ⟨(q.only e).trans (OnlyGroup.mapTids _ _ _ _), fun l => ?_⟩
  rw [rendArrived_eq, State.thread?_mapTids _ _ _ _ (e.parks s i) _ (fun _ => rfl), q.thread?]

/-! ### The completion by the last group -/

section
variable {b : Block} (hn : (b.threads.map (fun th => th.ltid)).Nodup)
include hn

theorem Block.eq_of_ltid {x y : Thread} (hx : x ∈ b.threads) (hy : y ∈ b.threads) (h : x.ltid = y.ltid) : x = y :=
  List.inj_on_of_nodup_map hn hx hy h

theorem Block.thread?_of_mem {th : Thread} (h : th ∈ b.threads) : b.thread? th.ltid = some th := by
  cases hf : b.thread? th.ltid with
  | none => exact absurd (List.find?_eq_none.1 hf th h) (by simp)
  | some x =>
    have hid : x.ltid = th.ltid := by simpa using List.find?_some hf
    rw [Block.eq_of_ltid hn (List.mem_of_find?_eq_some hf) h hid]

/-- A party of a rendezvous leaves it with the result that its own operands give. -/
theorem Thread.afterRend_of_mate (c sl : Nat) (i : Instr) (n : Nat) (t : Tree) (l tid : Nat) (clk : Tab Nat) {th : Thread}
    (h : th ∈ b.nodeMates t l tid) :
    th.afterRend c sl i n ((b.nodeMates t l tid).map (partyIn c sl b t l)) clk b
      = (if (partyIn c sl b t l th).act
          then rendEffect i n ((b.nodeMates t l tid).map (partyIn c sl b t l)) (partyIn c sl b t l th) th
          else th).depart (threadUid b th.ltid) clk := by
  obtain ⟨hth, hlive⟩ := List.mem_filter.1 h
  have hlive' : th.live = true := by simp only [Bool.and_eq_true] at hlive; exact hlive.1
  have hp : ((b.nodeMates t l tid).map (partyIn c sl b t l)).find?
      (fun p => p.core == c && p.slot == sl && p.th.ltid == th.ltid && th.live) = some (partyIn c sl b t l th) := by
    cases hf : ((b.nodeMates t l tid).map (partyIn c sl b t l)).find?
        (fun p => p.core == c && p.slot == sl && p.th.ltid == th.ltid && th.live) with
    | none =>
      exact absurd (List.find?_eq_none.1 hf _ (List.mem_map_of_mem h)) (by simp [partyIn_core, partyIn_slot, hlive'])
    | some p =>
      obtain ⟨o, ho, rfl⟩ := List.mem_map.1 (List.mem_of_find?_eq_some hf)
      have hid : o.ltid = th.ltid := by
        have := List.find?_some hf
        simp only [partyIn_th, Bool.and_eq_true, beq_iff_eq] at this
        exact this.1.2
      rw [Block.eq_of_ltid hn (List.mem_filter.1 ho).1 hth hid]
  rw [Thread.afterRend, hp]

end

/-! A result does not look at how its thread waits. -/

section
variable (th : Thread) (j : Instr) (act : Bool) (a b : Word)

theorem Thread.setD_parkAt (d : Operand) (w : Word) :
    (th.parkAt j act a b).setD d w = (th.setD d w).parkAt j act a b := by
  cases d with
  | pred k =>
    simp only [Thread.setD, Thread.setPred]
    split <;> rfl
  | special k =>
    simp only [Thread.setD]
    split
    · rfl
    · split <;> rfl
  | _ => rfl

theorem Thread.cleared_parkAt (d : Operand) : (th.parkAt j act a b).cleared d = (th.cleared d).parkAt j act a b := by
  unfold Thread.cleared
  rw [apply_ite (fun t : Thread => t.parkAt j act a b)]
  rfl

theorem Thread.flag_parkAt (fl : BitVec 5) : (th.parkAt j act a b).flag fl = (th.flag fl).parkAt j act a b := rfl

theorem rendEffect_parkAt (i : Instr) (n : Nat) (ps : List Party) (p : Party) :
    rendEffect i n ps p (th.parkAt j act a b) = (rendEffect i n ps p th).parkAt j act a b := by
  unfold rendEffect
  split <;> simp only [Thread.setD_parkAt, Thread.cleared_parkAt, Thread.flag_parkAt]

end

/-- What a thread that leaves a completed rendezvous keeps of how it was before it parked. -/
theorem Thread.depart_parkAt (th : Thread) (i : Instr) (act : Bool) (a b : Word) (uid : Nat) (clk : Tab Nat) :
    ((th.parkAt i act a b).depart uid clk).pc = th.pc + 8 ∧ ((th.parkAt i act a b).depart uid clk).wait = .run
      ∧ ((th.parkAt i act a b).depart uid clk).v = th.v ∧ ((th.parkAt i act a b).depart uid clk).p = th.p
      ∧ ((th.parkAt i act a b).depart uid clk).fflags = th.fflags := ⟨rfl, rfl, rfl, rfl, rfl⟩

/-- A state after an arrival inside the block, in which every thread of a member's node is parked at the operation. -/
structure LastArrives (s : State) (e : Site) (i : Instr) (m : Thread) : Prop where
  runs : Runs i s e
  norace : (s.launchOf e.b).race = false
  nodup : (e.b.threads.map (fun th => th.ltid)).Nodup
  member : m ∈ e.mem
  together : ∀ th ∈ e.mem, th.pc = m.pc
  inBlock : rendLvl i ≤ e.t.blockLvl
  parked : ∀ th ∈ e.b.threads, th.live = true → e.node th (rendLvl i) = e.node m (rendLvl i) →
      th ∈ e.mem ∨ (th.parkedAt = some i ∧ th.pc = m.pc)

namespace LastArrives
variable {s : State} {e : Site} {i : Instr} {m : Thread}

/-- The site's block after the arrival. -/
def block (s : State) (e : Site) (i : Instr) : Block := e.b.mapTids (e.mem.map (fun m => m.ltid)) (e.parks s i)

theorem mem_iff (h : LastArrives s e i m) {th : Thread} (ht : th ∈ e.b.threads) :
    (e.mem.map (fun m => m.ltid)).contains th.ltid = true ↔ th ∈ e.mem := by
  obtain ⟨-, hmem, -⟩ := State.site?_parts h.runs.1
  simp only [List.contains_iff_mem, List.mem_map]
  refine ⟨fun ⟨x, hx, hid⟩ => ?_, fun hm => ⟨th, hm, rfl⟩⟩
  have hxb : x ∈ e.b.threads := by rw [hmem] at hx; exact (List.mem_filter.1 hx).1
  rwa [← Block.eq_of_ltid h.nodup hxb ht hid]

theorem member_parts (h : LastArrives s e i m) {th : Thread} (hm : th ∈ e.mem) : th ∈ e.b.threads ∧ th.live = true := by
  obtain ⟨-, hmem, -⟩ := State.site?_parts h.runs.1
  rw [hmem, members, List.mem_filter] at hm
  simp only [Bool.and_eq_true] at hm
  exact ⟨hm.1, hm.2.2⟩

theorem block?_eq (h : LastArrives s e i m) :
    (rendArrived s e i).block? e.cur.core e.cur.slot = some (block s e i) := by
  have q := Quiet.noted s i e (State.site?_names h.runs.1) h.norace
  rw [rendArrived_eq, State.block?_mapTids, q.block?, State.site?_names h.runs.1]
  rfl

theorem treeOf_eq (h : LastArrives s e i m) : (rendArrived s e i).treeOf e.cur.slot (block s e i) = e.t := by
  have q := Quiet.noted s i e (State.site?_names h.runs.1) h.norace
  have hl : (rendArrived s e i).launches = s.launches := by rw [rendArrived_eq, State.mapTids_launches, q.launches]
  have hlo : (rendArrived s e i).launchOf (block s e i) = s.launchOf e.b := by
    rw [State.launchOf, State.launchOf, State.launch?, State.launch?, hl]; rfl
  rw [(State.site?_parts h.runs.1).1, State.treeOf, State.treeOf, hlo]

/-- The threads of the block after the arrival. -/
theorem mem_block (h : LastArrives s e i m) {o : Thread} : o ∈ (block s e i).threads ↔
    (∃ th ∈ e.mem, o = e.parks s i th) ∨ (o ∈ e.b.threads ∧ o ∉ e.mem) := by
  simp only [block, Block.mapTids, List.mem_map]
  constructor
  · rintro ⟨th, ht, rfl⟩
    by_cases hm : th ∈ e.mem
    · exact Or.inl ⟨th, hm, if_pos ((h.mem_iff ht).2 hm)⟩
    · rw [if_neg (fun hc => hm ((h.mem_iff ht).1 hc))]
      exact Or.inr ⟨ht, hm⟩
  · rintro (⟨th, hm, rfl⟩ | ⟨ht, hm⟩)
    · have ht := (h.member_parts hm).1
      exact ⟨th, ht, if_pos ((h.mem_iff ht).2 hm)⟩
    · exact ⟨o, ht, if_neg (fun hc => hm ((h.mem_iff ht).1 hc))⟩

theorem parks_mem_block (h : LastArrives s e i m) {th : Thread} (hm : th ∈ e.mem) :
    e.parks s i th ∈ (block s e i).threads := h.mem_block.2 (Or.inl ⟨th, hm, rfl⟩)

theorem map_block {α : Type} (f : Thread → α) (hf : ∀ th, f (e.parks s i th) = f th) :
    (block s e i).threads.map f = e.b.threads.map f := by
  rw [block, Block.mapTids, List.map_map]
  refine List.map_congr_left fun th _ => ?_
  simp only [Function.comp, apply_ite f, hf, ite_self]

theorem block_nodup (h : LastArrives s e i m) : ((block s e i).threads.map (fun th => th.ltid)).Nodup := by
  rw [map_block _ (fun _ => rfl)]
  exact h.nodup

/-- The threads of the member's node, by their ids, are those of before. -/
theorem mates_ltid : ((block s e i).nodeMates e.t (rendLvl i) m.ltid).map (fun th => th.ltid)
    = (e.b.threads.filter (fun th => th.live && e.node th (rendLvl i) == e.node m (rendLvl i))).map (fun th => th.ltid) := by
  have hp : (fun th => th.live && th.ltid / max 1 (e.t.per (rendLvl i)) == m.ltid / max 1 (e.t.per (rendLvl i)))
      ∘ (fun th => if (e.mem.map (fun m => m.ltid)).contains th.ltid then e.parks s i th else th)
      = fun th => th.live && e.node th (rendLvl i) == e.node m (rendLvl i) := by
    funext th
    simp only [Function.comp]
    split <;> rfl
  rw [Block.nodeMates, block, Block.mapTids, List.filter_map, hp, List.map_map]
  refine List.map_congr_left fun th _ => ?_
  simp only [Function.comp]
  split <;> rfl

/-- The rendezvous can complete, with the threads of the member's node as its parties (R32). -/
theorem parties (h : LastArrives s e i m) : (rendArrived s e i).parties? e.cur.core e.cur.slot m.ltid
    = some (i, e.t, ((block s e i).nodeMates e.t (rendLvl i) m.ltid).map
      (partyIn e.cur.core e.cur.slot (block s e i) e.t (rendLvl i))) := by
  have ht : (block s e i).thread? m.ltid = some (e.parks s i m) :=
    Block.thread?_of_mem h.block_nodup (h.parks_mem_block h.member)
  have hlive : m.exited = false := by simpa [Thread.live] using (h.member_parts h.member).2
  have hp := State.parties?_of_parked h.block?_eq ht rfl hlive (by rw [h.treeOf_eq]; exact h.inBlock)
  rw [h.treeOf_eq] at hp
  refine hp fun o ho => ?_
  obtain ⟨hob, hnode⟩ := List.mem_filter.1 ho
  rcases h.mem_block.1 hob with ⟨th, hm, rfl⟩ | ⟨hb, hnm⟩
  · exact ⟨rfl, h.together th hm⟩
  · simp only [Bool.and_eq_true, beq_iff_eq] at hnode
    exact (h.parked o hb hnode.1 hnode.2).resolve_left hnm

/-- Each active member of the node has the operation's result over the parties, and stands at the next word. -/
theorem results (h : LastArrives s e i m) {th : Thread} (ha : th ∈ e.act)
    (hnode : e.node th (rendLvl i) = e.node m (rendLvl i)) :
    let ps := ((block s e i).nodeMates e.t (rendLvl i) m.ltid).map
      (partyIn e.cur.core e.cur.slot (block s e i) e.t (rendLvl i))
    ∃ p ∈ ps, p.th.ltid = th.ltid ∧ p.act = true ∧ p.a = rendSrc i s e th ∧ p.b = e.read s th (rendOperands i).2
      ∧ p.rank = e.t.rank (rendLvl i) e.b.lin th.ltid
      ∧ ∃ th', ((rendArrived s e i).completeRend e.cur.core e.cur.slot m.ltid).thread? e.cur.core e.cur.slot th.ltid = some th'
        ∧ th'.pc = th.pc + 8 ∧ th'.wait = .run
        ∧ th'.v = (rendEffect i (e.t.per (rendLvl i)) ps p th).v ∧ th'.p = (rendEffect i (e.t.per (rendLvl i)) ps p th).p
        ∧ th'.fflags = (rendEffect i (e.t.per (rendLvl i)) ps p th).fflags := by
  intro ps
  obtain ⟨-, -, hact⟩ := State.site?_parts h.runs.1
  obtain ⟨hm, hfull⟩ : th ∈ e.mem ∧ fullActive (wordOf i) th = true := by rw [hact] at ha; exact List.mem_filter.1 ha
  have hmate : e.parks s i th ∈ (block s e i).nodeMates e.t (rendLvl i) m.ltid :=
    List.mem_filter.2 ⟨h.parks_mem_block hm, by
      simp only [Bool.and_eq_true, beq_iff_eq]
      exact ⟨(h.member_parts hm).2, hnode⟩⟩
  have hthread : ((rendArrived s e i).completeRend e.cur.core e.cur.slot m.ltid).thread? e.cur.core e.cur.slot th.ltid
      = some ((e.parks s i th).afterRend e.cur.core e.cur.slot i (e.t.per (rendLvl i)) ps
        (partyClock (rendArrived s e i) ps) (block s e i)) := by
    rw [State.completeRend_below h.parties h.inBlock, State.thread?_updThreads ((Quiet.opened _ _ _).block? _ _ ▸ h.block?_eq)
      _ (fun b th => Thread.afterRend_ltid ..), (Quiet.opened _ _ _).thread?, State.thread?, h.block?_eq, Option.bind_some]
    rw [show (block s e i).thread? th.ltid = some (e.parks s i th) from
      Block.thread?_of_mem h.block_nodup (h.parks_mem_block hm), Option.map_some]
  refine ⟨_, List.mem_map_of_mem hmate, rfl, hfull, rfl, rfl, rfl, _, hthread, ?_⟩
  rw [Thread.afterRend_of_mate h.block_nodup _ _ _ _ _ _ _ _ hmate,
    show (partyIn e.cur.core e.cur.slot (block s e i) e.t (rendLvl i) (e.parks s i th)).act = true from hfull,
    if_pos rfl, Site.parks, rendEffect_parkAt]
  obtain ⟨hpc, hrest⟩ := Thread.depart_parkAt (rendEffect i (e.t.per (rendLvl i)) ps
    (partyIn e.cur.core e.cur.slot (block s e i) e.t (rendLvl i) (e.parks s i th)) th) i (fullActive (wordOf i) th)
    (rendSrc i s e th) (e.read s th (rendOperands i).2) (threadUid (block s e i) th.ltid) (partyClock (rendArrived s e i) ps)
  rw [rendEffect_pc] at hpc
  exact ⟨hpc, hrest⟩

end LastArrives

/-- Settles O22: at level 0 the one contributor's result, above it the arrival, and the completion of the last arrival. -/
theorem rendezvousArrives : Obligations.RendezvousArrives := by
  refine ⟨fun i hi hl s e h => ?_, fun i hi hl s e h hc => ⟨?_, rendArrived_parks h⟩,
    fun i hi hl s e m h hc hb hr hn hm htog hall hnone => ?_⟩
  · refine ⟨rendezvous i s, exec_of_isRendezvous hi s, ?_⟩
    rw [rendezvous_of_level_zero h hl]
    refine ⟨State.finish_goes _ _ _ (fun th => by rw [Thread.next_ltid, rendEffect_ltid]), fun f hf => ?_,
      State.finish_noted_only s i e _ (State.site?_names h.1)⟩
    simp only [rendEffect_alone hf]
    exact State.finish_goes _ _ _ (fun th => by
      rw [Thread.next_ltid, ← rendEffect_alone hf (p := ⟨e.cur.core, e.cur.slot, th, 0, true, _, _⟩) rfl rfl, rendEffect_ltid])
  · rw [Completes, exec_of_isRendezvous hi, rendezvous_of_arrival h hl hc]
  · have L : LastArrives s e i m := ⟨h, hr, hn, hm, htog, hb, hall⟩
    refine ⟨(rendArrived s e i).completeRend e.cur.core e.cur.slot m.ltid, _, ?_, rfl, ?_, fun th ha hnode => L.results ha hnode⟩
    · rw [Completes, exec_of_isRendezvous hi, rendezvous_of_arrival h hl hc, State.memberAfter_of_none hnone]
    · rw [List.map_map]
      exact (List.map_congr_left fun o _ => by simp).trans LastArrives.mates_ltid

end Sys2Proof.Machine
end

section
/-! Proof of O20: EXIT and the withdrawal of the arrivals of its threads (R34, R133, R137, R217, R261). -/

namespace Sys2Proof.Machine

/-! ### EXIT has no source -/

theorem sourceOps_exit (g : Guard) : sourceOps (wordOf (.exit g)) = [] := by
  have hw : wordOf (.exit g) = encFB 0xC7 g 0 0 0 := rfl
  have hs : wordShape (wordOf (.exit g)) = some (shapeB (wordOf (.exit g)) (mask 42 5 ||| mask 0 32) .unused) := by
    rw [wordShape, hw, fOp_encFB]; rfl
  rw [sourceOps, hw, getLsbD_encFB_pairBit, ← hw, usedSpecs, hs]
  rfl

theorem exit_noted (s : State) (g : Guard) (e : Site) : s.noted (.exit g) e = s.acts e := by
  rw [State.noted, sourceOps_exit]; rfl

/-! ### Withdrawing arrivals -/

theorem dropArrivals_who (us : List Nat) (o : Bar) : (dropArrivals us o).who = o.who.filter (fun u => !us.contains u) := by
  unfold dropArrivals
  dsimp only
  split
  case isTrue h => exact (List.filter_eq_self.2 (List.length_filter_eq_length_iff.1 h)).symm
  case isFalse => rfl

/-- An object that holds one of the threads counts the arrivals that stay. -/
theorem dropArrivals_of_mem {us : List Nat} {o : Bar} (h : ∃ u ∈ o.who, u ∈ us) :
    dropArrivals us o = { o with who := (dropArrivals us o).who, arrived := (dropArrivals us o).who.length } := by
  obtain ⟨u, ho, hu⟩ := h
  have hne : ¬ (o.who.filter (fun u => !us.contains u)).length = o.who.length := fun hl => by
    simpa [hu] using List.length_filter_eq_length_iff.1 hl u ho
  rw [dropArrivals_who]
  exact if_neg hne

theorem dropArrivals_of_not_mem {us : List Nat} {o : Bar} (h : ∀ u ∈ o.who, u ∉ us) : dropArrivals us o = o :=
  if_pos (congrArg List.length (List.filter_eq_self.2 fun u hu => by simpa using h u hu))

/-- A launch whose nodes' objects hold no arrival of some threads any more. -/
def Launch.drops (us : List Nat) (l : Launch) : Launch :=
  { l with nodes := Tab.mapV l.nodes (fun _ n => { n with bar := dropArrivals us n.bar }) }

theorem State.withdrawHigh_of_block {s : State} {c sl : Nat} {b : Block} (h : s.block? c sl = some b) (tids : List Nat) :
    s.withdrawHigh c sl tids = s.updLaunch b.launch (Launch.drops (tids.map (threadUid b))) := by
  rw [State.withdrawHigh, h]
  rfl

theorem State.launch?_updLaunch (s : State) (n l : Nat) (f : Launch → Launch) :
    (s.updLaunch n f).launch? l = (s.launch? l).map (fun ln => if l = n then f ln else ln) := by
  simp only [State.launch?, State.updLaunch, List.getElem?_modify, eq_comm (a := n)]
  by_cases h : l = n <;> simp [h]

/-! ### The block that the threads leave -/

/-- The block's objects hold no arrival of the group's threads any more. -/
def Site.leaves (e : Site) (b : Block) : Block :=
  { b with bars := Tab.mapV b.bars (fun _ o => dropArrivals (e.tids.map (threadUid e.b)) o) }

theorem BlockGoes.trans_updBlock {s t : State} {e : Site} (h : BlockGoes s t e id) {f : Block → Block}
    (hf : ∀ b b', b.apart = b'.apart → (f b).apart = (f b').apart) :
    BlockGoes s (t.updBlock e.cur.core e.cur.slot f) e f := by
  have hmap : ∀ o : Option Block, (o.map f).map Block.apart = (o.map Block.apart).map (fun b => (f b).apart) := fun o => by
    rw [Option.map_map, Option.map_map]
    exact congrArg (Option.map · o) (funext fun b => hf b b.apart rfl)
  calc ((t.updBlock e.cur.core e.cur.slot f).block? e.cur.core e.cur.slot).map Block.apart
      = ((t.block? e.cur.core e.cur.slot).map f).map Block.apart := by rw [State.block?_updBlock]
    _ = ((t.block? e.cur.core e.cur.slot).map Block.apart).map (fun b => (f b).apart) := hmap _
    _ = ((s.block? e.cur.core e.cur.slot).map Block.apart).map (fun b => (f b).apart) := congrArg _ h
    _ = ((s.block? e.cur.core e.cur.slot).map f).map Block.apart := (hmap _).symm
    _ = _ := Option.map_map ..

theorem State.thread?_updBlock {f : Block → Block} (hf : ∀ b, (f b).threads = b.threads) (s : State) (c sl l : Nat) :
    (s.updBlock c sl f).thread? c sl l = s.thread? c sl l := by
  rw [State.thread?, State.block?_updBlock, Option.bind_map, State.thread?]
  exact congrArg _ (funext fun b => by simp only [Function.comp, Block.thread?, hf])

@[simp] theorem State.arch_updChunk (s : State) (c d : Nat) (f : Chunk → Chunk) :
    ((s.updChunk c f).core d).arch = (s.core d).arch := by
  by_cases hd : d = c
  · rw [hd, State.core_updChunk]
  · rw [State.core_updChunk_ne _ _ hd]

theorem State.block?_updChunk (s : State) (c d sl : Nat) (f : Chunk → Chunk) :
    (s.updChunk c f).block? d sl = s.block? d sl := by
  rw [State.block?, State.block?, State.arch_updChunk]

theorem State.thread?_updChunk (s : State) (c d sl l : Nat) (f : Chunk → Chunk) :
    (s.updChunk c f).thread? d sl l = s.thread? d sl l := by
  rw [State.thread?, State.thread?, State.block?_updChunk]

/-- An append to what the core's chunk holds changes nothing else. -/
theorem OnlyBlock.hold (s : State) (e : Site) (hs : List Held) :
    OnlyBlock s (s.updChunk e.cur.core (fun h => { h with held := h.held ++ hs })) e := by
  refine ⟨fun _ => rfl, fun c sl _ => State.block?_updChunk _ _ _ _ _, fun c => by rw [State.arch_updChunk], fun c => ?_,
    fun c hc => by rw [State.core_updChunk_ne _ _ hc], rfl, rfl, rfl, rfl, rfl, rfl⟩
  by_cases hc : c = e.cur.core
  · rw [hc, State.core_updChunk]
  · rw [State.core_updChunk_ne _ _ hc]

/-- A change of the launches alone. -/
theorem OnlyBlock.launches {s t : State} {e : Site} (h : OnlyBlock s t e) (ls : List Launch) :
    OnlyBlock { s with launches := ls } { t with launches := ls } e := by
  obtain ⟨h1, h2, h3, h4, h5, -, h7, h8, h9, h10, h11⟩ := h
  exact ⟨h1, h2, h3, h4, h5, rfl, h7, h8, h9, h10, h11⟩

/-! ### What the leaving of the block does -/

section
variable {s t : State} {e : Site}

/-- A group's transfer leaves the site's block as it was, threads apart. -/
theorem OnlyGroup.block (h : OnlyGroup s t e) {b : Block} (hb : s.block? e.cur.core e.cur.slot = some b) :
    ∃ b', t.block? e.cur.core e.cur.slot = some b' ∧ b'.apart = b.apart := by
  obtain ⟨-, hgo, -⟩ := h
  rw [BlockGoes, hb] at hgo
  cases ht : t.block? e.cur.core e.cur.slot with
  | none => simp [ht] at hgo
  | some b' => exact ⟨b', rfl, by simpa [ht] using hgo⟩

theorem OnlyBlock.isExact (h : OnlyBlock s t e) (slot : Nat) (b : Block) : t.isExact slot b = s.isExact slot b := by
  obtain ⟨-, -, -, -, -, hl, -⟩ := h
  rw [State.isExact, State.isExact, State.launchOf, State.launchOf, State.launch?, State.launch?, hl]

theorem threadUid_of_apart {b b' : Block} (h : b.apart = b'.apart) : threadUid b = threadUid b' := by
  have hl : b.launch = b'.launch := (congrArg Block.launch h :)
  have hn : b.lin = b'.lin := (congrArg Block.lin h :)
  funext l
  rw [threadUid, threadUid, hl, hn]

/-- Under EXACT the arrivals above the block go at once as well. -/
theorem leaveBars_of_exact {b : Block} (hx : t.isExact e.cur.slot e.b = true) (hb : t.block? e.cur.core e.cur.slot = some b)
    (ha : b.apart = e.b.apart) : t.leaveBars e
      = (t.updBlock e.cur.core e.cur.slot e.leaves).updLaunch e.b.launch (Launch.drops (e.tids.map (threadUid e.b))) := by
  have hu := threadUid_of_apart ha
  have hl : b.launch = e.b.launch := (congrArg Block.launch ha :)
  have hn : (t.updBlock e.cur.core e.cur.slot e.leaves).block? e.cur.core e.cur.slot = some (e.leaves b) := by
    rw [State.block?_updBlock, hb]; rfl
  rw [State.leaveBars, if_pos hx, State.withdrawArrivals, hb]
  simp only [hu]
  refine (State.withdrawHigh_of_block hn e.tids).trans ?_
  rw [show (e.leaves b).launch = e.b.launch from hl, show threadUid (e.leaves b) = threadUid b from rfl, hu]

theorem leaveBars_of_not_exact (hx : t.isExact e.cur.slot e.b = false) : t.leaveBars e
    = (t.updBlock e.cur.core e.cur.slot e.leaves).updChunk e.cur.core
      (fun h => { h with held := h.held ++ [.exits e.cur.slot e.tids] }) := by
  rw [State.leaveBars, hx]
  rfl

end

/-- A thread that has exited for good, without its reservation. -/
def Thread.ends (th : Thread) : Thread := { th with exited := true, resv := none, acted := false }

/-- The state after the exits, before the checks of R34. -/
def exitLeft (s : State) (e : Site) : State :=
  let t := (s.acts e).finish e Thread.ends
  if e.cur.slot = handlerSlot then t else t.leaveBars e

/-- How the threads, the block, its core's chunk and the launches stand after the exits. -/
structure ExitsFrom (s u : State) (e : Site) : Prop where
  only : OnlyBlock { s with launches := u.launches } u e
  exact : s.isExact e.cur.slot e.b = true →
    u.launches = (s.withdrawHigh e.cur.core e.cur.slot e.tids).launches ∧ Holds s u e.cur.core []
  held : s.isExact e.cur.slot e.b = false → u.launches = s.launches
    ∧ Holds s u e.cur.core (if e.cur.slot = handlerSlot then [] else [.exits e.cur.slot e.tids])
  block : BlockGoes s u e (fun b => if e.cur.slot = handlerSlot then b else e.leaves b)
  goes : GroupGoes s u e Thread.ends

theorem exitLeft_from (s : State) (e : Site) (hb : e.names s) : ExitsFrom s (exitLeft s e) e := by
  have q := Quiet.acts s e
  obtain ⟨t, ht⟩ : ∃ t, t = (s.acts e).finish e Thread.ends := ⟨_, rfl⟩
  have hgo : GroupGoes s t e Thread.ends := by
    rw [ht]; exact q.goes (State.finish_goes _ _ _ (fun _ => rfl))
  have hg : OnlyGroup s t e := by rw [ht]; exact (q.only e).trans (State.finish_only _ _ _)
  obtain ⟨honly, hblock, hheld⟩ := hg
  have hlaunch : t.launches = s.launches := honly.2.2.2.2.2.1
  have hheld' : (t.core e.cur.core).chunk.held = (s.core e.cur.core).chunk.held := by rwa [Holds, List.append_nil] at hheld
  have hleft : exitLeft s e = if e.cur.slot = handlerSlot then t else t.leaveBars e := by rw [ht]; rfl
  by_cases hs : e.cur.slot = handlerSlot
  · rw [hleft, if_pos hs]
    refine ⟨hlaunch ▸ honly, fun hx => ?_, fun _ => ⟨hlaunch, by rwa [if_pos hs]⟩, ?_, hgo⟩
    · simp [State.isExact, hs] at hx
    · simp only [if_pos hs]; exact hblock
  · rw [hleft, if_neg hs]
    have hbars : BlockGoes s (t.updBlock e.cur.core e.cur.slot e.leaves) e e.leaves :=
      hblock.trans_updBlock fun b b' h => congrArg e.leaves h
    have hthreads : GroupGoes s (t.updBlock e.cur.core e.cur.slot e.leaves) e
        Thread.ends := fun l => by
      rw [State.thread?_updBlock (f := e.leaves) (fun _ => rfl)]; exact hgo l
    have honly' := honly.trans (OnlyBlock.updBlock t e e.leaves)
    have hx := honly.isExact e.cur.slot e.b
    cases hex : s.isExact e.cur.slot e.b with
    | true =>
      obtain ⟨b, htb, ha⟩ := OnlyGroup.block ⟨honly, hblock, hheld⟩ hb
      rw [leaveBars_of_exact (hx.trans hex) htb ha]
      refine ⟨honly'.launches _, fun _ => ⟨?_, ?_⟩, fun h => absurd (hex.symm.trans h) (by decide), ?_, hthreads⟩
      · rw [State.withdrawHigh_of_block hb]
        exact congrArg (fun ls : List Launch => ls.modify _ _) hlaunch
      · rw [Holds, List.append_nil, ← hheld']
        exact congrArg Chunk.held (State.chunk_updBlock _ _ _ _ _)
      · simp only [if_neg hs]; exact hbars
    | false =>
      rw [leaveBars_of_not_exact (hx.trans hex)]
      refine ⟨?_, fun h => absurd (hex.symm.trans h) (by decide), fun _ => ⟨hlaunch, ?_⟩, ?_, ?_⟩
      · exact hlaunch ▸ honly'.trans (OnlyBlock.hold _ _ _)
      · rw [Holds, State.core_updChunk, if_neg hs, State.chunk_updBlock, hheld']
      · simp only [BlockGoes, State.block?_updChunk, if_neg hs]; exact hbars
      · exact fun l => (State.thread?_updChunk _ _ _ _ _ _).trans (hthreads l)

/-- An EXIT that reaches its effect. -/
theorem exec_exit_of_runs {g : Guard} {s : State} {e : Site} (h : Runs (.exit g) s e) :
    Completes (.exit g) s ((if (exitLeft s e).allExited e.cur.core e.cur.slot && !(exitLeft s e).isExact e.cur.slot e.b
      then { (exitLeft s e).closeAfter e.cur.core with cur := (exitLeft s e).cur } else exitLeft s e).memberAfter e.b.launch) := by
  have hx : exec (.exit g) s = .next (issue (.exit g) (fun e s =>
      let s := transfer (.exit g) e s (fun th => { th with exited := true, resv := none, acted := false })
      let s := if e.cur.slot = handlerSlot then s else s.leaveBars e
      let s := if s.allExited e.cur.core e.cur.slot && !s.isExact e.cur.slot e.b
        then { s.closeAfter e.cur.core with cur := s.cur } else s
      s.memberAfter e.b.launch) s) := rfl
  have ht : transfer (.exit g) e s = (s.acts e).finish e := by rw [← exit_noted s g e]; rfl
  rw [Completes, hx, issue_of_runs _ h]
  simp only [ht]
  rfl

/-- Settles O20: the exits and what leaves the block, then the withdrawal above the block as the commit makes it. -/
theorem exitEndsThreads : Obligations.ExitEndsThreads := by
  refine ⟨fun g s e h => ?_, fun _ _ _ _ _ => rfl, fun c sl tids s b l hb => ?_,
    fun us o => ⟨dropArrivals_who us o, dropArrivals_of_mem, dropArrivals_of_not_mem⟩⟩
  · obtain ⟨honly, hexact, hheld, hblock, hgoes⟩ := exitLeft_from s e (State.site?_names h.1)
    refine ⟨exitLeft s e, hgoes, honly, hexact, hheld, hblock, exec_exit_of_runs h, fun ha hn => ?_⟩
    have hx := exec_exit_of_runs h
    rwa [ha, Bool.false_and, if_neg Bool.false_ne_true, State.memberAfter_of_none hn] at hx
  · rw [State.withdrawHigh_of_block hb, State.launch?_updLaunch]
    rfl

end Sys2Proof.Machine
end

section
/-! Proof of O38: EMIT holds the records of its group (R42, R270, R380). -/

namespace Sys2Proof.Machine

/-! ### The traces of accesses -/

theorem Quiet.withMem {s t : State} (h : Quiet s t) (m : Memory) : Quiet { s with mem := m } { t with mem := m } := by
  obtain ⟨-, harch, hovl, hheld, hctxs, hlaunches, hflights, hports, hgroups, hmsix, hcur⟩ := h
  exact ⟨rfl, harch, hovl, hheld, hctxs, hlaunches, hflights, hports, hgroups, hmsix, hcur⟩

/-- A quiet change, but for bytes of memory outside `p`. -/
structure Traces (p : Nat → Prop) (s t : State) : Prop where
  mem : ∀ a, p a → Memory.byte t.mem a = Memory.byte s.mem a
  quiet : Quiet { s with mem := t.mem } t

theorem Quiet.updTlb (s : State) (c : Nat) (f : CoreSt → List TlbEntry) :
    Quiet s (s.updCore c (fun k => { k with tlb := f k })) := Quiet.setCore _ _ _ rfl rfl rfl

theorem Quiet.walked (s : State) (t : Tab (List TlbEntry)) (w : Tab (List WalkPtr)) :
    Quiet s { s with ctlb := t, wcache := w } :=
  ⟨rfl, fun _ => rfl, fun _ => rfl, fun _ => rfl, rfl, rfl, rfl, rfl, rfl, rfl, rfl⟩

section
variable {p : Nat → Prop} {s t u : State}

theorem Quiet.traces (h : Quiet s t) : Traces p s t := ⟨fun _ _ => by rw [h.mem], by rw [h.mem]; exact h⟩

theorem Traces.trans (h : Traces p s t) (g : Traces p t u) : Traces p s u :=
  ⟨fun a ha => (g.mem a ha).trans (h.mem a ha), (h.quiet.withMem u.mem).trans g.quiet⟩

theorem Traces.block? (h : Traces p s t) (c sl : Nat) : t.block? c sl = s.block? c sl := h.quiet.block? c sl

theorem Traces.launchOf (h : Traces p s t) (b : Block) : t.launchOf b = s.launchOf b := h.quiet.launchOf b

/-- A fold of steps that leave traces only, while the site's launch is not checked for races. -/
theorem Traces.foldl_at {α : Type} (e : Site) (f : State → α → State) (l : List α)
    (hf : ∀ s, ∀ a ∈ l, e.names s → (s.launchOf e.b).race = false → Traces p s (f s a)) (s : State) (hb : e.names s)
    (hr : (s.launchOf e.b).race = false) : Traces p s (l.foldl f s) := by
  induction l generalizing s with
  | nil => exact (Quiet.refl s).traces
  | cons a l ih =>
    have q := hf s a (List.mem_cons_self ..) hb hr
    exact q.trans (ih (fun s a ha => hf s a (List.mem_cons_of_mem _ ha)) _ ((q.block? _ _).trans hb)
      (by rw [q.launchOf]; exact hr))

/-- What leaves traces only changes no block. -/
theorem Traces.only (h : Traces p s t) (e : Site) : OnlyView s t e p := by
  obtain ⟨hm, hq⟩ := h
  exact ⟨hm, fun c sl _ => congrArg (Option.map Block.unresv) (hq.block? c sl), fun c => by rw [hq.arch]; rfl,
    fun c _ => ⟨hq.ovl c, hq.held c⟩, hq.launches, hq.ctxs, hq.flights, hq.ports, hq.groups, hq.msix⟩

theorem State.markLeaf_cases (s : State) (x : Xlat) (need : Need) :
    s.markLeaf x need = s ∨ ∃ v, s.markLeaf x need = s.writeMem x.ptr (natLe 8 v) := by
  rw [State.markLeaf]
  exact (ite_eq_or_eq ..).symm.imp id fun h => ⟨_, h⟩

/-- A walk marks no byte outside its entry (R380). -/
theorem Traces.markLeaf (s : State) {x : Xlat} (need : Need) (hp : ∀ a, p a → a < x.ptr ∨ x.ptr + 8 ≤ a) :
    Traces p s (s.markLeaf x need) := by
  rcases State.markLeaf_cases s x need with h | ⟨v, h⟩ <;> rw [h]
  · exact (Quiet.refl s).traces
  · exact ⟨fun a ha => Memory.byte_write_out _ _ _ _ (by simpa using hp a ha), Quiet.refl _⟩

/-- A fresh walk marks its entry and enters the TLBs and the walker cache (R380, R381). -/
theorem State.noteXlat_fresh (s : State) (c x : Nat) {l : Xlat} (need : Need) (h : (l.cached || l.stale s) = false) :
    ∃ (f : CoreSt → List TlbEntry) (t : Tab (List TlbEntry)) (w : Tab (List WalkPtr)), s.noteXlat c x l need
      = { (s.markLeaf l need).updCore c (fun k => { k with tlb := f k }) with ctlb := t, wcache := w } := by
  rw [State.noteXlat, if_neg (ne_true_of_eq_false h)]
  exact ⟨_, _, _, rfl⟩

theorem Traces.noteXlat (s : State) (c x : Nat) {l : Xlat} (need : Need) (hp : ∀ a, p a → a < l.ptr ∨ l.ptr + 8 ≤ a) :
    Traces p s (s.noteXlat c x l need) := by
  cases h : (l.cached || l.stale s) with
  | true => rw [State.noteXlat, if_pos h]; exact (Quiet.refl s).traces
  | false =>
    obtain ⟨f, t, w, hx⟩ := State.noteXlat_fresh s c x need h
    rw [hx]
    exact ((Traces.markLeaf s need hp).trans (Quiet.updTlb _ c f).traces).trans (Quiet.walked _ t w).traces

end

theorem Quiet.l1Meet (s : State) (c l : Nat) (keep : Bool) : Quiet s (s.l1Meet c l keep) := by
  unfold State.l1Meet
  split
  · exact Quiet.refl s
  · exact (Quiet.count _ _ _ _).trans (Quiet.setCore _ _ _ rfl rfl rfl)

/-- The traces of a read in main memory: those of its walk, for some context, and then those of its line. -/
theorem noteRead_main (s : State) (c sl : Nat) (x : Xlat) (n cp : Nat) (need : Need) :
    ∃ ctx, s.noteRead c sl (.main x) n cp need = if x.kind = 0
      then ((s.noteXlat c ctx x need).trackRead c sl x.pa n).l1Meet c (x.pa / 256) (cp != 1)
      else if ((s.noteXlat c ctx x need).core c).l1.any (fun e => e.line == x.pa / 256) then s.noteXlat c ctx x need
      else if cp = 1 then (s.noteXlat c ctx x need).count c 6 1
      else ((s.noteXlat c ctx x need).count c 6 1).updCore c (fun k =>
        { k with l1 := ⟨x.pa / 256, x.kind == 2, Memory.line (s.noteXlat c ctx x need).mem (x.pa / 256)⟩ :: k.l1 }) :=
  ⟨_, rfl⟩

/-- A read leaves traces only, in memory those of its walk. -/
theorem Traces.noteRead {p : Nat → Prop} (s : State) (c sl : Nat) (t : Target) (n cp : Nat) (need : Need)
    (hp : ∀ x, t = .main x → ∀ a, p a → a < x.ptr ∨ x.ptr + 8 ≤ a) : Traces p s (s.noteRead c sl t n cp need) := by
  cases t with
  | desc o => exact (Quiet.refl s).traces
  | slice tc o => exact (Quiet.trackRead _ _ _ _ _).traces
  | main x =>
    obtain ⟨ctx, h⟩ := noteRead_main s c sl x n cp need
    rw [h]
    refine (Traces.noteXlat s c ctx need (hp x rfl)).trans (Quiet.traces ?_)
    split
    · exact (Quiet.trackRead _ _ _ _ _).trans (Quiet.l1Meet _ _ _ _)
    · split
      · exact Quiet.refl _
      · split
        · exact Quiet.count _ _ _ _
        · exact (Quiet.count _ _ _ _).trans (Quiet.setCore _ _ _ rfl rfl rfl)

theorem State.stampAcc_off {s : State} {e : Site} (hb : e.names s) (hr : (s.launchOf e.b).race = false) (r : Acc) (n : Nat)
    (w y : Bool) : s.stampAcc e r n w y = s := by
  unfold State.stampAcc
  split
  · rfl
  · exact State.stamp_off _ _ _ _ _ _ _ _ _ _ hb hr

/-- The loads of a group leave traces only. -/
theorem Traces.noteLoads (s : State) (e : Site) (rs : List Acc) (n cp : Nat) (y : Bool) (hb : e.names s)
    (hr : (s.launchOf e.b).race = false) (hone : ∀ r ∈ rs, r.2.2 ≠ []) :
    Traces (LeafFree rs) s (s.noteLoads e rs n cp y) := by
  refine Traces.foldl_at e _ rs (fun s r hmem hb hr => ?_) s hb hr
  have q : Traces (LeafFree rs) s (s.noteRead e.cur.core e.cur.slot (accTarget r) n cp .read) := by
    refine Traces.noteRead _ _ _ _ _ _ _ fun x hx a ha => ha r hmem x ?_
    rw [← hx, accTarget]
    cases hts : r.2.2 with
    | nil => exact absurd hts (hone r hmem)
    | cons t ts => simp
  rw [State.stampAcc_off ((q.block? _ _).trans hb) (by rw [q.launchOf]; exact hr)]
  exact q

/-! ### The checks of a group that pass -/

/-- The accesses that pass are those of the active members, each with the targets of its requests (R124). -/
theorem checkGroup_ok {s : State} {e : Site} {req : Thread → List Req} {rs : List Acc} (h : checkGroup s e req = .ok rs) :
    rs = e.act.filterMap (fun th => match checkThread s e.cur.core e.cur.slot (req th) with
      | .ok ts => some (th, req th, ts)
      | .error _ => none) := by
  unfold checkGroup at h
  dsimp only at h
  split at h
  · cases h
  · cases h
  · split at h
    · cases h
    · split at h
      · cases h
        rw [List.filterMap_map]
        rfl
      · cases h

section
variable {s : State} {e : Site} {q : Thread → Req} {rs : List Acc}

/-- Of a group with one request each, every access has one target. -/
theorem checkGroup_one (h : checkGroup s e (fun th => [q th]) = .ok rs) {r : Acc} :
    r ∈ rs ↔ ∃ th ∈ e.act, ∃ t, checkReq s e.cur.core e.cur.slot (q th) = .ok t ∧ r = (th, [q th], [t]) := by
  rw [checkGroup_ok h, List.mem_filterMap]
  refine exists_congr fun th => and_congr_right fun _ => ?_
  cases hq : checkReq s e.cur.core e.cur.slot (q th) with
  | error er => simp [checkThread, hq]
  | ok t => simp [checkThread, hq, eq_comm]

/-- The walks of a group whose checks pass mark its entries only. -/
theorem Traces.noteWalks (h : checkGroup s e (fun th => [q th]) = .ok rs) (go : Bool) (hb : e.names s)
    (hr : (s.launchOf e.b).race = false) : Traces (LeafFree rs) s (s.noteWalks e (fun th => [q th]) go) := by
  refine Traces.foldl_at e _ _ (fun s' t ht _ _ => ?_) s hb hr
  obtain ⟨th, hth, hmem⟩ := List.mem_flatMap.1 ht
  obtain ⟨r, hreq, hx⟩ := List.mem_filterMap.1 hmem
  cases List.mem_singleton.1 hreq
  split at hx
  next x hok =>
    cases hx
    exact Traces.noteXlat _ _ _ _ fun a ha =>
      ha _ ((checkGroup_one h).2 ⟨th, hth, _, hok, rfl⟩) x (List.mem_singleton.2 rfl)
  next => cases hx

end

/-! ### What the block's phase or its core's chunk holds -/

/-- A block apart from what its phase holds. -/
def Block.unheld (b : Block) : Block := { b with pheld := [] }

/-- From `s` to `t` the site's block, or its core's chunk, has come to hold some effects, and nothing else has changed. -/
structure Holding (s t : State) (e : Site) (hs : List Held) : Prop where
  only : OnlyBlock s t e
  block : (t.block? e.cur.core e.cur.slot).map Block.unheld = (s.block? e.cur.core e.cur.slot).map Block.unheld
  held : heldOf t e.cur.core e.cur.slot = heldOf s e.cur.core e.cur.slot ++ hs

namespace Holding
variable {s t u : State} {e : Site} {hs gs : List Held}

theorem refl (s : State) (e : Site) : Holding s s e [] := ⟨OnlyBlock.refl s e, rfl, (List.append_nil _).symm⟩

theorem trans (h : Holding s t e hs) (g : Holding t u e gs) : Holding s u e (hs ++ gs) :=
  ⟨h.only.trans g.only, g.block.trans h.block, by rw [g.held, h.held, List.append_assoc]⟩

theorem thread? (h : Holding s t e hs) (l : Nat) :
    t.thread? e.cur.core e.cur.slot l = s.thread? e.cur.core e.cur.slot l := by
  have hb := congrArg (fun o : Option Block => o.bind (fun b => b.thread? l)) h.block
  rw [Option.bind_map, Option.bind_map] at hb
  exact hb

theorem exists_block {b : Block} (h : Holding s t e hs) (hb : s.block? e.cur.core e.cur.slot = some b) :
    ∃ b', t.block? e.cur.core e.cur.slot = some b' ∧ b'.unheld = b.unheld := by
  have hbl := h.block
  rw [hb] at hbl
  cases ht : t.block? e.cur.core e.cur.slot with
  | none => simp [ht] at hbl
  | some b' => exact ⟨b', rfl, by simpa [ht] using hbl⟩

/-- A store to a RELEASE or STREAM page, or an EMIT, is held (R139). -/
theorem relWrite {b : Block} (hb : s.block? e.cur.core e.cur.slot = some b) (h : Held) :
    Holding s (s.relWrite e.cur.core e.cur.slot h) e [h] := by
  rw [State.relWrite, hb]
  dsimp only
  cases hex : s.isExact e.cur.slot b with
  | true =>
    have hbt : (s.updBlock e.cur.core e.cur.slot (fun b => { b with pheld := b.pheld ++ [h] })).block? e.cur.core e.cur.slot
        = some { b with pheld := b.pheld ++ [h] } := by rw [State.block?_updBlock, hb]; rfl
    refine ⟨OnlyBlock.updBlock _ _ _, by rw [if_pos rfl, hbt, hb]; rfl, ?_⟩
    rw [if_pos rfl, heldOf, heldOf, hbt, hb]
    show (if s.isExact e.cur.slot b then b.pheld ++ [h] else _) = (if s.isExact e.cur.slot b then b.pheld else _) ++ [h]
    rw [if_pos hex, if_pos hex]
  | false =>
    rw [if_neg Bool.false_ne_true]
    refine ⟨OnlyBlock.hold _ _ _, by rw [State.block?_updChunk], ?_⟩
    rw [heldOf, heldOf, State.block?_updChunk, hb]
    show (if s.isExact e.cur.slot b then _ else _) = (if s.isExact e.cur.slot b then _ else _) ++ [h]
    rw [hex, if_neg Bool.false_ne_true, if_neg Bool.false_ne_true, State.core_updChunk]

/-- Some effects are held one after the other. -/
theorem relWrites {α : Type} (f : α → Held) (l : List α) {b : Block} (hb : s.block? e.cur.core e.cur.slot = some b) :
    Holding s (l.foldl (fun s a => s.relWrite e.cur.core e.cur.slot (f a)) s) e (l.map f) := by
  induction l generalizing s b with
  | nil => exact refl s e
  | cons a l ih =>
    have h := relWrite (e := e) hb (f a)
    obtain ⟨b', hb', -⟩ := h.exists_block hb
    exact h.trans (ih hb')

end Holding

theorem OnlyView.trans {s t u : State} {e : Site} {p : Nat → Prop} (h : OnlyView s t e p) (g : OnlyView t u e p) :
    OnlyView s u e p := by
  obtain ⟨h1, h2, h3, h4, h5, h6, h7, h8, h9, h10⟩ := h
  obtain ⟨g1, g2, g3, g4, g5, g6, g7, g8, g9, g10⟩ := g
  exact ⟨fun a ha => (g1 a ha).trans (h1 a ha), fun c sl hc => (g2 c sl hc).trans (h2 c sl hc), fun c => (g3 c).trans (h3 c),
    fun c hc => ⟨(g4 c hc).1.trans (h4 c hc).1, (g4 c hc).2.trans (h4 c hc).2⟩, g5.trans h5, g6.trans h6, g7.trans h7,
    g8.trans h8, g9.trans h9, g10.trans h10⟩

theorem OnlyBlock.view {s t : State} {e : Site} (h : OnlyBlock s t e) (p : Nat → Prop) : OnlyView s t e p := by
  obtain ⟨hmem, hblock, harch, hovl, hheld, hrest⟩ := h
  exact ⟨fun a _ => hmem a, fun c sl hc => congrArg (Option.map Block.unresv) (hblock c sl hc), harch,
    fun c hc => ⟨hovl c, hheld c hc⟩, hrest⟩

theorem heldOf_of_block {s : State} {c sl : Nat} {b : Block} (h : s.block? c sl = some b) :
    heldOf s c sl = if s.isExact sl b then b.pheld else (s.core c).chunk.held := by rw [heldOf, h]

/-- A change of a group's threads leaves what is held. -/
theorem heldOf_of_onlyGroup {s t : State} {e : Site} (h : OnlyGroup s t e) :
    heldOf t e.cur.core e.cur.slot = heldOf s e.cur.core e.cur.slot := by
  cases hs : s.block? e.cur.core e.cur.slot with
  | none =>
    have ht : t.block? e.cur.core e.cur.slot = none := by simpa [BlockGoes, hs] using h.2.1
    rw [heldOf, heldOf, hs, ht]
  | some b =>
    obtain ⟨b', ht, ha⟩ := h.block hs
    obtain ⟨honly, -, hheld⟩ := h
    have hp : b'.pheld = b.pheld := (congrArg Block.pheld ha :)
    have hl : b'.launch = b.launch := (congrArg Block.launch ha :)
    have hx : t.isExact e.cur.slot b' = s.isExact e.cur.slot b := by
      rw [honly.isExact, State.isExact, State.isExact, State.launchOf, State.launchOf, hl]
    rw [heldOf_of_block ht, heldOf_of_block hs, hx, hp, show _ = _ from hheld, List.append_nil]

theorem Traces.heldOf {p : Nat → Prop} {s t : State} (h : Traces p s t) (c sl : Nat) :
    Machine.heldOf t c sl = Machine.heldOf s c sl := by
  rw [Machine.heldOf, h.block?, Machine.heldOf]
  cases s.block? c sl with
  | none => rfl
  | some b =>
    show (if t.isExact sl b then b.pheld else (t.core c).chunk.held) = if s.isExact sl b then b.pheld else (s.core c).chunk.held
    rw [State.isExact, h.launchOf, h.quiet.held]
    rfl

/-- A block that is another's but for what it holds and its threads. -/
theorem Block.apart_of_unheld {b b' b'' : Block} (h : b''.apart = b'.apart) (hu : b'.unheld = b.unheld) :
    b''.apart = ({ b with pheld := b''.pheld } : Block).apart :=
  calc b''.apart = { b''.apart with pheld := b''.pheld } := rfl
    _ = { b'.apart with pheld := b''.pheld } := congrArg (fun x : Block => { x with pheld := b''.pheld }) h
    _ = ({ b'.unheld with pheld := b''.pheld } : Block).apart := rfl
    _ = ({ b.unheld with pheld := b''.pheld } : Block).apart :=
      congrArg (fun x : Block => ({ x with pheld := b''.pheld } : Block).apart) hu

/-! ### EMIT -/

section
variable {f : One} {s : State} {e : Site}

/-- What the records of a group hold, in the state in which its accesses are made. -/
def emitHeld (tmpl : Nat) (s : State) (e : Site) (rs : List Acc) : List Held :=
  rs.map (fun r => .emit tmpl r.1.ltid (readTarget s e.cur.core e.cur.slot r.1.ltid (accTarget r) 64))

/-- The state in which the records of a group are held. -/
def emitHolds (f : One) (tmpl : Nat) (s : State) (e : Site) (rs : List Acc) : State :=
  (rs.map (fun r => (r.1.ltid, readTarget s e.cur.core e.cur.slot r.1.ltid (accTarget r) 64))).foldl
    (fun s p => s.relWrite e.cur.core e.cur.slot (.emit tmpl p.1 p.2))
    (((s.acts e).noteSources e [f.o]).noteLoads e rs 64 0 false)

/-- An EMIT to a template with room completes. -/
theorem exec_emit_of_passes (h : Runs (.emit f) s e) {tmpl : Nat} {rs : List Acc} (ht : (s.launchOf e.b).succ = some tmpl)
    (hp : Passes s e (fun th => [⟨e.read s th f.o, 64, 64, .read, .plain⟩]) rs)
    (hfit : emitFits (s.noteWalks e (fun th => [⟨e.read s th f.o, 64, 64, .read, .plain⟩]) true) tmpl rs.length = true) :
    Completes (.emit f) s
      ((emitHolds f tmpl (s.noteWalks e (fun th => [⟨e.read s th f.o, 64, 64, .read, .plain⟩]) true) e rs).pass e) := by
  obtain ⟨hok, hfresh⟩ := hp
  have hx : exec (.emit f) s = execEmit f s := rfl
  rw [Completes, hx, execEmit, issue_of_runs _ h]
  simp only [ht, State.access, hok, hfresh, hfit, Bool.false_eq_true, Bool.not_true, ↓reduceIte]
  rfl

/-- An EMIT without a template faults with PERM when every address is aligned (log 57). -/
theorem exec_emit_of_none (h : Runs (.emit f) s e) (ht : (s.launchOf e.b).succ = none)
    (ha : ∀ th ∈ e.act, (e.read s th f.o).toNat % 64 = 0) :
    Completes (.emit f) s (s.takeFault e.cur 9 0 (laneMask e.act) (e.read s e.ref f.o)) := by
  have hx : exec (.emit f) s = execEmit f s := rfl
  have hnil : e.act.filter (fun th => (e.read s th f.o).toNat % 64 ≠ 0) = [] :=
    List.filter_eq_nil_iff.2 fun th hth => by simp [ha th hth]
  rw [Completes, hx, execEmit, issue_of_runs _ h]
  simp only [ht, hnil]
  rfl

end

/-- Settles O38: the accesses leave traces, the records are held, and the group goes on. -/
theorem emitHoldsRecords : Obligations.EmitHoldsRecords := by
  intro f s e h
  refine ⟨fun tmpl rs ht hr => ?_, exec_emit_of_none h⟩
  intro req sw hp hfit
  have hb : e.names s := State.site?_names h.1
  have hone := fun r => checkGroup_one (r := r) hp.1
  have hsw : Traces (LeafFree rs) s sw := Traces.noteWalks hp.1 true hb hr
  have hsrc : Quiet sw ((sw.acts e).noteSources e [f.o]) := by
    have q := Quiet.acts sw e
    exact q.trans (Quiet.noteSrcs _ _ _ _ ((q.block? _ _).trans ((hsw.block? _ _).trans hb))
      (by rw [q.launchOf, hsw.launchOf]; exact hr))
  have hs2 := hsw.trans hsrc.traces
  have hld := hs2.trans (Traces.noteLoads _ e rs 64 0 false ((hs2.block? _ _).trans hb) (by rw [hs2.launchOf]; exact hr)
    fun r hmem => by
      obtain ⟨_, -, _, -, rfl⟩ := (hone r).1 hmem
      exact List.cons_ne_nil _ _)
  have hheld : Holding (((sw.acts e).noteSources e [f.o]).noteLoads e rs 64 0 false) (emitHolds f tmpl sw e rs) e (emitHeld tmpl sw e rs) := by
    have hw := Holding.relWrites (fun p : Nat × List Byte => Held.emit tmpl p.1 p.2)
      (rs.map (fun r => (r.1.ltid, readTarget sw e.cur.core e.cur.slot r.1.ltid (accTarget r) 64)))
      ((hld.block? _ _).trans hb)
    rwa [List.map_map] at hw
  have hpass := State.finish_only (emitHolds f tmpl sw e rs) e Thread.next
  obtain ⟨b', hb', hun⟩ := hheld.exists_block ((hld.block? _ _).trans hb)
  obtain ⟨hponly, hpblock, hpheld⟩ := hpass
  obtain ⟨c', hc', hca⟩ := OnlyGroup.block ⟨hponly, hpblock, hpheld⟩ hb'
  refine ⟨(emitHolds f tmpl sw e rs).pass e, c', exec_emit_of_passes h ht hp hfit, fun l => ?_, ?_, ?_, hc', ?_⟩
  · rw [State.pass, State.finish_goes (emitHolds f tmpl sw e rs) e Thread.next (fun _ => rfl) l, hheld.thread?,
      hld.quiet.thread?]
    rfl
  · rw [State.pass, heldOf_of_onlyGroup ⟨hponly, hpblock, hpheld⟩, hheld.held, hld.heldOf, emitHeld]
  · exact ((hld.only e).trans (hheld.only.view _)).trans (hponly.view _)
  · rw [BlockGoes, show s.block? e.cur.core e.cur.slot = some e.b from hb, State.pass, hc']
    exact congrArg some (Block.apart_of_unheld hca hun)

end Sys2Proof.Machine
end

section
/-! Proof of O37, first part: WORKNEXT writes its mailboxes in the block's view (R39-R41, R269). -/

namespace Sys2Proof.Machine

/-! ### Overlays -/

theorem Tab.find?_overWrite_out (o : Overlay) (k : Nat) (bs : List Byte) {a : Nat} (h : a < k ∨ k + bs.length ≤ a) :
    Tab.find? (overWrite o k bs) a = Tab.find? o a := by
  induction bs generalizing o k with
  | nil => rfl
  | cons b bs ih =>
    simp only [List.length_cons] at h
    rw [overWrite, ih _ _ (by omega), Tab.find?_put_ne _ _ (by omega)]

theorem Tab.find?_overWrite_in (o : Overlay) (k : Nat) (bs : List Byte) {i : Nat} (h : i < bs.length) :
    Tab.find? (overWrite o k bs) (k + i) = some bs[i] := by
  induction bs generalizing o k i with
  | nil => simp at h
  | cons b bs ih =>
    cases i with
    | zero => rw [overWrite, Tab.find?_overWrite_out _ _ _ (by omega)]; simp
    | succ i =>
      rw [overWrite, show k + (i + 1) = (k + 1) + i by omega, ih _ _ (by simpa using h)]
      simp

/-- Some writes, one after the other. -/
def overWrites (o : Overlay) (ws : List (Nat × List Byte)) : Overlay := ws.foldl (fun o w => overWrite o w.1 w.2) o

/-- Two writes meet no byte together. -/
def Apart (v w : Nat × List Byte) : Prop := v.1 + v.2.length ≤ w.1 ∨ w.1 + w.2.length ≤ v.1

theorem Tab.find?_overWrites_out (o : Overlay) (ws : List (Nat × List Byte)) {a : Nat}
    (h : ∀ w ∈ ws, a < w.1 ∨ w.1 + w.2.length ≤ a) : Tab.find? (overWrites o ws) a = Tab.find? o a := by
  induction ws generalizing o with
  | nil => rfl
  | cons w ws ih =>
    rw [overWrites, List.foldl_cons]
    exact (ih _ fun x hx => h x (List.mem_cons_of_mem _ hx)).trans
      (Tab.find?_overWrite_out _ _ _ (h w (List.mem_cons_self ..)))

/-- Of writes that do not meet each one stands. -/
theorem Tab.find?_overWrites_in (o : Overlay) {ws : List (Nat × List Byte)} (hp : ws.Pairwise Apart) {w : Nat × List Byte}
    (hw : w ∈ ws) {i : Nat} (hi : i < w.2.length) : Tab.find? (overWrites o ws) (w.1 + i) = some w.2[i] := by
  induction ws generalizing o with
  | nil => cases hw
  | cons v ws ih =>
    obtain ⟨hv, hws⟩ := List.pairwise_cons.1 hp
    rcases List.mem_cons.1 hw with rfl | hmem
    · refine (Tab.find?_overWrites_out _ ws fun x hx => ?_).trans (Tab.find?_overWrite_in _ _ _ hi)
      have := hv x hx
      simp only [Apart] at this
      omega
    · exact ih _ hws hmem

/-! ### A change of every block of a core -/

theorem State.block?_mapBlocks (s : State) (c sl : Nat) (f : Nat → Block → Block) :
    (s.updArch c (fun a => { a with blocks := Tab.mapV a.blocks f })).block? c sl = (s.block? c sl).map (f sl) := by
  rw [State.block?, State.core_updArch]
  exact Tab.find?_mapV _ _ _

/-! ### Writes in the block's view -/

/-- The bytes that the `j`-th allocation of a block writes into its mailbox (R39, R40). -/
def mailboxWrite (e : Site) (l : Launch) (j : Nat) : Nat × List Byte :=
  (mailboxKey e.cur.core e.b (j % 16), if l.det = 0 then natLe 64 0 else mailboxBytes l.tree l.dev (orderedWork l e.b.lin j))

/-- The mailboxes that the `j`-th allocation asks the distributor to fill: its own, under FREE (R40). -/
def asked (l : Launch) (j : Nat) : List Nat := if l.det = 0 then [j % 16] else []

/-- A block has taken some writes into its phase store, if it is under EXACT, and waits for some more mailboxes. -/
structure BlockWrites (b b' : Block) (ex : Bool) (ws : List (Nat × List Byte)) (ms : List Nat) : Prop where
  launch : b'.launch = b.launch
  count : b'.wnCount = b.wnCount
  wait : b'.wnWait = b.wnWait ++ ms
  pover : b'.pover = if ex then overWrites b.pover ws else b.pover
  threads : b'.threads.map Thread.unresv = b.threads.map Thread.unresv

/-- From `s` to `t` the view of the block in a slot takes some writes, and it asks for some mailboxes. -/
structure ViewWrites (s t : State) (c sl : Nat) (b b' : Block) (ws : List (Nat × List Byte)) (ms : List Nat) : Prop where
  before : s.block? c sl = some b
  after : t.block? c sl = some b'
  block : BlockWrites b b' (s.isExact sl b) ws ms
  launches : t.launches = s.launches
  ovl : (t.core c).chunk.ovl = if s.isExact sl b then (s.core c).chunk.ovl else overWrites (s.core c).chunk.ovl ws
  held : (t.core c).chunk.held = (s.core c).chunk.held ++ ms.map (fun m => Held.withdraw sl m)

namespace ViewWrites
variable {s t u : State} {c sl : Nat} {b b' b'' : Block} {ws vs : List (Nat × List Byte)} {ms ns : List Nat}

theorem isExact_eq (hl : t.launches = s.launches) (hb : b'.launch = b.launch) : t.isExact sl b' = s.isExact sl b := by
  rw [State.isExact, State.isExact, State.launchOf, State.launchOf, State.launch?, State.launch?, hl, hb]

theorem isExact (h : ViewWrites s t c sl b b' ws ms) : t.isExact sl b' = s.isExact sl b :=
  isExact_eq h.launches h.block.launch

theorem trans (h : ViewWrites s t c sl b b' ws ms) (g : ViewWrites t u c sl b' b'' vs ns) :
    ViewWrites s u c sl b b'' (ws ++ vs) (ms ++ ns) := by
  obtain ⟨-, hb, ⟨hl1, hl2, hl3, hl4, hl5⟩, -, ho, hh⟩ := id h
  obtain ⟨-, gb, ⟨gl1, gl2, gl3, gl4, gl5⟩, gl, go, gh⟩ := g
  rw [h.isExact] at gl4 go
  refine ⟨h.before, gb, ⟨gl1.trans hl1, gl2.trans hl2, ?_, ?_, gl5.trans hl5⟩, gl.trans h.launches, ?_, ?_⟩
  · rw [gl3, hl3, List.append_assoc]
  · rw [gl4, hl4, overWrites, overWrites, overWrites, List.foldl_append]
    split <;> rfl
  · rw [go, ho, overWrites, overWrites, overWrites, List.foldl_append]
    split <;> rfl
  · rw [gh, hh, List.map_append, List.append_assoc]

theorem of_quiet (h : Quiet s t) (hb : s.block? c sl = some b) : ViewWrites s t c sl b b [] [] :=
  ⟨hb, (h.block? _ _).trans hb, ⟨rfl, rfl, (List.append_nil _).symm, (ite_self _).symm, rfl⟩, h.launches,
    by rw [h.ovl]; exact (ite_self _).symm, by rw [h.held, List.map_nil, List.append_nil]⟩

/-- A store to COMMITTED memory (R132, R141-R143). -/
theorem comWrite (hb : s.block? c sl = some b) (hs : sl ≠ handlerSlot) (k : Nat) (bs : List Byte) :
    ∃ b', ViewWrites s (s.comWrite c sl k bs) c sl b b' [(k, bs)] [] := by
  have hw : s.winBlock? c sl = some b := by rw [State.winBlock?, if_neg hs, hb]
  obtain ⟨t, ht⟩ : ∃ t, t = (linesOf k bs.length).foldl (fun s l => s.touchOn c b.launch b.lin l) s := ⟨_, rfl⟩
  have q : Quiet s t := by rw [ht]; exact Quiet.foldl _ (fun s l => Quiet.touchOn s c b.launch b.lin l) _ s
  have h := of_quiet q hb
  rw [State.comWrite, hb, hw]
  dsimp only
  rw [← ht]
  cases hx : t.isExact sl b with
  | true =>
    refine ⟨_, h.trans (b'' := { b with
      pover := overWrite b.pover k bs
      plines := addNew b.plines (linesOf k bs.length) }) ⟨h.after, ?_, ⟨rfl, rfl, (List.append_nil _).symm, ?_, rfl⟩, ?_, ?_, ?_⟩⟩
    · rw [if_pos rfl, State.block?_updBlock, h.after]; rfl
    · rw [hx]; rfl
    · rfl
    · rw [if_pos rfl, if_pos hx, State.chunk_updBlock]
    · rw [if_pos rfl, State.chunk_updBlock, List.map_nil, List.append_nil]
  | false =>
    refine ⟨_, h.trans (b'' := b) ⟨h.after, ?_, ⟨rfl, rfl, (List.append_nil _).symm, ?_, rfl⟩, ?_, ?_, ?_⟩⟩
    · rw [if_neg Bool.false_ne_true, State.block?_updChunk]; exact h.after
    · rw [hx]; rfl
    · rfl
    · rw [if_neg Bool.false_ne_true, hx, if_neg Bool.false_ne_true, State.core_updChunk]; rfl
    · rw [if_neg Bool.false_ne_true, State.core_updChunk, List.map_nil, List.append_nil]

/-- The end of reservations on written bytes (R151). -/
theorem clearResv (hb : s.block? c sl = some b) (slot ltid k n : Nat) :
    ∃ b', ViewWrites s (s.clearResv c slot ltid k n) c sl b b' [] [] := by
  refine ⟨_, hb, (State.block?_mapBlocks ..).trans (congrArg _ hb), ?_, rfl, ?_, ?_⟩
  · dsimp only
    generalize (sl != slot && (_ || _)) = keep
    cases keep with
    | true => exact ⟨rfl, rfl, (List.append_nil _).symm, (ite_self _).symm, rfl⟩
    | false =>
      refine ⟨rfl, rfl, (List.append_nil _).symm, (ite_self _).symm, ?_⟩
      rw [if_neg Bool.false_ne_true, List.map_map]
      refine List.map_congr_left fun th _ => ?_
      dsimp only [Function.comp]
      split
      · split <;> rfl
      · rfl
  · rw [State.clearResv, State.core_updArch]; exact (ite_self _).symm
  · rw [State.clearResv, State.core_updArch, List.map_nil, List.append_nil]

/-- The request for a mailbox waits for its fill (R40). -/
theorem ask (hb : s.block? c sl = some b) (m : Nat) :
    ViewWrites s ((s.updChunk c (fun h => { h with held := h.held ++ [.withdraw sl m] })).updBlock c sl (fun b => { b with
      wnWait := b.wnWait ++ [m] })) c sl b { b with wnWait := b.wnWait ++ [m] } [] [m] := by
  refine ⟨hb, ?_, ⟨rfl, rfl, rfl, (ite_self _).symm, rfl⟩, rfl, ?_, ?_⟩
  · rw [State.block?_updBlock, State.block?_updChunk, hb]; rfl
  · rw [State.chunk_updBlock, State.core_updChunk]; exact (ite_self _).symm
  · rw [State.chunk_updBlock, State.core_updChunk]; rfl

/-- One allocation of a mailbox (R40). -/
theorem allocate {e : Site} (hb : s.block? e.cur.core e.cur.slot = some b) (hs : e.cur.slot ≠ handlerSlot) (l : Launch)
    (j : Nat) : ∃ b', ViewWrites s (s.allocate e l j) e.cur.core e.cur.slot b b' [mailboxWrite e l j] (asked l j) := by
  rw [State.allocate, mailboxWrite, asked]
  split
  · obtain ⟨b₁, h₁⟩ := comWrite hb hs (mailboxKey e.cur.core e.b (j % 16)) (natLe 64 0)
    obtain ⟨b₂, h₂⟩ := clearResv h₁.after e.cur.slot 4096 (mailboxKey e.cur.core e.b (j % 16)) 64
    exact ⟨_, (h₁.trans h₂).trans (ask h₂.after (j % 16))⟩
  · obtain ⟨b₁, h₁⟩ := comWrite hb hs (mailboxKey e.cur.core e.b (j % 16))
      (mailboxBytes l.tree l.dev (orderedWork l e.b.lin j))
    obtain ⟨b₂, h₂⟩ := clearResv h₁.after e.cur.slot 4096 (mailboxKey e.cur.core e.b (j % 16)) 64
    exact ⟨_, h₁.trans h₂⟩

/-- Several allocations in turn. -/
theorem allocates {e : Site} (hb : s.block? e.cur.core e.cur.slot = some b) (hs : e.cur.slot ≠ handlerSlot) (l : Launch)
    (js : List Nat) : ∃ b', ViewWrites s (js.foldl (fun s j => s.allocate e l j) s) e.cur.core e.cur.slot b b'
      (js.map (mailboxWrite e l)) (js.flatMap (asked l)) := by
  induction js generalizing s b with
  | nil => exact ⟨b, of_quiet (Quiet.refl s) hb⟩
  | cons j js ih =>
    obtain ⟨b₁, h₁⟩ := allocate hb hs l j
    obtain ⟨b₂, h₂⟩ := ih h₁.after
    exact ⟨b₂, h₁.trans h₂⟩

end ViewWrites

/-- Under FREE every allocation asks for its own mailbox. -/
theorem asked_of_free {l : Launch} (h : l.det = 0) (a n : Nat) :
    ((List.range n).map (a + ·)).flatMap (asked l) = (List.range n).map (fun j => (a + j) % 16) := by
  have hf : asked l = fun j => [j % 16] := funext fun j => if_pos h
  rw [hf, List.flatMap_map]
  exact List.flatMap_pure_eq_map _ _

/-! ### What the mailboxes read -/

theorem length_mailboxBytes (t : Tree) (dev : Nat) (w : Option Nat) : (mailboxBytes t dev w).length = 64 := by
  cases w with
  | none => simp [mailboxBytes]
  | some i => simp [mailboxBytes, List.length_flatMap]

theorem length_mailboxWrite (e : Site) (l : Launch) (j : Nat) : (mailboxWrite e l j).2.length = 64 := by
  rw [mailboxWrite]
  split
  · exact natLe_length _ _
  · exact length_mailboxBytes _ _ _

/-- Mailboxes of sixteen allocations in a row are different ones. -/
theorem mailboxWrites_apart (e : Site) (l : Launch) (a : Nat) {n : Nat} (hn : n ≤ 16) :
    (((List.range n).map (a + ·)).map (mailboxWrite e l)).Pairwise Apart := by
  rw [List.pairwise_map, List.pairwise_map]
  refine List.Pairwise.imp_of_mem (fun {i j} hi hj hij => ?_) List.pairwise_lt_range
  rw [List.mem_range] at hi hj
  have hne : (a + i) % 16 ≠ (a + j) % 16 := by omega
  rw [Apart, length_mailboxWrite, length_mailboxWrite]
  simp only [mailboxWrite, mailboxKey, sliceKey]
  omega

/-- Bytes that stand in a block's own view are what its threads read there. -/
theorem comRead_of_view {s : State} {c sl : Nat} {b : Block} (hb : s.block? c sl = some b) (hs : sl ≠ handlerSlot) {k : Nat}
    {bs : List Byte} (h : ∀ i (hi : i < bs.length), Tab.find? (if s.isExact sl b then b.pover else (s.core c).chunk.ovl) (k + i)
      = some bs[i]) : comRead s c sl k bs.length = bs := by
  rw [comRead, hb]
  dsimp only
  cases hx : s.isExact sl b with
  | true =>
    refine List.ext_getElem (by simp) fun i _ hi => ?_
    have hf := h i hi
    rw [hx, if_pos rfl] at hf
    simp [hf]
  | false =>
    refine List.ext_getElem (by simp [hs, overRead]) fun i _ hi => ?_
    have hf := h i hi
    rw [hx, if_neg Bool.false_ne_true] at hf
    simp [hs, overRead, overByte, hf]

/-- What a block's threads read depends on its own view only. -/
theorem comRead_congr {s t : State} {c sl : Nat} {b b' : Block} (hb : s.block? c sl = some b) (hb' : t.block? c sl = some b')
    (hs : sl ≠ handlerSlot) (hl : t.launches = s.launches) (hbl : b'.launch = b.launch) (hp : b'.pover = b.pover)
    (ho : (t.core c).chunk.ovl = (s.core c).chunk.ovl) (hm : t.mem = s.mem) (k n : Nat) :
    comRead t c sl k n = comRead s c sl k n := by
  have hx : t.isExact sl b' = s.isExact sl b := ViewWrites.isExact_eq hl hbl
  have hlo : t.launchOf b' = s.launchOf b := by rw [State.launchOf, State.launchOf, State.launch?, State.launch?, hl, hbl]
  rw [comRead, comRead, hb, hb']
  simp only [hx, hs, hp, ho, hm, hlo, if_false]

/-- A block that has taken writes that do not meet reads each of them. -/
theorem ViewWrites.comRead {s t : State} {c sl : Nat} {b b' : Block} {ws : List (Nat × List Byte)} {ms : List Nat}
    (h : ViewWrites s t c sl b b' ws ms) (hs : sl ≠ handlerSlot) (hp : ws.Pairwise Apart) {w : Nat × List Byte} (hw : w ∈ ws) :
    Machine.comRead t c sl w.1 w.2.length = w.2 := by
  refine comRead_of_view h.after hs fun i hi => ?_
  obtain ⟨-, -, -, hpover, -⟩ := h.block
  rw [h.isExact]
  cases hx : s.isExact sl b with
  | true => rw [if_pos rfl, hpover, hx, if_pos rfl]; exact Tab.find?_overWrites_in _ hp hw hi
  | false =>
    rw [if_neg Bool.false_ne_true, h.ovl, hx, if_neg Bool.false_ne_true]
    exact Tab.find?_overWrites_in _ hp hw hi

/-! ### Reservations apart, a thread's next state does not depend on them -/

theorem Thread.unresv_setD (th : Thread) (d : Operand) (w : Word) : (th.setD d w).unresv = th.unresv.setD d w := by
  cases d with
  | pred k =>
    simp only [Thread.setD, Thread.setPred]
    split <;> rfl
  | special k =>
    simp only [Thread.setD]
    split
    · rfl
    · split <;> rfl
  | _ => rfl

theorem Thread.unresv_putD (th : Thread) (d : Operand) (w : Word) : (putD d w th).unresv = putD d w th.unresv := by
  rw [putD, putD, ← Thread.unresv_setD, Thread.cleared, apply_ite Thread.unresv]
  rfl

/-- Threads that are the same but for reservations change alike. -/
theorem ViewWrites.thread? {s t : State} {c sl : Nat} {b b' : Block} {ws : List (Nat × List Byte)} {ms : List Nat}
    (h : ViewWrites s t c sl b b' ws ms) (l : Nat) :
    (t.thread? c sl l).map Thread.unresv = (s.thread? c sl l).map Thread.unresv := by
  have hl : ∀ x : Block, (x.thread? l).map Thread.unresv = (x.threads.map Thread.unresv).find? (fun th => th.ltid == l) :=
    fun x => by rw [List.find?_map]; rfl
  rw [State.thread?, State.thread?, h.before, h.after, Option.bind_some, Option.bind_some, hl, hl, h.block.threads]

/-- What a thread of the site's block becomes when the word finishes. -/
def Site.goes (e : Site) (f : Thread → Thread) (th : Thread) : Thread :=
  if (e.mem.map (fun m => m.ltid)).contains th.ltid then (if e.active th then f th else th.next) else th

/-- Finishing a word over a view that has taken writes. -/
theorem GroupGoesFree.of_finish {s t : State} {e : Site} (h : ∀ l, (t.thread? e.cur.core e.cur.slot l).map Thread.unresv
      = (s.thread? e.cur.core e.cur.slot l).map Thread.unresv) {f : Thread → Thread} (hf : ∀ th, (f th).ltid = th.ltid)
    (hu : ∀ th, (f th).unresv = f th.unresv) : GroupGoesFree s (t.finish e f) e f := by
  intro l
  have hg : ∀ th : Thread, (e.goes f th).unresv = e.goes f th.unresv := fun th => by
    rw [Site.goes, apply_ite Thread.unresv, apply_ite Thread.unresv, hu]
    rfl
  have hmap : ∀ o : Option Thread, (o.map (e.goes f)).map Thread.unresv = (o.map Thread.unresv).map (e.goes f) := fun o => by
    rw [Option.map_map, Option.map_map]
    exact congrArg (Option.map · o) (funext hg)
  calc ((t.finish e f).thread? e.cur.core e.cur.slot l).map Thread.unresv
      = ((t.thread? e.cur.core e.cur.slot l).map (e.goes f)).map Thread.unresv :=
        congrArg (Option.map Thread.unresv) (State.finish_goes t e f hf l)
    _ = ((s.thread? e.cur.core e.cur.slot l).map (e.goes f)).map Thread.unresv := by rw [hmap, h l, hmap]
    _ = _ := Option.map_map ..

/-! ### WORKNEXT -/

theorem slot_ne_handler_of_notInHandler {s : State} {e : Site} {w : Word} (hp : preFault s e w = none)
    (hw : notInHandler w = true) : e.cur.slot ≠ handlerSlot := by
  intro hs
  rw [preFault] at hp
  dsimp only at hp
  split at hp
  · cases hp
  · split at hp
    · cases hp
    · rw [if_pos (by rw [hw, hs]; simp)] at hp
      cases hp

section
open BitVec
variable (op : BitVec 8) (g : Guard) (lvl : BitVec 4) (m : BitVec 7) (d a b : BitVec 10) (imm : BitVec 6)

@[simp] theorem fOp_encFS : fOp (encFS op g lvl m d a b imm) = op := by
  unfold fOp encFS
  repeat rw [extractLsb'_append_eq_of_le (by decide)]
  exact extractLsb'_append_eq_right

theorem getLsbD_encFS_pairBit : (encFS op g lvl m d a b imm).getLsbD 63 = false := by
  unfold encFS
  repeat rw [getLsbD_append, if_neg (by decide)]
  rfl

end

theorem worknext_notInHandler (f : One) : notInHandler (wordOf (.worknext f)) = true := by
  have hw : wordOf (.worknext f) = encFS 0xAA f.g 0 0 f.o.enc 0 0 0 := rfl
  rw [notInHandler, hw, getLsbD_encFS_pairBit, fOp_encFS]
  rfl

section
variable {f : One} {s : State} {e : Site}

/-- The state after the allocations of a group. -/
def allocated (s : State) (e : Site) : State :=
  ((List.range e.act.length).map (e.b.wnCount + ·)).foldl (fun t j => t.allocate e (s.launchOf e.b) j) (s.acts e)

/-- A block that has been given `n` more mailboxes. -/
def Block.counts (n : Nat) (b : Block) : Block := { b with wnCount := b.wnCount + n }

/-- What an active thread becomes: it has the address of its mailbox. -/
def Site.takesMailbox (e : Site) (f : One) (th : Thread) : Thread :=
  (putD f.o (mailboxVa e.cur.core e.b ((e.b.wnCount + e.tids.idxOf th.ltid) % 16)) th).next

/-- A WORKNEXT whose mailboxes are free, and whose stores fit, completes. -/
theorem exec_worknext_of_free (h : Runs (.worknext f) s e) (hn : e.act.length ≤ 16)
    (hfree : ∀ j < e.act.length, e.b.wnWait.contains ((e.b.wnCount + j) % 16) = false)
    (hfit : storesFit s e ((List.range e.act.length).map (fun j => (mailboxKey e.cur.core e.b ((e.b.wnCount + j) % 16), 64)))
      = true) :
    Completes (.worknext f) s (((allocated s e).updBlock e.cur.core e.cur.slot (Block.counts e.act.length)).finish e (e.takesMailbox f)) := by
  have hx : exec (.worknext f) s = execWorknext f s := rfl
  have hany : (List.range e.act.length).any (fun i => e.b.wnWait.contains ((e.b.wnCount + i) % 16)) = false :=
    List.any_eq_false.2 fun j hj => by rw [hfree j (List.mem_range.1 hj)]; decide
  rw [Completes, hx, execWorknext, issue_of_runs _ h, allocated, List.foldl_map]
  simp only [Nat.not_lt.2 hn, hany, State.storing, hfit, Bool.false_eq_true, ↓reduceIte]
  rfl

end

/-- WORKNEXT hands out mailboxes. -/
theorem worknext_hands (f : One) (s : State) (e : Site) (h : Runs (.worknext f) s e) (hn : e.act.length ≤ 16)
    (hfree : ∀ j < e.act.length, e.b.wnWait.contains ((e.b.wnCount + j) % 16) = false)
    (hfit : storesFit s e ((List.range e.act.length).map (fun j => (mailboxKey e.cur.core e.b ((e.b.wnCount + j) % 16), 64)))
      = true) :
    ∃ (t : State) (b' : Block), Completes (.worknext f) s t ∧ t.block? e.cur.core e.cur.slot = some b'
      ∧ GroupGoesFree s t e (e.takesMailbox f)
      ∧ b'.wnCount = e.b.wnCount + e.act.length
      ∧ (∀ j < e.act.length, comRead t e.cur.core e.cur.slot (mailboxKey e.cur.core e.b ((e.b.wnCount + j) % 16)) 64
        = if (s.launchOf e.b).det = 0 then natLe 64 0
          else mailboxBytes (s.launchOf e.b).tree (s.launchOf e.b).dev (orderedWork (s.launchOf e.b) e.b.lin (e.b.wnCount + j)))
      ∧ ((s.launchOf e.b).det = 0 → b'.wnWait = e.b.wnWait ++ (List.range e.act.length).map (fun j => (e.b.wnCount + j) % 16)
        ∧ (t.core e.cur.core).chunk.held = (s.core e.cur.core).chunk.held
          ++ (List.range e.act.length).map (fun j => Held.withdraw e.cur.slot ((e.b.wnCount + j) % 16))) := by
  have hb : e.names s := State.site?_names h.1
  have hs : e.cur.slot ≠ handlerSlot := slot_ne_handler_of_notInHandler h.2.2.1 (worknext_notInHandler f)
  obtain ⟨b₁, h₁⟩ := ViewWrites.allocates (((Quiet.acts s e).block? _ _).trans hb) hs (s.launchOf e.b)
    ((List.range e.act.length).map (e.b.wnCount + ·))
  have ha : ViewWrites s (allocated s e) e.cur.core e.cur.slot e.b b₁ _ _ := (ViewWrites.of_quiet (Quiet.acts s e) hb).trans h₁
  obtain ⟨v, hv⟩ : ∃ v, v = (allocated s e).updBlock e.cur.core e.cur.slot (Block.counts e.act.length) := ⟨_, rfl⟩
  have hbv : v.block? e.cur.core e.cur.slot = some (b₁.counts e.act.length) := by
    rw [hv, State.block?_updBlock, ha.after]; rfl
  have hcv : (v.core e.cur.core).chunk = ((allocated s e).core e.cur.core).chunk := by rw [hv, State.chunk_updBlock]
  have hg := State.finish_only v e (e.takesMailbox f)
  obtain ⟨b', hb', hap⟩ := hg.block hbv
  obtain ⟨⟨-, -, -, hovl, -⟩, -, hheld⟩ := hg
  have hlaunches : (v.finish e (e.takesMailbox f)).launches = (allocated s e).launches := by rw [hv]; rfl
  have hmem : (v.finish e (e.takesMailbox f)).mem = (allocated s e).mem := by rw [hv]; rfl
  obtain ⟨-, hcount, hwait, -, -⟩ := ha.block
  have hex := exec_worknext_of_free h hn hfree hfit
  rw [← hv] at hex
  refine ⟨v.finish e (e.takesMailbox f), b', hex, hb', GroupGoesFree.of_finish (fun l => ?_)
    (fun th => by simp [Site.takesMailbox, putD]) (fun th => ?_), ?_, fun j hj => ?_, fun hd => ⟨?_, ?_⟩⟩
  · rw [hv, State.thread?_updBlock (f := Block.counts e.act.length) (fun _ => rfl), ha.thread?]
  · exact congrArg Thread.next (Thread.unresv_putD _ _ _)
  · exact (congrArg Block.wnCount hap :).trans (congrArg (· + e.act.length) hcount)
  · have hw : mailboxWrite e (s.launchOf e.b) (e.b.wnCount + j)
        ∈ ((List.range e.act.length).map (e.b.wnCount + ·)).map (mailboxWrite e (s.launchOf e.b)) :=
      List.mem_map_of_mem (List.mem_map_of_mem (List.mem_range.2 hj))
    have hread := ha.comRead hs (mailboxWrites_apart e (s.launchOf e.b) e.b.wnCount hn) hw
    rw [length_mailboxWrite] at hread
    exact (comRead_congr ha.after hb' hs hlaunches (congrArg Block.launch hap :) (congrArg Block.pover hap :)
      ((hovl _).trans (congrArg Chunk.ovl hcv)) hmem _ _).trans hread
  · exact ((congrArg Block.wnWait hap :).trans hwait).trans (congrArg (e.b.wnWait ++ ·) (asked_of_free hd _ _))
  · rw [hheld, List.append_nil, hcv, ha.held]
    refine congrArg (_ ++ ·) ((congrArg (List.map _) (asked_of_free hd _ _)).trans (List.map_map ..))

end Sys2Proof.Machine
end

section
/-! Proof of O37, second part: the filling of a mailbox (R40, R41, R391). -/

namespace Sys2Proof.Machine

/-! ### Bytes put into memory -/

/-- Memory after an overlay has been applied to it. -/
theorem Memory.byte_apply (m : Memory) {o : Overlay} (h : (o.map (fun e => e.1)).Nodup) (a : Nat) :
    Memory.byte (Memory.apply m o) a = (Tab.find? o a).getD (Memory.byte m a) := by
  induction o generalizing m with
  | nil => rfl
  | cons e o ih =>
    obtain ⟨k, v⟩ := e
    obtain ⟨hk, ho⟩ := List.nodup_cons.1 h
    rw [Memory.apply, List.foldl_cons]
    by_cases hka : k = a
    · have hout : ∀ x ∈ o, x.1 ≠ a := fun x hx hxa => hk (List.mem_map.2 ⟨x, hx, hxa.trans hka.symm⟩)
      refine (Memory.byte_apply_out _ _ _ hout).trans ?_
      rw [Tab.find?, if_pos hka, ← hka]
      exact Tab.get_set_same ..
    · refine (ih _ ho).trans ?_
      rw [Tab.find?, if_neg hka]
      exact congrArg _ (Tab.get_set_ne _ _ _ (Ne.symm hka))

theorem Tab.nodup_of_sorted {α : Type} {t : Tab α} (h : Tab.sorted t = true) : (t.map (fun e => e.1)).Nodup := by
  induction t with
  | nil => exact List.nodup_nil
  | cons e t ih =>
    obtain ⟨hs, ha⟩ := (Tab.sorted_cons ..).1 h
    refine List.nodup_cons.2 ⟨fun hm => ?_, ih hs⟩
    obtain ⟨x, hx, he⟩ := List.mem_map.1 hm
    have hle := ha x hx
    have heq : x.1 = e.1 := he
    omega

theorem Tab.sorted_overWrite {o : Overlay} (h : Tab.sorted o = true) (k : Nat) (bs : List Byte) :
    Tab.sorted (overWrite o k bs) = true := by
  induction bs generalizing o k with
  | nil => exact h
  | cons b bs ih => exact ih (Tab.sorted_put _ _ _ h) _

/-- Bytes written by way of an overlay read as written. -/
theorem Memory.read_apply_overWrite (m : Memory) (k : Nat) (bs : List Byte) :
    Memory.read (Memory.apply m (overWrite [] k bs)) k bs.length = bs := by
  refine List.ext_getElem (by simp [Memory.read]) fun i _ hi => ?_
  simp only [Memory.read, List.getElem_map, List.getElem_range]
  rw [Memory.byte_apply _ (Tab.nodup_of_sorted (Tab.sorted_overWrite rfl _ _)), Tab.find?_overWrite_in _ _ _ hi]
  rfl

/-! ### A write from outside the chunks -/

/-- From `s` to `t` reservations and chunks may have changed, and memory, the launches and every block apart from them have not. -/
structure Unresving (s t : State) : Prop where
  mem : t.mem = s.mem
  launches : t.launches = s.launches
  block : ∀ c sl, (t.block? c sl).map Block.unresv = (s.block? c sl).map Block.unresv

namespace Unresving
variable {s t u : State}

theorem refl (s : State) : Unresving s s := ⟨rfl, rfl, fun _ _ => rfl⟩

theorem trans (h : Unresving s t) (g : Unresving t u) : Unresving s u :=
  ⟨g.mem.trans h.mem, g.launches.trans h.launches, fun c sl => (g.block c sl).trans (h.block c sl)⟩

theorem foldl {α : Type} (f : State → α → State) (hf : ∀ s a, Unresving s (f s a)) (l : List α) (s : State) :
    Unresving s (l.foldl f s) := by
  induction l generalizing s with
  | nil => exact refl s
  | cons a l ih => exact (hf s a).trans (ih (f s a))

theorem updChunk (s : State) (c : Nat) (f : Chunk → Chunk) : Unresving s (s.updChunk c f) :=
  ⟨rfl, rfl, fun d sl => by rw [State.block?_updChunk]⟩

end Unresving

/-- The block of a slot after a change of a core's blocks that its chunk's start sees as well. -/
theorem State.block?_updBoth_mapV (s : State) (c sl : Nat) (f : Nat → Block → Block) :
    (s.updBoth c (fun a => { a with blocks := Tab.mapV a.blocks f })).block? c sl = (s.block? c sl).map (f sl) := by
  rw [State.block?, State.updBoth, State.core_updCore]
  exact Tab.find?_mapV _ _ _

theorem State.block?_updBoth_ne (s : State) {c d : Nat} (f : CoreArch → CoreArch) (h : d ≠ c) (sl : Nat) :
    (s.updBoth c f).block? d sl = s.block? d sl := by
  rw [State.block?, State.updBoth, State.core_updCore_ne _ _ h, State.block?]

/-- The end of reservations on bytes that something outside a core writes (R151). -/
theorem Unresving.breakResv (s : State) (c : Nat) (o : Overlay) : Unresving s (s.breakResv c o) := by
  refine foldl _ (fun t c' => ?_) _ s
  split
  · exact refl t
  · refine ⟨rfl, rfl, fun d sl => ?_⟩
    by_cases hd : d = c'
    · rw [hd, State.block?_updBoth_mapV, Option.map_map]
      refine congrArg (Option.map · _) (funext fun b => ?_)
      rw [Function.comp, apply_ite Block.unresv]
      refine ite_eq_left_iff.2 fun _ => ?_
      simp only [Block.unresv, List.map_map]
      refine congrArg (fun ths => { b with threads := ths }) (List.map_congr_left fun th _ => ?_)
      dsimp only [Function.comp]
      split
      · split <;> rfl
      · rfl
    · rw [State.block?_updBoth_ne _ _ hd]

/-- What a write from outside changes, while nothing is copied out: the bytes, and what the launches keep of them (R141, R151). -/
theorem outsideWrite_unresving {s : State} (h : s.copiedOut = []) (x key : Nat) (bs : List Byte) :
    Unresving { s.keepOld (fun _ => (List.range bs.length).map (fun i => key + i)) with
      mem := Memory.apply s.mem (overWrite [] key bs) } (s.outsideWrite x key bs) := by
  have hout : (s.copiedOut.any (fun r => r.ctx == x && r.lo ≤ key && key < r.hi)) = false := by rw [h]; rfl
  have happly : (s.keepOld (fun _ => (List.range bs.length).map (fun i => key + i))).applyWrites x (overWrite [] key bs)
      = { s.keepOld (fun _ => (List.range bs.length).map (fun i => key + i)) with
        mem := Memory.apply s.mem (overWrite [] key bs) } := by
    have hc : (s.keepOld (fun _ => (List.range bs.length).map (fun i => key + i))).copiedOut = [] := h
    rw [State.applyWrites, hc]
    simp only [List.any_nil, Bool.not_false, List.filter_true, List.map_nil]
    rw [← hc]
    rfl
  rw [State.outsideWrite, hout, if_neg Bool.false_ne_true, happly]
  exact (Unresving.foldl _ (fun t c => Unresving.updChunk t c _) _ _).trans (Unresving.breakResv _ _ _)

/-- A write from outside changes nothing of a block but its reservations. -/
theorem outsideWrite_block {s : State} (h : s.copiedOut = []) {c sl : Nat} {b : Block} (hb : s.block? c sl = some b)
    (x key : Nat) (bs : List Byte) :
    ∃ b', (s.outsideWrite x key bs).block? c sl = some b' ∧ b'.unresv = b.unresv :=
  Option.map_eq_some_iff.1 (((outsideWrite_unresving h x key bs).block c sl).trans (congrArg (Option.map Block.unresv) hb))

/-! ### The distributor's answer -/

/-- The blocks of the core of a mailbox that has been filled. -/
theorem State.block?_fillMailbox (s : State) (c l lin m : Nat) (b : Block) (bs : List Byte) (sl : Nat) :
    (s.fillMailbox c l lin m b bs).block? c sl = ((s.outsideWrite (s.ctxOf b) (mailboxKey c b m) bs).block? c sl).map
      (fun b => if sl = handlerSlot then b else b.filled l lin m) := by
  rw [State.fillMailbox, State.block?, State.core_updCore]
  exact State.block?_updBoth_mapV ..

/-- The work that the distributor hands out next (R40). -/
def nextWork (ln : Launch) : Option Nat :=
  if ln.tree.persist = 0 then (if ln.next < ln.tree.blocks then some ln.next else none)
  else if ln.workNext < ln.tree.blocks then some ln.workNext else none

/-- Taking the next piece of work changes its launch only, and not the requests for work. -/
theorem State.takeWork_spec (s : State) (l : Nat) (ln : Launch) : (s.takeWork l ln).2 = nextWork ln
    ∧ ∃ f : Launch → Launch, (s.takeWork l ln).1 = s.updLaunch l f ∧ ∀ x, (f x).workReq = x.workReq := by
  have hid : s = s.updLaunch l id := by rw [State.updLaunch, List.modify_id]
  unfold State.takeWork nextWork
  split
  · split
    · exact ⟨rfl, _, rfl, fun _ => rfl⟩
    · exact ⟨rfl, id, hid, fun _ => rfl⟩
  · split
    · exact ⟨rfl, _, rfl, fun _ => rfl⟩
    · exact ⟨rfl, id, hid, fun _ => rfl⟩

/-- What a write from outside keeps of the launches is their content before it. -/
theorem State.launch?_keepOld (s : State) (ks : Nat → List Nat) (l : Nat) :
    ∃ f : Launch → Launch, (s.keepOld ks).launch? l = (s.launch? l).map f ∧ ∀ x, (f x).workReq = x.workReq := by
  rw [State.launch?, State.keepOld, List.getElem?_mapIdx]
  exact ⟨_, rfl, fun x => by split <;> rfl⟩

section
variable {c sl m : Nat} {s : State} {b : Block} {ln : Launch} {rest : List (Nat × Nat × Nat × Nat)}

/-- The launch's first request stands for the mailbox of its block. -/
theorem State.firstAsk_of_first (hb : s.block? c sl = some b) (hl : s.launch? b.launch = some ln)
    (hq : ln.workReq = (c, sl, m, b.lin) :: rest) : s.firstAsk c sl m = some (b.launch, ln, b.lin, rest) := by
  rw [State.firstAsk, hb]
  simp [hl, hq]

/-- The state in which the mailbox has been filled. -/
def mailboxFilled (s : State) (c m : Nat) (b : Block) (ln : Launch) (rest : List (Nat × Nat × Nat × Nat)) : State :=
  let r := (s.updLaunch b.launch (fun ln => { ln with workReq := rest })).takeWork b.launch ln
  r.1.fillMailbox c b.launch b.lin m b (mailboxBytes ln.tree ln.dev r.2)

theorem exec_mailboxFill_of_first (hb : s.block? c sl = some b) (hl : s.launch? b.launch = some ln)
    (hq : ln.workReq = (c, sl, m, b.lin) :: rest) (ha : s.asker c b.launch b.lin = some b) :
    Completes (.mailboxFill c sl m) s ((mailboxFilled s c m b ln rest).memberChecks b.launch) := by
  have hx : exec (.mailboxFill c sl m) s = execMailboxFill c sl m s := rfl
  rw [Completes, hx, execMailboxFill, State.firstAsk_of_first hb hl hq]
  simp only [ha]
  rfl

/-- The filling of a mailbox, after changes of the launch that leave its requests. -/
theorem mailboxFilled_eq (s : State) (c m : Nat) (b : Block) (ln : Launch) (rest : List (Nat × Nat × Nat × Nat)) :
    ∃ f : Launch → Launch, (∀ x, (f x).workReq = x.workReq) ∧ mailboxFilled s c m b ln rest
      = ((s.updLaunch b.launch (fun ln => { ln with workReq := rest })).updLaunch b.launch f).fillMailbox c b.launch b.lin m b
        (mailboxBytes ln.tree ln.dev (nextWork ln)) := by
  obtain ⟨hwork, f, hf, hq⟩ := (s.updLaunch b.launch (fun ln => { ln with workReq := rest })).takeWork_spec b.launch ln
  refine ⟨f, hq, ?_⟩
  rw [mailboxFilled, hwork, hf]

/-- The block's threads wait for this mailbox no more. -/
theorem mailboxFilled_block (hb : s.block? c sl = some b) (hs : sl ≠ handlerSlot) (hc : s.copiedOut = []) :
    ∃ b', (mailboxFilled s c m b ln rest).block? c sl = some b' ∧ b'.wnWait = b.wnWait.filter (fun k => k != m) := by
  obtain ⟨f, -, hfill⟩ := mailboxFilled_eq s c m b ln rest
  obtain ⟨b₁, hb₁, hun⟩ := outsideWrite_block
    (s := (s.updLaunch b.launch (fun ln => { ln with workReq := rest })).updLaunch b.launch f) hc hb
    (((s.updLaunch b.launch (fun ln => { ln with workReq := rest })).updLaunch b.launch f).ctxOf b) (mailboxKey c b m)
    (mailboxBytes ln.tree ln.dev (nextWork ln))
  have hlaunch : b₁.launch = b.launch := (congrArg Block.launch hun :)
  have hlin : b₁.lin = b.lin := (congrArg Block.lin hun :)
  have hwait : b₁.wnWait = b.wnWait := (congrArg Block.wnWait hun :)
  refine ⟨b₁.filled b.launch b.lin m, ?_, ?_⟩
  · rw [hfill, State.block?_fillMailbox, hb₁, Option.map_some, if_neg hs]
  · rw [Block.filled, hlaunch, hlin, hwait]
    simp

/-- The launch's first request is answered. -/
theorem mailboxFilled_launch (hl : s.launch? b.launch = some ln) (hc : s.copiedOut = []) :
    ∃ ln', (mailboxFilled s c m b ln rest).launch? b.launch = some ln' ∧ ln'.workReq = rest := by
  obtain ⟨f, hf, hfill⟩ := mailboxFilled_eq s c m b ln rest
  obtain ⟨w, hw⟩ : ∃ w, w = (s.updLaunch b.launch (fun ln => { ln with workReq := rest })).updLaunch b.launch f := ⟨_, rfl⟩
  have hlw : w.launch? b.launch = some (f { ln with workReq := rest }) := by
    rw [hw, State.launch?_updLaunch, State.launch?_updLaunch, hl]; simp
  have hout := outsideWrite_unresving (s := w) (by rw [hw]; exact hc) (w.ctxOf b) (mailboxKey c b m)
    (mailboxBytes ln.tree ln.dev (nextWork ln))
  obtain ⟨g, hg, hgq⟩ := w.launch?_keepOld (fun _ => (List.range (mailboxBytes ln.tree ln.dev (nextWork ln)).length).map
    (fun i => mailboxKey c b m + i)) b.launch
  refine ⟨g (f { ln with workReq := rest }), ?_, by rw [hgq, hf]⟩
  rw [hfill, ← hw]
  exact ((congrArg (fun ls : List Launch => ls[b.launch]?) hout.launches).trans hg).trans (by rw [hlw]; rfl)

/-- The mailbox holds the next piece of work. -/
theorem mailboxFilled_read (hc : s.copiedOut = []) :
    Memory.read (mailboxFilled s c m b ln rest).mem (mailboxKey c b m) 64 = mailboxBytes ln.tree ln.dev (nextWork ln) := by
  obtain ⟨f, -, hfill⟩ := mailboxFilled_eq s c m b ln rest
  have hout := outsideWrite_unresving (s := (s.updLaunch b.launch (fun ln => { ln with workReq := rest })).updLaunch b.launch f)
    hc (((s.updLaunch b.launch (fun ln => { ln with workReq := rest })).updLaunch b.launch f).ctxOf b) (mailboxKey c b m)
    (mailboxBytes ln.tree ln.dev (nextWork ln))
  have hread := Memory.read_apply_overWrite s.mem (mailboxKey c b m) (mailboxBytes ln.tree ln.dev (nextWork ln))
  rw [length_mailboxBytes] at hread
  rw [hfill]
  exact (congrArg (fun m' => Memory.read m' (mailboxKey c b m) 64) hout.mem).trans hread

end

/-- Settles O37: the allocations of WORKNEXT in the block's view, and the distributor's answer to a first request. -/
theorem workIsHandedOut : Obligations.WorkIsHandedOut :=
  ⟨fun f s e h hn _ hfree hfit => worknext_hands f s e h hn hfree hfit,
    fun c sl m s b ln rest hb hl hq hs ha hc => ⟨mailboxFilled s c m b ln rest, exec_mailboxFill_of_first hb hl hq ha,
      fun hn => by
        have hx := exec_mailboxFill_of_first hb hl hq ha
        rwa [State.memberChecks_of_none hn] at hx,
      mailboxFilled_block hb hs hc, mailboxFilled_launch hl hc, mailboxFilled_read hc⟩⟩

end Sys2Proof.Machine
end

section
/-! Proof of O33: the ends, grants and commits of chunks (R46, R133, R136, R139, R140, R158, R244, R267). -/

namespace Sys2Proof.Machine

/-! ### CHUNKEND -/

section
variable {g : Guard} {s : State} {e : Site}

theorem exec_chunkend_of_runs (h : Runs (.chunkend g) s e) : exec (.chunkend g) s
    = .next (if s.isExact e.cur.slot e.b then s.atPhase e (fun e s => s.pass e)
      else { ((s.acts e).pass e).closeAfter e.cur.core with cur := ((s.acts e).pass e).cur }) := by
  have hx : exec (.chunkend g) s = execChunkend g s := rfl
  rw [hx, execChunkend, issue_of_runs _ h]

/-- A chunk that no LR has suspended ends at once. -/
theorem State.closeAfter_of_not_suspended {c : Nat} (h : (s.core c).chunk.suspend = []) : s.closeAfter c = s.endChunk c := by
  rw [State.closeAfter, h]
  rfl

/-- A word that acts and passes leaves the suspensions of its chunk. -/
theorem suspend_acts_pass (h : (s.core e.cur.core).chunk.suspend = []) :
    (((s.acts e).pass e).core e.cur.core).chunk.suspend = [] := by
  rw [State.pass, State.finish, State.mapTids, State.chunk_updBlock]
  unfold State.acts State.dirty
  split
  · exact h
  · dsimp only
    split
    · rw [State.core_setCore]; exact h
    · exact h

/-- A phase point of which no active member has acted parks (R140). -/
theorem State.atPhase_parks (hx : s.isExact e.cur.slot e.b = true) (ha : ∀ th ∈ e.act, th.acted = false)
    (body : Site → State → State) : s.atPhase e body = s.parkPhase e := by
  have hany : e.act.any (fun th => th.acted) = false := List.any_eq_false.2 fun th hth => by simp [ha th hth]
  rw [State.atPhase, if_pos hx, hany, if_neg Bool.false_ne_true]

theorem State.parkPhase_goes (s : State) (e : Site) :
    GroupGoes s (s.parkPhase e) e (fun th => { th with wait := .phase }) ∧ OnlyGroup s (s.parkPhase e) e :=
  ⟨State.finish_goes _ _ _ (fun _ => rfl), State.finish_only _ _ _⟩

/-- A phase point all of whose active members have acted acts for the whole group (R140). -/
theorem atPhase_pass (hx : s.isExact e.cur.slot e.b = true) (hne : e.act ≠ []) (hsub : ∀ th ∈ e.act, th ∈ e.mem)
    (ha : ∀ th ∈ e.act, th.acted = true) :
    GroupGoes s (s.atPhase e (fun e s => s.pass e)) e Thread.next ∧ OnlyGroup s (s.atPhase e (fun e s => s.pass e)) e := by
  have hany : e.act.any (fun th => th.acted) = true := by
    obtain ⟨th, hth⟩ := List.exists_mem_of_ne_nil _ hne
    exact List.any_eq_true.2 ⟨th, hth, ha th hth⟩
  have hids : ∀ l, ((e.restrict (fun th => th.acted || !e.active th)).mem.map (fun m => m.ltid)).contains l = (e.mem.map (fun m => m.ltid)).contains l := fun l => by
    rw [Bool.eq_iff_iff]
    simp only [List.contains_iff_mem, Site.restrict, List.mem_map, List.mem_filter]
    refine ⟨fun ⟨m, ⟨hm, _⟩, hl⟩ => ⟨m, hm, hl⟩, fun ⟨m, hm, hl⟩ => ?_⟩
    cases hact : e.active m with
    | false => exact ⟨m, ⟨hm, by simp [hact]⟩, hl⟩
    | true =>
      obtain ⟨x, hx, hxl⟩ : ∃ x ∈ e.act, x.ltid = m.ltid := by
        simpa [Site.active, Site.tids] using hact
      exact ⟨x, ⟨hsub x hx, by simp [ha x hx]⟩, hxl.trans hl⟩
  rw [State.atPhase, if_pos hx, hany, if_pos rfl]
  refine ⟨fun l => (State.finish_goes s (e.restrict (fun th => th.acted || !e.active th)) Thread.next (fun _ => rfl) l).trans ?_,
    State.finish_only s (e.restrict (fun th => th.acted || !e.active th)) Thread.next⟩
  simp only [hids, ite_self]
  rfl

end

/-! ### The end of a chunk -/

section
variable {s : State} {c : Nat}

/-- A chunk that touched no shared line and waits for nothing commits at once (R133). -/
theorem endChunk_commits (hr : (s.core c).chunk.rd = []) (hw : (s.core c).chunk.wr = []) (hl : ldxReading s c = false)
    (hh : commitHeld s c = false) : s.endChunk c = s.commit c := by
  simp [State.endChunk, hr, hw, hl, hh]

/-- A chunk that has ended and waits for its grant. -/
def Chunk.awaits (h : Chunk) : Chunk := { h with ended := true, pendEnd := false, suspend := [] }

/-- Another waits for its grant. -/
theorem endChunk_waits (h : (s.core c).chunk.rd ≠ [] ∨ (s.core c).chunk.wr ≠ [] ∨ ldxReading s c = true ∨ commitHeld s c = true) :
    s.endChunk c = s.updChunk c Chunk.awaits := by
  refine if_neg fun hc => ?_
  simp only [Bool.and_eq_true, List.isEmpty_iff, Bool.not_eq_true'] at hc
  obtain ⟨⟨⟨hr, hw⟩, hl⟩, hh⟩ := hc
  rcases h with h | h | h | h
  · exact h hr
  · exact h hw
  · rw [hl] at h; cases h
  · rw [hh] at h; cases h

theorem State.coreChecks_of_none (h : ∀ l, ∀ x ∈ s.blocksOf l, s.memberGroup x.1 x.2.1 x.2.2 = none) : s.coreChecks c = s := by
  rw [State.coreChecks]
  generalize ((Tab.vals (s.core c).arch.blocks).map (fun (b : Block) => b.launch)).dedup = ls
  induction ls with
  | nil => rfl
  | cons l ls ih => rw [List.foldl_cons, State.memberChecks_of_none (h l), ih]

/-- The arbiter grants an ended chunk that nothing holds (R46, R136). -/
theorem exec_chunkCommit_of_ended (hp : prioElsewhere s c = false) (he : (s.core c).chunk.ended = true)
    (hl : ldxReading s c = false) (hh : commitHeld s c = false) :
    Completes (.chunkCommit c) s ((s.commit c).coreChecks c) := by
  have hx : exec (.chunkCommit c) s = execChunkCommit c s := rfl
  rw [Completes, hx, execChunkCommit]
  simp [hp, he, hl, hh]

/-- It grants a priority chunk that is about to open to the first core that asked (R46). -/
theorem exec_chunkCommit_of_priority (hp : prioElsewhere s c = false) (he : (s.core c).chunk.ended = false)
    (hq : (s.core c).prioReq = true) (hf : (s.core c).chunk.fresh = true) (hn : (s.core c).chunk.prio = false)
    (hh : s.priority.head? = some c) : Completes (.chunkCommit c) s (s.updChunk c (fun h => { h with prio := true })) := by
  have hx : exec (.chunkCommit c) s = execChunkCommit c s := rfl
  rw [Completes, hx, execChunkCommit]
  simp [hp, he, hq, hf, hn, hh]

theorem exec_chunkTimeLimit_of_open (hf : (s.core c).chunk.fresh = false) (he : (s.core c).chunk.ended = false) :
    Completes (.chunkTimeLimit c) s (s.endChunk c) := by
  have hx : exec (.chunkTimeLimit c) s = execChunkTimeLimit c s := rfl
  rw [Completes, hx, execChunkTimeLimit]
  simp [hf, he]

/-- An instruction that ends a chunk which must wait for its grant does nothing else (R133). -/
theorem closeBefore_waits (hf : (s.core c).chunk.fresh = false) (hs : (s.core c).chunk.suspend = [])
    (h : (s.core c).chunk.rd ≠ [] ∨ (s.core c).chunk.wr ≠ []) (act : State → State) : s.closeBefore c act
      = (s.updChunk c Chunk.awaits).hold := by
  have he := endChunk_waits (s := s) (c := c) (h.elim Or.inl fun h => Or.inr (Or.inl h))
  rw [State.closeBefore, hf, hs]
  simp [he, Chunk.awaits, State.hold]

end

/-! ### What a commit leaves -/

/-- The beats that a core's squashed chunk has pushed are withdrawn. -/
def State.unpush (s : State) (d : Nat) : State :=
  s.coreNums.foldl (fun s c' => s.updBoth c' (fun a => { a with
    nbr := Tab.mapV a.nbr (fun _ q => q.filter (fun b => b.src != some d)) })) s

/-- Memory is as given, no chunk is bad, and a core has a chunk just opened after a number of others. -/
structure Settled (c : Nat) (m : Memory) (n : Word) (s : State) : Prop where
  mem : s.mem = m
  bad : ∀ d, (s.core d).chunk.bad = none
  chunk : (s.core c).chunk = Chunk.new
  chunks : (s.core c).chunks = n

namespace Settled
variable {c : Nat} {n : Word} {m : Memory} {s : State}

theorem foldl {α : Type} {f : State → α → State} (l : List α) (hf : ∀ s, ∀ a ∈ l, Settled c m n s → Settled c m n (f s a))
    (h : Settled c m n s) : Settled c m n (l.foldl f s) := by
  induction l generalizing s with
  | nil => exact h
  | cons a l ih => exact ih (fun s a ha => hf s a (List.mem_cons_of_mem _ ha)) (hf s a (List.mem_cons_self ..) h)

/-- A change outside the cores and memory. -/
theorem of_cores {t : State} (h : Settled c m n s) (hm : t.mem = s.mem) (hc : t.cores = s.cores) : Settled c m n t := by
  have hcore : ∀ d, t.core d = s.core d := fun d => by rw [State.core, State.core, hc]
  exact ⟨hm.trans h.mem, fun d => by rw [hcore]; exact h.bad d, by rw [hcore]; exact h.chunk, by rw [hcore]; exact h.chunks⟩

/-- A change of a core that keeps a chunk just opened, and makes none bad. -/
theorem updCore (h : Settled c m n s) (d : Nat) {f : CoreSt → CoreSt} (hb : ∀ k, k.chunk.bad = none → (f k).chunk.bad = none)
    (hn : ∀ k, k.chunk = Chunk.new → (f k).chunk = Chunk.new) (hc : ∀ k, (f k).chunks = k.chunks) :
    Settled c m n (s.updCore d f) := by
  refine ⟨h.mem, fun x => ?_, ?_, ?_⟩
  · by_cases hx : x = d
    · rw [hx, State.core_updCore]; exact hb _ (h.bad d)
    · rw [State.core_updCore_ne _ _ hx]; exact h.bad x
  · by_cases hx : c = d
    · rw [← hx, State.core_updCore]; exact hn _ h.chunk
    · rw [State.core_updCore_ne _ _ hx]; exact h.chunk
  · by_cases hx : c = d
    · rw [← hx, State.core_updCore]; exact (hc _).trans h.chunks
    · rw [State.core_updCore_ne _ _ hx]; exact h.chunks

/-- A change of a core outside its chunk. -/
theorem updOut (h : Settled c m n s) (d : Nat) {f : CoreSt → CoreSt} (hk : ∀ k, (f k).chunk = k.chunk)
    (hc : ∀ k, (f k).chunks = k.chunks) : Settled c m n (s.updCore d f) :=
  h.updCore d (fun k hb => by rw [hk]; exact hb) (fun k hn => by rw [hk]; exact hn) hc

theorem updBoth (h : Settled c m n s) (d : Nat) (f : CoreArch → CoreArch) : Settled c m n (s.updBoth d f) :=
  h.updCore d (fun _ hb => hb) (fun k hn => by simp only [hn]; rfl) (fun _ => rfl)

theorem updCtx (h : Settled c m n s) (x : Nat) (f : Ctx → Ctx) : Settled c m n (s.updCtx x f) := h.of_cores rfl rfl

theorem reprio (h : Settled c m n s) (p : List Nat) : Settled c m n { s with priority := p } := h.of_cores rfl rfl

theorem updLaunch (h : Settled c m n s) (l : Nat) (f : Launch → Launch) : Settled c m n (s.updLaunch l f) := h.of_cores rfl rfl

theorem count (h : Settled c m n s) (d code k : Nat) : Settled c m n (s.count d code k) := by
  unfold State.count
  dsimp only
  split
  · exact h.updOut d (f := fun k => { k with pmc := _ }) (fun _ => rfl) (fun _ => rfl)
  · exact h

theorem breakResv (h : Settled c m n s) (d : Nat) (o : Overlay) : Settled c m n (s.breakResv d o) :=
  h.foldl _ fun s d' _ h => by
    split
    · exact h
    · exact h.updBoth _ _

theorem setStream (h : Settled c m n s) (r : StreamRef) (st : Stream) : Settled c m n (s.setStream r st) := by
  unfold State.setStream
  split
  · exact h.updCtx _ _
  · exact h.updOut _ (fun _ => rfl) (fun _ => rfl)

theorem reply (h : Settled c m n s) (q : Cmd) (v : Word) : Settled c m n (s.reply q v) := by
  unfold State.reply
  split
  · exact (h.updBoth _ _).updOut _ (fun _ => rfl) (fun _ => rfl)
  · exact h

theorem leave (h : Settled c m n s) (d eng st num x : Nat) (view : Overlay) : Settled c m n (s.leave d eng st num x view) := by
  unfold State.leave
  dsimp only
  split
  · exact (h.setStream _ _).foldl _ fun s q _ h => h.reply q _
  · exact h.setStream _ _

theorem send (h : Settled c m n s) (d x : Nat) (e : Held) : Settled c m n (s.send d x e) :=
  (h.updOut d (f := fun k => { k with sent := Tab.set 0 k.sent x (Tab.get 0 (s.core d).sent x + 1) }) (fun _ => rfl)
    (fun _ => rfl)).of_cores rfl rfl

theorem withdrawHigh (h : Settled c m n s) (d sl : Nat) (tids : List Nat) : Settled c m n (s.withdrawHigh d sl tids) := by
  unfold State.withdrawHigh
  split
  · exact h
  · exact h.updLaunch _ _

/-- An effect that is no record leaves. -/
theorem release (h : Settled c m n s) (d x : Nat) {e : Held} (he : ∀ y t bs, e ≠ .emit y t bs) :
    Settled c m n (s.release d x e) := by
  cases e with
  | store => exact h.send _ _ _
  | atom => exact h.send _ _ _
  | cmd => exact h.leave _ _ _ _ _ _
  | withdraw =>
    rw [State.release]
    split
    · exact h.updLaunch _ _
    · exact h
  | exits => exact h.withdrawHigh _ _ _
  | emit y t bs => exact absurd rfl (he y t bs)

/-- Another core's state is replaced by one whose chunk is not bad. -/
theorem setCore (h : Settled c m n s) {d : Nat} (hd : d ≠ c) {k : CoreSt} (hk : k.chunk.bad = none) :
    Settled c m n (s.setCore d k) := by
  refine ⟨h.mem, fun x => ?_, ?_, ?_⟩
  · by_cases hx : x = d
    · rw [hx, State.core_setCore]; exact hk
    · rw [State.core_setCore_ne _ _ hx]; exact h.bad x
  · rw [State.core_setCore_ne _ _ (Ne.symm hd)]; exact h.chunk
  · rw [State.core_setCore_ne _ _ (Ne.symm hd)]; exact h.chunks

theorem dropUnleft (h : Settled c m n s) (d : Nat) : Settled c m n (s.dropUnleft d) := by
  unfold State.dropUnleft
  exact (h.updOut d (f := fun k => { k with eng := { k.eng with streams := Tab.mapV k.eng.streams _ } }) (fun _ => rfl)
    (fun _ => rfl)).of_cores rfl rfl

theorem unstamp (h : Settled c m n s) (d x : Nat) : Settled c m n (s.unstamp d x) := by
  unfold State.unstamp; exact h.updCtx _ _

theorem unpush (h : Settled c m n s) (d : Nat) : Settled c m n (s.unpush d) := h.foldl _ fun _ _ _ h => h.updBoth _ _

/-- Another core's chunk that is not bad is squashed: no block fails, and nothing is written (R137, R388). -/
theorem squash (h : Settled c m n s) {d : Nat} (hd : d ≠ c) : Settled c m n (s.squash d) := by
  have h0 := h.updBoth d CoreArch.flipsEnd
  unfold State.squash
  dsimp only
  rw [h0.bad d]
  dsimp only
  refine Settled.count ?_ d 4 1
  refine Settled.unpush ?_ d
  refine Settled.unstamp ?_ _ _
  refine Settled.dropUnleft ?_ _
  split
  · exact Settled.of_cores (h0.setCore hd rfl) rfl rfl
  · exact h0.setCore hd rfl

theorem broadcast (h : Settled c m n s) (part : Nat) (wr : List Nat) : Settled c m n (s.broadcast part (some c) wr) := by
  unfold State.broadcast
  split
  · exact h
  · refine h.foldl _ fun s d _ h => ?_
    split
    · exact h
    next hd =>
      have hne : d ≠ c := by
        rintro rfl
        simp at hd
      have h' := h.updOut d (f := fun k => { k with l1c := k.l1c.filter (fun l => !wr.contains l) }) (fun _ => rfl) (fun _ => rfl)
      dsimp only
      split
      · exact h'.squash hne
      · exact h'

end Settled

/-! ### The bytes of a commit -/

section
variable (s : State) (c x : Nat) (ks : List Nat) (p : Cmd → Bool)

theorem State.keepWords_core (d : Nat) : ((s.keepWords c x ks p).core d).chunk = (s.core d).chunk
    ∧ ((s.keepWords c x ks p).core d).chunks = (s.core d).chunks := by
  rw [State.keepWords, State.core_updCtx]
  by_cases hd : d = c
  · rw [hd, State.core_updCore]; exact ⟨rfl, rfl⟩
  · rw [State.core_updCore_ne _ _ hd]; exact ⟨rfl, rfl⟩

theorem State.showClk_cores : (s.showClk c x ks).cores = s.cores := by
  unfold State.showClk
  split <;> rfl

theorem State.showClk_mem : (s.showClk c x ks).mem = s.mem := by
  unfold State.showClk
  split <;> rfl

variable (kk : Nat → List Nat) (o : Overlay) (ks' : List Nat)

/-- The chunk's writes go to memory while nothing is copied out. -/
theorem written_mem (h : s.copiedOut = []) :
    ((((s.keepWords c x ks p).keepOld kk).applyWrites x o).showClk c x ks').mem = Memory.apply s.mem o := by
  have hc : ((s.keepWords c x ks p).keepOld kk).copiedOut = [] := h
  rw [State.showClk_mem, State.applyWrites, hc]
  simp only [List.any_nil, Bool.not_false, List.filter_true]
  rfl

theorem written_core (d : Nat) :
    (((((s.keepWords c x ks p).keepOld kk).applyWrites x o).showClk c x ks').core d).chunk = (s.core d).chunk
      ∧ (((((s.keepWords c x ks p).keepOld kk).applyWrites x o).showClk c x ks').core d).chunks = (s.core d).chunks := by
  rw [State.core, State.showClk_cores]
  exact s.keepWords_core c x ks p d

end

/-- The next chunk opens. -/
theorem Settled.of_open {t : State} {c : Nat} {m : Memory} {n : Word} (hm : t.mem = m) (hb : ∀ d, (t.core d).chunk.bad = none)
    (hn : (t.core c).chunks = n) {f : CoreSt → CoreSt} (hf : ∀ k, (f k).chunk = Chunk.new)
    (hc : ∀ k, (f k).chunks = k.chunks + 1) : Settled c m (n + 1) (t.updCore c f) := by
  refine ⟨hm, fun d => ?_, ?_, ?_⟩
  · by_cases hd : d = c
    · rw [hd, State.core_updCore, hf]; rfl
    · rw [State.core_updCore_ne _ _ hd]; exact hb d
  · rw [State.core_updCore, hf]
  · rw [State.core_updCore, hc, hn]

/-- What a chunk without records holds leaves without one. -/
theorem not_emit_of_mem_cutHeld {h : Chunk} (hh : ∀ x t bs, .emit x t bs ∉ h.held) (m : Memory) {e : Held}
    (he : e ∈ heldOrder (cutHeld h m)) (x t : Nat) (bs : List Byte) : e ≠ .emit x t bs := by
  rintro rfl
  rw [heldOrder, List.mem_insertionSort, cutHeld, List.mem_map] at he
  obtain ⟨g, hg, hge⟩ := he
  split at hge
  · cases hge
  · exact hh x t bs (hge ▸ hg)

/-- A commit of a chunk without records puts its bytes into memory, and the next chunk is open. -/
theorem commit_settled {s : State} {c : Nat} (he : ∀ x t bs, .emit x t bs ∉ (s.core c).chunk.held)
    (hb : ∀ d, (s.core d).chunk.bad = none) (hc : s.copiedOut = []) :
    Settled c (Memory.apply s.mem (s.core c).chunk.ovl) ((s.core c).chunks + 1) (s.commit c) := by
  unfold State.commit
  dsimp only
  refine Settled.count ?_ c 3 1
  refine Settled.foldl _ (fun _ _ _ h => h.updBoth _ _) ?_
  refine Settled.foldl _ (fun _ e hmem h => h.release c _ (fun x t bs => not_emit_of_mem_cutHeld he _ hmem x t bs)) ?_
  refine Settled.broadcast ?_ _ _
  refine Settled.breakResv ?_ _ _
  refine Settled.reprio ?_ _
  refine Settled.updCtx ?_ _ _
  refine Settled.of_open (written_mem _ _ _ _ _ _ _ _ hc) (fun d => ?_) ?_ (fun _ => rfl) (fun _ => rfl)
  · rw [(written_core ..).1]; exact hb d
  · exact (written_core ..).2

/-- Settles O33, by its clauses. -/
theorem chunkEnds : Obligations.ChunkEnds := by
  refine ⟨fun g s e h => ⟨fun hx hs => ?_, fun hx ha => ?_, fun hx ha => ?_⟩, fun c s hr hw hl hh => endChunk_commits hr hw hl hh,
    fun c s h => ?_, fun c s hp he hl hh => ⟨exec_chunkCommit_of_ended hp he hl hh, fun hn => ?_⟩, fun c s he hb hc hn => ?_,
    fun c s hp he hq hf hn hh => ⟨_, exec_chunkCommit_of_priority hp he hq hf hn hh, ?_, rfl⟩,
    fun c s hf he => exec_chunkTimeLimit_of_open hf he, fun s e l body hl => ⟨fun hx hf hs h => ?_, fun hx ha => ?_⟩⟩
  · rw [Completes, exec_chunkend_of_runs h, hx, if_neg Bool.false_ne_true,
      State.closeAfter_of_not_suspended (suspend_acts_pass hs)]
  · have hm := (State.site?_parts h.1).2.2
    refine ⟨s.atPhase e (fun e s => s.pass e), ?_, atPhase_pass hx h.2.1 (fun th hth => ?_) ha⟩
    · rw [Completes, exec_chunkend_of_runs h, if_pos hx]
    · rw [hm] at hth; exact (List.mem_filter.1 hth).1
  · refine ⟨s.parkPhase e, ?_, s.parkPhase_goes e⟩
    rw [Completes, exec_chunkend_of_runs h, if_pos hx, State.atPhase_parks hx ha]
  · rw [endChunk_waits h, State.core_updChunk]
    exact ⟨rfl, rfl⟩
  · have hx := exec_chunkCommit_of_ended hp he hl hh
    rwa [State.coreChecks_of_none hn] at hx
  · obtain ⟨hm, -, hch, hcs⟩ := commit_settled he hb hc
    exact ⟨fun a => by rw [hm]; exact Memory.byte_apply _ hn a, hch, hcs⟩
  · rw [State.core_updChunk]
  · rw [State.atHigh, if_neg (Nat.not_lt.2 hl), hx, if_neg Bool.false_ne_true, closeBefore_waits hf hs h]
    refine ⟨rfl, ?_, fun c => State.arch_updChunk s e.cur.core c Chunk.awaits, rfl⟩
    exact congrArg (fun k : CoreSt => k.chunk.ended) (State.core_updChunk s e.cur.core Chunk.awaits)
  · rw [State.atHigh, if_neg (Nat.not_lt.2 hl), if_pos hx, State.atPhase_parks hx ha]
    exact s.parkPhase_goes e

end Sys2Proof.Machine
end

section
/-! Refutation of O47: the merge of a phase can write more than the merged bytes. The merge squashes a chunk of the handler, and a squash
of it restores the served EXACT block as it was at the chunk's start (R137, R140, R342): with a thread that waits at its word. The end
of the merge evaluates that wait (R143, R338), and its walk sets the accessed bit of a leaf (R380), in main memory. -/

namespace Sys2Proof.Machine

/-! ### The state -/

/-- A wait on the word at address 0. -/
def restoredWait : Instr := .waitseq ⟨.always, 1, false, 0, .lane 0, .lane 0, .lane 0⟩

/-- The block as it stands: it has written a byte in its phase, and no thread of it waits. -/
def mergingBlock : Block := { loadedBlock 0 with pover := [(0x20000, 1)] }

/-- The block at the start of the handler's chunk: its thread waits. -/
def restoredBlock : Block := { mergingBlock with threads := [{ handlerThread 0 with wait := .mem restoredWait 0 0 }] }

/-- The core, in a chunk of the handler for the block, which has read the line that the merge writes. -/
def servingCore : CoreSt := { CoreSt.new with
  arch := { CoreArch.new with blocks := [(0, mergingBlock)] }
  chunk := { Chunk.new with
    snap := some { CoreArch.new with blocks := [(0, restoredBlock)] }
    rd := [0x200], fresh := false, served := some 0 } }

def mergingLaunch : Launch := { loadedLaunch 0 with det := 2 }

/-- The state before the merge; the leaf at 0x100 maps the page of address 0 and has not been accessed. -/
def beforeMerge : State := { State.reset with
  mem := [(0x100, 0x13)], launches := [mergingLaunch], clusterMask := [(0, 1)], wcache := [(0, [⟨0, 3, 0, 0x100⟩])]
  cores := [(0, servingCore)] }

/-! ### The merge -/

/-- The merge before its broadcast. -/
def mergedWrites : State :=
  let bs := byLin (beforeMerge.blocksOf 0)
  let s := bs.foldl (fun s e => s.keepWords e.1 mergingLaunch.ctx e.2.2.mergeKeys (fun q => !q.exact_)) beforeMerge
  let keys := bs.flatMap (fun e => e.2.2.mergeKeys) ++ mergingLaunch.pubs.flatMap (fun p => p.2.map (fun c => c.1))
  let s := (s.keepOld (fun i => if i = 0 then [] else keys)).mergeWrites mergingLaunch bs
  let s := bs.foldl (fun s e => s.showClk e.1 mergingLaunch.ctx e.2.2.mergeKeys) s
  let s := bs.foldl (fun s e => s.updBlockBoth e.1 e.2.1 Block.nextPhase) s
  let s := s.updLaunch 0 (fun ln => { ln with phase := ln.phase + 1, pubs := [], old := [] })
  s.breakResv 384 ((mergedLines mergingLaunch bs).map (fun n => (256 * n, 0)))

/-- A write signature that a core's chunk has read squashes it, when no other core is there (R136). -/
theorem State.broadcast_of_read {s : State} {part c l : Nat} (hn : s.coreNums = [c]) (hp : s.inPart part c = true)
    (hr : (s.core c).chunk.rd = [l]) (hprio : (s.core c).chunk.prio = false) : s.broadcast part none [l]
      = (s.updCore c (fun k => { k with l1c := k.l1c.filter (fun n => !([l] : List Nat).contains n) })).squash c := by
  have hmeet : sigMeet [l] [l] = true := by simp [sigMeet]
  rw [State.broadcast, hn]
  simp only [List.foldl_cons, List.foldl_nil, hp, hr, hprio, hmeet]
  rfl

theorem mergedWrites_broadcast : mergedWrites.broadcast (mergedWrites.ctx mergingLaunch.ctx).part none
      (mergedLines mergingLaunch (byLin (beforeMerge.blocksOf 0)))
    = (mergedWrites.updCore 0 (fun k => { k with l1c := k.l1c.filter (fun n => !([0x200] : List Nat).contains n) })).squash 0 := by
  have hl : mergedLines mergingLaunch (byLin (beforeMerge.blocksOf 0)) = [0x200] := by decide
  rw [hl]
  exact State.broadcast_of_read (by decide) (by decide) (by decide) (by decide)

/-- The accessed bit of the leaf is set. -/
theorem mergePhase_marks : Memory.byte (beforeMerge.mergePhase 0 mergingLaunch).mem 0x107 = 1 := by
  have hm : beforeMerge.mergePhase 0 mergingLaunch = ((phaseHeld (byLin (beforeMerge.blocksOf 0))).foldl
      (fun s h => s.release h.1 mergingLaunch.ctx h.2)
      (mergedWrites.broadcast (mergedWrites.ctx mergingLaunch.ctx).part none
        (mergedLines mergingLaunch (byLin (beforeMerge.blocksOf 0))))).reevaluateAll (byLin (beforeMerge.blocksOf 0)) := rfl
  rw [hm, mergedWrites_broadcast]
  decide

/-- The merged bytes do not reach it. -/
theorem mergeWrites_leaves :
    Memory.byte (beforeMerge.mergeWrites mergingLaunch (byLin (beforeMerge.blocksOf 0))).mem 0x107 = 0 := by decide

/-! ### The hypotheses -/

theorem beforeMerge_bad (c : Nat) : (beforeMerge.core c).chunk.bad = none := by
  by_cases h : c = 0
  · rw [h]; decide
  · rw [State.core, beforeMerge, Tab.get, Tab.find?, if_neg (Ne.symm h)]
    rfl

theorem beforeMerge_blocks : beforeMerge.blocksOf 0 = [(0, 0, mergingBlock)] := by decide

theorem mergingBlock_runs (th : Thread) (h : th ∈ mergingBlock.threads) (i : Instr) (a b : Word) : th.wait ≠ .mem i a b := by
  cases List.mem_singleton.1 h
  exact Wait.noConfusion

/-- Refutes O47: the merge of `beforeMerge` sets a bit of a leaf, which no merged write reaches. -/
theorem not_endsOfWork : ¬ Obligations.EndsOfWork := by
  rintro ⟨-, hmerge, -⟩
  have hbytes := (hmerge 0 mergingLaunch beforeMerge rfl rfl beforeMerge_bad (fun x hx => by
    rw [beforeMerge_blocks] at hx
    cases List.mem_singleton.1 hx
    exact ⟨rfl, mergingBlock_runs⟩)).1 0x107
  rw [mergePhase_marks, mergeWrites_leaves] at hbytes
  exact absurd hbytes (by decide)

end Sys2Proof.Machine
end

section
/-! Proof of O36: a lehr register holds the last values pushed into it, and LEHRREAD reads it (R64-R68). -/

namespace Sys2Proof.Machine

/-! ### The window of one register -/

/-- A flip puts each value on the front with the right-nested aggregate of what lies below it (R65). -/
theorem lehrFlip_cons (op : RedOp) (v : Word) (vs : List Word) :
    (lehrFlip op (v :: vs)).1 = (v, rightNested op (v :: vs)) :: (lehrFlip op vs).1 := by
  induction vs generalizing v with
  | nil => rfl
  | cons w ws ih =>
    have h := ih w
    simp only [lehrFlip, List.foldr_cons] at h ⊢
    rw [h]
    rfl

theorem lehrFlip_values (op : RedOp) (vs : List Word) : (lehrFlip op vs).1.map (fun v => v.1) = vs := by
  induction vs with
  | nil => rfl
  | cons v vs ih => rw [lehrFlip_cons, List.map_cons, ih]

theorem leftNested_snoc (op : RedOp) {b : List Word} (hb : b ≠ []) (v : Word) :
    leftNested op (b ++ [v]) = (redApp op .rne (leftNested op b) v).1 := by
  cases b with
  | nil => exact absurd rfl hb
  | cons x b => simp only [leftNested, List.cons_append, List.foldl_append, List.foldl_cons, List.foldl_nil]

/-- A register of window `w` and operator `op` with some values in its front, the oldest first, and some in its back, each part with
its aggregates (R65). -/
structure Lehr.Window (r : Lehr) (w : Nat) (op : RedOp) (f b : List Word) : Prop where
  win : r.win = w
  oper : r.op = op
  front : r.front = (lehrFlip op f).1
  back : r.back = b
  bagg : r.bagg = leftNested op b

/-- A read of a register: nothing, one part's aggregate, or the front's combined with the back's (R66). -/
def windowRead (op : RedOp) (f b : List Word) : Word :=
  match f, b with
  | [], [] => 0
  | [], y :: ys => leftNested op (y :: ys)
  | v :: vs, [] => rightNested op (v :: vs)
  | v :: vs, y :: ys => (redApp op .rne (rightNested op (v :: vs)) (leftNested op (y :: ys))).1

section
variable {r : Lehr} {w : Nat} {op : RedOp} {f b : List Word} (h : r.Window w op f b) (x : Word)
include h

theorem Lehr.Window.length_front : r.front.length = f.length := by
  rw [h.front, ← List.length_map (f := fun v : Word × Word => v.1), lehrFlip_values]

/-- What a push makes of a front that it leaves or pops, and of a back that it leaves (R65). -/
theorem Lehr.Window.push_keeps {f' : List Word}
    (hflip : (r.front.length + r.back.length == r.win && r.front.isEmpty) = false)
    (hf : (if r.front.length + r.back.length == r.win then r.front.tail else r.front) = (lehrFlip op f').1) :
    (r.push x).1.Window w op f' (b ++ [redVal op x]) := by
  obtain ⟨hw, hop, -, hback, hbagg⟩ := h
  rw [Lehr.push]
  simp only [hflip, Bool.false_eq_true, if_false]
  refine ⟨hw, hop, hf, by rw [hback, hop], ?_⟩
  simp only [hop, hback, hbagg]
  cases b with
  | nil => rfl
  | cons v b => exact (leftNested_snoc op (List.cons_ne_nil v b) _).symm

/-- A push into a register that is not full takes its place at the end (R65). -/
theorem Lehr.Window.push_room (hl : f.length + b.length < w) : (r.push x).1.Window w op f (b ++ [redVal op x]) := by
  have hn : (r.front.length + r.back.length == r.win) = false := by
    rw [h.length_front, h.back, h.win]
    exact beq_false_of_ne (Nat.ne_of_lt hl)
  exact h.push_keeps x (by rw [hn, Bool.false_and]) (by rw [hn]; exact h.front)

/-- A push into a full register drops the top of the front (R65). -/
theorem Lehr.Window.push_pop {v : Word} {vs : List Word} (hf : f = v :: vs) (hl : f.length + b.length = w) :
    (r.push x).1.Window w op vs (b ++ [redVal op x]) := by
  have hy : (r.front.length + r.back.length == r.win) = true := by
    rw [h.length_front, h.back, h.win]
    exact beq_iff_eq.2 hl
  have hfront : r.front = (v, rightNested op (v :: vs)) :: (lehrFlip op vs).1 := by rw [h.front, hf, lehrFlip_cons]
  exact h.push_keeps x (by rw [hfront, List.isEmpty_cons, Bool.and_false]) (by rw [hy, if_pos rfl, hfront, List.tail_cons])

/-- A push into a full register whose front is empty flips it: the back, without its oldest value, becomes the front (R65). -/
theorem Lehr.Window.push_flip {v : Word} {vs : List Word} (hf : f = []) (hb : b = v :: vs) (hl : b.length = w) :
    (r.push x).1.Window w op vs [redVal op x] := by
  obtain ⟨hw, hop, hfront, hback, -⟩ := h
  subst hf hb
  have hy : (r.front.length + r.back.length == r.win) = true := by
    rw [hfront, hback, hw]
    exact beq_iff_eq.2 ((Nat.zero_add _).trans hl)
  have he : r.front.isEmpty = true := by rw [hfront]; rfl
  rw [Lehr.push]
  simp only [hy, he, Bool.and_self, if_true]
  rw [hback, hop]
  exact ⟨hw, rfl, by rw [lehrFlip_cons, List.tail_cons], rfl, rfl⟩

/-- What a read gives of the register's two parts. -/
theorem Lehr.Window.read : r.read.1 = windowRead op f b := by
  obtain ⟨-, hop, hfront, hback, hbagg⟩ := h
  rw [Lehr.read, hfront, hback, hbagg, hop]
  cases f with
  | nil => cases b <;> rfl
  | cons v vs => rw [lehrFlip_cons]; cases b <;> rfl

end

/-! ### The last values pushed -/

/-- How many of the last values stand in the front after `n` pushes since the register was emptied (R65). -/
def lehrSplit (w n : Nat) : Nat := if n ≤ w then 0 else w - 1 - (n - w - 1) % w

theorem lehrSplit_lt {w n : Nat} (hw : 0 < w) : lehrSplit w n < w := by
  rw [lehrSplit]
  split <;> omega

/-- A push into a full register pops its front, or flips it (R65). -/
theorem lehrSplit_succ {w n : Nat} (hw : 0 < w) (hn : w ≤ n) :
    lehrSplit w (n + 1) = if lehrSplit w n = 0 then w - 1 else lehrSplit w n - 1 := by
  obtain ⟨m, rfl⟩ := Nat.exists_eq_add_of_le hn
  have hnext : lehrSplit w (w + m + 1) = w - 1 - m % w := by
    rw [lehrSplit, if_neg (by omega)]
    congr 2
    omega
  rw [hnext]
  cases m with
  | zero => simp [lehrSplit]
  | succ p =>
    have hnow : lehrSplit w (w + (p + 1)) = w - 1 - p % w := by
      rw [lehrSplit, if_neg (by omega)]
      congr 2
      omega
    have hp : p % w < w := Nat.mod_lt _ hw
    have hsucc : (p + 1) % w = if p % w + 1 = w then 0 else p % w + 1 := by
      have hdiv : p + 1 = p % w + 1 + w * (p / w) := by have := Nat.mod_add_div p w; omega
      rw [hdiv, Nat.add_mul_mod_self_left]
      split
      case isTrue h => rw [h, Nat.mod_self]
      case isFalse h => exact Nat.mod_eq_of_lt (by omega)
    rw [hnow, hsucc]
    split <;> split <;> omega

/-- The values that stand in a register of window `w` after some pushes (R66). -/
def lastPushed (op : RedOp) (w : Nat) (xs : List Word) : List Word := (xs.drop (xs.length - w)).map (redVal op)

theorem length_lastPushed (op : RedOp) (w : Nat) (xs : List Word) : (lastPushed op w xs).length = min xs.length w := by
  simp only [lastPushed, List.length_map, List.length_drop]
  omega

/-- With room, a push adds its value to those that stand there. -/
theorem lastPushed_snoc_room (op : RedOp) {w : Nat} {xs : List Word} (x : Word) (h : xs.length < w) :
    lastPushed op w (xs ++ [x]) = lastPushed op w xs ++ [redVal op x] := by
  have h1 : xs.length + 1 - w = 0 := by omega
  have h2 : xs.length - w = 0 := by omega
  simp [lastPushed, h1, h2]

/-- Without, the oldest goes. -/
theorem lastPushed_snoc_full (op : RedOp) {w : Nat} {xs : List Word} (x : Word) (hw : 0 < w) (h : w ≤ xs.length) :
    lastPushed op w (xs ++ [x]) = (lastPushed op w xs).tail ++ [redVal op x] := by
  have h1 : xs.length + 1 - w = (xs.length - w) + 1 := by omega
  rw [lastPushed, lastPushed, List.length_append, List.length_singleton, h1, List.drop_append_of_le_length (by omega),
    List.map_append, ← List.map_tail, List.tail_drop]
  rfl

/-- A register that some values have been pushed into since it was emptied. -/
def pushedInto (op : RedOp) (w : Nat) (xs : List Word) : Lehr :=
  xs.foldl (fun r x => (r.push x).1) { Lehr.new with win := w, op := op }

theorem pushedInto_snoc (op : RedOp) (w : Nat) (xs : List Word) (x : Word) :
    pushedInto op w (xs ++ [x]) = ((pushedInto op w xs).push x).1 := by
  rw [pushedInto, List.foldl_append]
  rfl

/-- Whatever has been pushed, the register holds the last values, split where the last flip left them (R65, R66). -/
theorem pushedInto_window (op : RedOp) {w : Nat} (hw : 0 < w) (xs : List Word) :
    (pushedInto op w xs).Window w op ((lastPushed op w xs).take (lehrSplit w xs.length))
      ((lastPushed op w xs).drop (lehrSplit w xs.length)) := by
  induction xs using List.reverseRecOn with
  | nil => exact ⟨rfl, rfl, by simp [lastPushed, pushedInto, Lehr.new, lehrFlip], by simp [lastPushed, pushedInto, Lehr.new],
      by simp [lastPushed, pushedInto, Lehr.new, leftNested]⟩
  | append_singleton xs x ih =>
    have hlen := length_lastPushed op w xs
    rw [pushedInto_snoc, List.length_append, List.length_singleton]
    by_cases hfull : w ≤ xs.length
    · rw [Nat.min_eq_right hfull] at hlen
      rw [lehrSplit_succ hw hfull, lastPushed_snoc_full op x hw hfull]
      cases hys : lastPushed op w xs with
      | nil => simp [hys] at hlen; omega
      | cons v vs =>
        rw [hys] at ih hlen
        have hvs : vs.length + 1 = w := by simpa using hlen
        cases hk : lehrSplit w xs.length with
        | zero =>
          rw [hk] at ih
          rw [if_pos rfl, List.tail_cons, List.take_left' (by omega), List.drop_left' (by omega)]
          exact ih.push_flip x rfl rfl hlen
        | succ j =>
          have hj : j + 1 < w := hk ▸ lehrSplit_lt hw
          rw [hk] at ih
          rw [if_neg (Nat.succ_ne_zero j), List.tail_cons, Nat.add_sub_cancel, List.take_append_of_le_length (by omega),
            List.drop_append_of_le_length (by omega)]
          exact ih.push_pop x rfl (by simp; omega)
    · have hsplit : lehrSplit w xs.length = 0 ∧ lehrSplit w (xs.length + 1) = 0 :=
        ⟨if_pos (by omega), if_pos (by omega)⟩
      rw [hsplit.1] at ih
      rw [hsplit.2, lastPushed_snoc_room op x (by omega)]
      exact ih.push_room x (by simp; omega)

/-! ### The issue of a lehr word -/

/-- A lehr word of registers that are not occupied has its effect in the open chunk (R67, R68). -/
theorem lehrIssue_of_free {i : Instr} {s : State} {e : Site} {lvl k : Nat} (h : Runs i s e) (hfree : LehrFree e lvl k)
    (body : Site → State → State) : lehrIssue i lvl k body s = body e (s.noted i e) := by
  have hany : (lehrKeys e lvl k).any (fun key => (e.b.lehr key).busy) = false :=
    List.any_eq_false.2 fun key hkey => by rw [hfree key hkey]; decide
  rw [lehrIssue, issue_of_runs _ h, hany]
  rfl

/-- Settles O36: the read of each active thread's own register, and what the pushes leave in a register. -/
theorem lehrReads : Obligations.LehrReads := by
  refine ⟨fun f s e h hfree => ?_, fun op w xs hw => ?_⟩
  · have hx : exec (.lehrread f) s = execLehrread f s := rfl
    rw [execLehrread, lehrIssue_of_free h hfree] at hx
    exact ⟨_, hx, State.finish_goes _ _ _ (fun th => by simp), State.finish_noted_only s _ e _ (State.site?_names h.1)⟩
  · have h := pushedInto_window op hw xs
    exact ⟨(congrArg _ h.front).trans (lehrFlip_values op _), h.back, h.read⟩

end Sys2Proof.Machine
end

section
/-! Rules for the words that write what the threads of a block share: what the threads keep, and what the block becomes. -/

namespace Sys2Proof.Machine

/-! ### Tables, and numbers that stand once in a list -/

theorem Tab.get_mapV {α : Type} (d : α) (t : Tab α) (f : Nat → α → α) (k : Nat) (hf : f k d = d) :
    Tab.get d (Tab.mapV t f) k = f k (Tab.get d t k) := by
  rw [Tab.get, Tab.get, Tab.find?_mapV]
  cases Tab.find? t k with
  | none => exact hf.symm
  | some v => rfl

section
variable {α β : Type} [DecidableEq β] (d : β) (key : α → Nat) (v : α → β → β)

/-- Sets in turn the entries that some items name. -/
def Tab.sets (t : Tab β) (xs : List α) : Tab β := xs.foldl (fun t x => Tab.set d t (key x) (v x (Tab.get d t (key x)))) t

/-- An entry that no item names is as before. -/
theorem Tab.get_sets_out (t : Tab β) {xs : List α} {k : Nat} (h : ∀ x ∈ xs, k ≠ key x) :
    Tab.get d (Tab.sets d key v t xs) k = Tab.get d t k := by
  induction xs generalizing t with
  | nil => rfl
  | cons x xs ih =>
    refine (ih _ fun y hy => h y (List.mem_cons_of_mem _ hy)).trans ?_
    exact Tab.get_set_ne _ _ _ (h x (List.mem_cons_self ..))

/-- When no two items name one entry, each has set its own. -/
theorem Tab.get_sets_in (t : Tab β) {xs : List α} (hn : (xs.map key).Nodup) {x : α} (hx : x ∈ xs) :
    Tab.get d (Tab.sets d key v t xs) (key x) = v x (Tab.get d t (key x)) := by
  induction xs generalizing t with
  | nil => cases hx
  | cons y xs ih =>
    obtain ⟨hy, hxs⟩ := List.nodup_cons.1 hn
    have hne : ∀ z ∈ xs, key y ≠ key z := fun z hz h => hy (h ▸ List.mem_map_of_mem hz)
    rcases List.mem_cons.1 hx with rfl | hmem
    · exact (Tab.get_sets_out d key v _ hne).trans (Tab.get_set_same ..)
    · refine (ih _ hxs hmem).trans ?_
      rw [Tab.get_set_ne _ _ _ (Ne.symm (hne x hmem))]

end

theorem nodup_addNew {old : List Nat} (new : List Nat) (h : old.Nodup) : (addNew old new).Nodup := by
  induction new generalizing old with
  | nil => exact h
  | cons n new ih =>
    refine ih ?_
    dsimp only
    split
    case isTrue => exact h
    case isFalse hc => exact List.nodup_cons.2 ⟨fun hm => hc (List.contains_iff_mem.2 hm), h⟩

/-! ### What the threads keep -/

/-- A thread apart from its reservation and the registers whose data failed. -/
def Thread.bare (th : Thread) : Thread := { th with resv := none, bad := [] }

theorem Thread.bare_cleared (th : Thread) (d : Operand) : (th.cleared d).bare = th.bare := by
  rw [Thread.cleared, apply_ite Thread.bare]
  exact ite_self _

@[simp] theorem or_fNone (x : FFlags) : x ||| fNone = x := BitVec.or_zero

@[simp] theorem fNone_or (x : FFlags) : fNone ||| x = x := BitVec.zero_or

@[simp] theorem Thread.flag_none (th : Thread) : th.flag fNone = th := by rw [Thread.flag, or_fNone]

theorem Thread.flag_flag (th : Thread) (x y : FFlags) : (th.flag x).flag y = th.flag (x ||| y) := by
  simp only [Thread.flag, BitVec.or_assoc]

/-- The threads of a block have raised flags by their ids and, reservations and failed registers apart, are as they were. -/
def Block.Flags (fl : Nat → FFlags) (b b' : Block) : Prop :=
  b'.threads.map Thread.bare = b.threads.map (fun th => (th.flag (fl th.ltid)).bare)

section
variable {b b' b'' : Block} {fl gl : Nat → FFlags}

theorem Block.Flags.of_bare (h : b'.threads.map Thread.bare = b.threads.map Thread.bare) :
    Block.Flags (fun _ => fNone) b b' := h.trans (by simp only [Thread.flag_none])

/-- Changes of reservations and failed registers raise no flag. -/
theorem Block.Flags.of_map {f : Thread → Thread} (h : b'.threads = b.threads.map f) (hf : ∀ th, (f th).bare = th.bare) :
    Block.Flags (fun _ => fNone) b b' := by
  refine of_bare ?_
  rw [h, List.map_map]
  exact List.map_congr_left fun th _ => hf th

theorem Block.Flags.trans (h : Block.Flags fl b b') (g : Block.Flags gl b' b'') :
    Block.Flags (fun l => fl l ||| gl l) b b'' :=
  calc b''.threads.map Thread.bare = b'.threads.map (fun th => (th.flag (gl th.ltid)).bare) := g
    _ = (b'.threads.map Thread.bare).map (fun th => th.flag (gl th.ltid)) := by rw [List.map_map]; rfl
    _ = (b.threads.map (fun th => (th.flag (fl th.ltid)).bare)).map (fun th => th.flag (gl th.ltid)) := by rw [h]
    _ = b.threads.map (fun th => ((th.flag (fl th.ltid)).flag (gl th.ltid)).bare) := List.map_map ..
    _ = b.threads.map (fun th => (th.flag (fl th.ltid ||| gl th.ltid)).bare) := by simp only [Thread.flag_flag]

/-- Some threads raise flags. -/
theorem Block.Flags.mapTids (b : Block) (ts : List Nat) (x : FFlags) :
    Block.Flags (fun l => if ts.contains l then x else fNone) b (b.mapTids ts (fun th => th.flag x)) := by
  refine (List.map_map ..).trans (List.map_congr_left fun th _ => ?_)
  dsimp only [Function.comp]
  split
  · rfl
  · rw [Thread.flag_none]

theorem Block.Flags.thread? (h : Block.Flags fl b b') (l : Nat) :
    (b'.thread? l).map Thread.bare = (b.thread? l).map (fun th => (th.flag (fl l)).bare) := by
  have hfind : (b'.thread? l).map Thread.bare = (b'.threads.map Thread.bare).find? (fun th => th.ltid == l) := by
    rw [List.find?_map]; rfl
  rw [hfind, h, List.find?_map]
  refine Option.map_congr fun th hth => ?_
  have hl : th.ltid = l := beq_iff_eq.1 (List.find?_some hth :)
  rw [hl]

end

/-- The active members of a site are members. -/
theorem State.site?_tids {s : State} {act : Thread → Bool} {e : Site} (h : s.site? act = some e) {l : Nat}
    (hl : e.tids.contains l = true) : (e.mem.map (fun m => m.ltid)).contains l = true := by
  obtain ⟨-, -, hact⟩ := State.site?_parts h
  rw [List.contains_iff_mem] at hl ⊢
  obtain ⟨th, hth, hid⟩ := List.mem_map.1 hl
  rw [hact] at hth
  exact List.mem_map.2 ⟨th, (List.mem_filter.1 hth).1, hid⟩

/-- A group whose threads have raised flags goes on, its active members raising more. -/
theorem GroupFlagged.of_finish {s u : State} {e : Site} {b b' : Block} {fl gl : Nat → FFlags}
    (hs : s.block? e.cur.core e.cur.slot = some b) (hu : u.block? e.cur.core e.cur.slot = some b') (h : Block.Flags fl b b')
    (hsub : ∀ l, e.tids.contains l = true → (e.mem.map (fun m => m.ltid)).contains l = true)
    (hgl : ∀ l, e.tids.contains l = false → gl l = fNone) :
    GroupFlagged s (u.finish e (fun th => (th.flag (gl th.ltid)).next)) e (fun l => fl l ||| gl l) := by
  intro l th hth
  rw [State.thread?, hs, Option.bind_some] at hth
  have hbare := h.thread? l
  rw [hth, Option.map_some] at hbare
  obtain ⟨th₁, hth₁, hb⟩ := Option.map_eq_some_iff.1 hbare
  have hu₁ : u.thread? e.cur.core e.cur.slot l = some th₁ := by rw [State.thread?, hu, Option.bind_some, hth₁]
  have hgo := State.finish_goes u e (fun th => (th.flag (gl th.ltid)).next) (fun _ => rfl) l
  obtain rfl : th₁.ltid = l := State.thread?_ltid hu₁
  rw [hu₁, Option.map_some] at hgo
  have hv : th₁.v = th.v := (congrArg Thread.v hb :)
  have hp : th₁.p = th.p := (congrArg Thread.p hb :)
  have hfrm : th₁.frm = th.frm := (congrArg Thread.frm hb :)
  have hfl : th₁.fflags = th.fflags ||| fl th₁.ltid := (congrArg Thread.fflags hb :)
  have hex : th₁.exited = th.exited := (congrArg Thread.exited hb :)
  have hpc : th₁.pc = th.pc := (congrArg Thread.pc hb :)
  have hor : th.fflags ||| (fl th₁.ltid ||| gl th₁.ltid) = th₁.fflags ||| gl th₁.ltid := by rw [hfl, BitVec.or_assoc]
  refine ⟨_, hgo, ?_⟩
  rw [hor, ← hv, ← hp, ← hfrm, ← hex, ← hpc]
  cases ha : e.tids.contains th₁.ltid with
  | true =>
    rw [hsub _ ha, Site.active, ha, if_pos rfl, if_pos rfl]
    exact ⟨rfl, rfl, rfl, rfl, rfl, rfl⟩
  | false =>
    have hnone : th₁.fflags ||| gl th₁.ltid = th₁.fflags := by rw [hgl _ ha, or_fNone]
    rw [Site.active, ha, hnone]
    split <;> exact ⟨rfl, rfl, rfl, rfl, rfl, rfl⟩

/-- A group whose threads have raised flags goes on. -/
theorem GroupFlagged.of_pass {s u : State} {e : Site} {b b' : Block} {fl : Nat → FFlags}
    (hs : s.block? e.cur.core e.cur.slot = some b) (hu : u.block? e.cur.core e.cur.slot = some b') (h : Block.Flags fl b b')
    (hsub : ∀ l, e.tids.contains l = true → (e.mem.map (fun m => m.ltid)).contains l = true) :
    GroupFlagged s (u.pass e) e fl := by
  have hg := GroupFlagged.of_finish hs hu (h.trans (Block.Flags.of_bare rfl)) hsub (gl := fun _ => fNone) (fun _ _ => rfl)
  simp only [Thread.flag_none, or_fNone] at hg
  exact hg

/-- A group that raises no flag has its registers as they were. -/
theorem GroupFlagged.advances {s t : State} {e : Site} (h : GroupFlagged s t e (fun _ => fNone)) : GroupAdvances s t e := by
  intro l th hth
  obtain ⟨th', ht, hv, hp, hfrm, hfl, hrest⟩ := h l th hth
  rw [or_fNone] at hfl
  exact ⟨th', ht, hv, hp, hfrm, hfl, hrest⟩

/-! ### What changes in the site's block -/

theorem Holds.trans_nil {s t u : State} {c : Nat} (h : Holds s t c []) (g : Holds t u c []) : Holds s u c [] := by
  rw [Holds, List.append_nil] at *
  exact g.trans h

theorem BlockGoes.of_apart {s t : State} {e : Site} {b b' : Block} (hs : s.block? e.cur.core e.cur.slot = some b)
    (ht : t.block? e.cur.core e.cur.slot = some b') {f : Block → Block} (h : b'.apart = (f b).apart) : BlockGoes s t e f := by
  rw [BlockGoes, hs, ht]
  exact congrArg some h

/-- From `s` to `t` the site's block has become `b'`, its threads raising flags, and nothing else has changed. -/
structure BlockStep (s t : State) (e : Site) (b b' : Block) (fl : Nat → FFlags) : Prop where
  before : s.block? e.cur.core e.cur.slot = some b
  after : t.block? e.cur.core e.cur.slot = some b'
  only : OnlyBlock s t e
  held : Holds s t e.cur.core []
  flags : Block.Flags fl b b'

section
variable {s t u : State} {e : Site} {b b' b'' : Block} {fl gl : Nat → FFlags}

theorem BlockStep.of_quiet (h : Quiet s t) (hb : s.block? e.cur.core e.cur.slot = some b) :
    BlockStep s t e b b (fun _ => fNone) := by
  obtain ⟨honly, -, hheld⟩ := h.only e
  exact ⟨hb, (h.block? _ _).trans hb, honly, hheld, Block.Flags.of_bare rfl⟩

theorem BlockStep.trans (h : BlockStep s t e b b' fl) (g : BlockStep t u e b' b'' gl) :
    BlockStep s u e b b'' (fun l => fl l ||| gl l) :=
  ⟨h.before, g.after, h.only.trans g.only, h.held.trans_nil g.held, h.flags.trans g.flags⟩

theorem BlockStep.updBlock (hb : s.block? e.cur.core e.cur.slot = some b) {f : Block → Block} (hf : Block.Flags fl b (f b)) :
    BlockStep s (s.updBlock e.cur.core e.cur.slot f) e b (f b) fl :=
  ⟨hb, by rw [State.block?_updBlock, hb]; rfl, OnlyBlock.updBlock _ _ _,
    by rw [Holds, State.chunk_updBlock, List.append_nil], hf⟩

/-- The group goes on after a change of its block, which keeps what it has become, threads apart. -/
theorem BlockStep.finish (h : BlockStep s u e b b' fl) (f : Thread → Thread) : ∃ b'',
    (u.finish e f).block? e.cur.core e.cur.slot = some b'' ∧ b''.apart = b'.apart
      ∧ OnlyBlock s (u.finish e f) e ∧ Holds s (u.finish e f) e.cur.core [] := by
  have hg := State.finish_only u e f
  obtain ⟨b'', hb'', hap⟩ := hg.block h.after
  obtain ⟨honly, -, hheld⟩ := hg
  exact ⟨b'', hb'', hap, h.only.trans honly, h.held.trans_nil hheld⟩

end

end Sys2Proof.Machine
end

section
/-! Proof of O35: LEHRW, LEHRCLR, LEHRPUSH and the end of an occupancy change exactly their registers (R62-R68, R268, R340). -/

namespace Sys2Proof.Machine

/-! ### The frame of a lehr word -/

/-- The group goes on after a change of its block's lehr registers (R268). -/
theorem BlockStep.lehrs {s u : State} {e : Site} {b' : Block} {fl : Nat → FFlags} (h : BlockStep s u e e.b b' fl)
    (ha : b'.apart = ({ e.b with lehrs := b'.lehrs } : Block).apart) (f : Thread → Thread) : ∃ b'',
    (u.finish e f).block? e.cur.core e.cur.slot = some b'' ∧ b''.lehrs = b'.lehrs ∧ OnlyLehrs s (u.finish e f) e b'' := by
  obtain ⟨b'', hb'', hap, honly, hheld⟩ := h.finish f
  have hl : b''.lehrs = b'.lehrs := (congrArg Block.lehrs hap :)
  exact ⟨b'', hb'', hl, honly, hheld, BlockGoes.of_apart h.before hb'' (by rw [hl]; exact hap.trans ha)⟩

/-! ### LEHRW and LEHRCLR -/

/-- The block whose registers that a group reaches are set anew (R63, R388). -/
def Site.mapsLehr (e : Site) (lvl k : Nat) (f : Lehr → Lehr) (b : Block) : Block := { b with
  lehrs := Tab.sets Lehr.new id (fun _ => f) b.lehrs (lehrKeys e lvl k)
  threads := b.threads.map (fun th => if !th.bad.isEmpty && (lehrKeys e lvl k).contains (lehrKey e lvl k th)
    then { th with bad := th.bad.filter (fun x => x != lehrMark lvl k) } else th) }

theorem lehrKeys_nodup (e : Site) (lvl k : Nat) : (lehrKeys e lvl k).Nodup :=
  List.nodup_reverse.2 (nodup_addNew _ List.nodup_nil)

theorem Site.mapsLehr_lehr (e : Site) (lvl k : Nat) (f : Lehr → Lehr) (b : Block) (key : Nat) :
    (e.mapsLehr lvl k f b).lehr key = if key ∈ lehrKeys e lvl k then f (b.lehr key) else b.lehr key := by
  split
  case isTrue h => exact Tab.get_sets_in Lehr.new id (fun _ => f) b.lehrs (by simpa using lehrKeys_nodup e lvl k) h
  case isFalse h => exact Tab.get_sets_out Lehr.new id (fun _ => f) b.lehrs fun x hx hk => h (hk ▸ hx)

theorem BlockStep.mapLehr {s : State} {e : Site} {b : Block} (hb : s.block? e.cur.core e.cur.slot = some b) (lvl k : Nat)
    (f : Lehr → Lehr) : BlockStep s (s.mapLehr e lvl k f) e b (e.mapsLehr lvl k f b) (fun _ => fNone) := by
  refine BlockStep.updBlock (f := e.mapsLehr lvl k f) hb (Block.Flags.of_map rfl fun th => ?_)
  split <;> rfl

section
variable {i : Instr} {s : State} {e : Site} {lvl k : Nat}

/-- A word that sets its registers anew changes exactly them (R62, R63, R268). -/
theorem lehr_maps (f : Lehr → Lehr)
    (hx : exec i s = .next (lehrIssue i lvl k (fun e s => (s.mapLehr e lvl k f).pass e) s)) (h : Runs i s e)
    (hfree : LehrFree e lvl k) :
    ∃ (t : State) (b' : Block), Completes i s t ∧ ((s.launchOf e.b).race = false →
      t.block? e.cur.core e.cur.slot = some b' ∧ GroupAdvances s t e ∧ OnlyLehrs s t e b'
      ∧ ∀ key, b'.lehr key = if key ∈ lehrKeys e lvl k then f (e.b.lehr key) else e.b.lehr key) := by
  have hb : e.names s := State.site?_names h.1
  rw [lehrIssue_of_free h hfree] at hx
  refine ⟨_, (State.block? (((s.noted i e).mapLehr e lvl k f).pass e) e.cur.core e.cur.slot).getD e.b, hx, fun hr => ?_⟩
  have q := Quiet.noted s i e hb hr
  have hstep := (BlockStep.of_quiet q hb).trans (BlockStep.mapLehr ((q.block? _ _).trans hb) lvl k f)
  obtain ⟨b', hb', hl, honly⟩ := hstep.lehrs rfl Thread.next
  have hadv := (GroupFlagged.of_pass hstep.before hstep.after hstep.flags fun _ => State.site?_tids h.1).advances
  rw [State.pass, hb', Option.getD_some]
  refine ⟨rfl, hadv, honly, fun key => ?_⟩
  rw [Block.lehr, hl]
  exact e.mapsLehr_lehr lvl k f e.b key

end

/-! ### LEHRPUSH -/

section
variable (key : Thread → Nat) (val : RedOp → Thread → Word) (regs : Tab Lehr)

/-- The push of one more thread (R65). -/
theorem lehrPushes_snoc (ths : List Thread) (th : Thread) : lehrPushes key val (ths ++ [th]) regs =
    let acc := lehrPushes key val ths regs
    let reg := Tab.get Lehr.new acc.1 (key th)
    let r := reg.push (val reg.op th)
    (Tab.set Lehr.new acc.1 (key th) { r.1 with busy := true }, acc.2.1 + r.2.1, acc.2.2 ++ [(th.ltid, r.2.2)]) := by
  rw [lehrPushes, List.foldl_append]
  rfl

theorem pushAll_snoc (ths : List Thread) (th : Thread) (r : Lehr) : pushAll val (ths ++ [th]) r
    = { ((pushAll val ths r).push (val (pushAll val ths r).op th)).1 with busy := true } := by
  rw [pushAll, List.foldl_append]
  rfl

/-- Each register receives the pushes of its own threads, in their order (R62, R65). -/
theorem lehrPushes_regs (ths : List Thread) (k : Nat) : Tab.get Lehr.new (lehrPushes key val ths regs).1 k
    = pushAll val (ths.filter (fun th => key th == k)) (Tab.get Lehr.new regs k) := by
  induction ths using List.reverseRecOn with
  | nil => rfl
  | append_singleton ths th ih =>
    rw [lehrPushes_snoc, List.filter_append]
    by_cases hk : key th = k
    · subst hk
      rw [List.filter_cons_of_pos (by simp), List.filter_nil, pushAll_snoc, ← ih]
      exact Tab.get_set_same ..
    · rw [List.filter_cons_of_neg (by simpa using hk), List.filter_nil, List.append_nil, ← ih]
      exact Tab.get_set_ne _ _ _ (Ne.symm hk)

theorem lehrPushes_ltids (ths : List Thread) :
    (lehrPushes key val ths regs).2.2.map (fun p => p.1) = ths.map (fun th => th.ltid) := by
  induction ths using List.reverseRecOn with
  | nil => rfl
  | append_singleton ths th ih => rw [lehrPushes_snoc, List.map_append, List.map_append, ih]; rfl

theorem flagsOf_of_not_mem {fs : List (Nat × FFlags)} {l : Nat} (h : l ∉ fs.map (fun p => p.1)) : flagsOf fs l = fNone := by
  have hf : fs.find? (fun p => p.1 == l) = none :=
    List.find?_eq_none.2 fun p hp hl => h (List.mem_map.2 ⟨p, hp, by simpa using hl⟩)
  rw [flagsOf, hf]
  rfl

theorem flagsOf_append_left {fs : List (Nat × FFlags)} {l : Nat} (h : l ∈ fs.map (fun p => p.1)) (gs : List (Nat × FFlags)) :
    flagsOf (fs ++ gs) l = flagsOf fs l := by
  obtain ⟨p, hp, hl⟩ := List.mem_map.1 h
  have hs : (fs.find? (fun p => p.1 == l)).isSome := List.find?_isSome.2 ⟨p, hp, by simpa using hl⟩
  rw [flagsOf, flagsOf, List.find?_append, Option.or_of_isSome hs]

theorem flagsOf_append_right {fs : List (Nat × FFlags)} {l : Nat} (h : l ∉ fs.map (fun p => p.1)) (fl : FFlags) :
    flagsOf (fs ++ [(l, fl)]) l = fl := by
  have hf : fs.find? (fun p => p.1 == l) = none :=
    List.find?_eq_none.2 fun p hp hl => h (List.mem_map.2 ⟨p, hp, by simpa using hl⟩)
  rw [flagsOf, List.find?_append, hf]
  simp

/-- A thread's flags are those of its own push, after the pushes of the threads before it (R65). -/
theorem lehrPushes_flags (pre : List Thread) (th : Thread) (post : List Thread)
    (hn : ((pre ++ th :: post).map (fun th => th.ltid)).Nodup) :
    let r := pushAll val (pre.filter (fun t => key t == key th)) (Tab.get Lehr.new regs (key th))
    flagsOf (lehrPushes key val (pre ++ th :: post) regs).2.2 th.ltid = (r.push (val r.op th)).2.2 := by
  intro r
  induction post using List.reverseRecOn with
  | nil =>
    have hout : th.ltid ∉ (lehrPushes key val pre regs).2.2.map (fun p => p.1) := by
      rw [lehrPushes_ltids]
      rw [List.map_append, List.map_cons, List.nodup_middle] at hn
      simpa using (List.nodup_cons.1 hn).1
    rw [lehrPushes_snoc]
    refine (flagsOf_append_right hout _).trans ?_
    rw [lehrPushes_regs]
  | append_singleton post th' ih =>
    rw [← List.cons_append, ← List.append_assoc] at hn ⊢
    rw [lehrPushes_snoc]
    refine (flagsOf_append_left ?_ _).trans (ih (List.Nodup.of_append_left (List.map_append ▸ hn)))
    rw [lehrPushes_ltids]
    simp

end

section
variable {f : LehrF} {s : State} {e : Site}

/-- What the pushes of a group make of the registers of its block, and their flags. -/
def Site.pushes (e : Site) (f : LehrF) (s : State) : Tab Lehr × Nat × List (Nat × FFlags) :=
  lehrPushes (lehrKey e f.lvl.toNat f.k.toNat) (fun op th => redSrc op s e th f.o) e.act e.b.lehrs

/-- The state in which the group has pushed and gone on. -/
def lehrPushed (f : LehrF) (e : Site) (s : State) : State :=
  (s.updBlock e.cur.core e.cur.slot (fun b => { b with lehrs := (e.pushes f s).1 })).finish e
    (fun th => (th.flag (flagsOf (e.pushes f s).2.2 th.ltid)).next)

theorem exec_lehrpush_of_free (h : Runs (.lehrpush f) s e) (hfree : LehrFree e f.lvl.toNat f.k.toNat) :
    Completes (.lehrpush f) s ((lehrPushed f e (s.noted (.lehrpush f) e)).count e.cur.core 5
      (e.pushes f (s.noted (.lehrpush f) e)).2.1) := by
  have hx : exec (.lehrpush f) s = execLehrpush f s := rfl
  rw [Completes, hx, execLehrpush, lehrIssue_of_free h hfree]
  rfl

theorem OnlyLehrs.quiet {s t u : State} {e : Site} {b : Block} (h : OnlyLehrs s t e b) (q : Quiet t u) : OnlyLehrs s u e b := by
  obtain ⟨honly, hheld, hblock⟩ := h
  obtain ⟨qonly, -, qheld⟩ := q.only e
  exact ⟨honly.trans qonly, hheld.trans_nil qheld, by rw [BlockGoes, q.block?]; exact hblock⟩

theorem GroupFlagged.quiet {s t u : State} {e : Site} {fl : Nat → FFlags} (h : GroupFlagged s t e fl) (q : Quiet t u) :
    GroupFlagged s u e fl := fun l th hth => by rw [q.thread?]; exact h l th hth

/-- LEHRPUSH pushes the values of its active threads, in ascending logical thread id (R65, R67, R268). -/
theorem lehrpush_pushes (h : Runs (.lehrpush f) s e) (hfree : LehrFree e f.lvl.toNat f.k.toNat) :
    ∃ (t : State) (b' : Block) (fl : Nat → FFlags), Completes (.lehrpush f) s t ∧ ((s.launchOf e.b).race = false →
      (e.b.threads.map (fun th => th.ltid)).Pairwise (· < ·) →
      let s1 := s.noted (.lehrpush f) e
      let val := fun op th => redSrc op s1 e th f.o
      let near := fun key (ths : List Thread) => ths.filter (fun th => lehrKey e f.lvl.toNat f.k.toNat th == key)
      t.block? e.cur.core e.cur.slot = some b' ∧ (e.act.map (fun th => th.ltid)).Pairwise (· < ·)
      ∧ (∀ key, b'.lehr key = pushAll val (near key e.act) (e.b.lehr key))
      ∧ GroupFlagged s t e fl ∧ (∀ l, e.tids.contains l = false → fl l = fNone)
      ∧ (∀ pre th post, e.act = pre ++ th :: post →
        let key := lehrKey e f.lvl.toNat f.k.toNat th
        let r := pushAll val (near key pre) (e.b.lehr key)
        fl th.ltid = (r.push (val r.op th)).2.2)
      ∧ OnlyLehrs s t e b') := by
  have hb : e.names s := State.site?_names h.1
  obtain ⟨s₁, hs₁⟩ : ∃ s₁, s₁ = s.noted (.lehrpush f) e := ⟨_, rfl⟩
  have hx := exec_lehrpush_of_free h hfree
  rw [← hs₁] at hx ⊢
  have qc := Quiet.count (lehrPushed f e s₁) e.cur.core 5 (e.pushes f s₁).2.1
  refine ⟨_, ((lehrPushed f e s₁).block? e.cur.core e.cur.slot).getD e.b, flagsOf (e.pushes f s₁).2.2, hx, fun hr hp => ?_⟩
  intro val near
  have hact : (e.act.map (fun th => th.ltid)).Pairwise (· < ·) := by
    obtain ⟨-, hmem, hact⟩ := State.site?_parts h.1
    rw [hact, hmem, members]
    exact hp.sublist ((List.filter_sublist.trans List.filter_sublist).map _)
  have hout : ∀ l, e.tids.contains l = false → flagsOf (e.pushes f s₁).2.2 l = fNone := fun l hl =>
    flagsOf_of_not_mem (by rw [Site.pushes, lehrPushes_ltids]; simpa [Site.tids] using hl)
  have q : Quiet s s₁ := by rw [hs₁]; exact Quiet.noted s _ e hb hr
  have hstep := (BlockStep.of_quiet q hb).trans (BlockStep.updBlock ((q.block? _ _).trans hb)
    (f := fun b => { b with lehrs := (e.pushes f s₁).1 }) (Block.Flags.of_bare rfl))
  obtain ⟨b', hb', hl, honly⟩ := hstep.lehrs rfl (fun th => (th.flag (flagsOf (e.pushes f s₁).2.2 th.ltid)).next)
  have hflags := GroupFlagged.of_finish hstep.before hstep.after hstep.flags (fun _ => State.site?_tids h.1) hout
  rw [qc.block?, show (lehrPushed f e s₁).block? e.cur.core e.cur.slot = some b' from hb', Option.getD_some]
  refine ⟨rfl, hact, fun key => ?_, ?_, hout, fun pre th post hpre => ?_, honly.quiet qc⟩
  · rw [Block.lehr, hl]
    exact lehrPushes_regs ..
  · simp only [fNone_or] at hflags
    exact GroupFlagged.quiet hflags qc
  · rw [Site.pushes, hpre]
    exact lehrPushes_flags _ _ _ pre th post (hpre ▸ hact.imp (fun h => Nat.ne_of_lt h))

end

/-! ### The end of an occupancy -/

/-- A register of a block after the end of the occupancy of the register `k` (R67). -/
def Lehr.freed (k key : Nat) (r : Lehr) : Lehr := if key = k then { r with busy := false } else r

/-- A block in which the occupancy of one register has ended (R67). -/
def Block.endsOccupancy (k : Nat) (b : Block) : Block := { b with lehrs := Tab.mapV b.lehrs (Lehr.freed k) }

theorem Block.endsOccupancy_lehr (k : Nat) (b : Block) (key : Nat) :
    (b.endsOccupancy k).lehr key = (b.lehr key).freed k key :=
  Tab.get_mapV Lehr.new b.lehrs (Lehr.freed k) key (ite_self _)

/-- What a change that a squash does not undo leaves of the blocks. -/
theorem State.block?_updBoth (s : State) (c d sl : Nat) (f : CoreArch → CoreArch) :
    (s.updBoth c f).block? d sl = (s.updArch c f).block? d sl := by
  by_cases hd : d = c
  · rw [hd, State.block?, State.block?, State.updBoth, State.core_updCore, State.core_updArch]
  · rw [State.block?_updBoth_ne _ _ hd, State.block?, State.block?, State.core_updArch_ne _ _ hd]

end Sys2Proof.Machine

namespace Sys2Proof
open Machine

/-- Settles O35: the first two words set registers anew, LEHRPUSH pushes in turn, and an occupancy ends in one register. -/
theorem lehrWords : Obligations.LehrWords := by
  refine ⟨fun f s e h hfree => lehr_maps _ rfl h hfree, fun f s e h hfree => lehr_maps Lehr.clear rfl h hfree,
    fun f s e h hfree => lehrpush_pushes h hfree, fun c sl lvl node k s b hb => ?_⟩
  refine ⟨s.updBlockBoth c sl (Block.endsOccupancy (nodeKey lvl node k)), b.endsOccupancy (nodeKey lvl node k),
    rfl, ?_, rfl, b.endsOccupancy_lehr _, fun c' sl' hne => ?_, rfl, rfl, rfl, rfl, rfl⟩
  · rw [State.updBlockBoth, State.block?_updBoth]
    exact (State.block?_updBlock s c sl _).trans (congrArg _ hb)
  · rw [State.updBlockBoth, State.block?_updBoth]
    exact State.block?_updBlock_ne s _ hne

end Sys2Proof
end

section
/-! Proof of O15, first part: MOV to a scoped register of a level of the block (R54-R56, R60, R205). -/

namespace Sys2Proof.Machine

/-! ### The issue of a MOV -/

section
variable {f : MovF} {s : State} {e : Site}

/-- A MOV to another destination than a scoped register changes each active member by itself (R205). -/
theorem exec_mov_of_local (hd : ∀ l i, f.d ≠ .scoped l i) (s : State) :
    exec (.mov f) s = .next (issue (.mov f) (simple (.mov f) (fun s e th => putD f.d (movSrc s e th f) th)) s) := by
  have hx : exec (.mov f) s = execMov f s := rfl
  rw [hx, execMov]
  cases h : f.d
  case lane | const | special | pred => rfl
  next l i => exact absurd h (hd l i)

theorem exec_mov_of_scoped {l : BitVec 4} {i : BitVec 5} (hd : f.d = .scoped l i) (h : Runs (.mov f) s e) :
    exec (.mov f) s = .next (movUp f l.toNat i.toNat e s) := by
  have hx : exec (.mov f) s = execMov f s := rfl
  rw [hx, execMov, issue_of_runs _ h, hd]

/-- Threads of one node that disagree in a plain upward write take SWRITE (R56). -/
theorem movUp_of_disagree {l : Nat} (i : Nat) (hrd : f.rd = false) {n : Nat × List (Thread × Word)}
    {ns : List (Nat × List (Thread × Word))}
    (hbad : (movNodes s e f l).filter (fun n => !(disagreeing n.2).isEmpty) = n :: ns) :
    movUp f l i e s = s.takeFault e.cur 5 0 (laneMask ((n :: ns).flatMap (fun n => disagreeing n.2)))
      ((n.2.head?.map (fun v => v.2)).getD 0) := by
  rw [movNodes] at hbad
  rw [movUp, hrd]
  simp only [Bool.false_eq_true, if_false, hbad]
  rfl

/-- With agreement in every node, and stores that fit, each node's register is written, and the group goes on (R55, R61). -/
theorem movUp_of_agree {l i : Nat} (hag : f.rd = true ∨ ∀ n ∈ movNodes s e f l, disagreeing n.2 = [])
    (herr : f.acc = true → scopedErr s e f.d = none) (hfit : storesFit s e (movCells s e f l i) = true) :
    movUp f l i e s
      = ((movNodes s e f l).foldl (fun s n => s.movNode e f l i n) ((s.acts e).noteSources e [f.a])).pass e := by
  have hbad : (if f.rd then [] else (movNodes s e f l).filter (fun n => !(disagreeing n.2).isEmpty)) = [] := by
    rcases hag with hrd | hno
    · rw [hrd, if_pos rfl]
    · rw [List.filter_eq_nil_iff.2 fun n hn => by simp [hno n hn], ite_self]
  have hgood : (if f.acc then scopedErr s e f.d else none) = none := by
    split
    · next h => exact herr h
    · rfl
  rw [movNodes] at hbad
  rw [movUp, hbad, hgood]
  simp only [State.storing, hfit, if_true]
  rfl

end

/-- The notes of some sources are quiet while the launch is not checked for races (R162). -/
theorem Quiet.notes {s : State} {e : Site} (hb : e.names s) (hr : (s.launchOf e.b).race = false) (os : List Operand) :
    Quiet s ((s.acts e).noteSources e os) := by
  have q := Quiet.acts s e
  exact q.trans (Quiet.noteSrcs _ _ _ _ ((q.block? _ _).trans hb) (by rw [q.launchOf]; exact hr))

/-! ### The nodes of a group -/

theorem addNew_of_subset {old new : List Nat} (h : ∀ a ∈ new, a ∈ old) : addNew old new = old := by
  induction new with
  | nil => rfl
  | cons n new ih =>
    rw [addNew, List.foldl_cons, if_pos (List.contains_iff_mem.2 (h n (List.mem_cons_self ..)))]
    exact ih fun a ha => h a (List.mem_cons_of_mem _ ha)

/-- The node that a thread writes at a level (R55). -/
def Site.nodeAt (e : Site) (l : Nat) (th : Thread) : Nat :=
  if l ≤ e.t.blockLvl then e.node th l else e.t.highNode l e.b.lin

theorem Site.byNode_eq (e : Site) (l : Nat) (vs : List (Thread × Word)) : e.byNode l vs
    = (addNew [] (vs.map (fun v => e.nodeAt l v.1))).reverse.map (fun n => (n, vs.filter (fun v => e.nodeAt l v.1 == n))) := rfl

theorem Site.byNode_nodup (e : Site) (l : Nat) (vs : List (Thread × Word)) : ((e.byNode l vs).map (fun n => n.1)).Nodup := by
  rw [Site.byNode_eq, List.map_map]
  exact (List.map_id _).symm ▸ List.nodup_reverse.2 (nodup_addNew _ List.nodup_nil)

/-- The threads of a node stand below it. -/
theorem Site.byNode_thread {e : Site} {l : Nat} {vs : List (Thread × Word)} {n : Nat × List (Thread × Word)}
    (hn : n ∈ e.byNode l vs) {v : Thread × Word} (hv : v ∈ n.2) : e.nodeAt l v.1 = n.1 := by
  rw [Site.byNode_eq] at hn
  obtain ⟨k, -, rfl⟩ := List.mem_map.1 hn
  exact beq_iff_eq.1 (List.mem_filter.1 hv).2

/-- Above the block all threads stand below one node. -/
theorem Site.byNode_high (e : Site) {l : Nat} (hl : e.t.blockLvl < l) {vs : List (Thread × Word)} (hne : vs ≠ []) :
    e.byNode l vs = [(e.t.highNode l e.b.lin, vs)] := by
  have hnode : ∀ th, e.nodeAt l th = e.t.highNode l e.b.lin := fun th => if_neg (Nat.not_le.2 hl)
  cases vs with
  | nil => exact absurd rfl hne
  | cons v vs =>
    have hadd : addNew [] ((v :: vs).map (fun v => e.nodeAt l v.1)) = [e.t.highNode l e.b.lin] := by
      rw [List.map_cons, hnode]
      refine addNew_of_subset (old := [e.t.highNode l e.b.lin]) fun a ha => ?_
      obtain ⟨w, -, rfl⟩ := List.mem_map.1 ha
      rw [hnode, List.mem_singleton]
    rw [Site.byNode_eq, hadd]
    simp [hnode]

/-- The ids of the threads of a node. -/
def nodeIds (n : Nat × List (Thread × Word)) : List Nat := n.2.map (fun v => v.1.ltid)

theorem nodeIds_contains (n : Nat × List (Thread × Word)) (l : Nat) :
    (nodeIds n).contains l = n.2.any (fun v => v.1.ltid == l) := by
  rw [Bool.eq_iff_iff]
  simp [nodeIds]

/-- A thread of the block writes one node of a level of the block. -/
theorem Site.byNode_apart {e : Site} {l : Nat} (hl : l ≤ e.t.blockLvl) (vs : List (Thread × Word)) :
    (e.byNode l vs).Pairwise (fun m n => ∀ lt, (nodeIds m).contains lt = true → (nodeIds n).contains lt = false) := by
  refine (List.pairwise_map.1 (e.byNode_nodup l vs)).imp_of_mem fun {m n} hm hn hne lt hlt => ?_
  rw [← Bool.not_eq_true]
  intro hlt'
  have hnode : ∀ {k}, k ∈ e.byNode l vs → (nodeIds k).contains lt = true → k.1 = lt / max 1 (e.t.per l) := by
    intro k hk hc
    obtain ⟨v, hv, rfl⟩ := List.mem_map.1 (List.contains_iff_mem.1 hc)
    exact (Site.byNode_thread hk hv).symm.trans (if_pos hl)
  exact hne ((hnode hm hlt).trans (hnode hn hlt').symm)

theorem nodeFlags_of_none {ns : List (Nat × List (Thread × Word))} (fl : Nat × List (Thread × Word) → FFlags) {l : Nat}
    (h : ∀ n ∈ ns, (nodeIds n).contains l = false) : nodeFlags ns fl l = fNone := by
  have hf : ns.find? (fun n => n.2.any (fun v => v.1.ltid == l)) = none :=
    List.find?_eq_none.2 fun n hn => by rw [← nodeIds_contains, h n hn]; decide
  rw [nodeFlags, hf]
  rfl

/-- A thread raises the flags of its own node only. -/
theorem nodeFlags_cons {n : Nat × List (Thread × Word)} {ns : List (Nat × List (Thread × Word))}
    (fl : Nat × List (Thread × Word) → FFlags) (l : Nat)
    (h : (nodeIds n).contains l = true → ∀ m ∈ ns, (nodeIds m).contains l = false) :
    nodeFlags (n :: ns) fl l = (if (nodeIds n).contains l then fl n else fNone) ||| nodeFlags ns fl l := by
  cases hc : (nodeIds n).contains l with
  | true =>
    rw [if_pos rfl, nodeFlags_of_none fl (h hc), or_fNone, nodeFlags, List.find?_cons_of_pos (by rw [← nodeIds_contains, hc])]
    rfl
  | false =>
    rw [if_neg Bool.false_ne_true, fNone_or, nodeFlags, List.find?_cons_of_neg (by rw [← nodeIds_contains, hc]; decide)]
    rfl

/-! ### A write in the block -/

/-- The block after a write of a scoped register of one of its nodes (R55, R388). -/
def Site.putsNode (e : Site) (l i node : Nat) (w : Word) (b : Block) : Block := { b with
  nregs := Tab.set 0 b.nregs (nodeKey l node i) w
  threads := b.threads.map (fun th => if e.node th l == node
    then th.cleared (.scoped (BitVec.ofNat 4 l) (BitVec.ofNat 5 i)) else th) }

section
variable {f : MovF} {s : State} {e : Site} {l i : Nat}

theorem putScoped_in_block (hl : l ≤ e.t.blockLvl) (s : State) (who : List Nat) (node : Nat) (w : Word) :
    s.putScoped e who l i node w = s.updBlock e.cur.core e.cur.slot (e.putsNode l i node w) := if_pos hl

/-- What a write to a node's register in the block gives, from the block as the word found it. -/
def Site.givesNode (e : Site) (f : MovF) (l i : Nat) (n : Nat × List (Thread × Word)) : WRes :=
  movGives e f l n.2 (Tab.get 0 e.b.nregs (nodeKey l n.1 i))

/-- The traces of a write in the block are those of the order-stamp unit (R60, R163). -/
theorem noteScoped_in_block {b : Block} (hb : s.block? e.cur.core e.cur.slot = some b) (hr : (s.launchOf b).race = false)
    (hl : l ≤ e.t.blockLvl) (th : Thread) (w t : Bool) : s.noteScoped e th l i w t = s := by
  rw [State.noteScoped, if_pos hl]
  split
  · exact State.stamp_off _ _ _ _ _ _ _ _ _ _ hb hr
  · rfl

/-- The write of one node's register in the block, and the flags of its threads (R55). -/
theorem movNode_in_block {b : Block} (hb : s.block? e.cur.core e.cur.slot = some b) (hr : (s.launchOf b).race = false)
    (hl : l ≤ e.t.blockLvl) (n : Nat × List (Thread × Word)) : s.movNode e f l i n =
    let t := s.updBlock e.cur.core e.cur.slot (e.putsNode l i n.1 (e.givesNode f l i n).1)
    if f.rd then t.mapTids e.cur.core e.cur.slot (nodeIds n) (fun th => th.flag (e.givesNode f l i n).2) else t := by
  have hnotes : n.2.foldl (fun s v => s.noteScoped e v.1 l i true true) s = s :=
    List.foldl_fixed' (fun v => noteScoped_in_block hb hr hl v.1 true true) n.2
  have hold : ∀ s, scopedOld s e l i n.1 = Tab.get 0 e.b.nregs (nodeKey l n.1 i) := fun s => if_pos hl
  rw [State.movNode, hnotes]
  simp only [putScoped_in_block hl, hold, Nat.not_lt.2 hl, decide_false, Bool.and_false, Bool.false_eq_true, if_false,
    Site.givesNode, movGives]
  cases f.rd with
  | false => rfl
  | true =>
    cases f.acc with
    | false => rfl
    | true => cases homeKey (s.launchOf e.b) e.b.lin l i <;> rfl

theorem BlockStep.mapTids {b : Block} (hb : s.block? e.cur.core e.cur.slot = some b) (ts : List Nat) (x : FFlags) :
    BlockStep s (s.mapTids e.cur.core e.cur.slot ts (fun th => th.flag x)) e b (b.mapTids ts (fun th => th.flag x))
      (fun l => if ts.contains l then x else fNone) :=
  BlockStep.updBlock hb (Block.Flags.mapTids b ts x)

/-- The write of one node's register, as a step of the block. -/
theorem BlockStep.movNode {b : Block} (hb : s.block? e.cur.core e.cur.slot = some b) (hr : (s.launchOf b).race = false)
    (hl : l ≤ e.t.blockLvl) (n : Nat × List (Thread × Word)) : ∃ b', BlockStep s (s.movNode e f l i n) e b b'
        (fun lt => if (nodeIds n).contains lt then (e.givesNode f l i n).2 else fNone)
      ∧ b'.apart = ({ b with nregs := Tab.set 0 b.nregs (nodeKey l n.1 i) (e.givesNode f l i n).1 } : Block).apart := by
  have hput := BlockStep.updBlock (e := e) (f := e.putsNode l i n.1 (e.givesNode f l i n).1) hb
    (Block.Flags.of_map rfl fun th => by
      split
      · exact Thread.bare_cleared _ _
      · rfl)
  rw [movNode_in_block hb hr hl n]
  dsimp only
  cases hrd : f.rd with
  | true =>
    have h := hput.trans (BlockStep.mapTids hput.after (nodeIds n) (e.givesNode f l i n).2)
    simp only [fNone_or] at h
    exact ⟨_, h, rfl⟩
  | false =>
    have hg : (e.givesNode f l i n).2 = fNone := by rw [Site.givesNode, movGives, hrd]; rfl
    rw [if_neg Bool.false_ne_true]
    exact ⟨e.putsNode l i n.1 (e.givesNode f l i n).1 b, by simpa only [hg, ite_self] using hput, rfl⟩

/-- The writes of the registers of several nodes in the block (R55). -/
theorem BlockStep.movNodes {ns : List (Nat × List (Thread × Word))} {b : Block}
    (hb : s.block? e.cur.core e.cur.slot = some b) (hr : (s.launchOf b).race = false) (hl : l ≤ e.t.blockLvl)
    (hns : ns.Pairwise (fun m n => ∀ lt, (nodeIds m).contains lt = true → (nodeIds n).contains lt = false)) :
    ∃ b', BlockStep s (ns.foldl (fun s n => s.movNode e f l i n) s) e b b' (nodeFlags ns (fun n => (e.givesNode f l i n).2))
      ∧ b'.apart = ({ b with nregs := Tab.sets 0 (fun n => nodeKey l n.1 i) (fun n _ => (e.givesNode f l i n).1) b.nregs ns } :
        Block).apart := by
  induction ns generalizing s b with
  | nil => exact ⟨b, BlockStep.of_quiet (Quiet.refl s) hb, rfl⟩
  | cons n ns ih =>
    obtain ⟨hn, hns⟩ := List.pairwise_cons.1 hns
    obtain ⟨b₁, h₁, ha₁⟩ := BlockStep.movNode (f := f) (i := i) hb hr hl n
    have hr₁ : ((s.movNode e f l i n).launchOf b₁).race = false := by
      have hlaunch : b₁.launch = b.launch := (congrArg Block.launch ha₁ :)
      obtain ⟨-, -, -, -, -, hls, -⟩ := h₁.only
      rwa [State.launchOf, State.launch?, hls, hlaunch]
    obtain ⟨b₂, h₂, ha₂⟩ := ih h₁.after hr₁ hns
    have hfl : nodeFlags (n :: ns) (fun n => (e.givesNode f l i n).2) = fun lt =>
        (if (nodeIds n).contains lt then (e.givesNode f l i n).2 else fNone)
          ||| nodeFlags ns (fun n => (e.givesNode f l i n).2) lt :=
      funext fun lt => nodeFlags_cons _ lt fun hc m hm => hn m hm lt hc
    have hregs : b₁.nregs = Tab.set 0 b.nregs (nodeKey l n.1 i) (e.givesNode f l i n).1 := (congrArg Block.nregs ha₁ :)
    refine ⟨b₂, hfl ▸ h₁.trans h₂, ha₂.trans ?_⟩
    rw [hregs]
    exact congrArg (fun x : Block => ({ x with
      nregs := Tab.sets 0 (fun n => nodeKey l n.1 i) (fun n _ => (e.givesNode f l i n).1)
        (Tab.set 0 b.nregs (nodeKey l n.1 i) (e.givesNode f l i n).1) ns } : Block)) ha₁

end

/-- A MOV to a level of the block writes its nodes' registers, and nothing else changes (R55, R56). -/
theorem mov_in_block {f : MovF} {l : BitVec 4} {i : BitVec 5} {s : State} {e : Site} (hd : f.d = .scoped l i)
    (h : Runs (.mov f) s e) (hag : f.rd = true ∨ ∀ n ∈ movNodes s e f l.toNat, disagreeing n.2 = [])
    (hfit : storesFit s e [] = true) (hl : l.toNat ≤ e.t.blockLvl) :
    let ns := movNodes s e f l.toNat
    let key := fun (n : Nat × List (Thread × Word)) => nodeKey l.toNat n.1 i.toNat
    ∃ (t : State) (b' : Block), Completes (.mov f) s t ∧ ((s.launchOf e.b).race = false →
      t.block? e.cur.core e.cur.slot = some b'
      ∧ (∀ n ∈ ns, Tab.get 0 b'.nregs (key n) = (e.givesNode f l.toNat i.toNat n).1)
      ∧ (∀ k, (∀ n ∈ ns, k ≠ key n) → Tab.get 0 b'.nregs k = Tab.get 0 e.b.nregs k)
      ∧ GroupFlagged s t e (nodeFlags ns (fun n => (e.givesNode f l.toNat i.toNat n).2))
      ∧ OnlyBlock s t e ∧ Holds s t e.cur.core [] ∧ BlockGoes s t e (fun b => { b with nregs := b'.nregs })) := by
  intro ns key
  have hb : e.names s := State.site?_names h.1
  have herr : scopedErr s e f.d = none := by
    rw [scopedErr, hd, operandHome, if_pos hl]
    rfl
  have hx := exec_mov_of_scoped hd h
  rw [movUp_of_agree hag (fun _ => herr) (by rw [movCells, decide_eq_true hl]; exact hfit)] at hx
  obtain ⟨t, ht⟩ : ∃ t, t = (ns.foldl (fun s n => s.movNode e f l.toNat i.toNat n) ((s.acts e).noteSources e [f.a])).pass e :=
    ⟨_, rfl⟩
  refine ⟨t, (t.block? e.cur.core e.cur.slot).getD e.b, ht ▸ hx, fun hr => ?_⟩
  have q := Quiet.notes hb hr [f.a]
  obtain ⟨b₁, h₁, ha₁⟩ := BlockStep.movNodes (f := f) (i := i.toNat) ((q.block? _ _).trans hb)
    (by rw [q.launchOf]; exact hr) hl (Site.byNode_apart hl _)
  have hstep := (BlockStep.of_quiet q hb).trans h₁
  simp only [fNone_or] at hstep
  obtain ⟨b', hb', hap, honly, hheld⟩ := hstep.finish Thread.next
  have hgroup := GroupFlagged.of_pass hstep.before hstep.after hstep.flags fun _ => State.site?_tids h.1
  have hregs : b'.nregs = Tab.sets 0 key (fun n _ => (e.givesNode f l.toNat i.toNat n).1) e.b.nregs ns :=
    (congrArg Block.nregs (hap.trans ha₁) :)
  have hkeys : (ns.map key).Nodup := by
    have hmap : ns.map key = (ns.map (fun n => n.1)).map (fun node => nodeKey l.toNat node i.toNat) := by
      rw [List.map_map]; rfl
    rw [hmap]
    refine (Site.byNode_nodup ..).map fun x y hxy => ?_
    simp only [nodeKey] at hxy
    omega
  rw [show t.block? e.cur.core e.cur.slot = some b' from ht ▸ hb', Option.getD_some, ht]
  refine ⟨rfl, fun n hn => ?_, fun k hk => ?_, hgroup, honly, hheld, BlockGoes.of_apart hb hb' ?_⟩
  · rw [hregs]; exact Tab.get_sets_in 0 key _ _ hkeys hn
  · rw [hregs]; exact Tab.get_sets_out 0 key _ _ hk
  · rw [hregs]; exact hap.trans ha₁

end Sys2Proof.Machine
end

section
/-! Proof of O15, second part: the write of one register above the block, in the block's view (R61, R132, R141-R143, R151). -/

namespace Sys2Proof.Machine

/-! ### What a block reads in its view -/

section
variable {s t : State} {c sl : Nat} {b b' : Block}

theorem Quiet.comRead (q : Quiet s t) (hb : s.block? c sl = some b) (hs : sl ≠ handlerSlot) (k n : Nat) :
    Machine.comRead t c sl k n = Machine.comRead s c sl k n :=
  comRead_congr hb ((q.block? _ _).trans hb) hs q.launches rfl rfl (q.ovl c) q.mem k n

/-- A change of a block that keeps its phase store changes nothing of what it reads. -/
theorem comRead_updBlock (hb : s.block? c sl = some b) (hs : sl ≠ handlerSlot) {f : Block → Block}
    (hl : (f b).launch = b.launch) (hp : (f b).pover = b.pover) (k n : Nat) :
    comRead (s.updBlock c sl f) c sl k n = comRead s c sl k n :=
  comRead_congr (t := s.updBlock c sl f) hb (by rw [State.block?_updBlock, hb]; rfl) hs rfl hl hp
    (by rw [State.chunk_updBlock]) rfl k n

/-- Bytes that no write meets read as before. -/
theorem ViewWrites.comRead_out {ws : List (Nat × List Byte)} {ms : List Nat} (h : ViewWrites s t c sl b b' ws ms)
    (hs : sl ≠ handlerSlot) (hm : t.mem = s.mem) {k n : Nat} (hout : ∀ w ∈ ws, k + n ≤ w.1 ∨ w.1 + w.2.length ≤ k) :
    Machine.comRead t c sl k n = Machine.comRead s c sl k n := by
  obtain ⟨hlaunch, -, -, hpover, -⟩ := h.block
  have hlo : t.launchOf b' = s.launchOf b := by
    rw [State.launchOf, State.launchOf, State.launch?, State.launch?, h.launches, hlaunch]
  have hfind : ∀ o : Overlay, ∀ i ∈ List.range n, Tab.find? (overWrites o ws) (k + i) = Tab.find? o (k + i) := fun o i hi =>
    Tab.find?_overWrites_out o ws fun w hw => by
      have := hout w hw
      have := List.mem_range.1 hi
      omega
  rw [Machine.comRead, Machine.comRead, h.before, h.after]
  simp only [h.isExact, hs, if_false, hpover, h.ovl, hlo, hm]
  cases s.isExact sl b with
  | true => exact List.map_congr_left fun i hi => by simp only [if_true, hfind _ i hi]
  | false => exact List.map_congr_left fun i hi => by simp only [Bool.false_eq_true, if_false, overByte, hfind _ i hi]

end

/-! ### A step in the block's view -/

/-- From `s` to `t` the site's block has become `b'` by a write in its view, its threads raising flags. -/
structure ViewStep (s t : State) (e : Site) (b b' : Block) (fl : Nat → FFlags) : Prop where
  before : s.block? e.cur.core e.cur.slot = some b
  after : t.block? e.cur.core e.cur.slot = some b'
  only : OnlyView s t e (fun _ => True)
  held : Holds s t e.cur.core []
  flags : Block.Flags fl b b'
  apart : b'.apart = ({ b with pover := b'.pover, plines := b'.plines, pops := b'.pops } : Block).apart

section
variable {s t u : State} {e : Site} {b b' b'' : Block} {fl gl : Nat → FFlags}

theorem BlockStep.view (h : BlockStep s t e b b' fl)
    (ha : b'.apart = ({ b with pover := b'.pover, plines := b'.plines, pops := b'.pops } : Block).apart) :
    ViewStep s t e b b' fl := ⟨h.before, h.after, h.only.view _, h.held, h.flags, ha⟩

theorem ViewStep.of_quiet (q : Quiet s t) (hb : s.block? e.cur.core e.cur.slot = some b) :
    ViewStep s t e b b (fun _ => fNone) := (BlockStep.of_quiet q hb).view rfl

theorem ViewStep.trans (h : ViewStep s t e b b' fl) (g : ViewStep t u e b' b'' gl) :
    ViewStep s u e b b'' (fun l => fl l ||| gl l) := by
  refine ⟨h.before, g.after, h.only.trans g.only, h.held.trans_nil g.held, h.flags.trans g.flags, g.apart.trans ?_⟩
  exact congrArg (fun x : Block => { x with pover := b''.pover, plines := b''.plines, pops := b''.pops }) h.apart

theorem ViewStep.finish (h : ViewStep s u e b b' fl) (f : Thread → Thread) : ∃ b'',
    (u.finish e f).block? e.cur.core e.cur.slot = some b'' ∧ b''.apart = b'.apart
      ∧ OnlyView s (u.finish e f) e (fun _ => True) ∧ Holds s (u.finish e f) e.cur.core [] := by
  obtain ⟨b'', hb'', hap, honly, hheld⟩ := (BlockStep.of_quiet (Quiet.refl u) h.after).finish f
  exact ⟨b'', hb'', hap, h.only.trans (honly.view _), h.held.trans_nil hheld⟩

/-- A change of the core's chunk that keeps what it holds. -/
theorem ViewStep.updChunk (hb : s.block? e.cur.core e.cur.slot = some b) {f : Chunk → Chunk} (hf : ∀ h, (f h).held = h.held) :
    ViewStep s (s.updChunk e.cur.core f) e b b (fun _ => fNone) := by
  refine ⟨hb, by rw [State.block?_updChunk, hb], ?_, ?_, Block.Flags.of_bare rfl, rfl⟩
  · exact ⟨fun _ _ => rfl, fun c sl _ => by rw [State.block?_updChunk], fun c => by rw [State.arch_updChunk],
      fun c hc => by rw [State.core_updChunk_ne _ _ hc]; exact ⟨rfl, rfl⟩, rfl, rfl, rfl, rfl, rfl, rfl⟩
  · rw [Holds, State.core_updChunk, hf, List.append_nil]

/-- A store to COMMITTED memory in the block's view (R132, R141-R143). -/
theorem ViewStep.comWrite (hb : s.block? e.cur.core e.cur.slot = some b) (hs : e.cur.slot ≠ handlerSlot) (k : Nat)
    (bs : List Byte) : ∃ b', ViewStep s (s.comWrite e.cur.core e.cur.slot k bs) e b b' (fun _ => fNone)
      ∧ b'.pops = b.pops ∧ (s.comWrite e.cur.core e.cur.slot k bs).mem = s.mem := by
  have hw : s.winBlock? e.cur.core e.cur.slot = some b := by rw [State.winBlock?, if_neg hs, hb]
  obtain ⟨t, ht⟩ : ∃ t, t = (linesOf k bs.length).foldl (fun s l => s.touchOn e.cur.core b.launch b.lin l) s := ⟨_, rfl⟩
  have q : Quiet s t := by rw [ht]; exact Quiet.foldl _ (fun s l => Quiet.touchOn s e.cur.core b.launch b.lin l) _ s
  have hbt := (q.block? _ _).trans hb
  have hq := ViewStep.of_quiet q hb
  rw [State.comWrite, hb, hw]
  dsimp only
  rw [← ht]
  split
  · have h := hq.trans ((BlockStep.updBlock hbt (f := fun b => { b with
      pover := overWrite b.pover k bs
      plines := addNew b.plines (linesOf k bs.length) }) (Block.Flags.of_bare rfl)).view rfl)
    simp only [or_fNone] at h
    exact ⟨_, h, rfl, q.mem⟩
  · have h := hq.trans (ViewStep.updChunk hbt (f := fun h => { h with
      ovl := overWrite h.ovl k bs
      wr := addNew h.wr ((linesOf k bs.length).filter (fun l => tracked s b.launch b.lin l))
      grans := if inSlice e.cur.core k then addNew h.grans (granulesOf k bs.length) else h.grans }) (fun _ => rfl))
    simp only [or_fNone] at h
    exact ⟨_, h, rfl, q.mem⟩

/-- The end of reservations changes nothing else of a block (R151). -/
theorem State.block?_clearResv (s : State) (c slot ltid k n d sl : Nat) : ∃ f : Block → Block,
    (∀ b, (f b).unresv = b.unresv) ∧ (s.clearResv c slot ltid k n).block? d sl = (s.block? d sl).map f := by
  by_cases hd : d = c
  · subst hd
    refine ⟨_, fun b => ?_, State.block?_mapBlocks ..⟩
    dsimp only
    split
    · rfl
    · refine congrArg (fun ths => ({ b with threads := ths } : Block)) ((List.map_map ..).trans
        (List.map_congr_left fun th _ => ?_))
      dsimp only [Function.comp]
      split
      · split <;> rfl
      · rfl
  · refine ⟨id, fun _ => rfl, ?_⟩
    rw [State.clearResv, State.block?, State.core_updArch_ne _ _ hd, Option.map_id]
    rfl

theorem ViewStep.clearResv (hb : s.block? e.cur.core e.cur.slot = some b) (ltid k n : Nat) :
    ∃ b', ViewStep s (s.clearResv e.cur.core e.cur.slot ltid k n) e b b' (fun _ => fNone) ∧ b'.pops = b.pops := by
  obtain ⟨f, hf, hfb⟩ := s.block?_clearResv e.cur.core e.cur.slot ltid k n e.cur.core e.cur.slot
  have hap : (f b).apart = b.apart := (congrArg Block.apart (hf b) :)
  have hths : (f b).threads.map Thread.unresv = b.threads.map Thread.unresv := (congrArg Block.threads (hf b) :)
  have hflags : (f b).threads.map Thread.bare = b.threads.map Thread.bare := by
    have h := congrArg (List.map Thread.bare) hths
    rw [List.map_map, List.map_map] at h
    exact h
  have hcore : ∀ d, { ((s.clearResv e.cur.core e.cur.slot ltid k n).core d).arch with blocks := [] }
      = { (s.core d).arch with blocks := [] }
      ∧ ((s.clearResv e.cur.core e.cur.slot ltid k n).core d).chunk = (s.core d).chunk := fun d => by
    by_cases hd : d = e.cur.core
    · rw [hd, State.clearResv, State.core_updArch]; exact ⟨rfl, rfl⟩
    · rw [State.clearResv, State.core_updArch_ne _ _ hd]; exact ⟨rfl, rfl⟩
  refine ⟨f b, ⟨hb, by rw [hfb, hb]; rfl, ?_, ?_, Block.Flags.of_bare hflags, ?_⟩, (congrArg Block.pops hap :)⟩
  · refine ⟨fun _ _ => rfl, fun c sl _ => ?_, fun c => (hcore c).1, fun c _ => by rw [(hcore c).2]; exact ⟨rfl, rfl⟩,
      rfl, rfl, rfl, rfl, rfl, rfl⟩
    obtain ⟨g, hg, hgb⟩ := s.block?_clearResv e.cur.core e.cur.slot ltid k n c sl
    rw [hgb, Option.map_map]
    exact congrArg (Option.map · _) (funext hg)
  · rw [Holds, (hcore _).2, List.append_nil]
  · have hpover : (f b).pover = b.pover := (congrArg Block.pover hap :)
    have hplines : (f b).plines = b.plines := (congrArg Block.plines hap :)
    have hpops : (f b).pops = b.pops := (congrArg Block.pops hap :)
    rw [hpover, hplines, hpops]
    exact hap

end

/-! ### A write above the block -/

/-- A write to a register's home by some threads (R55, R61, R151). -/
def State.putsHome (s : State) (e : Site) (who : List Nat) (k : Nat) (w : Word) : State :=
  (s.comWrite e.cur.core e.cur.slot k (natLe 8 w.toNat)).clearResv e.cur.core e.cur.slot
    (if who.length = 1 then who.headD 4096 else 4096) k 8

section
variable {s : State} {e : Site} {b : Block} (hb : s.block? e.cur.core e.cur.slot = some b) (hs : e.cur.slot ≠ handlerSlot)
  (who : List Nat) (k : Nat) (w : Word)
include hb hs

/-- The home holds the value in the block's view, and other bytes read as before. -/
theorem ViewStep.putsHome : ∃ b', ViewStep s (s.putsHome e who k w) e b b' (fun _ => fNone) ∧ b'.pops = b.pops
    ∧ comRead (s.putsHome e who k w) e.cur.core e.cur.slot k 8 = natLe 8 w.toNat
    ∧ ∀ a, a < k ∨ k + 8 ≤ a →
      comRead (s.putsHome e who k w) e.cur.core e.cur.slot a 1 = comRead s e.cur.core e.cur.slot a 1 := by
  obtain ⟨b₁, h₁, hp₁, hm₁⟩ := ViewStep.comWrite hb hs k (natLe 8 w.toNat)
  obtain ⟨b₂, h₂, hp₂⟩ := ViewStep.clearResv h₁.after (if who.length = 1 then who.headD 4096 else 4096) k 8
  obtain ⟨c₁, v₁⟩ := ViewWrites.comWrite hb hs k (natLe 8 w.toNat)
  obtain ⟨c₂, v₂⟩ := ViewWrites.clearResv v₁.after e.cur.slot (if who.length = 1 then who.headD 4096 else 4096) k 8
  have v := v₁.trans v₂
  have h := h₁.trans h₂
  simp only [or_fNone] at h
  have hread := v.comRead hs (List.pairwise_singleton _ _) (List.mem_singleton.2 rfl)
  rw [natLe_length] at hread
  refine ⟨b₂, h, hp₂.trans hp₁, hread, fun a ha => v.comRead_out hs hm₁ fun x hx => ?_⟩
  cases List.mem_singleton.1 hx
  rw [natLe_length]
  omega

end

section
variable {f : MovF} {s : State} {e : Site} {l i k : Nat} (hl : e.t.blockLvl < l)
  (hk : homeKey (s.launchOf e.b) e.b.lin l i = some k) (hb : e.names s) (hr : (s.launchOf e.b).race = false)
include hl hk

theorem putScoped_above (who : List Nat) (node : Nat) (w : Word) : s.putScoped e who l i node w = s.putsHome e who k w := by
  rw [State.putScoped, if_neg (Nat.not_le.2 hl), hk]
  rfl

theorem scopedOld_above (node : Nat) : scopedOld s e l i node = leWord (comRead s e.cur.core e.cur.slot k 8) := by
  rw [scopedOld, if_neg (Nat.not_le.2 hl), hk]

include hb hr

/-- Above the block a write goes to the register's home, after quiet traces, when it does not wait for a merge (R55, R61). -/
theorem movNode_above (hnow : (f.rd && f.acc && s.isExact e.cur.slot e.b) = false) (n : Nat × List (Thread × Word)) :
    ∃ u, Quiet s u ∧ s.movNode e f l i n =
      let g := movGives e f l n.2 (leWord (comRead u e.cur.core e.cur.slot k 8))
      let v := u.putsHome e (nodeIds n) k g.1
      if f.rd then v.mapTids e.cur.core e.cur.slot (nodeIds n) (fun th => th.flag g.2) else v := by
  obtain ⟨u, hu⟩ : ∃ u, u = n.2.foldl (fun s v => s.noteScoped e v.1 l i true true) s := ⟨_, rfl⟩
  have q : Quiet s u := by
    rw [hu]
    exact Quiet.foldl_at e _ (fun s v hb hr => Quiet.noteScoped s e v.1 l i true true hb hr) _ s hb hr
  have hku : homeKey (u.launchOf e.b) e.b.lin l i = some k := by rw [q.launchOf]; exact hk
  have hex : u.isExact e.cur.slot e.b = s.isExact e.cur.slot e.b := by rw [State.isExact, State.isExact, q.launchOf]
  cases hrd : f.rd with
  | false =>
    refine ⟨u, q, ?_⟩
    rw [State.movNode, ← hu]
    simp only [hrd, Bool.false_eq_true, if_false, putScoped_above hl hku, movGives]
    rfl
  | true =>
    cases hacc : f.acc with
    | false =>
      refine ⟨u, q, ?_⟩
      rw [State.movNode, ← hu]
      simp only [hrd, hacc, Bool.false_eq_true, if_false, if_true, putScoped_above hl hku, movGives]
      rfl
    | true =>
      have qt := Quiet.trackRead u e.cur.core e.cur.slot k 8
      have hkt : homeKey ((u.trackRead e.cur.core e.cur.slot k 8).launchOf e.b) e.b.lin l i = some k := by
        rw [qt.launchOf]; exact hku
      have hx : s.isExact e.cur.slot e.b = false := by rwa [hrd, hacc] at hnow
      refine ⟨_, q.trans qt, ?_⟩
      rw [State.movNode, ← hu]
      simp only [hrd, hacc, hex, hx, hku, hl, Bool.false_and, Bool.false_eq_true, if_false, if_true,
        putScoped_above hl hkt, scopedOld_above hl hkt, movGives]
      rfl

/-- Under EXACT an `acc` above the block waits for the phase merge (R61, R143). -/
theorem movNode_waits (hrd : f.rd = true) (hacc : f.acc = true) (hx : s.isExact e.cur.slot e.b = true)
    (n : Nat × List (Thread × Word)) : ∃ u, Quiet s u ∧ s.movNode e f l i n =
      let g := movGives e { f with acc := false } l n.2 0
      (u.updBlock e.cur.core e.cur.slot (fun b => { b with pops := b.pops ++ [.acc k f.red g.1 (nodeIds n)] })).mapTids
        e.cur.core e.cur.slot (nodeIds n) (fun th => th.flag g.2) := by
  obtain ⟨u, hu⟩ : ∃ u, u = n.2.foldl (fun s v => s.noteScoped e v.1 l i true true) s := ⟨_, rfl⟩
  have q : Quiet s u := by
    rw [hu]
    exact Quiet.foldl_at e _ (fun s v hb hr => Quiet.noteScoped s e v.1 l i true true hb hr) _ s hb hr
  have hku : homeKey (u.launchOf e.b) e.b.lin l i = some k := by rw [q.launchOf]; exact hk
  have hex : u.isExact e.cur.slot e.b = true := by rw [State.isExact, q.launchOf]; exact hx
  refine ⟨u, q, ?_⟩
  rw [State.movNode, ← hu]
  simp only [hrd, hacc, hex, hku, hl, decide_true, Bool.and_self, if_true, movGives]
  rfl

end

end Sys2Proof.Machine
end

section
/-! Proof of O15, third part: MOV to a scoped register of a level above the block, and the statement (R55, R56, R61, R205). -/

namespace Sys2Proof.Machine

/-! ### A MOV above the block -/

section
variable {f : MovF} {s : State} {e : Site} {l i k : Nat}

theorem nodeIds_act (e : Site) (node : Nat) (v : Thread → Word) : nodeIds (node, e.act.map (fun th => (th, v th))) = e.tids := by
  rw [nodeIds, List.map_map]
  rfl

/-- The group's threads write the register's home at once, in the block's view (R55, R61). -/
theorem ViewStep.movNode (hl : e.t.blockLvl < l) (hk : homeKey (s.launchOf e.b) e.b.lin l i = some k) (hb : e.names s)
    (hr : (s.launchOf e.b).race = false) (hs : e.cur.slot ≠ handlerSlot)
    (hnow : (f.rd && f.acc && s.isExact e.cur.slot e.b) = false) (n : Nat × List (Thread × Word)) :
    let g := movGives e f l n.2 (leWord (comRead s e.cur.core e.cur.slot k 8))
    ∃ b', ViewStep s (s.movNode e f l i n) e e.b b' (fun lt => if (nodeIds n).contains lt then g.2 else fNone)
      ∧ b'.pops = e.b.pops
      ∧ comRead (s.movNode e f l i n) e.cur.core e.cur.slot k 8 = natLe 8 g.1.toNat
      ∧ ∀ a, a < k ∨ k + 8 ≤ a →
        comRead (s.movNode e f l i n) e.cur.core e.cur.slot a 1 = comRead s e.cur.core e.cur.slot a 1 := by
  intro g
  obtain ⟨u, q, hu⟩ := movNode_above hl hk hb hr hnow n
  have hbu := (q.block? _ _).trans hb
  have hread := fun a n => q.comRead hb hs a n
  rw [hread k 8] at hu
  obtain ⟨b', hv, hpops, hin, hout⟩ := ViewStep.putsHome hbu hs (nodeIds n) k g.1
  have hstep := (ViewStep.of_quiet q hb).trans hv
  simp only [or_fNone] at hstep
  rw [hu]
  dsimp only
  cases hrd : f.rd with
  | false =>
    have hg : g.2 = fNone := by simp only [g, movGives, hrd]; rfl
    rw [if_neg Bool.false_ne_true]
    refine ⟨b', ?_, hpops, hin, fun a ha => (hout a ha).trans (hread a 1)⟩
    simpa only [hg, ite_self] using hstep
  | true =>
    have hflag := hstep.trans ((BlockStep.mapTids hv.after (nodeIds n) g.2).view rfl)
    simp only [fNone_or] at hflag
    rw [if_pos rfl]
    exact ⟨_, hflag, hpops, (comRead_updBlock hv.after hs rfl rfl k 8).trans hin,
      fun a ha => (comRead_updBlock hv.after hs rfl rfl a 1).trans ((hout a ha).trans (hread a 1))⟩

/-- Under EXACT an `acc` waits for the merge, and the block reads as before (R61, R143). -/
theorem ViewStep.movNode_waits (hl : e.t.blockLvl < l) (hk : homeKey (s.launchOf e.b) e.b.lin l i = some k) (hb : e.names s)
    (hr : (s.launchOf e.b).race = false) (hs : e.cur.slot ≠ handlerSlot) (hrd : f.rd = true) (hacc : f.acc = true)
    (hx : s.isExact e.cur.slot e.b = true) (n : Nat × List (Thread × Word)) :
    let g := movGives e { f with acc := false } l n.2 0
    ∃ b', ViewStep s (s.movNode e f l i n) e e.b b' (fun lt => if (nodeIds n).contains lt then g.2 else fNone)
      ∧ b'.pops = e.b.pops ++ [.acc k f.red g.1 (nodeIds n)]
      ∧ ∀ a m, comRead (s.movNode e f l i n) e.cur.core e.cur.slot a m = comRead s e.cur.core e.cur.slot a m := by
  intro g
  obtain ⟨u, q, hu⟩ := Machine.movNode_waits hl hk hb hr hrd hacc hx n
  have hbu := (q.block? _ _).trans hb
  have hpop := BlockStep.updBlock (e := e) (f := fun b => { b with pops := b.pops ++ [.acc k f.red g.1 (nodeIds n)] }) hbu
    (Block.Flags.of_bare rfl)
  have hstep := ((ViewStep.of_quiet q hb).trans (hpop.view rfl)).trans
    ((BlockStep.mapTids hpop.after (nodeIds n) g.2).view rfl)
  simp only [fNone_or] at hstep
  rw [hu]
  exact ⟨_, hstep, rfl, fun a m => (comRead_updBlock hpop.after hs rfl rfl a m).trans
    ((comRead_updBlock hbu hs rfl rfl a m).trans (q.comRead hb hs a m))⟩

/-- The group goes on after a step in its view, with what it reads there. -/
theorem ViewStep.passes {u : State} {b' : Block} {fl : Nat → FFlags} (h : ViewStep s u e e.b b' fl)
    (hs : e.cur.slot ≠ handlerSlot)
    (hsub : ∀ lt, e.tids.contains lt = true → (e.mem.map (fun m => m.ltid)).contains lt = true) :
    ∃ b'', (u.pass e).block? e.cur.core e.cur.slot = some b'' ∧ b''.pops = b'.pops
      ∧ (∀ a n, comRead (u.pass e) e.cur.core e.cur.slot a n = comRead u e.cur.core e.cur.slot a n)
      ∧ GroupFlagged s (u.pass e) e fl ∧ OnlyView s (u.pass e) e (fun _ => True) ∧ Holds s (u.pass e) e.cur.core []
      ∧ BlockGoes s (u.pass e) e (fun b => { b with pover := b''.pover, plines := b''.plines, pops := b''.pops }) := by
  obtain ⟨b'', hb'', hap, honly, hheld⟩ := h.finish Thread.next
  have hpover : b''.pover = b'.pover := (congrArg Block.pover hap :)
  have hplines : b''.plines = b'.plines := (congrArg Block.plines hap :)
  have hpops : b''.pops = b'.pops := (congrArg Block.pops hap :)
  refine ⟨b'', hb'', hpops, fun a n => comRead_updBlock h.after hs rfl rfl a n,
    GroupFlagged.of_pass h.before h.after h.flags hsub, honly, hheld, BlockGoes.of_apart h.before hb'' ?_⟩
  rw [hpover, hplines, hpops]
  exact hap.trans h.apart

/-- A plain upward write does not look at `acc`. -/
theorem movGives_of_plain (hrd : f.rd = false) (vs : List (Thread × Word)) (old : Word) (acc : Bool) :
    movGives e { f with acc := acc } l vs old = movGives e f l vs old := by
  simp only [movGives, hrd]
  rfl

/-- A reduction that does not combine does not look at the old value. -/
theorem movGives_of_not_acc (hacc : f.acc = false) (vs : List (Thread × Word)) (x y : Word) :
    movGives e f l vs x = movGives e f l vs y := by
  simp only [movGives, hacc]
  rfl

/-- What a write above the block gives: under EXACT an `acc` waits with the reduction alone (R55, R61). -/
def Site.givesHome (e : Site) (f : MovF) (later : Bool) (l : Nat) (vs : List (Thread × Word)) (old : Word) : WRes :=
  movGives e (if later then { f with acc := false } else f) l vs old

/-- The write of the node's register above the block, at once or at the phase merge (R55, R61). -/
theorem ViewStep.movHome (hl : e.t.blockLvl < l) (hk : homeKey (s.launchOf e.b) e.b.lin l i = some k) (hb : e.names s)
    (hr : (s.launchOf e.b).race = false) (hs : e.cur.slot ≠ handlerSlot) (n : Nat × List (Thread × Word)) :
    let later := f.acc && s.isExact e.cur.slot e.b
    let read := fun (t : State) (a n : Nat) => comRead t e.cur.core e.cur.slot a n
    let g := e.givesHome f later l n.2 (leWord (read s k 8))
    ∃ b', ViewStep s (s.movNode e f l i n) e e.b b' (fun lt => if (nodeIds n).contains lt then g.2 else fNone)
      ∧ (later = false → read (s.movNode e f l i n) k 8 = natLe 8 g.1.toNat ∧ b'.pops = e.b.pops)
      ∧ (f.rd = true → later = true → read (s.movNode e f l i n) k 8 = read s k 8
        ∧ b'.pops = e.b.pops ++ [.acc k f.red g.1 (nodeIds n)])
      ∧ ∀ a, a < k ∨ k + 8 ≤ a → read (s.movNode e f l i n) a 1 = read s a 1 := by
  intro later read g
  cases hwait : f.rd && later with
  | true =>
    obtain ⟨hrd, hlater⟩ := Bool.and_eq_true_iff.1 hwait
    obtain ⟨hacc, hexact⟩ := Bool.and_eq_true_iff.1 hlater
    obtain ⟨b', hstep, hpops, hsame⟩ := ViewStep.movNode_waits hl hk hb hr hs hrd hacc hexact n
    have hg : movGives e { f with acc := false } l n.2 0 = g := by
      simp only [g, Site.givesHome, hlater, if_true]
      exact movGives_of_not_acc (f := { f with acc := false }) rfl _ _ _
    rw [hg] at hstep hpops
    exact ⟨b', hstep, fun h => absurd (hlater.symm.trans h) (by decide), fun _ _ => ⟨hsame k 8, hpops⟩,
      fun a _ => hsame a 1⟩
  | false =>
    obtain ⟨b', hstep, hpops, hin, hout⟩ := ViewStep.movNode hl hk hb hr hs (by rw [Bool.and_assoc]; exact hwait) n
    have hg : movGives e f l n.2 (leWord (comRead s e.cur.core e.cur.slot k 8)) = g := by
      simp only [g, Site.givesHome]
      cases hlater : later with
      | true =>
        have hrd : f.rd = false := by rwa [hlater, Bool.and_true] at hwait
        exact (movGives_of_plain hrd _ _ false).symm
      | false => rfl
    rw [hg] at hstep hin
    exact ⟨b', hstep, fun _ => ⟨hin, hpops⟩, fun hrd hlater => absurd (hwait.symm.trans (by rw [hrd, hlater])) (by decide),
      hout⟩

end

/-- A MOV above the block writes the register's home in the block's view, or under EXACT waits for the merge (R55, R56, R61). -/
theorem mov_above_block {f : MovF} {l : BitVec 4} {i : BitVec 5} {s : State} {e : Site} {k : Nat} (hd : f.d = .scoped l i)
    (h : Runs (.mov f) s e) (hag : f.rd = true ∨ disagreeing (e.act.map (fun th => (th, movVal s e th f))) = [])
    (herr : f.acc = true → scopedErr s e f.d = none) (hfit : storesFit s e (movCells s e f l.toNat i.toNat) = true)
    (hl : e.t.blockLvl < l.toNat) (hs : e.cur.slot ≠ handlerSlot)
    (hk : homeKey (s.launchOf e.b) e.b.lin l.toNat i.toNat = some k) :
    let vs := e.act.map (fun th => (th, movVal s e th f))
    let later := f.acc && s.isExact e.cur.slot e.b
    ∃ (t : State) (b' : Block), Completes (.mov f) s t ∧ ((s.launchOf e.b).race = false →
      let read := fun (t : State) (a n : Nat) => comRead t e.cur.core e.cur.slot a n
      let gives := movGives e (if later then { f with acc := false } else f) l.toNat vs (leWord (read s k 8))
      t.block? e.cur.core e.cur.slot = some b'
      ∧ (later = false → read t k 8 = natLe 8 gives.1.toNat ∧ b'.pops = e.b.pops)
      ∧ (f.rd = true → later = true → read t k 8 = read s k 8 ∧ b'.pops = e.b.pops ++ [.acc k f.red gives.1 e.tids])
      ∧ (∀ a, a < k ∨ k + 8 ≤ a → read t a 1 = read s a 1)
      ∧ GroupFlagged s t e (fun lt => if e.tids.contains lt then gives.2 else fNone)
      ∧ OnlyView s t e (fun _ => True) ∧ Holds s t e.cur.core []
      ∧ BlockGoes s t e (fun b => { b with pover := b'.pover, plines := b'.plines, pops := b'.pops })) := by
  intro vs later
  have hb : e.names s := State.site?_names h.1
  have hne : vs ≠ [] := fun hv => h.2.1 (List.map_eq_nil_iff.1 hv)
  have hnodes : movNodes s e f l.toNat = [(e.t.highNode l.toNat e.b.lin, vs)] := Site.byNode_high e hl hne
  have hx := exec_mov_of_scoped hd h
  rw [movUp_of_agree (hag.imp_right fun hno n hn => by rw [hnodes] at hn; cases List.mem_singleton.1 hn; exact hno) herr hfit,
    hnodes, List.foldl_cons, List.foldl_nil] at hx
  obtain ⟨s₁, hs₁⟩ : ∃ s₁, s₁ = (s.acts e).noteSources e [f.a] := ⟨_, rfl⟩
  obtain ⟨u, hu⟩ : ∃ u, u = s₁.movNode e f l.toNat i.toNat (e.t.highNode l.toNat e.b.lin, vs) := ⟨_, rfl⟩
  rw [← hs₁, ← hu] at hx
  refine ⟨_, ((u.pass e).block? e.cur.core e.cur.slot).getD e.b, hx, fun hr => ?_⟩
  intro read gives
  have q : Quiet s s₁ := by rw [hs₁]; exact Quiet.notes hb hr [f.a]
  have hb₁ : e.names s₁ := (q.block? _ _).trans hb
  have hr₁ : (s₁.launchOf e.b).race = false := by rw [q.launchOf]; exact hr
  have hk₁ : homeKey (s₁.launchOf e.b) e.b.lin l.toNat i.toNat = some k := by rw [q.launchOf]; exact hk
  have hex : s₁.isExact e.cur.slot e.b = s.isExact e.cur.slot e.b := by rw [State.isExact, State.isExact, q.launchOf]
  have hread := fun a n => q.comRead hb hs a n
  obtain ⟨b₁, h₁, hnow, hwaits, hout⟩ := ViewStep.movHome (f := f) hl hk₁ hb₁ hr₁ hs
    (e.t.highNode l.toNat e.b.lin, vs)
  dsimp only at h₁ hnow hwaits hout
  rw [nodeIds_act] at h₁ hwaits
  rw [← hu] at h₁ hnow hwaits hout
  rw [hex, hread k 8] at h₁ hnow hwaits
  have hstep := (ViewStep.of_quiet q hb).trans h₁
  simp only [fNone_or] at hstep
  obtain ⟨b', hb', hpops, hsame, hgroup, honly, hheld, hblock⟩ := hstep.passes hs fun _ => State.site?_tids h.1
  rw [hb', Option.getD_some]
  refine ⟨rfl, fun hl => ?_, fun hrd hl => ?_, fun a ha => ?_, hgroup, honly, hheld, hblock⟩
  · obtain ⟨hval, hp⟩ := hnow hl
    exact ⟨(hsame k 8).trans hval, hpops.trans hp⟩
  · obtain ⟨hval, hp⟩ := hwaits hrd hl
    exact ⟨(hsame k 8).trans hval, hpops.trans hp⟩
  · exact (hsame a 1).trans ((hout a ha).trans (hread a 1))

/-- Settles O15: a local destination by each thread itself, a scoped one in the block or at its home, and the disagreement. -/
theorem movWrites : Obligations.MovWrites := by
  refine ⟨fun f s e hd h => ⟨_, exec_mov_of_local hd s, issue_simple_goes _ h fun s e th => putD_ltid _ _ _⟩,
    fun f l i s e hd h => ?_, fun f l i s e k hd h => ?_, fun f l i s e n ns hd hrd h hbad => ?_⟩
  · intro ns key hag hfit hl
    obtain ⟨t, b', hx, hgoes⟩ := mov_in_block hd h hag hfit hl
    exact ⟨t, b', hx, fun hr _ => hgoes hr⟩
  · intro vs later hag herr hfit hl hs hk
    obtain ⟨t, b', hx, hgoes⟩ := mov_above_block hd h hag herr hfit hl hs hk
    exact ⟨t, b', hx, fun hr _ => hgoes hr⟩
  · exact (exec_mov_of_scoped hd h).trans (congrArg _ (movUp_of_disagree i.toNat hrd hbad))

end Sys2Proof.Machine
end

section
/-! Proof of O7: DIV and REM round towards zero, and results that agree modulo 2^n are written alike (R73, R75). -/

namespace Sys2Proof.Machine

/-! ### Results modulo 2^n -/

/-- An element holds a result modulo 2^n (R73). -/
theorem wrap_congr {n : Nat} {t u : Int} (h : t ≡ u [ZMOD 2 ^ n]) : wrap n t = wrap n u := congrArg Int.toNat h

/-- Without saturation a form writes the same for functions that agree modulo 2^n (R73, R191). -/
theorem int2_congr {m : IntMod} {f g : Int → Int → Int} (hsat : m.sat = false)
    (h : ∀ x y, f x y ≡ g x y [ZMOD 2 ^ wBits m.w]) : int2 m f = int2 m g := by
  funext a b
  simp only [int2, mapElems, narrow, hsat, Bool.false_eq_true, if_false, wrap_congr (h _ _)]

/-! ### The quotient and its corner cases -/

/-- All ones are −1 in a signed element and 2^n − 1 in an unsigned one. -/
theorem allOnes_modEq (n : Nat) (sg : Bool) : (if sg then -1 else 2 ^ n - 1 : Int) ≡ 2 ^ n - 1 [ZMOD 2 ^ n] := by
  cases sg with
  | false => rfl
  | true => exact Int.modEq_iff_dvd.2 ⟨1, by simp⟩

/-- The quotient of R75, with the all ones of a divisor 0 read in the element's signedness. -/
theorem quot_modEq (n : Nat) (sg : Bool) (x y : Int) :
    (if y = 0 then (if sg then -1 else 2 ^ n - 1) else Int.tdiv x y) ≡ quot n x y [ZMOD 2 ^ n] := by
  unfold quot
  split
  · exact allOnes_modEq n sg
  · rfl

/-- The most negative value is its own negation modulo 2^n (R75). -/
theorem neg_mostNegative_modEq {n : Nat} (hn : 0 < n) : (2 ^ (n - 1) : Int) ≡ -(2 ^ (n - 1)) [ZMOD 2 ^ n] := by
  have htwice : (2 : Int) ^ n = 2 ^ (n - 1) * 2 := by rw [← pow_succ, Nat.sub_add_cancel hn]
  exact Int.modEq_iff_dvd.2 ⟨-1, by rw [htwice]; ring⟩

theorem wBits_pos (w : IntW) : 0 < wBits w := by cases w <;> decide

/-- Settles O7: the words are their effects in the integer table, whose quotient agrees modulo 2^n with the one stated. -/
theorem divisionRounds : Obligations.DivisionRounds := by
  intro f s e hsat
  refine ⟨fun h => ?_, fun h => ?_, fun _ => ⟨?_, ?_⟩⟩
  · obtain ⟨t, hx, hgoes, -⟩ := integerWords (.div f) _ rfl s e h
    rw [int2_congr hsat (quot_modEq (wBits f.m.w) f.m.sg)]
    exact ⟨t, hx, hgoes⟩
  · obtain ⟨t, hx, hgoes, -⟩ := integerWords (.rem f) _ rfl s e h
    exact ⟨t, hx, hgoes⟩
  · have hquot : Int.tdiv (-(2 ^ (wBits f.m.w - 1))) (-1) = 2 ^ (wBits f.m.w - 1) := by simp
    rw [hquot]
    exact wrap_congr (neg_mostNegative_modEq (wBits_pos f.m.w))
  · rw [Int.tmod_neg, Int.tmod_one]

end Sys2Proof.Machine
end

section
/-! Proof of O9: the rounding float forms round each element, and raise the union of the elements' flags (R80, R83, R86, R223). -/

namespace Sys2Proof.Machine

/-- What a rounding form of the table computes for an active member (R221, R223). -/
def roundedWord (m : FMod) (g : FF → RM → (Operand → Fv) → Res) (s : State) (e : Site) (th : Thread) : WRes :=
  fltMap m.fmt (fun k => g (ffOf m.fmt) (th.rm m.rm)
    (fun o => (ffOf m.fmt).input m.ftz (fltEl m.fmt (fltSrc s e th m.fmt o) k)))

/-- A rounding form of the table writes, in each active member, what the table gives for each element. -/
theorem exec_of_roundedElem {i : Instr} {m : FMod} {d : Operand} {g : FF → RM → (Operand → Fv) → Res}
    (h : roundedElem i = some (m, d, g)) (s : State) : exec i s = .next (perThreadF i d (roundedWord m g) s) := by
  unfold roundedElem at h
  split at h <;> cases h <;> rfl

/-- The elements of such a result, and the union of their flags (R86). -/
theorem roundedWord_eq (m : FMod) (g : FF → RM → (Operand → Fv) → Res) (s : State) (e : Site) (th : Thread) :
    let r := fun k => g (ffOf m.fmt) (th.rm m.rm)
      (fun o => (ffOf m.fmt).input m.ftz (fltEl m.fmt (fltSrc s e th m.fmt o) k))
    roundedWord m g s e th = (pack (ffOf m.fmt).bits ((List.range m.fmt.ne).map (fun k => (r k).1)),
      (List.range m.fmt.ne).foldl (fun fl k => fl ||| (r k).2) 0) := by
  simp only [roundedWord, fltMap, List.map_map, List.foldl_map]
  rfl

/-- A float word with one result writes it and raises its flags in each active member (R86, R221). -/
theorem perThreadF_goes {i : Instr} {s : State} {e : Site} (h : Runs i s e) (d : Operand) (r : State → Site → Thread → WRes) :
    GroupGoes (s.noted i e) (perThreadF i d r s) e
      (fun th => ((putD d (r (s.noted i e) e th).1 th).flag (r (s.noted i e) e th).2).next) :=
  (issue_simple_goes _ h (fun s e th => by simp)).1

/-- Settles O9: the word's result on each active member is the table's, element by element. -/
theorem roundedResults : Obligations.RoundedResults := by
  intro i m d g hi s e h
  have hgoes := perThreadF_goes h d (roundedWord m g)
  simp only [roundedWord_eq] at hgoes
  exact ⟨_, exec_of_roundedElem hi s, hgoes⟩

end Sys2Proof.Machine
end

section
/-! Proof of O39: NBRPUSH and NBRPOP move one beat between neighbouring cores (R115, R272, R273). -/

namespace Sys2Proof.Machine

/-- No link leads back to its own cluster (R109). -/
theorem nbrCluster_ne {k dir j : Nat} (h : nbrCluster k dir = some j) : j ≠ k := by
  unfold nbrCluster at h
  split at h
  all_goals
    split at h
    · cases h
    · cases h; omega

/-- The core at the far end of a link is another one. -/
theorem nbrCore_ne {s : State} {x c dir far : Nat} (h : nbrCore s x c dir = some far) : far ≠ c := by
  unfold nbrCore at h
  split at h
  · cases h
  next k hk =>
    have hne := nbrCluster_ne hk
    split at h
    · cases h; omega
    · cases h

section
variable {i : Instr} {f : NbrF} {s : State} {e : Site} {far : Nat} {b : Beat}

/-- The beat that a group pushes on a far core's queue (R272). -/
def State.pushBeat (s : State) (far key : Nat) (beat : Beat) : State :=
  s.updBoth far (fun a => { a with nbr := Tab.set [] a.nbr key (Tab.get [] a.nbr key ++ [beat]) }.wakePops)

/-- The core whose open chunk a beat belongs to; a beat of an EXACT block belongs to none (R273). -/
def beatSrc (s : State) (e : Site) : Option Nat := if s.isExact e.cur.slot e.b then none else some e.cur.core

theorem exec_nbrpush_of_room (h : Runs (.nbrpush f) s e) (hf : nbrCore s (s.ctxOf e.b) e.cur.core f.dir.toNat = some far)
    (hroom : nbrFill s far (nbrKey ((f.dir.toNat + 2) % 4) f.ch.toNat) < 16) :
    Completes (.nbrpush f) s ((((s.acts e).noteSources e [f.o]).pushBeat far (nbrKey ((f.dir.toNat + 2) % 4) f.ch.toNat)
      (beatOf (fun th => e.read s th f.o) e.act (beatSrc s e))).pass e) := by
  have hx : exec (.nbrpush f) s = execNbrpush f s := rfl
  rw [Completes, hx, execNbrpush, issue_of_runs _ h, hf]
  dsimp only
  rw [if_neg (Nat.not_le.2 hroom)]
  rfl

theorem exec_nbrpop_of_beat (h : Runs (.nbrpop f) s e)
    (hf : (nbrCore s (s.ctxOf e.b) e.cur.core f.dir.toNat).isSome = true)
    (hb : (s.core e.cur.core).arch.beat? (nbrKey f.dir.toNat f.ch.toNat) = some b) :
    Completes (.nbrpop f) s (((s.acts e).popBeat e (nbrKey f.dir.toNat f.ch.toNat)).finish e (fun th =>
      (putD f.o (Tab.get 0 b.elems (th.off % 32)) th).next)) := by
  have hx : exec (.nbrpop f) s = execNbrpop f s := rfl
  obtain ⟨far, hfar⟩ := Option.isSome_iff_exists.1 hf
  rw [Completes, hx, execNbrpop, issue_of_runs _ h, hfar]
  dsimp only
  rw [hb]
  rfl

/-- Without a link both words take PERM (R115, R272). -/
theorem exec_nbr_of_none (hi : i = .nbrpush f ∨ i = .nbrpop f) (h : Runs i s e)
    (hf : nbrCore s (s.ctxOf e.b) e.cur.core f.dir.toNat = none) :
    Completes i s (s.takeFault e.cur 9 0 (laneMask e.act) 0) := by
  rcases hi with rfl | rfl
  · have hx : exec (.nbrpush f) s = execNbrpush f s := rfl
    rw [Completes, hx, execNbrpush, issue_of_runs _ h, hf]
    rfl
  · have hx : exec (.nbrpop f) s = execNbrpop f s := rfl
    rw [Completes, hx, execNbrpop, issue_of_runs _ h, hf]
    rfl

/-- A pushed beat stands at the tail of its queue. -/
theorem State.pushBeat_nbr (s : State) (far key : Nat) (beat : Beat) :
    Tab.get [] ((s.pushBeat far key beat).core far).arch.nbr key = Tab.get [] (s.core far).arch.nbr key ++ [beat] := by
  rw [State.pushBeat, State.updBoth, State.core_updCore]
  exact Tab.get_set_same ..

/-- A pushed beat leaves the threads of the other cores. -/
theorem State.pushBeat_thread? (s : State) {far c : Nat} (key : Nat) (beat : Beat) (h : c ≠ far) (sl l : Nat) :
    (s.pushBeat far key beat).thread? c sl l = s.thread? c sl l := by
  rw [State.thread?, State.pushBeat, State.block?_updBoth_ne _ _ h, State.thread?]

/-- A popped beat leaves its core's blocks and queues but for the head of its own queue. -/
theorem State.popBeat_arch (s : State) (e : Site) (key : Nat) : ((s.popBeat e key).core e.cur.core).arch
    = { (s.core e.cur.core).arch with
        nbr := Tab.set [] (s.core e.cur.core).arch.nbr key (Tab.get [] (s.core e.cur.core).arch.nbr key).tail } := by
  rw [State.popBeat]
  dsimp only
  split
  · rw [State.arch_updChunk, State.core_updArch]
  · rw [State.core_updArch]

theorem State.popBeat_thread? (s : State) (e : Site) (key l : Nat) :
    (s.popBeat e key).thread? e.cur.core e.cur.slot l = s.thread? e.cur.core e.cur.slot l := by
  rw [State.thread?, State.block?, State.popBeat_arch]
  rfl

theorem State.popBeat_mem (s : State) (e : Site) (key : Nat) : (s.popBeat e key).mem = s.mem := by
  rw [State.popBeat]
  dsimp only
  split <;> rfl

/-- Finishing a word leaves the queues of every core. -/
theorem State.finish_nbr (s : State) (e : Site) (g : Thread → Thread) (c : Nat) :
    ((s.finish e g).core c).arch.nbr = (s.core c).arch.nbr := by
  obtain ⟨⟨-, -, harch, -⟩, -⟩ := State.finish_only s e g
  exact (congrArg CoreArch.nbr (harch c) :)

end

/-- Settles O39, by its clauses. -/
theorem neighbourLinks : Obligations.NeighbourLinks := by
  refine ⟨fun f s e far h hr hf => ?_, fun f s e b h hf => ?_, fun i f hi s e h hf => exec_nbr_of_none hi h hf⟩
  · intro key hroom
    have hb : e.names s := State.site?_names h.1
    have qa := Quiet.acts s e
    have q : Quiet s ((s.acts e).noteSources e [f.o]) :=
      qa.trans (Quiet.noteSrcs _ _ _ _ ((qa.block? _ _).trans hb) (by rw [qa.launchOf]; exact hr))
    refine ⟨_, beatSrc s e, exec_nbrpush_of_room h hf hroom, fun l => ?_, ?_, fun a => ?_⟩
    · rw [State.pass, State.finish_goes _ e Thread.next (fun _ => rfl) l,
        State.pushBeat_thread? _ _ _ (Ne.symm (nbrCore_ne hf)), q.thread?]
    · rw [State.pass, State.finish_nbr, State.pushBeat_nbr, q.arch]
    · exact congrArg (Memory.byte · a) q.mem
  · intro key hbeat
    have q := Quiet.acts s e
    refine ⟨_, exec_nbrpop_of_beat h hf hbeat, fun l => ?_, ?_, fun a => ?_⟩
    · rw [State.finish_goes _ e _ (fun th => by simp) l, State.popBeat_thread?, q.thread?]
    · rw [State.finish_nbr, State.popBeat_arch, q.arch]
      exact Tab.get_set_same ..
    · exact congrArg (Memory.byte · a) ((State.popBeat_mem ..).trans q.mem)

end Sys2Proof.Machine
end

section
/-! Proof of O49: the packets of a launch queue (R120, R363, R364, R366). -/

namespace Sys2Proof.Machine

/-! ### A write by the management core -/

theorem Quiet.countShared (s : State) (o b : Nat) : Quiet s (s.countShared o b) := by
  refine Quiet.foldl _ (fun t c => ?_) _ _
  split
  · exact Quiet.count _ _ _ _
  · exact Quiet.refl t

/-- A touch from outside the cores is quiet (R120). -/
theorem Quiet.outTouch (s : State) (ls : List Nat) : Quiet s (s.outTouch ls) := by
  refine Quiet.foldl _ (fun t l => ?_) _ _
  split
  · exact ((Quiet.plat _ _).trans (Quiet.shareOwner _ _ _ _)).trans (Quiet.countShared _ _ _)
  · exact Quiet.refl t

/-- Memory is as given, and no chunk is bad: a squash then makes no block fail, and writes nothing (R388). -/
structure Calm (m : Memory) (s : State) : Prop where
  mem : s.mem = m
  bad : ∀ d, (s.core d).chunk.bad = none

namespace Calm
variable {m : Memory} {s t : State}

theorem foldl {α : Type} {f : State → α → State} (hf : ∀ s a, Calm m s → Calm m (f s a)) (l : List α) (h : Calm m s) :
    Calm m (l.foldl f s) := by
  induction l generalizing s with
  | nil => exact h
  | cons a l ih => exact ih (hf s a h)

/-- A change outside the cores and memory. -/
theorem of_cores (h : Calm m s) (hm : t.mem = s.mem) (hc : t.cores = s.cores) : Calm m t :=
  ⟨hm.trans h.mem, fun d => by rw [State.core, hc]; exact h.bad d⟩

theorem setCore (h : Calm m s) (d : Nat) {k : CoreSt} (hk : k.chunk.bad = none) : Calm m (s.setCore d k) := by
  refine ⟨h.mem, fun x => ?_⟩
  by_cases hx : x = d
  · rw [hx, State.core_setCore]; exact hk
  · rw [State.core_setCore_ne _ _ hx]; exact h.bad x

/-- A change of a core that keeps whether its chunk is bad. -/
theorem updCore (h : Calm m s) (d : Nat) {f : CoreSt → CoreSt} (hf : ∀ k, (f k).chunk.bad = k.chunk.bad) :
    Calm m (s.updCore d f) := h.setCore d ((hf _).trans (h.bad d))

theorem count (h : Calm m s) (d code k : Nat) : Calm m (s.count d code k) := by
  unfold State.count
  dsimp only
  split
  · exact h.setCore d (h.bad d)
  · exact h

theorem updBoth (h : Calm m s) (d : Nat) (f : CoreArch → CoreArch) : Calm m (s.updBoth d f) := h.updCore d fun _ => rfl

theorem breakResv (h : Calm m s) (d : Nat) (o : Overlay) : Calm m (s.breakResv d o) :=
  h.foldl (fun s d' h => by
    split
    · exact h
    · exact h.updBoth _ _) _

theorem shareOwner (h : Calm m s) (l b n : Nat) : Calm m (s.shareOwner l b n) :=
  h.foldl (fun s c h => by
    dsimp only
    split
    · exact h.updCore c (f := fun k => { k with chunk := { k.chunk with wr := _, rd := _ } }) fun _ => rfl
    · exact h) _

theorem countShared (h : Calm m s) (o b : Nat) : Calm m (s.countShared o b) :=
  h.foldl (fun s c h => by
    split
    · exact h.count _ _ _
    · exact h) _

/-- A touch from outside the cores. -/
theorem outTouch (h : Calm m s) (ls : List Nat) : Calm m (s.outTouch ls) :=
  h.foldl (fun s l h => by
    split
    · refine countShared (shareOwner ?_ _ _ _) _ _
      exact h.of_cores rfl rfl
    · exact h) _

theorem dropUnleft (h : Calm m s) (d : Nat) : Calm m (s.dropUnleft d) := by
  unfold State.dropUnleft
  exact (h.updCore d (f := fun k => { k with eng := { k.eng with streams := Tab.mapV k.eng.streams _ } }) fun _ => rfl).of_cores
    rfl rfl

theorem unstamp (h : Calm m s) (d x : Nat) : Calm m (s.unstamp d x) := by
  unfold State.unstamp
  exact h.of_cores rfl rfl

/-- A squash of a chunk that is not bad (R137). -/
theorem squash (h : Calm m s) (d : Nat) : Calm m (s.squash d) := by
  have h0 := h.updBoth d CoreArch.flipsEnd
  unfold State.squash
  dsimp only
  rw [h0.bad d]
  dsimp only
  refine count ?_ d 4 1
  refine foldl (fun _ _ h => h.updBoth _ _) _ ?_
  refine unstamp ?_ _ _
  refine dropUnleft ?_ _
  split
  · exact of_cores (h0.setCore d rfl) rfl rfl
  · exact h0.setCore d rfl

theorem broadcast (h : Calm m s) (part : Nat) (c : Option Nat) (wr : List Nat) : Calm m (s.broadcast part c wr) := by
  unfold State.broadcast
  split
  · exact h
  · refine h.foldl (fun s d h => ?_) _
    split
    · exact h
    · have h' := h.updCore d (f := fun k => { k with l1c := k.l1c.filter (fun l => !wr.contains l) }) (fun _ => rfl)
      dsimp only
      split
      · exact h'.squash d
      · exact h'

/-- The management core's write puts its bytes into memory, while no chunk is bad (R120, R136). -/
theorem outWrite (h : Calm m s) (key : Nat) (bs : List Byte) : Calm (Memory.write m key bs) (s.outWrite key bs) := by
  have ht := h.outTouch (linesOf key bs.length)
  have hw : Calm (Memory.write m key bs) (((s.outTouch (linesOf key bs.length)).keepOld
      (fun _ => (List.range bs.length).map (fun i => key + i))).writeMem key bs) :=
    ⟨congrArg (fun m => Memory.write m key bs) ht.mem, ht.bad⟩
  exact foldl (fun _ _ h => h.broadcast _ _ _) _ (hw.breakResv _ _)

end Calm

/-- What memory holds after a number has been written by the management core. -/
theorem outWrite_natLe {s : State} (hb : ∀ c, (s.core c).chunk.bad = none) (k n v : Nat) :
    Memory.read (s.outWrite k (natLe n v)).mem k n = natLe n v
      ∧ ∀ a, a < k ∨ k + n ≤ a → Memory.byte (s.outWrite k (natLe n v)).mem a = Memory.byte s.mem a := by
  have h : Calm s.mem s := ⟨rfl, hb⟩
  rw [(h.outWrite k (natLe n v)).mem]
  have hr := Memory.read_write s.mem k (natLe n v)
  rw [natLe_length] at hr
  exact ⟨hr, fun a ha => Memory.byte_write_out _ _ _ _ (by rwa [natLe_length])⟩

/-! ### The events of a packet -/

/-- Reading a packet and its descriptor touches lines only (R120). -/
theorem Quiet.sawPacket (s : State) (p : Packet64) : Quiet s (s.sawPacket p) :=
  (Quiet.outTouch _ _).trans (Quiet.outTouch _ _)

section
variable {x q : Nat} {s : State} {p : Packet64} (hp : headPacket s x q = some p) (hg : p.good = true)
include hp hg

/-- A packet is consumed by the event of its type. -/
theorem onPacket_of_head {ty : Nat} (ht : p.ty = ty) (act : Packet64 → State → State) :
    onPacket s x q ty act = .next (act p (s.sawPacket p)) := by
  rw [onPacket, hp]
  simp [hg, ht]

omit hp hg in
/-- A SETDET or QFENCE of an idle queue acts. -/
theorem waitPacket_of_idle (hi : queueIdle s x q = true) (act : State → State) :
    (s.sawPacket p).waitPacket x q p act = (act (s.sawPacket p)).consume x q p := by
  have hq : queueIdle (s.sawPacket p) x q = true := by rw [queueIdle, (Quiet.sawPacket s p).launches]; exact hi
  rw [State.waitPacket, if_pos hq]

omit hp hg in
/-- One of another queue waits, and writes nothing. -/
theorem waitPacket_of_busy (hi : queueIdle s x q = false) (act : State → State) :
    (((s.sawPacket p).waitPacket x q p act).queue x q).waiting = true
      ∧ ((s.sawPacket p).waitPacket x q p act).mem = s.mem := by
  have hq : queueIdle (s.sawPacket p) x q = false := by rw [queueIdle, (Quiet.sawPacket s p).launches]; exact hi
  rw [State.waitPacket, hq, if_neg Bool.false_ne_true]
  refine ⟨?_, (Quiet.sawPacket s p).mem⟩
  rw [State.queue, State.setQueue, State.ctx_updCtx, Tab.get_set_same]

/-- The packets of a SETDET and of a QFENCE, whatever the queue does. -/
theorem exec_setdet_of_head (ht : p.ty = 3) (hv : p.val.toNat ≤ 3) : exec (.setdet x q) s
    = .next ((s.sawPacket p).waitPacket x q p (fun s => s.outWrite (p.d.key + 0xA) (natLe 1 p.val.toNat))) := by
  have hx : exec (.setdet x q) s = execSetdet x q s := rfl
  rw [hx, execSetdet, onPacket_of_head hp hg ht, if_neg (Nat.not_lt.2 hv)]

theorem exec_qfence_of_head (ht : p.ty = 4) :
    exec (.qfence x q) s = .next ((s.sawPacket p).waitPacket x q p (fun s => s)) := by
  have hx : exec (.qfence x q) s = execQfence x q s := rfl
  rw [hx, execQfence, onPacket_of_head hp hg ht]

/-- The release of a waiting QFENCE consumes it. -/
theorem exec_queueWaitRelease_of_fence (ht : p.ty = 4) (hi : queueIdle s x q = true) (hw : (s.queue x q).waiting = true) :
    Completes (.queueWaitRelease x q) s ((s.sawPacket p).consume x q p) := by
  have hx : exec (.queueWaitRelease x q) s = execQueueWaitRelease x q s := rfl
  have hf : execQfence x q s = .next ((s.sawPacket p).waitPacket x q p (fun s => s)) := exec_qfence_of_head hp hg ht
  rw [Completes, hx, execQueueWaitRelease, hw, hi, hp]
  simp only [ht, Bool.and_self, if_true, hf, waitPacket_of_idle hi]
  rfl

omit hg in
/-- A packet of an unassigned type, or with a byte set that is to be zero, is skipped. -/
theorem exec_unassignedPacket_of_head (h : 4 < p.ty ∨ p.good = false) :
    Completes (.unassignedPacket x q) s ((s.sawPacket p).skip x q p) := by
  have hx : exec (.unassignedPacket x q) s = execUnassignedPacket x q s := rfl
  rw [Completes, hx, execUnassignedPacket, hp]
  simp [h]

end

/-- A decrement that leaves the counter above zero writes the counter only (R366). -/
theorem decrement_of_lt {s : State} {rec n : Nat} (h : n < s.natMem (rec + 0x30) 4) (x q : Nat) :
    s.decrement x q rec n = s.outWrite (rec + 0x30) (natLe 4 (s.natMem (rec + 0x30) 4 - n)) := by
  rw [State.decrement]
  simp only [if_neg (Nat.not_lt.2 h.le), if_pos (show s.natMem (rec + 0x30) 4 - n ≠ 0 by omega)]

theorem natMem_lt (s : State) (k n : Nat) : s.natMem k n < 256 ^ n := by
  rw [State.natMem, Memory.nat]
  have hlen : (Memory.read s.mem k n).length = n := by simp [Memory.read]
  generalize Memory.read s.mem k n = bs at hlen
  induction bs generalizing n with
  | nil => simp [leNat, ← hlen]
  | cons b bs ih =>
    obtain rfl : bs.length + 1 = n := hlen
    have := ih bs.length rfl
    have := b.isLt
    simp only [leNat, List.foldr_cons] at *
    rw [pow_succ]
    omega

/-- Settles O49: the events of the packets by type, and what consuming one and a decrement write. -/
theorem packetsConsumed : Obligations.PacketsConsumed := by
  refine ⟨fun x q s p hp => ?_, fun x q s p hb => outWrite_natLe hb _ _ _, fun x q rec n s hb hn => ?_⟩
  · intro s'
    refine ⟨fun hg ht => ?_, fun hg ht => ?_, fun hg ht h0 hv => ?_, fun hg ht hv hi => ?_, fun hg ht hi => ?_,
      fun hg ht hi => ?_, fun hg ht hi hw => exec_queueWaitRelease_of_fence hp hg ht hi hw, exec_unassignedPacket_of_head hp⟩
    · have hx : exec (.packetNop x q) s = onPacket s x q 0 (fun p s => s.consume x q p) := rfl
      rw [Completes, hx, onPacket_of_head hp hg ht]
    · have hx : exec (.launchPacket x q) s = onPacket s x q 1 (fun p s => (s.dequeue x q p.addr p.d).consume x q p) := rfl
      rw [Completes, hx, onPacket_of_head hp hg ht]
    · have hx : exec (.decrPacket x q) s = execDecrPacket x q s := rfl
      rw [Completes, hx, execDecrPacket, onPacket_of_head hp hg ht, if_neg (by simpa using And.intro h0 hv)]
    · rw [Completes, exec_setdet_of_head hp hg ht hv, waitPacket_of_idle hi]
    · rw [Completes, exec_qfence_of_head hp hg ht, waitPacket_of_idle hi]
    · rcases ht with ⟨ht, hv⟩ | ht
      · exact ⟨_, by rw [if_pos ht]; exact exec_setdet_of_head hp hg ht hv, waitPacket_of_busy hi _⟩
      · exact ⟨_, by rw [if_neg (by omega)]; exact exec_qfence_of_head hp hg ht, waitPacket_of_busy hi _⟩
  · rw [decrement_of_lt hn]
    obtain ⟨hread, hout⟩ := outWrite_natLe hb (rec + 0x30) 4 (s.natMem (rec + 0x30) 4 - n)
    refine ⟨?_, hout⟩
    rw [State.natMem, Memory.nat, hread, leNat_natLe]
    have := natMem_lt s (rec + 0x30) 4
    exact Nat.mod_eq_of_lt (by omega)

end Sys2Proof.Machine
end

section
/-! What the traces of a word's sources leave alone beside what `Quiet` says: the engines of every core, and the word that issues. -/

namespace Sys2Proof.Machine

/-- A value of the state that does not depend on the ownership of lines, and of a core on its engines, its count of
chunks, what switches have saved and the block that its chunk's handler has changed at most. -/
structure Ignores {β : Type} (π : State → β) : Prop where
  plat : ∀ (s : State) (p : Tab Plat), π { s with plat := p } = π s
  core : ∀ (s : State) (c : Nat) (k : CoreSt), k.eng = (s.core c).eng → k.chunks = (s.core c).chunks →
    k.saved = (s.core c).saved → k.chunk.served = (s.core c).chunk.served → π (s.setCore c k) = π s

/-- The engines of a core are such a value. -/
theorem Ignores.eng (d : Nat) : Ignores (fun s => (s.core d).eng) := by
  refine ⟨fun _ _ => rfl, fun s c k hk _ _ _ => ?_⟩
  by_cases h : d = c
  · subst h; rw [State.core_setCore, hk]
  · rw [State.core_setCore_ne _ _ h]

/-- The chunks that a core has closed are such a value. -/
theorem Ignores.chunks (d : Nat) : Ignores (fun s => (s.core d).chunks) := by
  refine ⟨fun _ _ => rfl, fun s c k _ hk _ _ => ?_⟩
  by_cases h : d = c
  · subst h; rw [State.core_setCore, hk]
  · rw [State.core_setCore_ne _ _ h]

/-- What switches have saved of a core is such a value. -/
theorem Ignores.saved (d : Nat) : Ignores (fun s => (s.core d).saved) := by
  refine ⟨fun _ _ => rfl, fun s c k _ _ hk _ => ?_⟩
  by_cases h : d = c
  · subst h; rw [State.core_setCore, hk]
  · rw [State.core_setCore_ne _ _ h]

/-- The block that the handler has changed in a core's chunk is such a value. -/
theorem Ignores.served (d : Nat) : Ignores (fun s => (s.core d).chunk.served) := by
  refine ⟨fun _ _ => rfl, fun s c k _ _ _ hk => ?_⟩
  by_cases h : d = c
  · subst h; rw [State.core_setCore, hk]
  · rw [State.core_setCore_ne _ _ h]

/-- The word that issues is such a value. -/
theorem Ignores.cur : Ignores State.cur := ⟨fun _ _ => rfl, fun _ _ _ _ _ _ _ => rfl⟩

/-- A value that every step of a fold keeps. -/
theorem foldl_keeps {α β : Type} (π : State → β) {f : State → α → State} (hf : ∀ s a, π (f s a) = π s) (l : List α)
    (s : State) : π (l.foldl f s) = π s := by
  induction l generalizing s with
  | nil => rfl
  | cons a l ih => rw [List.foldl_cons, ih, hf]

namespace Ignores
variable {β : Type} {π : State → β} (h : Ignores π) (s : State)
include h

theorem count (c code n : Nat) : π (s.count c code n) = π s := by
  unfold State.count
  dsimp only
  split
  · exact h.core _ _ _ rfl rfl rfl rfl
  · rfl

theorem updChunk (c : Nat) {f : Chunk → Chunk} (hf : ∀ k, (f k).served = k.served) : π (s.updChunk c f) = π s :=
  h.core _ _ _ rfl rfl rfl (hf _)

theorem acts (e : Site) : π (s.acts e) = π s := by
  unfold State.acts State.dirty
  split
  · rfl
  · dsimp only
    split
    · exact h.core _ _ _ rfl rfl rfl rfl
    · rfl

theorem shareOwner (l b n : Nat) : π (s.shareOwner l b n) = π s :=
  foldl_keeps π (fun t c => by
    dsimp only
    split
    · exact h.updChunk _ _ (by intro; rfl)
    · rfl) _ s

theorem touch (l b n : Nat) : π (s.touch l b n) = π s := by
  unfold State.touch
  split
  · exact h.plat _ _
  · split
    · rfl
    · exact (h.shareOwner _ _ _ _).trans (h.plat _ _)
  · split
    · rfl
    · exact h.plat _ _

theorem touchOn (c l b n : Nat) : π (s.touchOn c l b n) = π s := by
  unfold State.touchOn
  dsimp only
  split
  · split
    · exact h.touch _ _ _ _
    · exact (h.count _ _ _ _).trans (h.touch _ _ _ _)
  · exact h.touch _ _ _ _

theorem trackRead (c sl k n : Nat) : π (s.trackRead c sl k n) = π s := by
  unfold State.trackRead
  split
  · rfl
  next b _ =>
    refine foldl_keeps π (fun t l => ?_) _ s
    have ht := h.touchOn t c b.launch b.lin l
    have hchunk : ∀ f : Chunk → Chunk, (∀ k, (f k).served = k.served) → π ((t.touchOn c b.launch b.lin l).updChunk c f) = π t :=
      fun f hf => (h.updChunk _ c hf).trans ht
    simp only [apply_ite π]
    rw [ht, hchunk, hchunk, ite_self, ite_self]
    · exact fun _ => rfl
    · exact fun _ => rfl

/-- The traces of a read of a scoped register keep it too, in a launch that is not checked for races. -/
theorem noteScoped {s : State} (e : Site) (th : Thread) (k i : Nat) (w t : Bool) (hb : e.names s)
    (hr : (s.launchOf e.b).race = false) : π (s.noteScoped e th k i w t) = π s := by
  unfold State.noteScoped
  split
  · split
    · rw [State.stamp_off _ _ _ _ _ _ _ _ _ _ hb hr]
    · rfl
  · split
    · next key _ =>
      have q : Quiet s (if w || !t then s else s.trackRead e.cur.core e.cur.slot key 8) := by
        split
        · exact Quiet.refl s
        · exact Quiet.trackRead _ _ _ _ _
      rw [State.stamp_off _ _ _ _ _ _ _ _ _ e.b ((q.block? _ _).trans hb) (by rw [q.launchOf]; exact hr)]
      split
      · rfl
      · exact h.trackRead _ _ _ _ _
    · rfl

omit h in
/-- A fold of quiet steps that keep it. -/
theorem foldl_quiet {α : Type} (e : Site) {f : State → α → State}
    (hq : ∀ s a, e.names s → (s.launchOf e.b).race = false → Quiet s (f s a) ∧ π (f s a) = π s) (l : List α) {s : State}
    (hb : e.names s) (hr : (s.launchOf e.b).race = false) : π (l.foldl f s) = π s := by
  induction l generalizing s with
  | nil => rfl
  | cons a l ih =>
    obtain ⟨q, hk⟩ := hq s a hb hr
    exact (ih ((q.block? _ _).trans hb) (by rw [q.launchOf]; exact hr)).trans hk

theorem noteSources {s : State} (e : Site) (os : List Operand) (hb : e.names s) (hr : (s.launchOf e.b).race = false) :
    π (s.noteSources e os) = π s := by
  refine foldl_quiet e (fun s o hb hr => ?_) os hb hr
  split
  next l i =>
    exact ⟨Quiet.foldl_at e _ (fun s th hb hr => Quiet.noteScoped s e th _ _ _ _ hb hr) _ s hb hr,
      foldl_quiet e (fun s th hb hr => ⟨Quiet.noteScoped s e th _ _ _ _ hb hr, h.noteScoped e th _ _ _ _ hb hr⟩) _ hb hr⟩
  next => exact ⟨Quiet.refl s, rfl⟩

end Ignores

end Sys2Proof.Machine
end

section
/-! Proof of O40, first part: the streams of commands (R155, R278, R279). -/

namespace Sys2Proof.Machine

/-! ### Streams -/

section
variable (s : State) (r : StreamRef)

@[simp] theorem State.stream_setStream (st : Stream) : (s.setStream r st).stream r = st := by
  unfold State.setStream State.stream
  split
  · rw [State.ctx_updCtx, Tab.get_set_same]
  · rw [State.core_updCore, Tab.get_set_same]

/-- Stream numbers tell the streams of one unit apart. -/
theorem StreamRef.ext_unit {r r' : StreamRef} (he : r'.eng = r.eng) (hu : r'.unit = r.unit)
    (hs : r'.stream.toNat = r.stream.toNat) : r' = r := by
  obtain ⟨e, u, st⟩ := r
  obtain ⟨e', u', st'⟩ := r'
  obtain rfl : e' = e := he
  obtain rfl : u' = u := hu
  obtain rfl : st' = st := BitVec.eq_of_toNat_eq hs
  rfl

/-- A stream's new state changes no other stream. -/
theorem State.stream_setStream_ne (st : Stream) {r' : StreamRef} (h : r' ≠ r) :
    (s.setStream r st).stream r' = s.stream r' := by
  unfold State.setStream State.stream
  by_cases h3 : r.eng = 3
  · rw [if_pos h3]
    by_cases h3' : r'.eng = 3
    · rw [if_pos h3', if_pos h3']
      by_cases hu : r'.unit = r.unit
      · rw [hu, State.ctx_updCtx]
        exact Tab.get_set_ne _ _ _ fun hs => h (StreamRef.ext_unit (h3'.trans h3.symm) hu hs)
      · rw [State.ctx_updCtx_ne _ _ hu]
    · rw [if_neg h3', if_neg h3', State.core_updCtx]
  · rw [if_neg h3]
    by_cases h3' : r'.eng = 3
    · rw [if_pos h3', if_pos h3', State.ctx_updCore]
    · rw [if_neg h3', if_neg h3']
      by_cases hu : r'.unit = r.unit
      · rw [hu, State.core_updCore]
        refine Tab.get_set_ne _ _ _ fun hs => h ?_
        have hl := r.stream.isLt
        have hl' := r'.stream.isLt
        exact StreamRef.ext_unit (BitVec.eq_of_toNat_eq (by omega)) hu (by omega)
      · rw [State.core_updCore_ne _ _ hu]

/-- A stream depends on the engines of its core, or on the streams of its context. -/
theorem State.stream_congr {t : State} (he : (t.core r.unit).eng = (s.core r.unit).eng)
    (hx : (t.ctx r.unit).streams = (s.ctx r.unit).streams) : t.stream r = s.stream r := by
  unfold State.stream
  rw [he, hx]

theorem State.eng_updCore (c d : Nat) {f : CoreSt → CoreSt} (hf : ∀ k, (f k).eng = k.eng) :
    ((s.updCore c f).core d).eng = (s.core d).eng := by
  by_cases h : d = c
  · rw [h, State.core_updCore, hf]
  · rw [State.core_updCore_ne _ _ h]

/-- A change of a core that keeps its engines keeps every stream. -/
theorem State.stream_updCore (c : Nat) {f : CoreSt → CoreSt} (hf : ∀ k, (f k).eng = k.eng) :
    (s.updCore c f).stream r = s.stream r := State.stream_congr s r (State.eng_updCore s c _ hf) rfl

/-- A reply changes no stream, and no byte of memory (R279). -/
theorem State.stream_reply (q : Cmd) (v : Word) : (s.reply q v).stream r = s.stream r := by
  unfold State.reply
  split
  · dsimp only
    rw [State.stream_updCore _ _ _ (by intro; rfl), State.updBoth, State.stream_updCore _ _ _ (by intro; rfl)]
  · rfl

theorem State.mem_reply (q : Cmd) (v : Word) : (s.reply q v).mem = s.mem := by
  unfold State.reply
  split <;> rfl

theorem State.mem_setStream (st : Stream) : (s.setStream r st).mem = s.mem := by
  unfold State.setStream
  split <;> rfl

theorem State.block?_setStream (st : Stream) (c sl : Nat) : (s.setStream r st).block? c sl = s.block? c sl := by
  unfold State.setStream State.block?
  split
  · rfl
  · by_cases h : c = r.unit
    · rw [h, State.core_updCore]
    · rw [State.core_updCore_ne _ _ h]

end

/-- A change of a core that keeps its blocks. -/
theorem State.block?_updCore (s : State) (c d sl : Nat) {f : CoreSt → CoreSt} (hf : ∀ k, (f k).arch = k.arch) :
    (s.updCore c f).block? d sl = s.block? d sl := by
  rw [State.block?, State.block?]
  by_cases h : d = c
  · rw [h, State.core_updCore, hf]
  · rw [State.core_updCore_ne _ _ h]

/-- A reply changes the block of its slot as it says (R279). -/
theorem State.block?_reply (s : State) {q : Cmd} {id : BlockId} {sl : Nat} {ts : List Nat} {g : BitVec 7}
    (hb : q.blk = some id) (hr : q.reply = some (sl, ts, g)) (v : Word) :
    (s.reply q v).block? q.core sl = (s.block? q.core sl).map (fun b => if b.launch == id.launch && b.lin == id.lin then
      b.mapTids ts (fun th => { th with v := Tab.set 0 th.v g.toNat v, bad := th.bad.filter (fun r => r.toNat != g.toNat) })
      else b) := by
  rw [State.reply, hb, hr]
  dsimp only
  rw [State.block?_updCore _ _ _ _ (by intro; rfl), State.block?_updBoth]
  exact State.block?_updBlock s q.core sl _

/-! ### The commands that leave -/

section
variable (s : State) (c x num : Nat) (view : Overlay)

/-- A command as it leaves its core, behind some others on a stream with a format word (R155). -/
def Cmd.leaves (s : State) (c x num : Nat) (view : Overlay) (pre : List Cmd) (fmtw : Word) (q : Cmd) : Cmd :=
  if q.goes c num = true then { q with
    left := true, view := view, sentAt := Tab.get 0 (s.core c).sent x
    leaveErr := if q.checked then none else leaveCheck s (q.blk.bind s.issuer?) c x q.fn q.ps (fmtAfter pre fmtw) } else q

theorem Stream.leave_q (st : Stream) : (Stream.leave s c x num view st).q
    = st.q.mapIdx (fun i q => q.leaves s c x num view (st.q.take i) st.fmtw) := rfl

/-- A command that leaves shows so, and one that does not is as it was. -/
theorem Cmd.shown_leaves (pre : List Cmd) (fmtw : Word) (q : Cmd) :
    (q.leaves s c x num view pre fmtw).shown = (q.num, q.fn, q.left || q.goes c num) := by
  unfold Cmd.leaves
  cases h : q.goes c num with
  | true => rw [if_pos rfl, Bool.or_true]; rfl
  | false => rw [if_neg Bool.false_ne_true, Bool.or_false]; rfl

/-- The commands that one XC queued on the fabric engine, as they reach it (R279). -/
def Stream.arrived (st : Stream) (c num : Nat) : List Cmd :=
  (st.q.filter (fun q => q.goes c num)).mapIdx (fun j q => { q with num := st.i + 1 + j })

theorem Stream.number_eq (st : Stream) : st.number c num = { st with
    i := st.i + (st.q.filter (fun q => q.goes c num)).length
    q := st.q.filter (fun q => q.left) ++ st.arrived c num
      ++ st.q.filter (fun q => !q.left && !(q.core == c && q.order == num)) } := by
  have hmine : ∀ q : Cmd, (!q.left && q.core == c && q.order == num) = q.goes c num := fun q => by
    rw [Cmd.goes]
    cases q.left <;> cases q.core == c <;> cases q.order == num <;> rfl
  rw [Stream.number, Stream.arrived]
  simp only [hmine]

/-- A command on the fabric engine has its reply due: it has just been numbered, and is no CNTRD (R279, R306). -/
def Cmd.due (i : Nat) (q : Cmd) : Bool := q.left && i < q.num && q.fn != 0x62

/-- The commands of a fabric stream once some have left. -/
def Stream.after (s : State) (c x num : Nat) (view : Overlay) (st : Stream) : Stream :=
  Stream.leave s c x num view (st.number c num)

/-- What a stream of the fabric engine becomes, and the replies that go out with it (R155, R279). -/
theorem State.leave_fabric (st : Nat) : s.leave c 3 st num x view =
    let r : StreamRef := ⟨3, x, BitVec.ofNat 4 st⟩
    let a := (s.stream r).after s c x num view
    (a.q.filter (Cmd.due (s.stream r).i)).foldl (fun s q => s.reply q (BitVec.ofNat 64 q.num)) (s.setStream r { a with
      q := a.q.map (fun q => if q.due (s.stream r).i then { q with reply := none } else q) }) := rfl

end

end Sys2Proof.Machine
end

section
/-! Proof of O40, second part: the commands that leave a core (R155, R279, R282, R295). -/

namespace Sys2Proof.Machine

/-- A command of one of a core's own engines leaves: nothing changes but what it shows (R155). -/
theorem leave_core (c x eng st num : Nat) (view : Overlay) (s : State) (h : eng < 3) :
    let r : StreamRef := ⟨BitVec.ofNat 2 eng, c, BitVec.ofNat 4 st⟩
    s.leave c eng st num x view = s.setStream r (Stream.leave s c x num view (s.stream r)) := by
  have h3 : eng ≠ 3 := by omega
  rw [State.leave]
  dsimp only
  rw [if_neg h3, if_neg h3]

section
variable {s : State} {c x num : Nat} {view : Overlay}

/-- Where a command of a core's stream has left, it shows so, in its place. -/
theorem Stream.leave_get (st : Stream) {i : Nat} {q : Cmd} (hq : st.q[i]? = some q) :
    (Stream.leave s c x num view st).q[i]? = some (q.leaves s c x num view (st.q.take i) st.fmtw) := by
  rw [Stream.leave_q, List.getElem?_mapIdx, hq]
  rfl

/-! ### The fabric engine -/

variable {st : Stream}

/-- A command that the XC did not queue does not leave with it. -/
theorem Cmd.goes_of_rest {q : Cmd} (h : (!q.left && !(q.core == c && q.order == num)) = true) :
    q.left = false ∧ q.goes c num = false := by
  rw [Cmd.goes]
  cases hl : q.left <;> cases hc : q.core == c <;> cases ho : q.order == num <;> simp [hl, hc, ho] at h ⊢

/-- What the commands of a fabric stream show when some have left (R279). -/
theorem Stream.after_shown : (st.after s c x num view).q.map Cmd.shown = (st.q.filter (fun q => q.left)).map Cmd.shown
    ++ (st.q.filter (fun q => q.goes c num)).mapIdx (fun j q => (st.i + 1 + j, q.fn, true))
    ++ (st.q.filter (fun q => !q.left && !(q.core == c && q.order == num))).map Cmd.shown := by
  have hshow : (st.after s c x num view).q.map Cmd.shown
      = (st.number c num).q.map (fun q => (q.num, q.fn, q.left || q.goes c num)) := by
    rw [Stream.after, Stream.leave_q]
    refine List.ext_getElem? fun i => ?_
    rw [List.getElem?_map, List.getElem?_mapIdx, List.getElem?_map, Option.map_map]
    exact congrArg (Option.map · _) (funext fun q => Cmd.shown_leaves ..)
  rw [hshow, Stream.number_eq, List.map_append, List.map_append]
  congr 1
  · congr 1
    · refine List.map_congr_left fun q hq => ?_
      have hl : q.left = true := (List.mem_filter.1 hq).2
      rw [Cmd.shown, hl, Bool.true_or]
    · refine List.ext_getElem? fun i => ?_
      rw [Stream.arrived, List.getElem?_map, List.getElem?_mapIdx, List.getElem?_mapIdx, Option.map_map]
      refine Option.map_congr fun q hq => ?_
      have hg : q.goes c num = true := (List.mem_filter.1 (List.mem_of_getElem? hq)).2
      have hg' : ({ q with num := st.i + 1 + i } : Cmd).goes c num = true := hg
      simp only [Function.comp, hg', Bool.or_true]
  · refine List.map_congr_left fun q hq => ?_
    have hn := (List.mem_filter.1 hq).2
    rw [Cmd.shown, (Cmd.goes_of_rest hn).2, Bool.or_false]

theorem Stream.after_i : (st.after s c x num view).i = st.i + (st.q.filter (fun q => q.goes c num)).length := by
  rw [Stream.after, Stream.number_eq]
  rfl

/-- A command keeps its number, function, core, block and reply register when it leaves. -/
theorem Cmd.leaves_keeps (pre : List Cmd) (fmtw : Word) (q : Cmd) : (q.leaves s c x num view pre fmtw).num = q.num
    ∧ (q.leaves s c x num view pre fmtw).core = q.core ∧ (q.leaves s c x num view pre fmtw).blk = q.blk
    ∧ (q.leaves s c x num view pre fmtw).reply = q.reply := by
  unfold Cmd.leaves
  split <;> exact ⟨rfl, rfl, rfl, rfl⟩

theorem Cmd.due_leaves (i : Nat) (pre : List Cmd) (fmtw : Word) (q : Cmd) : (q.leaves s c x num view pre fmtw).due i
    = ((q.left || q.goes c num) && i < q.num && q.fn != 0x62) := by
  have h := Cmd.shown_leaves s c x num view pre fmtw q
  simp only [Cmd.shown, Prod.mk.injEq] at h
  obtain ⟨hnum, hfn, hleft⟩ := h
  rw [Cmd.due, hnum, hfn, hleft]

/-- Commands of which none has its reply due. -/
theorem filter_due_mapIdx {i : Nat} {qs : List Cmd} {f : Nat → Cmd → Cmd} (h : ∀ j, ∀ q ∈ qs, (f j q).due i = false) :
    (qs.mapIdx f).filter (Cmd.due i) = [] := by
  refine List.filter_eq_nil_iff.2 fun q' hq' => ?_
  obtain ⟨j, hj, rfl⟩ := List.mem_mapIdx.1 hq'
  rw [h j _ (List.getElem_mem hj)]
  exact Bool.false_ne_true

/-- Of one command that reaches the fabric engine alone, the reply is due, unless it is a CNTRD (R279, R306). -/
theorem Stream.after_due {q : Cmd} (hleft : ∀ q ∈ st.q, q.left = true → q.num ≤ st.i)
    (hmine : st.q.filter (fun q => q.goes c num) = [q]) (hfn : q.fn ≠ 0x62) :
    ∃ q', (st.after s c x num view).q.filter (Cmd.due st.i) = [q'] ∧ q'.num = st.i + 1 ∧ q'.core = q.core ∧ q'.blk = q.blk
      ∧ q'.reply = q.reply := by
  have hmem : q ∈ st.q.filter (fun q => q.goes c num) := by rw [hmine]; exact List.mem_singleton.2 rfl
  have hgoes : q.goes c num = true := (List.mem_filter.1 hmem).2
  have hone : st.arrived c num = [{ q with num := st.i + 1 }] := by rw [Stream.arrived, hmine]; rfl
  rw [Stream.after, Stream.leave_q, Stream.number_eq, hone, List.mapIdx_append, List.mapIdx_append, List.filter_append,
    List.filter_append, filter_due_mapIdx (qs := st.q.filter (fun q => q.left)), List.nil_append,
    filter_due_mapIdx (qs := st.q.filter (fun q => !q.left && !(q.core == c && q.order == num))), List.append_nil]
  · have hg' : ({ q with num := st.i + 1 } : Cmd).goes c num = true := hgoes
    rw [List.mapIdx_cons, List.mapIdx_nil, List.filter_cons_of_pos, List.filter_nil]
    · exact ⟨_, rfl, Cmd.leaves_keeps ..⟩
    · rw [Cmd.due_leaves, hg', Bool.or_true]
      simp [hfn]
  · intro j q' hq'
    have hn := (Cmd.goes_of_rest (List.mem_filter.1 hq').2)
    rw [Cmd.due_leaves, hn.1, hn.2]
    rfl
  · intro j q' hq'
    obtain ⟨hin, hl⟩ := List.mem_filter.1 hq'
    have hle := hleft q' hin hl
    rw [Cmd.due_leaves, decide_eq_false (Nat.not_lt.2 hle), Bool.and_false, Bool.false_and]

end

end Sys2Proof.Machine
end

section
/-! Proof of O40, third part: what an engine instruction queues (R275-R279, R284, R301). -/

namespace Sys2Proof.Machine

/-! ### What queueing leaves alone -/

/-- From `s` to `u` memory, the site's block, what the core's chunk has written and holds, the launches and what is in flight stay as
they are: a word has only queued commands and taken numbers. -/
structure Enqueues (s u : State) (e : Site) : Prop where
  mem : u.mem = s.mem
  block : u.block? e.cur.core e.cur.slot = s.block? e.cur.core e.cur.slot
  held : (u.core e.cur.core).chunk.held = (s.core e.cur.core).chunk.held
  ovl : (u.core e.cur.core).chunk.ovl = (s.core e.cur.core).chunk.ovl
  launches : u.launches = s.launches
  flights : u.flights = s.flights

theorem State.chunk_updCore (s : State) (c d : Nat) {f : CoreSt → CoreSt} (hf : ∀ k, (f k).chunk = k.chunk) :
    ((s.updCore c f).core d).chunk = (s.core d).chunk := by
  by_cases h : d = c
  · rw [h, State.core_updCore, hf]
  · rw [State.core_updCore_ne _ _ h]

namespace Enqueues
variable {s u : State} {e : Site} (h : Enqueues s u e)
include h

omit h in
theorem of_quiet (q : Quiet s u) : Enqueues s u e := ⟨q.mem, q.block? .., q.held _, q.ovl _, q.launches, q.flights⟩

/-- A change of a core that keeps its blocks and its chunk. -/
theorem updCore (c : Nat) {f : CoreSt → CoreSt} (hb : ∀ k, (f k).arch.blocks = k.arch.blocks) (hc : ∀ k, (f k).chunk = k.chunk) :
    Enqueues s (u.updCore c f) e := by
  obtain ⟨hm, hk, hh, ho, hl, hf⟩ := h
  refine ⟨hm, Eq.trans ?_ hk, ?_, ?_, hl, hf⟩
  · rw [State.block?, State.block?, CoreArch.block?, CoreArch.block?]
    by_cases hd : e.cur.core = c
    · rw [hd, State.core_updCore, hb]
    · rw [State.core_updCore_ne _ _ hd]
  · rw [State.chunk_updCore _ _ _ hc, hh]
  · rw [State.chunk_updCore _ _ _ hc, ho]

theorem updCtx (x : Nat) (f : Ctx → Ctx) : Enqueues s (u.updCtx x f) e := ⟨h.mem, h.block, h.held, h.ovl, h.launches, h.flights⟩

theorem enqueue (r : StreamRef) (qs : List Cmd) : Enqueues s (u.enqueue r qs) e := by
  unfold State.enqueue State.setStream
  split
  · exact h.updCtx _ _
  · exact h.updCore _ (by intro; rfl) (by intro; rfl)

theorem takeNumbers (c key n : Nat) : Enqueues s (u.takeNumbers c key n) e := by
  unfold State.takeNumbers State.updArch
  exact h.updCore c (by intro; rfl) (by intro; rfl)

/-- With the group going on, the word has only queued. -/
theorem finish {f : Thread → Thread} (hf : ∀ th, (f th).ltid = th.ltid) :
    OnlyQueues s (u.finish e f) e ∧ GroupGoes s (u.finish e f) e f := by
  obtain ⟨⟨hmem, -, -, hovl, -, hla, -, hfl, -⟩, hblock, hheld⟩ := State.finish_only u e f
  refine ⟨⟨fun a => by rw [hmem, h.mem], ?_, ?_, (hovl _).trans h.ovl, hla.trans h.launches, hfl.trans h.flights⟩, fun l => ?_⟩
  · rw [BlockGoes, ← h.block]
    exact hblock
  · rw [Holds, ← h.held]
    exact hheld
  · rw [State.finish_goes u e f hf l, State.thread?, State.thread?, h.block]

end Enqueues

/-! ### Numbers and streams -/

section
variable (s : State)

theorem State.stream_enqueue (r : StreamRef) (qs : List Cmd) : ((s.enqueue r qs).stream r).q = (s.stream r).q ++ qs := by
  rw [State.enqueue, State.stream_setStream]

theorem State.stream_enqueue_ne {r r' : StreamRef} (qs : List Cmd) (h : r' ≠ r) : (s.enqueue r qs).stream r' = s.stream r' := by
  rw [State.enqueue, State.stream_setStream_ne _ _ _ h]

theorem State.stream_takeNumbers (c key n : Nat) (r : StreamRef) : (s.takeNumbers c key n).stream r = s.stream r :=
  State.stream_updCore _ _ _ (by intro; rfl)

theorem State.stream_finish (e : Site) (f : Thread → Thread) (r : StreamRef) : (s.finish e f).stream r = s.stream r :=
  State.stream_updCore _ _ _ (by intro; rfl)

/-- The context's counter of fabric commands changes no stream. -/
theorem State.stream_updCtx (x : Nat) {f : Ctx → Ctx} (hf : ∀ c, (f c).streams = c.streams) (r : StreamRef) :
    (s.updCtx x f).stream r = s.stream r := by
  refine State.stream_congr s r rfl ?_
  by_cases h : r.unit = x
  · rw [h, State.ctx_updCtx, hf]
  · rw [State.ctx_updCtx_ne _ _ h]

theorem State.iNum_enqueue (r : StreamRef) (qs : List Cmd) (c : Nat) :
    ((s.enqueue r qs).core c).arch.iNum = (s.core c).arch.iNum := by
  unfold State.enqueue State.setStream
  split
  · rfl
  · by_cases h : c = r.unit
    · rw [h, State.core_updCore]
    · rw [State.core_updCore_ne _ _ h]

theorem State.dseq_enqueue (r : StreamRef) (qs : List Cmd) (x : Nat) : ((s.enqueue r qs).ctx x).dseq = (s.ctx x).dseq := by
  unfold State.enqueue State.setStream
  split
  · by_cases h : x = r.unit
    · rw [h, State.ctx_updCtx]
    · rw [State.ctx_updCtx_ne _ _ h]
  · rfl

theorem State.dseq_updCtx_succ (x : Nat) :
    ((s.updCtx x (fun c => { c with dseq := c.dseq + 1 })).ctx x).dseq = (s.ctx x).dseq + 1 := by
  rw [State.ctx_updCtx]

/-- A core's stream takes its next numbers. -/
theorem State.iNum_takeNumbers (c key n : Nat) : Tab.get 0 ((s.takeNumbers c key n).core c).arch.iNum key
    = Tab.get 0 (s.core c).arch.iNum key + n := by
  rw [State.takeNumbers, State.core_updArch]
  exact Tab.get_set_same ..

theorem State.iNum_finish (e : Site) (f : Thread → Thread) (c : Nat) :
    ((s.finish e f).core c).arch.iNum = (s.core c).arch.iNum := by
  obtain ⟨⟨-, -, harch, -⟩, -⟩ := State.finish_only s e f
  exact (congrArg CoreArch.iNum (harch c) :)

/-- With no check for races the members of an XC go on, with the number as reply where a core's engine gives one (R279). -/
theorem State.xcFinish_eq {e : Site} (f : XcF) (reply : Option Nat) (hr : (s.launchOf e.b).race = false) :
    s.xcFinish e f reply = s.finish e (fun th => (match reply with | some n => putD f.d (BitVec.ofNat 64 n) th | none => th).next) := by
  rw [State.xcFinish, hr]
  rfl

end

/-! ### The commands of one XC -/

/-- What the commands of one XC have in common: the number by which they leave, their core and block, and whether the block is EXACT. -/
def Cmd.issuedAt (s : State) (e : Site) (o : Nat) (q : Cmd) : Prop :=
  q.order = o ∧ q.core = e.cur.core ∧ q.blk = some ⟨e.b.launch, e.b.lin⟩ ∧ q.exact_ = s.isExact e.cur.slot e.b

section
variable (s : State) (e : Site) (fn eng stream num order : Nat) (f : XcF) (ps : List Word) (fmtw : Word)

/-- The commands that an XC queues: a TAIL's entries. -/
def xcCount (fn : Nat) (ps : List Word) : Nat := if fn = 0x50 then (param ps 1).toNat else 1

theorem xcCmds_shown : (xcCmds s e fn eng stream num order f ps fmtw).map Cmd.shown
    = (List.range (xcCount fn ps)).map (fun j => (num + j, if fn = 0x50 then 0x7F else fn, false)) := by
  unfold xcCmds xcCount
  dsimp only
  split
  · rw [List.map_map]
    rfl
  · rfl

theorem xcCmds_length : (xcCmds s e fn eng stream num order f ps fmtw).length = xcCount fn ps := by
  have h := congrArg List.length (xcCmds_shown s e fn eng stream num order f ps fmtw)
  simpa using h

theorem xcCmds_issuedAt : ∀ q ∈ xcCmds s e fn eng stream num order f ps fmtw, q.issuedAt s e order := by
  unfold xcCmds
  dsimp only
  intro q hq
  split at hq
  · obtain ⟨j, -, rfl⟩ := List.mem_map.1 hq
    exact ⟨rfl, rfl, rfl, rfl⟩
  · cases List.mem_singleton.1 hq
    exact ⟨rfl, rfl, rfl, rfl⟩

end

/-! ### The issue of an XC -/

theorem exec_of_engineForm {i : Instr} {fn : Nat} {f : XcF} (h : engineForm i = some (fn, f)) (s : State) :
    exec i s = .next (xcIssue i fn f s) := by
  unfold engineForm at h
  split at h <;> cases h <;> rfl

section
variable {i : Instr} {fn : Nat} {f : XcF} {s : State} {e : Site} {ps : List Word}

theorem xcUniform_code {x : Flt} (h : xcUniform s e fn f = some x) : x.code = 2 ∨ x.code = 3 := by
  unfold xcUniform at h
  dsimp only at h
  split at h
  · cases h; exact Or.inr rfl
  · split at h
    · cases h; exact Or.inl rfl
    · cases h

/-- The state in which a checked XC queues its commands. -/
def State.xcNoted (s : State) (e : Site) (f : XcF) : State := (s.acts e).noteSources e [f.b]

/-- What a checked XC does, by its engine (R279, R301). -/
theorem exec_xc (hi : engineForm i = some (fn, f)) (h : Runs i s e) (hu : xcUniform s e fn f = none)
    (hp : xcParams s e fn f = .ok ps) (hn : xcEngine s e fn f ps = none) :
    Completes i s (if engineOf fn (e.read s e.ref f.b).toNat = 3 then xcFabric (s.xcNoted e f) e fn f ps
      else if fn = 0x21 then xcCopyMma (s.xcNoted e f) e f ps
      else xcCore (s.xcNoted e f) e fn (engineOf fn (e.read s e.ref f.b).toNat) f ps) := by
  rw [Completes, exec_of_engineForm hi, xcIssue, issue_of_runs _ h]
  simp only [hu, hp, hn]
  rfl

/-- The faults of an XC, in their order (R275, R276, R282, R387). -/
theorem exec_xc_uniform (hi : engineForm i = some (fn, f)) (h : Runs i s e) {x : Flt} (hu : xcUniform s e fn f = some x) :
    Completes i s (s.fault e x) := by
  rw [Completes, exec_of_engineForm hi, xcIssue, issue_of_runs _ h]
  simp only [hu]

theorem exec_xc_scratch (hi : engineForm i = some (fn, f)) (h : Runs i s e) (hu : xcUniform s e fn f = none) {va : Word}
    (hp : xcParams s e fn f = .error va) : Completes i s (s.takeFault e.cur 0x0A 0 (laneMask e.act) va) := by
  rw [Completes, exec_of_engineForm hi, xcIssue, issue_of_runs _ h]
  simp only [hu, hp]
  rfl

theorem exec_xc_engine (hi : engineForm i = some (fn, f)) (h : Runs i s e) (hu : xcUniform s e fn f = none) {n : Nat}
    (hp : xcParams s e fn f = .ok ps) (hn : xcEngine s e fn f ps = some n) :
    Completes i s (s.takeFault e.cur 0x0C n (laneMask e.act) 0) := by
  rw [Completes, exec_of_engineForm hi, xcIssue, issue_of_runs _ h]
  simp only [hu, hp, hn]
  rfl

end

/-! ### The state in which it queues -/

/-- From `s` to `t` a quiet step that keeps every stream, too. -/
structure Noted (s t : State) : Prop where
  quiet : Quiet s t
  stream : ∀ r, t.stream r = s.stream r

theorem Noted.of_sources {s : State} {e : Site} (hb : e.names s) (hr : (s.launchOf e.b).race = false) (f : XcF) :
    Noted s (s.xcNoted e f) := by
  have q := Quiet.acts s e
  refine ⟨Quiet.notes hb hr [f.b], fun r => State.stream_congr s r ?_ ?_⟩
  · exact ((Ignores.eng r.unit).noteSources e [f.b] ((q.block? _ _).trans hb) (by rw [q.launchOf]; exact hr)).trans
      ((Ignores.eng r.unit).acts s e)
  · rw [State.ctx, State.xcNoted, (Quiet.notes hb hr [f.b]).ctxs]
    rfl

section
variable {s u : State} {e : Site} {o : Nat}

theorem Noted.stream_of_site (h : Noted s u) (eng st : Nat) : xcStream u e eng st = xcStream s e eng st := by
  rw [xcStream, State.ctxOf, h.quiet.launchOf]
  rfl

theorem Noted.issuedAt (h : Noted s u) {q : Cmd} (hq : q.issuedAt u e o) : q.issuedAt s e o := by
  rw [Cmd.issuedAt, State.isExact, h.quiet.launchOf] at hq
  exact hq

/-- New commands behind those of a noted state. -/
theorem Queued.of_noted {t : State} (h : Noted s u) {r : StreamRef} {new : List Cmd} {qs : List (Nat × Nat × Bool)}
    (ht : (t.stream r).q = (u.stream r).q ++ new) (hs : new.map Cmd.shown = qs) (hi : ∀ q ∈ new, q.issuedAt u e o) :
    Queued s t e r o qs := ⟨new, by rw [ht, h.stream], hs, fun q hq => h.issuedAt (hi q hq)⟩

theorem Enqueues.race (h : Enqueues s u e) (hr : (s.launchOf e.b).race = false) : (u.launchOf e.b).race = false := by
  rw [State.launchOf, State.launch?, h.launches]
  exact hr

end

section
variable (s : State) (e : Site) (fn eng : Nat) (f : XcF) (ps : List Word)

/-- The number I of the stream that an XC on the core's own engine names. -/
def State.xcNum (s : State) (e : Site) (eng st : Nat) : Nat := Tab.get 0 (s.core e.cur.core).arch.iNum (16 * eng + st)

/-- The state with the commands of an XC queued, and their numbers taken, on the core's own engine. -/
def State.coreQueued : State :=
  let st := f.stream.toNat
  let k := s.xcNum e eng st
  let r := xcStream s e eng st
  (s.enqueue r (xcCmds s e fn eng st (k + 1) (k + 1) f ps (s.stream r).fmtAhead)).takeNumbers e.cur.core (16 * eng + st) (xcCount fn ps)

/-- The state with the commands of an XC queued on the fabric engine. -/
def State.fabricQueued : State :=
  let x := s.ctxOf e.b
  (s.enqueue (xcStream s e 3 f.stream.toNat) (xcCmds s e fn 3 f.stream.toNat 0 (s.ctx x).dseq f ps 0)).updCtx x
    (fun c => { c with dseq := c.dseq + 1 })

/-- COPYMMA's copy, as it is queued (R301). -/
def copyCmd : Cmd :=
  let k := s.xcNum e 1 f.stream.toNat
  { xcCmd s e 0 0x20 (k + 1) (k + 1) f.lvl.toNat (ps.take 4) with checked := true }

/-- COPYMMA's MMA, as it is queued (R301). -/
def mmaCmd : Cmd :=
  let j := s.xcNum e 0 (field (param ps 4) 0 4)
  { xcCmd s e 1 0x00 (j + 1) (j + 1) f.lvl.toNat (ps.drop 5) with
    slots := cmdSlots 0x00 (ps.drop 5) 0, mate := some (f.stream.toNat, s.xcNum e 1 f.stream.toNat + 1), checked := true }

/-- The state with COPYMMA's two commands queued. -/
def State.copyMmaQueued : State :=
  let st := f.stream.toNat
  let m := field (param ps 4) 0 4
  (((s.enqueue (xcStream s e 1 st) [copyCmd s e f ps]).enqueue (xcStream s e 0 m) [mmaCmd s e f ps]).takeNumbers e.cur.core
    (16 + st) 1).takeNumbers e.cur.core m 1

end

section
variable {s u : State} {e : Site} (h : Noted s u) (hr : (s.launchOf e.b).race = false)
include h hr

/-- An XC of one of the core's own engines (R279). -/
theorem Noted.core_queues (fn eng : Nat) (f : XcF) (ps : List Word) :
    let st := f.stream.toNat
    let n := xcCount fn ps
    let k := s.xcNum e eng st
    ∃ t : State, xcCore u e fn eng f ps = t.xcLeave e [(eng, st, k + 1)] ∧ OnlyQueues s t e
      ∧ Queued s t e (xcStream s e eng st) (k + 1) ((List.range n).map (fun j => (k + 1 + j, if fn = 0x50 then 0x7F else fn, false)))
      ∧ (∀ r, r ≠ xcStream s e eng st → t.stream r = s.stream r)
      ∧ t.xcNum e eng st = k + n
      ∧ GroupGoes s t e (fun th => (putD f.d (BitVec.ofNat 64 (k + n)) th).next) := by
  intro st n k
  have hk : u.xcNum e eng st = k := by rw [State.xcNum, h.quiet.arch]; rfl
  have hq : Enqueues s (u.coreQueued e fn eng f ps) e := ((Enqueues.of_quiet h.quiet).enqueue _ _).takeNumbers _ _ _
  have hx : xcCore u e fn eng f ps = ((u.coreQueued e fn eng f ps).xcFinish e f (some (k + n))).xcLeave e [(eng, st, k + 1)] := by
    unfold xcCore State.coreQueued
    dsimp only
    rw [xcCmds_length, ← hk]
    rfl
  have hs : ∀ r, r ≠ xcStream s e eng st → (u.coreQueued e fn eng f ps).stream r = s.stream r := fun r hne => by
    rw [State.coreQueued, State.stream_takeNumbers, h.stream_of_site, State.stream_enqueue_ne _ _ hne, h.stream]
  have hs' : ((u.coreQueued e fn eng f ps).stream (xcStream s e eng st)).q = (u.stream (xcStream s e eng st)).q
      ++ xcCmds u e fn eng st (k + 1) (k + 1) f ps (u.stream (xcStream s e eng st)).fmtAhead := by
    rw [State.coreQueued, State.stream_takeNumbers, h.stream_of_site, State.stream_enqueue, ← hk]
  have hn : (u.coreQueued e fn eng f ps).xcNum e eng st = k + n := by
    rw [← hk, State.coreQueued, State.xcNum, State.iNum_takeNumbers, State.iNum_enqueue]
    rfl
  rw [State.xcFinish_eq _ _ _ (hq.race hr)] at hx
  obtain ⟨honly, hgo⟩ := hq.finish (f := fun th => (putD f.d (BitVec.ofNat 64 (k + n)) th).next) (fun th => putD_ltid ..)
  refine ⟨_, hx, honly, Queued.of_noted h ?_ (xcCmds_shown ..) (xcCmds_issuedAt u e fn eng st (k + 1) (k + 1) f ps
    (u.stream (xcStream s e eng st)).fmtAhead), fun r hne => ?_, ?_, hgo⟩
  · rw [State.stream_finish, hs']
  · rw [State.stream_finish, hs r hne]
  · rw [State.xcNum, State.iNum_finish]
    exact hn

/-- An XC of the fabric engine (R279). -/
theorem Noted.fabric_queues (fn : Nat) (f : XcF) (ps : List Word) :
    let st := f.stream.toNat
    let o := (s.ctx (s.ctxOf e.b)).dseq
    ∃ t : State, xcFabric u e fn f ps = t.xcLeave e [(3, st, o)] ∧ OnlyQueues s t e
      ∧ Queued s t e (xcStream s e 3 st) o ((List.range (xcCount fn ps)).map (fun j => (j, if fn = 0x50 then 0x7F else fn, false)))
      ∧ (∀ r, r ≠ xcStream s e 3 st → t.stream r = s.stream r)
      ∧ (t.ctx (s.ctxOf e.b)).dseq = o + 1 ∧ GroupGoes s t e Thread.next := by
  intro st o
  have hc : u.ctxOf e.b = s.ctxOf e.b := by rw [State.ctxOf, h.quiet.launchOf]; rfl
  have ho : (u.ctx (u.ctxOf e.b)).dseq = o := by rw [hc, State.ctx, h.quiet.ctxs]; rfl
  have hq : Enqueues s (u.fabricQueued e fn f ps) e := by
    unfold State.fabricQueued
    exact ((Enqueues.of_quiet h.quiet).enqueue _ _).updCtx _ _
  have hx : xcFabric u e fn f ps = ((u.fabricQueued e fn f ps).xcFinish e f none).xcLeave e [(3, st, o)] := by
    rw [← ho]
    rfl
  have hstream : ∀ r, (u.fabricQueued e fn f ps).stream r
      = (u.enqueue (xcStream s e 3 st) (xcCmds u e fn 3 st 0 o f ps 0)).stream r := fun r => by
    rw [State.fabricQueued, h.stream_of_site, ← ho]
    exact State.stream_updCtx _ _ (by intro; rfl) r
  rw [State.xcFinish_eq _ _ _ (hq.race hr)] at hx
  obtain ⟨honly, hgo⟩ := hq.finish (f := Thread.next) (fun _ => rfl)
  refine ⟨_, hx, honly, Queued.of_noted h (new := xcCmds u e fn 3 st 0 o f ps 0) ?_ ?_ (xcCmds_issuedAt u e fn 3 st 0 o f ps 0), fun r hne => ?_, ?_, hgo⟩
  · rw [State.stream_finish, hstream, State.stream_enqueue]
  · rw [xcCmds_shown]
    simp only [Nat.zero_add]
  · rw [State.stream_finish, hstream, State.stream_enqueue_ne _ _ hne, h.stream]
  · have hd : ((u.fabricQueued e fn f ps).ctx (u.ctxOf e.b)).dseq = o + 1 := by
      rw [State.fabricQueued, State.dseq_updCtx_succ, State.dseq_enqueue, ho]
    rw [← hc]
    exact hd

/-- COPYMMA (R301). -/
theorem Noted.copyMma_queues (f : XcF) (ps : List Word) :
    let st := f.stream.toNat
    let m := field (param ps 4) 0 4
    let k := s.xcNum e 1 st
    let j := s.xcNum e 0 m
    ∃ t : State, xcCopyMma u e f ps = t.xcLeave e [(1, st, k + 1), (0, m, j + 1)] ∧ OnlyQueues s t e
      ∧ Queued s t e (xcStream s e 1 st) (k + 1) [(k + 1, 0x20, false)]
      ∧ Queued s t e (xcStream s e 0 m) (j + 1) [(j + 1, 0x00, false)]
      ∧ GroupGoes s t e (fun th => (putD f.d (BitVec.ofNat 64 (k + 1)) th).next) := by
  intro st m k j
  have hk : u.xcNum e 1 st = k := by rw [State.xcNum, h.quiet.arch]; rfl
  have hj : u.xcNum e 0 m = j := by rw [State.xcNum, h.quiet.arch]; rfl
  have hq : Enqueues s (u.copyMmaQueued e f ps) e :=
    ((((Enqueues.of_quiet h.quiet).enqueue _ _).enqueue _ _).takeNumbers _ _ _).takeNumbers _ _ _
  have hx : xcCopyMma u e f ps = ((u.copyMmaQueued e f ps).xcFinish e f (some (k + 1))).xcLeave e [(1, st, k + 1), (0, m, j + 1)] := by
    rw [← hk, ← hj]
    unfold xcCopyMma State.copyMmaQueued copyCmd mmaCmd
    simp only [State.xcNum, Nat.mul_zero, Nat.zero_add, Nat.mul_one]
    rfl
  have hne : xcStream s e 1 st ≠ xcStream s e 0 m := fun he =>
    absurd (show (1 : BitVec 2) = 0 from congrArg StreamRef.eng he) (by decide)
  have hstream : ∀ r, (u.copyMmaQueued e f ps).stream r
      = ((u.enqueue (xcStream s e 1 st) [copyCmd u e f ps]).enqueue (xcStream s e 0 m) [mmaCmd u e f ps]).stream r := fun r => by
    rw [State.copyMmaQueued, State.stream_takeNumbers, State.stream_takeNumbers, h.stream_of_site, h.stream_of_site]
  rw [State.xcFinish_eq _ _ _ (hq.race hr)] at hx
  obtain ⟨honly, hgo⟩ := hq.finish (f := fun th => (putD f.d (BitVec.ofNat 64 (k + 1)) th).next) (fun th => putD_ltid ..)
  refine ⟨_, hx, honly, Queued.of_noted h (new := [copyCmd u e f ps]) ?_ ?_ ?_, Queued.of_noted h (new := [mmaCmd u e f ps]) ?_ ?_ ?_, hgo⟩
  · rw [State.stream_finish, hstream, State.stream_enqueue_ne _ _ hne, State.stream_enqueue]
  · rw [← hk]; rfl
  · intro q hq
    cases List.mem_singleton.1 hq
    exact ⟨by rw [← hk]; rfl, rfl, rfl, rfl⟩
  · rw [State.stream_finish, hstream, State.stream_enqueue, State.stream_enqueue_ne _ _ hne.symm]
  · rw [← hj]; rfl
  · intro q hq
    cases List.mem_singleton.1 hq
    exact ⟨by rw [← hj]; rfl, rfl, rfl, rfl⟩

end

end Sys2Proof.Machine
end

section
/-! Proof of O40, fourth part: its clauses. -/

namespace Sys2Proof.Machine

/-! ### The chunk with the word -/

section
variable {s : State} {e : Site}

/-- Under EXACT a command leaves at once, with the view of the phase (R155, R161). -/
theorem xcLeave_exact (c : Nat × Nat × Nat) (hx : s.isExact e.cur.slot e.b = true) :
    s.xcLeave e [c] = s.leave e.cur.core c.1 c.2.1 c.2.2 (s.ctxOf e.b) (exactView s e) := by
  rw [State.xcLeave, if_pos hx]
  rfl

theorem exactView_of_none (h : e.b.pheld = []) : exactView s e = e.b.pover := by
  rw [exactView, h]
  rfl

/-- The state with the departures of some commands held in the chunk. -/
def State.holdCmds (s : State) (c : Nat) (cs : List (Nat × Nat × Nat)) : State :=
  s.updChunk c (fun h => { h with
    held := h.held ++ cs.map (fun q => Held.cmd q.1 q.2.1 q.2.2 (if h.suspend.isEmpty then none else some h.ovl)) })

theorem xcLeave_held (cs : List (Nat × Nat × Nat)) (hx : s.isExact e.cur.slot e.b = false) : s.xcLeave e cs
    = { (s.holdCmds e.cur.core cs).closeAfter e.cur.core with cur := s.cur } := by
  rw [State.xcLeave, if_neg (by rw [hx]; exact Bool.false_ne_true)]
  rfl

theorem holdCmds_chunk (c : Nat) (cs : List (Nat × Nat × Nat)) : ∃ hs, ((s.holdCmds c cs).core c).chunk
    = { (s.core c).chunk with held := hs } := ⟨_, by rw [State.holdCmds, State.core_updChunk]⟩

/-- Otherwise the chunk holds the commands, and ends with the word, unless an LR suspends its end (R133, R139). -/
theorem xcLeave_open (cs : List (Nat × Nat × Nat)) (hx : s.isExact e.cur.slot e.b = false) :
    ((s.core e.cur.core).chunk.suspend ≠ [] →
      s.xcLeave e cs = (s.holdCmds e.cur.core cs).updChunk e.cur.core (fun h => { h with pendEnd := true }))
    ∧ ((s.core e.cur.core).chunk.suspend = [] → ((s.core e.cur.core).chunk.rd ≠ [] ∨ (s.core e.cur.core).chunk.wr ≠ []) →
      s.xcLeave e cs = (s.holdCmds e.cur.core cs).updChunk e.cur.core Chunk.awaits)
    ∧ ((s.core e.cur.core).chunk.suspend = [] → (s.core e.cur.core).chunk.rd = [] → (s.core e.cur.core).chunk.wr = [] →
      ldxReading s e.cur.core = false → commitHeld s e.cur.core = false →
      s.xcLeave e cs = { (s.holdCmds e.cur.core cs).commit e.cur.core with cur := s.cur }) := by
  obtain ⟨hs, hch⟩ := holdCmds_chunk (s := s) e.cur.core cs
  rw [xcLeave_held cs hx]
  refine ⟨fun hsus => ?_, fun hsus hw => ?_, fun hsus hrd hwr hl hc => ?_⟩
  · have hne : (!((s.holdCmds e.cur.core cs).core e.cur.core).chunk.suspend.isEmpty) = true := by
      rw [hch]
      simpa using hsus
    rw [State.closeAfter, if_pos hne]
    rfl
  · rw [State.closeAfter_of_not_suspended (by rw [hch]; exact hsus), endChunk_waits (by rw [hch]; exact hw.elim Or.inl fun h => Or.inr (Or.inl h))]
    rfl
  · rw [State.closeAfter_of_not_suspended (by rw [hch]; exact hsus)]
    rw [endChunk_commits]
    · rw [hch]; exact hrd
    · rw [hch]; exact hwr
    · rw [← hl, ldxReading, State.holdCmds, State.core_updChunk]
      rfl
    · rw [← hc, commitHeld, hch]
      rfl

end

/-! ### Departures -/

/-- A command of one of the core's own engines leaves (R155). -/
theorem leave_core_stream (c x eng st num : Nat) (view : Overlay) (s : State) (h : eng < 3) :
    let r : StreamRef := ⟨BitVec.ofNat 2 eng, c, BitVec.ofNat 4 st⟩
    let t := s.leave c eng st num x view
    (∀ r', r' ≠ r → t.stream r' = s.stream r') ∧ t.mem = s.mem ∧ t.stream r = Stream.leave s c x num view (s.stream r) := by
  intro r t
  have ht : t = s.setStream r (Stream.leave s c x num view (s.stream r)) := leave_core c x eng st num view s h
  rw [ht]
  exact ⟨fun r' hr' => State.stream_setStream_ne s r _ hr', State.mem_setStream .., State.stream_setStream ..⟩

section
variable {s : State} {c x st num : Nat} {view : Overlay}

/-- The stream of the fabric engine on which a command leaves, its due replies given out (R279). -/
theorem leave_fabric_stream : (s.leave c 3 st num x view).stream ⟨3, x, BitVec.ofNat 4 st⟩ =
    let st' := s.stream ⟨3, x, BitVec.ofNat 4 st⟩
    { st'.after s c x num view with
      q := (st'.after s c x num view).q.map (fun q => if q.due st'.i then { q with reply := none } else q) } := by
  rw [State.leave_fabric]
  dsimp only
  rw [foldl_keeps (fun u : State => u.stream ⟨3, x, BitVec.ofNat 4 st⟩) (fun u q => State.stream_reply u _ q _),
    State.stream_setStream]

theorem leave_fabric_mem : (s.leave c 3 st num x view).mem = s.mem := by
  rw [State.leave_fabric]
  dsimp only
  rw [foldl_keeps State.mem (fun u q => State.mem_reply u q _), State.mem_setStream]

/-- Giving out replies changes nothing that the commands show. -/
theorem shown_replied (i : Nat) (qs : List Cmd) :
    (qs.map (fun q => if q.due i then { q with reply := none } else q)).map Cmd.shown = qs.map Cmd.shown := by
  rw [List.map_map]
  refine List.map_congr_left fun q _ => ?_
  rw [Function.comp]
  split <;> rfl

/-- A thread that waits for a reply has it when the reply is given (R279). -/
theorem State.thread?_reply {q : Cmd} {id : BlockId} {sl l : Nat} {ts : List Nat} {g : BitVec 7} {b : Block} {th : Thread}
    (hb : q.blk = some id) (hr : q.reply = some (sl, ts, g)) (hblk : s.block? q.core sl = some b) (hl : b.launch = id.launch)
    (hn : b.lin = id.lin) (hth : b.thread? l = some th) (hts : ts.contains l = true) (v : Word) :
    ∃ th', (s.reply q v).thread? q.core sl l = some th' ∧ th'.lane g.toNat = v ∧ ∀ j, j ≠ g.toNat → th'.lane j = th.lane j := by
  have hid : th.ltid = l := by
    simpa using List.find?_some hth
  refine ⟨{ th with v := Tab.set 0 th.v g.toNat v, bad := th.bad.filter (fun r => r.toNat != g.toNat) }, ?_,
    Tab.get_set_same .., fun j hj => Tab.get_set_ne _ _ _ hj⟩
  rw [State.thread?, State.block?_reply s hb hr, hblk, Option.map_some, Option.bind_some, hl, hn, beq_self_eq_true, beq_self_eq_true,
    Bool.and_self, if_pos rfl, Block.thread?_mapTids, hth, Option.map_some, hid, if_pos hts]
  intro; rfl

/-- A single command that reaches the fabric engine replies with its number (R279). -/
theorem leave_fabric_reply {q : Cmd} {id : BlockId} {sl l : Nat} {ts : List Nat} {g : BitVec 7} {b : Block} {th : Thread}
    (hleft : ∀ q ∈ (s.stream ⟨3, x, BitVec.ofNat 4 st⟩).q, q.left = true → q.num ≤ (s.stream ⟨3, x, BitVec.ofNat 4 st⟩).i)
    (hmine : (s.stream ⟨3, x, BitVec.ofNat 4 st⟩).q.filter (fun q => q.goes c num) = [q]) (hfn : q.fn ≠ 0x62)
    (hb : q.blk = some id) (hr : q.reply = some (sl, ts, g)) (hblk : s.block? q.core sl = some b) (hl : b.launch = id.launch)
    (hn : b.lin = id.lin) (hth : b.thread? l = some th) (hts : ts.contains l = true) :
    ∃ th', (s.leave c 3 st num x view).thread? q.core sl l = some th'
      ∧ th'.lane g.toNat = BitVec.ofNat 64 ((s.stream ⟨3, x, BitVec.ofNat 4 st⟩).i + 1) ∧ ∀ j, j ≠ g.toNat → th'.lane j = th.lane j := by
  obtain ⟨q', hdue, hnum, hcore, hqb, hrep⟩ := Stream.after_due (s := s) (x := x) (view := view) hleft hmine hfn
  rw [State.leave_fabric]
  dsimp only
  rw [hdue, List.foldl_cons, List.foldl_nil, hnum, ← hcore]
  exact State.thread?_reply (hqb.trans hb) (hrep.trans hr) (by rw [State.block?_setStream, hcore, hblk]) hl hn hth hts _

end

/-- COPYMMA stands on the copy engine (R301). -/
theorem engineOf_copyMma (b : Nat) : engineOf 0x21 b = 1 := rfl

/-- Settles O40: the issue queues by `Noted`, the chunk by `xcLeave_open`, and the departures by what the stream shows after them. -/
theorem engineWordsQueue : Obligations.EngineWordsQueue := by
  refine ⟨fun i fn f hi s e ps h hr hu hp hn => ?_, fun i fn f hi s e h => ⟨fun y hy => ⟨xcUniform_code hy, exec_xc_uniform hi h hy⟩,
      fun va hu hp => exec_xc_scratch hi h hu hp, fun ps n hu hp hn => exec_xc_engine hi h hu hp hn⟩,
    fun s e c hx => ⟨xcLeave_exact c hx, exactView_of_none⟩, fun s e cs hx => xcLeave_open cs hx, fun c x eng st num cut s => rfl,
    fun c x eng st num view s h => ?_, fun c x st num view s => ?_⟩
  · have hx := exec_xc hi h hu hp hn
    have hN : Noted s (s.xcNoted e f) := Noted.of_sources (State.site?_names h.1) hr f
    intro eng st c
    refine ⟨fun h3 h21 => ?_, fun h3 h21 => ?_, ?_⟩
    · obtain ⟨t, ht, hrest⟩ := hN.core_queues hr fn eng f ps
      rw [if_neg h3, if_neg h21] at hx
      exact ⟨t, hx.trans (congrArg Host.Outcome.next ht), hrest⟩
    · obtain ⟨t, ht, hrest⟩ := hN.fabric_queues hr fn f ps
      rw [if_pos h3] at hx
      exact ⟨t, hx.trans (congrArg Host.Outcome.next ht), hrest⟩
    · rintro rfl
      intro m k j
      obtain ⟨t, ht, hrest⟩ := hN.copyMma_queues hr f ps
      rw [engineOf_copyMma, if_neg (by decide), if_pos rfl] at hx
      have hj : s.xcNum e 0 m = j := by rw [State.xcNum, Nat.mul_zero, Nat.zero_add]
      have ht' := hx.trans (congrArg Host.Outcome.next ht)
      rw [hj] at hrest ht'
      exact ⟨t, ht', hrest⟩
  · intro r t
    obtain ⟨hne, hmem, hst⟩ := leave_core_stream c x eng st num view s h
    refine ⟨hne, hmem, (congrArg Stream.i hst :), (congrArg Stream.c hst :), ?_, fun i q hq => ?_⟩
    · exact (congrArg (fun a : Stream => a.q.length) hst).trans (by rw [Stream.leave_q, List.length_mapIdx])
    · exact (congrArg (fun a : Stream => a.q[i]?) hst).trans (Stream.leave_get _ hq)
  · intro r t qs mine hleft
    refine ⟨?_, leave_fabric_mem, ?_, fun q id sl l ts g b th hmine hfn hb hrep hblk hl hn hth hts =>
      leave_fabric_reply hleft hmine hfn hb hrep hblk hl hn hth hts⟩
    · exact (congrArg Stream.i leave_fabric_stream).trans (Stream.after_i (s := s) (x := x) (view := view))
    · exact (congrArg (fun a : Stream => a.q.map Cmd.shown) leave_fabric_stream).trans ((shown_replied _ _).trans Stream.after_shown)

end Sys2Proof.Machine
end

section
/-! Refutation of O25: a load can read other bytes after its traces than before the word. No page is aligned by the state as such: a
translation of a RELEASE page may put an aligned address at the end of a line, so that the access crosses it. The read's trace is a copy
of the one line of the access's first byte (R117, R253), and the bytes beyond that line do not stand in it. -/

namespace Sys2Proof.Machine

/-- LD v9, [v10 - 8] of 64 bits. -/
def crossingWord : Instr := .ld ⟨.always, .b64, false, 0, .lane 9, .lane 10, 0xFFFF8⟩

/-- The one block of a launch as a loader leaves it, its thread with an address in v10. -/
def crossingBlock : Block := { loadedBlock 0 with threads := (loadedBlock 0).threads.map (fun th => th.setLane 10 0x10100) }

/-- The translation of the thread's page: a RELEASE page whose bytes stand 5 beyond an aligned address. -/
def crossingEntry : TlbEntry := ⟨0x10000, 0x10000, 0x10005, 0, false, true, true, true, 1, true, 0⟩

/-- The state before the load: of all bytes of memory that at 0x10100 alone is not zero. -/
def crossing : State := { State.reset with
  mem := [(0x10100, 1)], launches := [loadedLaunch 0], cur := some ⟨0, 0, 0, 0x10000, [0]⟩
  cores := [(0, { CoreSt.new with arch := { CoreArch.new with blocks := [(0, crossingBlock)] }, tlb := [crossingEntry] })] }

/-- The site of the load. -/
def crossingSite : Site := ⟨⟨0, 0, 0, 0x10000, [0]⟩, crossingBlock, (loadedLaunch 0).tree, crossingBlock.threads, crossingBlock.threads⟩

def crossingLoad : LoadShape := ⟨.lane 10, 0xFFFF8, 8, 0, .plain, fun s e r => readAt s e r 8,
  fun _ v => putD (.lane 9) (loadValue 8 false v)⟩

/-- Where the load reads: the 8 bytes from 0x100FD. -/
def crossingXlat : Xlat := ⟨0x100FD, 1, true, true, true, true, 0, 0x10000, 0x10000, 0x10005, false, 0, true⟩

/-- The access of its one thread. -/
def crossingAcc : Acc := (crossingBlock.threads.headD (handlerThread 0), [⟨0x100F8, 8, 8, .read, .plain⟩], [.main crossingXlat])

theorem runs_crossing : Runs crossingWord crossing crossingSite := ⟨by decide, by decide, by decide, by decide, by decide⟩

theorem passes_crossing : Passes crossing crossingSite (reqAt crossing crossingSite (.lane 10) 0xFFFF8 8 .read .plain) [crossingAcc] :=
  ⟨by rfl, by decide⟩

/-- The only entry in use stands at 0. -/
theorem wordsFree_crossing : WordsFree [crossingAcc] crossingAcc 8 := by
  intro a hlo _ r hr x hx
  cases List.mem_singleton.1 hr
  cases List.mem_singleton.1 hx
  exact Or.inr (Nat.le_trans (by decide) hlo)

/-- Before the word the load reads the byte beyond the line. -/
theorem crossing_before : readAt crossing crossingSite crossingAcc 8 = 2 ^ 24 := by decide

/-- After its traces it reads the copy of the line, and zero beyond it. -/
theorem crossing_after : readAt (loadNoted crossing crossingSite crossingLoad [crossingAcc]) crossingSite crossingAcc 8 = 0 := by decide

/-- Refutes O25: in `crossing` the copy that the load takes of the line of 0x100FD gives zero for the byte at 0x10100. -/
theorem not_loadWords : ¬ Obligations.LoadWords := by
  rintro ⟨hload, -⟩
  obtain ⟨t, -, -, hvalues⟩ := hload crossingWord crossingLoad rfl crossing crossingSite [crossingAcc] runs_crossing passes_crossing
    (fun h => absurd h (by decide))
  obtain ⟨-, hval, -⟩ := hvalues (by decide)
  have h : readAt (loadNoted crossing crossingSite crossingLoad [crossingAcc]) crossingSite crossingAcc 8
      = readAt crossing crossingSite crossingAcc 8 := hval crossingAcc (List.mem_singleton.2 rfl) wordsFree_crossing
  rw [crossing_before, crossing_after] at h
  exact absurd h (by decide)

end Sys2Proof.Machine
end

section
/-! Refutation of O26: a store of the handler can change a byte that it does not write, as the handler reads it. The bytes that a served
EXACT block has written in place are those of the lines PRIVATE to it (R142), and a line of a slice is PRIVATE to the first block, in the
core's table, whose window holds it (R120). The state does not say that the table stands in the order of its slots, nor that windows lie
apart; a word that changes its thread puts its block at its slot's place, which can be before another that it stood behind. -/

namespace Sys2Proof.Machine

/-- ST of the lowest byte of v11 to [v10]. -/
def reorderingWord : Instr := .st ⟨.always, .b8, 0, .lane 11, .lane 10, 0⟩

/-- A served EXACT block, which has written the first byte of its window. -/
def reorderedBlock : Block := { loadedBlock 1 with pover := [(2 ^ 56, 1)] }

/-- The handler's block, with the same window, its thread with an address in v10. -/
def reorderingBlock : Block := { loadedBlock 0 with threads := [(handlerThread 0x10000).setLane 10 0x10100] }

/-- The fault that the handler serves. -/
def reorderingFault : FaultRec := ⟨17, 0, [], 0, 0, 0, 0, false, none⟩

/-- The state before the store: the handler's block stands behind the other. -/
def reordering : State := { State.reset with
  launches := [loadedLaunch 0, { loadedLaunch 0 with det := 2 }], cur := some ⟨0, 0, 16, 0x10000, [0]⟩
  cores := [(0, { CoreSt.new with
    arch := { CoreArch.new with blocks := [(17, reorderedBlock), (16, reorderingBlock)], serving := some reorderingFault }
    tlb := [loadedPage 0] })] }

/-- The site of the store. -/
def reorderingSite : Site := ⟨⟨0, 0, 16, 0x10000, [0]⟩, reorderingBlock, Tree.handler, reorderingBlock.threads, reorderingBlock.threads⟩

/-- Where the store writes. -/
def reorderingXlat : Xlat := ⟨0x10100, 0, true, true, true, true, 0, 0x10000, 0x10000, 0x10000, false, 0, true⟩

/-- The access of its one thread. -/
def reorderingAcc : Acc :=
  (reorderingBlock.threads.headD (handlerThread 0), [⟨0x10100, 1, 1, .write, .plain⟩], [.main reorderingXlat])

/-- The shape of the store. -/
def reorderingStore : StoreShape := ⟨.lane 10, 0, 1, fun s e th => natLe 1 (e.read s th (.lane 11)).toNat⟩

theorem runs_reordering : Runs reorderingWord reordering reorderingSite := ⟨by decide, by decide, by decide, by decide, by decide⟩

theorem passes_reordering :
    Passes reordering reorderingSite (reqAt reordering reorderingSite (.lane 10) 0 1 .write .plain) [reorderingAcc] :=
  ⟨rfl, by decide⟩

/-- The byte stands outside the entry in use, at 0. -/
theorem leafFree_reordering : LeafFree [reorderingAcc] (2 ^ 56) := by
  intro r hr x hx
  cases List.mem_singleton.1 hr
  cases List.mem_singleton.1 hx
  exact Or.inr (by decide)

/-- The store does not reach the byte. -/
theorem uncovered_reordering : [reorderingAcc].reverse.find? (covers reorderingStore.n (2 ^ 56)) = none := by decide

/-- The byte at 2^56 as the handler reads it. -/
def State.handlerReads (s : State) : List Byte := comRead s 0 16 (2 ^ 56) 1

/-- Before the word the handler reads what the served block has written in place. -/
theorem reordering_before : reordering.handlerReads = [1] := by decide

/-- After the word it reads memory. -/
theorem reordering_after {t : State} (h : Completes reorderingWord reordering t) : t.handlerReads = [0] := by
  have hx : (match exec reorderingWord reordering with | .next t => t.handlerReads | _ => []) = [0] := by decide
  rw [Completes] at h
  rw [h] at hx
  exact hx

/-- Refutes O26: in `reordering` the store of the handler to 0x10100 changes the byte that it reads at 2^56. -/
theorem not_storeWords : ¬ Obligations.StoreWords := by
  intro hstore
  obtain ⟨t, b', hdone, hview⟩ := hstore reorderingWord reorderingStore rfl (by decide) reordering reorderingSite [reorderingAcc]
    runs_reordering passes_reordering (by decide) (by decide)
  obtain ⟨hbytes, -⟩ := hview (by decide)
  have hbyte := hbytes (2 ^ 56)
  rw [uncovered_reordering] at hbyte
  have h : t.handlerReads = reordering.handlerReads := hbyte leafFree_reordering
  rw [reordering_before, reordering_after hdone] at h
  exact absurd h (by decide)

end Sys2Proof.Machine
end

section
/-! What no trace of an access can change, not even when the order-stamp unit reports a pair and its record squashes chunks: the word that
issues, and the determinism levels of the launches (R137, R162, R163, R350). -/

namespace Sys2Proof.Machine

/-- A value of the state that does not depend on memory, the ownership of lines, the caches, the cores, the contexts, the priority
requests and the vectors raised, and of the launches on their levels at most. -/
structure Durable {β : Type} (π : State → β) : Prop where
  mem : ∀ (s : State) (m : Memory), π { s with mem := m } = π s
  plat : ∀ (s : State) (p : Tab Plat), π { s with plat := p } = π s
  caches : ∀ (s : State) (t : Tab (List TlbEntry)) (w : Tab (List WalkPtr)), π { s with ctlb := t, wcache := w } = π s
  core : ∀ (s : State) (c : Nat) (k : CoreSt), π (s.setCore c k) = π s
  ctxs : ∀ (s : State) (x : Tab Ctx), π { s with ctxs := x } = π s
  launches : ∀ (s : State) (ls : List Launch), ls.map Launch.det = s.launches.map Launch.det → π { s with launches := ls } = π s
  priority : ∀ (s : State) (l : List Nat), π { s with priority := l } = π s
  msix : ∀ (s : State) (l : List Nat), π { s with msix := l } = π s

theorem Durable.cur : Durable State.cur :=
  ⟨fun _ _ => rfl, fun _ _ => rfl, fun _ _ _ => rfl, fun _ _ _ => rfl, fun _ _ => rfl, fun _ _ _ => rfl, fun _ _ => rfl, fun _ _ => rfl⟩

theorem Durable.levels : Durable (fun s => s.launches.map Launch.det) :=
  ⟨fun _ _ => rfl, fun _ _ => rfl, fun _ _ _ => rfl, fun _ _ _ => rfl, fun _ _ => rfl, fun _ _ h => h, fun _ _ => rfl, fun _ _ => rfl⟩

namespace Durable
variable {β : Type} {π : State → β} (h : Durable π) (s : State)
include h

theorem ignores : Ignores π := ⟨h.plat, fun s c k _ _ _ _ => h.core s c k⟩

theorem updCore (c : Nat) (f : CoreSt → CoreSt) : π (s.updCore c f) = π s := h.core _ _ _

theorem updBoth (c : Nat) (f : CoreArch → CoreArch) : π (s.updBoth c f) = π s := h.core _ _ _

theorem updCtx (x : Nat) (f : Ctx → Ctx) : π (s.updCtx x f) = π s := h.ctxs _ _

theorem mapTids (c sl : Nat) (ts : List Nat) (f : Thread → Thread) : π (s.mapTids c sl ts f) = π s := h.core _ _ _

theorem updLaunch (l : Nat) {f : Launch → Launch} (hf : ∀ ln, (f ln).det = ln.det) : π (s.updLaunch l f) = π s := by
  refine h.launches s _ (List.ext_getElem? fun i => ?_)
  rw [List.getElem?_map, List.getElem?_map, List.getElem?_modify, Option.map_eq_map, Option.map_map]
  refine Option.map_congr fun ln _ => ?_
  rw [Function.comp]
  split
  · exact hf ln
  · rfl

theorem keepOld (ks : Nat → List Nat) : π (s.keepOld ks) = π s := by
  refine h.launches s _ (List.ext_getElem? fun i => ?_)
  rw [List.getElem?_map, List.getElem?_map, List.getElem?_mapIdx, Option.map_map]
  refine Option.map_congr fun ln _ => ?_
  rw [Function.comp]
  split <;> rfl

theorem writeMem (k : Nat) (bs : List Byte) : π (s.writeMem k bs) = π s := h.mem _ _

/-! ### The posting of a record -/

theorem failBlock (c sl : Nat) : π (s.failBlock c sl) = π s := by
  unfold State.failBlock
  split
  · rfl
  · exact (h.updLaunch _ _ (by intro; rfl)).trans (h.updBoth _ _ _)

theorem raiseVec (v : Word) : π (s.raiseVec v) = π s := by
  unfold State.raiseVec State.raise
  split
  · split
    · rfl
    · exact h.msix _ _
  · rfl

theorem postBy {w : State → Nat → List Byte → State} (hw : ∀ s k bs, π (w s k bs) = π s) (x ty flags : Nat)
    (fields : List (Nat × List Byte)) : π (s.postBy w x ty flags fields) = π s := by
  unfold State.postBy
  dsimp only
  split
  · rw [h.raiseVec, h.updCtx, hw, h.updCtx]
  · exact h.updCtx _ _ _

theorem countShared (o b : Nat) : π (s.countShared o b) = π s :=
  foldl_keeps π (fun s c => by
    split
    · exact h.ignores.count _ _ _ _
    · rfl) _ s

theorem outTouch (ls : List Nat) : π (s.outTouch ls) = π s :=
  foldl_keeps π (fun s l => by
    split
    · exact (h.countShared _ _ _).trans ((h.ignores.shareOwner _ _ _ _).trans (h.plat _ _))
    · rfl) _ s

theorem breakResv (c : Nat) (o : Overlay) : π (s.breakResv c o) = π s :=
  foldl_keeps π (fun s d => by
    split
    · rfl
    · exact h.updBoth _ _ _) _ s

theorem dropUnleft (c : Nat) : π (s.dropUnleft c) = π s := (h.ctxs _ _).trans (h.updCore _ _ _)

theorem unstamp (c x : Nat) : π (s.unstamp c x) = π s := h.ctxs _ _

/-- A core that asks for priority joins those that have asked. -/
theorem joinPriority (p : Prop) [Decidable p] (l : List Nat) : π (if p then { s with priority := l } else s) = π s := by
  split
  · exact h.priority _ _
  · rfl

/-- The beats of a core's squashed chunk are withdrawn. -/
theorem withdrawBeats (c : Nat) : π (s.coreNums.foldl (fun s c' => s.updBoth c' (fun a => { a with
    nbr := Tab.mapV a.nbr (fun _ q => q.filter (fun b => b.src != some c)) })) s) = π s :=
  foldl_keeps π (fun s _ => h.updBoth s _ _) _ s

/-- A squash (R137). -/
theorem squash (c : Nat) : π (s.squash c) = π s := by
  unfold State.squash
  dsimp only
  split
  · rw [h.ignores.count, h.withdrawBeats, h.unstamp, h.dropUnleft, h.joinPriority, h.core, h.updBoth]
  · rw [h.postBy _ h.writeMem, h.updBoth, foldl_keeps π (fun t (b : Nat × Block) => h.failBlock t c b.1),
      h.ignores.count, h.withdrawBeats, h.unstamp, h.dropUnleft, h.joinPriority, h.core, h.updBoth]

theorem broadcast (part : Nat) (c : Option Nat) (wr : List Nat) : π (s.broadcast part c wr) = π s := by
  unfold State.broadcast
  split
  · rfl
  · refine foldl_keeps π (fun s d => ?_) _ s
    split
    · rfl
    · dsimp only
      split
      · rw [h.squash, h.updCore]
      · exact h.updCore _ _ _

theorem outWrite (k : Nat) (bs : List Byte) : π (s.outWrite k bs) = π s := by
  unfold State.outWrite
  dsimp only
  rw [foldl_keeps π (fun t p => h.broadcast t p none _), h.breakResv]
  exact (h.mem _ _).trans ((h.keepOld _ _).trans (h.outTouch _ _))

/-! ### The order-stamp unit -/

/-- A report (R163, R350). -/
theorem reportRace (x : Nat) (a n : Access) : π (s.reportRace x a n) = π s := by
  unfold State.reportRace
  dsimp only
  split
  · rfl
  · exact (h.postBy _ h.outWrite _ _ _ _).trans (h.updCtx _ _ _)

theorem keepAccess (x : Nat) (a : Access) (clk : Tab Nat) : π (s.keepAccess x a clk) = π s := by
  unfold State.keepAccess
  rw [h.updCtx, foldl_keeps π (fun t o => h.reportRace t x o a)]

theorem stampMarks (cur : Cur) (x : Nat) (th : Thread) (key n : Nat) (w y : Bool) : π (s.stampMarks cur x th key n w y) = π s := by
  have hsees : ∀ f, π (if (w && !y) = true then s else s.mapTids cur.core cur.slot [th.ltid] f) = π s := fun f => by
    split
    · rfl
    · exact h.mapTids _ _ _ _ _
  unfold State.stampMarks
  dsimp only
  split
  · split
    · rw [h.updCtx, hsees]
    · exact hsees _
  · exact hsees _

theorem stamp (cur : Cur) (l key n : Nat) (w y r : Bool) (va : Word) : π (s.stamp cur l key n w y r va) = π s := by
  unfold State.stamp
  split
  · rfl
  dsimp only
  split
  · rfl
  split
  · rfl
  split
  · exact h.keepAccess _ _ _ _
  · rw [h.stampMarks, h.keepAccess]

theorem stampAcc (e : Site) (r : Acc) (n : Nat) (w y : Bool) : π (s.stampAcc e r n w y) = π s := by
  unfold State.stampAcc
  split
  · rfl
  · exact h.stamp ..

/-! ### Traces -/

theorem noteScoped (e : Site) (th : Thread) (k i : Nat) (w t : Bool) : π (s.noteScoped e th k i w t) = π s := by
  unfold State.noteScoped
  split
  · split
    · exact h.stamp ..
    · rfl
  · split
    · rw [h.stamp]
      split
      · rfl
      · exact h.ignores.trackRead _ _ _ _ _
    · rfl

theorem noteSources (e : Site) (os : List Operand) : π (s.noteSources e os) = π s :=
  foldl_keeps π (fun s o => by
    split
    · exact foldl_keeps π (fun s th => h.noteScoped s e th _ _ _ _) _ s
    · rfl) _ s

theorem noteXlat (c x : Nat) (t : Xlat) (need : Need) : π (s.noteXlat c x t need) = π s := by
  have hmark : π (s.markLeaf t need) = π s := by
    rcases State.markLeaf_cases s t need with hm | ⟨v, hm⟩ <;> rw [hm]
    exact h.mem _ _
  cases hc : (t.cached || t.stale s) with
  | true => rw [State.noteXlat, if_pos hc]
  | false =>
    obtain ⟨f, t', w, hx⟩ := State.noteXlat_fresh s c x need hc
    rw [hx, h.caches, h.updCore, hmark]

theorem noteWalks (e : Site) (req : Thread → List Req) (go : Bool) : π (s.noteWalks e req go) = π s :=
  foldl_keeps π (fun s _ => h.noteXlat s _ _ _ _) _ s

theorem l1Meet (c l : Nat) (keep : Bool) : π (s.l1Meet c l keep) = π s := by
  unfold State.l1Meet
  split
  · rfl
  · rw [h.updCore, h.ignores.count]

theorem noteRead (c sl : Nat) (t : Target) (n cp : Nat) (need : Need) : π (s.noteRead c sl t n cp need) = π s := by
  cases t with
  | desc o => rfl
  | slice tc o => exact h.ignores.trackRead _ _ _ _ _
  | main x =>
    obtain ⟨ctx, hx⟩ := noteRead_main s c sl x n cp need
    rw [hx]
    split
    · rw [h.l1Meet, h.ignores.trackRead, h.noteXlat]
    · split
      · exact h.noteXlat ..
      · split
        · rw [h.ignores.count, h.noteXlat]
        · rw [h.updCore, h.ignores.count, h.noteXlat]

theorem noteLoads (e : Site) (rs : List Acc) (n cp : Nat) (y : Bool) : π (s.noteLoads e rs n cp y) = π s :=
  foldl_keeps π (fun t r => by rw [h.stampAcc, h.noteRead]) _ s

theorem freshLine (c : Nat) (t : Target) : π (s.freshLine c t) = π s := by
  unfold State.freshLine
  split
  · rfl
  · exact h.updCore _ _ _

theorem waitAcquire (c : Nat) (acq : Bool) : π (s.waitAcquire c acq) = π s := by
  unfold State.waitAcquire
  split
  · exact h.updCore _ _ _
  · rfl

end Durable

/-- Whether a block is under EXACT depends on its launch's level. -/
theorem State.isExact_of_levels {s t : State} (h : t.launches.map Launch.det = s.launches.map Launch.det) (sl : Nat) (b : Block) :
    t.isExact sl b = s.isExact sl b := by
  have hd : (t.launchOf b).det = (s.launchOf b).det := by
    have hi := congrArg (fun ds : List Nat => ds[b.launch]?) h
    simp only [List.getElem?_map] at hi
    rw [State.launchOf, State.launchOf, State.launch?, State.launch?]
    cases ht : t.launches[b.launch]? with
    | none => rw [ht] at hi; rw [Option.map_eq_none_iff.1 hi.symm]
    | some ln =>
      rw [ht] at hi
      obtain ⟨ln', hs, hdet⟩ := Option.map_eq_some_iff.1 hi.symm
      rw [hs]
      exact hdet.symm
  rw [State.isExact, State.isExact, hd]

end Sys2Proof.Machine
end

section
/-! A leaf that a group's walk has marked accessed is not marked again when the group's reads use the same walk (R380). -/

namespace Sys2Proof.Machine

/-! ### Bits of memory words -/

theorem leNat_testBit (bs : List Byte) (j : Nat) : (leNat bs).testBit j = (bs.getD (j / 8) 0).getLsbD (j % 8) := by
  induction bs generalizing j with
  | nil => simp [leNat]
  | cons b bs ih =>
    have hcons : leNat (b :: bs) = 2 ^ 8 * leNat bs + b.toNat := by
      rw [leNat, List.foldr_cons, Nat.add_comm]
      rfl
    rw [hcons, Nat.testBit_two_pow_mul_add _ b.isLt]
    by_cases hj : j < 8
    · rw [if_pos hj, Nat.div_eq_of_lt hj, Nat.mod_eq_of_lt hj]
      rfl
    · have hdiv : j / 8 = (j - 8) / 8 + 1 := by omega
      have hmod : j % 8 = (j - 8) % 8 := by omega
      rw [if_neg hj, ih, hdiv, hmod]
      rfl

/-- A bit of a word is a bit of one of its bytes. -/
theorem Memory.word_getLsbD (m : Memory) (k : Nat) {j : Nat} (hj : j < 64) :
    (Memory.word m k).getLsbD j = (Memory.byte m (k + j / 8)).getLsbD (j % 8) := by
  have hi : j / 8 < 8 := by omega
  rw [Memory.word, leWord, BitVec.getLsbD_ofNat, leNat_testBit, decide_eq_true hj, Bool.true_and, Memory.read, List.getD_eq_getElem?_getD,
    List.getElem?_map, List.getElem?_range hi]
  rfl

/-- Every bit that is set stays set. -/
def Memory.Grows (m m' : Memory) : Prop :=
  ∀ a j, (Memory.byte m a).getLsbD j = true → (Memory.byte m' a).getLsbD j = true

namespace Memory.Grows
variable {m m' m'' : Memory}

theorem refl (m : Memory) : Memory.Grows m m := fun _ _ h => h

theorem trans (h : Memory.Grows m m') (g : Memory.Grows m' m'') : Memory.Grows m m'' := fun a j hj => g a j (h a j hj)

theorem word (h : Memory.Grows m m') {k j : Nat} (hj : (Memory.word m k).getLsbD j = true) : (Memory.word m' k).getLsbD j = true := by
  have hlt : j < 64 := BitVec.lt_of_getLsbD hj
  rw [Memory.word_getLsbD _ _ hlt] at hj ⊢
  exact h _ _ hj

/-- Setting bits of a word. -/
theorem write_word (k : Nat) {w : Word} (h : ∀ j, (Memory.word m k).getLsbD j = true → w.getLsbD j = true) :
    Memory.Grows m (Memory.write m k (natLe 8 w.toNat)) := by
  intro a j hj
  by_cases ha : k ≤ a ∧ a < k + 8
  · obtain ⟨i, rfl⟩ := Nat.exists_eq_add_of_le ha.1
    have hj8 : j < 8 := BitVec.lt_of_getLsbD hj
    have hi : i < 8 := by omega
    have hdiv : (8 * i + j) / 8 = i := by omega
    have hmod : (8 * i + j) % 8 = j := by omega
    have hbit : ∀ m : Memory, (Memory.word m k).getLsbD (8 * i + j) = (Memory.byte m (k + i)).getLsbD j := fun m => by
      rw [Memory.word_getLsbD _ _ (by omega), hdiv, hmod]
    rw [← hbit] at hj ⊢
    rw [Memory.word_write]
    exact h _ hj
  · rw [Memory.byte_write_out _ _ _ _ (by rw [natLe_length]; omega)]
    exact hj

end Memory.Grows

/-! ### Marks -/

section
variable {s t : State} {x : Xlat}

/-- A mark sets the accessed bit of the entry, and perhaps its dirty bit. -/
theorem markLeaf_word (s : State) (x : Xlat) (need : Need) : s.markLeaf x need = s ∨ ∃ d : Word,
    s.markLeaf x need = s.writeMem x.ptr (natLe 8 (s.wordMem x.ptr ||| leafA ||| d).toNat) := by
  unfold State.markLeaf
  exact (ite_eq_or_eq ..).symm.imp id fun h => ⟨_, h⟩

/-- A walk marks by setting bits. -/
theorem noteXlat_grows (s : State) (c k : Nat) (x : Xlat) (need : Need) : Memory.Grows s.mem (s.noteXlat c k x need).mem := by
  have hmark : Memory.Grows s.mem (s.markLeaf x need).mem := by
    rcases markLeaf_word s x need with h | ⟨d, h⟩ <;> rw [h]
    · exact Memory.Grows.refl _
    · refine Memory.Grows.write_word x.ptr fun j hj => ?_
      have hj' : (s.wordMem x.ptr).getLsbD j = true := hj
      rw [BitVec.getLsbD_or, BitVec.getLsbD_or, hj', Bool.true_or, Bool.true_or]
  unfold State.noteXlat
  split
  · exact Memory.Grows.refl _
  · exact hmark

/-- A translation has no leaf to mark for a read: a TLB gave it, its entry has changed, or the entry's bit is set. -/
def Xlat.accessed (s : State) (x : Xlat) : Prop := x.cached = true ∨ x.stale s = true ∨ (s.wordMem x.ptr).getLsbD 56 = true

theorem leafA_eq : leafA = BitVec.twoPow 64 56 := by decide

theorem or_leafA_of_bit {w : Word} (h : w.getLsbD 56 = true) : w ||| leafA = w := by
  refine BitVec.eq_of_getLsbD_eq fun j hj => ?_
  rw [leafA_eq, BitVec.getLsbD_or, BitVec.getLsbD_twoPow]
  by_cases h56 : 56 = j
  · subst h56; rw [h]; rfl
  · simp [h56]

/-- Its read then marks nothing. -/
theorem markLeaf_of_accessed (h : x.accessed s) (hc : (x.cached || x.stale s) = false) : s.markLeaf x .read = s := by
  obtain ⟨hcached, hstale⟩ := Bool.or_eq_false_iff.1 hc
  have hw : (s.wordMem x.ptr).getLsbD 56 = true := by
    rcases h with h | h | h
    · rw [h] at hcached; cases hcached
    · rw [h] at hstale; cases hstale
    · exact h
  have he : s.wordMem x.ptr ||| leafA ||| (if (Need.read == .write || Need.read == .atomic) = true then leafD else 0)
      = s.wordMem x.ptr := by
    rw [or_leafA_of_bit hw]
    exact BitVec.or_zero
  unfold State.markLeaf
  dsimp only
  rw [he, bne_self_eq_false, Bool.and_false, if_neg Bool.false_ne_true]

/-- After its read a translation has no leaf to mark. -/
theorem accessed_noteXlat (s : State) (c k : Nat) (x : Xlat) : x.accessed (s.noteXlat c k x .read) := by
  cases hc : (x.cached || x.stale s) with
  | true =>
    rw [State.noteXlat, if_pos hc]
    exact (Bool.or_eq_true_iff.1 hc).imp id Or.inl
  | false =>
    obtain ⟨hcached, hstale⟩ := Bool.or_eq_false_iff.1 hc
    have hA : (s.wordMem x.ptr ||| leafA).getLsbD 56 = true := by
      rw [leafA_eq, BitVec.getLsbD_or, BitVec.getLsbD_twoPow]
      exact Bool.or_true _
    have hmem : (s.noteXlat c k x .read).wordMem x.ptr = (s.markLeaf x .read).wordMem x.ptr := by
      rw [State.noteXlat, if_neg (ne_true_of_eq_false hc)]
      rfl
    refine Or.inr (Or.inr ?_)
    rw [hmem]
    cases hne : s.wordMem x.ptr != s.wordMem x.ptr ||| leafA ||| 0 with
    | false =>
      have heq : s.wordMem x.ptr = s.wordMem x.ptr ||| leafA ||| 0 := by simpa using hne
      have hm : s.markLeaf x .read = s := by
        unfold State.markLeaf
        dsimp only
        rw [if_neg (show ¬ (Need.read == .write || Need.read == .atomic) = true by decide), hne, Bool.and_false, if_neg Bool.false_ne_true]
      rw [hm, heq]
      exact (congrArg (fun w : Word => w.getLsbD 56) BitVec.or_zero).trans hA
    | true =>
      have hm : s.markLeaf x .read = s.writeMem x.ptr (natLe 8 (s.wordMem x.ptr ||| leafA ||| 0).toNat) := by
        unfold State.markLeaf
        dsimp only
        rw [if_neg (show ¬ (Need.read == .write || Need.read == .atomic) = true by decide), hne, hcached, hstale]
        rfl
      rw [hm, State.wordMem, State.writeMem, Memory.word_write]
      exact (congrArg (fun w : Word => w.getLsbD 56) BitVec.or_zero).trans hA

/-- An entry that has come to differ from the one read differs while bits are set. -/
theorem Xlat.stale_grows {m : Memory} (h : x.stale s = true) (hx : x.pte = Memory.word m x.ptr) (hm : Memory.Grows m s.mem)
    (hg : Memory.Grows s.mem t.mem) : x.stale t = true := by
  unfold Xlat.stale at h ⊢
  obtain ⟨hc, hne⟩ := Bool.and_eq_true_iff.1 h
  rw [hc, Bool.true_and, bne_iff_ne]
  refine fun heq => (bne_iff_ne.1 hne) (BitVec.eq_of_getLsbD_eq fun j hj => ?_)
  have hj' := congrArg (fun w : Word => w.getLsbD j) heq
  simp only [BitVec.getLsbD_or] at hj' ⊢
  cases hp : x.pte.getLsbD j with
  | true =>
    have hs : (s.wordMem x.ptr).getLsbD j = true := hm.word (by rw [← hx]; exact hp)
    rw [hs]
  | false =>
    rw [hp] at hj'
    cases hs : (s.wordMem x.ptr).getLsbD j with
    | false => rfl
    | true =>
      have ht : (t.wordMem x.ptr).getLsbD j = true := hg.word hs
      rw [ht] at hj'
      exact hj'

/-- So it stays while bits are set, when it gives the entry as it was at first. -/
theorem Xlat.accessed.grows {m : Memory} (h : x.accessed s) (hx : x.cached = true ∨ x.pte = Memory.word m x.ptr)
    (hm : Memory.Grows m s.mem) (hg : Memory.Grows s.mem t.mem) : x.accessed t := by
  rcases h with h | h | h
  · exact Or.inl h
  · exact hx.imp id fun hx => Or.inl (x.stale_grows h hx hm hg)
  · exact Or.inr (Or.inr (hg.word h))

end

/-! ### Walks -/

/-- A walk gives its leaf's entry as it stands (R376, R379). -/
theorem walkFrom_pte {s : State} {lvls : List (Nat × Nat × Nat × Bool)} {table va : Nat} {l : Leaf}
    (h : walkFrom s lvls table va = .leaf l) : l.pte = s.wordMem l.ptr := by
  induction lvls generalizing table with
  | nil => cases h
  | cons p lvls ih =>
    obtain ⟨sh, bits, page, next4k⟩ := p
    unfold walkFrom at h
    dsimp only at h
    split at h
    · cases h
    · split at h
      · injection h with h
        rw [← h, leafVia]
      · split at h
        · cases h
        · split at h
          · cases h
          · split at h
            · split at h
              · cases h
              · split at h
                · cases h
                · injection h with h
                  rw [← h]
            · split at h
              · cases h
              · exact ih h

theorem clusterWalk_pte {s : State} {k x va : Nat} {l : Leaf} (h : clusterWalk s k x va = .leaf l) : l.pte = s.wordMem l.ptr := by
  unfold clusterWalk at h
  split at h
  · exact walkFrom_pte h
  · exact walkFrom_pte h

/-- What a walk gives an access is its leaf. -/
theorem clusterWalk_res {s : State} {k x va : Nat} {need : Need} {t : Xlat} (h : (clusterWalk s k x va).res va need = .ok t) :
    t.pte = s.wordMem t.ptr := by
  cases hw : clusterWalk s k x va with
  | leaf l =>
    rw [hw, Walk.res] at h
    split at h
    · cases h; exact clusterWalk_pte hw
    · cases h
  | absent => rw [hw] at h; cases h
  | malformed => rw [hw] at h; cases h
  | bad p => rw [hw] at h; cases h

/-- A translation comes from a TLB, or gives its entry as it stands (R380). -/
theorem translate_pte {s : State} {c x va : Nat} {need : Need} {t : Xlat} (h : translate s c x va need = .ok t) :
    t.cached = true ∨ t.pte = s.wordMem t.ptr := by
  unfold translate at h
  split at h
  · dsimp only at h
    split at h
    · cases h; exact Or.inl rfl
    · exact Or.inr (clusterWalk_res h)
  · exact Or.inr (clusterWalk_res h)

theorem checkAcc_pte {s : State} {c sl n al : Nat} {va : Word} {need : Need} {t : Xlat}
    (h : checkAcc s c sl va n al need = .ok (.main t)) : t.cached = true ∨ t.pte = s.wordMem t.ptr := by
  unfold checkAcc at h
  split at h
  · cases h
  dsimp only at h
  split at h
  · cases h
  split at h
  · cases h
  · cases h
  · split at h <;> cases h
  · split at h
    · cases h
    · split at h
      · cases h
      · split at h <;> cases h
  · split at h
    · cases h
    · unfold checkSlice checkSliceOf at h
      dsimp only at h
      split at h
      · cases h
      · split at h
        · cases h
        · split at h <;> cases h
  · split at h
    next hok => cases h; exact translate_pte hok
    all_goals cases h

theorem checkReq_pte {s : State} {c sl : Nat} {r : Req} {t : Xlat} (h : checkReq s c sl r = .ok (.main t)) :
    t.cached = true ∨ t.pte = s.wordMem t.ptr := by
  unfold checkReq at h
  split at h
  next hok =>
    split at h
    · cases h; exact checkAcc_pte hok
    · cases h
  · cases h
  · split at h
    · cases h
    · split at h
      · cases h
      · split at h
        · split at h <;> cases h
        · exact checkAcc_pte h
  · exact checkAcc_pte h

/-! ### The walks of a group -/

/-- After a group's walks for reads no translation of the group has a leaf to mark. -/
theorem accessed_noteXlats {m : Memory} (c : Nat) (k : State → Nat) (go : Bool) (ts : List (Xlat × Need)) (s : State)
    (hm : Memory.Grows m s.mem)
    (hx : ∀ t ∈ ts, t.2 = .read ∧ (t.1.cached = true ∨ t.1.pte = Memory.word m t.1.ptr)) :
    let u := ts.foldl (fun s t => s.noteXlat c (k s) t.1 (if go then t.2 else .read)) s
    Memory.Grows s.mem u.mem ∧ ∀ t ∈ ts, t.1.accessed u := by
  induction ts generalizing s with
  | nil => exact ⟨Memory.Grows.refl _, fun t ht => absurd ht List.not_mem_nil⟩
  | cons t ts ih =>
    obtain ⟨hread, hpte⟩ := hx t (List.mem_cons_self ..)
    rw [List.foldl_cons, hread, ite_self]
    have hstep := noteXlat_grows s c (k s) t.1 .read
    obtain ⟨hg, hacc⟩ := ih (s.noteXlat c (k s) t.1 .read) (hm.trans hstep) fun t ht => hx t (List.mem_cons_of_mem _ ht)
    refine ⟨hstep.trans hg, fun u hu => ?_⟩
    rcases List.mem_cons.1 hu with rfl | hu
    · exact Xlat.accessed.grows (accessed_noteXlat s c (k s) u.1) hpte (hm.trans hstep) hg
    · exact hacc u hu

/-- The translations of a group whose requests are reads. -/
theorem accessXlats_read {s : State} {e : Site} {q : Thread → Req} (hq : ∀ th, (q th).need = .read) {t : Xlat × Need}
    (ht : t ∈ accessXlats s e (fun th => [q th])) : t.2 = .read ∧ (t.1.cached = true ∨ t.1.pte = Memory.word s.mem t.1.ptr) := by
  obtain ⟨th, -, hth⟩ := List.mem_flatMap.1 ht
  obtain ⟨r, hreq, hsome⟩ := List.mem_filterMap.1 hth
  cases List.mem_singleton.1 hreq
  split at hsome
  next hok => cases hsome; exact ⟨hq th, checkReq_pte hok⟩
  next => cases hsome

/-- The reads of a group that passes its checks then mark no leaf. -/
theorem accessed_noteWalks {s : State} {e : Site} {q : Thread → Req} {rs : List Acc} (hq : ∀ th, (q th).need = .read)
    (h : checkGroup s e (fun th => [q th]) = .ok rs) {r : Acc} (hr : r ∈ rs) {x : Xlat} (hx : accTarget r = .main x) :
    x.accessed (s.noteWalks e (fun th => [q th]) true) := by
  obtain ⟨th, hth, t, hok, rfl⟩ := (checkGroup_one h).1 hr
  have ht : t = .main x := hx
  subst ht
  obtain ⟨-, hacc⟩ := accessed_noteXlats e.cur.core (fun s => s.ctxOf e.b) true _ s (Memory.Grows.refl _) fun t => accessXlats_read hq
  refine hacc (x, (q th).need) (List.mem_flatMap.2 ⟨th, hth, List.mem_filterMap.2 ⟨q th, List.mem_singleton.2 rfl, ?_⟩⟩)
  rw [hok]

end Sys2Proof.Machine
end

section
/-! The operands of a word, and COMMITTED memory, read the same before and after its traces (R53, R120, R138, R142). -/

namespace Sys2Proof.Machine

/-- From `s` to `t` a quiet step after which the threads of a slot read COMMITTED memory and their registers as before: for the handler
the lines that count as the served block's own are the same. -/
structure Steady (c sl : Nat) (s t : State) : Prop where
  quiet : Quiet s t
  chunks : (t.core c).chunks = (s.core c).chunks
  own : sl = handlerSlot → ∀ w, s.winBlock? c sl = some w → ∀ l, ownLine t w l = ownLine s w l

theorem Quiet.winBlock? {s t : State} (q : Quiet s t) (c sl : Nat) : t.winBlock? c sl = s.winBlock? c sl := by
  rw [State.winBlock?, State.winBlock?, q.arch]
  simp only [q.block?]

/-- The ownership of a line depends on what is listed of it, on the placed blocks and on the launches. -/
theorem State.owner_congr {s t : State} (hp : t.plat = s.plat) (hl : t.launches = s.launches)
    (ha : ∀ d, (t.core d).arch = (s.core d).arch) (hs : ∀ d, (t.core d).saved = (s.core d).saved) (l : Nat) : t.owner l = s.owner l := by
  rw [State.owner, State.owner, hp]
  simp only [ha, hs, hl, State.launch?]

namespace Steady
variable {c sl : Nat} {s t u : State}

theorem refl (s : State) : Steady c sl s s := ⟨Quiet.refl s, rfl, fun _ _ _ _ => rfl⟩

theorem trans (h : Steady c sl s t) (g : Steady c sl t u) : Steady c sl s u :=
  ⟨h.quiet.trans g.quiet, g.chunks.trans h.chunks, fun hs w hw l =>
    (g.own hs w ((h.quiet.winBlock? c sl).trans hw) l).trans (h.own hs w hw l)⟩

/-- A quiet step that keeps the ownership of lines. -/
theorem of_quiet (q : Quiet s t) (hp : t.plat = s.plat) (hc : (t.core c).chunks = (s.core c).chunks)
    (hs : ∀ d, (t.core d).saved = (s.core d).saved) : Steady c sl s t :=
  ⟨q, hc, fun _ w _ l => by rw [ownLine, ownLine, State.owner_congr hp q.launches q.arch hs]⟩

/-- A change of a core in its caches, counters or the tracking of its chunk. -/
theorem setCore (s : State) (d : Nat) {k : CoreSt} (ha : k.arch = (s.core d).arch) (ho : k.chunk.ovl = (s.core d).chunk.ovl)
    (hh : k.chunk.held = (s.core d).chunk.held) (hc : k.chunks = (s.core d).chunks) (hs : k.saved = (s.core d).saved) :
    Steady c sl s (s.setCore d k) := by
  refine of_quiet (Quiet.setCore s d k ha ho hh) rfl ?_ fun x => ?_
  · by_cases h : c = d
    · rw [h, State.core_setCore, hc]
    · rw [State.core_setCore_ne _ _ h]
  · by_cases h : x = d
    · rw [h, State.core_setCore, hs]
    · rw [State.core_setCore_ne _ _ h]

theorem count (s : State) (d code n : Nat) : Steady c sl s (s.count d code n) := by
  unfold State.count
  dsimp only
  split
  · exact setCore s d rfl rfl rfl rfl rfl
  · exact refl s

theorem dirty (s : State) (d : Nat) : Steady c sl s (s.dirty d) := by
  unfold State.dirty
  dsimp only
  split
  · exact setCore s d rfl rfl rfl rfl rfl
  · exact refl s

theorem l1Meet (s : State) (d l : Nat) (keep : Bool) : Steady c sl s (s.l1Meet d l keep) := by
  unfold State.l1Meet
  split
  · exact refl s
  · exact (count s d 6 1).trans (setCore _ d rfl rfl rfl rfl rfl)

theorem freshLine (s : State) (d : Nat) (x : Target) : Steady c sl s (s.freshLine d x) := by
  unfold State.freshLine
  split
  · exact refl s
  · exact setCore s d rfl rfl rfl rfl rfl

theorem waitAcquire (s : State) (d : Nat) (acq : Bool) : Steady c sl s (s.waitAcquire d acq) := by
  unfold State.waitAcquire
  split
  · exact setCore s d rfl rfl rfl rfl rfl
  · exact refl s

theorem foldl {α : Type} {f : State → α → State} (hf : ∀ s a, Steady c sl s (f s a)) (l : List α) (s : State) :
    Steady c sl s (l.foldl f s) := by
  induction l generalizing s with
  | nil => exact refl s
  | cons a l ih => exact (hf s a).trans (ih _)

/-! ### Touches -/

/-- A line listed anew; the others stay. -/
theorem State.owner_list (s : State) (line : Nat) {v : Plat} (hv : v ≠ .unowned) (l : Nat) :
    State.owner { s with plat := Tab.set .unowned s.plat line v } l = if l = line then v else s.owner l := by
  have hset : Tab.set .unowned s.plat line v = Tab.put s.plat line v := if_neg hv
  split
  next h => rw [h, State.owner, hset, Tab.find?_put_same]
  next h =>
    rw [State.owner, State.owner, hset]
    dsimp only
    rw [Tab.find?_put_ne _ _ h]
    rfl

theorem State.shareOwner_plat (s : State) (l b n : Nat) : (s.shareOwner l b n).plat = s.plat :=
  foldl_keeps State.plat (fun t c => by
    dsimp only
    split <;> rfl) _ s

theorem ownLine_iff {s : State} {w : Block} {l : Nat} :
    ownLine s w l = true ↔ s.owner l = .private_ w.launch w.lin ∨ s.owner l = .unowned := by
  rw [ownLine, Bool.or_eq_true, beq_iff_eq, beq_iff_eq]

/-- A touch by a block leaves the lines that count as its own (R120). -/
theorem ownLine_touch (s : State) (w : Block) (line l : Nat) :
    ownLine { s with plat := (s.touch w.launch w.lin line).plat } w l = ownLine s w l := by
  rw [Bool.eq_iff_iff, ownLine_iff, ownLine_iff]
  unfold State.touch
  split
  next ho =>
    dsimp only
    rw [State.owner_list s line Plat.noConfusion]
    by_cases h : l = line
    · rw [if_pos h, h, ho]
      simp
    · rw [if_neg h]
  next o b ho =>
    by_cases hsame : (o == w.launch && b == w.lin) = true
    · rw [if_pos hsame]
    · rw [if_neg hsame, State.shareOwner_plat]
      dsimp only
      rw [State.owner_list s line Plat.noConfusion]
      by_cases h : l = line
      · rw [if_pos h, h, ho]
        have hne : ¬ (o = w.launch ∧ b = w.lin) := by simpa using hsame
        simp [hne]
      · rw [if_neg h]
  next ls ho =>
    split
    · rfl
    · dsimp only
      rw [State.owner_list s line Plat.noConfusion]
      by_cases h : l = line
      · rw [if_pos h, h, ho]
        simp
      · rw [if_neg h]

theorem State.touchOn_plat (s : State) (d o b line : Nat) : (s.touchOn d o b line).plat = (s.touch o b line).plat := by
  have hcount : ∀ t : State, (t.count d 9 1).plat = t.plat := fun t => by
    unfold State.count
    dsimp only
    split <;> rfl
  unfold State.touchOn
  dsimp only
  split
  · split
    · rfl
    · exact hcount _
  · rfl

theorem touchOn {w : Block} (hw : s.winBlock? c sl = some w) (d line : Nat) : Steady c sl s (s.touchOn d w.launch w.lin line) := by
  have q := Quiet.touchOn s d w.launch w.lin line
  refine ⟨q, (Ignores.chunks c).touchOn s d w.launch w.lin line, fun _ w' hw' l => ?_⟩
  cases hw.symm.trans hw'
  have ho := State.owner_congr (s := { s with plat := (s.touch w.launch w.lin line).plat }) (t := s.touchOn d w.launch w.lin line)
    (State.touchOn_plat ..) q.launches q.arch (fun x => (Ignores.saved x).touchOn s d w.launch w.lin line) l
  rw [← ownLine_touch s w line l, ownLine, ownLine, ho]

/-- Steps that are steady while the slot's window belongs to a block. -/
theorem foldl_win {w : Block} {f : State → Nat → State} (hf : ∀ t l, t.winBlock? c sl = some w → Steady c sl t (f t l))
    (ls : List Nat) (hw : s.winBlock? c sl = some w) : Steady c sl s (ls.foldl f s) := by
  induction ls generalizing s with
  | nil => exact refl s
  | cons l ls ih => exact (hf s l hw).trans (ih (((hf s l hw).quiet.winBlock? c sl).trans hw))

/-- A tracked read by a thread of the slot. -/
theorem trackRead (s : State) (k n : Nat) : Steady c sl s (s.trackRead c sl k n) := by
  unfold State.trackRead
  split
  · exact refl s
  next w hw =>
    refine foldl_win (fun t l ht => ?_) _ hw
    have hq := touchOn ht c l
    have hchunk : ∀ f : Chunk → Chunk, (∀ h, (f h).ovl = h.ovl) → (∀ h, (f h).held = h.held) →
        Steady c sl t ((t.touchOn c w.launch w.lin l).updChunk c f) := fun f ho hh =>
      hq.trans (setCore _ c rfl (ho _) (hh _) rfl rfl)
    dsimp only
    split
    · split
      · exact hq
      · split <;> exact hchunk _ (by intro; rfl) (by intro; rfl)
    · rw [if_neg Bool.false_ne_true]
      split <;> exact hchunk _ (by intro; rfl) (by intro; rfl)

theorem updTlb (s : State) (f : CoreSt → List TlbEntry) : Steady c sl s (s.updCore c (fun k => { k with tlb := f k })) :=
  setCore s c rfl rfl rfl rfl rfl

theorem walked (s : State) (ct : Tab (List TlbEntry)) (wc : Tab (List WalkPtr)) :
    Steady c sl s { s with ctlb := ct, wcache := wc } := of_quiet (Quiet.walked s ct wc) rfl rfl fun _ => rfl

/-- A read whose walk has marked its leaf. -/
theorem noteRead (s : State) (x : Target) (n cp : Nat) (hx : ∀ t, x = .main t → t.accessed s) :
    Steady c sl s (s.noteRead c sl x n cp .read) := by
  cases x with
  | desc o => exact refl s
  | slice tc o => exact trackRead s _ n
  | main t =>
    have hwalk : ∀ k, Steady c sl s (s.noteXlat c k t .read) := fun k => by
      cases hc : (t.cached || t.stale s) with
      | true => rw [State.noteXlat, if_pos hc]; exact refl s
      | false =>
        obtain ⟨f, ct, wc, h⟩ := State.noteXlat_fresh s c k .read hc
        rw [h, markLeaf_of_accessed (hx t rfl) hc]
        exact (updTlb s f).trans (walked _ ct wc)
    obtain ⟨k, h⟩ := noteRead_main s c sl t n cp .read
    rw [h]
    split
    · exact ((hwalk k).trans (trackRead _ _ n)).trans (l1Meet _ c _ _)
    · split
      · exact hwalk k
      · split
        · exact (hwalk k).trans (count _ c 6 1)
        · exact ((hwalk k).trans (count _ c 6 1)).trans (setCore _ c rfl rfl rfl rfl rfl)

theorem accessed (h : Steady c sl s t) {x : Xlat} (hx : x.accessed s) : x.accessed t := by
  rw [Xlat.accessed, Xlat.stale, State.wordMem] at hx ⊢
  rw [h.quiet.mem]
  exact hx

/-- The loads of a group whose walks have marked their leaves, in a launch that is not checked for races. -/
theorem noteLoads {e : Site} (hb : e.names s) (hr : (s.launchOf e.b).race = false) (rs : List Acc) (n cp : Nat) (y : Bool)
    (hx : ∀ r ∈ rs, ∀ t, accTarget r = .main t → t.accessed s) : Steady e.cur.core e.cur.slot s (s.noteLoads e rs n cp y) := by
  induction rs generalizing s with
  | nil => exact refl s
  | cons r rs ih =>
    have hstep : Steady e.cur.core e.cur.slot s ((s.noteRead e.cur.core e.cur.slot (accTarget r) n cp .read).stampAcc e r n false y) := by
      have h := noteRead (c := e.cur.core) (sl := e.cur.slot) s (accTarget r) n cp (hx r (List.mem_cons_self ..))
      rw [State.stampAcc_off ((h.quiet.block? _ _).trans hb) (by rw [h.quiet.launchOf]; exact hr)]
      exact h
    refine hstep.trans (ih ((hstep.quiet.block? _ _).trans hb) (by rw [hstep.quiet.launchOf]; exact hr) fun q hq t ht => ?_)
    exact hstep.accessed (hx q (List.mem_cons_of_mem _ hq) t ht)

/-! ### What reads the same -/

section
variable (h : Steady c sl s t)
include h

theorem isExact (a : Nat) (b : Block) : t.isExact a b = s.isExact a b := by
  rw [State.isExact, State.isExact, h.quiet.launchOf]

theorem inPlace (hs : sl = handlerSlot) : Machine.inPlace t c = Machine.inPlace s c := by
  subst hs
  rw [Machine.inPlace, Machine.inPlace, h.quiet.winBlock?]
  cases hw : s.winBlock? c handlerSlot with
  | none => rfl
  | some w =>
    dsimp only
    rw [h.isExact]
    simp only [h.own rfl w hw]

theorem comRead (k n : Nat) : Machine.comRead t c sl k n = Machine.comRead s c sl k n := by
  rw [Machine.comRead, Machine.comRead, h.quiet.block?]
  cases hb : s.block? c sl with
  | none => rw [State.readMem, State.readMem, h.quiet.mem]
  | some b =>
    dsimp only
    rw [h.isExact, h.quiet.launchOf, h.quiet.mem, h.quiet.ovl]
    by_cases hs : sl = handlerSlot
    · rw [h.inPlace hs]
    · rw [if_neg hs, if_neg hs]

/-- A source of a word. -/
theorem read {e : Site} (hc : e.cur.core = c) (hs : e.cur.slot = sl) (th : Thread) (o : Operand) : e.read t th o = e.read s th o := by
  subst hc hs
  match o with
  | .lane _ | .const _ | .pred _ => rfl
  | .scoped l i =>
    rw [Site.read, Site.read, readOp, readOp, scopedRead, scopedRead, State.treeOf, State.treeOf, h.quiet.launchOf]
    simp only [h.comRead]
  | .special i => rw [Site.read, Site.read, readOp, readOp, special, special, h.quiet.launchOf, h.chunks]

end

end Steady

end Sys2Proof.Machine
end

section
/-! Proof of O34: WAITSEQ and WAITVAL evaluate their condition, at issue and again (R120, R271, R281, R336, R338). -/

namespace Sys2Proof.Machine

/-! ### What an evaluation does -/

section
variable (s : State) (e : Site) (i : Instr) (f : WaitF) (cond : Word → Word → Bool) (rs : List Acc)

/-- The accesses whose condition holds, with the words as they read in a state. -/
def waitsDone : List Acc := rs.filter (fun (r : Acc) => cond (waitWord s e rs r.1) (waitArgs s e f r.1).2)

/-- The state after the traces of the evaluation's reads, and the acquire of a wait that is satisfied (R147, R271). -/
def State.evaluated : State :=
  let t := s.noteLoads e (waitsDone s e f cond rs) 8 1 false
  if (waitsDone s e f cond rs).isEmpty then t else t.waitAcquire e.cur.core f.acq

/-- What a thread does: it takes the word as state `s` gives it, or waits with its operands as `t` gives them. -/
def waitStep (t : State) (race : Bool) (th : Thread) : Thread :=
  if cond (waitWord s e rs th) (waitArgs s e f th).2 then
    let th' := if race && f.acq then th.acquire e.t e.b f.lvl.toNat else th
    { ((th'.setD f.d (waitWord s e rs th)).cleared f.d).next with wait := .run, kept := none }
  else { th with wait := .mem i (waitArgs t e f th).1 (waitArgs t e f th).2, acted := false, kept := none }

theorem valueOf_map (l : Nat) (v : Acc → Nat) : valueOf (rs.map (fun r => (r.1.ltid, v r))) l
    = (rs.find? (fun (r : Acc) => r.1.ltid == l)).elim 0 v := by
  rw [valueOf, List.find?_map]
  cases h : rs.find? ((fun x : Nat × Nat => x.1 == l) ∘ fun r => (r.1.ltid, v r)) with
  | none => rw [show rs.find? (fun (r : Acc) => r.1.ltid == l) = none from h]; rfl
  | some r => rw [show rs.find? (fun (r : Acc) => r.1.ltid == l) = some r from h]; rfl

theorem evalWaits_eq : s.evalWaits e i f cond rs =
    let s1 := rs.foldl (fun s r => s.freshLine e.cur.core (accTarget r)) s
    let t := s1.evaluated e f cond rs
    (t.finish e (waitStep s1 e i f cond rs t (t.launchOf e.b).race), decide ((waitsDone s1 e f cond rs).length < rs.length)) := by
  have hval : ∀ (s1 : State) (l : Nat), valueOf (rs.map (fun (r : Acc) => (r.1.ltid, accValue s1 e r 8))) l
      = (rs.find? (fun (r : Acc) => r.1.ltid == l)).elim 0 (fun r => readAt s1 e r 8) := fun s1 l => valueOf_map rs l _
  unfold State.evalWaits
  dsimp only
  simp only [hval]
  rfl

end

section
variable {s t : State} {e : Site} {i : Instr} {f : WaitF} {cond : Word → Word → Bool} {rs : List Acc}

/-- Without the order-stamp unit a thread goes on with the value, or waits (R271, R336). -/
theorem waitStep_eq (th : Thread) (ha : waitArgs t e f th = waitArgs s e f th) : waitStep s e i f cond rs t false th
    = waitGoes i f (cond (waitWord s e rs th) (waitArgs s e f th).2) (waitWord s e rs th) (waitArgs s e f th) th := by
  rw [waitStep, waitGoes, ha]
  rfl

theorem waitStep_ltid (th : Thread) : (waitStep s e i f cond rs t false th).ltid = th.ltid := by
  rw [waitStep]
  split
  · exact putD_ltid f.d _ th
  · rfl

theorem Durable.evalWaits {β : Type} {π : State → β} (h : Durable π) : π (s.evalWaits e i f cond rs).1 = π s := by
  have hfin : ∀ (t : State) (g : Thread → Thread), π (t.finish e g) = π t := fun t g => h.mapTids _ _ _ _ _
  rw [evalWaits_eq, hfin, State.evaluated]
  split
  · rw [h.noteLoads, foldl_keeps π (fun s r => h.freshLine s _ _)]
  · rw [h.waitAcquire, h.noteLoads, foldl_keeps π (fun s r => h.freshLine s _ _)]

/-- All conditions hold when no access is left out. -/
theorem waitsDone_lt : (waitsDone s e f cond rs).length < rs.length ↔
    rs.all (fun (r : Acc) => cond (waitWord s e rs r.1) (waitArgs s e f r.1).2) = false := by
  rw [waitsDone, List.length_filter_lt_length_iff_exists, List.all_eq_false]

/-- A wait's operands, after a steady step. -/
theorem Steady.waitArgs (h : Steady e.cur.core e.cur.slot s t) (th : Thread) : waitArgs t e f th = waitArgs s e f th := by
  rw [Machine.waitArgs, Machine.waitArgs]
  split
  · rfl
  · rw [h.read rfl rfl, h.read rfl rfl]

theorem Steady.evaluated (hb : e.names s) (hr : (s.launchOf e.b).race = false)
    (hx : ∀ r ∈ rs, ∀ x, accTarget r = .main x → x.accessed s) :
    Steady e.cur.core e.cur.slot s (s.evaluated e f cond rs) := by
  have h := Steady.noteLoads hb hr (waitsDone s e f cond rs) 8 1 false fun r hr => hx r (List.mem_filter.1 hr).1
  unfold State.evaluated
  dsimp only
  split
  · exact h
  · exact h.trans (Steady.waitAcquire _ _ _)

end

/-! ### The issue -/

section
variable {s : State} {e : Site} {i : Instr} {f : WaitF} {cond : Word → Word → Bool} {rs : List Acc}

theorem exec_of_waitParts (hw : waitParts i = some (f, cond)) : exec i s = .next (waitIssue i f cond s) := by
  unfold waitParts at hw
  split at hw <;> cases hw <;> rfl

/-- The state in which a group's wait is evaluated, but for the copies of its words. -/
def waitSources (s : State) (e : Site) (f : WaitF) : State :=
  ((s.noteWalks e (fun th => [⟨e.read s th f.a, 8, 8, .read, .plain⟩]) true).acts e).noteSources e [f.a, f.b]

/-- The state after a wait that not all threads of the group have left: their reads touch their lines, too (R120). -/
def State.touchedWaits (s : State) (e : Site) (rs : List Acc) : State :=
  rs.foldl (fun s q => s.noteRead e.cur.core e.cur.slot (accTarget q) 8 1 .read) s

theorem Durable.waitSources {β : Type} {π : State → β} (h : Durable π) : π (waitSources s e f) = π s := by
  rw [Machine.waitSources, h.noteSources, h.ignores.acts, h.noteWalks]

theorem exec_wait_of_runs (hw : waitParts i = some (f, cond)) (h : Runs i s e) (hx : s.isExact e.cur.slot e.b = false)
    (hp : Passes s e (fun th => [⟨e.read s th f.a, 8, 8, .read, .plain⟩]) rs) :
    let r := (waitSources s e f).evalWaits e i f cond rs
    Completes i s (if r.2 then { (r.1.touchedWaits e rs).closeAfter e.cur.core with cur := (r.1.touchedWaits e rs).cur } else r.1) := by
  obtain ⟨hok, hfresh⟩ := hp
  intro r
  have hcur : (r.1.touchedWaits e rs).cur = (waitSources s e f).cur := by
    rw [State.touchedWaits, foldl_keeps State.cur (fun s q => Durable.cur.noteRead s _ _ _ _ _ _), Durable.cur.evalWaits]
  have hexact : (waitSources s e f).isExact e.cur.slot e.b = false :=
    (State.isExact_of_levels Durable.levels.waitSources _ _).trans hx
  rw [hcur, Completes, exec_of_waitParts hw, waitIssue, issue_of_runs _ h, State.atWait, hx, if_neg Bool.false_ne_true, State.access, hok]
  dsimp only
  rw [hfresh, if_neg Bool.false_ne_true]
  refine congrArg Host.Outcome.next ?_
  refine if_congr Iff.rfl ?_ rfl
  exact if_neg (ne_true_of_eq_false hexact)

end

end Sys2Proof.Machine
end

section
/-! Proof of O34, second part: its clauses. -/

namespace Sys2Proof.Machine

/-- What leaves traces of some accesses only, as the statements put it. -/
theorem Traces.onlyTraces {s t : State} {rs : List Acc} (h : Traces (LeafFree rs) s t) : OnlyTraces s t rs := by
  obtain ⟨hm, q⟩ := h
  exact ⟨hm, fun c => ⟨q.arch c, q.ovl c, q.held c⟩, q.launches, q.ctxs, q.flights, q.ports, q.groups, q.msix⟩

/-! ### At issue -/

section
variable {s : State} {e : Site} {i : Instr} {f : WaitF} {cond : Word → Word → Bool} {rs : List Acc}

theorem Traces.waitSources (hok : checkGroup s e (fun th => [⟨e.read s th f.a, 8, 8, .read, .plain⟩]) = .ok rs) (hb : e.names s)
    (hr : (s.launchOf e.b).race = false) : Traces (LeafFree rs) s (waitSources s e f) := by
  have h := Traces.noteWalks (q := fun th => ⟨e.read s th f.a, 8, 8, .read, .plain⟩) hok true hb hr
  have hb' := (h.block? e.cur.core e.cur.slot).trans hb
  exact h.trans (Quiet.notes hb' (by rw [h.launchOf]; exact hr) [f.a, f.b]).traces

/-- The state of the evaluation is a steady step from the noted sources. -/
theorem waitNoted_steady : Steady e.cur.core e.cur.slot (waitSources s e f) (waitNoted s e f rs) :=
  Steady.foldl (fun s _ => Steady.freshLine s _ _) rs _

theorem Traces.waitNoted (hok : checkGroup s e (fun th => [⟨e.read s th f.a, 8, 8, .read, .plain⟩]) = .ok rs) (hb : e.names s)
    (hr : (s.launchOf e.b).race = false) : Traces (LeafFree rs) s (waitNoted s e f rs) :=
  (Traces.waitSources hok hb hr).trans waitNoted_steady.quiet.traces

/-- The touches of an evaluation change no block. -/
theorem Traces.touchedWaits (s : State) (e : Site) (rs : List Acc) : Traces (fun _ => False) s (s.touchedWaits e rs) := by
  unfold State.touchedWaits
  induction rs generalizing s with
  | nil => exact (Quiet.refl s).traces
  | cons r rs ih => exact (Traces.noteRead s _ _ _ _ _ _ fun _ _ _ h => h.elim).trans (ih _)

/-- In a launch that is not checked for races the walks of the group have marked its leaves when it is evaluated. -/
theorem accessed_waitNoted (hok : checkGroup s e (fun th => [⟨e.read s th f.a, 8, 8, .read, .plain⟩]) = .ok rs) (hb : e.names s)
    (hr : (s.launchOf e.b).race = false) {r : Acc} (hmem : r ∈ rs) {x : Xlat} (hx : accTarget r = .main x) :
    x.accessed (waitNoted s e f rs) := by
  have hw := Traces.noteWalks (q := fun th => ⟨e.read s th f.a, 8, 8, .read, .plain⟩) hok true hb hr
  have q := Quiet.notes ((hw.block? e.cur.core e.cur.slot).trans hb) (by rw [hw.launchOf]; exact hr) [f.a, f.b]
  have h := accessed_noteWalks (q := fun th => ⟨e.read s th f.a, 8, 8, .read, .plain⟩) (fun _ => rfl) hok hmem hx
  refine waitNoted_steady.accessed ?_
  rw [Xlat.accessed, Xlat.stale, State.wordMem] at h ⊢
  rw [waitSources, q.mem]
  exact h

/-- The group after an evaluation at issue: each thread has its word, or waits (R271, R336). -/
theorem evalWaits_goes (hok : checkGroup s e (fun th => [⟨e.read s th f.a, 8, 8, .read, .plain⟩]) = .ok rs) (hb : e.names s)
    (hr : (s.launchOf e.b).race = false) :
    let s1 := waitNoted s e f rs
    GroupGoes s ((waitSources s e f).evalWaits e i f cond rs).1 e (fun th =>
      waitGoes i f (cond (waitWord s1 e rs th) (waitArgs s1 e f th).2) (waitWord s1 e rs th) (waitArgs s1 e f th) th) := by
  intro s1 l
  have h1 : Traces (LeafFree rs) s s1 := Traces.waitNoted hok hb hr
  have hst : Steady e.cur.core e.cur.slot s1 (s1.evaluated e f cond rs) :=
    Steady.evaluated ((h1.block? _ _).trans hb) (by rw [h1.launchOf]; exact hr) fun r hr' x hx => accessed_waitNoted hok hb hr hr' hx
  have hrace : ((s1.evaluated e f cond rs).launchOf e.b).race = false := by rw [hst.quiet.launchOf, h1.launchOf, hr]
  have heval : ((waitSources s e f).evalWaits e i f cond rs).1
      = (s1.evaluated e f cond rs).finish e (waitStep s1 e i f cond rs (s1.evaluated e f cond rs) false) := by
    rw [evalWaits_eq]
    exact congrArg (fun r => State.finish _ e (waitStep s1 e i f cond rs (s1.evaluated e f cond rs) r)) hrace
  have hth : (s1.evaluated e f cond rs).thread? e.cur.core e.cur.slot l = s.thread? e.cur.core e.cur.slot l := by
    rw [hst.quiet.thread?, State.thread?, h1.block?, State.thread?]
  rw [heval, State.finish_goes _ e _ waitStep_ltid l, hth]
  simp only [fun th => waitStep_eq (i := i) (cond := cond) (rs := rs) th (hst.waitArgs (f := f) th)]

/-- The first clause of O34. -/
theorem wait_at_issue (hw : waitParts i = some (f, cond)) (h : Runs i s e) (hx : s.isExact e.cur.slot e.b = false)
    (hp : Passes s e (fun th => [⟨e.read s th f.a, 8, 8, .read, .plain⟩]) rs) :
    let s1 := waitNoted s e f rs
    let m := waitWord s1 e rs
    let holds := fun (th : Thread) => cond (m th) (waitArgs s1 e f th).2
    ∃ t s2, Completes i s t
      ∧ ((s.launchOf e.b).race = false → GroupGoes s s2 e (fun th => waitGoes i f (holds th) (m th) (waitArgs s1 e f th) th))
      ∧ t = if rs.all (fun r => holds r.1) then s2 else { s2.closeAfter e.cur.core with cur := s2.cur } := by
  intro s1 m holds
  have hb : e.names s := State.site?_names h.1
  have hex := exec_wait_of_runs hw h hx hp
  have hgo := fun hr => evalWaits_goes (i := i) (cond := cond) hp.1 hb hr
  have hflag : ((waitSources s e f).evalWaits e i f cond rs).2 = !(rs.all (fun r => holds r.1)) := by
    rw [evalWaits_eq]
    cases hall : rs.all (fun r => holds r.1) with
    | false => exact decide_eq_true (waitsDone_lt.2 hall)
    | true => exact decide_eq_false fun hlt => absurd (hall.symm.trans (waitsDone_lt.1 hlt)) (by decide)
  dsimp only at hex
  rw [hflag] at hex
  cases hall : rs.all (fun r => holds r.1) with
  | true =>
    rw [hall] at hex
    exact ⟨_, _, hex, hgo, (if_pos rfl).symm⟩
  | false =>
    rw [hall] at hex
    refine ⟨_, _, hex, fun hr l => ?_, (if_neg Bool.false_ne_true).symm⟩
    have ht := Traces.touchedWaits ((waitSources s e f).evalWaits e i f cond rs).1 e rs
    rw [← hgo hr l, State.thread?, ht.block?, State.thread?]

end

end Sys2Proof.Machine
end

section
/-! Proof of O34, third part: WAIT_REEVALUATION. -/

namespace Sys2Proof.Machine

/-! ### The words read at their homes -/

theorem Quiet.symm {s t : State} (q : Quiet s t) : Quiet t s :=
  ⟨q.mem.symm, fun c => (q.arch c).symm, fun c => (q.ovl c).symm, fun c => (q.held c).symm, q.ctxs.symm, q.launches.symm,
    q.flights.symm, q.ports.symm, q.groups.symm, q.msix.symm, q.cur.symm⟩

theorem Steady.symm {s t : State} {c sl : Nat} (h : Steady c sl s t) : Steady c sl t s :=
  ⟨h.quiet.symm, h.chunks.symm, fun hs w hw l => (h.own hs w ((h.quiet.winBlock? c sl).symm.trans hw) l).symm⟩

section
variable {s t : State} {c sl : Nat}

theorem Quiet.ownStores (q : Quiet s t) (c : Nat) : Machine.ownStores t c = Machine.ownStores s c := by
  rw [Machine.ownStores, Machine.ownStores, q.flights, q.held, exactStores, exactStores, q.arch]

/-- No copy of the line of a target's word is held. -/
def Homed (s : State) (c : Nat) (x : Target) : Prop := x.kind ≠ 0 → ∀ y ∈ (s.core c).l1, y.line ≠ x.key / 256

/-- Words at their homes read the same after a steady step (R271). -/
theorem Steady.readTarget (h : Steady c sl s t) {x : Target} (hs : Homed s c x) (ht : Homed t c x) (l n : Nat) :
    Machine.readTarget t c sl l x n = Machine.readTarget s c sl l x n := by
  cases x with
  | desc o =>
    rw [Machine.readTarget, Machine.readTarget, descBytes, descBytes]
    simp only [descEntry, h.quiet.winBlock?, h.quiet.launchOf]
  | slice tc o => exact h.comRead _ _
  | main x =>
    rw [Machine.readTarget, Machine.readTarget]
    by_cases hk : x.kind = 0
    · rw [if_pos hk, if_pos hk, h.comRead]
    · have hnone : ∀ u : State, Homed u c (.main x) → (u.core c).l1.find? (fun e => e.line == x.pa / 256) = none := fun u hu =>
        List.find?_eq_none.2 fun y hy hl => hu hk y hy (beq_iff_eq.1 hl)
      rw [if_neg hk, if_neg hk, relRead, relRead, hnone t ht, hnone s hs, h.quiet.ownStores, State.readMem, State.readMem, h.quiet.mem]

theorem mem_l1_freshLine {x : Target} {y : CacheLine} (hy : y ∈ ((s.freshLine c x).core c).l1) :
    y ∈ (s.core c).l1 ∧ (x.kind ≠ 0 → y.line ≠ x.key / 256) := by
  unfold State.freshLine at hy
  split at hy
  next h => exact ⟨hy, fun hk => absurd h hk⟩
  next h =>
    rw [State.core_updCore] at hy
    obtain ⟨hmem, hne⟩ := List.mem_filter.1 hy
    exact ⟨hmem, fun _ => by simpa using hne⟩

theorem Homed.freshLine (s : State) (c : Nat) (x : Target) : Homed (s.freshLine c x) c x := fun hk _ hy => (mem_l1_freshLine hy).2 hk

theorem Homed.freshLines (s : State) (c : Nat) {rs : List Acc} {r : Acc} (hr : r ∈ rs) :
    Homed (rs.foldl (fun s r => s.freshLine c (accTarget r)) s) c (accTarget r) := by
  have hkeep : ∀ (rs : List Acc) (s : State) (y : CacheLine), y ∈ ((rs.foldl (fun s r => s.freshLine c (accTarget r)) s).core c).l1 →
      y ∈ (s.core c).l1 := by
    intro rs
    induction rs with
    | nil => exact fun s y hy => hy
    | cons r rs ih => exact fun s y hy => (mem_l1_freshLine (ih _ y hy)).1
  induction rs generalizing s with
  | nil => cases hr
  | cons q rs ih =>
    rcases List.mem_cons.1 hr with rfl | hr
    · exact fun hk y hy => (mem_l1_freshLine (hkeep rs _ y hy)).2 hk
    · exact ih _ hr

end

/-! ### The event -/

section
variable {s : State} {c sl tid : Nat} {b : Block} {th : Thread} {i : Instr} {f : WaitF} {cond : Word → Word → Bool} {rs : List Acc}

/-- The threads that a re-evaluation looks at: those of a quadrant at one wait. -/
def waitMates (b : Block) (th : Thread) (i : Instr) : List Thread :=
  b.threads.filter (fun o => !o.exited && o.waitsAt i && o.pc == th.pc && o.quad == th.quad)

/-- Their site. -/
def waitSite (s : State) (c sl : Nat) (b : Block) (th : Thread) (i : Instr) : Site :=
  ⟨⟨c, th.quad, sl, th.pc, (waitMates b th i).map (fun o => o.ltid)⟩, b, s.treeOf sl b, waitMates b th i, waitMates b th i⟩

/-- The words that they find, each read at its home (R271). -/
def waitValue (s : State) (e : Site) (rs : List Acc) (o : Thread) : Word :=
  BitVec.ofNat 64 (valueOf (rs.map (fun (r : Acc) => (r.1.ltid, accValue (s.freshLine e.cur.core (accTarget r)) e r 8))) o.ltid)

theorem Quiet.touchWaits (s : State) (c sl : Nat) (rs : List Acc) : Quiet s (s.touchWaits c sl rs) := by
  unfold State.touchWaits
  split
  · exact Quiet.refl s
  · refine Quiet.foldl _ (fun s r => ?_) rs s
    split
    · exact Quiet.refl s
    · split
      · exact Quiet.foldl _ (fun s l => Quiet.touchOn _ _ _ _ _) _ s
      · exact Quiet.refl s

theorem Ignores.touchWaits {β : Type} {π : State → β} (h : Ignores π) (s : State) (c sl : Nat) (rs : List Acc) :
    π (s.touchWaits c sl rs) = π s := by
  unfold State.touchWaits
  split
  · rfl
  · refine foldl_keeps π (fun s r => ?_) rs s
    split
    · rfl
    · split
      · exact foldl_keeps π (fun s l => h.touchOn s _ _ _ _) _ s
      · rfl

theorem Thread.wait_of_waitsAt {o : Thread} (h : o.waitsAt i = true) : ∃ a b, o.wait = .mem i a b := by
  unfold Thread.waitsAt at h
  split at h
  next j a b hw => exact ⟨a, b, by rw [hw, beq_iff_eq.1 h]⟩
  next => cases h

/-- A waiting thread's operands are those that it read at issue (R336). -/
theorem waitArgs_of_waitsAt {o : Thread} (h : o.waitsAt i = true) (s t : State) (e : Site) : waitArgs t e f o = waitArgs s e f o := by
  obtain ⟨x, y, hw⟩ := Thread.wait_of_waitsAt h
  rw [waitArgs, waitArgs, hw]

theorem waitsAt_of_mate {o : Thread} (h : o ∈ waitMates b th i) : o ∈ b.threads ∧ o.waitsAt i = true := by
  obtain ⟨hmem, hp⟩ := List.mem_filter.1 h
  simp only [Bool.and_eq_true] at hp
  exact ⟨hmem, hp.1.1.2⟩

variable (hb : s.block? c sl = some b) (hx : s.isExact sl b = false)
include hb hx

theorem exec_reevaluation (hstall : s.coreStalled c = false) (hheld : s.waitHeld c sl tid = false)
    (hserved : (s.core c).chunk.served ≠ some sl) (hth : b.thread? tid = some th) (hat : th.waitsAt i = true)
    (hw : waitParts i = some (f, cond)) (hok : checkGroup s (waitSite s c sl b th i) (waitReq s (waitSite s c sl b th i) f) = .ok rs) :
    let e := waitSite s c sl b th i
    let s1 := s.touchWaits c sl rs
    Completes (.waitReevaluation c sl tid) s (if (waitMates b th i).any (fun o => cond (waitValue s1 e rs o) (waitArgs s1 e f o).2)
      then ((s1.dirty c).evalWaits e i f cond rs).1 else s1) := by
  intro e s1
  have q : Quiet s s1 := Quiet.touchWaits s c sl rs
  obtain ⟨x, y, hwait⟩ := Thread.wait_of_waitsAt hat
  have hserved' : ((s1.core c).chunk.served == some sl) = false := by
    rw [(Ignores.served c).touchWaits]
    exact beq_eq_false_iff_ne.2 hserved
  have hx' : s1.isExact sl b = false := by rw [State.isExact, q.launchOf]; exact hx
  have hexec : exec (.waitReevaluation c sl tid) s = execWaitReevaluation c sl tid s := rfl
  rw [Completes, hexec, execWaitReevaluation, hb]
  dsimp only
  rw [hx, hstall, hheld, Bool.or_self, Bool.or_self, if_neg Bool.false_ne_true]
  refine congrArg Host.Outcome.next ?_
  unfold State.reevaluate
  rw [hb]
  dsimp only
  rw [hth]
  dsimp only
  rw [hwait]
  dsimp only
  rw [hw]
  dsimp only
  delta waitReq waitSite waitMates at hok
  rw [hok]
  dsimp only
  rw [hserved', if_neg Bool.false_ne_true]
  refine if_congr Iff.rfl ?_ rfl
  rw [hx', if_neg Bool.false_ne_true]
  rfl

omit hb hx in
/-- The evaluation finds each word as the look did. -/
theorem waitWord_evaluated (s : State) (e : Site) (rs : List Acc) (o : Thread) :
    waitWord (rs.foldl (fun s r => s.freshLine e.cur.core (accTarget r)) (s.dirty e.cur.core)) e rs o = waitValue s e rs o := by
  rw [waitWord, waitValue, valueOf_map]
  cases hf : rs.find? (fun (r : Acc) => r.1.ltid == o.ltid) with
  | none => rfl
  | some r =>
    have hr : r ∈ rs := List.mem_of_find?_eq_some hf
    have hfresh : Steady e.cur.core e.cur.slot s (s.freshLine e.cur.core (accTarget r)) := Steady.freshLine _ _ _
    have hall : Steady e.cur.core e.cur.slot s
        (rs.foldl (fun s r => s.freshLine e.cur.core (accTarget r)) (s.dirty e.cur.core)) :=
      (Steady.dirty s _).trans (Steady.foldl (fun s _ => Steady.freshLine s _ _) rs _)
    have h := (hfresh.symm.trans hall).readTarget (Homed.freshLine s _ _) (Homed.freshLines _ _ hr) r.1.ltid 8
    exact congrArg (fun bs => BitVec.ofNat 64 (leNat bs)) h

omit hb hx in
/-- Up to the threads' going on the evaluation leaves traces only. -/
theorem Traces.evaluated {e : Site} {s : State} (hn : e.names s) (hr : (s.launchOf e.b).race = false)
    (hone : ∀ r ∈ rs, r.2.2 ≠ []) : Traces (fun _ => False) s (s.evaluated e f cond rs) := by
  have h := Traces.noteLoads s e (waitsDone s e f cond rs) 8 1 false hn hr fun r hr => hone r (List.mem_filter.1 hr).1
  have h' : Traces (fun _ => False) s (s.noteLoads e (waitsDone s e f cond rs) 8 1 false) := ⟨fun _ h => h.elim, h.quiet⟩
  unfold State.evaluated
  dsimp only
  split
  · exact h'
  · exact h'.trans (Steady.waitAcquire (c := e.cur.core) (sl := e.cur.slot) _ _ _).quiet.traces

omit hx in
/-- The threads after a re-evaluation that at least one of them has passed. -/
theorem reevaluated_thread (hr : (s.launchOf b).race = false) (hn : (b.threads.map (fun th => th.ltid)).Nodup)
    (hok : checkGroup s (waitSite s c sl b th i) (waitReq s (waitSite s c sl b th i) f) = .ok rs) {o : Thread}
    (ho : o ∈ waitMates b th i) :
    let e := waitSite s c sl b th i
    let s1 := s.touchWaits c sl rs
    (((s1.dirty c).evalWaits e i f cond rs).1.thread? c sl o.ltid) = some (waitGoes i f
      (cond (waitValue s1 e rs o) (waitArgs s e f o).2) (waitValue s1 e rs o) (waitArgs s e f o) o) := by
  intro e s1
  obtain ⟨hmem, hat⟩ := waitsAt_of_mate ho
  obtain ⟨u, hu⟩ : ∃ u, u = rs.foldl (fun s r => s.freshLine e.cur.core (accTarget r)) (s1.dirty c) := ⟨_, rfl⟩
  have hst : Steady c sl s1 u := hu ▸ (Steady.dirty s1 c).trans (Steady.foldl (fun s _ => Steady.freshLine s _ _) rs _)
  have q : Quiet s u := (Quiet.touchWaits s c sl rs).trans hst.quiet
  have ht : Traces (fun _ => False) u (u.evaluated e f cond rs) := Traces.evaluated ((q.block? c sl).trans hb)
    (by rw [q.launchOf]; exact hr) fun r hr' => by
      obtain ⟨_, _, x, _, rfl⟩ := (checkGroup_one hok).1 hr'
      exact List.cons_ne_nil _ _
  have hrace : ((u.evaluated e f cond rs).launchOf e.b).race = false := by rw [ht.launchOf, q.launchOf]; exact hr
  have heval : ((s1.dirty c).evalWaits e i f cond rs).1
      = (u.evaluated e f cond rs).finish e (waitStep u e i f cond rs (u.evaluated e f cond rs) false) := by
    rw [evalWaits_eq, ← hrace, hu]
  have hthread : (u.evaluated e f cond rs).thread? c sl o.ltid = some o := by
    rw [State.thread?, ht.block?, q.block?, hb]
    exact Block.thread?_of_mem hn hmem
  have hin : ((waitMates b th i).map (fun m => m.ltid)).contains o.ltid = true :=
    List.contains_iff_mem.2 (List.mem_map.2 ⟨o, ho, rfl⟩)
  have hgo := State.finish_goes (u.evaluated e f cond rs) e _ (waitStep_ltid (s := u) (t := u.evaluated e f cond rs) (e := e) (i := i)
    (f := f) (cond := cond) (rs := rs)) o.ltid
  rw [← heval] at hgo
  refine hgo.trans ?_
  have hmates : (e.mem.map (fun m => m.ltid)).contains o.ltid = true := hin
  have hact : e.active o = true := hin
  have hth' : (u.evaluated e f cond rs).thread? e.cur.core e.cur.slot o.ltid = some o := hthread
  have hword : waitWord u e rs o = waitValue s1 e rs o := hu ▸ waitWord_evaluated s1 e rs o
  rw [hth', Option.map_some, if_pos hmates, if_pos hact, waitStep_eq o (waitArgs_of_waitsAt hat _ _ _), hword,
    waitArgs_of_waitsAt hat s u e]

end

/-- Settles O34: the issue by what an evaluation does in its noted state, the event by what the look finds. -/
theorem waitWords : Obligations.WaitWords := by
  refine ⟨fun i f cond hw s e rs h hx _ hp => ⟨fun hr => (Traces.waitNoted hp.1 (State.site?_names h.1) hr).onlyTraces,
    wait_at_issue hw h hx hp⟩, fun c sl tid s b th i f cond hb hx hstall hheld hserved hth hat hw => ?_⟩
  intro ms e rs hok s1 vs val holds
  have hex := exec_reevaluation hb hx hstall hheld hserved hth hat hw hok
  have hargs : ∀ o ∈ waitMates b th i, waitArgs (s.touchWaits c sl rs) (waitSite s c sl b th i) f o
      = waitArgs s (waitSite s c sl b th i) f o := fun o ho => waitArgs_of_waitsAt (waitsAt_of_mate ho).2 _ _ _
  refine ⟨(Quiet.touchWaits s c sl rs).traces.onlyTraces, fun hnone => ?_, fun ⟨o, ho, hh⟩ => ⟨_, ?_, rfl, fun hr hn o ho => ?_⟩⟩
  · refine Eq.trans hex (congrArg Host.Outcome.next (if_neg ?_))
    refine ne_true_of_eq_false (List.any_eq_false.2 fun o ho => ne_true_of_eq_false ?_)
    rw [hargs o ho]
    exact hnone o ho
  · refine Eq.trans hex (congrArg Host.Outcome.next (if_pos (List.any_eq_true.2 ⟨o, ho, ?_⟩)))
    rw [hargs o ho]
    exact hh
  · exact reevaluated_thread hb hr hn hok ho

end Sys2Proof.Machine
end

section
/-! Refutation of O27: an SC of the handler can change a byte that it does not write, as the handler reads it. It is the state of the
refutation of O26, whose table of blocks does not stand in the order of its slots (R120, R142): an SC changes its thread, with or without
a reservation, and so puts the handler's block before the served one. -/

namespace Sys2Proof.Machine

/-- What the handler reads at 2^56 after a word in `reordering`. -/
def readsAfter (i : Instr) : List Byte :=
  match exec i reordering with
  | .next t => t.handlerReads
  | _ => []

theorem handlerReads_of_completes {i : Instr} {t : State} (h : Completes i reordering t) : t.handlerReads = readsAfter i := by
  rw [readsAfter, show exec i reordering = .next t from h]

/-- The access of the handler's one thread to the address in v10. -/
def reorderingAccess (need : Need) (use : Use) : Acc :=
  (reorderingBlock.threads.headD (handlerThread 0), [⟨0x10100, 8, 8, need, use⟩], [.main reorderingXlat])

/-- The byte at 2^56 stands outside the entry in use, at 0. -/
theorem leafFree_reorderingAccess (need : Need) (use : Use) : LeafFree [reorderingAccess need use] (2 ^ 56) := by
  intro r hr x hx
  cases List.mem_singleton.1 hr
  cases List.mem_singleton.1 hx
  exact Or.inr (by decide)

/-- SC v9, [v10], v11 of 64 bits. -/
def reorderingSc : ScF := ⟨.always, true, 0, .lane 9, .lane 10, .lane 11⟩

theorem runs_reordering_sc : Runs (.sc reorderingSc) reordering reorderingSite := ⟨by decide, by decide, by decide, by decide, by decide⟩

theorem passes_reordering_sc : Passes reordering reorderingSite
    (fun th => [⟨reorderingSite.read reordering th reorderingSc.a, 8, 8, .write, .committed⟩]) [reorderingAccess .write .committed] :=
  ⟨rfl, by decide⟩

/-- After the SC the handler reads memory, no longer what the served block has written in place. -/
theorem readsAfter_sc : readsAfter (.sc reorderingSc) = [0] := by decide

/-- Refutes O27: in `reordering` an SC of the handler at 0x10100 changes the byte that it reads at 2^56. -/
theorem not_storeConditional : ¬ Obligations.StoreConditional := by
  intro hsc
  obtain ⟨t, -, hdone, -, -, hframe, -⟩ := hsc reorderingSc reordering reorderingSite [reorderingAccess .write .committed]
    runs_reordering_sc (by decide) (by decide) passes_reordering_sc (by decide) (by decide)
  have hbyte : t.handlerReads = reordering.handlerReads := hframe (2 ^ 56) (leafFree_reorderingAccess _ _) (by decide)
  rw [handlerReads_of_completes hdone, readsAfter_sc, reordering_before] at hbyte
  exact absurd hbyte (by decide)

end Sys2Proof.Machine
end

section
/-! Refutation of O28: an ATOM of the handler on COMMITTED memory alone can change a byte that it does not name, as the handler reads it,
in the state of the refutation of O26, where the served block's writes in place give way once the handler's block has changed. -/

namespace Sys2Proof.Machine

/-- ATOM v9, [v10], v11 of 64 bits: an addition with a reply. -/
def reorderingAtom : AtomF := ⟨.always, true, 0, .lane 9, .lane 10, .lane 11, .lane 0⟩

theorem runs_reordering_atom : Runs (.atom reorderingAtom) reordering reorderingSite :=
  ⟨by decide, by decide, by decide, by decide, by decide⟩

theorem passes_reordering_atom : Passes reordering reorderingSite
    (fun th => [⟨reorderingSite.read reordering th reorderingAtom.a, 8, 8, .atomic, .plain⟩]) [reorderingAccess .atomic .plain] :=
  ⟨rfl, by decide⟩

theorem atomNow_reordering : AtomNow reordering reorderingSite reorderingAtom [reorderingAccess .atomic .plain] :=
  ⟨fun _ => by decide, by decide⟩

/-- After the ATOM the handler reads memory, no longer what the served block has written in place. -/
theorem readsAfter_atom : readsAfter (.atom reorderingAtom) = [0] := by decide

/-- Refutes O28: in `reordering` an ATOM of the handler at 0x10100 changes the byte that it reads at 2^56. -/
theorem not_atomWords : ¬ Obligations.AtomWords := by
  intro hatom
  obtain ⟨⟨-, t, -, hdone, -, -, -, hview⟩, -⟩ := hatom reorderingAtom reordering reorderingSite [reorderingAccess .atomic .plain]
    runs_reordering_atom passes_reordering_atom atomNow_reordering
  obtain ⟨-, -, hframe⟩ := hview (by decide) (by decide)
  have hbyte : t.handlerReads = reordering.handlerReads := hframe (2 ^ 56) (leafFree_reorderingAccess _ _) (by decide)
  rw [handlerReads_of_completes hdone, readsAfter_atom, reordering_before] at hbyte
  exact absurd hbyte (by decide)

end Sys2Proof.Machine
end

section
/-! Proof of O46: a squash puts a core back to the start of its chunk (R137). -/

namespace Sys2Proof.Machine

/-! ### What the steps of a squash leave of a core -/

/-- A core apart from its engines, its counters, the start of its chunk and its neighbour queues. -/
def CoreSt.lasting (k : CoreSt) : CoreSt :=
  { k with eng := Engines.new, pmc := [], chunk := { k.chunk with snap := none }, arch := { k.arch with nbr := [] } }

theorem CoreSt.parts_of_lasting {k k' : CoreSt} (h : k.lasting = k'.lasting) : k.chunk.ovl = k'.chunk.ovl
    ∧ k.chunk.held = k'.chunk.held ∧ k.squashes = k'.squashes ∧ k.arch.cause = k'.arch.cause ∧ k.arch.epc = k'.arch.epc
    ∧ k.arch.serving = k'.arch.serving ∧ k.arch.blocks = k'.arch.blocks :=
  ⟨(congrArg (fun k : CoreSt => k.chunk.ovl) h :), (congrArg (fun k : CoreSt => k.chunk.held) h :), (congrArg CoreSt.squashes h :),
    (congrArg (fun k : CoreSt => k.arch.cause) h :), (congrArg (fun k : CoreSt => k.arch.epc) h :),
    (congrArg (fun k : CoreSt => k.arch.serving) h :), (congrArg (fun k : CoreSt => k.arch.blocks) h :)⟩

/-- The last steps of a squash of core `d`: what has not left the core is withdrawn, and the squash is counted (R137, R273, R337). -/
def State.withdrawn (s : State) (d : Nat) : State :=
  let s := (s.dropUnleft d).unstamp d (s.coreCtx d)
  let s := s.coreNums.foldl (fun s c' => s.updBoth c' (fun a => { a with
    nbr := Tab.mapV a.nbr (fun _ q => q.filter (fun b => b.src != some d)) })) s
  s.count d 4 1

section
variable (s : State) (c d : Nat)

theorem lasting_setCore {k : CoreSt} (h : k.lasting = (s.core d).lasting) :
    ((s.setCore d k).core c).lasting = (s.core c).lasting := by
  by_cases hc : c = d
  · rw [hc, State.core_setCore, h]
  · rw [State.core_setCore_ne _ _ hc]

theorem lasting_count (code n : Nat) : ((s.count d code n).core c).lasting = (s.core c).lasting := by
  unfold State.count
  dsimp only
  split
  · exact lasting_setCore s c d rfl
  · rfl

theorem lasting_dropUnleft : ((s.dropUnleft d).core c).lasting = (s.core c).lasting := lasting_setCore s c d rfl

theorem lasting_withdrawBeats : ((s.coreNums.foldl (fun s c' => s.updBoth c' (fun a => { a with
    nbr := Tab.mapV a.nbr (fun _ q => q.filter (fun b => b.src != some d)) })) s).core c).lasting = (s.core c).lasting :=
  foldl_keeps (fun s : State => (s.core c).lasting) (fun s c' => by exact lasting_setCore s c c' rfl) _ s

theorem withdrawBeats_mem : (s.coreNums.foldl (fun s c' => s.updBoth c' (fun a => { a with
    nbr := Tab.mapV a.nbr (fun _ q => q.filter (fun b => b.src != some d)) })) s).mem = s.mem :=
  foldl_keeps State.mem (fun _ _ => by rfl) _ s

/-- They leave memory, and a core but for its engines and queues. -/
theorem withdrawn_keeps : ((s.withdrawn d).core c).lasting = (s.core c).lasting ∧ (s.withdrawn d).mem = s.mem := by
  unfold State.withdrawn
  dsimp only
  rw [lasting_count, (Quiet.count _ _ _ _).mem, lasting_withdrawBeats, withdrawBeats_mem]
  exact ⟨lasting_dropUnleft s c d, rfl⟩

end

/-! ### The squash -/

/-- The core `k` after the squash of its chunk, its blocks and fault registers restored as `a`. -/
def CoreSt.squashed (k : CoreSt) (a : CoreArch) : CoreSt := { k with
  arch := a, chunk := { Chunk.new with prio := k.chunk.prio }
  l1c := k.l1c.filter (fun l => !k.chunk.ovl.any (fun e => e.1 / 256 == l)), squashes := k.squashes + 1
  again := min 8 (k.again + 1), prioReq := k.prioReq || 8 ≤ k.again + 1 }

/-- The reservations of a core's blocks end but under EXACT (R137). -/
def State.endsResv (s : State) (a : CoreArch) : CoreArch := { a with blocks := Tab.mapV a.blocks (fun sl b =>
  if s.isExact sl b then b else { b with threads := b.threads.map (fun th => { th with resv := none }) }) }

/-- The core asks for priority once it has been squashed often enough (R46). -/
def State.asks (s : State) (c : Nat) : State :=
  if (s.core c).prioReq && !s.priority.contains c then { s with priority := s.priority ++ [c] } else s

/-- A squash of a chunk whose shadow bank and undo log are good. -/
theorem squash_of_good {s : State} {c : Nat} (hb : (s.core c).chunk.bad = none) :
    let u := s.updBoth c CoreArch.flipsEnd
    s.squash c = ((u.setCore c ((u.core c).squashed (u.endsResv (restore u (u.core c))))).asks c).withdrawn c := by
  intro u
  have hbad : (u.core c).chunk.bad = none := (congrArg (fun k : CoreSt => k.chunk.bad) (State.core_updCore ..)).trans hb
  unfold State.squash
  dsimp only
  split
  next => rfl
  next sub hsub => exact absurd (hbad.symm.trans hsub) (by simp)

/-- The core after it, but for its engines and queues, and memory. -/
theorem squash_keeps {s : State} {c : Nat} (hb : (s.core c).chunk.bad = none) :
    let u := s.updBoth c CoreArch.flipsEnd
    ((s.squash c).core c).lasting = ((u.core c).squashed (u.endsResv (restore u (u.core c)))).lasting
      ∧ (s.squash c).mem = s.mem := by
  intro u
  obtain ⟨v, hv⟩ : ∃ v, v = u.setCore c ((u.core c).squashed (u.endsResv (restore u (u.core c)))) := ⟨_, rfl⟩
  have hasks : (v.asks c).cores = v.cores ∧ (v.asks c).mem = v.mem := by
    unfold State.asks
    split <;> exact ⟨rfl, rfl⟩
  obtain ⟨hcores, hmem⟩ := hasks
  obtain ⟨hcore, hkeep⟩ := withdrawn_keeps (v.asks c) c c
  rw [squash_of_good hb, ← hv, hcore, hkeep, hmem, State.core, hcores, hv]
  exact ⟨congrArg CoreSt.lasting (State.core_setCore ..), rfl⟩

/-! ### What is restored -/

/-- A listed value stands in the table. -/
theorem Tab.mem_of_find? {α : Type} {t : Tab α} {k : Nat} {v : α} (h : Tab.find? t k = some v) : (k, v) ∈ t := by
  induction t with
  | nil => cases h
  | cons e t ih =>
    rw [Tab.find?] at h
    split at h
    next hk => cases h; rw [← hk]; exact List.mem_cons_self ..
    next => exact List.mem_cons_of_mem _ (ih h)

/-- No block of a core's state is under EXACT. -/
def State.NoExact (s : State) (a : CoreArch) : Prop := ∀ e ∈ a.blocks, s.isExact e.1 e.2 = false

theorem State.NoExact.flipsEnd {s : State} {a : CoreArch} (h : s.NoExact a) : s.NoExact a.flipsEnd := by
  intro e he
  obtain ⟨x, hx, rfl⟩ := List.mem_map.1 he
  exact h x hx

/-- Without blocks under EXACT a squash takes up the start of the chunk (R137). -/
theorem restore_of_snap {s : State} {k : CoreSt} {a : CoreArch} (hs : k.chunk.snap = some a) (hk : s.NoExact k.arch)
    (ha : s.NoExact a) : restore s k = a := by
  have hex : k.arch.blocks.filter (fun e => s.isExact e.1 e.2 && some e.1 != k.chunk.served) = [] :=
    List.filter_eq_nil_iff.2 fun e he => by rw [hk e he]; exact Bool.false_ne_true
  have hold : a.blocks.filter (fun e => !(s.isExact e.1 e.2 && some e.1 != k.chunk.served)) = a.blocks :=
    List.filter_eq_self.2 fun e he => by rw [ha e he]; rfl
  rw [restore, hs]
  dsimp only
  rw [hex, hold, List.foldl_nil]

/-- A block that is not under EXACT keeps all but its reservations (R137). -/
theorem State.find?_endsResv {s : State} {a : CoreArch} (ha : s.NoExact a) {sl : Nat} {b : Block}
    (hb : Tab.find? a.blocks sl = some b) : Tab.find? (s.endsResv a).blocks sl
      = some { b with threads := b.threads.map (fun th => { th with resv := none }) } := by
  rw [State.endsResv, Tab.find?_mapV, hb, Option.map_some, if_neg (ne_true_of_eq_false (ha _ (Tab.mem_of_find? hb)))]

/-- Settles O46: without blocks under EXACT the core is as the start of its chunk records it, reservations apart. -/
theorem squashRestores : Obligations.SquashRestores := by
  intro c s a hsnap hbad hx ha
  obtain ⟨u, hu⟩ : ∃ u, u = s.updBoth c CoreArch.flipsEnd := ⟨_, rfl⟩
  have hk : u.core c = { s.core c with
      arch := (s.core c).arch.flipsEnd, chunk := { (s.core c).chunk with snap := some a.flipsEnd } } := by
    rw [hu, State.updBoth, State.core_updCore, hsnap]
    rfl
  have hexact : ∀ {a : CoreArch}, s.NoExact a → u.NoExact a.flipsEnd := fun h => by
    rw [hu]; exact State.NoExact.flipsEnd (s := s.updBoth c CoreArch.flipsEnd) h
  have hrestore : restore u (u.core c) = a.flipsEnd :=
    restore_of_snap (by rw [hk]) (by rw [hk]; exact hexact hx) (hexact ha)
  obtain ⟨hcore, hmem⟩ := squash_keeps (s := s) hbad
  rw [← hu, hrestore, hk] at hcore
  obtain ⟨hovl, hheld, hsquashes, hcause, hepc, hserving, hblocks⟩ := CoreSt.parts_of_lasting hcore
  refine ⟨hovl, hheld, hsquashes, hcause, hepc, hserving,
    fun sl b hb => ⟨{ b with
      lehrs := Tab.mapV b.lehrs (fun _ r => { r with busy := false })
      threads := b.threads.map (fun th => { th with resv := none }) }, ?_, rfl, rfl, rfl⟩, hmem⟩
  have hflip : Tab.find? a.flipsEnd.blocks sl
      = some { b with lehrs := Tab.mapV b.lehrs (fun _ r => { r with busy := false }) } := by
    rw [CoreArch.flipsEnd, Tab.find?_mapV, hb]; rfl
  rw [State.block?, CoreArch.block?, hblocks]
  exact State.find?_endsResv (hexact ha) hflip

end Sys2Proof.Machine
end

section
/-! Rules for the words that order accesses: when a word at a level acts, and what the performing of released accesses leaves alone (R130,
R131, R133, R140, R145). -/

namespace Sys2Proof.Machine

/-! ### When a word at a level acts -/

section
variable {s : State} {e e' : Site} {l : Nat}

/-- A word before which its chunk need not end acts at once (R133). -/
theorem closeBefore_of_fresh {c : Nat} (h : (s.core c).chunk.fresh = true) (act : State → State) : s.closeBefore c act = act s := by
  rw [State.closeBefore, h, if_pos rfl]

/-- A word that can act at a level acts, for the members that can (R133, R140). -/
theorem atHigh_of_actsAt (h : ActsAt s e l e') (body : Site → State → State) : s.atHigh e l body = body e' s := by
  rcases h with ⟨hlow, rfl⟩ | ⟨hhigh, hx, hfresh, rfl⟩ | ⟨hhigh, hx, ⟨th, hth, hacted⟩, rfl⟩
  · rw [State.atHigh, if_pos hlow]
  · rw [State.atHigh, if_neg (Nat.not_lt.2 hhigh), if_neg (ne_true_of_eq_false hx), closeBefore_of_fresh hfresh]
  · rw [State.atHigh, if_neg (Nat.not_lt.2 hhigh), if_pos hx, State.atPhase, if_pos hx,
      if_pos (List.any_eq_true.2 ⟨th, hth, hacted⟩)]

/-- A word that waits for no released access acts (R130). -/
theorem whenLanded_of_free (h : (e.t.bind l).code < 4 ∨ landsBlocked s (fun q => q.core == e.cur.core && !q.eff.isStream) = false)
    (act : State → State) : s.whenLanded e l act = act s := by
  refine if_neg fun hc => ?_
  obtain ⟨hhigh, hblocked⟩ := Bool.and_eq_true_iff.1 hc
  rcases h with h | h
  · exact absurd (of_decide_eq_true hhigh) (Nat.not_le.2 h)
  · rw [h] at hblocked; cases hblocked

/-- It waits while one of them stands behind a store that an EXACT block holds (R130, R131). -/
theorem whenLanded_of_blocked (hl : 4 ≤ (e.t.bind l).code)
    (h : landsBlocked s (fun q => q.core == e.cur.core && !q.eff.isStream) = true) (act : State → State) :
    s.whenLanded e l act = s.hold := if_pos (Bool.and_eq_true_iff.2 ⟨decide_eq_true hl, h⟩)

end

/-! ### Performed accesses -/

/-- From `s` to `t` the blocks and fault registers of every core, what the chunks hold and the launches stay as they are. -/
structure KeepsCores (s t : State) : Prop where
  arch : ∀ c, (t.core c).arch = (s.core c).arch
  launches : t.launches = s.launches

namespace KeepsCores
variable {s t u : State}

theorem refl (s : State) : KeepsCores s s := ⟨fun _ => rfl, rfl⟩

theorem trans (h : KeepsCores s t) (g : KeepsCores t u) : KeepsCores s u :=
  ⟨fun c => (g.arch c).trans (h.arch c), g.launches.trans h.launches⟩

theorem of_quiet (h : Quiet s t) : KeepsCores s t := ⟨h.arch, h.launches⟩

theorem of_cores (hc : t.cores = s.cores) (hl : t.launches = s.launches) : KeepsCores s t :=
  ⟨fun c => by rw [State.core, hc]; rfl, hl⟩

theorem updCore (s : State) (c : Nat) {f : CoreSt → CoreSt} (hf : ∀ k, (f k).arch = k.arch) : KeepsCores s (s.updCore c f) := by
  refine ⟨fun d => ?_, rfl⟩
  by_cases hd : d = c
  · rw [hd, State.core_updCore, hf]
  · rw [State.core_updCore_ne _ _ hd]

theorem foldl {α : Type} {f : State → α → State} (hf : ∀ s a, KeepsCores s (f s a)) (l : List α) (s : State) :
    KeepsCores s (l.foldl f s) := by
  induction l generalizing s with
  | nil => exact refl s
  | cons a l ih => exact (hf s a).trans (ih _)

theorem homeWrite (s : State) (c k : Nat) (bs : List Byte) : KeepsCores s (s.homeWrite c k bs) := by
  refine trans (t := s.writeMem k bs) (of_cores rfl rfl) (updCore _ c ?_)
  exact fun _ => rfl

theorem perform (s : State) (c : Nat) (h : Held) : KeepsCores s (s.perform c h) := by
  unfold State.perform
  split
  · exact homeWrite ..
  · exact homeWrite ..
  · exact refl s

theorem keepWords (s : State) (c x : Nat) (ks : List Nat) (p : Cmd → Bool) : KeepsCores s (s.keepWords c x ks p) := by
  unfold State.keepWords
  dsimp only
  refine ⟨fun d => ?_, rfl⟩
  rw [State.core_updCtx]
  by_cases hd : d = c
  · rw [hd, State.core_updCore]
  · rw [State.core_updCore_ne _ _ hd]

theorem showClk (s : State) (c x : Nat) (ks : List Nat) : KeepsCores s (s.showClk c x ks) := by
  unfold State.showClk
  split
  · exact refl s
  · exact of_cores rfl rfl

theorem land (s : State) (f : Flight) : KeepsCores s (s.land f) :=
  ((keepWords ..).trans (perform ..)).trans (showClk ..)

theorem landWhere (s : State) (p : Flight → Bool) : KeepsCores s (s.landWhere p) := by
  refine trans ?_ (foldl land ((s.flights.filter (fun f => p f && !flightBlocked s f)).insertionSort
    (fun a b => a.eff.ord ≤ b.eff.ord)) _)
  exact of_cores rfl rfl

theorem dropL1 (s : State) (c : Nat) (all : Bool) : KeepsCores s (s.dropL1 c all) :=
  updCore s c (by intro; rfl)

theorem block? (h : KeepsCores s t) (c sl : Nat) : t.block? c sl = s.block? c sl := by rw [State.block?, State.block?, h.arch]

theorem thread? (h : KeepsCores s t) (c sl l : Nat) : t.thread? c sl l = s.thread? c sl l := by
  rw [State.thread?, State.thread?, h.block?]

theorem launchOf (h : KeepsCores s t) (b : Block) : t.launchOf b = s.launchOf b := by
  rw [State.launchOf, State.launchOf, State.launch?, State.launch?, h.launches]

theorem goes {e : Site} {f : Thread → Thread} (h : KeepsCores s t) (g : GroupGoes t u e f) : GroupGoes s u e f := fun l => by
  rw [g l, h.thread?]

end KeepsCores

section
variable (s : State)

theorem land_flights (f : Flight) : (s.land f).flights = s.flights := by
  have hperform : ∀ t : State, (t.perform f.core f.eff).flights = t.flights := fun t => by
    unfold State.perform
    split <;> rfl
  unfold State.land State.showClk
  dsimp only
  split
  · exact hperform _
  · exact hperform _

/-- The accesses that are selected and not blocked are in flight no more (R130). -/
theorem landWhere_flights (p : Flight → Bool) :
    (s.landWhere p).flights = s.flights.filter (fun f => !(p f && !flightBlocked s f)) :=
  (foldl_keeps State.flights land_flights _ _).trans rfl

/-- A change of a group's threads leaves caches and what is in flight. -/
theorem l1_finish (e : Site) (f : Thread → Thread) (c : Nat) : ((s.finish e f).core c).l1 = (s.core c).l1 := by
  rw [State.finish, State.mapTids, State.updBlock]
  by_cases hc : c = e.cur.core
  · rw [hc, State.core_updArch]
  · rw [State.core_updArch_ne _ _ hc]

theorem l1_dropL1 (c : Nat) (all : Bool) :
    ((s.dropL1 c all).core c).l1 = if all then [] else (s.core c).l1.filter (fun e => e.stream) := by
  rw [State.dropL1, State.core_updCore]

/-- The clocks of a fence stay in a launch that is not checked for races (R162). -/
theorem fenceClocks_off {e : Site} (hr : (s.launchOf e.b).race = false) (l : Nat) (acq rel : Bool) :
    s.fenceClocks e l acq rel = s := by
  rw [State.fenceClocks, hr]
  rfl

end

end Sys2Proof.Machine
end

section
/-! Proof of O29: FENCE releases and acquires, PREF and CCTL change no register (R131, R145, R146, R254, R255, R259). -/

namespace Sys2Proof.Machine

/-! ### FENCE -/

section
variable {f : FenceF} {s : State} {e : Site}

theorem exec_fence_of_runs (h : Runs (.fence f) s e) : exec (.fence f) s = .next (s.atHigh e f.lvl.toNat (fun e s =>
    s.whenLanded e f.lvl.toNat (fun s => ((s.acts e).fence e f.lvl.toNat f.acq f.rel).pass e))) := by
  have hx : exec (.fence f) s = execFence f s := rfl
  rw [hx, execFence, issue_of_runs _ h]

/-- A fence that need not wait (R131). -/
theorem exec_fence_of_acts (h : Runs (.fence f) s e) (ha : ActsAt s e f.lvl.toNat e)
    (hl : (e.t.bind f.lvl.toNat).code < 4 ∨ landsBlocked s (fun q => q.core == e.cur.core && !q.eff.isStream) = false) :
    Completes (.fence f) s (((s.acts e).fence e f.lvl.toNat f.acq f.rel).pass e) := by
  rw [Completes, exec_fence_of_runs h, atHigh_of_actsAt ha, whenLanded_of_free hl]

/-- Below CLUSTER a fence orders only. -/
theorem fence_low (hr : (s.launchOf e.b).race = false) {l : Nat} (hl : (e.t.bind l).code < 4) (acq rel : Bool) :
    s.fence e l acq rel = s := by
  unfold State.fence
  dsimp only
  rw [if_pos hl, fenceClocks_off s hr]

/-- The release side of a fence at CLUSTER or above (R131, R145). -/
def State.releases (s : State) (e : Site) (acq rel : Bool) : State :=
  if rel || !acq then s.landWhere (fun q => q.core == e.cur.core && !q.eff.isStream) else s

theorem KeepsCores.releases (s : State) (e : Site) (acq rel : Bool) : KeepsCores s (s.releases e acq rel) := by
  unfold State.releases
  split
  · exact KeepsCores.landWhere ..
  · exact KeepsCores.refl s

/-- At CLUSTER or above it releases, then acquires (R131, R146). -/
theorem fence_high (hr : (s.launchOf e.b).race = false) {l : Nat} (hl : 4 ≤ (e.t.bind l).code) (acq rel : Bool) :
    s.fence e l acq rel = if acq || !rel then (s.releases e acq rel).dropL1 e.cur.core false else s.releases e acq rel := by
  have hfence : s.fence e l acq rel = (if acq || !rel then (s.releases e acq rel).dropL1 e.cur.core false
      else s.releases e acq rel).fenceClocks e l acq rel := by
    unfold State.fence
    dsimp only
    rw [if_neg (Nat.not_lt.2 hl)]
    rfl
  have hrel := (KeepsCores.releases s e acq rel).launchOf e.b
  rw [hfence, fenceClocks_off]
  split <;> exact (congrArg Launch.race hrel).trans hr

/-- A fence at CLUSTER or above moves its members on (R131). -/
theorem fence_high_goes (hr : (s.launchOf e.b).race = false) {l : Nat} (hl : 4 ≤ (e.t.bind l).code) (acq rel : Bool) :
    GroupGoes s (((s.acts e).fence e l acq rel).pass e) e Thread.next := by
  have hacts := Quiet.acts s e
  have hk : KeepsCores s ((s.acts e).fence e l acq rel) := by
    rw [fence_high (by rw [hacts.launchOf]; exact hr) hl]
    have hrel := (KeepsCores.of_quiet hacts).trans (KeepsCores.releases (s.acts e) e acq rel)
    split
    · exact hrel.trans (KeepsCores.dropL1 ..)
    · exact hrel
  exact hk.goes (State.finish_goes _ _ _ fun _ => rfl)

theorem fence_flights (hr : (s.launchOf e.b).race = false) {l : Nat} (hl : 4 ≤ (e.t.bind l).code) (acq rel : Bool) :
    (s.fence e l acq rel).flights = (s.releases e acq rel).flights := by
  rw [fence_high hr hl]
  split <;> rfl

/-- What stands before a write in flight depends on the blocks of its core. -/
theorem flightBlocked_of_quiet {t : State} (q : Quiet s t) (c : Flight) : flightBlocked t c = flightBlocked s c := by
  rw [flightBlocked, flightBlocked, exactStores, exactStores, q.arch]

theorem releases_stream {q : Flight} (hq : q ∈ s.flights) (hs : q.eff.isStream = true) (acq rel : Bool) :
    q ∈ (s.releases e acq rel).flights := by
  unfold State.releases
  split
  · rw [landWhere_flights]
    exact List.mem_filter.2 ⟨hq, by simp [hs]⟩
  · exact hq

/-- After a release every write of the core that is still in flight is to a STREAM page (R131, R145). -/
theorem releases_flights (hfree : landsBlocked s (fun q => q.core == e.cur.core && !q.eff.isStream) = false) {acq rel : Bool}
    (hrel : rel = true ∨ acq = false) {q : Flight} (hq : q ∈ (s.releases e acq rel).flights) (hc : q.core = e.cur.core) :
    q.eff.isStream = true := by
  have hor : (rel || !acq) = true := by rcases hrel with h | h <;> simp [h]
  rw [State.releases, if_pos hor, landWhere_flights] at hq
  obtain ⟨hmem, hleft⟩ := List.mem_filter.1 hq
  have hblocked : (q.core == e.cur.core && !q.eff.isStream && flightBlocked s q) = false :=
    Bool.eq_false_iff.2 fun h => ne_true_of_eq_false hfree (List.any_eq_true.2 ⟨q, hmem, h⟩)
  cases hs : q.eff.isStream with
  | true => rfl
  | false =>
    have hsel : (q.core == e.cur.core && !q.eff.isStream) = true := by rw [hc, hs, beq_self_eq_true]; rfl
    rw [hsel, Bool.true_and] at hleft hblocked
    rw [hblocked] at hleft
    cases hleft

/-- After an acquire the core's copies are of STREAM lines (R131, R146). -/
theorem fence_l1 (hr : (s.launchOf e.b).race = false) {l : Nat} (hl : 4 ≤ (e.t.bind l).code) {acq rel : Bool}
    (hacq : acq = true ∨ rel = false) {x : CacheLine} (hx : x ∈ ((s.fence e l acq rel).core e.cur.core).l1) : x.stream = true := by
  have hor : (acq || !rel) = true := by rcases hacq with h | h <;> simp [h]
  rw [fence_high hr hl, if_pos hor, l1_dropL1] at hx
  exact (List.mem_filter.1 hx).2

end

/-! ### PREF -/

section
variable {s : State} {e : Site}

theorem exec_pref_of_runs {f : StF} (h : Runs (.pref f) s e) (hgood : ∀ th ∈ e.act, r107Bad (eaOf s e th f.a f.off) = false) :
    Completes (.pref f) s ((e.act.foldl (fun t th => t.prefetchOne e (eaOf s e th f.a f.off) (MemW.n f.w) f.cp.toNat)
      ((s.acts e).noteSources e [f.a])).pass e) := by
  have hx : exec (.pref f) s = execPref f s := rfl
  have hnone : r107Fault e (fun th => eaOf s e th f.a f.off) = none := by
    rw [r107Fault, List.filter_eq_nil_iff.2 fun th hth => ne_true_of_eq_false (hgood th hth)]
  rw [Completes, hx, execPref, issue_of_runs _ h, hnone]

theorem Durable.badLines : Durable State.badLines :=
  ⟨fun _ _ => rfl, fun _ _ => rfl, fun _ _ _ => rfl, fun _ _ _ => rfl, fun _ _ => rfl, fun _ _ _ => rfl, fun _ _ => rfl, fun _ _ => rfl⟩

/-- Without failing lines nothing is quarantined. -/
theorem quarantine_none (hbad : s.badLines = []) (x l : Nat) (pc : Word) : s.quarantine x [l] pc = s := by
  rw [State.quarantine, List.foldl_cons, hbad]
  rfl

/-- Without failing lines a prefetch leaves traces of reads only, and no failing line. -/
def Prefetches (s t : State) : Prop := s.badLines = [] → Traces (fun _ => False) s t ∧ t.badLines = []

theorem Prefetches.refl (s : State) : Prefetches s s := fun h => ⟨(Quiet.refl s).traces, h⟩

theorem Prefetches.trans {t u : State} (h : Prefetches s t) (g : Prefetches t u) : Prefetches s u := fun hs => by
  obtain ⟨htrace, hbad⟩ := h hs
  obtain ⟨htrace', hbad'⟩ := g hbad
  exact ⟨htrace.trans htrace', hbad'⟩

theorem Prefetches.foldl {α : Type} {f : State → α → State} (hf : ∀ s a, Prefetches s (f s a)) (l : List α) (s : State) :
    Prefetches s (l.foldl f s) := by
  induction l generalizing s with
  | nil => exact refl s
  | cons a l ih => exact (hf s a).trans (ih _)

theorem Prefetches.noteXlat (s : State) (c x : Nat) (l : Xlat) (need : Need) : Prefetches s (s.noteXlat c x l need) := fun h =>
  ⟨Traces.noteXlat _ _ _ _ (by intro a ha; exact ha.elim), (Durable.badLines.noteXlat _ _ _ _ _).trans h⟩

theorem Prefetches.line (s : State) (e : Site) (x : Xlat) (l : Nat) : Prefetches s (s.prefetchLine e x l) := by
  intro hbad
  have hnone : Tab.find? s.badLines l = none := by rw [hbad]; rfl
  rw [State.prefetchLine, hnone, if_neg (by decide)]
  split
  · exact refl s hbad
  · refine ⟨Quiet.traces ?_, hbad⟩
    exact Quiet.setCore _ _ _ rfl rfl rfl

theorem Prefetches.one (s : State) (e : Site) (va : Word) (n cp : Nat) : Prefetches s (s.prefetchOne e va n cp) := by
  unfold State.prefetchOne
  split
  · split
    · split
      · exact noteXlat _ _ _ _ _
      · exact (noteXlat _ _ _ _ _).trans (foldl (fun s i => line s e _ _) _ _)
    · intro hbad
      rw [quarantine_none hbad]
      exact refl s hbad
    · exact refl s
  · exact refl s

end

/-! ### CCTL -/

section
variable {s : State} {e : Site} {rs : List Acc}

/-- The traces of a CCTL's accesses and its operations on their lines (R255). -/
def State.cctlLines (s : State) (e : Site) (op : Nat) (rs : List Acc) : State :=
  rs.foldl (fun t r => match accTarget r with
    | .main x => (t.noteXlat e.cur.core (t.ctxOf e.b) x .read).cctlLine e op (x.pa / 256)
    | _ => t) s

theorem exec_cctl_of_runs {f : MemX} (h : Runs (.cctl f) s e) (hp : Passes s e (fun th => cctlReq (eaOf s e th f.a f.off)) rs) :
    Completes (.cctl f) s (((((s.noteWalks e (fun th => cctlReq (eaOf s e th f.a f.off)) true).acts e).noteSources e [f.a]).cctlLines e
      f.x.toNat rs).pass e) := by
  obtain ⟨hok, hfresh⟩ := hp
  have hx : exec (.cctl f) s = execCctl f s := rfl
  rw [Completes, hx, execCctl, issue_of_runs _ h, State.access, hok]
  dsimp only
  rw [hfresh, if_neg Bool.false_ne_true]
  rfl

theorem Quiet.cctlLine (s : State) (e : Site) (op l : Nat) : Quiet s (s.cctlLine e op l) := by
  unfold State.cctlLine
  split
  · refine Quiet.foldl _ (fun s c => ?_) _ s
    split
    · exact Quiet.setCore _ _ _ rfl rfl rfl
    · exact Quiet.refl s
  · split
    · exact Quiet.refl s
    · exact Quiet.setCore _ _ _ rfl rfl rfl

/-- A target of an access. -/
theorem accTarget_mem {r : Acc} {x : Xlat} (h : accTarget r = .main x) : .main x ∈ r.2.2 := by
  obtain ⟨th, q, ts⟩ := r
  cases ts with
  | nil => cases h
  | cons t ts => exact List.mem_cons.2 (Or.inl h.symm)

theorem Traces.cctlLines (s : State) (e : Site) (op : Nat) (hb : e.names s) (hr : (s.launchOf e.b).race = false) :
    Traces (LeafFree rs) s (s.cctlLines e op rs) := by
  refine Traces.foldl_at e _ rs (fun t r hr _ _ => ?_) s hb hr
  split
  · next x hx =>
      exact (Traces.noteXlat _ _ _ _ fun a ha => ha r hr x (accTarget_mem hx)).trans (Quiet.cctlLine _ _ _ _).traces
  · exact (Quiet.refl t).traces

/-- A CCTL makes one request of a thread at most. -/
theorem cctlReq_of_mem {va : Word} {q : Req} (h : q ∈ cctlReq va) : cctlReq va = [q] := by
  unfold cctlReq at h ⊢
  split at h
  · rename_i hc
    rw [if_pos hc, List.mem_singleton.1 h]
  · cases h

/-- The walks of a CCTL whose checks pass mark its entries only. -/
theorem Traces.cctlWalks {ea : Thread → Word} (h : checkGroup s e (fun th => cctlReq (ea th)) = .ok rs) (go : Bool) (hb : e.names s)
    (hr : (s.launchOf e.b).race = false) : Traces (LeafFree rs) s (s.noteWalks e (fun th => cctlReq (ea th)) go) := by
  refine Traces.foldl_at e _ _ (fun s' t ht _ _ => ?_) s hb hr
  obtain ⟨th, hth, hmem⟩ := List.mem_flatMap.1 ht
  obtain ⟨q, hreq, hx⟩ := List.mem_filterMap.1 hmem
  have hone : cctlReq (ea th) = [q] := cctlReq_of_mem hreq
  split at hx
  next x hok =>
    cases hx
    refine Traces.noteXlat _ _ _ _ fun a ha => ha (th, [q], [.main x]) ?_ x (List.mem_singleton.2 rfl)
    rw [checkGroup_ok h, List.mem_filterMap]
    exact ⟨th, hth, by simp [hone, checkThread, hok]⟩
  next => cases hx

end

/-- Settles O29: what the release performs and the acquire drops, then the traces that PREF and CCTL leave. -/
theorem fencePrefCctl : Obligations.FencePrefCctl := by
  refine ⟨fun f s e h hr => ⟨fun hl => ?_, fun hl hx hfresh => ⟨fun hfree => ?_, fun hblocked => ?_⟩⟩,
    fun f s e h hr hbad hgood => ?_, fun f s e rs h hr hp => ?_⟩
  · have hpass := (Quiet.acts s e).pass e
    have hdone := exec_fence_of_acts h (Or.inl ⟨hl, rfl⟩) (Or.inl hl)
    rw [fence_low (by rw [(Quiet.acts s e).launchOf]; exact hr) hl] at hdone
    exact ⟨_, hdone, hpass⟩
  · have hacts := Quiet.acts s e
    have hra : ((s.acts e).launchOf e.b).race = false := by rw [hacts.launchOf]; exact hr
    have hfl : ∀ (q : Flight), q ∈ (((s.acts e).fence e f.lvl.toNat f.acq f.rel).pass e).flights
        ↔ q ∈ ((s.acts e).releases e f.acq f.rel).flights := fun q => by
      rw [← fence_flights hra hl]; rfl
    have hfree' : landsBlocked (s.acts e) (fun q => q.core == e.cur.core && !q.eff.isStream) = false := by
      rw [landsBlocked, hacts.flights, ← hfree, landsBlocked]
      exact congrArg _ (funext fun q => by rw [flightBlocked_of_quiet hacts])
    refine ⟨_, exec_fence_of_acts h (Or.inr (Or.inl ⟨hl, hx, hfresh, rfl⟩)) (Or.inr hfree), fence_high_goes hr hl _ _,
      fun hrel q hq => ?_, fun q hq hs => ?_, fun hacq x hx => ?_⟩
    · exact releases_flights hfree' hrel ((hfl q).1 hq)
    · exact (hfl q).2 (releases_stream (by rw [hacts.flights]; exact hq) hs _ _)
    · rw [State.pass, l1_finish] at hx
      exact fence_l1 hra hl hacq hx
  · rw [Completes, exec_fence_of_runs h, atHigh_of_actsAt (Or.inr (Or.inl ⟨hl, hx, hfresh, rfl⟩)), whenLanded_of_blocked hl hblocked]
  · have hnames := State.site?_names h.1
    have hq := Quiet.notes hnames hr [f.a]
    have hbad' : ((s.acts e).noteSources e [f.a]).badLines = [] :=
      (Durable.badLines.noteSources _ _ _).trans ((Durable.badLines.ignores.acts _ _).trans hbad)
    obtain ⟨htrace, -⟩ :=
      Prefetches.foldl (fun t th => Prefetches.one t e (eaOf s e th f.a f.off) (MemW.n f.w) f.cp.toNat) e.act _ hbad'
    have hall := hq.traces.trans htrace
    exact ⟨_, exec_pref_of_runs h hgood, hall.quiet.goes (State.finish_goes _ _ _ fun _ => rfl), hall.quiet.flights,
      hall.quiet.launches⟩
  · have hnames := State.site?_names h.1
    have hwalks := Traces.cctlWalks hp.1 true hnames hr
    have hnotes := hwalks.trans (Quiet.notes ((hwalks.block? _ _).trans hnames) (by rw [hwalks.launchOf]; exact hr) [f.a]).traces
    have hall := hnotes.trans (Traces.cctlLines _ e f.x.toNat ((hnotes.block? _ _).trans hnames) (by rw [hnotes.launchOf]; exact hr))
    exact ⟨_, exec_cctl_of_runs h hp, hall.quiet.goes (State.finish_goes _ _ _ fun _ => rfl), hall.quiet.flights, hall.quiet.launches,
      hall.mem⟩

end Sys2Proof.Machine
end

section
/-! Proof of O31: the barrier instructions arrive at their objects, wait and pass (R130, R260, R261, R262, R264, R266, R336). -/

namespace Sys2Proof.Machine

/-! ### The object of a node -/

/-- The object of level `l` of a node can be replaced: it is a block's own, or the node stands in the launch. -/
def State.hasNode (s : State) (e : Site) (l n : Nat) : Prop :=
  l ≤ e.t.blockLvl ∨ ((s.launch? e.b.launch).isSome = true ∧ (Tab.find? (s.launchOf e.b).nodes (highKey l n)).isSome = true)

/-- A block apart from its barrier objects. -/
def Block.unbarred (b : Block) : Block := { b with bars := [] }

theorem Block.threads_of_unbarred {b b' : Block} (h : b'.unbarred = b.unbarred) : b'.threads = b.threads :=
  (congrArg (fun x : Block => x.threads) h :)

theorem Block.launch_of_unbarred {b b' : Block} (h : b'.unbarred = b.unbarred) : b'.launch = b.launch :=
  (congrArg (fun x : Block => x.launch) h :)

section
variable {s : State} {e : Site} {l n : Nat} {b : Block}

theorem bar_low (h : l ≤ e.t.blockLvl) : s.bar b e.t l n = Tab.get Bar.new b.bars (nodeKey l n 0) := if_pos h

theorem bar_high (h : ¬ l ≤ e.t.blockLvl) :
    s.bar b e.t l n = ((Tab.find? (s.launchOf b).nodes (highKey l n)).map Node.bar).getD Bar.new := by
  rw [State.bar, if_neg h]
  cases Tab.find? (s.launchOf b).nodes (highKey l n) <;> rfl

/-- An object depends on the block's own objects, and on the launches. -/
theorem bar_congr {t : State} {b' : Block} (hl : t.launches = s.launches) (hb : b'.bars = b.bars) (hn : b'.launch = b.launch) :
    t.bar b' e.t l n = s.bar b e.t l n := by
  unfold State.bar State.launchOf State.launch?
  rw [hl, hb, hn]

theorem nodeKey_inj {m : Nat} (h : nodeKey l m 0 = nodeKey l n 0) : m = n := by
  unfold nodeKey at h
  omega

theorem highKey_inj {m : Nat} (h : highKey l m = highKey l n) : m = n := Nat.add_left_cancel h

/-- The launch's nodes after one of its objects has been replaced. -/
theorem launchOf_setNode (hs : (s.launch? b.launch).isSome = true) (f : Launch → Launch) :
    (s.updLaunch b.launch f).launchOf b = f (s.launchOf b) := by
  obtain ⟨ln, hln⟩ := Option.isSome_iff_exists.1 hs
  rw [State.launchOf, State.launchOf, State.launch?_updLaunch, hln, Option.map_some, if_pos rfl]
  rfl

end

/-! ### The replacement of an object -/

section
variable {u : State} {e : Site} {l n : Nat} {b : Block} (o : Bar)

theorem setBar_low (h : l ≤ e.t.blockLvl) : u.setBar e.cur.core e.cur.slot e.b e.t l n o
    = u.updBlock e.cur.core e.cur.slot (fun b => { b with bars := Tab.set Bar.new b.bars (nodeKey l n 0) o }) := if_pos h

theorem setBar_high (h : ¬ l ≤ e.t.blockLvl) : u.setBar e.cur.core e.cur.slot e.b e.t l n o
    = u.updLaunch e.b.launch (fun ln => { ln with
      nodes := Tab.mapV ln.nodes (fun k nd => if k = highKey l n then { nd with bar := o } else nd) }) := if_neg h

/-- Replacing an object keeps the rest of the site's block. -/
theorem setBar_block (hb : u.block? e.cur.core e.cur.slot = some b) :
    ∃ b', (u.setBar e.cur.core e.cur.slot e.b e.t l n o).block? e.cur.core e.cur.slot = some b' ∧ b'.unbarred = b.unbarred
      ∧ (l ≤ e.t.blockLvl → b'.bars = Tab.set Bar.new b.bars (nodeKey l n 0) o) ∧ (¬ l ≤ e.t.blockLvl → b' = b) := by
  by_cases h : l ≤ e.t.blockLvl
  · rw [setBar_low o h, State.block?_updBlock, hb]
    exact ⟨_, rfl, rfl, fun _ => rfl, fun hn => absurd h hn⟩
  · rw [setBar_high o h]
    exact ⟨b, hb, rfl, fun hn => absurd hn h, fun _ => rfl⟩

/-- The launch's node at a key after a replacement above the block. -/
theorem find?_nodes_setBar (h : ¬ l ≤ e.t.blockLvl) (hl : (u.launch? e.b.launch).isSome = true) (k : Nat) :
    Tab.find? ((u.setBar e.cur.core e.cur.slot e.b e.t l n o).launchOf e.b).nodes k
      = (Tab.find? (u.launchOf e.b).nodes k).map (fun nd => if k = highKey l n then { nd with bar := o } else nd) := by
  rw [setBar_high o h, launchOf_setNode hl, Tab.find?_mapV]

/-- A site's launch keeps its other fields. -/
theorem race_setBar : ((u.setBar e.cur.core e.cur.slot e.b e.t l n o).launchOf e.b).race = (u.launchOf e.b).race := by
  by_cases h : l ≤ e.t.blockLvl
  · rw [setBar_low o h]; rfl
  · rw [setBar_high o h, State.launchOf, State.launchOf, State.launch?_updLaunch]
    cases u.launch? e.b.launch with
    | none => rfl
    | some ln => rw [Option.map_some, if_pos rfl]; rfl

theorem hasNode_setBar {m : Nat} (h : u.hasNode e l m) : (u.setBar e.cur.core e.cur.slot e.b e.t l n o).hasNode e l m := by
  rcases h with h | ⟨hl, hm⟩
  · exact Or.inl h
  by_cases hlow : l ≤ e.t.blockLvl
  · exact Or.inl hlow
  refine Or.inr ⟨?_, ?_⟩
  · rw [setBar_high o hlow, State.launch?_updLaunch, Option.isSome_map]
    exact hl
  · rw [find?_nodes_setBar o hlow hl, Option.isSome_map]
    exact hm

/-- The replaced object reads as given, every other as before. -/
theorem bar_setBar (hb : u.block? e.cur.core e.cur.slot = some b) (hbl : b.launch = e.b.launch) (hn : u.hasNode e l n)
    {b' : Block} (hb' : (u.setBar e.cur.core e.cur.slot e.b e.t l n o).block? e.cur.core e.cur.slot = some b') (m : Nat) :
    (u.setBar e.cur.core e.cur.slot e.b e.t l n o).bar b' e.t l m = if m = n then o else u.bar b e.t l m := by
  obtain ⟨b'', hb'', -, hlow, hhigh⟩ := setBar_block o hb (l := l) (n := n)
  obtain rfl : b'' = b' := Option.some.inj (hb''.symm.trans hb')
  by_cases h : l ≤ e.t.blockLvl
  · rw [bar_low h, bar_low h, hlow h]
    split
    · next hm => rw [hm, Tab.get_set_same]
    · next hm => exact Tab.get_set_ne _ _ _ fun hk => hm (nodeKey_inj hk)
  · obtain ⟨hl, hnode⟩ := hn.resolve_left h
    have hof : ∀ t : State, t.launchOf b = t.launchOf e.b := fun t => by rw [State.launchOf, State.launchOf, hbl]
    rw [hhigh h, bar_high h, bar_high h, hof, hof, find?_nodes_setBar o h hl]
    by_cases hm : m = n
    · obtain ⟨nd, hnd⟩ := Option.isSome_iff_exists.1 hnode
      simp [hm, hnd]
    · simp [hm, mt highKey_inj hm]

/-- The object that the site's block as issued names stays when another is replaced. -/
theorem bar_setBar_site {m : Nat} (hm : m ≠ n) : (u.setBar e.cur.core e.cur.slot e.b e.t l n o).bar e.b e.t l m = u.bar e.b e.t l m := by
  by_cases h : l ≤ e.t.blockLvl
  · rw [bar_low h, bar_low h]
  · rw [bar_high h, bar_high h]
    cases hl : u.launch? e.b.launch with
    | none =>
        rw [setBar_high o h, State.launchOf, State.launchOf, State.launch?_updLaunch, hl]
        rfl
    | some ln =>
        rw [find?_nodes_setBar o h (by rw [hl]; rfl)]
        simp only [if_neg fun hk => hm (highKey_inj hk), Option.map_id']

end

/-! ### The arrival at one node -/

/-- An object has taken `k` arriving threads (R261, R264). -/
structure Bar.Joined (o o' : Bar) (how : Arrival) (k : Nat) (mask : Word) : Prop where
  count : o'.count = o.count
  pending : o'.pending = o.pending
  arrived : o'.arrived = o.arrived + k
  kind : o'.kind = (match how with
    | .masked => 2
    | .quiesce => 3
    | .plain => if o.kind = 3 then 3 else 1)
  mask : o'.mask = if how = .masked ∧ o.kind ≠ 2 then mask else o.mask

theorem arriveNode_off {u : State} {e : Site} (hr : (u.launchOf e.b).race = false) (l n : Nat) (how : Arrival) (ths : List Thread)
    (mask : Word) : ∃ o', u.arriveNode e l n how ths mask
      = (u.setBar e.cur.core e.cur.slot e.b e.t l n o', (u.bar e.b e.t l n).count)
      ∧ (u.bar e.b e.t l n).Joined o' how ths.length mask := by
  unfold State.arriveNode
  dsimp only
  rw [hr]
  exact ⟨_, rfl, rfl, rfl, rfl, rfl, by simp⟩

/-! ### The arrivals at some nodes -/

/-- What `arriveAll` does at its nodes, one after another: `ths` gives the threads that arrive at each. -/
def arriveNodes (e : Site) (l : Nat) (how : Arrival) (ths : Nat → List Thread) (mask : Word) (ns : List Nat)
    (acc : State × List (Nat × BitVec 32)) : State × List (Nat × BitVec 32) :=
  ns.foldl (fun acc n => ((acc.1.arriveNode e l n how (ths n) mask).1,
    acc.2 ++ [(n, (acc.1.arriveNode e l n how (ths n) mask).2)])) acc

section
variable {e : Site} {l : Nat} {how : Arrival} {ths : Nat → List Thread} {mask : Word}

/-- Every node takes its arrivals, and answers the count before them; the other objects and the block stay (R261). -/
theorem arriveNodes_spec (ns : List Nat) (hnd : ns.Nodup) {u : State} {b : Block} (os : Nat → Bar)
    (acc : List (Nat × BitVec 32)) (hb : u.block? e.cur.core e.cur.slot = some b) (hbl : b.launch = e.b.launch)
    (hr : (u.launchOf e.b).race = false) (hn : ∀ n ∈ ns, u.hasNode e l n) (ho : ∀ n ∈ ns, u.bar e.b e.t l n = os n) :
    ∃ t b', arriveNodes e l how ths mask ns (u, acc) = (t, acc ++ ns.map (fun n => (n, (os n).count)))
      ∧ t.block? e.cur.core e.cur.slot = some b' ∧ b'.unbarred = b.unbarred
      ∧ (∀ n ∈ ns, (os n).Joined (t.bar b' e.t l n) how (ths n).length mask)
      ∧ (∀ n, n ∉ ns → t.bar b' e.t l n = u.bar b e.t l n) := by
  induction ns generalizing u b acc with
  | nil => exact ⟨u, b, by simp [arriveNodes], hb, rfl, by simp, by simp⟩
  | cons n ns ih =>
    obtain ⟨hnot, hnd⟩ := List.nodup_cons.1 hnd
    obtain ⟨o', hnode, hjoin⟩ := arriveNode_off hr l n how (ths n) mask
    obtain ⟨b1, hb1, hub, -, -⟩ := setBar_block o' hb (l := l) (n := n)
    have hne : ∀ m ∈ ns, m ≠ n := fun m hm hmn => hnot (hmn ▸ hm)
    obtain ⟨t, b', ht, hb', hub', hin, hout⟩ := ih hnd (acc ++ [(n, (os n).count)]) hb1
      ((Block.launch_of_unbarred hub).trans hbl) ((race_setBar o').trans hr)
      (fun m hm => hasNode_setBar o' (hn m (List.mem_cons_of_mem _ hm)))
      (fun m hm => (bar_setBar_site o' (hne m hm)).trans (ho m (List.mem_cons_of_mem _ hm)))
    have hbar := bar_setBar o' hb hbl (hn n (List.mem_cons_self ..)) hb1
    have hon := ho n (List.mem_cons_self ..)
    refine ⟨t, b', ?_, hb', hub'.trans hub, fun m hm => ?_, fun m hm => ?_⟩
    · rw [List.append_assoc] at ht
      rw [arriveNodes, List.foldl_cons, hnode, hon]
      exact ht
    · rcases List.mem_cons.1 hm with rfl | hm
      · rw [hout m hnot, hbar, if_pos rfl, ← hon]
        exact hjoin
      · exact hin m hm
    · obtain ⟨hmn, hm⟩ := not_or.1 (fun h => hm (List.mem_cons.2 h))
      rw [hout m hm, hbar, if_neg hmn]

/-- Inside the block the arrivals change its objects only. -/
theorem arriveNodes_only (hlow : l ≤ e.t.blockLvl) (ns : List Nat) (u : State) (acc : List (Nat × BitVec 32))
    (hr : (u.launchOf e.b).race = false) :
    OnlyBlock u (arriveNodes e l how ths mask ns (u, acc)).1 e ∧ Holds u (arriveNodes e l how ths mask ns (u, acc)).1 e.cur.core [] := by
  induction ns generalizing u acc with
  | nil => exact ⟨OnlyBlock.refl u e, (List.append_nil _).symm⟩
  | cons n ns ih =>
    obtain ⟨o', hnode, -⟩ := arriveNode_off hr l n how (ths n) mask
    rw [arriveNodes, List.foldl_cons, hnode, setBar_low o' hlow]
    obtain ⟨honly, hheld⟩ := ih (u.updBlock e.cur.core e.cur.slot (fun b => { b with
      bars := Tab.set Bar.new b.bars (nodeKey l n 0) o' })) (acc ++ [(n, (u.bar e.b e.t l n).count)]) hr
    refine ⟨(OnlyBlock.updBlock ..).trans honly, Holds.trans_nil ?_ hheld⟩
    rw [Holds, State.chunk_updBlock, List.append_nil]

end

/-! ### The arrival of a group -/

/-- The nodes of level `l` that the group's active members reach. -/
def Site.barNodes (e : Site) (l : Nat) : List Nat := (addNew [] (e.act.map (fun th => barNode e.t l e.b th.ltid))).reverse

/-- The active members beneath a node. -/
def Site.beneath (e : Site) (l n : Nat) : List Thread := e.act.filter (fun th => barNode e.t l e.b th.ltid == n)

/-- A thread that has arrived, before it goes on if the instruction lets it. -/
def arrivedThread (l : Nat) (waits : Bool) (th : Thread) : Thread :=
  if waits then { th with wait := .barrier l, acted := false, kept := none } else th

/-- What the arrival of a group makes of a thread, with the counts that the nodes have answered (R261, R336). -/
def barThread (s : State) (e : Site) (l : Nat) (how : Arrival) (mask : Thread → Word) (waits : Bool)
    (f : BitVec 32 → Thread → Thread) (counts : List (Nat × BitVec 32)) (th : Thread) : Thread :=
  if (objOf s e l th).who.contains (threadUid e.b th.ltid)
  then { th with wait := .barAgain l, kept := if how == .masked then some (th.pc, false, mask th) else none }
  else f (((counts.find? (fun p => p.1 == barNode e.t l e.b th.ltid)).map (fun p => p.2)).getD 0) (arrivedThread l waits th)

theorem mem_addNew {old new : List Nat} {a : Nat} : a ∈ addNew old new ↔ a ∈ old ∨ a ∈ new := by
  induction new generalizing old with
  | nil => exact (or_iff_left (List.not_mem_nil)).symm
  | cons n new ih =>
    rw [addNew, List.foldl_cons]
    refine ih.trans ?_
    split
    · next hc =>
        have hn := List.contains_iff_mem.1 hc
        simp only [List.mem_cons]
        exact ⟨fun h => h.imp_right Or.inr, fun h => h.elim Or.inl fun h => h.elim (fun ha => Or.inl (ha ▸ hn)) Or.inr⟩
    · simp only [List.mem_cons]
      tauto

section
variable {s : State} {e : Site} {l : Nat} {how : Arrival} {waits : Bool} {f : BitVec 32 → Thread → Thread}

theorem mem_barNodes {n : Nat} : n ∈ e.barNodes l ↔ ∃ th ∈ e.act, barNode e.t l e.b th.ltid = n := by
  rw [Site.barNodes, List.mem_reverse, mem_addNew]
  simp

theorem beneath_eq_nil {n : Nat} : (e.beneath l n).length = 0 ↔ n ∉ e.barNodes l := by
  rw [mem_barNodes, List.length_eq_zero_iff, Site.beneath, List.filter_eq_nil_iff]
  simp

/-- The reference member gives the mask (R386). -/
theorem head?_getD_ref (e : Site) : (e.act.head?).getD e.ref = e.ref := by
  rw [Site.ref]
  cases e.act.head? <;> rfl

/-- A group that may arrive arrives at its nodes, and its threads wait or go on (R261). -/
theorem arriveAll_of_may {M : State → Site → Thread → Word} {mask : Thread → Word} (hM : ∀ u th, M u e th = mask th)
    (h : MayArrive s e l how waits mask) : arriveAll l how M waits f e s
      = (arriveNodes e l how (e.beneath l) (mask e.ref) (e.barNodes l) (if e.t.blockLvl < l then s else s.acts e, [])).1.finish e
        (barThread s e l how mask waits f
          (arriveNodes e l how (e.beneath l) (mask e.ref) (e.barNodes l) (if e.t.blockLvl < l then s else s.acts e, [])).2) := by
  have hfresh : e.act.filter (fun th => !(s.bar e.b e.t l (barNode e.t l e.b th.ltid)).who.contains (threadUid e.b th.ltid)) = e.act :=
    List.filter_eq_self.2 fun th hth => by
      obtain ⟨hwho, -, -⟩ := h th hth
      exact congrArg Bool.not hwho
  have hsubs : e.act.filterMap (fun th => (memberSub e.t l e.b.lin (s.bar e.b e.t l (barNode e.t l e.b th.ltid)) how (mask e.ref)
      th (mask th)).map (fun n => (th, n))) = [] := by
    refine List.filterMap_eq_nil_iff.2 fun th hth => ?_
    obtain ⟨-, -, hsub⟩ := h th hth
    exact congrArg (Option.map _) hsub
  have hldx : (if waits && l ≤ e.t.blockLvl then e.act.findSome? (fun th => failedLdx e.b l (barNode e.t l e.b th.ltid)) else none)
      = none := by
    split
    · next hc =>
        obtain ⟨hw, hl⟩ := Bool.and_eq_true_iff.1 hc
        refine List.findSome?_eq_none_iff.2 fun th hth => ?_
        obtain ⟨-, hnone, -⟩ := h th hth
        exact hnone hw (of_decide_eq_true hl)
    · rfl
  unfold arriveAll
  dsimp only
  rw [hfresh]
  simp only [hM]
  rw [head?_getD_ref, hsubs]
  dsimp only
  rw [hldx]
  rfl

/-- From `s` to `u` what an arrival reads has stayed: the launches, and of the site's block its threads and objects. -/
structure Reaches (s u : State) (e : Site) : Prop where
  launches : u.launches = s.launches
  block : ∃ b, u.block? e.cur.core e.cur.slot = some b ∧ b.threads = e.b.threads ∧ b.bars = e.b.bars ∧ b.launch = e.b.launch

theorem Reaches.keeps {u t : State} (h : Reaches s u e) (k : KeepsCores u t) : Reaches s t e := by
  obtain ⟨hl, b, hb, hparts⟩ := h
  exact ⟨k.launches.trans hl, b, (k.block? _ _).trans hb, hparts⟩

theorem Reaches.of_keeps {u : State} (hn : e.names s) (h : KeepsCores s u) : Reaches s u e :=
  Reaches.keeps ⟨rfl, e.b, hn, rfl, rfl, rfl⟩ h

theorem Reaches.launchOf {u : State} (h : Reaches s u e) (b : Block) : u.launchOf b = s.launchOf b := by
  rw [State.launchOf, State.launchOf, State.launch?, State.launch?, h.launches]

theorem Reaches.bar {u : State} (h : Reaches s u e) (n : Nat) : u.bar e.b e.t l n = s.bar e.b e.t l n := bar_congr h.launches rfl rfl

theorem Reaches.objOf {u : State} (h : Reaches s u e) (th : Thread) : Machine.objOf u e l th = Machine.objOf s e l th := h.bar _

theorem Reaches.mayArrive {u : State} (h : Reaches s u e) {mask : Thread → Word} (hm : MayArrive s e l how waits mask) :
    MayArrive u e l how waits mask := fun th hth => by
  rw [h.objOf]
  exact hm th hth

theorem Reaches.hasNode {u : State} (h : Reaches s u e) {n : Nat} (hn : s.hasNode e l n) : u.hasNode e l n := by
  unfold State.hasNode
  rw [h.launchOf, State.launch?, h.launches]
  exact hn

theorem hasNode_of_hasBar (h : HasBar s e l) {n : Nat} (hn : n ∈ e.barNodes l) : s.hasNode e l n := by
  by_cases hlow : l ≤ e.t.blockLvl
  · exact Or.inl hlow
  · obtain ⟨th, -, rfl⟩ := mem_barNodes.1 hn
    rw [barNode, if_neg hlow]
    exact h

/-- The count that a node has answered is found by the node. -/
theorem find?_counts {ns : List Nat} {n : Nat} (h : n ∈ ns) (c : Nat → BitVec 32) :
    (((ns.map (fun n => (n, c n))).find? (fun p => p.1 == n)).map (fun p => p.2)).getD 0 = c n := by
  induction ns with
  | nil => cases h
  | cons m ns ih =>
    by_cases hm : m = n
    · simp [hm]
    · rw [List.map_cons, List.find?_cons_of_neg (by simpa using hm)]
      exact ih ((List.mem_cons.1 h).resolve_left (Ne.symm hm))

/-- An active thread stands for an active member. -/
theorem exists_act_of_active {th : Thread} (h : e.active th = true) : ∃ m ∈ e.act, m.ltid = th.ltid := by
  simpa [Site.active, Site.tids] using h

/-- A change of a group's active members may be read off their ids. -/
theorem GroupGoes.congr_active {t : State} {g g' : Thread → Thread} (h : GroupGoes s t e g)
    (hg : ∀ th, e.active th = true → g th = g' th) : GroupGoes s t e g' := fun i => by
  rw [h i]
  congr 1
  funext th
  by_cases ha : e.active th = true
  · rw [hg th ha]
  · rw [if_neg ha, if_neg ha]

/-- A change of a group depends on the threads of its block. -/
theorem GroupGoes.of_threads {t v : State} {g : Thread → Thread}
    (h : ∀ i, t.thread? e.cur.core e.cur.slot i = s.thread? e.cur.core e.cur.slot i) (hg : GroupGoes t v e g) : GroupGoes s v e g :=
  fun i => by rw [hg i, h]

theorem barThread_ltid (hf : ∀ c th, (f c th).ltid = th.ltid) (mask : Thread → Word) (counts : List (Nat × BitVec 32)) (th : Thread) :
    (barThread s e l how mask waits f counts th).ltid = th.ltid := by
  unfold barThread arrivedThread
  split
  · rfl
  · rw [hf]; split <;> rfl

/-- An active member of a group that may arrive goes by the count of its node. -/
theorem barThread_of_active {mask : Thread → Word} (h : MayArrive s e l how waits mask) {th : Thread} (ha : e.active th = true) :
    barThread s e l how mask waits f ((e.barNodes l).map (fun n => (n, (s.bar e.b e.t l n).count))) th
      = f (objOf s e l th).count (arrivedThread l waits th) := by
  obtain ⟨m, hm, hid⟩ := exists_act_of_active ha
  obtain ⟨hwho, -, -⟩ := h m hm
  have hwho' : (objOf s e l th).who.contains (threadUid e.b th.ltid) = false := by rw [objOf, ← hid]; exact hwho
  rw [barThread, hwho', if_neg Bool.false_ne_true, find?_counts (mem_barNodes.2 ⟨m, hm, by rw [hid]⟩)]
  rfl

/-- The arrivals of a group at the nodes of its members, from a state in which what they read is as in `s`. -/
theorem arrivals_spec {v : State} (hv : Reaches s v e) (hr : (s.launchOf e.b).race = false) (hbar : HasBar s e l) (mask : Word) :
    ∃ t b', arriveNodes e l how (e.beneath l) mask (e.barNodes l) (v, [])
        = (t, (e.barNodes l).map (fun n => (n, (s.bar e.b e.t l n).count)))
      ∧ t.block? e.cur.core e.cur.slot = some b' ∧ (∀ b, v.block? e.cur.core e.cur.slot = some b → b'.unbarred = b.unbarred)
      ∧ (∀ n ∈ e.barNodes l, (s.bar e.b e.t l n).Joined (t.bar b' e.t l n) how (e.beneath l n).length mask)
      ∧ (∀ n, n ∉ e.barNodes l → t.bar b' e.t l n = s.bar e.b e.t l n) := by
  obtain ⟨b, hb, -, hbars, hlaunch⟩ := hv.block
  obtain ⟨t, b', ht, hb', hub, hin, hout⟩ := arriveNodes_spec (how := how) (ths := e.beneath l) (mask := mask) (e.barNodes l)
    (List.nodup_reverse.2 (nodup_addNew _ List.nodup_nil)) (fun n => s.bar e.b e.t l n) [] hb hlaunch (by rw [hv.launchOf]; exact hr)
    (fun n hn => hv.hasNode (hasNode_of_hasBar hbar hn)) (fun n _ => hv.bar n)
  refine ⟨t, b', ht, hb', fun b₁ hb₁ => ?_, hin, fun n hn => (hout n hn).trans (bar_congr hv.launches hbars hlaunch)⟩
  rw [← Option.some.inj (hb.symm.trans hb₁)]
  exact hub

/-- A group whose objects have joined its threads has arrived, however its threads go on. -/
theorem arrives_finish {t : State} {b' : Block} (g : Thread → Thread) (mask : Word) (hb' : t.block? e.cur.core e.cur.slot = some b')
    (hin : ∀ n ∈ e.barNodes l, (s.bar e.b e.t l n).Joined (t.bar b' e.t l n) how (e.beneath l n).length mask)
    (hout : ∀ n, n ∉ e.barNodes l → t.bar b' e.t l n = s.bar e.b e.t l n) : Arrives s (t.finish e g) e l how mask := by
  refine ⟨_, by rw [State.finish, State.block?_mapTids, hb']; rfl, fun n => ?_⟩
  have hbar : (t.finish e g).bar (b'.mapTids (e.mem.map (fun th => th.ltid)) (fun th => if e.active th then g th else th.next)) e.t l n
      = t.bar b' e.t l n := bar_congr rfl rfl rfl
  dsimp only
  rw [hbar]
  by_cases hn : n ∈ e.barNodes l
  · obtain ⟨hcount, hpending, harrived, hkind, hmask⟩ := hin n hn
    exact ⟨hcount, hpending, harrived, fun hk => absurd (beneath_eq_nil.1 hk) (not_not.2 hn), fun _ => ⟨hkind, hmask⟩⟩
  · have hk := beneath_eq_nil.2 hn
    rw [hout n hn]
    exact ⟨rfl, rfl, (congrArg (fun k => (s.bar e.b e.t l n).arrived + k) hk).symm, fun _ => rfl, fun hne => absurd hk hne⟩

/-- A group that may arrive has arrived, and its threads wait or go on (R261, R264). -/
theorem arriveAll_spec {u : State} {M : State → Site → Thread → Word} {mask : Thread → Word} (hM : ∀ u th, M u e th = mask th)
    (hf : ∀ c th, (f c th).ltid = th.ltid) (hu : Reaches s u e) (hnames : e.names s) (hr : (s.launchOf e.b).race = false)
    (hbar : HasBar s e l) (hmay : MayArrive s e l how waits mask) :
    Arrives s (arriveAll l how M waits f e u) e l how (mask e.ref)
      ∧ GroupGoes s (arriveAll l how M waits f e u) e (fun th => f (objOf s e l th).count (arrivedThread l waits th)) := by
  have hv : Reaches s (if e.t.blockLvl < l then u else u.acts e) e := by
    split
    · exact hu
    · exact hu.keeps (KeepsCores.of_quiet (Quiet.acts u e))
  have hmay' := hu.mayArrive hmay
  rw [arriveAll_of_may hM hmay']
  obtain ⟨b, hb, hthreads, -, -⟩ := hv.block
  obtain ⟨t, b', ht, hb', hub, hin, hout⟩ := arrivals_spec (how := how) hv hr hbar (mask e.ref)
  rw [ht]
  refine ⟨arrives_finish _ _ hb' hin hout, ?_⟩
  have hthread : ∀ i, t.thread? e.cur.core e.cur.slot i = s.thread? e.cur.core e.cur.slot i := fun i => by
    rw [State.thread?, State.thread?, hb', hnames]
    exact congrArg (List.find? _) ((Block.threads_of_unbarred (hub b hb)).trans hthreads)
  refine GroupGoes.congr_active (GroupGoes.of_threads hthread (State.finish_goes t e _ (barThread_ltid hf mask _))) fun th hact => ?_
  have hobjs : (e.barNodes l).map (fun n => (n, (s.bar e.b e.t l n).count))
      = (e.barNodes l).map (fun n => (n, (u.bar e.b e.t l n).count)) :=
    List.map_congr_left fun n _ => by rw [hu.bar]
  rw [hobjs, barThread_of_active hmay' hact, hu.objOf]

theorem Block.eq_of_unbarred {b b' : Block} (h : b'.unbarred = b.unbarred) : b' = { b with bars := b'.bars } :=
  (congrArg (fun x : Block => { x with bars := b'.bars }) h :)

/-- Inside the block an arrival changes nothing but the threads and the objects of the site's block. -/
theorem arriveAll_only {u : State} {M : State → Site → Thread → Word} {mask : Thread → Word} (hM : ∀ u th, M u e th = mask th)
    (q : Quiet s u) (hnames : e.names s) (hr : (s.launchOf e.b).race = false) (hlow : l ≤ e.t.blockLvl)
    (hmay : MayArrive s e l how waits mask) :
    ∃ b', (arriveAll l how M waits f e u).block? e.cur.core e.cur.slot = some b' ∧ OnlyBlock s (arriveAll l how M waits f e u) e
      ∧ Holds s (arriveAll l how M waits f e u) e.cur.core []
      ∧ BlockGoes s (arriveAll l how M waits f e u) e (fun b => { b with bars := b'.bars }) := by
  have qa := q.trans (Quiet.acts u e)
  have hv : Reaches s (u.acts e) e := Reaches.of_keeps hnames (KeepsCores.of_quiet qa)
  have hu : Reaches s u e := Reaches.of_keeps hnames (KeepsCores.of_quiet q)
  obtain ⟨t, b', ht, hb', hub, -, -⟩ := arrivals_spec (how := how) hv hr (Or.inl hlow) (mask e.ref)
  obtain ⟨honly, hheld⟩ := arriveNodes_only (how := how) (ths := e.beneath l) (mask := mask e.ref) hlow (e.barNodes l) (u.acts e) []
    (by rw [hv.launchOf]; exact hr)
  obtain ⟨qonly, -, qheld⟩ := qa.only e
  rw [arriveAll_of_may hM (hu.mayArrive hmay), if_neg (Nat.not_lt.2 hlow)]
  rw [ht] at honly hheld ⊢
  obtain ⟨fonly, -, fheld⟩ := State.finish_only t e (barThread u e l how mask waits f
    ((e.barNodes l).map (fun n => (n, (s.bar e.b e.t l n).count))))
  refine ⟨_, by rw [State.finish, State.block?_mapTids, hb']; rfl, (qonly.trans honly).trans fonly,
    (qheld.trans_nil hheld).trans_nil fheld, BlockGoes.of_apart hnames (by rw [State.finish, State.block?_mapTids, hb']; rfl) ?_⟩
  have hb := Block.eq_of_unbarred (hub e.b ((qa.block? _ _).trans hnames))
  exact (congrArg Block.apart hb :)

end

/-! ### BAR, BARA and MBAR -/

/-- What BAR, BARA and MBAR do with a thread that has arrived, given the count before (R264). -/
def barGo (i : Instr) : BitVec 32 → Thread → Thread :=
  match i with
  | .bara f => fun c th => (putD f.o (c.setWidth 64) th).next
  | _ => fun _ th => th

/-- BAR, BARA and MBAR where they act: the release side, the sources, and the arrival (R262, R264). -/
def barArrive (i : Instr) (l : Nat) (how : Arrival) (waits : Bool) (e : Site) (s : State) : State :=
  arriveAll l how (fun _ e th => barMask i s e th) waits (barGo i) e (s.arrivalEdge i e l)

section
variable {i : Instr} {s : State} {e e' : Site} {l : Nat} {how : Arrival} {waits : Bool}

theorem barGo_ltid (i : Instr) (c : BitVec 32) (th : Thread) : (barGo i c th).ltid = th.ltid := by
  unfold barGo
  split
  · rw [Thread.next_ltid, putD_ltid]
  · rfl

theorem barGo_arrived (hb : barShape i = some (l, how, waits)) (c : BitVec 32) (th : Thread) :
    barGo i c (arrivedThread l waits th)
      = if waits then { th with wait := .barrier l, acted := false, kept := none } else (barToken i c th).next := by
  unfold barShape at hb
  split at hb <;> cases hb <;> rfl

/-- MBAR's mask is as read now, or as kept for this word (R336). -/
theorem maskOf_eq_barMask (s : State) (e : Site) (f : LvlOp) (th : Thread) : maskOf s e f th = barMask (.mbar f) s e th := by
  unfold maskOf barMask
  cases th.kept with
  | none => rfl
  | some k => simp only [beq_iff_eq]

/-- The barrier instructions that arrive act at their level once their core's released accesses may land (R130, R133). -/
theorem exec_of_barShape (hb : barShape i = some (l, how, waits)) (h : Runs i s e) (hl : e.t.bind l ≠ .lane) :
    exec i s = .next (s.atHigh e l (fun e s => s.whenLanded e l (barArrive i l how waits e))) := by
  have hlane : (e.t.bind l == .lane) = false := beq_eq_false_iff_ne.2 hl
  unfold barShape at hb
  split at hb <;> cases hb
  next f =>
    have hx : exec (.bar f) s = execBar f s := rfl
    rw [hx, execBar, issue_of_runs _ h, hlane]
    rfl
  next f =>
    have hx : exec (.bara f) s = execBara f s := rfl
    rw [hx, execBara, issue_of_runs _ h, hlane]
    rfl
  next f =>
    have hx : exec (.mbar f) s = execMbar f s := rfl
    rw [hx, execMbar, issue_of_runs _ h]
    simp only [maskOf_eq_barMask]
    rfl

/-- The members that act do so at the same place. -/
theorem ActsAt.place (h : ActsAt s e l e') : e'.t = e.t ∧ e'.b = e.b ∧ e'.cur.core = e.cur.core ∧ e'.cur.slot = e.cur.slot := by
  rcases h with ⟨-, rfl⟩ | ⟨-, -, -, rfl⟩ | ⟨-, -, -, rfl⟩ <;> exact ⟨rfl, rfl, rfl, rfl⟩

theorem completes_barArrive (hb : barShape i = some (l, how, waits)) (h : Runs i s e) (hl : e.t.bind l ≠ .lane) (ha : ActsAt s e l e')
    (hfree : (e.t.bind l).code < 4 ∨ landsBlocked s (fun q => q.core == e.cur.core && !q.eff.isStream) = false) :
    Completes i s (barArrive i l how waits e' s) := by
  obtain ⟨ht, -, hc, -⟩ := ha.place
  rw [Completes, exec_of_barShape hb h hl, atHigh_of_actsAt ha, whenLanded_of_free (by rw [ht, hc]; exact hfree)]

theorem completes_barHold (hb : barShape i = some (l, how, waits)) (h : Runs i s e) (hl : e.t.bind l ≠ .lane) (ha : ActsAt s e l e')
    (hhigh : 4 ≤ (e.t.bind l).code) (hblocked : landsBlocked s (fun q => q.core == e.cur.core && !q.eff.isStream) = true) :
    Completes i s s.hold := by
  obtain ⟨ht, -, hc, -⟩ := ha.place
  rw [Completes, exec_of_barShape hb h hl, atHigh_of_actsAt ha,
    whenLanded_of_blocked (by rw [ht]; exact hhigh) (by rw [hc]; exact hblocked)]

/-- Inside the block an arrival has no release side, and its sources leave no trace. -/
theorem Quiet.arrivalEdge (hlow : l ≤ e.t.blockLvl) (hn : e.names s) (hr : (s.launchOf e.b).race = false) (i : Instr) :
    Quiet s (s.arrivalEdge i e l) := by
  rw [State.arrivalEdge, State.arrivalFence, if_neg (Nat.not_lt.2 hlow)]
  exact Quiet.noteSrcs _ _ _ _ hn hr

/-- What goes before an arrival keeps the cores and the launches (R262). -/
theorem KeepsCores.arrivalEdge (hn : e.names s) (hr : (s.launchOf e.b).race = false) (i : Instr) (l : Nat) :
    KeepsCores s (s.arrivalEdge i e l) := by
  have hk : KeepsCores s (s.arrivalFence e l) := by
    unfold State.arrivalFence
    split
    · exact KeepsCores.landWhere ..
    · exact KeepsCores.refl s
  exact hk.trans (of_quiet (Quiet.noteSrcs _ _ _ _ ((hk.block? _ _).trans hn) (by rw [hk.launchOf]; exact hr)))

/-- BAR, BARA and MBAR arrive where they act (R261, R264). -/
theorem barArrive_spec (hb : barShape i = some (l, how, waits)) (hn : e.names s) (hr : (s.launchOf e.b).race = false)
    (hbar : HasBar s e l) (hmay : MayArrive s e l how waits (barMask i s e)) :
    Arrives s (barArrive i l how waits e s) e l how (barMask i s e e.ref)
      ∧ GroupGoes s (barArrive i l how waits e s) e (fun th => if waits
        then { th with wait := .barrier l, acted := false, kept := none } else (barToken i (objOf s e l th).count th).next) := by
  obtain ⟨harr, hgo⟩ := arriveAll_spec (f := barGo i) (M := fun _ e th => barMask i s e th) (fun _ _ => rfl) (barGo_ltid i)
    (Reaches.of_keeps hn (KeepsCores.arrivalEdge hn hr i l)) hn hr hbar hmay
  simp only [barGo_arrived hb] at hgo
  exact ⟨harr, hgo⟩

end

/-! ### QUIESCE -/

section
variable {f : LvlOnly} {s : State} {e : Site}

/-- The thread's part of QUIESCE at a level bound to LANE: it goes on when its core's released accesses have been performed, and waits
for them otherwise (R266). -/
def drained (now : Prop) [Decidable now] (n : Nat) (th : Thread) : Thread := if now then th.next else { th with wait := .drain n }

theorem quiesceClose_acts (h : s.isExact e.cur.slot e.b = true ∨ (s.core e.cur.core).chunk.fresh = true) (act : State → State) :
    s.quiesceClose e act = act s := by
  unfold State.quiesceClose
  split
  · rfl
  · next hx => exact closeBefore_of_fresh (h.resolve_left hx) act

/-- QUIESCE that ends no chunk acts (R133, R266). -/
theorem exec_quiesce_of_acts (h : Runs (.quiesce f) s e)
    (ha : s.isExact e.cur.slot e.b = true ∨ (s.core e.cur.core).chunk.fresh = true) : exec (.quiesce f) s = .next (
      let u := s.releasePheld e
      let n := Tab.get 0 (u.core e.cur.core).sent (u.ctxOf e.b)
      if e.t.bind f.lvl.toNat == .lane then
        (if n ≤ u.doneOf e.cur.core (u.ctxOf e.b) then u.dropL1 e.cur.core true else u).finish e
          (drained (n ≤ u.doneOf e.cur.core (u.ctxOf e.b)) n)
      else arriveAll f.lvl.toNat .quiesce (fun _ _ _ => 0) true (fun _ th => th) e u) := by
  have hx : exec (.quiesce f) s = execQuiesce f s := rfl
  rw [hx, execQuiesce, issue_of_runs _ h, quiesceClose_acts ha]
  rfl

theorem KeepsCores.send (s : State) (c x : Nat) (h : Held) : KeepsCores s (s.send c x h) := by
  refine (KeepsCores.updCore s c (f := fun k => { k with sent := Tab.set 0 k.sent x (Tab.get 0 (s.core c).sent x + 1) })
    fun _ => rfl).trans ?_
  exact of_cores rfl rfl

theorem Reaches.updBlock (hn : e.names s) (g : Block → Block) (ht : (g e.b).threads = e.b.threads) (hb : (g e.b).bars = e.b.bars)
    (hl : (g e.b).launch = e.b.launch) : Reaches s (s.updBlock e.cur.core e.cur.slot g) e :=
  ⟨rfl, g e.b, by rw [State.block?_updBlock, hn]; rfl, ht, hb, hl⟩

/-- The stores that leave an EXACT block leave what an arrival reads (R148, R266). -/
theorem Reaches.releasePheld (hn : e.names s) : Reaches s (s.releasePheld e) e := by
  unfold State.releasePheld
  dsimp only
  split
  · refine Reaches.keeps ?_ (KeepsCores.foldl (fun t h => KeepsCores.send t _ _ h) _ _)
    exact Reaches.updBlock hn _ rfl rfl rfl
  · exact Reaches.of_keeps hn (KeepsCores.refl s)

/-- A core with nothing in flight has performed all that it has released. -/
theorem doneOf_of_landed {c : Nat} (h : ∀ q ∈ s.flights, q.core ≠ c) (x : Nat) : s.doneOf c x = Tab.get 0 (s.core c).sent x := by
  have hnone : s.flights.filter (fun q => q.core == c && q.ctx == x) = [] :=
    List.filter_eq_nil_iff.2 fun q hq => by simp [h q hq]
  rw [State.doneOf, hnone]
  rfl

/-- At a level bound to LANE, with nothing in flight, QUIESCE drops the core's copies and passes (R266). -/
theorem quiesce_lane (h : Runs (.quiesce f) s e) (hx : s.isExact e.cur.slot e.b = false)
    (ha : s.isExact e.cur.slot e.b = true ∨ (s.core e.cur.core).chunk.fresh = true) (hl : e.t.bind f.lvl.toNat = .lane)
    (hlanded : ∀ q ∈ s.flights, q.core ≠ e.cur.core) :
    Completes (.quiesce f) s ((s.dropL1 e.cur.core true).pass e) := by
  have hheld : s.releasePheld e = s := by rw [State.releasePheld, hx]; rfl
  have hdone := doneOf_of_landed hlanded (s.ctxOf e.b)
  have hpass : drained (Tab.get 0 (s.core e.cur.core).sent (s.ctxOf e.b) ≤ Tab.get 0 (s.core e.cur.core).sent (s.ctxOf e.b))
      (Tab.get 0 (s.core e.cur.core).sent (s.ctxOf e.b)) = Thread.next := funext fun th => if_pos (Nat.le_refl _)
  rw [Completes, exec_quiesce_of_acts h ha, hheld]
  dsimp only
  rw [hdone, hl, hpass, if_pos (Nat.le_refl _)]
  rfl

/-- Otherwise it arrives (R266). -/
theorem completes_quiesce (h : Runs (.quiesce f) s e)
    (ha : s.isExact e.cur.slot e.b = true ∨ (s.core e.cur.core).chunk.fresh = true) (hl : e.t.bind f.lvl.toNat ≠ .lane) :
    Completes (.quiesce f) s (arriveAll f.lvl.toNat .quiesce (fun _ _ _ => 0) true (fun _ th => th) e (s.releasePheld e)) := by
  rw [Completes, exec_quiesce_of_acts h ha]
  exact congrArg Host.Outcome.next (if_neg (by simpa using hl))

end

/-! ### BARW -/

section
variable {f : LvlOp} {s : State} {e : Site}

/-- The thread's token (R264). -/
def barwToken (s : State) (e : Site) (f : LvlOp) (th : Thread) : BitVec 32 := (e.read s th f.o).extractLsb' 0 32

/-- A thread whose token is the count waits, another goes on (R264). -/
def barwThread (s : State) (e : Site) (f : LvlOp) (th : Thread) : Thread :=
  if (objOf s e f.lvl.toNat th).count = barwToken s e f th
  then { th with wait := .barw f.lvl.toNat (barwToken s e f th), acted := false }
  else (th.joinClk (objOf s e f.lvl.toNat th).clkOut).next

/-- BARW at a level inside the block whose transfers have not failed (R264). -/
theorem completes_barw (h : Runs (.barw f) s e) (hl : e.t.bind f.lvl.toNat ≠ .lane) (hlow : f.lvl.toNat ≤ e.t.blockLvl)
    (hcode : (e.t.bind f.lvl.toNat).code < 4)
    (hldx : ∀ th ∈ e.act, failedLdx e.b f.lvl.toNat (barNode e.t f.lvl.toNat e.b th.ltid) = none) :
    Completes (.barw f) s (((s.acts e).noteSources e [f.o]).finish e (barwThread s e f)) := by
  have hx : exec (.barw f) s = execBarw f s := rfl
  have hlane : (e.t.bind f.lvl.toNat == .lane) = false := beq_eq_false_iff_ne.2 hl
  have hhigh : ¬ e.t.blockLvl < f.lvl.toNat := Nat.not_lt.2 hlow
  have hnone : (e.act.filter (fun th => (s.bar e.b e.t f.lvl.toNat (barNode e.t f.lvl.toNat e.b th.ltid)).count
      == (e.read s th f.o).extractLsb' 0 32)).findSome? (fun th =>
      failedLdx e.b f.lvl.toNat (barNode e.t f.lvl.toNat e.b th.ltid)) = none :=
    List.findSome?_eq_none_iff.2 fun th hth => hldx th (List.mem_of_mem_filter hth)
  rw [Completes, hx, execBarw, issue_of_runs _ h, hlane, if_neg Bool.false_ne_true, atHigh_of_actsAt (Or.inl ⟨hcode, rfl⟩)]
  dsimp only
  rw [if_neg hhigh, if_neg hhigh, hnone, decide_eq_false hhigh]
  simp only [beq_iff_eq]
  rfl

end

/-! ### A level bound to LANE -/

section
variable {i : Instr} {g : Thread → Thread} {s : State} {e : Site} {l : Nat}

/-- A barrier instruction at a level bound to LANE is a fence that moves its members on (R264). -/
theorem exec_of_laneBar (hb : laneBar i = some (l, g)) (h : Runs i s e) (hl : e.t.bind l = .lane) :
    exec i s = .next (laneBarrier i l g e s) := by
  have hlane : (e.t.bind l == .lane) = true := beq_iff_eq.2 hl
  unfold laneBar at hb
  split at hb <;> cases hb
  next f =>
    have hx : exec (.bar f) s = execBar f s := rfl
    rw [hx, execBar, issue_of_runs _ h, hlane, if_pos rfl]
  next f =>
    have hx : exec (.barw f) s = execBarw f s := rfl
    rw [hx, execBarw, issue_of_runs _ h, hlane, if_pos rfl]
  next f =>
    have hx : exec (.bara f) s = execBara f s := rfl
    rw [hx, execBara, issue_of_runs _ h, hlane, if_pos rfl]
    rfl

theorem laneBar_ltid (hb : laneBar i = some (l, g)) (th : Thread) : (g th).ltid = th.ltid := by
  unfold laneBar at hb
  split at hb <;> cases hb
  · rfl
  · rfl
  · exact putD_ltid _ _ _

theorem laneBarrier_off (hn : e.names s) (hr : (s.launchOf e.b).race = false) :
    laneBarrier i l g e s = (s.noted i e).finish e (fun th => (g th).next) := by
  have q := Quiet.noted s i e hn hr
  have hoff : (s.noted i e).fenceClocks e l true true = s.noted i e := fenceClocks_off _ (by rw [q.launchOf]; exact hr) ..
  rw [laneBarrier, ← State.noted, hoff]

end

/-- Settles O31: the arrivals inside the block, where a word can act, and of QUIESCE; then the tokens of BARW and the levels bound to
LANE. -/
theorem barrierWords : Obligations.BarrierWords := by
  refine ⟨fun i l how waits hb s e h hr hl hlow hcode hmay => ?_, fun i l how waits hb s e e' h hl ha => ⟨fun hfree => ?_,
    completes_barHold hb h hl ha⟩, fun f s e h ha => ⟨fun hl => ?_, fun hl hx hlanded => ?_⟩, fun f s e h hr hl hlow hcode hldx => ?_,
    fun i g l hb s e h hr hl => ?_⟩
  · have hn := State.site?_names h.1
    obtain ⟨harr, hgo⟩ := barArrive_spec hb hn hr (Or.inl hlow) hmay
    obtain ⟨b', hb', honly, hheld, hblock⟩ := arriveAll_only (f := barGo i) (M := fun _ e th => barMask i s e th) (fun _ _ => rfl)
      (Quiet.arrivalEdge hlow hn hr i) hn hr hlow hmay
    exact ⟨_, b', completes_barArrive hb h hl (Or.inl ⟨hcode, rfl⟩) (Or.inl hcode), hgo, harr, hb', honly, hheld, hblock⟩
  · refine ⟨barGo i, _, completes_barArrive hb h hl ha hfree, rfl, fun hr hlow hbar hmay => ?_⟩
    obtain ⟨ht, heb, hc, hsl⟩ := ha.place
    have hn : e'.names s := by
      rw [Site.names, hc, hsl, heb]
      exact State.site?_names h.1
    have hobj : ∀ th, objOf s e' l th = objOf s e l th := fun th => by rw [objOf, objOf, ht, heb]
    obtain ⟨harr, hgo⟩ := barArrive_spec hb hn (by rw [heb]; exact hr) (by rw [HasBar, ht, heb]; exact hbar) hmay
    simp only [hobj] at hgo
    exact ⟨harr, hgo⟩
  · have hn := State.site?_names h.1
    exact ⟨_, _, completes_quiesce h ha hl, rfl, fun hr hbar hmay =>
      arriveAll_spec (f := fun _ th => th) (fun _ _ => rfl) (fun _ _ => rfl) (Reaches.releasePheld hn) hn hr hbar hmay⟩
  · refine ⟨_, quiesce_lane h hx ha hl hlanded, (KeepsCores.dropL1 ..).goes (State.finish_goes _ _ _ fun _ => rfl), ?_⟩
    rw [State.pass, l1_finish, l1_dropL1, if_pos rfl]
  · have q := Quiet.notes (State.site?_names h.1) hr [f.o]
    refine ⟨_, completes_barw h hl hlow hcode hldx, (q.only e).trans (State.finish_only _ _ _),
      q.goes (State.finish_goes _ _ _ fun th => ?_)⟩
    unfold barwThread
    split <;> rfl
  · have hn := State.site?_names h.1
    refine ⟨_, (exec_of_laneBar hb h hl).trans (by rw [laneBarrier_off hn hr]), ?_, State.finish_noted_only s i e _ hn hr⟩
    exact (Quiet.noted s i e hn hr).goes (State.finish_goes _ _ _ fun th => (Thread.next_ltid _).trans (laneBar_ltid hb th))

end Sys2Proof.Machine
end

section
/-! Proof of O13: illegal words take ILLEGAL, and privileged words outside the handler thread take PRIV (R183, R184, R341, R387). -/

namespace Sys2Proof.Machine

section
variable {w : Word} {act : Thread → Bool} {s : State} {e : Site}

/-- A word with a fault other than MEMERR before its effect takes it, whatever its effect would be (R387). -/
theorem issueWith_takes (body : Site → State → State) (h : s.site? act = some e) (ha : e.act ≠ []) {code sub : Nat}
    {emask eaddr : Word} (hf : preFault s e w = some ⟨code, sub, emask, eaddr⟩) (hc : code ≠ 0x0B) :
    issueWith w act body s = s.takeFault e.cur code sub emask eaddr := by
  rw [issueWith_of_fault body h ha hf, State.faultLast_of_code _ _ _ _ _ hc, State.fault]

/-- The first check before an effect is that of the encoding (R184). -/
theorem preFault_of_illegal {c : Illegal} (h : illegal e.t.lanes w = some c) :
    preFault s e w = some ⟨1, c.code.toNat, laneMask e.act, w⟩ := by
  rw [preFault, h]

/-- The second is that of the value that a SYSWR writes (R345). -/
theorem preFault_of_sysValueBad (h : illegal e.t.lanes w = none) (hv : sysValueBad s e w = true) :
    preFault s e w = some ⟨1, 7, laneMask e.act, w⟩ := by
  simp only [preFault, h, hv, ↓reduceIte]

/-- The third is that of the privilege (R341). -/
theorem preFault_of_privileged (h : illegal e.t.lanes w = none) (hv : sysValueBad s e w = false) (hp : privileged w = true)
    (hs : e.cur.slot ≠ handlerSlot) : preFault s e w = some ⟨0x0F, 0, laneMask e.act, w⟩ := by
  have hs' : (e.cur.slot != handlerSlot) = true := bne_iff_ne.2 hs
  simp only [preFault, h, hv, hp, hs', Bool.and_self, Bool.true_or, Bool.false_eq_true, ↓reduceIte]

end

/-- Settles O13: by the order of the checks before an effect. -/
theorem illegalAndPrivilegedWords : Obligations.IllegalAndPrivilegedWords :=
  ⟨fun _ _ body _ _ _ hs ha hi => issueWith_takes body hs ha (preFault_of_illegal hi) (by decide),
    fun _ _ body _ _ hs ha hi hv => issueWith_takes body hs ha (preFault_of_sysValueBad hi hv) (by decide),
    fun _ _ body _ _ hs ha hi hv hp hn =>
      issueWith_takes body hs ha (preFault_of_privileged hi hv hp hn) (by decide)⟩

end Sys2Proof.Machine
end

section
/-! Proof of O11: both halves of a paired word read before either writes (R177-R179). -/

namespace Sys2Proof.Machine

@[simp] theorem halfDoes_ltid (old th : Thread) (h : Half) : (halfDoes old h th).ltid = th.ltid := by
  unfold halfDoes
  split
  · rfl
  · rw [Thread.flag_ltid, putD_ltid]

/-- A paired word issues for the members active in either half, and carries out half A, then half B. -/
theorem exec_of_pairHalves {i : Instr} {a b : Half} (h : pairHalves i = some (a, b)) (s : State) :
    exec i s = .next (issueWith (wordOf i) (pairActive (wordOf i))
      (simple i (fun _ _ th => halfDoes th b (halfDoes th a th))) s) := by
  unfold pairHalves at h
  split at h <;> cases h <;> rfl

/-- Settles O11: a paired word finishes its group with both halves' effects, each taken from the thread before the word. -/
theorem pairedWords : Obligations.PairedWords := by
  intro i a b hi s e h
  have hgo : ∀ th, (halfDoes th b (halfDoes th a th)).next.ltid = th.ltid := fun th => by simp
  refine ⟨_, exec_of_pairHalves hi s, ?_⟩
  rw [issueWith_of_runs _ h]
  exact ⟨State.finish_goes _ _ _ hgo, fun hr => State.finish_noted_only s i e _ (State.site?_names h.1) hr⟩

end Sys2Proof.Machine
end

section
/-! Proof of O1, first part: the fields of a word in each format (R166, R167, R177). -/

namespace Sys2Proof
open BitVec

/-! ### Bits -/

theorem getLsbD_bit (x : Bool) : (bit x).getLsbD 0 = x := by cases x <;> rfl
@[simp] theorem getElem_bit (x : Bool) : (bit x)[0] = x := by cases x <;> rfl

/-- The bits of a mask. -/
theorem getLsbD_mask (lo n : Nat) {i : Nat} (hi : i < 64) : (mask lo n).getLsbD i = (decide (lo ≤ i) && decide (i < lo + n)) := by
  rw [mask, getLsbD_ofNat, Nat.testBit_mul_two_pow, Nat.testBit_two_pow_sub_one, decide_eq_true hi, Bool.true_and]
  by_cases h : lo ≤ i
  · simp only [h, decide_true, Bool.true_and, decide_eq_decide]; omega
  · simp [h]

/-- No bit of a word stands under a mask when the field there is zero. -/
@[simp] theorem and_mask_eq_zero (w : Word) {lo n : Nat} (h : lo + n ≤ 64) :
    w &&& mask lo n = 0#64 ↔ w.extractLsb' lo n = 0#n := by
  constructor
  · intro hw
    refine eq_of_getLsbD_eq fun i hi => ?_
    have hb := congrArg (fun x : Word => x.getLsbD (lo + i)) hw
    simp only [getLsbD_and, getLsbD_mask lo n (show lo + i < 64 by omega)] at hb
    simpa [hi] using hb
  · intro hw
    refine eq_of_getLsbD_eq fun i hi => ?_
    rw [getLsbD_and, getLsbD_mask lo n hi, getLsbD_zero]
    by_cases hm : lo ≤ i ∧ i < lo + n
    · obtain ⟨hl, hr⟩ := hm
      have hb := congrArg (fun x : BitVec n => x.getLsbD (i - lo)) hw
      simp only [getLsbD_extractLsb', getLsbD_zero, Nat.add_sub_cancel' hl, show i - lo < n by omega, decide_true,
        Bool.true_and] at hb
      rw [hb, Bool.false_and]
    · rw [Bool.and_eq_false_iff, Bool.and_eq_false_iff, decide_eq_false_iff_not, decide_eq_false_iff_not]
      omega

@[simp] theorem and_or_eq_zero (w x y : Word) : w &&& (x ||| y) = 0#64 ↔ w &&& x = 0#64 ∧ w &&& y = 0#64 := by
  rw [BitVec.and_or_distrib_left, or_eq_zero_iff]

@[simp] theorem and_ite_eq_zero (w x y : Word) (p : Prop) [Decidable p] :
    w &&& (if p then x else y) = 0#64 ↔ if p then w &&& x = 0#64 else w &&& y = 0#64 := by
  split <;> rfl

/-! ### FR -/

section
variable (op : BitVec 8) (g : Guard) (m : BitVec 7) (d a b c : BitVec 10) {s n : Nat}

@[simp] theorem fields_encFR : fOp (encFR op g m d a b c) = op ∧ fG (encFR op g m d a b c) = g
    ∧ fD (encFR op g m d a b c) = d ∧ fA (encFR op g m d a b c) = a ∧ fB (encFR op g m d a b c) = b
    ∧ fC (encFR op g m d a b c) = c := by
  simp only [encFR, fOp, fG, fD, fA, fB, fC, extractLsb'_append_eq_of_le, extractLsb'_append_eq_of_add_le, getLsbD_append,
    Nat.reduceLeDiff, Nat.reduceLT, Nat.reduceSub, ↓reduceIte, extractLsb'_eq_self, getLsbD_bit, and_true]

theorem getLsbD_encFR_pairBit : (encFR op g m d a b c).getLsbD 63 = false := by
  unfold encFR
  repeat rw [getLsbD_append, if_neg (by decide)]
  rfl

@[simp] theorem extract_mod_encFR (h : 40 ≤ s) (h' : s + n ≤ 47) :
    (encFR op g m d a b c).extractLsb' s n = m.extractLsb' (s - 40) n := by
  unfold encFR
  repeat rw [extractLsb'_append_eq_of_le (by omega)]
  rw [extractLsb'_append_eq_of_add_le (by omega)]
  simp only [Nat.sub_sub]

@[simp] theorem extract_c_encFR (h : s + n ≤ 10) : (encFR op g m d a b c).extractLsb' s n = c.extractLsb' s n :=
  extractLsb'_append_eq_of_add_le h

@[simp] theorem bit_mod_encFR (hs : s < 64) (h : 40 ≤ s) (h' : s < 47) :
    (encFR op g m d a b c)[s] = m.getLsbD (s - 40) := by
  rw [← getLsbD_eq_getElem, encFR]
  repeat rw [getLsbD_append, if_neg (by omega)]
  rw [getLsbD_append, if_pos (by omega)]
  simp only [Nat.sub_sub]

@[simp] theorem bit_c_encFR (hs : s < 64) (h : s < 10) : (encFR op g m d a b c)[s] = c.getLsbD s := by
  rw [← getLsbD_eq_getElem, encFR, getLsbD_append, if_pos h]

end

/-! ### FI -/

section
variable (op : BitVec 8) (g : Guard) (m : BitVec 3) (d a : BitVec 10) (imm : BitVec 24) {s n : Nat}

@[simp] theorem fields_encFI : fG (encFI op g m d a imm) = g ∧ fIMod (encFI op g m d a imm) = m
    ∧ fID (encFI op g m d a imm) = d ∧ fImm (encFI op g m d a imm) = imm := by
  simp only [encFI, fG, fIMod, fID, fImm, extractLsb'_append_eq_of_le, extractLsb'_append_eq_of_add_le, getLsbD_append,
    Nat.reduceLeDiff, Nat.reduceLT, Nat.reduceSub, ↓reduceIte, extractLsb'_eq_self, getLsbD_bit, and_true]

@[simp] theorem extract_mod_encFI (h : 44 ≤ s) (h' : s + n ≤ 47) :
    (encFI op g m d a imm).extractLsb' s n = m.extractLsb' (s - 44) n := by
  unfold encFI
  repeat rw [extractLsb'_append_eq_of_le (by omega)]
  rw [extractLsb'_append_eq_of_add_le (by omega)]
  simp only [Nat.sub_sub]

@[simp] theorem extract_imm_encFI (h : s + n ≤ 24) : (encFI op g m d a imm).extractLsb' s n = imm.extractLsb' s n :=
  extractLsb'_append_eq_of_add_le h

@[simp] theorem bit_mod_encFI (hs : s < 64) (h : 44 ≤ s) (h' : s < 47) :
    (encFI op g m d a imm)[s] = m.getLsbD (s - 44) := by
  rw [← getLsbD_eq_getElem, encFI]
  repeat rw [getLsbD_append, if_neg (by omega)]
  rw [getLsbD_append, if_pos (by omega)]
  simp only [Nat.sub_sub]

end

/-! ### FM -/

section
variable (op : BitVec 8) (g : Guard) (m : BitVec 7) (d a : BitVec 10) (off : BitVec 20) {s n : Nat}

@[simp] theorem fields_encFM : fOp (encFM op g m d a off) = op ∧ fG (encFM op g m d a off) = g
    ∧ fD (encFM op g m d a off) = d ∧ fA (encFM op g m d a off) = a ∧ fMOff (encFM op g m d a off) = off := by
  simp only [encFM, fOp, fG, fD, fA, fMOff, extractLsb'_append_eq_of_le, extractLsb'_append_eq_of_add_le, getLsbD_append,
    Nat.reduceLeDiff, Nat.reduceLT, Nat.reduceSub, ↓reduceIte, extractLsb'_eq_self, getLsbD_bit, and_true]

theorem getLsbD_encFM_pairBit : (encFM op g m d a off).getLsbD 63 = false := by
  unfold encFM
  repeat rw [getLsbD_append, if_neg (by decide)]
  rfl

@[simp] theorem extract_mod_encFM (h : 40 ≤ s) (h' : s + n ≤ 47) :
    (encFM op g m d a off).extractLsb' s n = m.extractLsb' (s - 40) n := by
  unfold encFM
  repeat rw [extractLsb'_append_eq_of_le (by omega)]
  rw [extractLsb'_append_eq_of_add_le (by omega)]
  simp only [Nat.sub_sub]

@[simp] theorem bit_mod_encFM (hs : s < 64) (h : 40 ≤ s) (h' : s < 47) :
    (encFM op g m d a off)[s] = m.getLsbD (s - 40) := by
  rw [← getLsbD_eq_getElem, encFM]
  repeat rw [getLsbD_append, if_neg (by omega)]
  rw [getLsbD_append, if_pos (by omega)]
  simp only [Nat.sub_sub]

end

/-! ### FB and FL -/

section
variable (op : BitVec 8) (g : Guard) (m : BitVec 5) (a : BitVec 10) (off : BitVec 32) {s n : Nat}

@[simp] theorem fields_encFB : fG (encFB op g m a off) = g ∧ fBMod (encFB op g m a off) = m
    ∧ fBA (encFB op g m a off) = a ∧ fBOff (encFB op g m a off) = off := by
  simp only [encFB, fG, fBMod, fBA, fBOff, extractLsb'_append_eq_of_le, extractLsb'_append_eq_of_add_le, getLsbD_append,
    Nat.reduceLeDiff, Nat.reduceLT, Nat.reduceSub, ↓reduceIte, extractLsb'_eq_self, getLsbD_bit, and_true]

@[simp] theorem extract_mod_encFB (h : 42 ≤ s) (h' : s + n ≤ 47) :
    (encFB op g m a off).extractLsb' s n = m.extractLsb' (s - 42) n := by
  unfold encFB
  repeat rw [extractLsb'_append_eq_of_le (by omega)]
  rw [extractLsb'_append_eq_of_add_le (by omega)]
  simp only [Nat.sub_sub]

@[simp] theorem extract_off_encFB (h : s + n ≤ 32) : (encFB op g m a off).extractLsb' s n = off.extractLsb' s n :=
  extractLsb'_append_eq_of_add_le h

@[simp] theorem bit_mod_encFB (hs : s < 64) (h : 42 ≤ s) (h' : s < 47) :
    (encFB op g m a off)[s] = m.getLsbD (s - 42) := by
  rw [← getLsbD_eq_getElem, encFB]
  repeat rw [getLsbD_append, if_neg (by omega)]
  rw [getLsbD_append, if_pos (by omega)]
  simp only [Nat.sub_sub]

end

/-! ### FC -/

section
variable (g : Guard) (fn : BitVec 7) (d a b : BitVec 10) (stream lvl : BitVec 4)

@[simp] theorem fields_encFC : fOp (encFC g fn d a b stream lvl) = 0xD8 ∧ fG (encFC g fn d a b stream lvl) = g
    ∧ fMod (encFC g fn d a b stream lvl) = fn ∧ fD (encFC g fn d a b stream lvl) = d
    ∧ fA (encFC g fn d a b stream lvl) = a ∧ fB (encFC g fn d a b stream lvl) = b
    ∧ fStream (encFC g fn d a b stream lvl) = stream ∧ fXLvl (encFC g fn d a b stream lvl) = lvl := by
  simp only [encFC, fOp, fG, fMod, fD, fA, fB, fStream, fXLvl, extractLsb'_append_eq_of_le, extractLsb'_append_eq_of_add_le,
    getLsbD_append, Nat.reduceLeDiff, Nat.reduceLT, Nat.reduceSub, ↓reduceIte, extractLsb'_eq_self, getLsbD_bit, and_true]
  rfl

theorem getLsbD_encFC_pairBit : (encFC g fn d a b stream lvl).getLsbD 63 = false := by
  unfold encFC
  repeat rw [getLsbD_append, if_neg (by decide)]
  rfl

/-- The level, and the two bits below it, that no engine function uses. -/
@[simp] theorem extract_low_encFC : (encFC g fn d a b stream lvl).extractLsb' 2 4 = lvl
    ∧ (encFC g fn d a b stream lvl).extractLsb' 0 2 = 0#2 := by
  simp only [encFC, extractLsb'_append_eq_of_le, extractLsb'_append_eq_of_add_le, Nat.reduceLeDiff, Nat.reduceSub,
    extractLsb'_eq_self, and_true]

end

/-! ### FS -/

section
variable (op : BitVec 8) (g : Guard) (lvl : BitVec 4) (m : BitVec 7) (d a b : BitVec 10) (imm : BitVec 6) {s n : Nat}

@[simp] theorem fields_encFS : fG (encFS op g lvl m d a b imm) = g ∧ fSLvl (encFS op g lvl m d a b imm) = lvl
    ∧ (encFS op g lvl m d a b imm).extractLsb' 43 4 = lvl ∧ fSD (encFS op g lvl m d a b imm) = d
    ∧ fSA (encFS op g lvl m d a b imm) = a ∧ fSB (encFS op g lvl m d a b imm) = b
    ∧ fSImm (encFS op g lvl m d a b imm) = imm := by
  simp only [encFS, fG, fSLvl, fSD, fSA, fSB, fSImm, extractLsb'_append_eq_of_le, extractLsb'_append_eq_of_add_le,
    getLsbD_append, Nat.reduceLeDiff, Nat.reduceLT, Nat.reduceSub, ↓reduceIte, extractLsb'_eq_self, getLsbD_bit, and_true]

@[simp] theorem extract_mod_encFS (h : 36 ≤ s) (h' : s + n ≤ 43) :
    (encFS op g lvl m d a b imm).extractLsb' s n = m.extractLsb' (s - 36) n := by
  unfold encFS
  repeat rw [extractLsb'_append_eq_of_le (by omega)]
  rw [extractLsb'_append_eq_of_add_le (by omega)]
  simp only [Nat.sub_sub]

@[simp] theorem extract_imm_encFS (h : s + n ≤ 6) :
    (encFS op g lvl m d a b imm).extractLsb' s n = imm.extractLsb' s n :=
  extractLsb'_append_eq_of_add_le h

@[simp] theorem bit_mod_encFS (hs : s < 64) (h : 36 ≤ s) (h' : s < 43) :
    (encFS op g lvl m d a b imm)[s] = m.getLsbD (s - 36) := by
  rw [← getLsbD_eq_getElem, encFS]
  repeat rw [getLsbD_append, if_neg (by omega)]
  rw [getLsbD_append, if_pos (by omega)]
  simp only [Nat.sub_sub]

end

end Sys2Proof
end

section
/-! Proof of O1, second part: what a legal word is, and the codes of the modifier fields (R170-R175, R182). -/

namespace Sys2Proof

/-! ### Fields that stand side by side -/

section
open BitVec

/-- What is read of two fields side by side, the lower one `y`. -/
abbrev ReadsAppend {v k : Nat} (x : BitVec v) (y : BitVec k) : Prop :=
  (∀ {s n : Nat}, k ≤ s → (x ++ y).extractLsb' s n = x.extractLsb' (s - k) n)
    ∧ (∀ {s n : Nat}, s + n ≤ k → (x ++ y).extractLsb' s n = y.extractLsb' s n)
    ∧ (∀ {s : Nat} (h : s < v + k), k ≤ s → (x ++ y)[s] = x.getLsbD (s - k))
    ∧ (∀ {s : Nat} (h : s < v + k), s < k → (x ++ y)[s] = y.getLsbD s)

theorem readsAppend {v k : Nat} (x : BitVec v) (y : BitVec k) : ReadsAppend x y :=
  ⟨extractLsb'_append_eq_of_le, extractLsb'_append_eq_of_add_le,
    fun h hs => by rw [getElem_append, dif_neg (Nat.not_lt.2 hs), getLsbD_eq_getElem],
    fun h hs => by rw [getElem_append, dif_pos hs, getLsbD_eq_getElem]⟩

/-! `simp` finds these rules where the width of the lower field is a numeral: the widths that the manual's modifier fields have. -/

variable {v : Nat} (x : BitVec v)

@[simp] theorem readsAppend_one (y : BitVec 1) : ReadsAppend x y := readsAppend x y
@[simp] theorem readsAppend_two (y : BitVec 2) : ReadsAppend x y := readsAppend x y
@[simp] theorem readsAppend_three (y : BitVec 3) : ReadsAppend x y := readsAppend x y
@[simp] theorem readsAppend_four (y : BitVec 4) : ReadsAppend x y := readsAppend x y
@[simp] theorem readsAppend_seven (y : BitVec 7) : ReadsAppend x y := readsAppend x y
@[simp] theorem readsAppend_eight (y : BitVec 8) : ReadsAppend x y := readsAppend x y
@[simp] theorem readsAppend_twelve (y : BitVec 12) : ReadsAppend x y := readsAppend x y

end

/-! ### Codes -/

@[simp] theorem IntW.ofCode_code (x : IntW) : IntW.ofCode x.code = x := by cases x <;> rfl
@[simp] theorem FFmt.ofCode_code (x : FFmt) : FFmt.ofCode x.code = x := by cases x <;> rfl
@[simp] theorem RM.ofCode_code (x : RM) : RM.ofCode x.code = x := by cases x <;> rfl
@[simp] theorem RedOp.ofCode_code (x : RedOp) : RedOp.ofCode x.code = x := by cases x <;> rfl
@[simp] theorem MemW.ofCode_code (x : MemW) : MemW.ofCode x.code = x := by cases x <;> rfl
@[simp] theorem Hop.ofCode_code (x : Hop) : Hop.ofCode x.code = x := by cases x <;> rfl

@[simp] theorem IntW.code_le (x : IntW) : x.code.toNat ≤ 4 := by cases x <;> decide
@[simp] theorem FFmt.code_le (x : FFmt) : x.code.toNat ≤ 4 := by cases x <;> decide
@[simp] theorem MemW.code_le (x : MemW) : x.code.toNat ≤ 3 := by cases x <;> decide
@[simp] theorem Hop.code_le (x : Hop) : x.code.toNat ≤ 22 := by cases x <;> decide

@[simp] theorem FFmt.code_eq_zero (x : FFmt) : x.code = 0#3 ↔ x = .f64 := by cases x <;> decide
@[simp] theorem IntW.code_eq_zero (x : IntW) : x.code = 0#3 ↔ x = .w64 := by cases x <;> decide

/-- No rounding mode has code 5 or 6 (R80). -/
@[simp] theorem RM.code_ne (x : RM) : x.code.toNat ≠ 5 ∧ x.code.toNat ≠ 6 := by cases x <;> decide

@[simp] theorem ftzOk_eq_true (fmt : FFmt) (ftz : Bool) : ftzOk fmt ftz = true ↔ (ftz = true → fmt ≠ .f64) := by
  cases ftz <;> simp [ftzOk]

/-! ### Operands and slots -/

theorem Operand.enc_eq_zero (o : Operand) : o.enc = 0#10 ↔ o = .unused := by
  constructor
  · intro h
    have hd := o.dec_enc
    rw [h] at hd
    exact (Option.some.inj hd).symm
  · rintro rfl
    rfl

/-- With all lane registers present, each lane specifier names one (R47). -/
theorem lanePresent_sixteen {i : Nat} (h : i < 128) : lanePresent 16 i = true := by
  simp only [lanePresent, Bool.or_eq_true, Bool.and_eq_true, decide_eq_true_eq]
  omega

theorem lanePresent_reg (x : BitVec 7) : lanePresent 16 x.toNat = true := lanePresent_sixteen x.isLt

/-- A slot of a word passes the checks of R182 on its specifier, with every lane register present. -/
def slotLegal (p : BitVec 10 × SlotKind) : Bool :=
  !slotReserved p && !slotRefused p && !slotAbsent 16 p && !slotUnused p

theorem slotReserved_enc (o : Operand) (k : SlotKind) : slotReserved (o.enc, k) = !o.ok := by
  rw [slotReserved, Operand.dec_enc]

/-- An unused field is looked at for a reserved specifier and for not being zero (R169). -/
theorem slotLegal_unused {k : SlotKind} (hk : k = .unused ∨ k = .params 0) (o : Operand) :
    slotLegal (o.enc, k) = (o.ok && o == .unused) := by
  have hb : (k == .unused || k == .params 0) = true := by simpa using hk
  have href : slotRefused (o.enc, k) = false := by rcases hk with rfl | rfl <;> rfl
  have habs : slotAbsent 16 (o.enc, k) = false := by
    rw [slotAbsent, if_pos hb, Bool.and_eq_false_iff, decide_eq_false_iff_not, Bool.not_eq_false']
    exact (Nat.lt_or_ge _ _).symm.imp Nat.not_lt.2 lanePresent_sixteen
  have hun : slotUnused (o.enc, k) = !(o == .unused) := by
    rw [slotUnused, hb, Bool.true_and, bne, Bool.not_inj_iff, Bool.eq_iff_iff, beq_iff_eq, beq_iff_eq]
    exact o.enc_eq_zero
  rw [slotLegal, slotReserved_enc, href, habs, hun]
  simp

/-- The encoding of an operand passes the checks of a slot when the slot takes the operand. -/
@[simp] theorem slotLegal_enc (o : Operand) (k : SlotKind) : slotLegal (o.enc, k) = k.takes o := by
  by_cases hk : k = .unused ∨ k = .params 0
  · rw [slotLegal_unused hk, SlotKind.takes]
    rcases hk with rfl | rfl
    · simp [SlotKind.accepts, SlotKind.present]
    · cases o <;> simp [SlotKind.accepts, SlotKind.present]
  · obtain ⟨hu, hp⟩ := not_or.1 hk
    have hu' : (k == .unused) = false := beq_eq_false_iff_ne.2 hu
    have hp' : (k == .params 0) = false := beq_eq_false_iff_ne.2 hp
    simp [slotLegal, slotReserved_enc, slotRefused, slotAbsent, slotUnused, SlotKind.takes, bne, hu', hp']

@[simp] theorem slotLegal_zero : slotLegal (0#10, .unused) = true := by decide

/-! ### Words -/

/-- A word meets every condition of R182 on a word of its shape. -/
structure WordShape.Admits (sh : WordShape) (w : Word) : Prop where
  guard : (fG w).ok = true
  slots : ∀ p ∈ sh.slots, slotLegal p = true
  assigned : sh.bad = false
  unused : w &&& sh.zero = 0
  offset : sh.off = true → offOk (fBOff w) = true

theorem WordShape.admits_iff (sh : WordShape) (w : Word) : sh.Admits w ↔
    (fG w).ok = true ∧ (∀ p ∈ sh.slots, slotLegal p = true) ∧ sh.bad = false ∧ w &&& sh.zero = 0
      ∧ (sh.off = true → offOk (fBOff w) = true) :=
  ⟨fun ⟨hg, hs, hb, hz, ho⟩ => ⟨hg, hs, hb, hz, ho⟩, fun ⟨hg, hs, hb, hz, ho⟩ => ⟨hg, hs, hb, hz, ho⟩⟩

/-- A full word that its shape admits has no subcode of R182. -/
theorem illegalFull_of_admits {w : Word} {sh : WordShape} (hs : wordShape w = some sh) (h : sh.Admits w) :
    illegalFull 16 w = none := by
  obtain ⟨hg, hslots, hbad, hzero, hoff⟩ := h
  simp only [slotLegal, Bool.and_eq_true, Bool.not_eq_true'] at hslots
  have hres : sh.slots.any slotReserved = false := List.any_eq_false.2 fun p hp => by simp [hslots p hp]
  have href : sh.slots.any slotRefused = false := List.any_eq_false.2 fun p hp => by simp [hslots p hp]
  have habs : sh.slots.any (slotAbsent 16) = false := List.any_eq_false.2 fun p hp => by simp [hslots p hp]
  have hun : sh.slots.any slotUnused = false := List.any_eq_false.2 fun p hp => by simp [hslots p hp]
  have hoff' : (sh.off && (fBOff w).toNat % 8 != 0) = false := by
    cases ho : sh.off
    · rfl
    · simpa [offOk] using hoff ho
  simp [illegalFull, hs, hg, hres, href, habs, hbad, hzero, hun, hoff']

/-- A row of the opcode table: the shape of its words, and what they are read as (R180). -/
def Row (op : BitVec 8) (sh : Word → WordShape) (rd : Word → Instr) : Prop :=
  ∀ w, fOp w = op → wordShape w = some (sh w) ∧ readFull w = some (rd w)

/-- A full word that the shape of its opcode admits decodes to what it is read as. -/
theorem decode_of_admits {w : Word} {sh : WordShape} {i : Instr} (hp : w.getLsbD 63 = false) (hs : wordShape w = some sh)
    (hr : readFull w = some i) (h : sh.Admits w) : decode w = .ok i := by
  simp only [decode, illegal, hp, Bool.false_eq_true, ↓reduceIte, illegalFull_of_admits hs h, hr]

theorem Row.decode {op : BitVec 8} {sh : Word → WordShape} {rd : Word → Instr} (row : Row op sh rd) {w : Word}
    (hop : fOp w = op) (hp : w.getLsbD 63 = false) (h : (sh w).Admits w) : Sys2Proof.decode w = .ok (rd w) :=
  decode_of_admits hp (row w hop).1 (row w hop).2 h

/-! ### Rows of a format -/

namespace Row
variable {op : BitVec 8} {sh : Word → WordShape} {rd : Word → Instr} {i : Instr} {g : Guard} {a b c d : BitVec 10}

theorem decode_encFR {m : BitVec 7} (row : Row op sh rd) (h : (sh (encFR op g m d a b c)).Admits (encFR op g m d a b c))
    (hr : rd (encFR op g m d a b c) = i) : Sys2Proof.decode (encFR op g m d a b c) = .ok i :=
  hr ▸ row.decode (fields_encFR op g m d a b c).1 (getLsbD_encFR_pairBit op g m d a b c) h

theorem decode_encFI {m : BitVec 3} {imm : BitVec 24} (row : Row op sh rd)
    (h : (sh (encFI op g m d a imm)).Admits (encFI op g m d a imm)) (hr : rd (encFI op g m d a imm) = i) :
    Sys2Proof.decode (encFI op g m d a imm) = .ok i :=
  hr ▸ row.decode (fOp_encFI op g m d a imm) (getLsbD_encFI_pairBit op g m d a imm) h

theorem decode_encFM {m : BitVec 7} {off : BitVec 20} (row : Row op sh rd)
    (h : (sh (encFM op g m d a off)).Admits (encFM op g m d a off)) (hr : rd (encFM op g m d a off) = i) :
    Sys2Proof.decode (encFM op g m d a off) = .ok i :=
  hr ▸ row.decode (fields_encFM op g m d a off).1 (getLsbD_encFM_pairBit op g m d a off) h

theorem decode_encFB {m : BitVec 5} {off : BitVec 32} (row : Row op sh rd)
    (h : (sh (encFB op g m a off)).Admits (encFB op g m a off)) (hr : rd (encFB op g m a off) = i) :
    Sys2Proof.decode (encFB op g m a off) = .ok i :=
  hr ▸ row.decode (Machine.fOp_encFB op g m a off) (Machine.getLsbD_encFB_pairBit op g m a off) h

theorem decode_encFS {l : BitVec 4} {m : BitVec 7} {imm : BitVec 6} (row : Row op sh rd)
    (h : (sh (encFS op g l m d a b imm)).Admits (encFS op g l m d a b imm)) (hr : rd (encFS op g l m d a b imm) = i) :
    Sys2Proof.decode (encFS op g l m d a b imm) = .ok i :=
  hr ▸ row.decode (Machine.fOp_encFS op g l m d a b imm) (Machine.getLsbD_encFS_pairBit op g l m d a b imm) h

end Row

end Sys2Proof
end

section
/-! Proof of O1, third part: the words of the integer and predicate groups (R173, R176, R191-R210). -/

namespace Sys2Proof

/-! Each lemma below is about one operand form. A word of the form is admitted by the shape of its row because its operands are
taken by their slots and its modifiers are assigned, and it is read back field by field. -/

/-- A shift count is below 256 when the bits above its byte are zero (R197). -/
theorem lt_256_iff (imm : BitVec 24) : imm.toNat < 256 ↔ imm.extractLsb' 8 16 = 0#16 := by
  rw [← BitVec.toNat_inj, BitVec.extractLsb'_toNat, BitVec.toNat_ofNat, Nat.shiftRight_eq_div_pow]
  omega

section
variable {op : BitVec 8} {ws : List IntW} {sat shift : Bool} {kc : SlotKind}

theorem decode_eInt2 {f : Int2} {mk : Int2 → Instr} (row : Row op (shapeInt · ws sat 2 .unused .unused) (fun w => mk (dInt2 w)))
    (h : f.ok ws sat = true) : decode (eInt2 op f) = .ok (mk f) := by
  refine row.decode_encFR ?_ ?_
  · simp [WordShape.admits_iff, shapeInt, eIntMod, Int2.ok] at h ⊢
    grind
  · simp [dInt2, dIntMod, eIntMod]

theorem decode_eInt3 {f : Int3} {mk : Int3 → Instr} (row : Row op (shapeInt · ws sat 2 .src .unused) (fun w => mk (dInt3 w)))
    (h : f.ok ws sat = true) : decode (eInt3 op f) = .ok (mk f) := by
  refine row.decode_encFR ?_ ?_
  · simp [WordShape.admits_iff, shapeInt, eIntMod, Int3.ok] at h ⊢
    grind
  · simp [dInt3, dIntMod, eIntMod]

theorem decode_eInt4 {f : Int4} {mk : Int4 → Instr} (row : Row op (shapeInt · ws sat 2 .src kc) (fun w => mk (dInt4 w)))
    (h : f.ok ws sat kc = true) : decode (eInt4 op f 0) = .ok (mk f) := by
  refine row.decode_encFR ?_ ?_
  · simp [WordShape.admits_iff, shapeInt, eIntMod, Int4.ok] at h ⊢
    grind
  · simp [dInt4, dIntMod, eIntMod]

/-- ADDC and SUBB, with the carry in beside the layout (R194). -/
theorem decode_eInt4_carry {f : Int4} {ci : Bool} {mk : Int4 → Bool → Instr}
    (row : Row op (fun w => { shapeInt w scalarW false 0 .src .pred with zero := mask 41 1 })
      (fun w => mk (dInt4 w) (w.getLsbD 40)))
    (h : f.ok scalarW false .pred = true) : decode (eInt4 op f (0#1 ++ bit ci)) = .ok (mk f ci) := by
  refine row.decode_encFR ?_ ?_
  · simp [WordShape.admits_iff, shapeInt, eIntMod, Int4.ok] at h ⊢
    grind
  · simp [dInt4, dIntMod, eIntMod]

theorem decode_eIntI {f : IntI} {mk : IntI → Instr} (row : Row op (shapeIntI · sat shift) (fun w => mk (dIntI w)))
    (h : f.ok sat shift = true) : decode (eIntI op f) = .ok (mk f) := by
  refine row.decode_encFI ?_ ?_
  · simp [WordShape.admits_iff, shapeIntI, IntI.ok, lt_256_iff] at h ⊢
    grind
  · simp [dIntI]

theorem decode_ePlain4 {f : Plain4} {mk : Plain4 → Instr}
    (row : Row op (fun w => { shapeInt w allW true 2 .src kc with bad := badWidth w }) (fun w => mk (dPlain4 w)))
    (h : f.ok kc = true) : decode (ePlain4 op f) = .ok (mk f) := by
  refine row.decode_encFR ?_ ?_
  · simp [WordShape.admits_iff, shapeInt, badWidth, Plain4.ok] at h ⊢
    grind
  · simp [dPlain4]

theorem decode_eInt4x {f : Int4x} {mk : Int4x → Instr} (row : Row op (shapeInt · ws true 0 .src kc) (fun w => mk (dInt4x w)))
    (h : f.ok ws kc = true) : decode (eInt4x op f) = .ok (mk f) := by
  refine row.decode_encFR ?_ ?_
  · simp [WordShape.admits_iff, shapeInt, Int4x.ok] at h ⊢
    grind
  · simp [dInt4x]

end

theorem decode_cmpi {f : CmpI} (h : f.ok = true) : decode (encFI 0x29 f.g f.cc f.d.enc f.a.enc f.imm) = .ok (.cmpi f) := by
  refine Row.decode_encFI (fun w e => by rw [wordShape, readFull, e]; exact ⟨rfl, rfl⟩) ?_ ?_
  · simp [WordShape.admits_iff, CmpI.ok] at h ⊢
    grind
  · simp [dCmpI]

/-- The two layouts of MOV (R205). -/
theorem IntW.code_le_one_iff (x : IntW) : x.code.toNat ≤ 1 ↔ x = .w64 ∨ x = .w32 := by cases x <;> decide

@[simp] theorem RedOp.zero_append_code (x : RedOp) : 0#6 ++ x.code = 0#10 ↔ x = .addN64 := by cases x <;> decide

/-- PSET keeps one bit of its field (R208). -/
theorem pset_bit : ∀ x : BitVec 4, x.toNat ≤ 1 → 0#3 ++ x.extractLsb' 0 1 = x := by decide

theorem decode_mov {f : MovF} (h : f.ok = true) :
    decode (encFR 0x2B f.g (f.w.code ++ bit f.sg ++ 0#1 ++ bit f.rd ++ bit f.acc) f.d.enc f.a.enc 0 (0#6 ++ f.red.code))
      = .ok (.mov f) := by
  refine Row.decode_encFR (fun w e => by rw [wordShape, readFull, e]; exact ⟨rfl, rfl⟩) ?_ ?_
  · cases hrd : f.rd <;> simp [WordShape.admits_iff, MovF.ok, hrd, Operand.dec_enc, IntW.code_le_one_iff] at h ⊢ <;> grind
  · simp [dMovF]

theorem decode_plog {f : PredF} (h : f.ok .pred 15 = true) :
    decode (encFR 0x38 f.g 0 f.d.enc f.a.enc f.b.enc (0#6 ++ f.x)) = .ok (.plog f) := by
  refine Row.decode_encFR (fun w e => by rw [wordShape, readFull, e]; exact ⟨rfl, rfl⟩) ?_ ?_
  · simp [WordShape.admits_iff, badWidth, PredF.ok] at h ⊢
    grind
  · simp [dPlog]

theorem decode_pset {f : PredF} (h : f.ok .src 1 = true) :
    decode (encFR 0x3B f.g (0#6 ++ f.x.extractLsb' 0 1) f.d.enc f.a.enc f.b.enc 0) = .ok (.pset f) := by
  refine Row.decode_encFR (fun w e => by rw [wordShape, readFull, e]; exact ⟨rfl, rfl⟩) ?_ ?_
  · simp [WordShape.admits_iff, badWidth, PredF.ok] at h ⊢
    grind
  · have hx : f.x.toNat ≤ 1 := by simp [PredF.ok] at h; grind
    simp [dPset, pset_bit _ hx]

end Sys2Proof
end

section
/-! Proof of O1, fourth part: the words of the float and conversion groups (R174, R220-R241). -/

namespace Sys2Proof

section
variable {op : BitVec 8} {kc : SlotKind}

theorem decode_eFlt2 {f : Flt2} {mk : Flt2 → Instr} (row : Row op (shapeF · true 0 .unused .unused) (fun w => mk (dFlt2 w)))
    (h : f.ok = true) : decode (eFlt2 op f) = .ok (mk f) := by
  refine row.decode_encFR ?_ ?_
  · simp [WordShape.admits_iff, shapeF, badFmt, badRm, eFMod, FMod.ok, Flt2.ok] at h ⊢
    grind
  · simp [dFlt2, dFMod, eFMod]

theorem decode_eFlt3 {f : Flt3} {mk : Flt3 → Instr} (row : Row op (shapeF · true 0 .src .unused) (fun w => mk (dFlt3 w)))
    (h : f.ok = true) : decode (eFlt3 op f) = .ok (mk f) := by
  refine row.decode_encFR ?_ ?_
  · simp [WordShape.admits_iff, shapeF, badFmt, badRm, eFMod, FMod.ok, Flt3.ok] at h ⊢
    grind
  · simp [dFlt3, dFMod, eFMod]

theorem decode_eFlt4 {f : Flt4} {mk : Flt4 → Instr} (row : Row op (shapeF · true 0 .src kc) (fun w => mk (dFlt4 w)))
    (h : f.ok kc = true) : decode (eFlt4 op f) = .ok (mk f) := by
  refine row.decode_encFR ?_ ?_
  · simp [WordShape.admits_iff, shapeF, badFmt, badRm, eFMod, FMod.ok, Flt4.ok] at h ⊢
    grind
  · simp [dFlt4, dFMod, eFMod]

theorem decode_eFMinMax {f : FMinMax} {mk : FMinMax → Instr}
    (row : Row op (fun w => { slots := [(fD w, .dst), (fA w, .src), (fB w, .src), (fC w, .unused)]
                              bad := 4 < (w.extractLsb' 44 3).toNat || (w.getLsbD 41 && w.extractLsb' 44 3 == 0)
                              zero := mask 42 2, off := false, lvl := .none }) (fun w => mk (dFMinMax w)))
    (h : f.ok = true) : decode (eFMinMax op f) = .ok (mk f) := by
  refine row.decode_encFR ?_ ?_
  · simp [WordShape.admits_iff, FMinMax.ok] at h ⊢
    grind
  · simp [dFMinMax, dFmt]

theorem decode_eFUn {f : FUn} {mk : FUn → Instr} (row : Row op (shapeF0 · .unused) (fun w => mk (dFUn w)))
    (h : f.ok = true) : decode (eFUn op f) = .ok (mk f) := by
  refine row.decode_encFR ?_ ?_
  · simp [WordShape.admits_iff, shapeF0, badFmt, FUn.ok] at h ⊢
    grind
  · simp [dFUn, dFmt]

theorem decode_fsign {f : FBin} (h : f.ok = true) :
    decode (encFR 0x4A f.g (f.fmt.code ++ 0#3 ++ bit f.ftz) f.d.enc f.a.enc f.b.enc 0) = .ok (.fsign f) := by
  refine Row.decode_encFR (fun w e => by rw [wordShape, readFull, e]; exact ⟨rfl, rfl⟩) ?_ ?_
  · simp [WordShape.admits_iff, shapeF0, badFmt, FBin.ok] at h ⊢
    grind
  · simp [dFBin, dFmt]

theorem decode_fcmp {f : FCmp} (h : f.ok = true) :
    decode (encFR 0x4B f.g (f.fmt.code ++ f.cc ++ bit f.ftz) f.d.enc f.a.enc f.b.enc f.c.enc) = .ok (.fcmp f) := by
  refine Row.decode_encFR (fun w e => by rw [wordShape, readFull, e]; exact ⟨rfl, rfl⟩) ?_ ?_
  · simp [WordShape.admits_iff, shapeF, badFmt, FCmp.ok] at h ⊢
    grind
  · simp [dFCmp, dFmt]

theorem decode_eSfu {f : SfuF} {fmts : List FFmt} {mk : SfuF → Instr} (row : Row op (shapeSfu · fmts) (fun w => mk (dSfuF w)))
    (h : f.ok fmts = true) : decode (eSfu op f) = .ok (mk f) := by
  refine row.decode_encFR ?_ ?_
  · simp [WordShape.admits_iff, shapeSfu, badFmt, SfuF.ok] at h ⊢
    grind
  · simp [dSfuF, dFmt]

theorem decode_eCvtF {f : CvtF} {lo : Nat} {mk : CvtF → Instr} (row : Row op (shapeCvt · lo) (fun w => mk (dCvtF w)))
    (h : f.ok lo = true) : decode (eCvtF op f) = .ok (mk f) := by
  refine row.decode_encFR ?_ ?_
  · simp [WordShape.admits_iff, shapeCvt, badFmt, badRm, eFMod, FMod.ok, CvtF.ok] at h ⊢
    grind
  · simp [dCvtF, dFMod, eFMod]

theorem decode_eCvtI {f : CvtI} {mk : CvtI → Instr} (row : Row op shapeCvtI (fun w => mk (dCvtI w)))
    (h : f.ok = true) : decode (eCvtI op f) = .ok (mk f) := by
  refine row.decode_encFR ?_ ?_
  · simp [WordShape.admits_iff, shapeCvtI, badFmt, badRm, eFMod, FMod.ok, CvtI.ok] at h ⊢
    grind
  · simp [dCvtI, dFMod, eFMod]

end

theorem decode_cvtn {f : CvtN} (h : f.ok = true) :
    decode (encFR 0x58 f.g (f.fmt.code ++ f.rm ++ bit f.ftz) f.d.enc f.a.enc f.b.enc (0#2 ++ f.pos ++ f.df)) = .ok (.cvtn f) := by
  refine Row.decode_encFR (fun w e => by rw [wordShape, readFull, e]; exact ⟨rfl, rfl⟩) ?_ ?_
  · simp [WordShape.admits_iff, badFmt, CvtN.ok] at h ⊢
    grind
  · simp [dCvtN, dFmt]

theorem decode_scaleest {f : ScaleF} (h : f.ok = true) :
    decode (encFR 0x59 f.g (f.fmt.code ++ 0#3 ++ bit f.ftz) f.d.enc f.a.enc 0 (0#6 ++ f.tf)) = .ok (.scaleest f) := by
  refine Row.decode_encFR (fun w e => by rw [wordShape, readFull, e]; exact ⟨rfl, rfl⟩) ?_ ?_
  · simp [WordShape.admits_iff, badFmt, ScaleF.ok] at h ⊢
    grind
  · simp [dScaleF, dFmt]

theorem decode_cbdec {f : CbDec} (h : f.ok = true) :
    decode (encFR 0x5A f.g (eFMod f.m) f.d.enc f.a.enc f.b.enc (0#2 ++ f.pos ++ bit f.scl ++ f.slot)) = .ok (.cbdec f) := by
  refine Row.decode_encFR (fun w e => by rw [wordShape, readFull, e]; exact ⟨rfl, rfl⟩) ?_ ?_
  · simp [WordShape.admits_iff, badFmt, badRm, eFMod, FMod.ok, CbDec.ok] at h ⊢
    grind
  · simp [dCbDec, dFMod, eFMod]

theorem decode_pack {f : PackF} (h : f.ok = true) :
    decode (encFR 0x5B f.g 0 f.d.enc f.a.enc f.b.enc (0#9 ++ bit f.n4)) = .ok (.pack f) := by
  refine Row.decode_encFR (fun w e => by rw [wordShape, readFull, e]; exact ⟨rfl, rfl⟩) ?_ ?_
  · simp [WordShape.admits_iff, PackF.ok] at h ⊢
    grind
  · simp [dPackF]

end Sys2Proof
end

section
/-! Proof of O1, fifth part: the words of the cross-lane, memory and synchronisation groups (R175, R209, R210, R243-R273). -/

namespace Sys2Proof

/-! ### Levels -/

/-- A mode of 0 leaves no bit of its field (R210, R243). -/
@[simp] theorem mode_eq_zero : ∀ x : BitVec 2, 0#5 ++ x = 0#7 ↔ x.toNat = 0 := by decide

/-- LSHIFT's mode is one bit (R210). -/
@[simp] theorem mode_le_one : ∀ x : BitVec 2, (0#5 ++ x : BitVec 7).extractLsb' 1 6 = 0#6 ↔ x.toNat ≤ 1 := by decide

/-- The rounding modes of SCAN and REDUCE (R247). -/
@[simp] theorem RM.code_le_four (x : RM) : x.code.toNat ≤ 4 ↔ x ≠ .dyn := by cases x <;> decide

@[simp] theorem RM.code_eq_zero (x : RM) : x.code.toNat = 0 ↔ x = .rne := by cases x <;> decide

section
variable {op : BitVec 8}

theorem decode_vote {f : LvlF} (h : f.ok 2 .src .unused false = true) : decode (eLvlF 0x39 f) = .ok (.vote f) := by
  refine Row.decode_encFS (fun w e => by rw [wordShape, readFull, e]; exact ⟨rfl, rfl⟩) ?_ ?_
  · simp [WordShape.admits_iff, shapeS, LvlF.ok] at h ⊢
    grind
  · simp [dLvlF]

/-- BALLOT and MATCH, which use `imm6` (R210, R243). -/
theorem decode_eLvlF_imm {f : LvlF} {mk : LvlF → Instr}
    (row : Row op (fun w => shapeS w false (mask 36 7) .dst .src .unused 0 3) (fun w => mk (dLvlF w)))
    (h : f.ok 0 .src .unused true = true) : decode (eLvlF op f) = .ok (mk f) := by
  refine row.decode_encFS ?_ ?_
  · simp [WordShape.admits_iff, shapeS, LvlF.ok] at h ⊢
    grind
  · simp [dLvlF]

theorem decode_shfl {f : LvlF} (h : f.ok 3 .src .src false = true) : decode (eLvlF 0x70 f) = .ok (.shfl f) := by
  refine Row.decode_encFS (fun w e => by rw [wordShape, readFull, e]; exact ⟨rfl, rfl⟩) ?_ ?_
  · simp [WordShape.admits_iff, shapeS, LvlF.ok] at h ⊢
    grind
  · simp [dLvlF]

theorem decode_lshift {f : LvlF} (h : f.ok 1 .src .src true = true) : decode (eLvlF 0x71 f) = .ok (.lshift f) := by
  refine Row.decode_encFS (fun w e => by rw [wordShape, readFull, e]; exact ⟨rfl, rfl⟩) ?_ ?_
  · simp [WordShape.admits_iff, shapeS, LvlF.ok] at h ⊢
    grind
  · simp [dLvlF]

/-- COMPACT and ELECT, which have neither a mode nor `imm6` (R243). -/
theorem decode_eLvlF {f : LvlF} {ka kb : SlotKind} {mk : LvlF → Instr}
    (row : Row op (fun w => shapeS w false (mask 36 7 ||| mask 0 6) .dst ka kb 0 3) (fun w => mk (dLvlF w)))
    (h : f.ok 0 ka kb false = true) : decode (eLvlF op f) = .ok (mk f) := by
  refine row.decode_encFS ?_ ?_
  · simp [WordShape.admits_iff, shapeS, LvlF.ok] at h ⊢
    grind
  · simp [dLvlF]

theorem decode_eScanF {f : ScanF} {scan : Bool} {mk : ScanF → Instr} (row : Row op (shapeScan · scan) (fun w => mk (dScanF w)))
    (h : f.ok scan = true) : decode (eScanF op f) = .ok (mk f) := by
  refine row.decode_encFS ?_ ?_
  · simp [WordShape.admits_iff, shapeScan, shapeS, ScanF.ok] at h ⊢
    grind
  · simp [dScanF]

end

/-! ### Memory -/

@[simp] theorem MemW.code_eq_two (x : MemW) : x.code.toNat = 2 ↔ x = .b32 := by cases x <;> decide
@[simp] theorem MemW.code_eq_three (x : MemW) : x.code.toNat = 3 ↔ x = .b64 := by cases x <;> decide

/-- The width of ATOM and SC is 32 or 64 bits (R257, R258). -/
@[simp] theorem eW_toNat (x : Bool) : (eW x).toNat = if x then 3 else 2 := by cases x <;> rfl

@[simp] theorem getElem_eW (x : Bool) : (eW x)[0] = x := by cases x <;> rfl

/-- CCTL's operation has two bits (R255). -/
@[simp] theorem cctl_le : ∀ x : BitVec 2, (0#1 ++ x).toNat ≤ 3 := by decide

section
variable {op : BitVec 8} {kd : SlotKind}

theorem decode_ld {f : LdF} (h : f.ok [.b8, .b16, .b32, .b64] = true) : decode (eLdF 0x80 f) = .ok (.ld f) := by
  refine Row.decode_encFM (fun w e => by rw [wordShape, readFull, e]; exact ⟨rfl, rfl⟩) ?_ ?_
  · simp [WordShape.admits_iff, shapeM, LdF.ok] at h ⊢
    grind
  · simp [dLdF]

theorem decode_lr {f : LdF} (h : f.ok [.b32, .b64] = true) : decode (eLdF 0x87 f) = .ok (.lr f) := by
  refine Row.decode_encFM (fun w e => by rw [wordShape, readFull, e]; exact ⟨rfl, rfl⟩) ?_ ?_
  · simp [WordShape.admits_iff, shapeM, LdF.ok] at h ⊢
    grind
  · simp [dLdF]

theorem decode_eStF {f : StF} {mk : StF → Instr}
    (row : Row op (fun w => shapeM w (3 < (w.extractLsb' 44 3).toNat || w.getLsbD 43) (mask 40 1) kd) (fun w => mk (dStF w)))
    (h : f.ok kd = true) : decode (eStF op f) = .ok (mk f) := by
  refine row.decode_encFM ?_ ?_
  · simp [WordShape.admits_iff, shapeM, StF.ok] at h ⊢
    grind
  · simp [dStF]

theorem decode_eMemP {f : MemX} {mk : MemX → Instr}
    (row : Row op (fun w => shapeM w (w.extractLsb' 44 3 != 4 || w.getLsbD 43) (mask 40 1) kd) (fun w => mk (dMemP w)))
    (h : f.ok kd = true) : decode (eMemP op f) = .ok (mk f) := by
  refine row.decode_encFM ?_ ?_
  · simp [WordShape.admits_iff, shapeM, MemX.ok] at h ⊢
    grind
  · simp [dMemP]

theorem decode_cctl {f : MemX} (h : f.ok .unused = true) :
    decode (encFM 0x8A f.g (0#1 ++ f.x ++ 0#4) f.d.enc f.a.enc f.off) = .ok (.cctl f) := by
  refine Row.decode_encFM (fun w e => by rw [wordShape, readFull, e]; exact ⟨rfl, rfl⟩) ?_ ?_
  · simp [WordShape.admits_iff, shapeM, MemX.ok] at h ⊢
    grind
  · simp [dCctl]

theorem decode_ldx {f : LdxF} (h : f.ok = true) :
    decode (encFR 0x84 f.g (f.w.code ++ 0#1 ++ f.cp ++ 0#1) f.d.enc f.a.enc 0 (0#6 ++ f.lvl)) = .ok (.ldx f) := by
  refine Row.decode_encFR (fun w e => by rw [wordShape, readFull, e]; exact ⟨rfl, rfl⟩) ?_ ?_
  · simp [WordShape.admits_iff, LdxF.ok] at h ⊢
    grind
  · simp [dLdxF]

theorem decode_atom {f : AtomF} (h : f.ok = true) :
    decode (encFR 0x86 f.g (eW f.w64 ++ f.aop) f.d.enc f.a.enc f.b.enc f.c.enc) = .ok (.atom f) := by
  refine Row.decode_encFR (fun w e => by rw [wordShape, readFull, e]; exact ⟨rfl, rfl⟩) ?_ ?_
  · simp [WordShape.admits_iff, AtomF.ok] at h ⊢
    grind
  · simp [dAtomF]

theorem decode_sc {f : ScF} (h : f.ok = true) :
    decode (encFR 0x88 f.g (eW f.w64 ++ 0#1 ++ f.cp ++ 0#1) f.d.enc f.a.enc f.b.enc 0) = .ok (.sc f) := by
  refine Row.decode_encFR (fun w e => by rw [wordShape, readFull, e]; exact ⟨rfl, rfl⟩) ?_ ?_
  · simp [WordShape.admits_iff, ScF.ok] at h ⊢
    grind
  · simp [dScF]

theorem decode_fence {f : FenceF} (h : f.g.ok = true) :
    decode (encFS 0x89 f.g f.lvl (0#5 ++ bit f.rel ++ bit f.acq) 0 0 0 0) = .ok (.fence f) := by
  refine Row.decode_encFS (fun w e => by rw [wordShape, readFull, e]; exact ⟨rfl, rfl⟩) ?_ ?_
  · simp [WordShape.admits_iff, h]
  · simp [dFenceF]

end

/-! ### Synchronisation -/

section
variable {op : BitVec 8} {lo hi : Nat}

theorem decode_eLvlOnly {f : LvlOnly} {mk : LvlOnly → Instr}
    (row : Row op (fun w => shapeS w false (mask 36 7 ||| mask 0 6) .unused .unused .unused lo hi) (fun w => mk (dLvlOnly w)))
    (h : f.g.ok = true) : decode (eLvlOnly op f) = .ok (mk f) := by
  refine row.decode_encFS ?_ ?_
  · simp [WordShape.admits_iff, shapeS, h]
  · simp [dLvlOnly]

theorem decode_bara {f : LvlOp} (h : f.ok .dst = true) : decode (eLvlD 0xA1 f) = .ok (.bara f) := by
  refine Row.decode_encFS (fun w e => by rw [wordShape, readFull, e]; exact ⟨rfl, rfl⟩) ?_ ?_
  · simpa [WordShape.admits_iff, shapeS, LvlOp.ok] using h
  · simp [dLvlD]

theorem decode_eLvlA {f : LvlOp} {mk : LvlOp → Instr}
    (row : Row op (fun w => shapeS w false (mask 36 7 ||| mask 0 6) .unused .src .unused lo hi) (fun w => mk (dLvlA w)))
    (h : f.ok .src = true) : decode (eLvlA op f) = .ok (mk f) := by
  refine row.decode_encFS ?_ ?_
  · simpa [WordShape.admits_iff, shapeS, LvlOp.ok] using h
  · simp [dLvlA]

theorem decode_chunkend {g : Guard} (h : g.ok = true) : decode (encFS 0xA5 g 0 0 0 0 0 0) = .ok (.chunkend g) := by
  refine Row.decode_encFS (fun w e => by rw [wordShape, readFull, e]; exact ⟨rfl, rfl⟩) ?_ ?_
  · simp [WordShape.admits_iff, shapeS0, h]
  · simp

theorem decode_lehrw {f : LehrWF} (h : f.g.ok = true) :
    decode (encFS 0xA6 f.g f.lvl (f.k ++ f.red.code) 0 0 0 f.wm1) = .ok (.lehrw f) := by
  refine Row.decode_encFS (fun w e => by rw [wordShape, readFull, e]; exact ⟨rfl, rfl⟩) ?_ ?_
  · simp [WordShape.admits_iff, shapeLehr, h]
  · simp [dLehrWF]

theorem decode_lehrpush {f : LehrF} (h : (f.g.ok && SlotKind.src.takes f.o) = true) :
    decode (encFS 0xA7 f.g f.lvl (f.k ++ 0#4) 0 f.o.enc 0 0) = .ok (.lehrpush f) := by
  refine Row.decode_encFS (fun w e => by rw [wordShape, readFull, e]; exact ⟨rfl, rfl⟩) ?_ ?_
  · simpa [WordShape.admits_iff, shapeLehr] using h
  · simp [dLehrA]

theorem decode_lehrread {f : LehrF} (h : (f.g.ok && SlotKind.dst.takes f.o) = true) :
    decode (encFS 0xA8 f.g f.lvl (f.k ++ 0#4) f.o.enc 0 0 0) = .ok (.lehrread f) := by
  refine Row.decode_encFS (fun w e => by rw [wordShape, readFull, e]; exact ⟨rfl, rfl⟩) ?_ ?_
  · simpa [WordShape.admits_iff, shapeLehr] using h
  · simp [dLehrD]

theorem decode_lehrclr {f : LehrC} (h : f.g.ok = true) :
    decode (encFS 0xA9 f.g f.lvl (f.k ++ 0#4) 0 0 0 0) = .ok (.lehrclr f) := by
  refine Row.decode_encFS (fun w e => by rw [wordShape, readFull, e]; exact ⟨rfl, rfl⟩) ?_ ?_
  · simp [WordShape.admits_iff, shapeLehr, h]
  · simp [dLehrC]

theorem decode_worknext {f : One} (h : (f.g.ok && SlotKind.lane.takes f.o) = true) :
    decode (encFS 0xAA f.g 0 0 f.o.enc 0 0 0) = .ok (.worknext f) := by
  refine Row.decode_encFS (fun w e => by rw [wordShape, readFull, e]; exact ⟨rfl, rfl⟩) ?_ ?_
  · simpa [WordShape.admits_iff, shapeS0] using h
  · simp

theorem decode_emit {f : One} (h : (f.g.ok && SlotKind.src.takes f.o) = true) :
    decode (encFS 0xAB f.g 0 0 0 f.o.enc 0 0) = .ok (.emit f) := by
  refine Row.decode_encFS (fun w e => by rw [wordShape, readFull, e]; exact ⟨rfl, rfl⟩) ?_ ?_
  · simpa [WordShape.admits_iff, shapeS0] using h
  · simp

theorem decode_waitseq {f : WaitF} (h : f.ok false = true) : decode (eWait 0xAC f) = .ok (.waitseq f) := by
  refine Row.decode_encFS (fun w e => by rw [wordShape, readFull, e]; exact ⟨rfl, rfl⟩) ?_ ?_
  · simp [WordShape.admits_iff, shapeWait, WaitF.ok] at h ⊢
    grind
  · simp [dWaitF]

theorem decode_waitval {f : WaitF} (h : f.ok true = true) : decode (eWait 0xAD f) = .ok (.waitval f) := by
  refine Row.decode_encFS (fun w e => by rw [wordShape, readFull, e]; exact ⟨rfl, rfl⟩) ?_ ?_
  · simp [WordShape.admits_iff, shapeWait, WaitF.ok] at h ⊢
    grind
  · simp [dWaitF]

theorem decode_nbrpush {f : NbrF} (h : (f.g.ok && SlotKind.src.takes f.o) = true) :
    decode (encFS 0xAE f.g 0 (0#3 ++ f.ch ++ f.dir) 0 f.o.enc 0 0) = .ok (.nbrpush f) := by
  refine Row.decode_encFS (fun w e => by rw [wordShape, readFull, e]; exact ⟨rfl, rfl⟩) ?_ ?_
  · simpa [WordShape.admits_iff, shapeS0] using h
  · simp [dNbrA]

theorem decode_nbrpop {f : NbrF} (h : (f.g.ok && SlotKind.dst.takes f.o) = true) :
    decode (encFS 0xAF f.g 0 (0#3 ++ f.ch ++ f.dir) f.o.enc 0 0 0) = .ok (.nbrpop f) := by
  refine Row.decode_encFS (fun w e => by rw [wordShape, readFull, e]; exact ⟨rfl, rfl⟩) ?_ ?_
  · simpa [WordShape.admits_iff, shapeS0] using h
  · simp [dNbrD]

end
end Sys2Proof
end

section
/-! Proof of O1, sixth part: the words of the control, engine and system groups, and the paired words (R177-R181, R212-R219, R274,
R351-R358). -/

namespace Sys2Proof

/-! ### Control and long immediates -/

@[simp] theorem neg_eq_zero (x : Bool) : 0#4 ++ bit x = 0#5 ↔ x = false := by cases x <;> decide

/-- The selector of a long immediate has two bits (R206). -/
@[simp] theorem sel_toNat : ∀ x : BitVec 2, (0#3 ++ x).toNat = x.toNat := by decide

@[simp] theorem offOk_zero : offOk 0#32 = true := by decide

section
variable {op : BitVec 8} {ka : SlotKind}

theorem decode_bra {f : BraF} (h : (f.g.ok && offOk f.off) = true) : decode (encFB 0xC0 f.g 0 0 f.off) = .ok (.bra f) := by
  refine Row.decode_encFB (fun w e => by rw [wordShape, readFull, e]; exact ⟨rfl, rfl⟩) ?_ ?_
  · simpa [WordShape.admits_iff, shapeB] using h
  · simp

theorem decode_bru {f : CtlF} (h : f.ok .pred true = true) : decode (eCtlF 0xC1 f) = .ok (.bru f) := by
  refine Row.decode_encFB (fun w e => by rw [wordShape, readFull, e]; exact ⟨rfl, rfl⟩) ?_ ?_
  · simp [WordShape.admits_iff, shapeB, CtlF.ok] at h ⊢
    grind
  · simp [dCtlF]

theorem decode_eCtlF {f : CtlF} {mk : CtlF → Instr} (row : Row op (fun w => shapeB w (mask 42 5) ka) (fun w => mk (dCtlF w)))
    (h : f.ok ka false = true) : decode (eCtlF op f) = .ok (mk f) := by
  refine row.decode_encFB ?_ ?_
  · simp [WordShape.admits_iff, shapeB, CtlF.ok] at h ⊢
    grind
  · simp [dCtlF]

theorem decode_coswap {f : One} (h : (f.g.ok && (SlotKind.pair 124).takes f.o) = true) :
    decode (encFB 0xC6 f.g 0 f.o.enc 0) = .ok (.coswap f) := by
  refine Row.decode_encFB (fun w e => by rw [wordShape, readFull, e]; exact ⟨rfl, rfl⟩) ?_ ?_
  · simp [WordShape.admits_iff, shapeB] at h ⊢
    grind
  · simp

theorem decode_guarded {g : Guard} {mk : Guard → Instr}
    (row : Row op (fun w => shapeB w (mask 42 5 ||| mask 0 32) .unused) (fun w => mk (fG w)))
    (h : g.ok = true) : decode (encFB op g 0 0 0) = .ok (mk g) := by
  refine row.decode_encFB ?_ ?_
  · simp [WordShape.admits_iff, shapeB, h]
  · simp

theorem decode_movl {f : LongI} (h : f.ok 3 = true) : decode (eLongI 0xD0 f) = .ok (.movl f) := by
  refine Row.decode_encFB (fun w e => by rw [wordShape, readFull, e]; exact ⟨rfl, rfl⟩) ?_ ?_
  · simp [WordShape.admits_iff, LongI.ok] at h ⊢
    grind
  · simp [dLongI]

theorem decode_addl {f : LongI} (h : f.ok 1 = true) : decode (eLongI 0xD1 f) = .ok (.addl f) := by
  refine Row.decode_encFB (fun w e => by rw [wordShape, readFull, e]; exact ⟨rfl, rfl⟩) ?_ ?_
  · simp [WordShape.admits_iff, LongI.ok] at h ⊢
    grind
  · simp [dLongI]

end

/-! ### System -/

section
variable {op : BitVec 8}

theorem decode_eTrapF {f : TrapF} {mk : TrapF → Instr}
    (row : Row op (fun w => { slots := [(fID w, .unused), (fIA w, .src)], bad := false, zero := mask 44 3 ||| mask 8 16
                              off := false, lvl := .none }) (fun w => mk (dTrapF w)))
    (h : f.ok = true) : decode (eTrapF op f) = .ok (mk f) := by
  refine row.decode_encFI ?_ ?_
  · simpa [WordShape.admits_iff, TrapF.ok] using h
  · simp [dTrapF]

theorem decode_sysrd {f : SysF} (h : (f.g.ok && ctlExists f.idx.toNat && SlotKind.dst.takes f.o) = true) :
    decode (encFI 0xE2 f.g 0 f.o.enc 0 (0#12 ++ f.idx)) = .ok (.sysrd f) := by
  refine Row.decode_encFI (fun w e => by rw [wordShape, readFull, e]; exact ⟨rfl, rfl⟩) ?_ ?_
  · simp [WordShape.admits_iff, shapeSys] at h ⊢
    grind
  · simp

theorem decode_syswr {f : SysF} (h : (f.g.ok && ctlWritable f.idx.toNat && SlotKind.src.takes f.o) = true) :
    decode (encFI 0xE3 f.g 0 0 f.o.enc (0#12 ++ f.idx)) = .ok (.syswr f) := by
  refine Row.decode_encFI (fun w e => by rw [wordShape, readFull, e]; exact ⟨rfl, rfl⟩) ?_ ?_
  · simp [WordShape.admits_iff, shapeSys] at h ⊢
    grind
  · simp

theorem decode_grpsel {f : GrpF} (h : (f.g.ok && SlotKind.dst.takes f.d && SlotKind.src.takes f.a) = true) :
    decode (encFR 0xE5 f.g (0#6 ++ bit f.x) f.d.enc f.a.enc 0 0) = .ok (.grpsel f) := by
  refine Row.decode_encFR (fun w e => by rw [wordShape, readFull, e]; exact ⟨rfl, rfl⟩) ?_ ?_
  · simp [WordShape.admits_iff, shapeG] at h ⊢
    grind
  · simp [dGrpF]

theorem decode_grprd {f : Grp3}
    (h : (f.g.ok && SlotKind.dst.takes f.x && SlotKind.src.takes f.y && SlotKind.src.takes f.z) = true) :
    decode (encFR 0xE6 f.g 0 f.x.enc f.y.enc f.z.enc 0) = .ok (.grprd f) := by
  refine Row.decode_encFR (fun w e => by rw [wordShape, readFull, e]; exact ⟨rfl, rfl⟩) ?_ ?_
  · simp [WordShape.admits_iff, shapeG] at h ⊢
    grind
  · simp

theorem decode_grpwr {f : Grp3}
    (h : (f.g.ok && SlotKind.src.takes f.x && SlotKind.src.takes f.y && SlotKind.src.takes f.z) = true) :
    decode (encFR 0xE7 f.g 0 0 f.x.enc f.y.enc f.z.enc) = .ok (.grpwr f) := by
  refine Row.decode_encFR (fun w e => by rw [wordShape, readFull, e]; exact ⟨rfl, rfl⟩) ?_ ?_
  · simp [WordShape.admits_iff, shapeG] at h ⊢
    grind
  · simp

theorem decode_grpres {f : GrpRes} (h : f.g.ok = true) :
    decode (encFR 0xE8 f.g (0#6 ++ bit f.skip) 0 0 0 0) = .ok (.grpres f) := by
  refine Row.decode_encFR (fun w e => by rw [wordShape, readFull, e]; exact ⟨rfl, rfl⟩) ?_ ?_
  · simp [WordShape.admits_iff, shapeG, h]
  · simp

theorem decode_tlbinv {f : GrpF} (h : (f.g.ok && SlotKind.unused.takes f.d
      && (if f.x then SlotKind.unused else SlotKind.src).takes f.a) = true) :
    decode (encFR 0xE9 f.g (0#6 ++ bit f.x) f.d.enc f.a.enc 0 0) = .ok (.tlbinv f) := by
  refine Row.decode_encFR (fun w e => by rw [wordShape, readFull, e]; exact ⟨rfl, rfl⟩) ?_ ?_
  · simp [WordShape.admits_iff, shapeG] at h ⊢
    grind
  · simp [dGrpF]

theorem decode_halt {f : One} (h : (f.g.ok && SlotKind.src.takes f.o) = true) :
    decode (encFB 0xEA f.g 0 f.o.enc 0) = .ok (.halt f) := by
  refine Row.decode_encFB (fun w e => by rw [wordShape, readFull, e]; exact ⟨rfl, rfl⟩) ?_ ?_
  · simpa [WordShape.admits_iff, shapeB] using h
  · simp

end

/-! ### Engine functions -/

/-- A row of the table of engine functions (R181). -/
def XcRow (fn : BitVec 7) (sh : Word → WordShape) (mk : XcF → Instr) : Prop :=
  ∀ w, fMod w = fn → xcWordShape w = some (sh w) ∧ readXc w = some (mk (dXcF w))

theorem decode_eXc {fn : BitVec 7} {n : Nat} {b lvl : Bool} {mk : XcF → Instr} {x : XcF}
    (row : XcRow fn (fun w => shapeX w n b lvl) mk) (h : x.ok n b lvl = true) : decode (eXc fn x) = .ok (mk x) := by
  obtain ⟨hop, -, hfn, -⟩ := fields_encFC x.g fn x.d.enc x.a.enc x.b.enc x.stream x.lvl
  have hs : wordShape (eXc fn x) = some (shapeX (eXc fn x) n b lvl) := by
    rw [eXc, wordShape, hop]; exact (row _ hfn).1
  have hr : readFull (eXc fn x) = some (mk (dXcF (eXc fn x))) := by
    rw [eXc, readFull, hop]; exact (row _ hfn).2
  have hd : dXcF (eXc fn x) = x := by simp [dXcF, eXc]
  refine decode_of_admits (getLsbD_encFC_pairBit ..) hs (hr.trans (by rw [hd])) ?_
  simp [WordShape.admits_iff, shapeX, eXc, XcF.ok] at h ⊢
  grind

/-! ### Paired words -/

section
open BitVec

theorem Half.ofBits_enc (h : Half) : Half.ofBits h.enc = h := by
  simp [Half.ofBits, Half.enc]

theorem hopAssigned_enc (h : Half) : hopAssigned h.enc = true := by
  simp [hopAssigned, Half.enc]

theorem halves_encPair (a b : Half) : fHalfA (encPair a b) = a.enc ∧ fHalfB (encPair a b) = b.enc
    ∧ (encPair a b)[0] = false ∧ (encPair a b).getLsbD 63 = true := by
  simp only [encPair, fHalfA, fHalfB, ← getLsbD_eq_getElem, extractLsb'_append_eq_of_le, extractLsb'_append_eq_of_add_le,
    getLsbD_append, Nat.reduceLeDiff, Nat.reduceLT, Nat.reduceSub, ↓reduceIte, extractLsb'_eq_self, true_and]
  decide

/-- Every register of a half is present with 16 groups of lane registers (R47). -/
theorem Half.present_sixteen (h : Half) : h.present 16 = true := by
  rw [Half.present, List.all_eq_true]
  intro r hr
  have hreg : r = h.f.d.toNat ∨ r = h.f.s.toNat := by
    unfold Half.reads Half.dest at hr
    split_ifs at hr <;> simp at hr <;> tauto
  rcases hreg with rfl | rfl <;> exact lanePresent_reg _

theorem decode_encPair {a b : Half} (h : pairOk a b = true) : decode (encPair a b) = .ok (pairRow a b) := by
  obtain ⟨ha, hb, h0, h63⟩ := halves_encPair a b
  simp only [pairOk, Bool.and_eq_true] at h
  obtain ⟨⟨⟨⟨hfa, hfb⟩, h1⟩, h2⟩, h3⟩ := h
  have hi : illegalPair 16 (encPair a b) = none := by
    simp [illegalPair, ha, hb, h0, Half.ofBits_enc, hopAssigned_enc, Half.present_sixteen, lanePresent_reg, hfa, hfb, h1, h2, h3]
  simp only [decode, illegal, h63, ↓reduceIte, hi, ha, hb, Half.ofBits_enc]

end
end Sys2Proof
end

section
/-! Proof of O1, last part: every instruction word (R164-R183). -/

namespace Sys2Proof

/-- Settles O1: an event has no word; the words of one operand form are decoded by the lemma of the form, at the row of each. -/
theorem decodeEncode : Obligations.DecodeEncode := by
  intro i h w hw
  cases i
  all_goals cases hw
  case' add f | sub f | mul f | mulh f | div f | rem f | min f | max f | and f | or f | xor f | andn f | orn f | shl f | shr f
    | sar f | rol f | bfx f => refine decode_eInt3 ?_ h
  case' addi f | andi f | ori f | xori f | shli f | shri f | sari f => refine decode_eIntI ?_ h
  case' addc f ci | subb f ci => refine decode_eInt4_carry ?_ h
  case' mad f | madw f | clamp f | addmin f | addmax f | bfi f => refine decode_eInt4 ?_ h
  case' abs f | popc f | clz f | ctz f | brev f => refine decode_eInt2 ?_ h
  case' bperm f | sel f => refine decode_ePlain4 ?_ h
  case' cmp f | lea f => refine decode_eInt4x ?_ h
  case cmpi f => exact decode_cmpi h
  case mov f => exact decode_mov h
  case plog f => exact decode_plog h
  case pset f => exact decode_pset h
  case vote f => exact decode_vote h
  case' ballot f | match_ f => refine decode_eLvlF_imm ?_ h
  case' fadd f | fsub f | fmul f | fdiv f | fscale f => refine decode_eFlt3 ?_ h
  case' ffma f | ffms f | fnma f | twosum f | faddmin f => refine decode_eFlt4 ?_ h
  case' fmin f | fmax f => refine decode_eFMinMax ?_ h
  case' fabs f | fneg f | fclass f | fgetexp f | fgetmant f => refine decode_eFUn ?_ h
  case fsign f => exact decode_fsign h
  case fcmp f => exact decode_fcmp h
  case' fsqrt f | frnd f => refine decode_eFlt2 ?_ h
  case' cvtf f | unpack f => refine decode_eCvtF ?_ h
  case' cvtfi f | cvtif f => refine decode_eCvtI ?_ h
  case cvtn f => exact decode_cvtn h
  case scaleest f => exact decode_scaleest h
  case cbdec f => exact decode_cbdec h
  case pack f => exact decode_pack h
  case' exp2 f | log2 f | sinpi f | cospi f | tanh f | sigm f | erf f | rcp f | rsqrt f | silu f | rcpseed f | rsqseed f =>
    refine decode_eSfu ?_ h
  case shfl f => exact decode_shfl h
  case lshift f => exact decode_lshift h
  case' scan f | reduce f => refine decode_eScanF ?_ h
  case' compact f | elect f => refine decode_eLvlF ?_ h
  case ld f => exact decode_ld h
  case lr f => exact decode_lr h
  case' st f | pref f => refine decode_eStF ?_ h
  case' ldp f | stp f => refine decode_eMemP ?_ h
  case ldx f => exact decode_ldx h
  case atom f => exact decode_atom h
  case sc f => exact decode_sc h
  case fence f => exact decode_fence h
  case cctl f => exact decode_cctl h
  case' bar f | quiesce f => refine decode_eLvlOnly (lo := 0) (hi := 6) ?_ h
  case bara f => exact decode_bara h
  case' barw f => refine decode_eLvlA (lo := 0) (hi := 6) ?_ h
  case' mbar f => refine decode_eLvlA (lo := 1) (hi := 6) ?_ h
  case chunkend g => exact decode_chunkend h
  case lehrw f => exact decode_lehrw h
  case lehrpush f => exact decode_lehrpush h
  case lehrread f => exact decode_lehrread h
  case lehrclr f => exact decode_lehrclr h
  case worknext f => exact decode_worknext h
  case emit f => exact decode_emit h
  case waitseq f => exact decode_waitseq h
  case waitval f => exact decode_waitval h
  case nbrpush f => exact decode_nbrpush h
  case nbrpop f => exact decode_nbrpop h
  case bra f => exact decode_bra h
  case bru f => exact decode_bru h
  case' jmp f | call f | calli f | ret f | pcget f => refine decode_eCtlF ?_ h
  case coswap f => exact decode_coswap h
  case' exit g | yield g | nop g | eret g => refine decode_guarded ?_ h
  case movl f => exact decode_movl h
  case addl f => exact decode_addl h
  case pairNop a b | pairMov a b | pairAdd a b | pairAddi a b | pairSub a b | pairAnd a b | pairOr a b | pairXor a b | pairShli a b
    | pairShri a b | pairSari a b | pairMin a b | pairMax a b | pairMul a b | pairFaddF32 a b | pairFmulF32 a b | pairFaddF64 a b
    | pairFmulF64 a b | pairFminF64 a b | pairFmaxF64 a b | pairFminF32 a b | pairFmaxF32 a b | pairMovi a b =>
    exact decode_encPair h
  case mma x | mfmt x | accz x | accld x | accst x | cbload x | scload x | msync x | copy x | copymma x | gather x | scatter x
    | expand x | fill x | publish x | rcopy x | chain x | tail x | seq x | coll x | arm x | cntrd x | cntadd x | disarm x =>
    refine decode_eXc ?_ h
    intro w e
    rw [xcWordShape, readXc, e]
    exact ⟨rfl, rfl⟩
  case' trap f | bkpt f => refine decode_eTrapF ?_ h
  case sysrd f => exact decode_sysrd h
  case syswr f => exact decode_syswr h
  case grpsel f => exact decode_grpsel h
  case grprd f => exact decode_grprd h
  case grpwr f => exact decode_grpwr h
  case grpres f => exact decode_grpres h
  case tlbinv f => exact decode_tlbinv h
  case halt f => exact decode_halt h
  all_goals
    intro w e
    rw [wordShape, readFull, e]
    exact ⟨rfl, rfl⟩

end Sys2Proof
end

section
/-! Proof of O21: YIELD raises the fairness counter of its block and closes the open window (R30, R218). -/

namespace Sys2Proof.Machine

/-! ### YIELD has no source -/

/-- A row of format FB whose specifier is unused names no source. -/
theorem sourceOps_of_row {op : BitVec 8} {zero : Word} {rd : Word → Instr} (row : Row op (fun w => shapeB w zero .unused) rd)
    (g : Guard) (m : BitVec 5) (a : BitVec 10) (off : BitVec 32) : sourceOps (encFB op g m a off) = [] := by
  have hs := (row _ (fOp_encFB op g m a off)).1
  rw [sourceOps, getLsbD_encFB_pairBit, usedSpecs, hs]
  rfl

theorem noted_yield (s : State) (g : Guard) (e : Site) : s.noted (.yield g) e = s.acts e := by
  have row : Row 0xC8 (fun w => shapeB w (mask 42 5 ||| mask 0 32) .unused) (fun w => .yield (fG w)) :=
    fun w e => by rw [wordShape, readFull, e]; exact ⟨rfl, rfl⟩
  rw [State.noted, show wordOf (.yield g) = encFB 0xC8 g 0 0 0 from rfl, sourceOps_of_row row]
  rfl

/-! ### What YIELD does to its block -/

/-- A thread of quadrant `q` stands in no open window any more. -/
def Thread.leaveWin (q : Nat) (th : Thread) : Thread := if th.quad = q then { th with inWin := false } else th

@[simp] theorem Thread.leaveWin_ltid (q : Nat) (th : Thread) : (th.leaveWin q).ltid = th.ltid := by
  unfold Thread.leaveWin; split <;> rfl

/-- The block's fairness counter in the site's quadrant stands at the launch's threshold, with no open window. -/
def Site.raises (s : State) (e : Site) (b : Block) : Block :=
  { b with fair := b.fair.set e.cur.quad ⟨(s.launchOf e.b).fairThr, 0⟩ }

/-- The block after YIELD: its counter is raised, and the threads of the quadrant leave the open window. -/
def Site.yields (s : State) (e : Site) (b : Block) : Block :=
  { e.raises s b with threads := b.threads.map (Thread.leaveWin e.cur.quad) }

/-- A thread of a block whose update changes every thread alike, and other fields as well. -/
theorem State.thread?_updBlock_map {f : Block → Block} {g : Thread → Thread} (hf : ∀ b, (f b).threads = b.threads.map g)
    (hg : ∀ th, (g th).ltid = th.ltid) (s : State) (c sl l : Nat) :
    (s.updBlock c sl f).thread? c sl l = (s.thread? c sl l).map g := by
  rw [State.thread?, State.block?_updBlock, State.thread?]
  cases s.block? c sl with
  | none => rfl
  | some b =>
    calc (f b).thread? l = ({ b with threads := b.threads.map g } : Block).thread? l := by rw [Block.thread?, hf]; rfl
      _ = (b.thread? l).map g := Block.thread?_map b g hg l

/-- A YIELD that reaches its effect passes its group and then updates its block. -/
theorem exec_yield_of_runs {g : Guard} {s : State} {e : Site} (h : Runs (.yield g) s e) :
    Completes (.yield g) s (((s.acts e).pass e).updBlock e.cur.core e.cur.slot (e.yields s)) := by
  have hx : exec (.yield g) s = .next (((s.noted (.yield g) e).pass e).updBlock e.cur.core e.cur.slot (fun b => { b with
      fair := b.fair.set e.cur.quad ⟨(s.launchOf e.b).fairThr, 0⟩
      threads := b.threads.map (fun th => if th.quad == e.cur.quad then { th with inWin := false } else th) })) :=
    congrArg Host.Outcome.next (issue_of_runs _ h)
  rw [Completes, hx, noted_yield]
  simp only [beq_iff_eq]
  rfl

/-- Settles O21: the pass moves the group on, and the update of its block is all else. -/
theorem yieldOpensWindow : Obligations.YieldOpensWindow := by
  intro g s e h
  obtain ⟨hgo, honly, hblock, hheld⟩ := (Quiet.acts s e).pass e
  refine ⟨_, exec_yield_of_runs h, fun l => ?_, honly.trans (OnlyBlock.updBlock _ e _), ?_, ?_⟩
  · rw [State.thread?_updBlock_map (f := e.yields s) (fun _ => rfl) (Thread.leaveWin_ltid _), hgo l, Option.map_map]
    congr 1
    funext th
    simp only [Function.comp_apply, ite_self]
    split <;> rfl
  · rw [Holds, State.chunk_updBlock]
    exact hheld
  · exact hblock.trans_updBlock (f := e.yields s) fun _ _ hb => congrArg (e.raises s) hb

end Sys2Proof.Machine
end

section
/-! Proof of O2: words written out from the encodings (R166, R179, R219). -/

namespace Sys2Proof

/-- Settles O2: each of the words is the encoding of its instruction, which is well formed. -/
theorem decodeOfWords : Obligations.DecodeOfWords := by
  refine ⟨?_, ?_, ?_, ?_, ?_, ?_⟩ <;> exact decodeEncode _ (by decide) _ (by decide)

end Sys2Proof
end

section
/-! Proof of O16: BRA (R213). -/

namespace Sys2Proof.Machine

/-- Settles O16: BRA transfers without a check. -/
theorem braGoes : Obligations.BraGoes := fun _ _ _ h => transfer_completes h _ (fun _ => rfl) rfl

end Sys2Proof.Machine
end

section
/-! Proof of O10: TWOSUM writes sums and errors, PACK moves element bits (R228, R238). -/

namespace Sys2Proof.Machine

/-- The sum, the error and the flags of TWOSUM in each element (R228). -/
def twosumElems (f : Flt4) (s : State) (e : Site) (th : Thread) : List (Nat × Nat × FFlags) :=
  let x := fun (o : Operand) (k : Nat) => (ffOf f.m.fmt).input f.m.ftz (fltEl f.m.fmt (fltSrc s e th f.m.fmt o) k)
  (List.range f.m.fmt.ne).map (fun k => (ffOf f.m.fmt).twosum (th.rm f.m.rm) f.m.ftz (x f.a k) (x f.b k))

/-- TWOSUM in an active member: the sums to `d`, then the errors to `c`, and the union of the flags (R86, R228). -/
def twosumEffect (f : Flt4) : Effect := fun s e th =>
  let rs := twosumElems f s e th
  (putD f.c (pack (ffOf f.m.fmt).bits (rs.map (fun r => r.2.1)))
    (putD f.d (pack (ffOf f.m.fmt).bits (rs.map (fun r => r.1))) th)).flag (rs.foldl (fun fl r => fl ||| r.2.2) fNone)

/-- The low bits of the elements that PACK moves together (R238). -/
def packedBits (f : PackF) (s : State) (e : Site) (th : Thread) : Word :=
  if f.n4 then pack 4 ((List.range 16).map (fun j => if j < 8 then elem (e.read s th f.a) 8 j
    else elem (e.read s th f.b) 8 (j - 8)))
  else pack 6 ((List.range 8).map (fun j => elem (e.read s th f.a) 8 j))

theorem exec_twosum (f : Flt4) (s : State) :
    exec (.twosum f) s = .next (issue (.twosum f) (simple (.twosum f) (twosumEffect f)) s) := rfl

theorem exec_pack (f : PackF) (s : State) : exec (.pack f) s = .next (issue (.pack f) (simple (.pack f)
    (fun s e th => putD f.d (packedBits f s e th) th)) s) := rfl

theorem twosumEffect_ltid (f : Flt4) (s : State) (e : Site) (th : Thread) : (twosumEffect f s e th).ltid = th.ltid := by
  rw [twosumEffect, Thread.flag_ltid, putD_ltid, putD_ltid]

/-- Settles O10: each word is its effect on each active member in the open chunk. -/
theorem twosumAndPack : Obligations.TwosumAndPack :=
  ⟨fun f s _ h => ⟨_, exec_twosum f s, issue_simple_goes _ h (twosumEffect_ltid f)⟩,
    fun f s _ h => ⟨_, exec_pack f s, issue_simple_goes _ h fun _ _ _ => putD_ltid _ _ _⟩⟩

end Sys2Proof.Machine
end

section
/-! Proof of O24, first part: the results that depend on the contributors' ranks (R209, R210, R245, R246, R248-R250). -/

namespace Sys2Proof.Machine

/-! ### The contributor of a rank -/

theorem valueAt_eq_none {ps : List Party} {r : Nat} (h : ∀ q ∈ ps, q.act = true → q.rank ≠ r) : valueAt ps r = none := by
  have hf : ps.find? (fun q => q.act && q.rank == r) = none :=
    List.find?_eq_none.2 fun q hq hr => by
      obtain ⟨ha, hr⟩ := Bool.and_eq_true_iff.1 hr
      exact h q hq ha (beq_iff_eq.1 hr)
  rw [valueAt, hf]
  rfl

/-! ### SHFL and LSHIFT -/

/-- The rank that lies `k` below `m`, when there is one. -/
theorem add_eq_iff_below (r k m : Nat) : r + k = m ↔ (if m < k then none else some (m - k)) = some r := by
  split
  · simp only [reduceCtorEq, iff_false]; omega
  · simp only [Option.some.injEq]; omega

theorem shflNames_iff (mode : Nat) (p : Party) (r : Nat) : shflNames mode p r ↔ shflSource mode p.rank p.b = some r := by
  match mode with
  | 0 => simp only [shflNames, shflSource, Option.some.injEq, eq_comm]
  | 1 => exact add_eq_iff_below r p.b.toNat p.rank
  | 2 => simp only [shflNames, shflSource, Option.some.injEq, eq_comm]
  | n + 3 => simp only [shflNames, shflSource, Option.some.injEq, eq_comm]

theorem lshiftNames_iff (down : Bool) (k : Nat) (p : Party) (r : Nat) :
    lshiftNames down k p r ↔ lshiftSource down p.rank k = some r := by
  cases down with
  | true => simp only [lshiftNames, lshiftSource, if_true, Option.some.injEq, eq_comm]
  | false => exact add_eq_iff_below r k p.rank

section
variable {ps : List Party} (hu : ∀ q ∈ ps, ∀ r ∈ ps, q.act = true → r.act = true → q.rank = r.rank → q = r)
include hu

/-- Ranks tell the contributors apart, so the value at a contributor's rank is its own. -/
theorem valueAt_rank {q : Party} (hq : q ∈ ps) (ha : q.act = true) : valueAt ps q.rank = some q.a := by
  have hsome : (ps.find? (fun o => o.act && o.rank == q.rank)).isSome = true :=
    List.find?_isSome.2 ⟨q, hq, by rw [ha, beq_self_eq_true]; rfl⟩
  obtain ⟨o, ho⟩ := Option.isSome_iff_exists.1 hsome
  obtain ⟨hoa, hor⟩ : o.act = true ∧ o.rank = q.rank := by simpa using List.find?_some ho
  rw [valueAt, ho, hu o (List.mem_of_find?_eq_some ho) q hq hoa ha hor]
  rfl

/-- A source rank's value is that of the contributor it names, or else the thread's own (R245, R246). -/
theorem fromRank_named (n : Nat) {names : Nat → Prop} {src : Option Nat} (h : ∀ r, names r ↔ src = some r) (own : Word) :
    FromNamed n ps names own (fromRank ps n src own) := by
  refine ⟨fun q hq ha hn hr => ?_, fun hno => ?_⟩
  · simp only [(h _).1 hr, fromRank, hn, if_true, valueAt_rank hu hq ha, Option.getD_some]
  · cases src with
    | none => rfl
    | some r =>
      simp only [fromRank]
      split
      next hn =>
        have hnone : valueAt ps r = none := valueAt_eq_none fun q hq ha hr =>
          hno q hq ha (hr ▸ hn) ((h _).2 (congrArg some hr.symm))
        rw [hnone, Option.getD_none]
      next => rfl

end

/-! ### Masks of ranks -/

theorem getLsbD_two_pow {i : Nat} (hi : i < 64) (j : Nat) : (BitVec.ofNat 64 (2 ^ i)).getLsbD j = decide (i = j) := by
  rw [BitVec.getLsbD_ofNat, Nat.testBit_two_pow, Bool.and_eq_right_iff_imp]
  intro h
  have hij : i = j := of_decide_eq_true h
  exact decide_eq_true (hij ▸ hi)

/-- The bits of a mask are the ranks of its window that pass (R210, R249). -/
theorem getLsbD_rankMask (ps : List Party) (k : Nat) (ok : Party → Bool) (j : Nat) :
    (rankMask ps k ok).getLsbD j = true ↔
      ∃ q ∈ ps, q.act = true ∧ q.rank = 64 * k + j ∧ j < 64 ∧ ok q = true := by
  suffices hacc : ∀ m : Word, (ps.foldl (fun m p => if p.act && p.rank / 64 == k && ok p
      then m ||| BitVec.ofNat 64 (2 ^ (p.rank % 64)) else m) m).getLsbD j = true ↔
      m.getLsbD j = true ∨ ∃ q ∈ ps, q.act = true ∧ q.rank = 64 * k + j ∧ j < 64 ∧ ok q = true by
    rw [rankMask, hacc 0]
    exact or_iff_right (ne_true_of_eq_false BitVec.getLsbD_zero)
  induction ps with
  | nil => simp
  | cons p ps ih =>
    intro m
    have hrank : p.rank = 64 * k + j ∧ j < 64 ↔ p.rank / 64 = k ∧ p.rank % 64 = j := by omega
    have hlt : p.rank % 64 < 64 := Nat.mod_lt _ (by decide)
    rw [List.foldl_cons, ih, List.exists_mem_cons_iff, ← and_assoc (a := p.rank = _), hrank]
    split
    next hp =>
      simp only [Bool.and_eq_true, beq_iff_eq] at hp
      rw [BitVec.getLsbD_or, getLsbD_two_pow hlt, Bool.or_eq_true, decide_eq_true_eq, or_assoc]
      simp only [hp, true_and, and_true]
    next hp =>
      simp only [Bool.and_eq_true, beq_iff_eq] at hp
      have hno : ¬ (p.act = true ∧ (p.rank / 64 = k ∧ p.rank % 64 = j) ∧ ok p = true) :=
        fun ⟨ha, ⟨hk, _⟩, ho⟩ => hp ⟨⟨ha, hk⟩, ho⟩
      rw [or_iff_right (a := p.act = true ∧ _) hno]

/-! ### VOTE and ELECT -/

section
variable (ps : List Party) {mode : Nat}

/-- The truth values that VOTE combines (R209). -/
def voteValues : List Bool := (ps.filter (fun q => q.act)).map (fun q => q.a != 0)

theorem all_voteValues : (voteValues ps).all (fun v => v) = true ↔ ∀ q ∈ ps, q.act = true → q.a ≠ 0 := by
  simp [voteValues, ← Bool.not_eq_true, imp_iff_not_or]

theorem none_voteValues : (voteValues ps).all (fun v => !v) = true ↔ ∀ q ∈ ps, q.act = true → q.a = 0 := by
  simp [voteValues, ← Bool.not_eq_true, imp_iff_not_or]

theorem any_voteValues : (voteValues ps).any (fun v => v) = true ↔ ∃ q ∈ ps, q.act = true ∧ q.a ≠ 0 := by
  simp [voteValues]

theorem voteResult_all (h : mode = 0) :
    voteResult mode (voteValues ps) = true ↔ ∀ q ∈ ps, q.act = true → q.a ≠ 0 := by
  subst h; exact all_voteValues ps

theorem voteResult_any (h : mode = 1) :
    voteResult mode (voteValues ps) = true ↔ ∃ q ∈ ps, q.act = true ∧ q.a ≠ 0 := by
  subst h; exact any_voteValues ps

theorem voteResult_uni (h : 2 ≤ mode) : voteResult mode (voteValues ps) = true ↔
    (∀ q ∈ ps, q.act = true → q.a ≠ 0) ∨ ∀ q ∈ ps, q.act = true → q.a = 0 := by
  obtain ⟨n, rfl⟩ := Nat.exists_eq_add_of_le' h
  rw [voteResult, Bool.or_eq_true, all_voteValues, none_voteValues]
  all_goals exact nofun

/-- No contributor has a lower rank: the thread is elected (R250). -/
theorem boolWord_lowest (r : Nat) : boolWord (!(ps.any (fun q => q.act && q.rank < r)))
    = if ∀ q ∈ ps, q.act = true → r ≤ q.rank then 1 else 0 := by
  simp only [boolWord, Bool.not_eq_true', List.any_eq_false, Bool.and_eq_true, decide_eq_true_eq, not_and, Nat.not_lt]

end

/-! ### The results -/

section
variable (f : LvlF) (n : Nat) (ps : List Party) (p : Party) (th : Thread)

theorem rendEffect_elect : rendEffect (.elect f) n ps p th
    = putD f.d (if ∀ q ∈ ps, q.act = true → p.rank ≤ q.rank then 1 else 0) th := by
  rw [← boolWord_lowest]
  rfl

theorem rendEffect_compact : rendEffect (.compact f) n ps p th
    = putD f.b (BitVec.ofNat 64 (ps.filter (fun q => q.act && q.a != 0)).length)
      (putD f.d (BitVec.ofNat 64 (ps.filter (fun q => q.act && q.a != 0 && decide (q.rank < p.rank))).length) th) := by
  have hcomm : ∀ q : Party, (q.act && q.a != 0 && decide (q.rank < p.rank))
      = (q.act && decide (q.rank < p.rank) && q.a != 0) := fun q => Bool.and_right_comm ..
  simp only [hcomm]
  rfl

/-- MATCH gives the contributors of the window with the thread's own value, itself among them (R249). -/
theorem rendEffect_match (hp : p ∈ ps) (ha : p.act = true) : ∃ m : Word, rendEffect (.match_ f) n ps p th = putD f.d m th
    ∧ (∀ j, m.getLsbD j = true ↔ ∃ q ∈ ps, q.act = true ∧ q.rank = 64 * f.imm.toNat + j ∧ j < 64 ∧ q.a = p.a)
    ∧ (p.rank / 64 = f.imm.toNat → m.getLsbD (p.rank % 64) = true) := by
  have hbits := getLsbD_rankMask ps f.imm.toNat (fun q => q.a == p.a)
  simp only [beq_iff_eq] at hbits
  exact ⟨_, rfl, hbits, fun hw => (hbits _).2 ⟨p, hp, ha, by omega, by omega, rfl⟩⟩

theorem rendEffect_ballot : ∃ m : Word, rendEffect (.ballot f) n ps p th = putD f.d m th
    ∧ ∀ j, m.getLsbD j = true ↔ ∃ q ∈ ps, q.act = true ∧ q.rank = 64 * f.imm.toNat + j ∧ j < 64 ∧ q.a ≠ 0 := by
  have hbits := getLsbD_rankMask ps f.imm.toNat (fun q => q.a != 0)
  simp only [bne_iff_ne] at hbits
  exact ⟨_, rfl, hbits⟩

theorem rendEffect_vote : rendEffect (.vote f) n ps p th
    = putD f.d (boolWord (voteResult f.mode.toNat (voteValues ps))) th := rfl

theorem rendEffect_shfl : rendEffect (.shfl f) n ps p th
    = putD f.d (fromRank ps n (shflSource f.mode.toNat p.rank p.b) p.a) th := rfl

theorem rendEffect_lshift : rendEffect (.lshift f) n ps p th
    = putD f.d (fromRank ps n (lshiftSource (f.mode != 0) p.rank f.imm.toNat) p.b) th := rfl

end

end Sys2Proof.Machine
end

section
/-! Proof of O24, second part: over an integer operator the tree of R96 and the values of R97 are left-nested combinations. -/

namespace Sys2Proof.Machine

/-! ### The integer operators -/

section
variable {op : RedOp} (h : redFmt op = none)
include h

theorem redVal_of_integer (x : Word) : redVal op x = x := by
  cases op <;> cases h <;> rfl

/-- An integer operator knows no rounding mode and raises no flag (R64). -/
theorem redApp_of_integer (rm : RM) (a b : Word) : redApp op rm a b = ((redApp op .rne a b).1, fNone) := by
  cases op <;> cases h <;> rfl

theorem redApp_assoc (a b c : Word) :
    (redApp op .rne (redApp op .rne a b).1 c).1 = (redApp op .rne a (redApp op .rne b c).1).1 := by
  cases op <;> cases h
  case addN64 => exact BitVec.add_assoc a b c
  case addI64 => exact BitVec.add_assoc a b c
  case and => exact BitVec.and_assoc a b c
  case or => exact BitVec.or_assoc a b c
  case xor => exact BitVec.xor_assoc a b c
  case minI64 | maxI64 | minN64 | maxN64 =>
    -- Either way the first extreme value of the three is left, so the comparisons decide each case.
    simp only [redApp]
    grind

/-- The combination of two runs of values is that of the combinations of the two. -/
theorem leftNested_append {xs ys : List Word} (hx : xs ≠ []) (hy : ys ≠ []) :
    leftNested op (xs ++ ys) = (redApp op .rne (leftNested op xs) (leftNested op ys)).1 := by
  obtain ⟨x, xs, rfl⟩ := List.exists_cons_of_ne_nil hx
  obtain ⟨y, ys, rfl⟩ := List.exists_cons_of_ne_nil hy
  have hassoc : Std.Associative (fun a v : Word => (redApp op .rne a v).1) := ⟨redApp_assoc h⟩
  simp only [leftNested, List.cons_append, List.foldl_append, List.foldl_cons]
  exact List.foldl_assoc

end

/-! ### Spans -/

/-- The value of a span that holds some values, with no flags; a span without a value is absent (R96). -/
def spanOf (op : RedOp) (xs : List Word) : Option WRes := if xs = [] then none else some (leftNested op xs, fNone)

theorem spanOf_getD (op : RedOp) (xs : List Word) : (spanOf op xs).getD (0, fNone) = (leftNested op xs, fNone) := by
  cases xs <;> rfl

section
variable {op : RedOp} (h : redFmt op = none) (rm : RM) (x : Nat → Option Word)
include h

/-- Two spans combine to the span of the values of both. -/
theorem redJoin_spanOf (xs ys : List Word) :
    redJoin op rm (spanOf op xs) (spanOf op ys) = spanOf op (xs ++ ys) := by
  by_cases hx : xs = []
  · subst hx; rfl
  by_cases hy : ys = []
  · subst hy
    rw [List.append_nil, spanOf, spanOf, if_neg hx]
    rfl
  · have happ : xs ++ ys ≠ [] := List.append_ne_nil_of_left_ne_nil hx ys
    simp only [spanOf, if_neg hx, if_neg hy, if_neg happ, redJoin, redApp_of_integer h rm, leftNested_append h hx hy]
    rfl

/-- The tree over an aligned span combines the values of its present ranks in ascending rank (R96). -/
theorem redTree_eq_spanOf (lo k : Nat) : redTree op rm x lo k = spanOf op ((List.range' lo (2 ^ k)).filterMap x) := by
  induction k generalizing lo with
  | zero =>
    cases hx : x lo with
    | none => simp [redTree, spanOf, hx]
    | some w => simp [redTree, spanOf, hx, leftNested, redVal_of_integer h]
  | succ k ih =>
    have hsplit : List.range' lo (2 ^ (k + 1)) = List.range' lo (2 ^ k) ++ List.range' (lo + 2 ^ k) (2 ^ k) := by
      rw [List.range'_append_1, ← two_mul, pow_succ']
    rw [redTree, ih, ih, redJoin_spanOf h, hsplit, List.filterMap_append]

/-- The spans of the bits of `m` below `n`, taken from rank `b` on, cover the `m % 2^n` ranks from there (R97). -/
theorem spans_eq_spanOf (m n b : Nat) :
    (List.range n).reverse.foldl (fun (acc : Option WRes × Nat) k =>
      if m.testBit k then (redJoin op rm acc.1 (redTree op rm x acc.2 k), acc.2 + 2 ^ k) else acc)
      (spanOf op ((List.range b).filterMap x), b)
      = (spanOf op ((List.range (b + m % 2 ^ n)).filterMap x), b + m % 2 ^ n) := by
  induction n generalizing b with
  | zero => simp [Nat.mod_one]
  | succ n ih =>
    rw [List.range_succ, List.reverse_concat, List.foldl_cons, Nat.mod_pow_succ, ← Nat.toNat_testBit]
    cases hb : m.testBit n with
    | false => simpa [hb] using ih b
    | true =>
      have hjoin : redJoin op rm (spanOf op ((List.range b).filterMap x)) (redTree op rm x b n)
          = spanOf op ((List.range (b + 2 ^ n)).filterMap x) := by
        rw [redTree_eq_spanOf h, redJoin_spanOf h, ← List.filterMap_append, List.range_eq_range', List.range_eq_range',
          ← List.range'_append_1, Nat.zero_add]
      have hnext : b + (m % 2 ^ n + 2 ^ n * true.toNat) = b + 2 ^ n + m % 2 ^ n := by
        rw [Bool.toNat_true]; omega
      simp only [if_true, hjoin, hnext, ih (b + 2 ^ n)]

/-- The value of R97 below a rank combines the values below that rank in ascending rank. -/
theorem prefixOf_eq_spanOf {m : Nat} (hm : m < 2 ^ 32) : prefixOf op rm x m = spanOf op ((List.range m).filterMap x) := by
  have hspans := spans_eq_spanOf h rm x m 32 0
  rw [Nat.mod_eq_of_lt hm, Nat.zero_add] at hspans
  exact congrArg Prod.fst hspans

end

/-- The tree of R96 has a place for every rank. -/
theorem le_two_pow_treeLog {n : Nat} (hn : n ≤ 2 ^ 63) : n ≤ 2 ^ treeLog n := by
  have hsome : ((List.range 64).find? (fun k => decide (n ≤ 2 ^ k))).isSome = true :=
    List.find?_isSome.2 ⟨63, List.mem_range.2 (by decide), decide_eq_true hn⟩
  obtain ⟨k, hk⟩ := Option.isSome_iff_exists.1 hsome
  rw [treeLog, hk, Option.getD_some]
  simpa using List.find?_some hk

/-- REDUCE over an integer operator (R96). -/
theorem reduction_of_integer {op : RedOp} (h : redFmt op = none) (rm : RM) (ps : List Party) (n : Nat) :
    reduction op rm (valueAt ps) n = (leftNested op (valuesBelow ps (2 ^ treeLog n)), fNone) := by
  rw [reduction, redTree_eq_spanOf h, ← List.range_eq_range', spanOf_getD]
  rfl

/-- SCAN over an integer operator (R97). -/
theorem scanAt_of_integer {f : ScanF} (h : redFmt f.red = none) (ps : List Party) {r : Nat} (hr : r + 1 < 2 ^ 32) :
    scanAt f ps r = (leftNested f.red (valuesBelow ps (if f.excl then r else r + 1)), fNone) := by
  have hm : (if f.excl then r else r + 1) < 2 ^ 32 := by split <;> omega
  rw [scanAt, prefixOf_eq_spanOf h _ _ hm, spanOf_getD]
  rfl

/-- Settles O24: each word's result by its own lemma, then the tree, and the integer reductions. -/
theorem rankedResults : Obligations.RankedResults := by
  refine ⟨fun n ps p th hp ha => ⟨?elect, ?compact, ?mtch, ?vote, ?ballot, fun hu => ⟨?shfl, ?lshift⟩, ?reduce, ?scan⟩,
    ?tree, ?reduction, ?scanValue⟩
  case elect => exact fun f => rendEffect_elect f n ps p th
  case compact => exact fun f => rendEffect_compact f n ps p th
  case mtch => exact fun f => rendEffect_match f n ps p th hp ha
  case vote =>
    exact fun f => ⟨_, rendEffect_vote f n ps p th, voteResult_all ps, voteResult_any ps, voteResult_uni ps⟩
  case ballot => exact fun f => rendEffect_ballot f n ps p th
  case shfl => exact fun f => ⟨_, rendEffect_shfl f n ps p th, fromRank_named hu n (shflNames_iff _ p) _⟩
  case lshift => exact fun f => ⟨_, rendEffect_lshift f n ps p th, fromRank_named hu n (lshiftNames_iff _ _ p) _⟩
  case reduce => exact fun f => rfl
  case scan => exact fun f => rfl
  case tree => exact fun op rm x lo k => rfl
  case reduction => exact fun op rm ps n h hn => ⟨reduction_of_integer h rm ps n, le_two_pow_treeLog hn⟩
  case scanValue => exact fun f ps r h hr => scanAt_of_integer h ps hr

end Sys2Proof.Machine
end

section
/-! Refutation of O30: the landing of a transfer of the handler can change a byte that it does not write, as the handler reads it. It is
the state of the refutation of O26, whose table of blocks does not stand in the order of its slots (R120, R142): the landing detaches the
transfer from the handler's block, and so puts that block before the served one, whose writes in place give way. -/

namespace Sys2Proof.Machine

/-- A transfer of the handler: the 8 bytes at 0x10100 go to the end of the window. -/
def reorderingXfer : LdxXfer := ⟨0x10100, 0, sliceKey 1016, 8, 0, 0, true, none, 0x10100, 0⟩

/-- The handler's block, with the transfer attached to the object of its thread's node. -/
def landingBlock : Block := { reorderingBlock with
  ldx := [reorderingXfer], bars := [(nodeKey 0 0 0, { Bar.new with pending := 1 })] }

/-- The state before the landing: `reordering` with the transfer in flight. -/
def landing : State :=
  reordering.updArch 0 (fun a => { a with blocks := [(17, reorderedBlock), (16, landingBlock)] })

/-- Before the landing the handler reads at 2^56 what the served block has written in place. -/
theorem landing_before : landing.handlerReads = [1] := by decide

/-- What the handler reads at 2^56 after the landing: memory. -/
theorem landing_after {t : State} (h : Completes (.ldxTransferLanded 0 16 0) landing t) : t.handlerReads = [0] := by
  have hx : (match exec (.ldxTransferLanded 0 16 0) landing with | .next t => t.handlerReads | _ => []) = [0] := by decide
  rw [Completes] at h
  rw [h] at hx
  exact hx

/-- Refutes O30: in `landing` the transfer's landing at 2^56 + 1016 changes the byte that the handler reads at 2^56. -/
theorem not_ldxAndLanding : ¬ Obligations.LdxAndLanding := by
  rintro ⟨-, hland⟩
  obtain ⟨t, -, hdone, -, -, -, -, hframe, -⟩ := hland 0 16 0 landing landingBlock reorderingXfer rfl rfl rfl (by decide) (by decide)
    (by decide) (by decide) (by decide)
  have hbyte : t.handlerReads = landing.handlerReads := hframe (2 ^ 56) (Or.inl (by decide))
  rw [landing_before, landing_after hdone] at hbyte
  exact absurd hbyte (by decide)

end Sys2Proof.Machine
end

section
/-! Proof of O32: the phase of an object inside a block completes, takes its sweep or waits (R261, R264, R266). -/

namespace Sys2Proof.Machine

/-! ### Objects and threads of a block -/

/-- The object of a thread's node of level `l` inside the block. -/
def Block.objectAt (b : Block) (t : Tree) (l tid : Nat) : Bar := Tab.get Bar.new b.bars (nodeKey l (barNode t l b tid) 0)

/-- The block with another object at a node of level `l`. -/
def Block.setObject (l n : Nat) (o : Bar) (b : Block) : Block := { b with bars := Tab.set Bar.new b.bars (nodeKey l n 0) o }

/-- The object of a phase that has completed (R261; log 110). -/
def Bar.completed (o : Bar) : Bar :=
  { o with count := o.count + 1, arrived := 0, kind := 0, mask := 0, who := [], sweep := none, clkOut := o.clkIn, clkIn := [] }

/-- The block once the threads of a node have left the node's phase (R261, R264). -/
def Block.leavePhase (t : Tree) (l n : Nat) (clk : Tab Nat) (b : Block) : Block :=
  { b with threads := b.threads.map (fun th => if !th.exited && barNode t l b th.ltid == n then th.leaveBar l clk else th) }

@[simp] theorem Block.get_setObject (l n : Nat) (o : Bar) (b : Block) :
    Tab.get Bar.new (b.setObject l n o).bars (nodeKey l n 0) = o := Tab.get_set_same ..

@[simp] theorem Block.leavePhase_bars (t : Tree) (l n : Nat) (clk : Tab Nat) (b : Block) : (b.leavePhase t l n clk).bars = b.bars := rfl

/-! ### The caches of a node's cores -/

/-- The cores of a quiesce phase have no L1 copies when it completes (R266). -/
def State.phaseSwept (s : State) (o : Bar) (cs : List Nat) : State :=
  if o.kind = 3 then cs.foldl (fun s c => s.dropL1 c true) s else s

section
variable (s : State) (o : Bar) (cs : List Nat)

theorem KeepsCores.phaseSwept : KeepsCores s (s.phaseSwept o cs) := by
  unfold State.phaseSwept
  split
  · exact KeepsCores.foldl (fun s c => KeepsCores.dropL1 s c true) cs s
  · exact KeepsCores.refl s

theorem phaseSwept_mem : (s.phaseSwept o cs).mem = s.mem := by
  unfold State.phaseSwept
  split
  · exact foldl_keeps State.mem (f := fun s c => s.dropL1 c true) (fun _ _ => rfl) cs s
  · rfl

/-- Below CLUSTER the end of a phase that is no quiesce phase drops no copy (R262). -/
theorem foldl_observe_low : cs.foldl (fun s c => s.observe c false) s = s :=
  List.foldl_fixed' (fun _ => rfl) cs

theorem l1_updBlock (c sl d : Nat) (f : Block → Block) : ((s.updBlock c sl f).core d).l1 = (s.core d).l1 := by
  by_cases hd : d = c
  · rw [hd, State.updBlock, State.core_updArch]
  · rw [State.updBlock, State.core_updArch_ne _ _ hd]

/-- The cores that hold the threads of a node inside a block with such threads: the block's own. -/
theorem nodeCores_below {c sl l tid : Nat} {b : Block} {t : Tree} (hl : l ≤ t.blockLvl) (hne : b.nodeMates t l tid ≠ []) :
    nodeCores (s.nodeThreads c sl b t l tid) = [c] := by
  have hrep : ((b.nodeMates t l tid).map (fun th => (c, sl, b, th))).map (fun q => q.1)
      = List.replicate (b.nodeMates t l tid).length c := by
    rw [List.map_map, ← List.map_const']
    rfl
  rw [State.nodeThreads_below _ _ _ _ _ hl, nodeCores, hrep, List.replicate_dedup (mt List.length_eq_zero_iff.1 hne)]

end

/-! ### The three ends of the event -/

/-- The state once a phase of a thread's node inside the block has completed (R261, R266). -/
def State.phaseCompleted (s : State) (c sl l tid : Nat) (b : Block) : State :=
  let t := s.treeOf sl b
  let o := b.objectAt t l tid
  (((s.opened c sl).phaseSwept o (nodeCores (s.nodeThreads c sl b t l tid))).updBlock c sl
    (Block.setObject l (barNode t l b tid) o.completed)).updBlock c sl (Block.leavePhase t l (barNode t l b tid) o.clkIn)

/-- The object of a quiesce phase that has taken the number of accesses that each core has released so far (R266). -/
def State.sweepTaken (s : State) (c sl l tid : Nat) (b : Block) : Bar :=
  { b.objectAt (s.treeOf sl b) l tid with
    sweep := some ((nodeCores (s.nodeThreads c sl b (s.treeOf sl b) l tid)).map (fun c => (c, Tab.get 0 (s.core c).sent (s.ctxOf b)))) }

section
variable {s : State} {c sl tid l : Nat} {b : Block}

/-- What a ready phase inside a block does: it takes its sweep, waits for it, or completes. -/
theorem completePhase_of_ready (hb : s.block? c sl = some b) (hd : l < (s.treeOf sl b).depth) (hl : l ≤ (s.treeOf sl b).blockLvl)
    (hr : s.phaseReady c sl b (s.treeOf sl b) l tid (b.objectAt (s.treeOf sl b) l tid) = true) :
    let o := b.objectAt (s.treeOf sl b) l tid
    s.completePhase c sl tid l =
      if o.kind = 3 ∧ o.sweep = none then
        s.updBlock c sl (Block.setObject l (barNode (s.treeOf sl b) l b tid) (s.sweepTaken c sl l tid b))
      else if o.kind = 3 ∧ ∃ p ∈ o.sweep.getD [], ¬ p.2 ≤ s.doneOf p.1 (s.ctxOf b) then s
      else s.phaseCompleted c sl l tid b := by
  have hbar : s.bar b (s.treeOf sl b) l (barNode (s.treeOf sl b) l b tid) = b.objectAt (s.treeOf sl b) l tid := if_pos hl
  have hset : ∀ (u : State) (o : Bar), u.setBar c sl b (s.treeOf sl b) l (barNode (s.treeOf sl b) l b tid) o
      = u.updBlock c sl (Block.setObject l (barNode (s.treeOf sl b) l b tid) o) := fun u o => if_pos hl
  have hopen : s.opened c sl = if s.isExact sl b then s else s.dirty c := by rw [State.opened, hb]
  unfold State.completePhase
  simp only [hb, hbar, hset, hr, decide_eq_false (Nat.not_le.2 hd), decide_eq_false (Nat.not_lt.2 hl), Bool.not_true, Bool.false_or,
    Bool.false_eq_true, ↓reduceIte, foldl_observe_low, ← hopen]
  exact if_congr (by simp) rfl (if_congr (by simp) rfl (if_neg (Nat.not_lt.2 hl)))

theorem block?_phaseCompleted (hb : s.block? c sl = some b) : (s.phaseCompleted c sl l tid b).block? c sl
    = some ((b.setObject l (barNode (s.treeOf sl b) l b tid) (b.objectAt (s.treeOf sl b) l tid).completed).leavePhase
      (s.treeOf sl b) l (barNode (s.treeOf sl b) l b tid) (b.objectAt (s.treeOf sl b) l tid).clkIn) := by
  rw [State.phaseCompleted, State.block?_updBlock, State.block?_updBlock, (KeepsCores.phaseSwept ..).block?,
    (Quiet.opened s c sl).block?, hb]
  rfl

theorem phaseCompleted_mem : (s.phaseCompleted c sl l tid b).mem = s.mem :=
  (phaseSwept_mem ..).trans (Quiet.opened s c sl).mem

/-- No copy is left in the core of a block with threads of the node when a quiesce phase completes (R266). -/
theorem l1_phaseCompleted (hl : l ≤ (s.treeOf sl b).blockLvl) (hk : (b.objectAt (s.treeOf sl b) l tid).kind = 3)
    (hne : b.nodeMates (s.treeOf sl b) l tid ≠ []) : ((s.phaseCompleted c sl l tid b).core c).l1 = [] := by
  rw [State.phaseCompleted, l1_updBlock, l1_updBlock, nodeCores_below s hl hne, State.phaseSwept, if_pos hk, List.foldl_cons,
    List.foldl_nil, l1_dropL1, if_pos rfl]

end

/-- A thread of a node inside a block that has not exited. -/
theorem mem_nodeMates {b : Block} {t : Tree} {l tid : Nat} {th : Thread} (hl : l ≤ t.blockLvl) :
    th ∈ b.nodeMates t l tid ↔ th ∈ b.threads ∧ th.live = true ∧ barNode t l b th.ltid = barNode t l b tid := by
  rw [barNode, barNode, if_pos hl, if_pos hl, Block.nodeMates, List.mem_filter, Bool.and_eq_true, beq_iff_eq]

/-- Settles O32, by the three ends of the event: a phase whose sweep is taken and done completes, one without a sweep takes it, and one
with accesses that are not yet performed waits. -/
theorem barrierCompletes : Obligations.BarrierCompletes := by
  intro c sl tid l s b hb hd hl t n o done hr
  have hx : s.completePhase c sl tid l = _ := completePhase_of_ready hb hd hl hr
  refine ⟨fun hq => ?complete, fun hk hs => ?sweep, fun sw hk hs hp => ?wait⟩
  case complete =>
    have htaken : ¬(o.kind = 3 ∧ o.sweep = none) := by
      rintro ⟨hk, hnone⟩
      obtain ⟨sw, hsw, -⟩ := hq.resolve_left (not_not_intro hk)
      exact Option.some_ne_none sw (hsw.symm.trans hnone)
    have hdone : ¬(o.kind = 3 ∧ ∃ p ∈ o.sweep.getD [], ¬ done p) := by
      rintro ⟨hk, p, hp, hnot⟩
      obtain ⟨sw, hsw, hall⟩ := hq.resolve_left (not_not_intro hk)
      rw [hsw] at hp
      exact hnot (hall p hp)
    refine ⟨_, _, congrArg Host.Outcome.next (hx.trans ((if_neg htaken).trans (if_neg hdone))), block?_phaseCompleted hb,
      ?_, rfl, fun hk hth => ?_, fun a => ?_⟩
    · rw [Block.leavePhase_bars, Block.get_setObject]
      exact ⟨rfl, rfl, rfl, rfl, rfl⟩
    · obtain ⟨th, hth⟩ := hth
      exact l1_phaseCompleted hl hk (List.ne_nil_of_mem ((mem_nodeMates hl).2 hth))
    · rw [phaseCompleted_mem]
  case sweep =>
    exact ⟨_, _, congrArg Host.Outcome.next (hx.trans (if_pos ⟨hk, hs⟩)), by rw [State.block?_updBlock, hb]; rfl,
      Block.get_setObject .., rfl⟩
  case wait =>
    have htaken : ¬(o.kind = 3 ∧ o.sweep = none) := fun ⟨_, hnone⟩ => Option.some_ne_none sw (hs.symm.trans hnone)
    have hsome : o.kind = 3 ∧ ∃ p ∈ o.sweep.getD [], ¬ done p := ⟨hk, by rwa [hs]⟩
    exact congrArg Host.Outcome.next (hx.trans ((if_neg htaken).trans (if_pos hsome)))

end Sys2Proof.Machine
end

section
/-! Proof of O43: ERET returns to the served group, and a waiting fault is entered (R281, R344, R356). -/

namespace Sys2Proof.Machine

/-! ### What ERET leaves -/

/-- The handler marks the block that it is about to change in its core's chunk, and nothing else (R137, R342). -/
theorem State.serveMark_cases (s : State) (c : Nat) : s.serveMark c = s ∨ ∃ f, s.serveMark c = s.updChunk c f := by
  unfold State.serveMark
  split
  · exact .inl rfl
  · split
    · exact .inl rfl
    · exact (ite_eq_or_eq ..).symm.imp id fun h => ⟨_, h⟩

theorem State.serveMark_keeps (s : State) (c : Nat) : ((s.serveMark c).core c).arch = (s.core c).arch
    ∧ (s.serveMark c).mem = s.mem ∧ (s.serveMark c).launches = s.launches := by
  rcases s.serveMark_cases c with h | ⟨f, h⟩ <;> rw [h]
  · exact ⟨rfl, rfl, rfl⟩
  · exact ⟨State.arch_updChunk .., rfl, rfl⟩

/-- A thread of the served block as ERET leaves it, when no other fault holds one of its threads: what is stopped runs on, the threads
of the served fault at `ctl.epc` (R356). -/
def Thread.returns (a : CoreArch) (f : FaultRec) (th : Thread) : Thread :=
  if th.exited || th.wait != .stopped then th
  else if f.tids.contains th.ltid then { th with wait := .run, pc := a.epc, acted := th.acted && a.epc == th.pc }
  else { th with wait := .run }

section
variable (a : CoreArch) (f : FaultRec) (th : Thread)

theorem Thread.returns_keeps : (th.returns a f).ltid = th.ltid ∧ (th.returns a f).v = th.v ∧ (th.returns a f).p = th.p := by
  unfold Thread.returns
  split
  · exact ⟨rfl, rfl, rfl⟩
  · split <;> exact ⟨rfl, rfl, rfl⟩

theorem Thread.returns_of_stopped (hx : th.exited = false) (hw : th.wait = .stopped) :
    (th.returns a f).wait = .run ∧ (th.returns a f).pc = if f.tids.contains th.ltid then a.epc else th.pc := by
  rw [Thread.returns, hx, hw, if_neg (by decide)]
  split <;> exact ⟨rfl, rfl⟩

theorem Thread.returns_of_not_stopped (h : th.exited = true ∨ th.wait ≠ .stopped) : th.returns a f = th := by
  rw [Thread.returns, if_pos]
  rcases h with h | h
  · rw [h, Bool.true_or]
  · rw [bne_iff_ne.2 h, Bool.or_true]

end

/-- ERET while no other fault of the served block waits or has been forwarded (R356). -/
theorem State.eret_of_served {s : State} {c : Nat} {f : FaultRec} (hs : (s.core c).arch.serving = some f)
    (hq : (s.core c).arch.faultq = []) (hw : ∀ h ∈ (s.core c).arch.fwd, h.2.slot ≠ f.slot) :
    ∃ gone, s.eret c = (s.updBlock c f.slot (fun b => { b with threads := b.threads.map (Thread.returns (s.core c).arch f) })).updArch c
      (fun a => { a.undescribe f.slot gone with serving := none, blocks := Tab.del a.blocks handlerSlot, grpValid := false }) := by
  have hheld : (((s.core c).arch.faultq ++ (s.core c).arch.fwd.map (fun g => g.2)).filter (fun g => g.slot == f.slot)).flatMap
      (fun g => g.tids) = [] := by
    rw [hq, List.nil_append, List.filter_eq_nil_iff.2, List.flatMap_nil]
    rintro g hg
    obtain ⟨h, hh, rfl⟩ := List.mem_map.1 hg
    rw [beq_iff_eq]
    exact hw h hh
  unfold State.eret
  dsimp only
  rw [hs]
  dsimp only
  rw [hheld]
  exact ⟨_, rfl⟩

section
variable {s : State} {c : Nat} {f : FaultRec} (hs : (s.core c).arch.serving = some f) (hq : (s.core c).arch.faultq = [])
  (hw : ∀ h ∈ (s.core c).arch.fwd, h.2.slot ≠ f.slot)
include hs hq hw

theorem State.eret_keeps : ((s.eret c).core c).arch.serving = none ∧ (s.eret c).block? c handlerSlot = none
    ∧ (s.eret c).mem = s.mem ∧ (s.eret c).launches = s.launches := by
  obtain ⟨gone, h⟩ := State.eret_of_served hs hq hw
  rw [h]
  refine ⟨by rw [State.core_updArch], ?_, rfl, rfl⟩
  rw [State.block?, State.core_updArch]
  exact Tab.find?_del_same _ _

/-- The served block after ERET: its threads return (R356). -/
theorem State.block?_eret (hne : f.slot ≠ handlerSlot) : (s.eret c).block? c f.slot
    = (s.block? c f.slot).map (fun b => { b with threads := b.threads.map (Thread.returns (s.core c).arch f) }) := by
  obtain ⟨gone, h⟩ := State.eret_of_served hs hq hw
  rw [h, ← State.block?_updBlock, State.block?, State.core_updArch]
  exact Tab.find?_del_ne _ hne

/-- A thread of the served block after ERET. -/
theorem State.thread?_eret (hne : f.slot ≠ handlerSlot) {l : Nat} {th : Thread} (hth : s.thread? c f.slot l = some th) :
    (s.eret c).thread? c f.slot l = some (th.returns (s.core c).arch f) := by
  obtain ⟨b, hb, hbl⟩ := Option.bind_eq_some_iff.1 hth
  rw [State.thread?, State.block?_eret hs hq hw hne, hb]
  exact (Block.thread?_map b _ (fun th => (th.returns_keeps _ f).1) l).trans (congrArg _ hbl)

end

/-- Only a deferred fault of a block under EXACT has its waits evaluated with the ERET itself (R144, R281). -/
theorem State.resumeWaits_of_not_exact {s : State} {c : Nat} {f : FaultRec}
    (h : ∀ b, f.dfr = true → s.block? c f.slot = some b → s.isExact f.slot b = false) : s.resumeWaits c f = s := by
  unfold State.resumeWaits
  split
  next b hb =>
    refine if_neg fun hx => ?_
    obtain ⟨hd, hx⟩ := Bool.and_eq_true_iff.1 hx
    exact Bool.false_ne_true ((h b hd hb).symm.trans hx)
  next => rfl

/-- A block is under EXACT by its slot and its launch (R140). -/
theorem State.isExact_congr {s t : State} {b b' : Block} (hl : t.launches = s.launches) (hb : b'.launch = b.launch) (sl : Nat) :
    t.isExact sl b' = s.isExact sl b := by
  rw [State.isExact, State.isExact, State.launchOf, State.launchOf, State.launch?, State.launch?, hl, hb]

/-- ERET of the handler that serves a fault, while no other fault of the block waits. -/
theorem exec_eret_of_served {g : Guard} {s : State} {e : Site} {f : FaultRec} (h : Runs (.eret g) s e)
    (hs : (s.core e.cur.core).arch.serving = some f) (hq : (s.core e.cur.core).arch.faultq = [])
    (hw : ∀ h ∈ (s.core e.cur.core).arch.fwd, h.2.slot ≠ f.slot) (hne : f.slot ≠ handlerSlot)
    (hx : ∀ b, f.dfr = true → s.block? e.cur.core f.slot = some b → s.isExact f.slot b = false) :
    ∃ u : State, (u.core e.cur.core).arch = (s.core e.cur.core).arch ∧ u.mem = s.mem
      ∧ Completes (.eret g) s (u.eret e.cur.core) := by
  have q := Quiet.acts s e
  obtain ⟨harch, hmem, hlaunches⟩ := (s.acts e).serveMark_keeps e.cur.core
  have hu : (((s.acts e).serveMark e.cur.core).core e.cur.core).arch = (s.core e.cur.core).arch := harch.trans (q.arch _)
  have hblock : ∀ sl, ((s.acts e).serveMark e.cur.core).block? e.cur.core sl = s.block? e.cur.core sl := fun sl =>
    congrArg (fun a : CoreArch => a.block? sl) hu
  refine ⟨(s.acts e).serveMark e.cur.core, hu, hmem.trans q.mem, ?_⟩
  have hexec : exec (.eret g) s = execEret g s := rfl
  rw [Completes, hexec, execEret, issue_of_runs _ h]
  dsimp only
  rw [hs]
  refine congrArg Host.Outcome.next (State.resumeWaits_of_not_exact fun b hd hb => ?_)
  rw [State.block?_eret (hu ▸ hs) (hu ▸ hq) (hu ▸ hw) hne, hblock] at hb
  obtain ⟨b0, hb0, rfl⟩ := Option.map_eq_some_iff.1 hb
  obtain ⟨-, -, -, hl⟩ := State.eret_keeps (s := (s.acts e).serveMark e.cur.core) (hu ▸ hs) (hu ▸ hq) (hu ▸ hw)
  exact (State.isExact_congr (hl.trans (hlaunches.trans q.launches)) (b := b0) rfl f.slot).trans (hx b0 hd hb0)

/-! ### The entry of a waiting fault -/

/-- The core while it serves the fault at the head of its queue: the fault registers, and the handler at its entry (R344). -/
def CoreArch.enters (a : CoreArch) (f : FaultRec) (q : List FaultRec) (b : Block) (d : Word) (n : BitVec 9) (pc : Word) : CoreArch :=
  { a with
    descs := (d, f.slot, f.tids) :: a.descs, faultq := q, serving := some f, cause := f.cause, epc := f.epc, emask := f.emask
    eaddr := f.eaddr, grpValid := !f.tids.isEmpty, grpQuad := f.quad, grpSlot := f.slot, grpTids := f.tids, grpEntry := n
    blocks := Tab.put a.blocks handlerSlot (handlerBlock b pc) }

section
variable {s : State} {c : Nat} {f : FaultRec} {q : List FaultRec} {b : Block} (hs : (s.core c).arch.serving = none)
  (hq : (s.core c).arch.faultq = f :: q) (hb : s.block? c f.slot = some b) (hh : (s.ctx (s.ctxOf b)).handler ≠ 0)
include hs hq hb hh

theorem State.enterNext_of_handler : ∃ d n, (s.enterNext c).mem = s.mem ∧ (s.enterNext c).core c
    = { s.core c with arch := (s.core c).arch.enters f q b d n (s.ctx (s.ctxOf b)).handler } := by
  unfold State.enterNext
  dsimp only
  rw [hs, hq]
  dsimp only
  rw [hb]
  dsimp only
  rw [if_neg hh]
  refine ⟨grpWord (!f.tids.isEmpty) f.quad (b.pick f.tids) (Config.freeEntry s.tick), Config.freeEntry s.tick, rfl, ?_⟩
  rw [State.core_updArch, State.core_updArch]
  rfl

/-- The handler that runs ends the rounds of entry. -/
theorem State.enterHandlers_of_handler : s.enterHandlers c = s.enterNext c := by
  obtain ⟨d, n, -, hcore⟩ := State.enterNext_of_handler hs hq hb hh
  have hserves : ((s.enterNext c).core c).arch.serving.isSome = true := by rw [hcore]; rfl
  rw [State.enterHandlers, hq, List.length_cons, State.enterLoop, hs, hq]
  refine (if_neg Bool.false_ne_true).trans ?_
  cases q.length with
  | zero => rfl
  | succ k => rw [State.enterLoop, hserves]; rfl

/-- The fault at the head of a core's queue enters the handler before the core issues, in a new chunk (R344, R356). -/
theorem State.queued_of_handler (hstall : s.coreStalled c = false) (hfresh : (s.core c).chunk.fresh = true) :
    ∃ d n h, (s.queued c).core c
        = { s.core c with arch := (s.core c).arch.enters f q b d n (s.ctx (s.ctxOf b)).handler, chunk := h }
      ∧ h.fresh = true ∧ (s.queued c).cur = s.cur ∧ (s.queued c).mem = s.mem := by
  obtain ⟨d, n, hmem, hcore⟩ := State.enterNext_of_handler hs hq hb hh
  have hqueued : s.queued c = { (s.enterNext c).seal c with cur := s.cur } := by
    unfold State.queued State.closeForTrap
    dsimp only
    rw [hstall, hs, hq, hfresh, State.enterHandlers_of_handler hs hq hb hh]
    rfl
  have hseal : (s.queued c).core c = ((s.enterNext c).seal c).core c := by rw [hqueued]; rfl
  rw [hseal, State.seal, State.core_updChunk, hcore, hqueued]
  exact ⟨d, n, _, rfl, rfl, rfl, hmem⟩

end

/-- Settles O43: ERET by what it leaves of the served block and its core, the waiting fault by the one round that enters it. -/
theorem eretReturns : Obligations.EretReturns := by
  refine ⟨fun g s e f h hs hq hne hw hx => ?_, fun s c f q b hstall hfresh hs hq hne hb hh => ?_⟩
  · obtain ⟨u, hu, hmem, hdone⟩ := exec_eret_of_served h hs hq hw hne hx
    rw [← hu] at hs hq hw
    obtain ⟨hserving, hgone, hkeep, -⟩ := State.eret_keeps hs hq hw
    refine ⟨_, hdone, hserving, hgone, fun l th hth => ?_, fun a => by rw [hkeep, hmem]⟩
    have hth' : u.thread? e.cur.core f.slot l = some th := by rw [State.thread?, State.block?, hu]; exact hth
    have hthread := State.thread?_eret hs hq hw hne hth'
    rw [hu] at hthread
    obtain ⟨-, hv, hp⟩ := th.returns_keeps (s.core e.cur.core).arch f
    refine ⟨_, hthread, fun hexit hstop => ?_, th.returns_of_not_stopped _ f, hv, hp⟩
    rw [← State.thread?_ltid hth]
    exact th.returns_of_stopped _ f hexit hstop
  · obtain ⟨d, n, h, hcore, hopen, hcur, hmem⟩ := State.queued_of_handler hs hq hb hh hstall hfresh
    have hhandler : (s.queued c).block? c handlerSlot = some (handlerBlock b (s.ctx (s.ctxOf b)).handler) := by
      rw [State.block?, hcore]
      exact Tab.find?_put_same ..
    dsimp only
    rw [State.thread?, hhandler, hcore]
    exact ⟨rfl, rfl, rfl, rfl, rfl, rfl, ⟨_, rfl, rfl, rfl, rfl, rfl⟩, hopen, hcur, hmem⟩

end Sys2Proof.Machine
end

section
/-! Proof of O60, first part: a port's own events (R396-R405). -/

namespace Sys2Proof.Machine

/-! ### The records of a port's change -/

theorem Durable.ports : Durable State.ports :=
  ⟨fun _ _ => rfl, fun _ _ => rfl, fun _ _ _ => rfl, fun _ _ _ => rfl, fun _ _ => rfl, fun _ _ _ => rfl, fun _ _ => rfl, fun _ _ => rfl⟩

section
variable (s : State)

/-- A port is what the table of ports says of it. -/
theorem State.port_congr {s t : State} (h : t.ports = s.ports) (p : Nat) : t.port p = s.port p := by
  rw [State.port, State.port, h]

/-- A record of the device changes no port (R430). -/
theorem State.postDev_ports (ty flags : Nat) (fields : List (Nat × List Byte)) : (s.postDev ty flags fields).ports = s.ports := by
  unfold State.postDev
  dsimp only
  split
  · rw [Durable.ports.raiseVec]
    exact Durable.ports.outWrite _ _ _
  · rfl

theorem State.portRecord_ports (ty port : Nat) (sender : Bool) (lost act : BitVec 16) (count : Nat) (first : BitVec 16) :
    (s.portRecord ty port sender lost act count first).ports = s.ports := State.postDev_ports s _ _ _

theorem State.lossRecords_ports (port : Nat) (sender : Bool) (ls : List (BitVec 16)) (act : BitVec 16) (count : Nat)
    (first : BitVec 16) : (s.lossRecords port sender ls act count first).ports = s.ports :=
  foldl_keeps State.ports (fun s _ => s.portRecord_ports _ _ _ _ _ _ _) _ s

end

/-! ### Loss of light -/

/-- A receiver that has flagged wavelengths and told its peer (R399, R414). -/
def Port.flagged (p : Port) (m : BitVec 16) : Port :=
  { p.control 4 (natLe 2 (p.lost ||| m).toNat ++ natLe 2 p.expect.toNat) with
    lost := p.lost ||| m, lossRx := p.lossRx ++ [m &&& ~~~p.lost], nakDue := false, blind := true
    losses := p.losses + BitVec.ofNat 64 (popMask (m &&& ~~~p.lost)) }

/-- LOSS_OF_LIGHT of new wavelengths at a port that is up (R399, R400). -/
theorem lossOfLight_flags {p : Nat} {m : BitVec 16} {s : State} (hp : p < 64) (hen : (s.port p).en = true)
    (hst : (s.port p).state ≠ 0) (hnew : m &&& ~~~(s.port p).lost ≠ 0) :
    ∃ t x l, Completes (.lossOfLight p m) s t ∧ t.port p = { (s.port p).flagged m with rxAct := x, lossRx := l }
      ∧ (4 ≤ popMask (~~~((s.port p).lost ||| m)) → t.mem = s.mem) := by
  have hexec : exec (.lossOfLight p m) s = execLossOfLight p m s := rfl
  have hup : (decide (64 ≤ p) || !(s.port p).en || decide ((s.port p).state = 0) || decide (m &&& ~~~(s.port p).lost = 0)) = false := by
    rw [decide_eq_false (Nat.not_le.2 hp), hen, decide_eq_false hst, decide_eq_false hnew]
    rfl
  by_cases hfail : popMask (~~~((s.port p).lost ||| m)) < 4 ∧ 4 ≤ popMask (~~~(s.port p).lost)
  · refine ⟨_, 0, [], hexec.trans (congrArg Host.Outcome.next
      ((if_neg (ne_true_of_eq_false hup)).trans (if_pos (by simpa using hfail)))), ?_, fun h => absurd hfail.1 (Nat.not_lt.2 h)⟩
    rw [State.port_congr (State.portRecord_ports ..), State.port_updPort, State.port_updPort]
    rfl
  · refine ⟨_, (s.port p).rxAct, ((s.port p).flagged m).lossRx, hexec.trans (congrArg Host.Outcome.next
      ((if_neg (ne_true_of_eq_false hup)).trans (if_neg (by simpa using hfail)))), ?_, fun _ => State.updPort_mem ..⟩
    rw [State.port_updPort]
    rfl

/-! ### Retraining -/

/-- A port apart from its waiting and unacknowledged flits, its fibre and its counts of them. -/
def Port.apart (p : Port) : Port := { p with wire := [], beat := 0, replay := [], seq := 0, sent := 0, replayed := 0, pend := [] }

/-- Flits that are sent again, and new ones, change nothing else of a port (R397, R398). -/
theorem Port.apart_replayFrom (p : Port) (n : BitVec 16) : (p.replayFrom n).apart = p.apart :=
  List.foldlRecOn (motive := fun r : Port => r.apart = p.apart) (p.from n) (fun r e => r.put (flitOf e.2 e.1 p.expect)) rfl
    (fun _ h _ _ => h)

theorem Port.apart_pump (p : Port) : p.pump.apart = p.apart := by
  unfold Port.pump
  split
  · exact List.foldlRecOn (motive := fun r : Port => r.apart = p.apart) (p.pend.take (512 - p.replay.length)) Port.sendOne rfl
      (fun _ h _ _ => h)
  · rfl

/-- Without waiting flits nothing new is sent. -/
theorem Port.beat_pump {p : Port} (h : p.pend = []) : p.pump.beat = p.beat := by
  unfold Port.pump
  split
  · dsimp only
    rw [h, List.take_nil]
    rfl
  · rfl

/-- The port whose retraining completes over some wavelengths: they are active, and its beats count from 0 (R396, R400). -/
def Port.trains (p : Port) (m : BitVec 16) : Port :=
  { ({ p with act := m, state := 2, tmask := 0, notice := none, nakFrom := none, lossTx := [], beat := 0 } : Port).control 5
      (natLe 2 m.toNat) with beat := 0 }

/-- The same once it has sent again what a notice or a NAK names (R398, R401). -/
def Port.replays (p : Port) : Port :=
  match p.notice <|> p.nakFrom with
  | some n => (p.trains p.survivors).replayFrom n
  | none => p.trains p.survivors

theorem Port.apart_replays (p : Port) : p.replays.apart = (p.trains p.survivors).apart := by
  unfold Port.replays
  split
  · exact Port.apart_replayFrom _ _
  · rfl

theorem Port.replays_of_quiet {p : Port} (hn : p.notice = none) (hk : p.nakFrom = none) : p.replays = p.trains p.survivors := by
  rw [Port.replays, hn, hk]
  rfl

/-- The device once a port's retraining has completed, and before the reports of it (R401). -/
def State.retrained (s : State) (p : Nat) : State :=
  let q := s.port p
  let u := s.updPort p (fun r => r.trains q.survivors)
  (match q.notice <|> q.nakFrom with
    | some n => u.updPort p (fun r => r.replayFrom n)
    | none => u).updPort p Port.pump

theorem State.retrained_keeps (s : State) (p : Nat) :
    (s.retrained p).port p = (s.port p).replays.pump ∧ (s.retrained p).mem = s.mem := by
  unfold State.retrained Port.replays
  dsimp only
  cases (s.port p).notice <|> (s.port p).nakFrom with
  | none =>
    dsimp only
    rw [State.port_updPort, State.port_updPort, State.updPort_mem, State.updPort_mem]
    exact ⟨rfl, rfl⟩
  | some n =>
    dsimp only
    rw [State.port_updPort, State.port_updPort, State.port_updPort, State.updPort_mem, State.updPort_mem, State.updPort_mem]
    exact ⟨rfl, rfl⟩

/-- RETRAIN_COMPLETE with fewer than four survivors fails the port (R400). -/
theorem retrainComplete_fails {p : Nat} {s : State} (hen : (s.port p).en = true) (hst : (s.port p).state = 1)
    (hfew : popMask (s.port p).survivors < 4) : Completes (.retrainComplete p) s (s.failPort p) := by
  have hexec : exec (.retrainComplete p) s = execRetrainComplete p s := rfl
  rw [Completes, hexec, execRetrainComplete]
  dsimp only
  rw [hen, hst, if_neg (by decide), if_pos hfew]

/-- RETRAIN_COMPLETE with enough survivors: the port is up again, and its changes are reported (R400-R402). -/
theorem retrainComplete_trains {p : Nat} {s : State} (hen : (s.port p).en = true) (hst : (s.port p).state = 1)
    (h4 : 4 ≤ popMask (s.port p).survivors) :
    ∃ t, Completes (.retrainComplete p) s t ∧ t.port p = (s.port p).replays.pump
      ∧ ((s.port p).lossTx = [] → (s.port p).survivors &&& ~~~(s.port p).act = 0 → t.mem = s.mem) := by
  obtain ⟨hport, hmem⟩ := s.retrained_keeps p
  obtain ⟨rep, first, hexec⟩ : ∃ rep first, exec (.retrainComplete p) s = .next (
      let v := (s.retrained p).lossRecords p true (s.port p).lossTx (s.port p).survivors rep first
      let back := (s.port p).survivors &&& ~~~(s.port p).act
      if back ≠ 0 then v.portRecord 0x72 p true back (s.port p).survivors 0 0 else v) := by
    have hx : exec (.retrainComplete p) s = execRetrainComplete p s := rfl
    rw [hx, execRetrainComplete]
    dsimp only
    rw [hen, hst, if_neg (by decide), if_neg (Nat.not_lt.2 h4)]
    exact ⟨_, _, rfl⟩
  refine ⟨_, hexec, ?_, fun hl ha => ?_⟩
  · have hv : ((s.retrained p).lossRecords p true (s.port p).lossTx (s.port p).survivors rep first).port p
        = (s.port p).replays.pump := (State.port_congr (State.lossRecords_ports ..) p).trans hport
    dsimp only
    split
    · rw [State.port_congr (State.portRecord_ports ..), hv]
    · exact hv
  · dsimp only
    rw [if_neg (not_not_intro ha), hl]
    exact hmem

/-! ### Timers -/

/-- REPLAY_TIMEOUT sends the unacknowledged flits again, from the oldest on (R398). -/
theorem replayTimeout_replays {p : Nat} {s : State} {e : BitVec 16 × Packet} {r : List (BitVec 16 × Packet)}
    (hr : (s.port p).replay = e :: r) (hst : (s.port p).state = 2) :
    Completes (.replayTimeout p) s (s.updPort p (fun q => q.replayFrom e.1)) := by
  have hexec : exec (.replayTimeout p) s = execReplayTimeout p s := rfl
  rw [Completes, hexec, execReplayTimeout, hr]
  exact congrArg Host.Outcome.next (if_pos hst)

/-- A flit without a number stands last on the fibre, in the next 20 beats (R396, R397). -/
theorem Port.control_wire (p : Port) (ty : Nat) (bs : List Byte) :
    ∃ f, (p.control ty bs).wire = p.wire ++ [⟨f, p.beat, p.act, p.lit⟩] ∧ (p.control ty bs).beat = p.beat + 20 := ⟨_, rfl, rfl⟩


/-- The beats of a flit go one after another to the active wavelengths (R396). -/
theorem Sent.beats_get (x : Sent) {j : Nat} (h : j < 20) : x.beats[j]? = some (beatWave x.act (x.beat + j),
    if x.lit.getLsbD (beatWave x.act (x.beat + j)) then some ((x.flit.drop (4 * j)).take 4) else none) := by
  rw [Sent.beats, List.getElem?_map, List.getElem?_range h, Option.map_some]

/-! ### The host's writes -/

/-- PORT_ENABLE with `en` = 0 takes a port out of use (R403). -/
theorem portEnable_off {p : Nat} {v : Word} {s : State} (hp : p < 64) (hv : v.getLsbD 0 = false) :
    ∃ t, Completes (.portEnable p v) s t
      ∧ t.ports = (s.updPort p (fun q => { q with en := false, state := 0, act := 0, rxAct := 0 })).ports := by
  have hexec : exec (.portEnable p v) s = execPortEnable p v s := rfl
  refine ⟨_, hexec.trans (congrArg Host.Outcome.next ((if_neg (Nat.not_le.2 hp)).trans (if_neg (ne_true_of_eq_false hv)))), ?_⟩
  split
  · rfl
  · exact State.portRecord_ports ..

/-- PORT_ENABLE with `en` = 1 lets a port train that is out of use (R403). -/
theorem portEnable_on {p : Nat} {v : Word} {s : State} (hp : p < 64) (hv : v.getLsbD 0 = true) :
    Completes (.portEnable p v) s (if (s.port p).en then s else s.updPort p (fun q => { q with en := true, state := 1 })) := by
  have hexec : exec (.portEnable p v) s = execPortEnable p v s := rfl
  rw [Completes, hexec, execPortEnable]
  dsimp only
  rw [if_neg (Nat.not_le.2 hp), hv, if_pos rfl]

/-- The wavelengths that the host names survive when all of them have light and are not lost (R394, R401). -/
theorem Port.survivors_of_named {p : Port} {m : BitVec 16} (hm : m &&& (p.txLost ||| ~~~p.lit) = 0) (h4 : 4 ≤ popMask m) :
    ({ p with restr := m, tmask := m, state := 1 } : Port).survivors = m := by
  have hne : m ≠ 0 := by
    rintro rfl
    exact absurd h4 (by decide)
  rw [Port.survivors, if_neg hne]
  dsimp only
  refine BitVec.eq_of_getLsbD_eq fun i hi => ?_
  have hbit := congrArg (fun w : BitVec 16 => w.getLsbD i) hm
  simp only [BitVec.getLsbD_and, BitVec.getLsbD_or, BitVec.getLsbD_not, hi, decide_true, Bool.true_and] at hbit ⊢
  cases hx : m.getLsbD i with
  | false => rfl
  | true => simpa [hx] using (by simpa [hx] using hbit : _ ∧ _).2

/-- RESTRIPE_WRITE of at least four wavelengths with light, at a stopped port (R401). -/
theorem restripeWrite_trains {p : Nat} {v : Word} {s : State} (hp : p < 64) (hst : (s.port p).state = 3)
    (hm : v.extractLsb' 0 16 &&& ((s.port p).txLost ||| ~~~(s.port p).lit) = 0) (h4 : 4 ≤ popMask (v.extractLsb' 0 16)) :
    Completes (.restripeWrite p v) s (s.updPort p (fun q => { q with
      restr := v.extractLsb' 0 16, tmask := v.extractLsb' 0 16, state := 1 })) := by
  have hexec : exec (.restripeWrite p v) s = execRestripeWrite p v s := rfl
  have hgoes : (decide (64 ≤ p) || decide ((s.port p).state ≠ 3)
      || decide (v.extractLsb' 0 16 &&& ((s.port p).txLost ||| ~~~(s.port p).lit) ≠ 0)
      || decide (popMask (v.extractLsb' 0 16) < 4)) = false := by
    rw [decide_eq_false (Nat.not_le.2 hp), decide_eq_false (not_not_intro hst), decide_eq_false (not_not_intro hm),
      decide_eq_false (Nat.not_lt.2 h4)]
    rfl
  exact hexec.trans (congrArg Host.Outcome.next (if_neg (ne_true_of_eq_false hgoes)))

/-- A port one of whose counters the host has cleared (R403). -/
def Port.cleared (p : Port) (k : Nat) : Port :=
  { p with
    sent := if k = 0 then 0 else p.sent, replayed := if k = 1 then 0 else p.replayed
    discarded := if k = 2 then 0 else p.discarded, losses := if k = 3 then 0 else p.losses }

/-- PORT_COUNTER_CLEAR clears the counter of its number (R403). -/
theorem portCounterClear_clears {p : Nat} (k : Nat) {s : State} (hp : p < 64) :
    ∃ t, Completes (.portCounterClear p k) s t ∧ t.port p = (s.port p).cleared k := by
  have hexec : exec (.portCounterClear p k) s = execPortCounterClear p k s := rfl
  refine ⟨_, hexec.trans (congrArg Host.Outcome.next (if_neg (Nat.not_le.2 hp))), ?_⟩
  rw [State.port_updPort]
  match k with
  | 0 => rfl
  | 1 => rfl
  | 2 => rfl
  | 3 => rfl
  | k + 4 => rfl

end Sys2Proof.Machine
end

section
/-! Proof of O60, second part: what a lost rank does to a collective (R310, R405, R409). -/

namespace Sys2Proof.Machine

/-! ### The collective of a group -/

/-- A collective is what the list of collectives says of it. -/
theorem State.coll?_congr {s t : State} (h : t.colls = s.colls) (hd st k : Nat) : t.coll? hd st k = s.coll? hd st k := by
  rw [State.coll?, State.coll?, h]

/-- A change of a collective that keeps what it is named by. -/
theorem State.coll?_updColl (s : State) (hd st k : Nat) {f : CollSt → CollSt} (hf : ∀ c, (f c).is hd st k = c.is hd st k) :
    (s.updColl hd st k f).coll? hd st k = (s.coll? hd st k).map f := by
  have his : (fun c => CollSt.is c hd st k) ∘ (fun c => if c.is hd st k then f c else c) = fun c => c.is hd st k := by
    funext c
    rw [Function.comp]
    split
    · exact hf c
    · rfl
  rw [State.coll?, State.coll?, State.updColl, List.find?_map, his]
  cases hc : s.colls.find? (fun c => c.is hd st k) with
  | none => rfl
  | some c => exact congrArg some (if_pos (List.find?_some hc))

/-- Units handed to the switch change no collective. -/
theorem State.sendRest_colls (s : State) (g : GroupEntry) (st : Nat) (m : Nat × Nat × Nat × Nat × List Byte) (n : Nat) :
    (s.sendRest g st m n).colls = s.colls := by
  induction n generalizing s m with
  | zero => rfl
  | succ n ih => exact ih _ _

section
variable {s : State} {hd st k : Nat} {c : CollSt} (hc : s.coll? hd st k = some c)
include hc

theorem State.coll?_flushColl : ∃ m, (s.flushColl hd st k).coll? hd st k = some { c with sending := m } := by
  unfold State.flushColl
  split
  · refine ⟨none, ?_⟩
    rw [State.coll?_updColl _ _ _ _ (by intro; rfl), State.coll?_congr (State.sendRest_colls ..), hc, Option.map_some]
  · exact ⟨c.sending, hc⟩

/-- A collective that frees what it holds has handed over its message, and is as before else (R158, R410). -/
theorem State.coll?_freeColl (x : Nat) : ∃ m, (s.freeColl x hd st k).coll? hd st k = some { c with sending := m } := by
  obtain ⟨m, hm⟩ := State.coll?_flushColl hc
  refine ⟨m, ?_⟩
  rw [← hm]
  unfold State.freeColl
  dsimp only
  split <;> exact State.coll?_congr rfl _ _ _

end

/-- An abort of a collective that is not decided holds (R310, R409). -/
theorem State.takeAbort_aborts {s : State} {g : GroupEntry} {st k : Nat} {c : CollSt} (hc : s.coll? g.handle st k = some c)
    (hgo : c.go = false) (ha : c.abort = none) (sub : Nat) :
    ∃ c', (s.takeAbort g st k sub).coll? g.handle st k = some c' ∧ c'.abort = some sub := by
  obtain ⟨m, hm⟩ := State.coll?_freeColl hc g.ctx
  unfold State.takeAbort
  rw [hc]
  dsimp only
  rw [hgo, ha, if_neg (by decide), State.coll?_updColl _ _ _ _ (by intro; rfl), hm, Option.map_some]
  exact ⟨_, rfl, rfl⟩

/-! ### Messages to the other ranks -/

/-- A message that takes no number, as the switch carries it (R395, R406). -/
def messageTo (g : GroupEntry) (d stream fn num : Nat) (fields : List (Nat × List Byte)) : Packet :=
  { ty := 2, last := true, dst := d, src := g.rank, handle := g.handle, stream := stream, num := num, idx := 0
    payload := header fn num fields }

/-- A message to each of some ranks goes to the switch, and changes no collective. -/
theorem State.sendMessages (s : State) (g : GroupEntry) (stream fn num : Nat) (fields : List (Nat × List Byte)) (ds : List Nat) :
    let t := ds.foldl (fun s d => s.sendMessage g d stream fn num fields) s
    t.colls = s.colls ∧ t.switch = s.switch ++ ds.map (fun d => messageTo g d stream fn num fields) := by
  induction ds generalizing s with
  | nil => exact ⟨rfl, (List.append_nil _).symm⟩
  | cons d ds ih =>
    obtain ⟨hcolls, hswitch⟩ := ih (s.sendMessage g d stream fn num fields)
    exact ⟨hcolls, hswitch.trans (List.append_assoc ..)⟩

/-- An abort that a rank decides is taken there and told to every other rank (R310, R409). -/
theorem State.abortColl_tells {s : State} {g : GroupEntry} {st k : Nat} {c : CollSt} (hc : s.coll? g.handle st k = some c)
    (hgo : c.go = false) (ha : c.abort = none) (sub : Nat) :
    (∃ c', (s.abortColl g st k sub).coll? g.handle st k = some c' ∧ c'.abort = some sub)
      ∧ ∀ d, d < g.size → d ≠ g.rank →
        messageTo g d st fnAbort 0 [(1, natLe 1 sub), (0x18, natLe 4 k)] ∈ (s.abortColl g st k sub).switch := by
  obtain ⟨c', hc', habort⟩ := State.takeAbort_aborts hc hgo ha sub
  obtain ⟨hcolls, hswitch⟩ := State.sendMessages (s.takeAbort g st k sub) g st fnAbort 0 [(1, natLe 1 sub), (0x18, natLe 4 k)]
    ((List.range g.size).filter (fun r => r != g.rank))
  refine ⟨⟨c', (State.coll?_congr hcolls _ _ _).trans hc', habort⟩, fun d hd hne => ?_⟩
  rw [State.abortColl, hswitch]
  exact List.mem_append_right _ (List.mem_map_of_mem (List.mem_filter.2 ⟨List.mem_range.2 hd, bne_iff_ne.2 hne⟩))

/-! ### The rank that decides -/

/-- Rank 0 decides on itself (R409; log 48). -/
theorem State.decideAbort_at_zero {s : State} {g : GroupEntry} (hg : g.rank = 0) {st k : Nat} {c : CollSt}
    (hc : s.coll? g.handle st k = some c) (hgo : c.go = false) (ha : c.abort = none) (root sub : Nat) :
    s.decideAbort g root st k sub = s.abortColl g st k sub := by
  have hreach : s.reaches g 0 = true := by rw [State.reaches, hg]; rfl
  unfold State.decideAbort
  rw [State.decider, if_pos hreach, hg, if_pos rfl, hc]
  dsimp only
  rw [hgo, ha]
  rfl

/-- A rank whose command rank 0 still waits for is missed (R409; log 48). -/
theorem rankMissed_of_awaited {g : GroupEntry} {r : Nat} {c : CollSt} (hg : g.rank = 0) (hp : c.pbs ≠ [])
    (hr : Tab.find? c.pbs r = none) : rankMissed g r c = true := by
  unfold rankMissed
  split
  next hnil => exact absurd hnil hp
  next => rw [hr, hg]; simp

/-- A rank that is lost to a collective not decided, while rank 0 waits for its command: rank 0 aborts it (R405, R409). -/
theorem State.rankLost_aborts {g : GroupEntry} {r : Nat} {c : CollSt} {s : State} (hg : g.rank = 0) (hh : c.handle = g.handle)
    (hc : s.coll? g.handle c.stream c.k = some c) (hgo : c.go = false) (ha : c.abort = none) (hl : c.lost.contains r = false)
    (hp : c.pbs ≠ []) (hr : Tab.find? c.pbs r = none) :
    ∃ (u : State) (c' : CollSt), u.coll? g.handle c.stream c.k = some c' ∧ c'.go = false ∧ c'.abort = none
      ∧ s.rankLost g r c = u.abortColl g c.stream c.k 2 := by
  have hc' := (State.coll?_updColl s g.handle c.stream c.k (f := fun c => { c with lost := r :: c.lost }) (by intro; rfl)).trans
    (congrArg _ hc)
  refine ⟨_, _, hc', hgo, ha, ?_⟩
  have hopen : (decide (c.handle ≠ g.handle) || c.go || c.abort.isSome || c.lost.contains r) = false := by
    rw [hh, hgo, ha, hl]
    simp
  rw [State.rankLost, hopen, if_neg Bool.false_ne_true]
  dsimp only
  rw [rankMissed_of_awaited hg hp hr, if_pos rfl]
  exact State.decideAbort_at_zero hg hc' hgo ha _ _

/-- ROUTE_UNREACHABLE of another rank of the group that no port reaches (R405). -/
theorem routeUnreachable_loses {i r : Nat} {s : State} (hv : (s.groupEntry i).valid = true) (hr : r < (s.groupEntry i).size)
    (hne : r ≠ (s.groupEntry i).rank) (hp : s.outPort (s.groupEntry i) r = none) :
    Completes (.routeUnreachable i r) s (s.colls.foldl (fun t c => t.rankLost (s.groupEntry i) r c) s) := by
  have hexec : exec (.routeUnreachable i r) s = execRouteUnreachable i r s := rfl
  have hgoes : (!(s.groupEntry i).valid || decide ((s.groupEntry i).size ≤ r) || decide (r = (s.groupEntry i).rank)
      || (s.outPort (s.groupEntry i) r).isSome) = false := by
    rw [hv, hp, decide_eq_false (Nat.not_le.2 hr), decide_eq_false hne]
    rfl
  exact hexec.trans (congrArg Host.Outcome.next (if_neg (ne_true_of_eq_false hgoes)))

/-- A command whose collective is aborted takes COLLECT with the abort's subcode (R310). -/
theorem collTrouble_of_abort {s : State} {e : Eng} {g : GroupEntry} {c : CollSt} {n : Nat} (hr : collRead e = true)
    (hd : 2 ≤ e.cmd.done) (hc : collOf s e = some (g, c)) (ha : c.abort = some n) : (collTrouble s e).1 = some (0x10, n) := by
  unfold collTrouble
  dsimp only
  rw [hr, if_neg (by decide), if_neg (Nat.not_lt.2 hd), hc]
  dsimp only
  rw [ha]

/-- Settles O60: each event by the state that it leaves, a lost rank by the abort that rank 0 decides. -/
theorem portEvents : Obligations.PortEvents := by
  refine ⟨fun p m s hp hen hst hnew => ?light, fun p s hen hst => ⟨fun hfew => ?fails, fun h4 => ?trains⟩,
    fun p s e r hr hst => ?replay, fun p s hn => ?nak, fun p s hst => ?idle, fun p v s hp => ?enable,
    fun p v s hp hst hm h4 => ?stripe, fun p k s hp => ?clear, fun _ _ _ => routeUnreachable_loses, fun g r c s hg hr hh hc hgo ha hl hp hn => ?lost,
    fun e g c n s hr hd hc ha => collTrouble_of_abort hr hd hc ha⟩
  case light =>
    obtain ⟨t, x, l, hdone, hport, hmem⟩ := lossOfLight_flags hp hen hst hnew
    refine ⟨t, hdone, ?_, ?_, ?_, ?_, hmem⟩ <;> rw [hport] <;> rfl
  case fails => exact retrainComplete_fails hen hst hfew
  case trains =>
    obtain ⟨t, hdone, hport, hmem⟩ := retrainComplete_trains hen hst h4
    have hapart : (t.port p).apart = ((s.port p).trains (s.port p).survivors).apart := by rw [hport, Port.apart_pump, Port.apart_replays]
    refine ⟨t, hdone, (congrArg Port.state hapart :), (congrArg Port.act hapart :), (congrArg Port.tmask hapart :),
      (congrArg Port.notice hapart :), (congrArg Port.nakFrom hapart :), (congrArg Port.restr hapart :), fun hpend hn hk => ?_, hmem⟩
    rw [hport, Port.replays_of_quiet hn hk]
    exact Port.beat_pump (p := (s.port p).trains (s.port p).survivors) hpend
  case replay => exact ⟨_, replayTimeout_replays hr hst, State.port_updPort ..⟩
  case nak =>
    have hexec : exec (.nakRepeatTimeout p) s = execNakRepeatTimeout p s := rfl
    exact ⟨_, hexec.trans (congrArg Host.Outcome.next (if_pos hn)), State.port_updPort ..⟩
  case idle =>
    have hexec : exec (.idleAckTimer p) s = execIdleAckTimer p s := rfl
    obtain ⟨f, hwire, hbeat⟩ := (s.port p).control_wire 0 []
    refine ⟨_, ⟨f, (s.port p).beat, (s.port p).act, (s.port p).lit⟩, hexec.trans (congrArg Host.Outcome.next (if_pos hst)),
      State.port_updPort .., ?_, ?_, by rw [Sent.beats, List.length_map, List.length_range], fun j hj => Sent.beats_get _ hj⟩
    · rw [State.port_updPort, hwire]
    · rw [State.port_updPort, hbeat]
  case enable =>
    cases hv : v.getLsbD 0 with
    | false =>
      obtain ⟨t, hdone, hports⟩ := portEnable_off hp hv
      have hport := State.port_congr hports
      refine ⟨t, hdone, ?_, fun _ => ⟨?_, ?_⟩, fun h => absurd h (by decide), fun q hq => ?_⟩
      · rw [hport, State.port_updPort]
      · rw [hport, State.port_updPort]
      · rw [hport, State.port_updPort]
      · rw [hport, State.port_updPort_ne _ _ hq]
    | true =>
      refine ⟨_, portEnable_on hp hv, ?_, fun h => absurd h (by decide), fun _ hen => ?_, fun q hq => ?_⟩
      · split
        next hen => exact hen
        next => rw [State.port_updPort]
      · rw [hen, if_neg Bool.false_ne_true, State.port_updPort]
      · split
        · rfl
        · exact State.port_updPort_ne _ _ hq
  case stripe =>
    refine ⟨_, restripeWrite_trains hp hst hm h4, ?_, ?_, ?_⟩ <;> rw [State.port_updPort]
    exact Port.survivors_of_named hm h4
  case clear =>
    obtain ⟨t, hdone, hport⟩ := portCounterClear_clears k hp
    exact ⟨t, hdone, (congrArg Port.sent hport :), (congrArg Port.replayed hport :), (congrArg Port.discarded hport :),
      (congrArg Port.losses hport :)⟩
  case lost =>
    obtain ⟨u, c', hc', hgo', ha', heq⟩ := State.rankLost_aborts hg hh hc hgo ha hl hp hn
    obtain ⟨habort, htell⟩ := State.abortColl_tells hc' hgo' ha' 2
    dsimp only
    rw [heq]
    exact ⟨habort, fun d hd hd0 => ⟨_, htell d hd (hg ▸ hd0), rfl, hg, rfl, rfl, rfl⟩⟩

end Sys2Proof.Machine
end

section
/-! Proof of O41, first part: completion, counters and arms, retry and cancel (R280, R305, R307, R348). -/

namespace Sys2Proof.Machine

/-! ### The head -/

section
variable {s t : State} {r : StreamRef} {q : Cmd} {st : Stream} {e : Eng}

theorem State.head?_eq_some : s.head? r = some q ↔ ∃ rest, (s.stream r).q = q :: rest ∧ q.left = true := by
  unfold State.head?
  constructor
  · intro h
    split at h
    next p rest hp =>
      split at h
      next hl => cases h; exact ⟨rest, hp, hl⟩
      next => cases h
    next => cases h
  · rintro ⟨rest, hp, hl⟩
    rw [hp]
    exact if_pos hl

theorem State.head?_congr (h : t.stream r = s.stream r) : t.head? r = s.head? r := by
  rw [State.head?, State.head?, h]

/-- The head once it has been replaced. -/
theorem State.head?_setHead (h : s.head? r = some q) {f : Cmd → Cmd} (hf : (f q).left = q.left) :
    (s.setHead r f).head? r = some (f q) := by
  obtain ⟨rest, hq, hl⟩ := State.head?_eq_some.1 h
  refine State.head?_eq_some.2 ⟨rest, ?_, hf.trans hl⟩
  rw [State.setHead, hq]
  exact congrArg Stream.q (State.stream_setStream ..)

/-- A head that may go on is the head of its stream. -/
theorem headReady_eq_some (h : headReady s r = some (st, q, e)) :
    st = s.stream r ∧ s.head? r = some q ∧ e = s.engOf r q := by
  unfold headReady at h
  split at h
  · cases h
  unfold headClear at h
  dsimp only at h
  split at h
  · cases h
  next p hp =>
    split at h
    · cases h
    · cases h
      exact ⟨rfl, hp, rfl⟩

/-- A head whose pages are present and whose lines are free goes on (R385). -/
theorem State.withHead_ready (h : headReady s r = some (st, q, e)) (hok : engStatus s e (headRanges s e st) = .ok)
    (k : Stream → Cmd → Eng → State → State) : s.withHead r k = k st q e s := by
  rw [State.withHead, h]
  dsimp only
  rw [hok]

end

/-! ### Completion -/

section
variable {s : State} {r : StreamRef} {q : Cmd} {st : Stream} {e : Eng}

/-- A final command of a stream without a completion word completes (R280). -/
theorem State.completeHead_final (h : headReady s r = some (st, q, e)) (hf : q.final = true)
    (hok : engStatus s e (headRanges s e st) = .ok) (hw : st.w = 0) (hp : prioOpen s = false) :
    s.completeHead r = s.setStream r { st with c := q.num, pos := nextPos st q, q := st.q.tail } := by
  rw [State.completeHead, if_neg (ne_true_of_eq_false hp), State.withHead_ready h hok, hf]
  dsimp only
  rw [State.writeWord, if_pos hw, ← (headReady_eq_some h).1]
  rfl

theorem engineCommandComplete_final (h : headReady s r = some (st, q, e)) (hf : q.final = true)
    (hok : engStatus s e (headRanges s e st) = .ok) (hw : st.w = 0) (hp : prioOpen s = false) :
    Completes (.engineCommandComplete r) s (s.setStream r { st with c := q.num, pos := nextPos st q, q := st.q.tail }) := by
  have hexec : exec (.engineCommandComplete r) s = execEngineCommandComplete r s := rfl
  refine hexec.trans ((if_neg (ne_true_of_eq_false hp)).trans (congrArg Host.Outcome.next ?_))
  rw [State.withHead_ready h hok, if_pos hf]
  exact State.completeHead_final h hf hok hw hp

end

/-! ### Counters and arms -/

section
variable (x k : Nat) (v : Word) (s : State)

/-- A counter's new value (R305). -/
def State.counted (k : Nat) : Word := Tab.get 0 (s.ctx x).counters k + v

/-- The arms that the new value of a counter reaches (R307). -/
def State.dueArms : List Arm := (s.ctx x).arms.filter (fun a => a.counter == k && a.thr.toNat ≤ (s.counted x v k).toNat)

/-- The context with the counter's new value, and without the arms that it reaches. -/
def State.addsOnly : State := s.updCtx x (fun cx => { cx with
  counters := Tab.set 0 cx.counters k (s.counted x v k)
  arms := cx.arms.filter (fun a => !(a.counter == k && a.thr.toNat ≤ (s.counted x v k).toNat)) })

theorem State.addCounter_eq : s.addCounter x k v = (s.dueArms x k v).foldl (fun t a => t.fire x a) (s.addsOnly x k v) := rfl

theorem counterChange_completes {k : Nat} (hk : k < 1024) :
    Completes (.counterChange x k v) s ((s.dueArms x k v).foldl (fun t a => t.fire x a) (s.addsOnly x k v)) := by
  have hexec : exec (.counterChange x k v) s = .next (s.addCounter x (k % 1024) v) := rfl
  rw [Nat.mod_eq_of_lt hk, State.addCounter_eq] at hexec
  exact hexec

theorem State.addsOnly_ctx : ((s.addsOnly x k v).ctx x).counters = Tab.set 0 (s.ctx x).counters k (s.counted x v k)
    ∧ ((s.addsOnly x k v).ctx x).arms
      = (s.ctx x).arms.filter (fun a => !(a.counter == k && a.thr.toNat ≤ (s.counted x v k).toNat)) := by
  rw [State.addsOnly, State.ctx_updCtx]
  exact ⟨rfl, rfl⟩

theorem State.addsOnly_mem : (s.addsOnly x k v).mem = s.mem := State.updCtx_mem ..

theorem State.mem_addsOnly_arms (a : Arm) :
    a ∈ ((s.addsOnly x k v).ctx x).arms ↔ a ∈ (s.ctx x).arms ∧ a ∉ s.dueArms x k v := by
  rw [(State.addsOnly_ctx x k v s).2, State.dueArms, List.mem_filter, List.mem_filter, Bool.not_eq_true', not_and]
  refine and_congr_right fun ha => ?_
  rw [Bool.eq_false_iff]
  exact ⟨fun h _ => h, fun h => h ha⟩

end

/-- Without an arm that the new value reaches, an add changes its counter and nothing else (R305). -/
theorem counterChange_of_no_due {x k : Nat} {v : Word} {s : State} (hk : k < 1024)
    (hdue : ∀ a ∈ (s.ctx x).arms, a.counter ≠ k ∨ (s.counted x v k).toNat < a.thr.toNat) :
    ∃ t, Completes (.counterChange x k v) s t ∧ (t.ctx x).counters = Tab.set 0 (s.ctx x).counters k (s.counted x v k)
      ∧ (t.ctx x).arms = (s.ctx x).arms ∧ t.mem = s.mem := by
  have hnone : ∀ a ∈ (s.ctx x).arms, (a.counter == k && decide (a.thr.toNat ≤ (s.counted x v k).toNat)) = false := by
    intro a ha
    rcases hdue a ha with h | h
    · rw [beq_false_of_ne h]; rfl
    · rw [decide_eq_false (Nat.not_le.2 h), Bool.and_false]
  have h := counterChange_completes x v s hk
  have hempty : s.dueArms x k v = [] := List.filter_eq_nil_iff.2 fun a ha => ne_true_of_eq_false (hnone a ha)
  rw [hempty] at h
  obtain ⟨hcounters, harms⟩ := State.addsOnly_ctx x k v s
  refine ⟨_, h, hcounters, ?_, State.addsOnly_mem x k v s⟩
  exact harms.trans (List.filter_eq_self.2 fun a ha => by rw [hnone a ha]; rfl)

/-- The stream that an arm's entry names (R283, R307). -/
def Arm.stream (x : Nat) (a : Arm) : StreamRef := ⟨3, x, BitVec.ofNat 4 (entryStream (param a.entry 0))⟩

/-- An arm that fires puts its operation behind the commands that have reached the engine (R307). -/
theorem State.fire_appends (s : State) (x : Nat) (a : Arm) : ∃ q : Cmd,
    s.fire x a = (s.setStream (a.stream x) { s.stream (a.stream x) with
      i := (s.stream (a.stream x)).i + 1
      q := (s.stream (a.stream x)).q.filter (fun q => q.left) ++ q :: (s.stream (a.stream x)).q.filter (fun q => !q.left) }).updCtx x
        (fun c => { c with dseq := c.dseq + 1 })
    ∧ q.shown = ((s.stream (a.stream x)).i + 1, entryFn (param a.entry 0), true) ∧ q.ps = a.entry.drop 2
    ∧ q.kind = .fired a.counter ∧ q.lvl = entryLvl (param a.entry 0) ∧ q.blk = a.blk :=
  ⟨_, rfl, rfl, rfl, rfl, rfl, rfl⟩

/-! ### Retry and cancel -/

section
variable {s : State} {r : StreamRef} {q : Cmd} {rest : List Cmd} {y : Nat × Nat}

/-- A command that runs no collective gives none up. -/
theorem State.dropColl_of_ne (hfn : q.fn ≠ 0x60) : s.dropColl r q = s := by
  rw [State.dropColl, decide_eq_false hfn]
  rfl

/-- What a retry makes of the head: it waits for nothing, and runs from its start unless its effects are final (R348). -/
structure Cmd.Again (q q' : Cmd) : Prop where
  num : q'.num = q.num
  start : q.final = false → q'.done = 0 ∧ q'.got = [] ∧ q'.landed = []
  wait : q'.wait = []

/-- A retry clears the fault of a stream (R348). -/
theorem State.retryStream_faulted (hy : (s.stream r).fault = some y) (hq : (s.stream r).q = q :: rest) (hfn : q.fn ≠ 0x60) :
    ∃ q' : Cmd, q.Again q' ∧ s.retryStream r = s.setStream r { s.stream r with fault := none, q := q' :: rest } := by
  unfold State.retryStream
  dsimp only
  rw [hy, hq]
  dsimp only
  rw [State.dropColl_of_ne hfn]
  refine ⟨_, ?_, rfl⟩
  cases hf : q.final with
  | true => exact ⟨rfl, fun h => absurd (h.symm.trans hf) Bool.false_ne_true, rfl⟩
  | false =>
    rw [if_neg Bool.false_ne_true]
    split <;> exact ⟨rfl, fun _ => ⟨rfl, rfl, rfl⟩, rfl⟩

/-- A cancel lets a command that stands alone complete without being performed (R280, R348). -/
theorem State.cancelStream_faulted (hy : (s.stream r).fault = some y) (hq : (s.stream r).q = [q]) (hl : q.left = true)
    (hfn : q.fn ≠ 0x60) (hcnt : q.fn ≠ 0x62) (hw : (s.stream r).w = 0) :
    ∃ p, s.cancelStream r = s.setStream r { s.stream r with fault := none, c := q.num, pos := p, q := [] } := by
  have hno : (q.left && decide (q.fn = 0x62) && !q.final) = false := by
    rw [decide_eq_false hcnt, Bool.and_false, Bool.false_and]
  unfold State.cancelStream
  dsimp only
  rw [hy, hq]
  dsimp only
  rw [State.dropColl_of_ne hfn, List.foldl_cons, List.foldl_nil, if_neg (ne_true_of_eq_false hno)]
  cases hf : q.final with
  | true =>
    rw [if_pos rfl]
    exact ⟨_, (if_pos hw).trans rfl⟩
  | false =>
    rw [if_neg Bool.false_ne_true]
    refine ⟨(s.stream r).pos, (if_pos hw).trans ?_⟩
    dsimp only
    rw [List.filter_cons_of_pos hl, List.filter_cons_of_neg (by rw [hl]; exact Bool.false_ne_true)]
    rfl

end

/-- An action on a stream of the fabric engine needs no engine of a core (R348). -/
theorem State.streamAction_fabric (s : State) (x core : Nat) {v : Word} (h3 : v.extractLsb' 4 2 = 3) :
    s.streamAction x core v
      = if v.getLsbD 8 then s.cancelStream (actionStream x core v) else s.retryStream (actionStream x core v) := by
  unfold State.streamAction
  dsimp only
  rw [h3]
  rfl

theorem streamRetry_completes (s : State) (x : Nat) {v : Word} (hact : v.getLsbD 8 = false) (h3 : v.extractLsb' 4 2 = 3) :
    Completes (.streamRetry x v) s (s.retryStream (actionStream x (field v 16 9) v)) := by
  have hexec : exec (.streamRetry x v) s = execStreamRetry x v s := rfl
  refine hexec.trans (congrArg Host.Outcome.next ((if_neg (ne_true_of_eq_false hact)).trans ?_))
  rw [State.streamAction_fabric s x _ h3, if_neg (ne_true_of_eq_false hact)]

theorem streamCancel_completes (s : State) (x : Nat) {v : Word} (hact : v.getLsbD 8 = true) (h3 : v.extractLsb' 4 2 = 3) :
    Completes (.streamCancel x v) s (s.cancelStream (actionStream x (field v 16 9) v)) := by
  have hexec : exec (.streamCancel x v) s = execStreamCancel x v s := rfl
  refine hexec.trans (congrArg Host.Outcome.next ((if_pos hact).trans ?_))
  rw [State.streamAction_fabric s x _ h3, if_pos hact]

end Sys2Proof.Machine
end

section
/-! Proof of O41, second part: a deferred fault reaches the block that issued its command (R281). -/

namespace Sys2Proof.Machine

/-! ### Keys of tables -/

section
variable {α : Type} (t : Tab α) (k : Nat)

theorem Tab.keys_del : (Tab.del t k).map (fun e => e.1) = (t.map (fun e => e.1)).filter (fun j => j != k) := by
  induction t with
  | nil => rfl
  | cons e t ih =>
    obtain ⟨j, v⟩ := e
    rw [Tab.del]
    by_cases h : j = k
    · rw [if_pos h, ih, List.map_cons, List.filter_cons_of_neg (by simpa using h)]
    · rw [if_neg h, List.map_cons, List.map_cons, ih, List.filter_cons_of_pos (by simpa using h)]

theorem Tab.ins_perm (v : α) : (Tab.ins t k v).Perm ((k, v) :: t) := by
  induction t with
  | nil => exact List.Perm.refl _
  | cons e t ih =>
    obtain ⟨j, w⟩ := e
    rw [Tab.ins]
    split
    · exact List.Perm.refl _
    · exact (ih.cons _).trans (List.Perm.swap ..)

/-- A table whose keys are distinct keeps them so when a value is set. -/
theorem Tab.nodup_set [DecidableEq α] (d v : α) {t : Tab α} (h : (t.map (fun e => e.1)).Nodup) :
    ((Tab.set d t k v).map (fun e => e.1)).Nodup := by
  have hdel : ((Tab.del t k).map (fun e => e.1)).Nodup := Tab.keys_del t k ▸ h.filter _
  rw [Tab.set]
  split
  · exact hdel
  · refine ((Tab.ins_perm (Tab.del t k) k v).map _).nodup_iff.2 (List.nodup_cons.2 ⟨?_, hdel⟩)
    rw [Tab.keys_del]
    exact fun hk => by simpa using (List.mem_filter.1 hk).2

end

theorem State.nodup_coreNums_setStream {s : State} (h : s.coreNums.Nodup) (r : StreamRef) (st : Stream) :
    (s.setStream r st).coreNums.Nodup := by
  unfold State.setStream
  split
  · exact h
  · exact Tab.nodup_set r.unit CoreSt.new _ h

/-- A core that holds a block is listed. -/
theorem State.mem_coreNums_of_block? {s : State} {c sl : Nat} {b : Block} (h : s.block? c sl = some b) : c ∈ s.coreNums := by
  rw [State.block?, State.core, Tab.get] at h
  cases hc : Tab.find? s.cores c with
  | none => rw [hc] at h; cases h
  | some k => exact List.mem_map.2 ⟨_, Tab.mem_of_find? hc, rfl⟩

/-! ### A deferred fault reaches its block -/

/-- A value that one step of a fold changes, and no other. -/
theorem foldl_once {α β : Type} (π : State → β) {g : β → β} {f : State → α → State} {c : α}
    (hc : ∀ s, π (f s c) = g (π s)) (hne : ∀ s d, d ≠ c → π (f s d) = π s) {l : List α} (hn : l.Nodup) (hm : c ∈ l) (s : State) :
    π (l.foldl f s) = g (π s) := by
  have hout : ∀ (l : List α) (s : State), c ∉ l → π (l.foldl f s) = π s := fun l s hl =>
    List.foldlRecOn (motive := fun t => π t = π s) l f rfl fun t ht d hd => (hne t d fun h => hl (h ▸ hd)).trans ht
  obtain ⟨pre, post, rfl⟩ := List.append_of_mem hm
  obtain ⟨hpre, hpost⟩ : c ∉ pre ∧ c ∉ post := by
    obtain ⟨-, hcons, hdis⟩ := List.nodup_append.1 hn
    exact ⟨fun h => hdis c h c (List.mem_cons_self ..) rfl, (List.nodup_cons.1 hcons).1⟩
  rw [List.foldl_append, List.foldl_cons, hout post _ hpost, hc, hout pre _ hpre]

section
variable (id : BlockId) (f : FaultRec)

/-- The block that issued a command holds a deferred fault of it (R281). -/
def Block.defers (b : Block) : Block :=
  if b.launch = id.launch && b.lin = id.lin && !b.failing then { b with deferred := b.deferred ++ [f] } else b

theorem Block.defers_own {b : Block} (hl : b.launch = id.launch) (hn : b.lin = id.lin) (hf : b.failing = false) :
    (b.defers id f).deferred = b.deferred ++ [f] := by
  rw [Block.defers, decide_eq_true hl, decide_eq_true hn, hf]
  rfl

/-- The blocks of a core, but for the handler's, that hold a deferred fault. -/
def CoreArch.defers (a : CoreArch) : CoreArch :=
  { a with blocks := Tab.mapV a.blocks (fun sl b => if sl = handlerSlot then b else b.defers id f) }

/-- A deferred fault comes to the blocks of one core, resident and saved. -/
def State.deferAt (s : State) (c : Nat) : State := (s.updBoth c (CoreArch.defers id f)).updCore c (fun k => { k with
  saved := k.saved.map (fun sv => { sv with arch := sv.arch.defers id f }) })

theorem State.deferTo_eq (s : State) : s.deferTo id f = s.coreNums.foldl (fun t c => t.deferAt id f c) s := rfl

theorem State.stream_deferAt (s : State) (c : Nat) (r : StreamRef) : (s.deferAt id f c).stream r = s.stream r := by
  rw [State.deferAt, State.stream_updCore _ _ _ (by intro; rfl), State.updBoth, State.stream_updCore _ _ _ (by intro; rfl)]

theorem State.stream_deferTo (s : State) (r : StreamRef) : (s.deferTo id f).stream r = s.stream r :=
  foldl_keeps (fun t : State => t.stream r) (fun t c => t.stream_deferAt id f c r) _ s

theorem State.block?_deferAt (s : State) (c : Nat) {sl : Nat} (hs : sl ≠ handlerSlot) :
    (s.deferAt id f c).block? c sl = (s.block? c sl).map (Block.defers id f) := by
  have h := State.block?_updBoth_mapV s c sl (fun sl b => if sl = handlerSlot then b else b.defers id f)
  rw [State.deferAt, State.block?_updCore _ _ _ _ (by intro; rfl)]
  exact h.trans (congrArg (Option.map · (s.block? c sl)) (funext fun b => if_neg hs))

theorem State.block?_deferAt_ne (s : State) {c d : Nat} (h : d ≠ c) (sl : Nat) :
    (s.deferAt id f d).block? c sl = s.block? c sl := by
  rw [State.deferAt, State.block?_updCore _ _ _ _ (by intro; rfl), State.block?_updBoth_ne _ _ (Ne.symm h)]

theorem State.block?_deferTo {s : State} (hn : s.coreNums.Nodup) {c sl : Nat} {b : Block} (hb : s.block? c sl = some b)
    (hs : sl ≠ handlerSlot) : (s.deferTo id f).block? c sl = some (b.defers id f) :=
  (foldl_once (fun t : State => t.block? c sl) (fun t => t.block?_deferAt id f c hs)
    (fun t _ h => t.block?_deferAt_ne id f h sl) hn (State.mem_coreNums_of_block? hb) s).trans (congrArg _ hb)

end

/-- A command that meets a fault at its turn stops its stream, and its block holds the fault (R281). -/
theorem engineDeferredFault_completes {s : State} {r : StreamRef} {q : Cmd} {code sub : Nat} {id : BlockId}
    (hq : s.head? r = some q) (hfault : (s.stream r).fault = none) (hwait : q.wait = []) (hrun : streamStopped s r = false)
    (htrouble : headTrouble s r (s.stream r) q = some (code, sub)) (hcode : code ≠ 0x0B) (hkind : ∀ n, q.kind ≠ .fired n)
    (hblk : q.blk = some id) : Completes (.engineDeferredFault r) s
      ((s.setStream r { s.stream r with fault := some (code, sub) }).deferTo id
        ⟨0, 0, [], causeWord code sub true, 0, BitVec.ofNat 64 (r.stream.toNat + 16 * r.eng.toNat), BitVec.ofNat 64 q.num, true,
          none⟩) := by
  have hexec : exec (.engineDeferredFault r) s = execEngineDeferredFault r s := rfl
  have hgo : ((s.stream r).fault.isSome || !q.wait.isEmpty || streamStopped s r) = false := by
    rw [hfault, hwait, hrun]
    rfl
  refine hexec.trans ?_
  unfold execEngineDeferredFault
  dsimp only
  rw [hq]
  dsimp only
  rw [if_neg (ne_true_of_eq_false hgo), htrouble]
  dsimp only
  rw [if_pos hcode, hblk]
  cases hk : q.kind with
  | fired n => exact absurd hk (hkind n)
  | direct => rfl
  | entry l last => rfl

end Sys2Proof.Machine
end

section
/-! Proof of O41, third part: entries of a chain, and what the traces of an engine's read leave of a stream (R137, R163, R284). -/

namespace Sys2Proof.Machine

/-! ### The traces of an engine's accesses keep the head of a stream -/

/-- A stream is a value that counting and touching leave alone. -/
theorem Ignores.stream (r : StreamRef) : Ignores (fun s => s.stream r) :=
  ⟨fun _ _ => rfl, fun s c k heng hchunks hsaved hserved =>
    State.stream_congr s r ((Ignores.eng r.unit).core s c k heng hchunks hsaved hserved) rfl⟩

theorem Ignores.countShared {β : Type} {π : State → β} (h : Ignores π) (s : State) (o b : Nat) : π (s.countShared o b) = π s :=
  foldl_keeps π (fun s c => by
    split
    · exact h.count _ _ _ _
    · rfl) _ s

theorem Ignores.outTouch {β : Type} {π : State → β} (h : Ignores π) (s : State) (ls : List Nat) : π (s.outTouch ls) = π s :=
  foldl_keeps π (fun s l => by
    split
    · exact (h.countShared _ _ _).trans ((h.shareOwner _ _ _ _).trans (h.plat _ _))
    · rfl) _ s

/-- A stream without what has not left core `c` (R137). -/
def Stream.dropUnleft (c : Nat) (st : Stream) : Stream := { st with q := st.q.filter (fun q => q.left || q.core != c) }

/-- The streams of a core's engines without it. -/
def CoreSt.dropUnleft (c : Nat) (k : CoreSt) : CoreSt :=
  { k with eng := { k.eng with streams := Tab.mapV k.eng.streams (fun _ st => st.dropUnleft c) } }

/-- The streams of a context's fabric engine without it. -/
def Ctx.dropUnleft (c : Nat) (x : Ctx) : Ctx := { x with streams := Tab.mapV x.streams (fun _ st => st.dropUnleft c) }

/-- The withdrawal of what has not left core `c` changes a stream in this way, or not at all. -/
theorem State.stream_dropUnleft (s : State) (c : Nat) (r : StreamRef) :
    (s.dropUnleft c).stream r = s.stream r ∨ (s.dropUnleft c).stream r = (s.stream r).dropUnleft c := by
  have hstreams : ∀ (t : Tab Stream) (k : Nat), Tab.get Stream.new (Tab.mapV t (fun _ st => st.dropUnleft c)) k
      = (Tab.get Stream.new t k).dropUnleft c := fun t k => Tab.get_mapV _ t _ k rfl
  have hctx : (s.dropUnleft c).ctx r.unit = (s.ctx r.unit).dropUnleft c :=
    Tab.get_mapV Ctx.new s.ctxs (fun _ x => x.dropUnleft c) r.unit rfl
  have hcore : (s.dropUnleft c).core r.unit = (s.updCore c (CoreSt.dropUnleft c)).core r.unit := rfl
  rw [State.stream, State.stream]
  by_cases h3 : r.eng = 3
  · rw [if_pos h3, if_pos h3, hctx]
    exact .inr (hstreams _ _)
  · rw [if_neg h3, if_neg h3, hcore]
    by_cases hc : r.unit = c
    · rw [hc, State.core_updCore]
      exact .inr (hstreams _ _)
    · rw [State.core_updCore_ne s _ hc]
      exact .inl rfl

/-- A squash as far as it does not look at what fails (R137). -/
def State.squashEnd (s : State) (c : Nat) : State :=
  let u := s.updBoth c CoreArch.flipsEnd
  ((u.setCore c ((u.core c).squashed (u.endsResv (restore u (u.core c))))).asks c).withdrawn c

/-- A squash of a chunk whose shadow bank or undo log fails: its blocks fail, and the fault is posted (R388). -/
theorem squash_of_bad {s : State} {c sub : Nat} (hb : (s.core c).chunk.bad = some sub) :
    s.squash c = ((((s.squashEnd c).core c).arch.blocks.foldl (fun s (e : Nat × Block) => s.failBlock c e.1)
      (s.squashEnd c)).updBoth c (fun a => { a with
        serving := none, grpValid := false, descs := [], blocks := Tab.del a.blocks handlerSlot })).postBy State.writeMem
      ((s.squashEnd c).coreCtx c) 0x51 0 [(0x18, natLe 8 sub)] := by
  have hbad : ((s.updBoth c CoreArch.flipsEnd).core c).chunk.bad = some sub :=
    (congrArg (fun k : CoreSt => k.chunk.bad) (State.core_updCore ..)).trans hb
  unfold State.squash
  dsimp only
  split
  next hnone => exact absurd (hbad.symm.trans hnone) (by simp)
  next n hn =>
    obtain rfl : n = sub := Option.some.inj (hn.symm.trans hbad)
    rfl

/-- A command that has left its core is first on a stream. -/
structure Leads (r : StreamRef) (q : Cmd) (s : State) : Prop where
  head : s.head? r = some q

namespace Leads
variable {r : StreamRef} {q : Cmd} {s t : State}

theorem congr (h : Leads r q s) (ht : t.stream r = s.stream r) : Leads r q t :=
  ⟨(State.head?_congr ht).trans h.head⟩

theorem foldl {α : Type} {f : State → α → State} (hf : ∀ s a, Leads r q s → Leads r q (f s a)) (l : List α) (h : Leads r q s) :
    Leads r q (l.foldl f s) := List.foldlRecOn (motive := Leads r q) l f h fun _ hs a _ => hf _ a hs

theorem updCore (h : Leads r q s) (c : Nat) {f : CoreSt → CoreSt} (hf : ∀ k, (f k).eng = k.eng) : Leads r q (s.updCore c f) :=
  h.congr (State.stream_updCore _ _ _ hf)

theorem updBoth (h : Leads r q s) (c : Nat) (f : CoreArch → CoreArch) : Leads r q (s.updBoth c f) := h.updCore c fun _ => rfl

theorem updCtx (h : Leads r q s) (x : Nat) {f : Ctx → Ctx} (hf : ∀ c, (f c).streams = c.streams) : Leads r q (s.updCtx x f) :=
  h.congr (State.stream_updCtx _ _ hf _)

theorem updLaunch (h : Leads r q s) (l : Nat) (f : Launch → Launch) : Leads r q (s.updLaunch l f) := h.congr rfl

theorem setCore (h : Leads r q s) (c : Nat) {k : CoreSt} (hk : k.eng = (s.core c).eng) : Leads r q (s.setCore c k) := by
  refine h.congr (State.stream_congr s r ?_ rfl)
  by_cases hc : r.unit = c
  · rw [hc, State.core_setCore, hk]
  · rw [State.core_setCore_ne _ _ hc]

theorem writeMem (h : Leads r q s) (k : Nat) (bs : List Byte) : Leads r q (s.writeMem k bs) := h.congr rfl

/-! ### A squash -/

/-- What has not left core `c` is withdrawn; what has left it stays first (R137). -/
theorem dropUnleft (h : Leads r q s) (c : Nat) : Leads r q (s.dropUnleft c) := by
  obtain ⟨rest, hq, hl⟩ := State.head?_eq_some.1 h.head
  rcases State.stream_dropUnleft s c r with hs | hs
  · exact h.congr hs
  · refine ⟨State.head?_eq_some.2 ⟨rest.filter (fun q => q.left || q.core != c), ?_, hl⟩⟩
    have hkept : (q.left || q.core != c) = true := by rw [hl]; rfl
    rw [hs, Stream.dropUnleft, hq]
    exact List.filter_cons_of_pos (p := fun q : Cmd => q.left || q.core != c) hkept

theorem unstamp (h : Leads r q s) (c x : Nat) : Leads r q (s.unstamp c x) := by
  unfold State.unstamp
  exact h.updCtx x (by intro; rfl)

theorem count (h : Leads r q s) (c code n : Nat) : Leads r q (s.count c code n) := h.congr ((Ignores.stream r).count s c code n)

/-- The last steps of a squash. -/
theorem withdrawn (h : Leads r q s) (c : Nat) : Leads r q (s.withdrawn c) := by
  unfold State.withdrawn
  exact count (foldl (fun _ _ h => h.updBoth _ _) _ ((h.dropUnleft c).unstamp c _)) c 4 1

theorem asks (h : Leads r q s) (c : Nat) : Leads r q (s.asks c) := by
  unfold State.asks
  split
  · exact h.congr rfl
  · exact h

theorem failBlock (h : Leads r q s) (c sl : Nat) : Leads r q (s.failBlock c sl) := by
  unfold State.failBlock
  split
  · exact h
  · exact (h.updBoth _ _).updLaunch _ _

theorem raiseVec (h : Leads r q s) (v : Word) : Leads r q (s.raiseVec v) := by
  unfold State.raiseVec State.raise
  split
  · split
    · exact h
    · exact h.congr rfl
  · exact h

theorem postBy (h : Leads r q s) {w : State → Nat → List Byte → State} (hw : ∀ s k bs, Leads r q s → Leads r q (w s k bs))
    (x ty flags : Nat) (fields : List (Nat × List Byte)) : Leads r q (s.postBy w x ty flags fields) := by
  have h1 := h.updCtx x (f := fun c => { c with eseq := c.eseq + 1 }) fun _ => rfl
  unfold State.postBy
  dsimp only
  split
  · exact ((hw _ _ _ h1).updCtx x (by intro; rfl)).raiseVec _
  · exact h1

theorem squashEnd (h : Leads r q s) (c : Nat) : Leads r q (s.squashEnd c) := by
  unfold State.squashEnd
  dsimp only
  refine withdrawn (asks (setCore (h.updBoth c CoreArch.flipsEnd) c ?_) c) c
  rw [CoreSt.squashed]

theorem squash (h : Leads r q s) (c : Nat) : Leads r q (s.squash c) := by
  have hend := h.squashEnd c
  cases hb : (s.core c).chunk.bad with
  | none => rw [squash_of_good hb]; exact hend
  | some sub =>
    rw [squash_of_bad hb]
    have hfail := hend.foldl (f := fun s (e : Nat × Block) => s.failBlock c e.1) (fun _ _ h => h.failBlock _ _)
      ((s.squashEnd c).core c).arch.blocks
    exact (hfail.updBoth c _).postBy (fun _ _ _ h => h.writeMem _ _) _ _ _ _

theorem broadcast (h : Leads r q s) (part : Nat) (c : Option Nat) (wr : List Nat) : Leads r q (s.broadcast part c wr) := by
  unfold State.broadcast
  split
  · exact h
  · refine h.foldl (fun s d h => ?_) _
    split
    · exact h
    · have h' := h.updCore d (f := fun k => { k with l1c := k.l1c.filter (fun l => !wr.contains l) }) (fun _ => rfl)
      dsimp only
      split
      · exact h'.squash d
      · exact h'

theorem breakResv (h : Leads r q s) (c : Nat) (o : Overlay) : Leads r q (s.breakResv c o) :=
  h.foldl (fun s d h => by
    split
    · exact h
    · exact h.updBoth _ _) _

theorem outWrite (h : Leads r q s) (k : Nat) (bs : List Byte) : Leads r q (s.outWrite k bs) := by
  have ht : Leads r q (((s.outTouch (linesOf k bs.length)).keepOld
      (fun _ => (List.range bs.length).map (fun i => k + i))).writeMem k bs) :=
    (h.congr ((Ignores.stream r).outTouch s _)).congr rfl
  exact foldl (fun _ _ h => h.broadcast _ _ _) _ (ht.breakResv _ _)

/-! ### The order-stamp unit, translations and touches -/

theorem reportRace (h : Leads r q s) (x : Nat) (a n : Access) : Leads r q (s.reportRace x a n) := by
  unfold State.reportRace
  dsimp only
  split
  · exact h
  · unfold State.post
    exact (h.updCtx x (by intro; rfl)).postBy (fun _ _ _ h => h.outWrite _ _) _ _ _ _

theorem keepAccess (h : Leads r q s) (x : Nat) (a : Access) (clk : Tab Nat) : Leads r q (s.keepAccess x a clk) :=
  (h.foldl (fun _ _ h => h.reportRace _ _ _) _).updCtx x (by intro; rfl)

theorem markLeaf (h : Leads r q s) (t : Xlat) (need : Need) : Leads r q (s.markLeaf t need) := by
  rcases State.markLeaf_cases s t need with hm | ⟨v, hm⟩ <;> rw [hm]
  · exact h
  · exact h.congr rfl

theorem noteXlat (h : Leads r q s) (c x : Nat) (t : Xlat) (need : Need) : Leads r q (s.noteXlat c x t need) := by
  cases hc : (t.cached || t.stale s) with
  | true => rw [State.noteXlat, if_pos hc]; exact h
  | false =>
    obtain ⟨f, t', w, hx⟩ := State.noteXlat_fresh s c x need hc
    rw [hx]
    exact ((h.markLeaf t need).updCore c (f := fun k => { k with tlb := f k }) fun _ => rfl).congr rfl

variable (e : Eng)

theorem engXlat (h : Leads r q s) (t : Xlat) (need : Need) : Leads r q (s.engXlat e t need) := by
  unfold State.engXlat
  split
  · exact h.markLeaf _ _
  · exact h.noteXlat _ _ _ _

theorem engTouch (h : Leads r q s) (k n : Nat) : Leads r q (s.engTouch e k n) := by
  unfold State.engTouch
  dsimp only
  split
  · split
    · exact h.congr ((Ignores.stream r).outTouch _ _)
    · refine h.foldl (fun s l h => ?_) _
      split
      · exact h.congr ((Ignores.stream r).touchOn _ _ _ _ _)
      · exact h.congr ((Ignores.stream r).touch _ _ _ _)
  · exact h.congr ((Ignores.stream r).outTouch _ _)

/-- An access of a COMMITTED page touches its lines. -/
theorem engTouched (h : Leads r q s) (k n kind : Nat) : Leads r q (if kind = 0 then s.engTouch e k n else s) := by
  split
  · exact h.engTouch e _ _
  · exact h

theorem engStamp (h : Leads r q s) (k n va : Nat) (write : Bool) : Leads r q (s.engStamp e k n va write) := by
  unfold State.engStamp
  split
  · exact h
  · exact h.keepAccess _ _ _

/-- The traces of a command's accesses. -/
theorem engNote (h : Leads r q s) (rs : List (Word × Nat × Need)) : Leads r q (s.engNote e rs) :=
  h.foldl (fun s a h => h.foldl (fun s p h => by
    split
    next k kind x _ =>
      refine engStamp e ?_ _ _ _ _
      cases x with
      | none => exact h.engTouched e _ _ _
      | some x => exact (h.engXlat e x _).engTouched e _ _ _
    · exact h) _) _

end Leads

/-! ### Chain entries -/

section
variable {s : State} {r : StreamRef} {st : Stream} {q : Cmd} {e : Eng} {l : Bool} {last : Word}

/-- A walk goes on to an entry: the chain ends where the command says, or has another entry, and the entry is valid (R283, R284). -/
def EntryGoes (s : State) (r : StreamRef) (st : Stream) (q : Cmd) (e : Eng) (l : Bool) (last : Word) : Prop :=
  (if l then st.pos = last else param (entryWords s e st.pos) 1 ≠ 0)
    ∧ entryBad s q r.eng.toNat (entryWords s e st.pos) = false

theorem entryGoes_iff : EntryGoes s r st q e l last ↔ (!(if l = true then st.pos == last else param (entryWords s e st.pos) 1 != 0)
    || entryBad s q r.eng.toNat (entryWords s e st.pos)) = false := by
  unfold EntryGoes
  cases l with
  | true => simp
  | false => simp

/-- A command whose walk fails (R282, R284). -/
def Cmd.walkFails (q : Cmd) : Cmd := { q with leaveErr := some 9 }

/-- A command that has become the entry `ws` of its chain (R284). -/
def Cmd.enters (ws : List Word) (err : Option Nat) (sl : Option (Nat × Nat)) (q : Cmd) : Cmd := { q with
  fn := entryFn (param ws 0), ps := (ws.drop 2).take 6 ++ [param ws 1], lvl := entryLvl (param ws 0), leaveErr := err
  done := 0, got := [], landed := [], slots := sl }

variable (h : headReady s r = some (st, q, e)) (hok : engStatus s e (headRanges s e st) = .ok) (hk : q.kind = .entry l last)
  (hfn : q.fn = 0x7F)
include h hok hk hfn

theorem chainEntry_atZero (hpos : st.pos = 0) : execChainEntryExecute r s = .next (s.setHead r Cmd.walkFails) := by
  unfold execChainEntryExecute
  rw [State.withHead_ready h hok, hk]
  dsimp only
  rw [if_neg (by simp [hfn]), if_pos hpos]
  rfl

theorem chainEntry_refused (hpos : st.pos ≠ 0) (hgoes : ¬ EntryGoes s r st q e l last) :
    execChainEntryExecute r s = .next ((s.engNote e [(st.pos, 64, .read)]).setHead r Cmd.walkFails) := by
  rw [entryGoes_iff, Bool.not_eq_false] at hgoes
  unfold execChainEntryExecute
  rw [State.withHead_ready h hok, hk]
  dsimp only
  rw [if_neg (by simp [hfn]), if_neg hpos, if_pos hgoes]
  rfl

theorem chainEntry_entered (hpos : st.pos ≠ 0) (hgoes : EntryGoes s r st q e l last) : ∃ err sl,
    execChainEntryExecute r s
      = .next ((s.engNote e [(st.pos, 64, .read)]).setHead r (Cmd.enters (entryWords s e st.pos) err sl)) := by
  rw [entryGoes_iff] at hgoes
  unfold execChainEntryExecute
  rw [State.withHead_ready h hok, hk]
  dsimp only
  rw [if_neg (by simp [hfn]), if_neg hpos, if_neg (ne_true_of_eq_false hgoes)]
  exact ⟨_, _, rfl⟩

/-- An entry of a chain is read and checked before it becomes the command at the head (R284). -/
theorem chainEntryExecute_completes : ∃ t q', Completes (.chainEntryExecute r) s t ∧ t.head? r = some q'
    ∧ (¬ (st.pos ≠ 0 ∧ EntryGoes s r st q e l last) → q' = q.walkFails)
    ∧ (st.pos ≠ 0 ∧ EntryGoes s r st q e l last → ∃ err sl, q' = q.enters (entryWords s e st.pos) err sl) := by
  have hexec : exec (.chainEntryExecute r) s = execChainEntryExecute r s := rfl
  have hhead := (headReady_eq_some h).2.1
  have hnoted : (s.engNote e [(st.pos, 64, .read)]).head? r = some q := (Leads.engNote e ⟨hhead⟩ _).head
  by_cases hpos : st.pos = 0
  · exact ⟨_, _, hexec.trans (chainEntry_atZero h hok hk hfn hpos), State.head?_setHead hhead rfl, fun _ => rfl,
      fun hgo => absurd hpos hgo.1⟩
  by_cases hgoes : EntryGoes s r st q e l last
  · obtain ⟨err, sl, hexec'⟩ := chainEntry_entered h hok hk hfn hpos hgoes
    exact ⟨_, _, hexec.trans hexec', State.head?_setHead hnoted rfl,
      fun hgo => absurd ⟨hpos, hgoes⟩ hgo, fun _ => ⟨err, sl, rfl⟩⟩
  · exact ⟨_, _, hexec.trans (chainEntry_refused h hok hk hfn hpos hgoes), State.head?_setHead hnoted rfl, fun _ => rfl,
      fun hgo => absurd hgo.2 hgoes⟩

end

end Sys2Proof.Machine

namespace Sys2Proof
open Machine

/-- Settles O41, by its clauses. -/
theorem engineEvents : Obligations.EngineEvents := by
  refine ⟨fun r s st q e h hf hok hw hp => ?complete, fun r s st q e l last h hok hk hfn => ?entry,
    fun r s q code sub id hq hfault hwait hrun htrouble hcode hkind hblk hn => ?deferred, fun x k v s hk hdue => ?add,
    fun x k v s hk => ?arms, fun x a s => ?fire, fun x v s q rest y hact h3 hy hq hfn => ?retry,
    fun x v s q y hact h3 hy hq hl hfn hcnt hw => ?cancel⟩
  case complete =>
    exact ⟨_, engineCommandComplete_final h hf hok hw hp, State.stream_setStream .., State.mem_setStream ..⟩
  case entry =>
    obtain ⟨t, q', ht, hhead, hrefused, hentered⟩ := chainEntryExecute_completes h hok hk hfn
    refine ⟨t, q', ht, hhead, fun hno => ?_, fun hgo => ?_⟩
    · rw [hrefused hno]
      exact ⟨rfl, hfn⟩
    · obtain ⟨err, sl, rfl⟩ := hentered hgo
      exact ⟨rfl, rfl, rfl⟩
  case deferred =>
    refine ⟨_, engineDeferredFault_completes hq hfault hwait hrun htrouble hcode hkind hblk, ?_, ?_⟩
    · rw [State.stream_deferTo, State.stream_setStream]
    · intro c sl b _ hsl hb hl hlin hfail
      have hb' := State.block?_setStream s r { s.stream r with fault := some (code, sub) } c sl
      exact ⟨_, State.block?_deferTo _ _ (State.nodup_coreNums_setStream hn _ _) (hb'.trans hb) hsl,
        Block.defers_own _ _ hl hlin hfail⟩
  case add =>
    obtain ⟨t, ht, hcounters, harms, hmem⟩ := counterChange_of_no_due hk hdue
    refine ⟨t, ht, ?_, harms, fun j hj => ?_, hmem⟩
    · rw [hcounters]
      exact Tab.get_set_same ..
    · rw [hcounters]
      exact Tab.get_set_ne _ _ _ hj
  case arms =>
    exact ⟨s.addsOnly x k v, (State.addsOnly_ctx x k v s).1, State.mem_addsOnly_arms x k v s, counterChange_completes x v s hk⟩
  case fire =>
    obtain ⟨q, hfire, hshown, hps, hkind, hlvl, hblk⟩ := State.fire_appends s x a
    have hstream : ∀ r, (s.fire x a).stream r = _ := fun r =>
      (congrArg (State.stream · r) hfire).trans (State.stream_updCtx _ x (by intro; rfl) r)
    have hown := (hstream (a.stream x)).trans (State.stream_setStream ..)
    refine ⟨q, congrArg Stream.q hown, hshown, hps, hkind, hlvl, hblk, congrArg Stream.i hown,
      fun r' hr => (hstream r').trans (State.stream_setStream_ne _ _ _ hr), ?_⟩
    rw [hfire, State.updCtx_mem, State.mem_setStream]
  case retry =>
    obtain ⟨q', ⟨hnum, hstart, hwait⟩, hretry⟩ := State.retryStream_faulted hy hq hfn
    have h := streamRetry_completes s x hact h3
    rw [hretry] at h
    refine ⟨_, q', h, ?_, ?_, hnum, hstart, hwait, ?_, State.mem_setStream ..⟩ <;> rw [State.stream_setStream]
  case cancel =>
    obtain ⟨p, hcancel⟩ := State.cancelStream_faulted hy hq hl hfn hcnt hw
    have h := streamCancel_completes s x hact h3
    rw [hcancel] at h
    refine ⟨_, h, ?_, ?_, ?_, State.mem_setStream ..⟩ <;> rw [State.stream_setStream]

end Sys2Proof
end

section
/-! Proof of O4, first part: what keeps the canonical form of memory, and the operations that the meanings share (log 2). -/

namespace Sys2Proof
open Machine

/-- Memory has its canonical form in the next state of an answer, if there is one. -/
def AnswersOk (a : Answer) : Prop := ∀ t, a = .next t → MemoryOk t

namespace MemoryOk

variable {s t : State} {α β : Type}

/-- Only memory matters. -/
theorem of_mem_eq (h : MemoryOk s) (e : t.mem = s.mem) : MemoryOk t :=
  (congrArg (fun m => Memory.wf m = true) e).mpr h

theorem with_cur {cur : Option Cur} (h : MemoryOk s) : MemoryOk { s with cur := cur } := h

theorem ite {p : Prop} [Decidable p] (hs : MemoryOk s) (ht : MemoryOk t) : MemoryOk (if p then s else t) := by
  split
  · exact hs
  · exact ht

theorem foldl {l : List α} {f : State → α → State} (h : MemoryOk s) (hf : ∀ {t a}, MemoryOk t → MemoryOk (f t a)) :
    MemoryOk (l.foldl f s) :=
  List.foldlRecOn l f h fun _ ht _ _ => hf ht

theorem iteFst {p : Prop} [Decidable p] {a b : State × α} (hs : MemoryOk a.1) (ht : MemoryOk b.1) :
    MemoryOk (if p then a else b).1 := by
  split
  · exact hs
  · exact ht

theorem foldlFst {l : List α} {f : State × β → α → State × β} {p : State × β} (h : MemoryOk p.1)
    (hf : ∀ {q a}, MemoryOk q.1 → MemoryOk (f q a).1) : MemoryOk (l.foldl f p).1 :=
  List.foldlRecOn l f (motive := fun q => MemoryOk q.1) h fun _ hq _ _ => hf hq

theorem getD {o : Option State} (ho : ∀ {t}, o = some t → MemoryOk t) (h : MemoryOk s) : MemoryOk (o.getD s) := by
  cases o with
  | none => exact h
  | some t => exact ho rfl

end MemoryOk

namespace AnswersOk

variable {s : State}

theorem next (h : MemoryOk s) : AnswersOk (.next s) := by
  rintro _ ⟨⟩
  exact h

theorem refused {r : Refusal} : AnswersOk (.refused r) := nofun

theorem fault {r : Fault} : AnswersOk (.fault r) := nofun

theorem ite {p : Prop} [Decidable p] {a b : Answer} (ha : AnswersOk a) (hb : AnswersOk b) :
    AnswersOk (if p then a else b) := by
  split
  · exact ha
  · exact hb

end AnswersOk

/-! ### Parts of the state -/

section
variable {s : State} {c slot x : Nat} {f : CoreArch → CoreArch}

theorem MemoryOk.setCore {k : CoreSt} (h : MemoryOk s) : MemoryOk (s.setCore c k) := h

theorem MemoryOk.updCore {f : CoreSt → CoreSt} (h : MemoryOk s) : MemoryOk (s.updCore c f) := .setCore h

theorem MemoryOk.updArch (h : MemoryOk s) : MemoryOk (s.updArch c f) := .updCore h

theorem MemoryOk.updChunk {f : Chunk → Chunk} (h : MemoryOk s) : MemoryOk (s.updChunk c f) := .updCore h

theorem MemoryOk.updBoth (h : MemoryOk s) : MemoryOk (s.updBoth c f) := .updCore h

theorem MemoryOk.setCtx {c : Ctx} (h : MemoryOk s) : MemoryOk (s.setCtx x c) := h

theorem MemoryOk.updCtx {f : Ctx → Ctx} (h : MemoryOk s) : MemoryOk (s.updCtx x f) := .setCtx h

theorem MemoryOk.updPort {p : Nat} {f : Port → Port} (h : MemoryOk s) : MemoryOk (s.updPort p f) := h

theorem MemoryOk.updLaunch {l : Nat} {f : Launch → Launch} (h : MemoryOk s) : MemoryOk (s.updLaunch l f) := h

theorem MemoryOk.updBlock {f : Block → Block} (h : MemoryOk s) : MemoryOk (s.updBlock c slot f) := .updArch h

theorem MemoryOk.updBlockBoth {f : Block → Block} (h : MemoryOk s) : MemoryOk (s.updBlockBoth c slot f) :=
  .updBoth h

theorem MemoryOk.mapTids {ts : List Nat} {f : Thread → Thread} (h : MemoryOk s) : MemoryOk (s.mapTids c slot ts f) :=
  .updBlock h

theorem MemoryOk.count {code n : Nat} (h : MemoryOk s) : MemoryOk (s.count c code n) := .ite (.setCore h) h

end

/-! ### Accesses -/

section
variable {s : State} {c slot k line launch lin n x : Nat} {need : Need} {bs : List Byte} {t : Xlat}

theorem MemoryOk.writeMem (h : MemoryOk s) : MemoryOk (s.writeMem k bs) := Memory.wf_write _ _ _ h

theorem MemoryOk.markLeaf (h : MemoryOk s) : MemoryOk (s.markLeaf t need) := .ite (.writeMem h) h

theorem MemoryOk.noteXlat (h : MemoryOk s) : MemoryOk (s.noteXlat c x t need) :=
  .ite h (.of_mem_eq (.markLeaf h) rfl)

theorem MemoryOk.applyWrites {o : Overlay} (h : MemoryOk s) : MemoryOk (s.applyWrites x o) :=
  Memory.wf_apply _ _ h

theorem MemoryOk.shareOwner (h : MemoryOk s) : MemoryOk (s.shareOwner launch lin line) :=
  .foldl h fun h => .ite (.updChunk h) h

theorem MemoryOk.touch (h : MemoryOk s) : MemoryOk (s.touch launch lin line) := by
  unfold State.touch
  split
  · exact h
  · exact .ite h (.shareOwner h)
  · exact .ite h h

theorem MemoryOk.touchOn (h : MemoryOk s) : MemoryOk (s.touchOn c launch lin line) := by
  unfold State.touchOn
  dsimp only
  split
  · exact .ite (.touch h) (.count (.touch h))
  · exact .touch h

theorem MemoryOk.keepOld {ks : Nat → List Nat} (h : MemoryOk s) : MemoryOk (s.keepOld ks) := h

theorem MemoryOk.trackRead (h : MemoryOk s) : MemoryOk (s.trackRead c slot k n) := by
  unfold State.trackRead
  split
  · exact h
  · exact .foldl h fun h => .ite (.touchOn h) (.ite (.updChunk (.touchOn h)) (.updChunk (.touchOn h)))

theorem MemoryOk.l1Meet {keep : Bool} (h : MemoryOk s) : MemoryOk (s.l1Meet c line keep) :=
  .ite h (.updCore (.count h))

theorem MemoryOk.noteRead {t : Target} {cp : Nat} (h : MemoryOk s) : MemoryOk (s.noteRead c slot t n cp need) := by
  unfold State.noteRead
  split
  · exact h
  · exact .trackRead h
  · exact .ite (.l1Meet (.trackRead (.noteXlat h))) (.ite (.noteXlat h) (.ite (.count (.noteXlat h)) (.updCore
      (.count (.noteXlat h)))))

theorem MemoryOk.comWrite (h : MemoryOk s) : MemoryOk (s.comWrite c slot k bs) := by
  unfold State.comWrite
  split
  · exact .ite (.updBlock (.foldl h .touchOn)) (.updChunk (.foldl h .touchOn))
  · exact h

theorem MemoryOk.relWrite {g : Held} (h : MemoryOk s) : MemoryOk (s.relWrite c slot g) := by
  unfold State.relWrite
  split
  · exact h
  · exact .ite (.updBlock h) (.updChunk h)

theorem MemoryOk.writeTarget {t : Target} (h : MemoryOk s) : MemoryOk (s.writeTarget c slot t bs need) := by
  unfold State.writeTarget
  split
  · exact h
  · exact .comWrite h
  · exact .ite (.l1Meet (.comWrite (.noteXlat h))) (.ite (.relWrite (.noteXlat h)) (.ite (.relWrite (.relWrite
      (.noteXlat h))) (.relWrite (.relWrite (.noteXlat h)))))

theorem MemoryOk.clearResv {ltid : Nat} (h : MemoryOk s) : MemoryOk (s.clearResv c slot ltid k n) := .updArch h

end

/-! ### Records, chunks and faults -/

section
variable {s : State} {c x ty flags slot t n k : Nat} {ks tids : List Nat} {bs : List Byte}
  {fields : List (Nat × List Byte)} {g : Held} {act : State → State}

theorem MemoryOk.raise {v : Nat} (h : MemoryOk s) : MemoryOk (s.raise v) := .ite h h

theorem MemoryOk.raiseVec {vec : Word} (h : MemoryOk s) : MemoryOk (s.raiseVec vec) := .ite (.raise h) h

theorem MemoryOk.postBy {w : State → Nat → List Byte → State} (h : MemoryOk s) (hw :
    ∀ {t x1 x2}, MemoryOk t → MemoryOk (w t x1 x2)) : MemoryOk (s.postBy w x ty flags fields) :=
  .ite (.raiseVec (.updCtx (hw (.updCtx h)))) (.updCtx h)

theorem MemoryOk.failBlock (h : MemoryOk s) : MemoryOk (s.failBlock c slot) := by
  unfold State.failBlock
  split
  · exact h
  · exact .updLaunch (.updBoth h)

theorem MemoryOk.dropUnleft (h : MemoryOk s) : MemoryOk (s.dropUnleft c) := h

theorem MemoryOk.showClk (h : MemoryOk s) : MemoryOk (s.showClk c x ks) := .ite h (.updCtx h)

theorem MemoryOk.unstamp (h : MemoryOk s) : MemoryOk (s.unstamp c x) := .updCtx h

theorem MemoryOk.squash (h : MemoryOk s) : MemoryOk (s.squash c) := by
  unfold State.squash
  extract_lets s₁ k a₁ a₂ new s₂ s₃ s₄ s₅ s₆
  have h₂ : MemoryOk s₂ := .setCore (.updBoth h)
  have h₃ : MemoryOk s₃ := .ite (.of_mem_eq h₂ rfl) h₂
  have h₆ : MemoryOk s₆ := .count (.foldl (.unstamp (.dropUnleft h₃)) .updBoth)
  split
  · exact h₆
  · exact .postBy (.updBoth (.foldl h₆ .failBlock)) .writeMem

theorem MemoryOk.broadcast {part : Nat} {c : Option Nat} {wr : List Nat} (h : MemoryOk s) :
    MemoryOk (s.broadcast part c wr) :=
  .ite h (.foldl h fun h => .ite h (.ite (.squash (.updCore h)) (.updCore h)))

theorem MemoryOk.breakResv {o : Overlay} (h : MemoryOk s) : MemoryOk (s.breakResv c o) :=
  .foldl h fun h => .ite h (.updBoth h)

theorem MemoryOk.countShared {o b : Nat} (h : MemoryOk s) : MemoryOk (s.countShared o b) :=
  .foldl h fun h => .ite (.count h) h

theorem MemoryOk.outTouch {ls : List Nat} (h : MemoryOk s) : MemoryOk (s.outTouch ls) := by
  unfold State.outTouch
  refine .foldl h fun h => ?_
  split
  · exact .countShared (.shareOwner h)
  · exact h

theorem MemoryOk.outWrite {key : Nat} (h : MemoryOk s) : MemoryOk (s.outWrite key bs) :=
  .foldl (.breakResv (.writeMem (.keepOld (.outTouch h)))) .broadcast

theorem MemoryOk.writeSave (h : MemoryOk s) : MemoryOk (s.writeSave x) := .writeMem h

theorem MemoryOk.takeCore (h : MemoryOk s) : MemoryOk (s.takeCore c x) := by
  unfold State.takeCore
  refine .updCore ?_
  split
  · exact .ite h (.writeSave h)
  · exact h

theorem MemoryOk.post (h : MemoryOk s) : MemoryOk (s.post x ty flags fields) := .postBy h .outWrite

theorem MemoryOk.postDev (h : MemoryOk s) : MemoryOk (s.postDev ty flags fields) :=
  have hs : MemoryOk { s with deseq := s.deseq + 1 } := h
  .ite (.raiseVec (.of_mem_eq (.outWrite hs) rfl)) h

theorem MemoryOk.setStatus {l st : Nat} (h : MemoryOk s) : MemoryOk (s.setStatus l st) := by
  unfold State.setStatus
  split
  · exact h
  · exact .ite (.updLaunch h) (.outWrite (.updLaunch h))

theorem MemoryOk.fwWrite {va : Nat} {t : State} (h : MemoryOk s) (hw : s.fwWrite x va bs = some t) : MemoryOk t := by
  unfold State.fwWrite at hw
  split at hw
  · cases hw
    exact .outWrite (.markLeaf h)
  · cases hw

theorem MemoryOk.formOne {i : Nat} (h : MemoryOk s) : MemoryOk (s.formOne t i n) := by
  unfold State.formOne
  split
  · exact h
  · dsimp only
    split
    · exact .updLaunch h
    · exact .of_mem_eq (.outWrite (.fwWrite h ‹_›)) rfl

theorem MemoryOk.formUpTo {t k : Nat} (h : MemoryOk s) : MemoryOk (s.formUpTo t k) := by
  induction k generalizing s with
  | zero => exact h
  | succ k ih =>
    unfold State.formUpTo
    split
    · exact h
    · exact .ite h (.ite (ih (.formOne h)) (.ite (.formOne h) h))

theorem MemoryOk.form (h : MemoryOk s) : MemoryOk (s.form t) := by
  unfold State.form
  split
  · exact h
  · exact .formUpTo h

theorem MemoryOk.append {tmpl : Nat} (h : MemoryOk s) : MemoryOk (s.append x tmpl bs) := by
  have hw : ∀ va, MemoryOk ((s.fwWrite x va bs).getD s) := fun _ => .getD (.fwWrite h) h
  unfold State.append
  dsimp only
  split
  · exact .form (.updLaunch (.outWrite (hw _)))
  · exact .outWrite (hw _)

theorem MemoryOk.reply {q : Cmd} {v : Word} (h : MemoryOk s) : MemoryOk (s.reply q v) := by
  unfold State.reply
  split
  · exact .updCore (.updBoth h)
  · exact h

theorem MemoryOk.setStream {r : StreamRef} {st : Stream} (h : MemoryOk s) : MemoryOk (s.setStream r st) :=
  .ite (.updCtx h) (.updCore h)

theorem MemoryOk.leave {eng stream num : Nat} {view : Overlay} (h : MemoryOk s) :
    MemoryOk (s.leave c eng stream num x view) :=
  .ite (.foldl (.setStream h) .reply) (.setStream h)

theorem MemoryOk.send (h : MemoryOk s) : MemoryOk (s.send c x g) := h

theorem MemoryOk.withdrawHigh {core : Nat} (h : MemoryOk s) : MemoryOk (s.withdrawHigh core slot tids) := by
  unfold State.withdrawHigh
  split
  · exact h
  · exact .updLaunch h

theorem MemoryOk.release (h : MemoryOk s) : MemoryOk (s.release c x g) := by
  unfold State.release
  split
  · exact .send h
  · exact .send h
  · exact .leave h
  · split
    · exact .updLaunch h
    · exact h
  · exact .withdrawHigh h
  · exact .append h

theorem MemoryOk.keepWords {p : Cmd → Bool} (h : MemoryOk s) : MemoryOk (s.keepWords c x ks p) :=
  .updCtx (.updCore h)

theorem MemoryOk.homeWrite (h : MemoryOk s) : MemoryOk (s.homeWrite c k bs) := .updCore (.writeMem h)

theorem MemoryOk.perform (h : MemoryOk s) : MemoryOk (s.perform c g) := by
  unfold State.perform
  split
  · exact .homeWrite h
  · exact .homeWrite h
  · exact h

theorem MemoryOk.land {f : Flight} (h : MemoryOk s) : MemoryOk (s.land f) := .showClk (.perform (.keepWords h))

theorem MemoryOk.landWhere {p : Flight → Bool} (h : MemoryOk s) : MemoryOk (s.landWhere p) := .foldl h .land

theorem MemoryOk.dropL1 {all : Bool} (h : MemoryOk s) : MemoryOk (s.dropL1 c all) := .updCore h

theorem MemoryOk.commit (h : MemoryOk s) : MemoryOk (s.commit c) :=
  .count (.foldl (.foldl (.broadcast (.breakResv (.of_mem_eq (.showClk (.applyWrites (.keepOld
      (.keepWords h)))) rfl))) .release) .updBoth)

theorem MemoryOk.endChunk (h : MemoryOk s) : MemoryOk (s.endChunk c) := .ite (.commit h) (.updChunk h)

theorem MemoryOk.dirty (h : MemoryOk s) : MemoryOk (s.dirty c) := .ite (.setCore h) h

theorem MemoryOk.seal (h : MemoryOk s) : MemoryOk (s.seal c) := .updChunk h

theorem MemoryOk.hold (h : MemoryOk s) : MemoryOk (s.hold) := h

theorem MemoryOk.closeBefore (h : MemoryOk s) (hact : ∀ {t}, MemoryOk t → MemoryOk (act t)) :
    MemoryOk (s.closeBefore c act) :=
  .ite (hact h) (.ite (.hold (.updChunk h)) (.ite (.with_cur (.endChunk h)) (hact (.endChunk h))))

theorem MemoryOk.closeForTrap (h : MemoryOk s) (hact : ∀ {t}, MemoryOk t → MemoryOk (act t)) :
    MemoryOk (s.closeForTrap c act) :=
  .ite (hact h) (.ite (.with_cur (.endChunk h)) (hact (.endChunk h)))

theorem MemoryOk.endSuspend (h : MemoryOk s) : MemoryOk (s.endSuspend c) :=
  .ite (.endChunk (.updChunk h)) (.updChunk h)

theorem MemoryOk.closeAfter (h : MemoryOk s) : MemoryOk (s.closeAfter c) := .ite (.updChunk h) (.endChunk h)

theorem MemoryOk.endService {f0 f1 : Word} (h : MemoryOk s) : MemoryOk (s.endService c ty f0 f1) := by
  unfold State.endService
  dsimp only
  split
  · exact h
  · split
    · exact .updBoth h
    · exact .post (.updBoth (.failBlock h))

theorem MemoryOk.enterNext (h : MemoryOk s) : MemoryOk (s.enterNext c) := by
  unfold State.enterNext
  dsimp only
  split
  · exact h
  · exact h
  · split
    · exact .updArch h
    · exact .ite (.endService (.updArch h)) (.updArch (.updArch h))

theorem MemoryOk.enterLoop {n : Nat} (h : MemoryOk s) : MemoryOk (s.enterLoop c n) := by
  induction n generalizing s with
  | zero => exact h
  | succ n ih => exact .ite h (ih (.enterNext h))

theorem MemoryOk.enterHandlers (h : MemoryOk s) : MemoryOk (s.enterHandlers c) := .enterLoop h

theorem MemoryOk.queueFault {f : FaultRec} (h : MemoryOk s) : MemoryOk (s.queueFault c f) := by
  unfold State.queueFault
  split
  · exact h
  · exact .ite (.post (.updArch h)) (.enterHandlers (.updArch h))

theorem MemoryOk.takeFault {cur : Cur} {code sub : Nat} {emask eaddr : Word} (h : MemoryOk s) :
    MemoryOk (s.takeFault cur code sub emask eaddr) :=
  .closeForTrap h fun h => .ite (.seal (.enterHandlers (.endService h))) (.seal (.queueFault (.mapTids h)))

theorem MemoryOk.serveMark (h : MemoryOk s) : MemoryOk (s.serveMark c) := by
  unfold State.serveMark
  split
  · exact h
  · split
    · exact h
    · exact .ite (.updChunk h) h

theorem MemoryOk.resume {npc : Thread → Word} (h : MemoryOk s) : MemoryOk (s.resume c slot tids npc) :=
  .updArch (.mapTids h)

theorem MemoryOk.eret (h : MemoryOk s) : MemoryOk (s.eret c) := by
  unfold State.eret
  dsimp only
  split
  · exact h
  · exact .updArch (.updBlock h)

end

/-! ### The order-stamp unit -/

section
variable {s : State} {x key n : Nat} {write sync : Bool} {a : Access} {cur : Cur}

theorem MemoryOk.reportRace {n : Access} (h : MemoryOk s) : MemoryOk (s.reportRace x a n) :=
  .ite h (.post (.updCtx h))

theorem MemoryOk.keepAccess {clk : Tab Nat} (h : MemoryOk s) : MemoryOk (s.keepAccess x a clk) :=
  .updCtx (.foldl h .reportRace)

theorem MemoryOk.stampMarks {th : Thread} (h : MemoryOk s) : MemoryOk (s.stampMarks cur x th key n write sync) := by
  unfold State.stampMarks
  dsimp only
  split
  · exact .ite (.updCtx (.ite h (.mapTids h))) (.ite h (.mapTids h))
  · exact .ite h (.mapTids h)

theorem MemoryOk.stamp {ltid : Nat} {regAcc : Bool} {va : Word} (h : MemoryOk s) :
    MemoryOk (s.stamp cur ltid key n write sync regAcc va) := by
  unfold State.stamp
  split
  · exact h
  · dsimp only
    split
    · exact h
    · exact .ite h (.ite (.keepAccess h) (.stampMarks (.keepAccess h)))

end

/-! ### The issue of a word -/

section
variable {s : State} {e : Site} {f : Flt} {w : Word} {body : Site → State → State} {i : Instr} {track : Bool}
  {os : List Operand}

theorem MemoryOk.noteScoped {th : Thread} {k i : Nat} {write : Bool} (h : MemoryOk s) :
    MemoryOk (s.noteScoped e th k i write track) := by
  unfold State.noteScoped
  split
  · exact .ite (.stamp h) h
  · split
    · exact .stamp (.ite h (.trackRead h))
    · exact h

theorem MemoryOk.noteSrcs (h : MemoryOk s) : MemoryOk (s.noteSrcs e os track) := by
  unfold State.noteSrcs
  refine .foldl h fun h => ?_
  split
  · exact .foldl h .noteScoped
  · exact h

theorem MemoryOk.noteSources (h : MemoryOk s) : MemoryOk (s.noteSources e os) := .noteSrcs h

theorem MemoryOk.quarantine {x : Nat} {lines : List Nat} {pc : Word} (h : MemoryOk s) :
    MemoryOk (s.quarantine x lines pc) := by
  unfold State.quarantine
  refine .foldl h fun h => ?_
  split
  · exact h
  · exact .post h

theorem MemoryOk.fault (h : MemoryOk s) : MemoryOk (s.fault e f) := .takeFault h

theorem MemoryOk.faultPre (h : MemoryOk s) : MemoryOk (s.faultPre e w f) :=
  .ite (.closeForTrap h fun h => .fault (.ite (.post h) (.quarantine h))) (.fault h)

theorem MemoryOk.waitLine (h : MemoryOk s) : MemoryOk (s.waitLine e) :=
  .closeForTrap h fun h => .hold (.seal (.mapTids h))

theorem MemoryOk.faultLast (h : MemoryOk s) (hbody : ∀ {x0 t}, MemoryOk t → MemoryOk (body x0 t)) :
    MemoryOk (s.faultLast e w f body) :=
  .ite (.faultPre h) (.ite (hbody h) (.faultPre h))

theorem MemoryOk.finish {f : Thread → Thread} (h : MemoryOk s) : MemoryOk (s.finish e f) := .mapTids h

theorem MemoryOk.pass (h : MemoryOk s) : MemoryOk (s.pass e) := .finish h

theorem MemoryOk.acts (h : MemoryOk s) : MemoryOk (s.acts e) := .ite h (.dirty h)

theorem MemoryOk.issueWith {act : Thread → Bool} (h : MemoryOk s) (hbody :
    ∀ {x0 t}, MemoryOk t → MemoryOk (body x0 t)) : MemoryOk (Machine.issueWith w act body s) := by
  unfold Machine.issueWith
  split
  · exact h
  · split
    · exact .pass (.acts h)
    · split
      · exact .faultLast h hbody
      · exact .ite (.waitLine h) (.ite (.hold h) (hbody h))

theorem MemoryOk.issue (h : MemoryOk s) (hbody : ∀ {x0 t}, MemoryOk t → MemoryOk (body x0 t)) :
    MemoryOk (Machine.issue i body s) :=
  .issueWith h hbody

theorem MemoryOk.simple {f : State → Site → Thread → Thread} (h : MemoryOk s) : MemoryOk (Machine.simple i f e s) :=
  .finish (.noteSources (.acts h))

theorem MemoryOk.perThread {d : Operand} {f : State → Site → Thread → Word} (h : MemoryOk s) :
    MemoryOk (Machine.perThread i d f s) :=
  .issue h .simple

end

/-! ### The checks of a group -/

section
variable {s : State} {e : Site} {x : Nat} {req : Thread → List Req}

theorem MemoryOk.postXlate {va : Word} {cls sub : Nat} (h : MemoryOk s) : MemoryOk (s.postXlate x va cls sub).1 := by
  unfold State.postXlate
  dsimp only
  split
  · exact h
  · exact .iteFst h h

theorem MemoryOk.postAll {rs : List (Nat × Word × Nat × Nat)} (h : MemoryOk s) : MemoryOk (s.postAll x rs).1 := by
  unfold State.postAll
  refine .foldlFst h fun h => ?_
  dsimp only
  split <;> exact .postXlate h

theorem MemoryOk.waitXlate {rs : List XlReq} (h : MemoryOk s) : MemoryOk (s.waitXlate e rs) :=
  .closeForTrap h fun h => .ite (.hold (.postAll h)) (.hold (.seal (.count (.mapTids (.postAll h)))))

theorem MemoryOk.noteWalks {go : Bool} (h : MemoryOk s) : MemoryOk (s.noteWalks e req go) := .foldl h .noteXlat

theorem MemoryOk.access {k : List (Thread × List Req × List Target) → State → State} (h : MemoryOk s) (hk :
    ∀ {x0 t}, MemoryOk t → MemoryOk (k x0 t)) : MemoryOk (s.access e req k) := by
  unfold State.access
  split
  · exact .ite (.hold (.noteWalks h)) (hk (.noteWalks h))
  · exact .waitLine (.noteWalks h)
  · exact .waitXlate (.noteWalks h)
  · exact .closeForTrap (.noteWalks h) fun h => .fault (.quarantine h)

end

/-! ### When a word acts -/

section
variable {s : State} {e : Site} {body : Site → State → State} {lvl : Nat} {act : State → State}

theorem MemoryOk.parkPhase (h : MemoryOk s) : MemoryOk (s.parkPhase e) := .finish h

theorem MemoryOk.atPhase (h : MemoryOk s) (hbody : ∀ {x0 t}, MemoryOk t → MemoryOk (body x0 t)) :
    MemoryOk (s.atPhase e body) :=
  .ite (.ite (hbody h) (.parkPhase h)) (hbody h)

theorem MemoryOk.atWait (h : MemoryOk s) (hbody : ∀ {x0 t}, MemoryOk t → MemoryOk (body x0 t)) :
    MemoryOk (s.atWait e body) :=
  .ite (.ite (hbody h) (.finish h)) (hbody h)

theorem MemoryOk.atHigh (h : MemoryOk s) (hbody : ∀ {x0 t}, MemoryOk t → MemoryOk (body x0 t)) :
    MemoryOk (s.atHigh e lvl body) :=
  .ite (hbody h) (.ite (.atPhase h hbody) (.closeBefore h fun h => hbody h))

theorem MemoryOk.whenLanded (h : MemoryOk s) (hact : ∀ {t}, MemoryOk t → MemoryOk (act t)) :
    MemoryOk (s.whenLanded e lvl act) :=
  .ite (.hold h) (hact h)

theorem MemoryOk.storing {cells : List (Nat × Nat)} (h : MemoryOk s) (hact : ∀ {t}, MemoryOk t → MemoryOk (act t)) :
    MemoryOk (s.storing e cells act) :=
  .ite (hact h) (.ite (.parkPhase h) (.closeBefore h hact))

end

end Sys2Proof
end

section
/-! Proof of O4, second part: the words of the threads and what their issue does. -/

namespace Sys2Proof
open Machine

/-! ### Integer words -/

section
variable {s : State} {i : Instr} {g : IntMod → Word → Word → Word} {f : Int4}

theorem AnswersOk.intForm3 {f : Int3} (h : MemoryOk s) : AnswersOk (Machine.intForm3 i f g s) :=
  .next (.perThread h)

theorem AnswersOk.intForm4 {g : IntMod → Word → Word → Word → Word} (h : MemoryOk s) :
    AnswersOk (Machine.intForm4 i f g s) :=
  .next (.perThread h)

theorem AnswersOk.intForm2 {f : Int2} {g : IntMod → Word → Word} (h : MemoryOk s) :
    AnswersOk (Machine.intForm2 i f g s) :=
  .next (.perThread h)

theorem AnswersOk.intFormI {f : IntI} (h : MemoryOk s) : AnswersOk (Machine.intFormI i f g s) :=
  .next (.perThread h)

theorem AnswersOk.carryForm {ci : Bool} {g : Nat → Nat → Nat → Nat → Nat × Bool} (h : MemoryOk s) :
    AnswersOk (Machine.carryForm i f ci g s) :=
  .next (.issue h .simple)

end

/-! ### Float words -/

section
variable {s : State} {i : Instr}

theorem MemoryOk.perThreadF {d : Operand} {f : State → Site → Thread → WRes} (h : MemoryOk s) :
    MemoryOk (Machine.perThreadF i d f s) :=
  .issue h .simple

theorem AnswersOk.fltForm2 {f : Flt2} {g : FF → RM → Bool → Fv → Res} (h : MemoryOk s) :
    AnswersOk (Machine.fltForm2 i f g s) :=
  .next (.perThreadF h)

theorem AnswersOk.fltForm3 {f : Flt3} {g : FF → RM → Bool → Fv → Fv → Res} (h : MemoryOk s) :
    AnswersOk (Machine.fltForm3 i f g s) :=
  .next (.perThreadF h)

theorem AnswersOk.fltForm4 {f : Flt4} {g : FF → RM → Bool → Fv → Fv → Fv → Res} (h : MemoryOk s) :
    AnswersOk (Machine.fltForm4 i f g s) :=
  .next (.perThreadF h)

theorem AnswersOk.fltFormU {f : FUn} {g : FF → Bool → Nat → Res} (h : MemoryOk s) :
    AnswersOk (Machine.fltFormU i f g s) :=
  .next (.perThreadF h)

theorem AnswersOk.minmaxForm {f : FMinMax} {isMax : Bool} (h : MemoryOk s) :
    AnswersOk (Machine.minmaxForm i f isMax s) :=
  .next (.perThreadF h)

end

/-! ### MOV -/

section
variable {s : State} {l i : Nat} {e : Site} {f : MovF}

theorem MemoryOk.putScoped {who : List Nat} {node : Nat} {w : Word} (h : MemoryOk s) :
    MemoryOk (s.putScoped e who l i node w) := by
  unfold State.putScoped
  split
  · exact .updBlock h
  · split
    · exact .clearResv (.comWrite h)
    · exact h

theorem MemoryOk.movNode {n : Nat × List (Thread × Word)} (h : MemoryOk s) : MemoryOk (s.movNode e f l i n) := by
  unfold State.movNode
  extract_lets vs s₁ tree s₂ both
  have h₁ : MemoryOk s₁ := .foldl h .noteScoped
  have h₂ : MemoryOk s₂ := by
    unfold s₂
    split
    · exact .ite (.trackRead h₁) h₁
    · exact h₁
  split
  · split
    · split
      · split
        · exact .mapTids (.updBlock h₁)
        · exact h₁
      · exact .mapTids (.putScoped h₂)
    · exact .mapTids (.putScoped h₁)
  · exact .putScoped h₁

theorem MemoryOk.movUp (h : MemoryOk s) : MemoryOk (Machine.movUp f l i e s) := by
  unfold Machine.movUp
  dsimp only
  split
  · exact .fault h
  · split
    · exact .closeForTrap h fun h => .fault (.quarantine h)
    · exact .storing h fun h => .pass (.foldl (.noteSources (.acts h)) .movNode)

theorem AnswersOk.execMov (h : MemoryOk s) : AnswersOk (Machine.execMov f s) := by
  unfold Machine.execMov
  refine .next ?_
  refine .issue h fun h => ?_
  split
  · exact .movUp h
  · exact .simple h

end

/-! ### Rendezvous -/

section
variable {s : State} {l : Nat} {i : Instr}

theorem MemoryOk.memberChecks (h : MemoryOk s) : MemoryOk (s.memberChecks l) := .foldl h .takeFault

theorem MemoryOk.memberAfter (h : MemoryOk s) : MemoryOk (s.memberAfter l) := .with_cur (.memberChecks h)

theorem MemoryOk.arrive {act : Thread → Bool} {e : Site} (h : MemoryOk s) : MemoryOk (Machine.arrive i act e s) :=
  .memberAfter (.mapTids (.noteSrcs (.ite h (.acts h))))

theorem MemoryOk.rendezvous (h : MemoryOk s) : MemoryOk (Machine.rendezvous i s) := by
  unfold Machine.rendezvous
  dsimp only
  split
  · exact h
  · split
    · exact .pass (.acts h)
    · split
      · exact .faultPre h
      · exact .ite (.waitLine h) (.ite (.hold h) (.ite (.simple h) (.atHigh h .arrive)))

theorem MemoryOk.completeRend {core slot tid : Nat} (h : MemoryOk s) : MemoryOk (s.completeRend core slot tid) := by
  unfold State.completeRend
  split
  · exact h
  · refine .foldl h fun h => ?_
    split
    · exact .updBlockBoth h
    · refine .updBlock ?_
      split
      · exact .ite h (.dirty h)
      · exact h

end

/-! ### Control -/

section
variable {s : State} {i : Instr} {e : Site} {f : CtlF}

theorem MemoryOk.transfer {f : Thread → Thread} (h : MemoryOk s) : MemoryOk (Machine.transfer i e s f) :=
  .finish (.noteSources (.acts h))

theorem AnswersOk.execBru (h : MemoryOk s) : AnswersOk (Machine.execBru f s) := by
  unfold Machine.execBru
  refine .next ?_
  refine .issue h fun h => ?_
  dsimp only
  split
  · exact .fault h
  · exact .transfer h

theorem MemoryOk.uniformJump {link : Bool} (h : MemoryOk s) : MemoryOk (Machine.uniformJump i f link s) := by
  unfold Machine.uniformJump
  refine .issue h fun h => ?_
  dsimp only
  split
  · exact .fault h
  · split
    · exact .fault h
    · exact .transfer h

theorem AnswersOk.execCoswap {f : One} (h : MemoryOk s) : AnswersOk (Machine.execCoswap f s) := by
  unfold Machine.execCoswap
  refine .next ?_
  refine .issue h fun h => ?_
  split
  · exact .fault h
  · exact .transfer h

theorem MemoryOk.withdrawArrivals {core slot : Nat} {tids : List Nat} (h : MemoryOk s) :
    MemoryOk (s.withdrawArrivals core slot tids) := by
  unfold State.withdrawArrivals
  split
  · exact h
  · exact .withdrawHigh (.updBlock h)

theorem MemoryOk.leaveBars (h : MemoryOk s) : MemoryOk (s.leaveBars e) :=
  .ite (.withdrawArrivals h) (.updChunk (.updBlock h))

end

/-! ### Fetch -/

section
variable {s : State} {c q slot : Nat} {cur : Cur}

theorem MemoryOk.takeDeferred {stop : Bool} {f : FaultRec} (h : MemoryOk s) : MemoryOk (s.takeDeferred cur stop f) :=
  .with_cur (.closeForTrap h fun h => .seal (.queueFault (.ite (.mapTids (.updBlock h)) (.updBlock h))))

theorem MemoryOk.deferredFirst (h : MemoryOk s) : MemoryOk (s.deferredFirst c q slot) := by
  unfold State.deferredFirst
  split
  · exact h
  · split
    · exact h
    · split
      · exact h
      · split
        · exact .takeDeferred h
        · exact h

theorem MemoryOk.answered (h : MemoryOk s) : MemoryOk (s.answered c q slot) := by
  unfold State.answered
  split
  · exact h
  · dsimp only
    split
    · exact h
    · split
      · exact .updBlockBoth h
      · exact .of_mem_eq (.takeFault h) rfl

theorem MemoryOk.before (h : MemoryOk s) : MemoryOk (s.before c q slot) := .deferredFirst (.answered h)

theorem MemoryOk.noteFetch {x : Xlat} (h : MemoryOk s) : MemoryOk (s.noteFetch cur x) :=
  .ite (.noteXlat h) (.updCore (.noteXlat h))

theorem MemoryOk.fetchFault {f : Flt} {lines : List Nat} (h : MemoryOk s) : MemoryOk (s.fetchFault cur f lines) := by
  unfold State.fetchFault
  split
  · exact h
  · exact .closeForTrap h fun h => .takeFault (.quarantine h)

theorem MemoryOk.fetchXlate {sub : Nat} (h : MemoryOk s) : MemoryOk (s.fetchXlate cur sub) := by
  unfold State.fetchXlate
  split
  · exact .waitXlate h
  · exact h

theorem MemoryOk.issueIllegal {w : Word} (h : MemoryOk s) : MemoryOk (Machine.issueIllegal w s) :=
  .issueWith h .pass

theorem MemoryOk.countSuspend (h : MemoryOk s) : MemoryOk (s.countSuspend cur) :=
  .ite h (.ite (.endSuspend h) (.updChunk h))

theorem MemoryOk.issued (h : MemoryOk s) : MemoryOk (s.issued cur) :=
  .count (.countSuspend (.ite h (.updBlock (.updCore h))))

end

/-! ### Loads and stores -/

section
variable {s : State} {n cp lvl al line core slot : Nat} {sync acq rel : Bool} {e : Site} {rs : List Acc} {r : Acc}
  {os : List Operand} {f : Acc → Nat → Thread → Thread} {post : State → State} {ea : State → Site → Thread → Word}
  {va : Word}

theorem MemoryOk.stampAcc {write : Bool} (h : MemoryOk s) : MemoryOk (s.stampAcc e r n write sync) := by
  unfold State.stampAcc
  split
  · exact h
  · exact .stamp h

theorem MemoryOk.noteLoads (h : MemoryOk s) : MemoryOk (s.noteLoads e rs n cp sync) :=
  .foldl h fun h => .stampAcc (.noteRead h)

theorem MemoryOk.loadDone {val : State → Site → Acc → Nat} (h : MemoryOk s) (hpost :
    ∀ {t}, MemoryOk t → MemoryOk (post t)) : MemoryOk (Machine.loadDone os n cp sync val f post e rs s) :=
  .finish (hpost (.noteLoads (.noteSources (.acts h))))

theorem MemoryOk.loadBody {use : Use} (h : MemoryOk s) (hpost : ∀ {t}, MemoryOk t → MemoryOk (post t)) :
    MemoryOk (Machine.loadBody os n al cp use sync ea f post e s) :=
  .access h fun h => .loadDone h hpost

theorem MemoryOk.readHalves (h : MemoryOk s) : MemoryOk (s.readHalves e cp rs) :=
  .hold (.mapTids (.noteLoads (.acts h)))

theorem MemoryOk.storeOne {bs : List Byte} {need : Need} (h : MemoryOk s) : MemoryOk (s.storeOne e r bs need sync) :=
  .stampAcc (.clearResv (.writeTarget h))

theorem MemoryOk.storeBody {val : State → Site → Thread → List Byte} (h : MemoryOk s) :
    MemoryOk (Machine.storeBody os n al ea val e s) :=
  .access h fun h => .storing h fun h => .pass (.foldl (.noteSources (.acts h)) .storeOne)

theorem MemoryOk.prefetchLine {x : Xlat} (h : MemoryOk s) : MemoryOk (s.prefetchLine e x line) :=
  .ite (.quarantine h) (.ite h (.updCore h))

theorem MemoryOk.prefetchOne {count : Nat} (h : MemoryOk s) : MemoryOk (s.prefetchOne e va count cp) := by
  unfold State.prefetchOne
  split
  · split
    · exact .ite (.noteXlat h) (.foldl (.noteXlat h) .prefetchLine)
    · exact .quarantine h
    · exact h
  · exact h

theorem AnswersOk.execPref {f : StF} (h : MemoryOk s) : AnswersOk (Machine.execPref f s) := by
  unfold Machine.execPref
  refine .next ?_
  refine .issue h fun h => ?_
  split
  · exact .fault h
  · exact .pass (.foldl (.noteSources (.acts h)) .prefetchOne)

theorem MemoryOk.cctlLine {op : Nat} (h : MemoryOk s) : MemoryOk (s.cctlLine e op line) :=
  .ite (.foldl h fun h => .ite (.updCore h) h) (.ite h (.updCore h))

theorem AnswersOk.execCctl {f : MemX} (h : MemoryOk s) : AnswersOk (Machine.execCctl f s) := by
  unfold Machine.execCctl
  refine .next ?_
  refine .issue h fun h => ?_
  refine .access h fun h => ?_
  refine .pass ?_
  refine .foldl (.noteSources (.acts h)) fun h => ?_
  split
  · exact .cctlLine (.noteXlat h)
  · exact h

theorem MemoryOk.atomJob {f : AtomF} {j : AtomJob} (h : MemoryOk s) : MemoryOk (s.atomJob e f j).1 := by
  unfold State.atomJob
  dsimp only
  split
  · exact h
  · exact .iteFst (.iteFst (.updBlock (.trackRead h)) (.clearResv (.writeTarget (.noteRead h)))) (.iteFst (.showClk
      (.homeWrite (.keepWords (.foldl (.updBlock (.landWhere (.noteXlat h))) .perform)))) (.foldl
          (.noteXlat h) .relWrite))

theorem MemoryOk.atomDone {f : AtomF} (h : MemoryOk s) : MemoryOk (Machine.atomDone f e rs s) :=
  .finish (.foldlFst (.foldl (.noteSources (.acts h)) .stampAcc) .atomJob)

theorem MemoryOk.suspend {tids : List Nat} (h : MemoryOk s) : MemoryOk (s.suspend e tids) :=
  .ite h (.updChunk h)

theorem MemoryOk.scOne {v : Word} (h : MemoryOk s) : MemoryOk (s.scOne e r n v).1 :=
  .iteFst (.storeOne (.mapTids h)) (.mapTids h)

theorem MemoryOk.fenceClocks (h : MemoryOk s) : MemoryOk (s.fenceClocks e lvl acq rel) := .ite h (.mapTids h)

theorem MemoryOk.fence (h : MemoryOk s) : MemoryOk (s.fence e lvl acq rel) :=
  .fenceClocks (.ite h (.ite (.dropL1 (.ite (.landWhere h) h)) (.ite (.landWhere h) h)))

theorem MemoryOk.noteTransfers {cells : List (Nat × Nat)} (h : MemoryOk s) : MemoryOk (s.noteTransfers e cells) := by
  unfold State.noteTransfers
  split
  · exact h
  · split
    · exact h
    · exact .updChunk h

theorem AnswersOk.execLdx {f : LdxF} (h : MemoryOk s) : AnswersOk (Machine.execLdx f s) := by
  unfold Machine.execLdx
  refine .next ?_
  refine .issue h fun h => ?_
  refine .access h fun h => ?_
  refine .storing h fun h => ?_
  refine .pass ?_
  refine .foldl (.noteTransfers (.noteSources (.acts h))) fun h => ?_
  split
  · exact .updBlock (.stamp (.stampAcc (.noteRead h)))
  · exact h

theorem MemoryOk.ldxFault {node sub : Nat} (h : MemoryOk s) : MemoryOk (s.ldxFault core slot lvl node sub va) := by
  unfold State.ldxFault
  split
  · exact h
  · dsimp only
    split
    · exact h
    · exact .takeFault h

theorem AnswersOk.execLdxTransferLanded {idx : Nat} (h : MemoryOk s) :
    AnswersOk (Machine.execLdxTransferLanded core slot idx s) := by
  unfold Machine.execLdxTransferLanded
  split
  · exact .next h
  · split
    · exact .next h
    · split
      · exact .next h
      · split
        · exact .next (.ite h (.ldxFault h))
        · split
          · exact .next (.ldxFault (.updBlock (.quarantine h)))
          · exact .next (.updBlock (.clearResv (.comWrite (.ite h (.dirty h)))))

end

end Sys2Proof
end

section
/-! Proof of O4, third part: barriers, waits, phases and the ends of work. -/

namespace Sys2Proof
open Machine

/-! ### Barriers and waits -/

section
variable {s : State} {slot core l c tid node : Nat} {e : Site} {i : Instr} {b : Block} {how : Arrival} {f : WaitF}
  {cond : Word → Word → Bool} {rs : List Acc}

theorem MemoryOk.setBar {t : Tree} {o : Bar} (h : MemoryOk s) : MemoryOk (s.setBar core slot b t l node o) :=
  .ite (.updBlock h) (.updLaunch h)

theorem MemoryOk.arriveNode {ths : List Thread} {mask : Word} (h : MemoryOk s) :
    MemoryOk (s.arriveNode e l node how ths mask).1 :=
  .ite (.mapTids (.setBar h)) (.setBar h)

theorem MemoryOk.arriveAll {mask : State → Site → Thread → Word} {waits : Bool} {f :
    BitVec 32 → Thread → Thread} (h : MemoryOk s) : MemoryOk (Machine.arriveAll l how mask waits f e s) := by
  unfold Machine.arriveAll
  dsimp only
  split
  · exact .fault h
  · split
    · exact .fault h
    · exact .finish (.foldlFst (.ite h (.acts h)) .arriveNode)

theorem MemoryOk.laneBarrier {f : Thread → Thread} (h : MemoryOk s) : MemoryOk (Machine.laneBarrier i l f e s) :=
  .finish (.fenceClocks (.noteSources (.acts h)))

theorem MemoryOk.arrivalFence (h : MemoryOk s) : MemoryOk (s.arrivalFence e l) := .ite (.landWhere h) h

theorem MemoryOk.arrivalEdge (h : MemoryOk s) : MemoryOk (s.arrivalEdge i e l) := .noteSrcs (.arrivalFence h)

theorem MemoryOk.observe {high : Bool} (h : MemoryOk s) : MemoryOk (s.observe core high) := .ite (.dropL1 h) h

theorem AnswersOk.execBarw {f : LvlOp} (h : MemoryOk s) : AnswersOk (Machine.execBarw f s) := by
  unfold Machine.execBarw
  refine .next ?_
  refine .issue h fun h => ?_
  split
  · exact .laneBarrier h
  · refine .atHigh h fun h => ?_
    dsimp only
    split
    · exact .fault h
    · exact .finish (.observe (.noteSrcs (.ite h (.acts h))))

theorem MemoryOk.releasePheld (h : MemoryOk s) : MemoryOk (s.releasePheld e) :=
  .ite (.foldl (.updBlock h) .send) h

theorem MemoryOk.quiesceClose {act : State → State} (h : MemoryOk s) (hact : ∀ {t}, MemoryOk t → MemoryOk (act t)) :
    MemoryOk (s.quiesceClose e act) :=
  .ite (hact h) (.closeBefore h hact)

theorem MemoryOk.wakeDrains (h : MemoryOk s) : MemoryOk (s.wakeDrains c) :=
  .foldl h fun h => .ite (.updBlockBoth (.dropL1 h)) h

theorem MemoryOk.completePhase {level : Nat} (h : MemoryOk s) : MemoryOk (s.completePhase core slot tid level) := by
  unfold State.completePhase
  split
  · exact h
  · refine .ite h (.ite (.setBar h) (.ite h ?_))
    extract_lets high o' s₁ s₂ s₃ upd
    have h₁ : MemoryOk s₁ := .ite h (.dirty h)
    have h₃ : MemoryOk s₃ := .setBar (.ite (.foldl h₁ .dropL1) (.foldl h₁ .observe))
    exact .ite (.foldl h₃ .updBlockBoth) (.updBlock h₃)

theorem MemoryOk.completeOwn {th : Thread} (h : MemoryOk s) : MemoryOk (s.completeOwn c slot b th) := by
  unfold State.completeOwn
  dsimp only
  split
  · exact .ite (.completeRend h) h
  · exact .ite (.completePhase h) h
  · exact .ite (.completePhase h) h
  · exact .ite (.completePhase h) h
  · exact h

theorem MemoryOk.completeLocal {q : Nat} (h : MemoryOk s) : MemoryOk (s.completeLocal c q slot) := by
  unfold State.completeLocal
  split
  · exact h
  · exact .foldl h .completeOwn

theorem MemoryOk.freshLine {t : Target} (h : MemoryOk s) : MemoryOk (s.freshLine c t) := .ite h (.updCore h)

theorem MemoryOk.waitAcquire {acq : Bool} (h : MemoryOk s) : MemoryOk (s.waitAcquire c acq) :=
  .ite (.dropL1 h) h

theorem MemoryOk.evalWaits (h : MemoryOk s) : MemoryOk (s.evalWaits e i f cond rs).1 :=
  .finish (.ite (.noteLoads (.foldl h .freshLine)) (.waitAcquire (.noteLoads (.foldl h .freshLine))))

theorem MemoryOk.waitIssue (h : MemoryOk s) : MemoryOk (Machine.waitIssue i f cond s) := by
  refine .issue h fun h => .atWait h fun h => .access h fun h => ?_
  extract_lets s₁ r t
  have hr : MemoryOk r.1 := .evalWaits (.noteSources (.acts h))
  have ht : MemoryOk t := .foldl hr .noteRead
  exact .ite (.ite ht (.with_cur (.closeAfter ht))) hr

theorem MemoryOk.touchWaits (h : MemoryOk s) : MemoryOk (s.touchWaits core slot rs) := by
  unfold State.touchWaits
  split
  · exact h
  · refine .foldl h fun h => ?_
    split
    · exact h
    · exact .ite (.foldl h .touchOn) h

theorem MemoryOk.reevaluate (h : MemoryOk s) : MemoryOk (s.reevaluate core slot tid) := by
  unfold State.reevaluate
  split
  · exact h
  · split
    · exact h
    · split
      · split
        · exact h
        · dsimp only
          split
          · exact .ite (.touchWaits h) (.ite (.evalWaits (.ite (.touchWaits h) (.dirty (.touchWaits h))))
              (.touchWaits h))
          · exact h
          · exact .mapTids h
      · exact h

theorem AnswersOk.execWaitReevaluation (h : MemoryOk s) : AnswersOk
    (Machine.execWaitReevaluation core slot tid s) := by
  unfold Machine.execWaitReevaluation
  split
  · exact .next h
  · exact .ite (.next h) (.next (.reevaluate h))

end

/-! ### Phases and the ends of work -/

section
variable {s : State} {l c slot ctx record x rec queue : Nat} {ln : Launch} {bs : List (Nat × Nat × Block)}

theorem MemoryOk.coreChecks (h : MemoryOk s) : MemoryOk (s.coreChecks c) := .foldl h .memberChecks

theorem MemoryOk.mergeOp {o : PhaseOp} (h : MemoryOk s) : MemoryOk (s.mergeOp c slot o) := by
  unfold State.mergeOp
  split
  · exact .writeMem h
  · exact .mapTids (.writeMem h)

theorem MemoryOk.mergeWrites {ln : Launch} {bs : List (Nat × Nat × Block)} (h : MemoryOk s) :
    MemoryOk (s.mergeWrites ln bs) := by
  refine .foldl ?_ fun h => .foldl h fun h => .mergeOp h
  refine List.foldlRecOn (motive := fun m => Memory.wf m = true) _ _ ?_ fun _ hm _ _ => ?_
  · exact List.foldlRecOn (motive := fun m => Memory.wf m = true) _ _ h fun _ hm _ _ => Memory.wf_apply _ _ hm
  · exact List.foldlRecOn (motive := fun m => Memory.wf m = true) _ _ hm fun _ hm _ _ => Memory.wf_apply _ _ hm

theorem MemoryOk.reevaluateAll (h : MemoryOk s) : MemoryOk (s.reevaluateAll bs) :=
  .foldl h fun h => .foldl h fun h => .ite h (.reevaluate h)

theorem MemoryOk.mergePhase (h : MemoryOk s) : MemoryOk (s.mergePhase l ln) :=
  .reevaluateAll (.foldl (.broadcast (.breakResv (.updLaunch (.foldl (.foldl (.mergeWrites (.keepOld
      (.foldl h .keepWords))) .showClk) .updBlockBoth)))) .release)

theorem AnswersOk.execPhaseMerge (h : MemoryOk s) : AnswersOk (Machine.execPhaseMerge ctx record s) := by
  unfold Machine.execPhaseMerge
  refine .next ?_
  split
  · exact h
  · split
    · exact .mergePhase h
    · exact h

theorem AnswersOk.execBlockRetire {core : Nat} (h : MemoryOk s) :
    AnswersOk (Machine.execBlockRetire core slot s) := by
  unfold Machine.execBlockRetire
  split
  · exact .next h
  · exact .ite (.next h) (.next (.memberChecks (.updLaunch (.updBoth (.withdrawArrivals h)))))

theorem MemoryOk.lookAt {k n : Nat} (h : MemoryOk s) : MemoryOk (s.lookAt k n) := .outTouch h

theorem MemoryOk.postQueue {code : Nat} (h : MemoryOk s) : MemoryOk (s.postQueue x rec code queue) := .post h

theorem MemoryOk.ready (h : MemoryOk s) : MemoryOk (s.ready l) := .of_mem_eq (.setStatus h) rfl

theorem MemoryOk.makeReady (h : MemoryOk s) : MemoryOk (s.makeReady l) := .form (.ready h)

theorem MemoryOk.decrement {amount : Nat} (h : MemoryOk s) : MemoryOk (s.decrement x queue rec amount) := by
  unfold State.decrement
  dsimp only
  split
  · exact .ite (.postQueue (.outWrite h)) (.outWrite h)
  · split
    · split
      · exact .ite (.makeReady (.ite (.postQueue (.outWrite h)) (.outWrite h))) (.ite (.postQueue (.outWrite h))
          (.outWrite h))
      · exact .ite (.postQueue (.outWrite h)) (.outWrite h)
    · exact .ite (.postQueue (.outWrite h)) (.outWrite h)

theorem MemoryOk.producerEnds (h : MemoryOk s) : MemoryOk (s.producerEnds l ln) := by
  unfold State.producerEnds
  split
  · exact h
  · split
    · exact .ite h (.form (.updLaunch h))
    · exact h

theorem MemoryOk.endRecord {st : Nat} (h : MemoryOk s) : MemoryOk (s.endRecord l st) := by
  unfold State.endRecord
  split
  · exact h
  · extract_lets s₁ s₂ s₃ s₄
    have h₁ : MemoryOk s₁ := .setStatus h
    have h₂ : MemoryOk s₂ := .ite (.foldl (.lookAt h₁) .decrement) (.postQueue h₁)
    have h₃ : MemoryOk s₃ := .ite h₂ (.outWrite h₂)
    exact .producerEnds (.ite (.raise h₃) h₃)

theorem MemoryOk.dropPlat (h : MemoryOk s) : MemoryOk (s.dropPlat l) := h

theorem MemoryOk.releaseLaunch (h : MemoryOk s) : MemoryOk (s.releaseLaunch l ln) :=
  .updLaunch (.dropPlat (.updCtx (.foldl (.landWhere h) .wakeDrains)))

theorem MemoryOk.endInstance {t : Nat} (h : MemoryOk s) : MemoryOk (s.endInstance l t ln) :=
  .updLaunch (.updLaunch h)

theorem AnswersOk.execLaunchRetire (h : MemoryOk s) : AnswersOk (Machine.execLaunchRetire ctx record s) := by
  refine .next ?_
  split
  · exact h
  · split
    · exact h
    · dsimp only
      split
      · exact .endInstance (.releaseLaunch h)
      · exact .endRecord (.releaseLaunch h)

end

end Sys2Proof
end

section
/-! Proof of O4, fourth part: the engines and the fabric. -/

namespace Sys2Proof
open Machine

/-! ### The memory of the engines -/

section
variable {s : State} {key n : Nat} {e : Eng} {o : Overlay}

theorem MemoryOk.engXlat {t : Xlat} {need : Need} (h : MemoryOk s) : MemoryOk (s.engXlat e t need) :=
  .ite (.markLeaf h) (.noteXlat h)

theorem MemoryOk.engTouch (h : MemoryOk s) : MemoryOk (s.engTouch e key n) := by
  unfold State.engTouch
  dsimp only
  split
  · exact .ite (.outTouch h) (.foldl h fun h => .ite (.touchOn h) (.touch h))
  · exact .outTouch h

theorem MemoryOk.engStamp {va : Nat} {write : Bool} (h : MemoryOk s) : MemoryOk (s.engStamp e key n va write) := by
  unfold State.engStamp
  split
  · exact h
  · exact .keepAccess h

theorem MemoryOk.engNote {rs : List (Word × Nat × Need)} (h : MemoryOk s) : MemoryOk (s.engNote e rs) := by
  unfold State.engNote
  refine .foldl h fun h => ?_
  refine .foldl h fun h => ?_
  split
  · refine .engStamp ?_
    split
    · refine .engTouch ?_
      split
      · exact .engXlat h
      · exact h
    · split
      · exact .engXlat h
      · exact h
  · exact h

theorem MemoryOk.mendLines (h : MemoryOk s) : MemoryOk (s.mendLines key n) := h

theorem MemoryOk.dropKept {ks : Nat → Bool} {p : Cmd → Bool} (h : MemoryOk s) : MemoryOk (s.dropKept ks p) := h

theorem MemoryOk.engLand {ws : List (Nat × List Byte)} (h : MemoryOk s) : MemoryOk (s.engLand ws) :=
  .foldl h fun h => .dropKept (.mendLines (.writeMem h))

theorem MemoryOk.publish {x : Nat} (h : MemoryOk s) : MemoryOk (s.publish x o) :=
  .ite h (.broadcast (.breakResv (.foldl (.dropKept (Memory.wf_apply _ _ h)) .mendLines)))

theorem MemoryOk.engPublish (h : MemoryOk s) : MemoryOk (s.engPublish e o) := by
  unfold State.engPublish
  split
  · exact h
  · split
    · exact .updLaunch h
    · exact .publish h

theorem MemoryOk.engWait {rs : List (Word × Nat × Nat)} {setWait : List Nat → State → State} (h :
    MemoryOk s) (hsetWait : ∀ {x0 t}, MemoryOk t → MemoryOk (setWait x0 t)) : MemoryOk (s.engWait e rs setWait) :=
  hsetWait (.postAll h)

end

/-! ### Ports -/

section
variable {s : State} {lost act first : BitVec 16} {port count : Nat} {sender : Bool}

theorem MemoryOk.toPort {q : Packet} (h : MemoryOk s) : MemoryOk (s.toPort port q) := .updPort h

theorem MemoryOk.portRecord {ty : Nat} (h : MemoryOk s) : MemoryOk
    (s.portRecord ty port sender lost act count first) :=
  .postDev h

theorem MemoryOk.lossRecords {ls : List (BitVec 16)} (h : MemoryOk s) :
    MemoryOk (s.lossRecords port sender ls act count first) :=
  .foldl h .portRecord

theorem MemoryOk.failPort (h : MemoryOk s) : MemoryOk (s.failPort port) := .portRecord h

theorem MemoryOk.restripe {n : BitVec 16} (h : MemoryOk s) : MemoryOk (s.restripe port lost n) :=
  .ite (.updPort (.updPort h)) (.ite (.failPort (.updPort h)) (.updPort (.updPort h)))

end

/-! ### The fabric engine -/

section
variable {s : State} {stream x k handle dst fn n sub c : Nat} {g : GroupEntry} {a : Arriving} {q : Packet}
  {fields : List (Nat × List Byte)} {data : List Byte} {view : Sight} {v : Word} {f : Arriving → Arriving}

theorem MemoryOk.sendHeader {len : Nat} (h : MemoryOk s) : MemoryOk
    (s.sendHeader x g dst stream fn len fields data).1 :=
  h

theorem MemoryOk.sendCommand (h : MemoryOk s) : MemoryOk (s.sendCommand x g dst stream fn fields data).1 :=
  .sendHeader h

theorem MemoryOk.sendUnit {u : Nat} (h : MemoryOk s) : MemoryOk (s.sendUnit g dst stream fn n u data) := h

theorem MemoryOk.sendMessage {num : Nat} (h : MemoryOk s) : MemoryOk (s.sendMessage g dst stream fn num fields) :=
  h

theorem MemoryOk.fireSeen {a : Arm} (h : MemoryOk s) : MemoryOk (s.fireSeen x view a) := .updCtx (.setStream h)

theorem MemoryOk.fire {a : Arm} (h : MemoryOk s) : MemoryOk (s.fire x a) := .fireSeen h

theorem MemoryOk.addSeen (h : MemoryOk s) : MemoryOk (s.addSeen x c v view) := .foldl (.updCtx h) .fireSeen

theorem MemoryOk.addCounter (h : MemoryOk s) : MemoryOk (s.addCounter x c v) := .addSeen h

theorem MemoryOk.updColl {f : CollSt → CollSt} (h : MemoryOk s) : MemoryOk (s.updColl handle stream k f) := h

theorem MemoryOk.openColl (h : MemoryOk s) : MemoryOk (s.openColl handle stream k) := .ite h h

theorem MemoryOk.sendRest {m : Nat × Nat × Nat × Nat × List Byte} {n : Nat} (h : MemoryOk s) :
    MemoryOk (s.sendRest g stream m n) := by
  induction n generalizing s m with
  | zero => exact h
  | succ n ih => exact ih (.sendUnit h)

theorem MemoryOk.flushColl (h : MemoryOk s) : MemoryOk (s.flushColl handle stream k) := by
  unfold State.flushColl
  split
  · exact .updColl (.sendRest h)
  · exact h

theorem MemoryOk.freeColl (h : MemoryOk s) : MemoryOk (s.freeColl x handle stream k) := by
  have h₁ : ∀ f, MemoryOk ((s.flushColl handle stream k).updCtx x f) := fun _ => .updCtx (.flushColl h)
  unfold State.freeColl
  dsimp only
  split
  · exact Memory.wf_apply _ _ (h₁ _)
  · exact h₁ _

theorem MemoryOk.closeColl (h : MemoryOk s) : MemoryOk (s.closeColl x handle stream k) :=
  .of_mem_eq (.freeColl h) rfl

theorem MemoryOk.takeAbort (h : MemoryOk s) : MemoryOk (s.takeAbort g stream k sub) := by
  unfold State.takeAbort
  split
  · exact .ite h (.updColl (.freeColl h))
  · exact h

theorem MemoryOk.abortColl (h : MemoryOk s) : MemoryOk (s.abortColl g stream k sub) :=
  .foldl (.takeAbort h) .sendMessage

theorem MemoryOk.decideAbort {root : Nat} (h : MemoryOk s) : MemoryOk (s.decideAbort g root stream k sub) := by
  unfold State.decideAbort
  split
  · split
    · exact .ite h (.abortColl h)
    · exact h
  · exact .sendMessage h

theorem MemoryOk.updArriving (h : MemoryOk s) : MemoryOk (s.updArriving q f) := .ite h h

theorem MemoryOk.writeInPlace (h : MemoryOk s) : MemoryOk (s.writeInPlace x q a) :=
  .ite h (.updArriving (Memory.wf_apply _ _ (MemoryOk.ite h (.writeSave h))))

theorem MemoryOk.releaseKept (h : MemoryOk s) : MemoryOk (s.releaseKept a) := h

theorem MemoryOk.confirm {status : Nat} (h : MemoryOk s) : MemoryOk (s.confirm g a status) := h

theorem MemoryOk.finishArriving (h : MemoryOk s) : MemoryOk (s.finishArriving a) := h

theorem MemoryOk.landPiece (h : MemoryOk s) : MemoryOk (s.landPiece g a n) := by
  unfold State.landPiece
  dsimp only
  split
  · exact h
  · exact .of_mem_eq (.engLand (.engNote h)) rfl

theorem MemoryOk.refuseCopy (h : MemoryOk s) : MemoryOk (s.refuseCopy g a) :=
  .confirm (.finishArriving (.releaseKept (Memory.wf_apply _ _ h)))

theorem MemoryOk.setArriving (h : MemoryOk s) : MemoryOk (s.setArriving a f) := h

theorem MemoryOk.stepCopy (h : MemoryOk s) : MemoryOk (s.stepCopy g a) := by
  unfold State.stepCopy
  dsimp only
  split
  · exact .setArriving h
  · exact h
  · exact .engWait h .setArriving
  · exact .refuseCopy h

theorem MemoryOk.applyCopy (h : MemoryOk s) : MemoryOk (s.applyCopy g a) := by
  unfold State.applyCopy
  dsimp only
  split
  · exact h
  · split
    · exact .refuseCopy h
    · split
      · exact .stepCopy h
      · split
        · exact h
        · exact .setArriving h
        · exact .refuseCopy h
        · exact .ite h (.confirm (.finishArriving (.ite (.addCounter (.engLand (.publish (.engNote
            (.releaseKept h))))) (.engLand (.publish (.engNote (.releaseKept h)))))))

theorem MemoryOk.applyPush (h : MemoryOk s) : MemoryOk (s.applyPush g a) := by
  unfold State.applyPush
  dsimp only
  split
  · exact h
  · refine .ite ?_ (.updCtx h)
    split
    · exact .decideAbort h
    · exact h

theorem MemoryOk.answerPull (h : MemoryOk s) : MemoryOk (s.answerPull g a) := by
  unfold State.answerPull
  dsimp only
  split
  · exact h
  · split
    · exact .sendCommand (.finishArriving h)
    · exact .ite (.sendCommand (.finishArriving h)) h

theorem MemoryOk.applyOne (h : MemoryOk s) : MemoryOk (s.applyOne a) := by
  unfold State.applyOne
  split
  · exact h
  · split
    · exact h
    · split
      · exact .ite (.applyCopy h) (.landPiece h)
      · exact .confirm (.finishArriving (.addSeen h))
      · exact .finishArriving (.updColl (.openColl h))
      · exact .finishArriving (.updColl (.openColl h))
      · exact .finishArriving (.updColl (.openColl h))
      · exact .answerPull h
      · exact .finishArriving (.applyPush h)
      · exact .finishArriving (.updColl h)
      · exact .finishArriving h

theorem MemoryOk.confirmed (h : MemoryOk s) : MemoryOk (s.confirmed g q) := by
  unfold State.confirmed
  dsimp only
  split
  · exact h
  · exact .ite h (.ite (.ite (.addCounter (.setStream h)) (.setStream h)) (.setStream h))

theorem MemoryOk.postReplan (h : MemoryOk s) : MemoryOk (s.postReplan x) := .post h

theorem MemoryOk.replans (h : MemoryOk s) : MemoryOk (s.replans g stream k) := by
  unfold State.replans
  split
  · exact h
  · exact .ite h (.postReplan (.updColl (.ite (.freeColl h) h)))

theorem MemoryOk.abortAsked (h : MemoryOk s) : MemoryOk (s.abortAsked g stream k sub) := by
  unfold State.abortAsked
  split
  · exact .ite h (.abortColl h)
  · exact h

theorem MemoryOk.deliver (h : MemoryOk s) : MemoryOk (s.deliver q) := by
  unfold State.deliver
  split
  · exact h
  · refine .ite (.ite h ?_) (.ite h (.ite (.confirmed h) (.ite (.updColl h) (.ite (.replans h) (.ite (.updColl h)
      (.ite ?_ (.ite h (.updArriving h))))))))
    · dsimp only
      split
      · exact .writeInPlace (.updArriving h)
      · exact .updArriving h
    · exact .ite (.abortAsked h) (.takeAbort (.openColl h))

theorem MemoryOk.switchMove (h : MemoryOk s) : MemoryOk (s.switchMove n) := by
  unfold State.switchMove
  split
  · exact h
  · split
    · exact h
    · split
      · exact h
      · split
        · exact .deliver h
        · split
          · exact .toPort h
          · exact h

end

/-! ### XC -/

section
variable {s : State} {e : Site} {f : XcF} {fn : Nat} {ps : List Word}

theorem MemoryOk.enqueue {r : StreamRef} {qs : List Cmd} (h : MemoryOk s) : MemoryOk (s.enqueue r qs) :=
  .setStream h

theorem MemoryOk.takeNumbers {c key n : Nat} (h : MemoryOk s) : MemoryOk (s.takeNumbers c key n) := .updArch h

theorem MemoryOk.xcLeave {cs : List (Nat × Nat × Nat)} (h : MemoryOk s) : MemoryOk (s.xcLeave e cs) :=
  .ite (.foldl h .leave) (.with_cur (.closeAfter (.updChunk h)))

theorem MemoryOk.xcFinish {reply : Option Nat} (h : MemoryOk s) : MemoryOk (s.xcFinish e f reply) := .finish h

theorem MemoryOk.xcCore {eng : Nat} (h : MemoryOk s) : MemoryOk (Machine.xcCore s e fn eng f ps) :=
  .xcLeave (.xcFinish (.takeNumbers (.enqueue h)))

theorem MemoryOk.xcCopyMma (h : MemoryOk s) : MemoryOk (Machine.xcCopyMma s e f ps) :=
  .xcLeave (.xcFinish (.takeNumbers (.takeNumbers (.enqueue (.enqueue h)))))

theorem MemoryOk.xcFabric (h : MemoryOk s) : MemoryOk (Machine.xcFabric s e fn f ps) :=
  .xcLeave (.xcFinish (.updCtx (.enqueue h)))

theorem MemoryOk.xcIssue {i : Instr} (h : MemoryOk s) : MemoryOk (Machine.xcIssue i fn f s) := by
  unfold Machine.xcIssue
  refine .issue h fun h => ?_
  split
  · exact .fault h
  · split
    · exact .fault h
    · split
      · exact .fault h
      · exact .ite (.xcFabric (.noteSources (.acts h))) (.ite (.xcCopyMma (.noteSources (.acts h))) (.xcCore
          (.noteSources (.acts h))))

end

/-! ### Commands -/

section
variable {s : State} {e : Eng} {g : GroupEntry} {r : StreamRef} {c : CollSt} {pb : List Byte} {st : Stream}
  {q : Cmd} {rs : List (Word × Nat × Need)} {n : Nat} {w : Word}

theorem MemoryOk.setHead {f : Cmd → Cmd} (h : MemoryOk s) : MemoryOk (s.setHead r f) := by
  unfold State.setHead
  dsimp only
  split
  · exact .setStream h
  · exact h

theorem MemoryOk.withHead {k : Stream → Cmd → Eng → State → State} (h : MemoryOk s) (hk :
    ∀ {x0 x1 x2 t}, MemoryOk t → MemoryOk (k x0 x1 x2 t)) : MemoryOk (s.withHead r k) := by
  unfold State.withHead
  split
  · exact h
  · split
    · exact hk h
    · exact .engWait h .setHead
    · exact h

theorem MemoryOk.readPiece {p : Nat × Nat} (h : MemoryOk s) : MemoryOk (s.readPiece e p) :=
  .setHead (.engNote h)

theorem MemoryOk.readAll (h : MemoryOk s) : MemoryOk (s.readAll e rs) := .foldl h .readPiece

theorem MemoryOk.readSome (h : MemoryOk s) : MemoryOk (s.readSome e rs) := by
  unfold State.readSome
  dsimp only
  split
  · exact .readAll h
  · next n _ =>
    cases (unreadOf e rs)[n]? with
    | none => exact h
    | some _ => exact .readPiece h

theorem MemoryOk.endStep (h : MemoryOk s) : MemoryOk (s.endStep e rs) := .setHead (.readAll h)

theorem MemoryOk.landUnit {p : OutPiece × Nat} (h : MemoryOk s) : MemoryOk (s.landUnit e p) :=
  .setHead (.engLand (.engNote h))

theorem MemoryOk.stepMove (h : MemoryOk s) : MemoryOk (s.stepMove st e) := by
  unfold State.stepMove
  refine .ite ?_ ?_
  · split
    · exact .endStep h
    · split
      · exact .readPiece h
      · exact h
  · split
    · exact .landUnit h
    · exact h

theorem MemoryOk.arm (h : MemoryOk s) : MemoryOk (s.arm e) := .ite (.fire (.engNote h)) (.updCtx (.engNote h))

theorem MemoryOk.coreWrites {ws : List (Word × List Byte)} {dpub : Bool} (h : MemoryOk s) :
    MemoryOk (s.coreWrites e ws dpub) :=
  .ite (.setStream (.engLand h)) (.engPublish (.engLand h))

theorem MemoryOk.performCore (h : MemoryOk s) : MemoryOk (s.performCore e st) :=
  .coreWrites (.setStream (.updCore (.engNote h)))

theorem MemoryOk.begin (h : MemoryOk s) : MemoryOk (s.begin e) := .setHead h

theorem MemoryOk.runSteps {n : Nat} (h : MemoryOk s) : MemoryOk (s.runSteps r n) := by
  induction n generalizing s with
  | zero => exact h
  | succ n ih =>
    refine ih (.withHead h fun h => ?_)
    split
    · exact .endStep h
    · exact h

theorem MemoryOk.finishCore (h : MemoryOk s) : MemoryOk (s.finishCore st q e) :=
  .ite (.setHead (.performCore h)) (.withHead (.runSteps (.begin h)) fun h => .ite (.setHead (.performCore h)) h)

theorem MemoryOk.markWord {key : Nat} (h : MemoryOk s) : MemoryOk (s.markWord e key) := by
  unfold State.markWord
  split
  · exact .updCtx h
  · exact h

theorem MemoryOk.releaseWord {w : Word} {v : Nat} (h : MemoryOk s) : MemoryOk (s.releaseWord e w v) := by
  unfold State.releaseWord
  extract_lets s₁ ws s₂
  have h₂ : MemoryOk s₂ := .engPublish (.engLand (.engNote h))
  cases ws.1.head?.map (fun c => c.1) <|> ws.2.head?.map (fun c => c.1) with
  | none => exact h₂
  | some _ => exact .markWord h₂

theorem MemoryOk.placeColl {o : Overlay} (h : MemoryOk s) : MemoryOk (s.placeColl e g c o) :=
  Memory.wf_apply _ _ (MemoryOk.writeSave h)

theorem MemoryOk.performColl (h : MemoryOk s) : MemoryOk (s.performColl e g c).1 :=
  .iteFst (.placeColl h) (.closeColl (.ite (.foldl (.engNote (.updColl h)) fun h => .engPublish (.engLand h))
      (.releaseWord (.foldl (.engNote (.updColl h)) fun h => .engPublish (.engLand h)))))

theorem MemoryOk.performHead (h : MemoryOk s) : MemoryOk (s.performHead st q e).1 := by
  unfold State.performHead
  dsimp only
  split
  · exact .iteFst h (.engPublish (.setStream h))
  · exact .setStream h
  · exact .arm h
  · exact .reply (.dropL1 (.setHead h))
  · exact .iteFst (.addSeen h) h
  · exact .updCtx h
  · exact h
  · exact h
  · split
    · exact .iteFst (.performColl h) h
    · exact h
  · exact h

theorem MemoryOk.writeWord (h : MemoryOk s) : MemoryOk (s.writeWord e w n) := .ite h (.releaseWord h)

theorem MemoryOk.completeHead (h : MemoryOk s) : MemoryOk (s.completeHead r) :=
  .ite h (.withHead h fun h => .ite h (.setStream (.writeWord h)))

theorem AnswersOk.execChainEntryExecute (h : MemoryOk s) : AnswersOk (Machine.execChainEntryExecute r s) := by
  unfold Machine.execChainEntryExecute
  refine .next ?_
  refine .withHead h fun h => ?_
  split
  · exact .ite h (.ite (.setHead h) (.ite (.setHead (.engNote h)) (.setHead (.engNote h))))
  · exact h

theorem MemoryOk.sendCopy (h : MemoryOk s) : MemoryOk (s.sendCopy st q e) := by
  unfold State.sendCopy
  dsimp only
  split
  · exact h
  · exact .ite (.ite (.stepMove h) (.setHead (.sendHeader h))) (.ite (.setHead (.sendUnit h)) h)

theorem MemoryOk.sendAdd (h : MemoryOk s) : MemoryOk (s.sendAdd q e) := by
  unfold State.sendAdd
  dsimp only
  split
  · exact h
  · split
    · exact h
    · exact .setHead (.sendCommand h)

theorem MemoryOk.beginColl {f : CollSt → CollSt} (h : MemoryOk s) : MemoryOk (s.beginColl e g pb f) :=
  .ite (.setHead (.updColl (.of_mem_eq (.openColl h) rfl))) (.sendCommand (.setHead (.updColl (.of_mem_eq
      (.openColl h) rfl))))

theorem MemoryOk.startColl (h : MemoryOk s) : MemoryOk (s.startColl e g pb) := by
  unfold State.startColl
  split
  · exact h
  · exact .ite h (.beginColl (.updCtx h))

theorem MemoryOk.startSteps (h : MemoryOk s) : MemoryOk (s.startSteps e g pb) := by
  unfold State.startSteps
  split
  · exact .post (.setHead (.ite h (.updCtx h)))
  · split
    · exact h
    · exact .ite h (.beginColl (.updCtx h))

theorem MemoryOk.reportReady (h : MemoryOk s) : MemoryOk (s.reportReady e g c) :=
  .ite (.updColl h) (.sendCommand (.updColl h))

theorem MemoryOk.beginSend {dst fn : Nat} {fields : List (Nat × List Byte)} {bytes : List Byte} (h : MemoryOk s) :
    MemoryOk (s.beginSend e g c dst fn fields bytes) :=
  have hr : MemoryOk (s.sendHeader e.x g dst c.stream fn bytes.length fields []).1 := .sendHeader h
  .ite (.sendUnit hr) (.updColl (.sendUnit hr))

theorem MemoryOk.sendNext {m : Nat × Nat × Nat × Nat × List Byte} (h : MemoryOk s) : MemoryOk (s.sendNext g c m) :=
  .updColl (.sendUnit h)

theorem MemoryOk.reread (h : MemoryOk s) : MemoryOk (s.reread e g c pb) := by
  unfold State.reread
  dsimp only
  split
  · exact .updColl (.setHead h)
  · split
    · exact .updColl h
    · exact .readSome h

theorem MemoryOk.stepColl {a : Nat} (h : MemoryOk s) : MemoryOk (s.stepColl e g c a pb) := by
  unfold State.stepColl
  extract_lets st stream op peer n loc ap upd next write send
  have hnext : ∀ {t}, MemoryOk t → MemoryOk (next t) := .updColl
  have hwrite : ∀ {bs}, MemoryOk (write s bs) := .updColl (.setHead h)
  have hsend : ∀ {fields}, MemoryOk (send fields) := .beginSend (.engNote h)
  refine .ite (.ite h (.updColl (.decideAbort h))) ?_
  clear_value op
  split
  · exact hnext hsend
  · exact hnext hsend
  · split
    · exact .ite (hnext h) (.updColl (MemoryOk.sendCommand h))
    · exact h
    · exact hnext hwrite
  · split
    · exact .ite h (hnext (.updCtx h))
    · exact .ite (hnext h) h
  · exact hnext hwrite
  · exact .ite h (.reportReady h)

theorem MemoryOk.collStep {t : CollTask} (h : MemoryOk s) : MemoryOk (s.collStep e g c t) := by
  unfold State.collStep
  dsimp only
  split
  · exact .updColl (.beginSend h)
  · exact .updColl h
  · exact .updColl (.beginSend h)

theorem MemoryOk.decideColl (h : MemoryOk s) : MemoryOk (s.decideColl g c pb) := by
  unfold State.decideColl
  dsimp only
  split
  · exact .abortColl h
  · split
    · exact .foldl (.replans h) .sendMessage
    · split
      · exact .foldl (.updColl h) .sendMessage
      · split
        · exact h
        · exact .ite (.foldl h .abortColl) h

theorem MemoryOk.collTurn (h : MemoryOk s) : MemoryOk (s.collTurn e g c pb) := by
  unfold State.collTurn
  extract_lets cx wait
  have hwait : MemoryOk (wait s) := .ite (.decideColl h) (.ite (.sendMessage (.updColl h)) h)
  split
  · exact .sendNext h
  · refine .ite h (.ite hwait ?_)
    split
    · exact .ite hwait (.stepColl h)
    · refine .ite (.reread h) ?_
      split
      · exact .collStep h
      · exact .ite (.reportReady h) hwait

theorem MemoryOk.collUnit (h : MemoryOk s) : MemoryOk (s.collUnit e) := by
  unfold State.collUnit
  split
  · exact .readSome h
  · dsimp only
    split
    · exact h
    · split
      · split
        · exact .collTurn h
        · exact h
      · split
        · exact h
        · split
          · exact .startSteps h
          · split
            · exact .startColl h
            · exact .readSome (.setHead h)

theorem MemoryOk.engineUnit (h : MemoryOk s) : MemoryOk (s.engineUnit r) := by
  unfold State.engineUnit
  refine .withHead h fun h => ?_
  split
  · exact h
  · split
    · exact .ite (.stepMove (.begin h)) h
    · split
      · exact .sendCopy h
      · exact .sendAdd h
      · exact .collUnit h
      · exact h

theorem MemoryOk.finishUnits {c : Nat} (h : MemoryOk s) : MemoryOk (s.finishUnits c) := by
  unfold State.finishUnits
  refine .foldl h fun h => ?_
  dsimp only
  split
  · split
    · split
      · split
        · exact h
        · split
          · exact .ite (.endStep h) h
          · exact h
      · exact h
    · refine .foldl ?_ .landUnit
      split
      · split
        · exact h
        · split
          · exact .ite (.endStep h) h
          · exact h
      · exact h
  · split
    · split
      · exact h
      · split
        · exact .ite (.endStep h) h
        · exact h
    · exact h

theorem MemoryOk.deferTo {id : BlockId} {f : FaultRec} (h : MemoryOk s) : MemoryOk (s.deferTo id f) :=
  .foldl h fun h => .updCore (.updBoth h)

theorem AnswersOk.execEngineDeferredFault (h : MemoryOk s) : AnswersOk (Machine.execEngineDeferredFault r s) := by
  unfold Machine.execEngineDeferredFault
  dsimp only
  split
  · exact .next h
  · split
    · exact .next h
    · split
      · exact .next h
      · refine .next ?_
        split
        · exact .post (.setStream (.ite h (.ite (.post h) (.quarantine h))))
        · exact .deferTo (.setStream (.ite h (.ite (.post h) (.quarantine h))))
        · exact .setStream (.ite h (.ite (.post h) (.quarantine h)))

theorem MemoryOk.dropColl (h : MemoryOk s) : MemoryOk (s.dropColl r q) := by
  unfold State.dropColl
  split
  · split
    · exact .closeColl h
    · exact h
  · exact h

theorem MemoryOk.retryStream (h : MemoryOk s) : MemoryOk (s.retryStream r) := by
  unfold State.retryStream
  dsimp only
  split
  · exact .setStream (.dropColl h)
  · exact h

theorem MemoryOk.completeAll {n : Nat} (h : MemoryOk s) : MemoryOk (s.completeAll r n) := by
  induction n generalizing s with
  | zero => exact h
  | succ n ih => exact ih (.completeHead h)

theorem MemoryOk.cancelStream (h : MemoryOk s) : MemoryOk (s.cancelStream r) := by
  unfold State.cancelStream
  dsimp only
  split
  · exact .ite (.setStream (.foldl (.dropColl h) fun h => .ite (.reply h) h)) (.completeAll (.setStream (.foldl
      (.dropColl h) fun h => .ite (.reply h) h)))
  · exact h

theorem MemoryOk.streamAction {x core : Nat} {v : Word} (h : MemoryOk s) : MemoryOk (s.streamAction x core v) := by
  unfold State.streamAction
  extract_lets act own t
  have hact : ∀ {t}, MemoryOk t → MemoryOk (act t) := fun h => .ite (.cancelStream h) (.retryStream h)
  have ht : MemoryOk t := hact (.updCore h)
  clear_value own
  refine .ite (hact h) ?_
  split
  · exact .updCore ht
  · exact ht

end

end Sys2Proof
end

section
/-! Proof of O4, fifth part: lehr registers, neighbour links, placing and scheduling. -/

namespace Sys2Proof
open Machine

/-! ### Lehr registers -/

section
variable {s : State} {lvl k : Nat}

theorem MemoryOk.lehrIssue {i : Instr} {body : Site → State → State} (h : MemoryOk s) (hbody :
    ∀ {x0 t}, MemoryOk t → MemoryOk (body x0 t)) : MemoryOk (Machine.lehrIssue i lvl k body s) :=
  .issue h fun h => .ite (.hold h) (hbody (.noteSources (.acts h)))

theorem MemoryOk.mapLehr {e : Site} {f : Lehr → Lehr} (h : MemoryOk s) : MemoryOk (s.mapLehr e lvl k f) :=
  .updBlock h

end

/-! ### Neighbour links -/

section
variable {s : State} {f : NbrF}

theorem AnswersOk.execNbrpush (h : MemoryOk s) : AnswersOk (Machine.execNbrpush f s) := by
  unfold Machine.execNbrpush
  refine .next ?_
  refine .issue h fun h => ?_
  split
  · exact .fault h
  · exact .ite (.hold h) (.pass (.updBoth (.noteSources (.acts h))))

theorem MemoryOk.popBeat {e : Site} {key : Nat} (h : MemoryOk s) : MemoryOk (s.popBeat e key) :=
  .ite (.updChunk (.updArch h)) (.updArch h)

theorem AnswersOk.execNbrpop (h : MemoryOk s) : AnswersOk (Machine.execNbrpop f s) := by
  unfold Machine.execNbrpop
  refine .next ?_
  refine .issue h fun h => ?_
  split
  · exact .fault h
  · split
    · exact .finish (.acts h)
    · exact .finish (.popBeat (.acts h))

end

/-! ### Paired words -/

section
variable {s : State}

theorem AnswersOk.pairWord {i : Instr} {a b : Half} (h : MemoryOk s) : AnswersOk (Machine.pairWord i a b s) :=
  .next (.issueWith h .simple)

end

/-! ### Placing -/

section
variable {s : State} {c l : Nat} {rs : List (Nat × Nat)} {ln : Launch} {p : Plan}

theorem MemoryOk.copyOut {x : Nat} (h : MemoryOk s) : MemoryOk (s.copyOut c x rs) :=
  .foldl h fun h => .ite h (Memory.wf_write _ _ _ h)

theorem MemoryOk.dropRanges (h : MemoryOk s) : MemoryOk (s.dropRanges c rs) := h

theorem MemoryOk.placeNodes {lin : Nat} (h : MemoryOk s) : MemoryOk (s.placeNodes c l lin ln p) :=
  .foldl h fun h => .updLaunch (.writeMem h)

theorem MemoryOk.running (h : MemoryOk s) : MemoryOk (s.running l) := by
  unfold State.running
  dsimp only
  split
  · split
    · split
      · refine .setStatus ?_
        split
        · exact .ite (.setStatus h) h
        · exact h
      · split
        · exact .ite (.setStatus h) h
        · exact h
    · split
      · exact .ite (.setStatus h) h
      · exact h
  · split
    · exact .ite (.setStatus h) h
    · exact h

theorem MemoryOk.placeBlock (h : MemoryOk s) : MemoryOk (s.placeBlock c l ln p) :=
  .memberChecks (.running (.of_mem_eq (.placeNodes (.ite (.takeCore (.dropL1 (.dropRanges (.copyOut h)))) (.dropL1
      (.dropRanges (.copyOut h))))) rfl))

end

/-! ### Scheduling -/

section
variable {s : State} {x c q l ctx n queue rec core record : Nat} {r : BitVec 256} {p : Packet64} {ahead : List Nat}

theorem MemoryOk.setQueue {v : QueueSt} (h : MemoryOk s) : MemoryOk (s.setQueue x q v) := .updCtx h

theorem MemoryOk.doorbell {value : Word} (h : MemoryOk s) : MemoryOk (s.doorbell x q value) :=
  .ite h (.ite (.postQueue (.lookAt h)) (.setQueue (.lookAt h)))

theorem MemoryOk.consume (h : MemoryOk s) : MemoryOk (s.consume x q p) := .setQueue (.outWrite h)

theorem MemoryOk.skip (h : MemoryOk s) : MemoryOk (s.skip x q p) := .postQueue (.consume h)

theorem MemoryOk.stopQueue (h : MemoryOk s) : MemoryOk (s.stopQueue x q) := .ite (.setQueue h) h

theorem MemoryOk.sawPacket (h : MemoryOk s) : MemoryOk (s.sawPacket p) := .lookAt (.lookAt h)

theorem AnswersOk.onPacket {ty : Nat} {act : Packet64 → State → State} (h : MemoryOk s) (hact :
    ∀ {x0 t}, MemoryOk t → MemoryOk (act x0 t)) : AnswersOk (Machine.onPacket s x q ty act) := by
  unfold Machine.onPacket
  refine .next ?_
  split
  · exact .ite (hact (.sawPacket h)) h
  · exact .stopQueue h

theorem MemoryOk.waitPacket {act : State → State} (h : MemoryOk s) (hact : ∀ {t}, MemoryOk t → MemoryOk (act t)) :
    MemoryOk (s.waitPacket x q p act) :=
  .ite (.consume (hact h)) (.setQueue h)

theorem AnswersOk.execSetdet (h : MemoryOk s) : AnswersOk (Machine.execSetdet ctx queue s) :=
  .onPacket h fun h => .ite (.skip h) (.waitPacket h fun h => .outWrite h)

theorem AnswersOk.execQfence (h : MemoryOk s) : AnswersOk (Machine.execQfence ctx queue s) :=
  .onPacket h fun h => .waitPacket h fun h => h

theorem AnswersOk.execQueueWaitRelease (h : MemoryOk s) : AnswersOk (Machine.execQueueWaitRelease ctx queue s) := by
  unfold Machine.execQueueWaitRelease
  split
  · split
    · exact .ite (.execSetdet h) (.execQfence h)
    · exact .next h
  · exact .next h

theorem AnswersOk.execUnassignedPacket (h : MemoryOk s) : AnswersOk (Machine.execUnassignedPacket ctx queue s) := by
  unfold Machine.execUnassignedPacket
  refine .next ?_
  split
  · exact .ite (.skip (.sawPacket h)) h
  · exact .stopQueue h

theorem MemoryOk.capture {ln : Launch} {c : Ctx} (h : MemoryOk s) : MemoryOk (s.capture rec ln c) :=
  .outWrite (.outWrite (.outWrite h))

theorem MemoryOk.dequeue {d : QDesc} (h : MemoryOk s) : MemoryOk (s.dequeue x q rec d) := by
  unfold State.dequeue
  refine .ite (.postQueue h) ?_
  extract_lets ln gone n l s₁ s₂ s₃ s₄ s₅
  have h₁ : MemoryOk s₁ := .capture (.lookAt h)
  have h₂ : MemoryOk s₂ := .ite (.outWrite h₁) h₁
  have h₄ : MemoryOk s₄ := .of_mem_eq h₂ rfl
  split
  · exact .endRecord h₄
  · exact .ite (.makeReady (.setStatus h₄)) (.setStatus h₄)

theorem MemoryOk.copyBack (h : MemoryOk s) : MemoryOk (s.copyBack c x) :=
  List.foldlRecOn (motive := fun m => Memory.wf m = true) _ _ h fun _ hm _ _ =>
    Memory.wf_apply _ _ (Memory.wf_filter _ _ hm)

theorem MemoryOk.resumeBlock {v : SavedAt} (h : MemoryOk s) : MemoryOk (s.resumeBlock v) := by
  unfold State.resumeBlock
  split
  · exact h
  · extract_lets x back s₁ s₂ rest s₃ s₄ s₅ s₆ s₇
    have h₂ : MemoryOk s₂ := .ite (.takeCore (.copyBack (.copyOut h))) (.copyBack (.copyOut h))
    have h₄ : MemoryOk s₄ := .updCore (.updBoth h₂)
    have h₆ : MemoryOk s₆ := .updBoth (.ite (.enterHandlers h₄) h₄)
    exact .memberChecks (.wakeDrains (.ite h₆ (.foldl h₆ .reevaluate)))

theorem MemoryOk.placeNext {t : State} (h : MemoryOk s) (hp : Machine.placeNext s l = some t) : MemoryOk t := by
  unfold Machine.placeNext at hp
  split at hp
  · cases hp
  · obtain ⟨_, _, rfl⟩ := Option.map_eq_some_iff.1 hp
    exact .placeBlock h

theorem MemoryOk.placeMany {n : Nat} {t : State} (h : MemoryOk s) (hp : Machine.placeMany s l n = some t) :
    MemoryOk t := by
  induction n generalizing s with
  | zero =>
    cases hp
    exact h
  | succ n ih =>
    unfold Machine.placeMany at hp
    split at hp
    · next hs => exact ih (.placeNext h hs) hp
    · cases hp

theorem MemoryOk.resumeAll {n : Nat} (h : MemoryOk s) : MemoryOk (s.resumeAll l n) := by
  induction n generalizing s with
  | zero => exact h
  | succ n ih =>
    unfold State.resumeAll
    split
    · exact ih (.resumeBlock h)
    · exact h

theorem MemoryOk.placeTurn (h : MemoryOk s) : MemoryOk (s.placeTurn l) := by
  unfold State.placeTurn
  split
  · exact h
  · exact .ite h (.getD (.placeMany h) h)

theorem MemoryOk.passTurn (h : MemoryOk s) : MemoryOk (s.passTurn l ahead) := .ite h (.placeTurn (.resumeAll h))

theorem MemoryOk.passOver {ls ahead : List Nat} (h : MemoryOk s) : MemoryOk (s.passOver ls ahead) := by
  induction ls generalizing s ahead with
  | nil => exact h
  | cons l ls ih => exact ih (.passTurn h)

theorem MemoryOk.passes {part n : Nat} (h : MemoryOk s) : MemoryOk (s.passes part n) := by
  induction n generalizing s with
  | zero => exact h
  | succ n ih => exact .ite h (ih (.passOver h))

theorem MemoryOk.bindPlace (h : MemoryOk s) : MemoryOk (s.bindPlace c r).1 := by
  unfold State.bindPlace
  refine .iteFst h (.iteFst h ?_)
  split
  · exact h
  · refine .iteFst h (.iteFst h (.iteFst h ?_))
    split
    · exact h
    · exact .iteFst h (.placeBlock h)

theorem MemoryOk.bindResume (h : MemoryOk s) : MemoryOk (s.bindResume c r).1 := by
  unfold State.bindResume
  dsimp only
  split
  · exact h
  · split
    · exact h
    · split
      · exact h
      · split
        · exact h
        · exact .iteFst h (.iteFst h (.iteFst (.resumeBlock h) h))

theorem MemoryOk.landTransfers (h : MemoryOk s) : MemoryOk (s.landTransfers c) := by
  refine .foldl h fun h => .foldl h fun h => ?_
  split
  · next hs => exact AnswersOk.execLdxTransferLanded h _ hs
  · exact h

theorem MemoryOk.endOpen (h : MemoryOk s) : MemoryOk (s.endOpen c) := .ite h (.endChunk h)

theorem MemoryOk.startPreempt (h : MemoryOk s) : MemoryOk (s.startPreempt c x) := .ite h (.endOpen (.updCore h))

theorem MemoryOk.bindPreempt (h : MemoryOk s) : MemoryOk (s.bindPreempt c r).1 := .iteFst h (.startPreempt h)

theorem MemoryOk.bind (h : MemoryOk s) : MemoryOk (s.bind c r).1 := by
  unfold State.bind
  split
  · exact h
  · split
    · exact .iteFst (.bindPlace h) h
    · exact .iteFst (.bindResume h) h
    · exact .bindPreempt h
    · exact h

theorem AnswersOk.bindOp {op : Nat} (h : MemoryOk s) : AnswersOk (Machine.bindOp op core r s) :=
  .next (.ite h (.ite h (.bind h)))

theorem MemoryOk.bindAnswer {res : Option Nat} (h : MemoryOk s) : MemoryOk (s.bindAnswer x res) :=
  .ite h (.updCtx h)

theorem MemoryOk.serveBinds (h : MemoryOk s) : MemoryOk (s.serveBinds) :=
  .foldl h fun h => .bindAnswer (.bind h)

theorem MemoryOk.savePreempted (h : MemoryOk s) : MemoryOk (s.savePreempted c x) := by
  unfold State.savePreempted
  dsimp only
  split
  · exact Memory.wf_write _ _ _ h
  · exact .post (Memory.wf_write _ _ _ h)

theorem AnswersOk.execPreemptComplete (h : MemoryOk s) : AnswersOk (Machine.execPreemptComplete core s) := by
  unfold Machine.execPreemptComplete
  split
  · exact .next h
  · exact .ite (.next h) (.ite (.next (.endOpen h)) (.ite (.next (.landTransfers h)) (.ite (.next (.endOpen
      (.landTransfers h))) (.next (.savePreempted (.finishUnits (.landTransfers h)))))))

theorem MemoryOk.asEmptied {cs : List Nat} (h : MemoryOk s) : MemoryOk (s.asEmptied cs) := .foldl h .updCore

theorem AnswersOk.execPreemptionReserveReached (h : MemoryOk s) :
    AnswersOk (Machine.execPreemptionReserveReached ctx record s) := by
  unfold Machine.execPreemptionReserveReached
  split
  · exact .next h
  · split
    · exact .next h
    · split
      · exact .next h
      · refine .next ?_
        refine .foldl h fun h => ?_
        split
        · exact .startPreempt h
        · exact h

theorem AnswersOk.execDeadlinePassed (h : MemoryOk s) : AnswersOk (Machine.execDeadlinePassed ctx record s) := by
  unfold Machine.execDeadlinePassed
  refine .next ?_
  split
  · exact h
  · split
    · exact .post (.updLaunch h)
    · exact h

end

end Sys2Proof
end

section
/-! Proof of O4, sixth part: system words, the host, the ports and work. -/

namespace Sys2Proof
open Machine

/-! ### System words -/

section
variable {s : State} {c x : Nat} {w b : Word} {e : Site} {th : Thread} {f : Grp3}

theorem MemoryOk.trapFault {code : Nat} {f : TrapF} (h : MemoryOk s) : MemoryOk (Machine.trapFault code f e s) :=
  .fault h

theorem MemoryOk.ctlWrite {i : Nat} (h : MemoryOk s) : MemoryOk (s.ctlWrite c x i w) := by
  unfold State.ctlWrite
  split
  · exact .updCore h
  · split
    · exact .updCore h
    · split
      · exact .updArch h
      · exact .updArch h
      · exact .updArch h
      · exact .updArch h
      · exact .updArch h
      · exact .updCtx h
      · exact .updCtx h
      · exact .updCtx h
      · exact .updCtx h
      · exact .streamAction h
      · exact h

theorem MemoryOk.resumeWaits {f : FaultRec} (h : MemoryOk s) : MemoryOk (s.resumeWaits c f) := by
  unfold State.resumeWaits
  split
  · exact .ite (.foldl h .reevaluate) h
  · exact h

theorem AnswersOk.execEret {g : Guard} (h : MemoryOk s) : AnswersOk (Machine.execEret g s) := by
  refine .next (.issue h fun {e s} h => ?_)
  have ht : MemoryOk (((s.acts e).serveMark e.cur.core).eret e.cur.core) := .eret (.serveMark (.acts h))
  dsimp only
  cases (s.core e.cur.core).arch.serving with
  | none => exact ht
  | some _ => exact .resumeWaits ht

theorem AnswersOk.execGrpsel {f : GrpF} (h : MemoryOk s) : AnswersOk (Machine.execGrpsel f s) := by
  refine .next (.issue h fun {e s} h => ?_)
  extract_lets c s₁ done none_
  have h₁ : MemoryOk s₁ := .serveMark (.acts h)
  have hnone : MemoryOk (none_ s₁) := .finish (.updArch h₁)
  split
  · exact hnone
  · split
    · exact hnone
    · split
      · exact hnone
      · exact .finish (.updArch (.mapTids h₁))

theorem MemoryOk.noteItem (h : MemoryOk s) : MemoryOk (s.noteItem e th b) := by
  unfold State.noteItem
  split
  · exact .ite (.noteScoped h) h
  · exact h

theorem AnswersOk.execGrprd (h : MemoryOk s) : AnswersOk (Machine.execGrprd f s) := by
  unfold Machine.execGrprd
  refine .next ?_
  refine .issue h fun h => ?_
  dsimp only
  split
  · exact .finish (.acts h)
  · split
    · exact .finish (.acts h)
    · exact .ite (.hold h) (.ite (.faultPre h) (.finish (.noteItem (.acts h))))

theorem MemoryOk.writeItem {m : Site} (h : MemoryOk s) : MemoryOk (s.writeItem m th b w) := by
  unfold State.writeItem
  dsimp only
  split
  · split
    · exact .ite (.mapTids h) h
    · exact .mapTids h
    · exact .mapTids h
    · exact .ite (.putScoped (.noteScoped h)) h
    · exact h
  · exact .ite (.mapTids h) h
  · exact h

theorem AnswersOk.execGrpwr (h : MemoryOk s) : AnswersOk (Machine.execGrpwr f s) := by
  unfold Machine.execGrpwr
  refine .next ?_
  refine .issue h fun h => ?_
  refine .pass ?_
  refine .foldl (.serveMark (.acts h)) fun h => ?_
  split
  · exact h
  · split
    · exact h
    · split
      · exact .writeItem h
      · exact h

theorem MemoryOk.resumeGroup {skip : Bool} (h : MemoryOk s) : MemoryOk (s.resumeGroup c skip) :=
  .ite h (.updArch (.resume h))

theorem MemoryOk.invalidate {va : Nat} {all : Bool} (h : MemoryOk s) : MemoryOk (s.invalidate x va all) :=
  .foldl (.foldl (.landWhere h) .updCore) id

end

/-! ### The host -/

section
variable {s : State} {entry ctx part tag x o m : Nat} {value v : Word} {refuse : Bool} {g : GroupEntry}

theorem AnswersOk.execTranslationRequestService (h : MemoryOk s) :
    AnswersOk (Machine.execTranslationRequestService part s) := by
  unfold Machine.execTranslationRequestService
  split
  · exact .next h
  · exact .ite (.next (.post h)) (.next h)

theorem MemoryOk.answerPeers (h : MemoryOk s) : MemoryOk (s.answerPeers tag refuse) := by
  unfold State.answerPeers
  refine .foldl h fun h => ?_
  split
  · split
    · exact .refuseCopy h
    · exact .finishArriving h
  · exact .setArriving h

theorem MemoryOk.giveAnswer {q : XReq} (h : MemoryOk s) : MemoryOk (s.giveAnswer q refuse) :=
  .foldl (.answerPeers (.of_mem_eq (.foldl h fun h => .updCore (.updBoth h)) rfl)) .answered

theorem AnswersOk.execTranslationAnswer (h : MemoryOk s) : AnswersOk (Machine.execTranslationAnswer part tag s) := by
  unfold Machine.execTranslationAnswer
  refine .next ?_
  split
  · exact .giveAnswer h
  · exact h

theorem MemoryOk.reboot : MemoryOk (s.reboot) := .foldl rfl fun h => .foldl h .updPort

theorem MemoryOk.trainFlash (h : MemoryOk s) : MemoryOk (s.trainFlash) := .foldl h .updPort

theorem MemoryOk.bootNext {fails : Bool} (h : MemoryOk s) : MemoryOk (s.bootNext fails) := by
  unfold State.bootNext
  dsimp only
  split
  · exact .ite h (.ite h (.ite h h))
  · exact .ite h h
  · exact .ite h h
  · exact .ite h (.of_mem_eq (.trainFlash h) rfl)
  · exact h

theorem MemoryOk.firmwareWritten (h : MemoryOk s) : MemoryOk (s.firmwareWritten) :=
  .ite h (.ite (.of_mem_eq (.lookAt h) rfl) (.ite (.of_mem_eq (.lookAt h) rfl) (.of_mem_eq (.lookAt h) rfl)))

theorem MemoryOk.freshEngines (h : MemoryOk s) : MemoryOk (s.freshEngines x) := .foldl h .updCore

theorem MemoryOk.invTake {rest : List Word} (h : MemoryOk s) : MemoryOk (s.invTake ctx v rest) :=
  .updCtx (.invalidate h)

theorem MemoryOk.invNext (h : MemoryOk s) : MemoryOk (s.invNext ctx) := by
  unfold State.invNext
  split
  · exact h
  · exact .ite h (.invTake h)

theorem AnswersOk.execForwardedTrapResume (h : MemoryOk s) : AnswersOk
    (Machine.execForwardedTrapResume ctx value s) := by
  unfold Machine.execForwardedTrapResume
  refine .next ?_
  split
  · exact h
  · exact .updBoth h

theorem MemoryOk.deviceWrite (h : MemoryOk s) : MemoryOk (s.deviceWrite o v) := by
  unfold State.deviceWrite
  split
  · exact h
  · exact h
  · exact h
  · exact h
  · exact h
  · exact h
  · exact h
  · exact .ite (.ite h h) (.ite (.foldl h fun h => .ite h (.updPort h)) h)

theorem MemoryOk.contextWrite (h : MemoryOk s) : MemoryOk (s.contextWrite x o v) := by
  unfold State.contextWrite
  dsimp only
  split
  · exact .updCtx h
  · exact .updCtx h
  · exact .updCtx h
  · exact .updCtx h
  · exact .updCtx h
  · exact .updCtx h
  · exact .updCtx h
  · exact .updCtx h
  · exact .updCtx h
  · exact .updCtx h
  · exact .updCtx h
  · exact h

theorem MemoryOk.setGroup {i : Nat} (h : MemoryOk s) : MemoryOk (s.setGroup i g) := h

theorem MemoryOk.groupLoad (h : MemoryOk s) : MemoryOk (s.groupLoad entry value) := by
  unfold State.groupLoad
  dsimp only
  split
  · exact .setGroup (.lookAt h)
  · exact .postDev (.ite (.lookAt h) (.setGroup (.lookAt h)))

theorem MemoryOk.dropGroup (h : MemoryOk s) : MemoryOk (s.dropGroup g) := .updCtx h

theorem MemoryOk.groupUnload (h : MemoryOk s) : MemoryOk (s.groupUnload entry value) :=
  .setGroup (.ite (.dropGroup h) h)

theorem MemoryOk.groupWrite (h : MemoryOk s) : MemoryOk (s.groupWrite entry value) :=
  .ite (.groupLoad h) (.groupUnload h)

theorem MemoryOk.groupTake (h : MemoryOk s) : MemoryOk (s.groupTake entry value) :=
  .ite h (.ite h (.groupWrite h))

theorem MemoryOk.groupNext (h : MemoryOk s) : MemoryOk (s.groupNext entry) := by
  unfold State.groupNext
  split
  · exact h
  · exact .ite (.groupWrite h) h

theorem MemoryOk.bar2Read {k n : Nat} {first : Bool} (h : MemoryOk s) : MemoryOk (s.bar2Read k n first) :=
  .of_mem_eq (.quarantine (.outTouch h)) rfl

theorem MemoryOk.bar2Next (h : MemoryOk s) : MemoryOk (s.bar2Next) := by
  unfold State.bar2Next
  split
  · exact h
  · exact .ite h (.bar2Read h)
  · exact .ite h (.ite h (.outWrite h))
  · exact .ite h (.doorbell h)

theorem MemoryOk.bar2Resize {log : Nat} (h : MemoryOk s) : MemoryOk (s.bar2Resize log) := .ite h h

theorem MemoryOk.setLaser {l : Laser} (h : MemoryOk s) : MemoryOk (s.setLaser m l) :=
  .ite (.ite h (.foldl h .updPort)) (.postDev (.ite h (.foldl h .updPort)))

theorem MemoryOk.laserTemp {t : BitVec 8} (h : MemoryOk s) : MemoryOk (s.laserTemp m t) := .ite h h

theorem MemoryOk.setLink {j : Nat} {m : MemLink} (h : MemoryOk s) : MemoryOk (s.setLink j m) := h

theorem MemoryOk.lineMoved {link : Nat} (h : MemoryOk s) : MemoryOk (s.lineMoved link) := .ite (.setLink h) h

end

/-! ### Flits -/

section
variable {s : State} {port : Nat} {f : Flit}

theorem AnswersOk.receive {ty : Nat} {k : Port → State → State} (h : MemoryOk s) (hk :
    ∀ {x0 t}, MemoryOk t → MemoryOk (k x0 t)) : AnswersOk (s.receive port ty f k) := by
  unfold State.receive
  refine .next ?_
  split
  · exact h
  · split
    · exact h
    · exact .updPort h
    · exact .updPort (hk (.updPort h))

theorem MemoryOk.toSwitch {q : Packet} (h : MemoryOk s) : MemoryOk (s.toSwitch port q) := by
  unfold State.toSwitch
  split
  · exact .ite h h
  · exact h

theorem MemoryOk.acceptFlit (h : MemoryOk s) : MemoryOk (s.acceptFlit port f) :=
  .ite (.updPort h) (.toSwitch (.updPort h))

theorem AnswersOk.execRetrainComplete (h : MemoryOk s) : AnswersOk (Machine.execRetrainComplete port s) := by
  unfold Machine.execRetrainComplete
  extract_lets p m s₁ rep s₂ s₃ s₄
  have h₂ : MemoryOk s₂ := by
    unfold s₂
    split
    · exact .updPort (.updPort h)
    · exact .updPort h
  have h₄ : MemoryOk s₄ := .lossRecords (.updPort h₂)
  exact .ite (.next h) (.ite (.next (.failPort h)) (.next (.ite (.portRecord h₄) h₄)))

theorem AnswersOk.execReplayTimeout (h : MemoryOk s) : AnswersOk (Machine.execReplayTimeout port s) := by
  unfold Machine.execReplayTimeout
  refine .next ?_
  split
  · exact .ite (.updPort h) h
  · exact h

theorem MemoryOk.rankLost {g : GroupEntry} {rank : Nat} {c : CollSt} (h : MemoryOk s) :
    MemoryOk (s.rankLost g rank c) :=
  .ite h (.ite (.decideAbort (.updColl h)) (.updColl h))

end

/-! ### Special functions -/

section
variable {s : State} {i : Instr} {f : SfuF}

theorem AnswersOk.sfuForm {g : Sfu} (h : MemoryOk s) : AnswersOk (Machine.sfuForm i f g s) :=
  .next (.perThreadF h)

theorem AnswersOk.seedForm {isSqrt : Bool} (h : MemoryOk s) : AnswersOk (Machine.seedForm i f isSqrt s) :=
  .next (.perThreadF h)

end

/-! ### Work -/

section
variable {s : State} {l core m : Nat} {bs : List Byte}

theorem MemoryOk.allocate {e : Site} {l : Launch} {j : Nat} (h : MemoryOk s) : MemoryOk (s.allocate e l j) :=
  .ite (.updBlock (.updChunk (.clearResv (.comWrite h)))) (.clearResv (.comWrite h))

theorem MemoryOk.waitFill {c : Nat} (h : MemoryOk s) : MemoryOk (s.waitFill c) :=
  .ite (.hold h) (.ite (.hold (.updChunk h)) (.hold (.endChunk h)))

theorem MemoryOk.outsideWrite {x key : Nat} (h : MemoryOk s) : MemoryOk (s.outsideWrite x key bs) :=
  .ite (.applyWrites h) (.breakResv (.foldl (.applyWrites (.keepOld h)) .updChunk))

theorem MemoryOk.takeWork {ln : Launch} (h : MemoryOk s) : MemoryOk (s.takeWork l ln).1 :=
  .iteFst (.iteFst (.updLaunch h) h) (.iteFst (.updLaunch h) h)

theorem MemoryOk.fillMailbox {lin : Nat} {b : Block} (h : MemoryOk s) : MemoryOk (s.fillMailbox core l lin m b bs) :=
  .updCore (.updBoth (.outsideWrite h))

theorem AnswersOk.execMailboxFill {slot : Nat} (h : MemoryOk s) :
    AnswersOk (Machine.execMailboxFill core slot m s) := by
  unfold Machine.execMailboxFill
  split
  · exact .next h
  · split
    · exact .next h
    · exact .next (.memberChecks (.fillMailbox (.takeWork (.updLaunch h))))

theorem AnswersOk.execEmit {f : One} (h : MemoryOk s) : AnswersOk (Machine.execEmit f s) := by
  unfold Machine.execEmit
  refine .next ?_
  refine .issue h fun h => ?_
  dsimp only
  split
  · split <;> exact .fault h
  · exact .access h fun h => .ite (.hold h) (.pass (.foldl (.noteLoads (.noteSources (.acts h))) .relWrite))

end

end Sys2Proof
end

section
/-! Proof of O4, last part: every instruction, every move and the step; and O5. -/

namespace Sys2Proof
open Machine

/-! ### Instructions and events -/

section
variable {s : State} {c : Nat}

/-- Every instruction word and every event, by what its meaning is made of. -/
theorem AnswersOk.exec (i : Instr) (h : MemoryOk s) : AnswersOk (Machine.exec i s) := by
  cases i <;> unfold Machine.exec
  case add | sub | mul | mulh | div | rem | min | max | and | or | xor | andn | orn | shl | shr | sar | rol =>
    exact .intForm3 h
  case addi | andi | ori | xori | shli | shri | sari => exact .intFormI h
  case addc | subb => exact .carryForm h
  case mad | clamp | addmin | addmax => exact .intForm4 h
  case madw | bfx | bfi | bperm | sel | cmp | cmpi | lea | plog | pset | pack | movl | addl => exact .next (.perThread h)
  case abs | popc | clz | ctz | brev => exact .intForm2 h
  case mov => exact .execMov h
  case vote | ballot | shfl | lshift | scan | reduce | compact | match_ | elect => exact .next (.rendezvous h)
  case fadd | fsub | fmul | fdiv => exact .fltForm3 h
  case ffma | ffms | fnma => exact .fltForm4 h
  case fmin | fmax => exact .minmaxForm h
  case fabs | fneg | fclass | fgetexp | fgetmant => exact .fltFormU h
  case fsign | fcmp | fscale | faddmin | cvtf | cvtfi | cvtif | cvtn | scaleest | cbdec | unpack =>
    exact .next (.perThreadF h)
  case fsqrt | frnd => exact .fltForm2 h
  case twosum => exact .next (.issue h .simple)
  case exp2 | log2 | sinpi | cospi | tanh | sigm | erf | rcp | rsqrt | silu => exact .sfuForm h
  case rcpseed | rsqseed => exact .seedForm h
  case rendezvousComplete => exact .next (.completeRend h)
  case ld => exact .next (.issue h fun h => .loadBody h id)
  case st | stp => exact .next (.issue h .storeBody)
  case ldp => exact .next (.issue h fun h => .access h fun h => .ite (.readHalves h) (.loadDone h id))
  case ldx => exact .execLdx h
  case ldxTransferLanded => exact .execLdxTransferLanded h
  case pref => exact .execPref h
  case atom =>
    exact .next (.issue h fun h => .access h fun h => .ite (.hold h) (.ite (.closeBefore h fun h => .seal
        (.atomDone h)) (.ite (.atomDone h) (.storing h .atomDone))))
  case lr => exact .next (.issue h fun h => .loadBody h .suspend)
  case sc =>
    exact .next (.issue h fun h => .access h fun h => .storing h fun h => .updChunk (.finish (.foldlFst
        (.noteSources (.acts h)) .scOne)))
  case fence => exact .next (.issue h fun h => .atHigh h fun h => .whenLanded h fun h => .pass (.fence (.acts h)))
  case cctl => exact .execCctl h
  case bar | bara =>
    exact .next (.issue h fun h => .ite (.laneBarrier h) (.atHigh h fun h => .whenLanded h fun h => .arriveAll
        (.arrivalEdge h)))
  case barw => exact .execBarw h
  case mbar => exact .next (.issue h fun h => .atHigh h fun h => .whenLanded h fun h => .arriveAll (.arrivalEdge h))
  case quiesce =>
    exact .next (.issue h fun h => .quiesceClose h fun h => .ite (.finish (.ite (.dropL1 (.releasePheld h))
        (.releasePheld h))) (.arriveAll (.releasePheld h)))
  case barrierPhaseComplete => exact .next (.completePhase h)
  case chunkend =>
    exact .next (.issue h fun h => .ite (.atPhase h .pass) (.with_cur (.closeAfter (.pass (.acts h)))))
  case lehrw | lehrclr => exact .next (.lehrIssue h fun h => .pass (.mapLehr h))
  case lehrpush => exact .next (.lehrIssue h fun h => .count (.finish (.updBlock h)))
  case lehrOccupancyEnd => exact .next (.updBlockBoth h)
  case lehrread => exact .next (.lehrIssue h .finish)
  case worknext =>
    exact .next (.issue h fun h => .ite (.fault h) (.ite (.waitFill h) (.storing h fun h => .finish (.updBlock
        (.foldl (.acts h) .allocate)))))
  case mailboxFill => exact .execMailboxFill h
  case emit => exact .execEmit h
  case waitseq | waitval => exact .next (.waitIssue h)
  case waitReevaluation => exact .execWaitReevaluation h
  case nbrpush => exact .execNbrpush h
  case nbrpop => exact .execNbrpop h
  case bra | call | nop | pcget => exact .next (.issue h .transfer)
  case bru => exact .execBru h
  case jmp | calli | ret => exact .next (.uniformJump h)
  case coswap => exact .execCoswap h
  case exit =>
    exact .next (.issue h fun h => .memberAfter (.ite (.with_cur (.closeAfter (.ite (.transfer h) (.leaveBars
        (.transfer h))))) (.ite (.transfer h) (.leaveBars (.transfer h)))))
  case yield => exact .next (.issue h fun h => .updBlock (.transfer h))
  case pairNop | pairMov | pairAdd | pairAddi | pairSub | pairAnd | pairOr | pairXor | pairShli | pairShri |
      pairSari | pairMin | pairMax | pairMul | pairFaddF32 | pairFmulF32 | pairFaddF64 | pairFmulF64 |
      pairFminF64 | pairFmaxF64 | pairFminF32 | pairFmaxF32 | pairMovi => exact .pairWord h
  case mma | mfmt | accz | accld | accst | cbload | scload | msync | copy | copymma | gather | scatter | expand |
      fill | publish | rcopy | chain | tail | seq | coll | arm | cntrd | cntadd | disarm => exact .next (.xcIssue h)
  case chainEntryExecute => exact .execChainEntryExecute h
  case engineCommandComplete =>
    exact .ite (.next h) (.next (.completeHead (.withHead h fun h => .ite h (.ite (.finishCore h) (.ite (.setHead
        (.performHead h)) (.performHead h))))))
  case engineDeferredFault => exact .execEngineDeferredFault h
  case counterChange => exact .next (.addCounter h)
  case trap => exact .next (.issue h .trapFault)
  case bkpt => exact .next (.issue h fun h => .ite (.trapFault h) (.pass (.acts h)))
  case sysrd => exact .next (.issue h fun h => .finish (.acts h))
  case syswr =>
    exact .next (.issue h fun h => .closeBefore h fun h => .with_cur (.closeAfter (.pass (.ctlWrite
        (.acts h)))))
  case eret => exact .execEret h
  case grpsel => exact .execGrpsel h
  case grprd => exact .execGrprd h
  case grpwr => exact .execGrpwr h
  case grpres => exact .next (.issue h fun h => .pass (.resumeGroup (.serveMark (.acts h))))
  case tlbinv => exact .next (.issue h fun h => .ite (.hold h) (.pass (.invalidate (.landWhere (.acts h)))))
  case halt => exact .next (.issue h fun h => .closeForTrap h fun h => .seal (.enterHandlers (.endService h)))
  case streamRetry => exact .next (.ite h (.streamAction h))
  case streamCancel => exact .next (.ite (.streamAction h) h)
  case chunkTimeLimit => exact .next (.ite h (.endChunk h))
  case chunkCommit => exact .next (.ite h (.ite (.ite h (.coreChecks (.commit h))) (.ite (.updChunk h) h)))
  case phaseMerge => exact .execPhaseMerge h
  case blockRetire => exact .execBlockRetire h
  case launchRetire => exact .execLaunchRetire h
  case doorbell => exact .next (.ite h (.ite (.doorbell h) h))
  case packetNop => exact .onPacket h .consume
  case launchPacket => exact .onPacket h fun h => .consume (.dequeue h)
  case decrPacket => exact .onPacket h fun h => .ite (.skip h) (.consume (.decrement h))
  case setdet => exact .execSetdet h
  case qfence => exact .execQfence h
  case queueWaitRelease => exact .execQueueWaitRelease h
  case unassignedPacket => exact .execUnassignedPacket h
  case schedulingPass => exact .next (.ite h (.passes h))
  case bindPlace | bindResume | bindPreempt => exact .bindOp h
  case preemptSquashTimeout => exact .next (.ite (.squash h) h)
  case preemptComplete => exact .execPreemptComplete h
  case preemptionReserveReached => exact .execPreemptionReserveReached h
  case deadlinePassed => exact .execDeadlinePassed h
  case translationRequestService => exact .execTranslationRequestService h
  case translationAnswer => exact .execTranslationAnswer h
  case deviceReset => exact .next (.ite .reboot h)
  case powerOn | functionLevelReset => exact .next .reboot
  case firmwareWrite | firmwareSlot | thermalThrottle => exact .next h
  case firmwareSwitch | translationAnswerWrite => exact .next (.ite h h)
  case firmwareSwitchResumed | firmwareSwitchTimeout => exact .next (.ite h (.serveBinds (.postDev h)))
  case contextCreatedWrite =>
    exact .ite (.ite (.next (.updCtx h)) (.ite (.next h) (.next (.updCtx (.freshEngines h))))) (.ite (.next h)
        (.next (.updCtx h)))
  case invalidationWrite => exact .next (.ite (.invTake h) (.updCtx h))
  case forwardedTrapResume => exact .execForwardedTrapResume h
  case stepListAddress => exact .next (.updCtx h)
  case bindRecordWrite =>
    exact .ite (.next (.updCtx h)) (.ite (.next (.updCtx h)) (.ite (.next h) (.next (.bindAnswer (.bind h)))))
  case registerWrite => exact .next (.ite h (.ite (.deviceWrite h) (.ite (.contextWrite h) (.ite (.setGroup h) h))))
  case groupCreate => exact .next (.ite (.groupTake h) h)
  case groupDelete => exact .next (.ite h (.groupTake h))
  case portEnable => exact .next (.ite h (.ite (.ite h (.updPort h)) (.ite (.updPort h) (.portRecord (.updPort h)))))
  case restripeWrite | portCounterClear => exact .next (.ite h (.updPort h))
  case laserEnable => exact .next (.ite h (.ite (.ite h (.setLaser h)) (.setLaser h)))
  case laserWarmUpDone => exact .ite (.next h) (.next (.foldl (.setLaser h) fun h => .ite h (.updPort h)))
  case laserModuleFailure => exact .next (.ite h (.ite (.setLaser h) (.setLaser h)))
  case drain => exact .next (.ite h (.ite (.postDev h) (.setLink h)))
  case restore | memoryLinkRetrain | memoryModuleRemoved | memoryModuleInserted | memoryLinkTrained =>
    exact .next (.ite (.setLink h) h)
  case drainEnd => exact .next (.ite h (.ite (.postDev (.setLink h)) (.ite (.postDev (.setLink h)) h)))
  case quarantineRelease => exact .next (.ite (Memory.wf_filter _ _ h) h)
  case overTemperatureStop => exact .next (.ite h (.postDev h))
  case lossOfLight => exact .next (.ite h (.ite (.portRecord (.updPort (.updPort h))) (.updPort h)))
  case dataFlit | commandHeader | counterUpdate => exact .receive h .acceptFlit
  case idleFlit => exact .receive h id
  case nak => exact .receive h .updPort
  case lossOfLightNotice => exact .receive h .restripe
  case training => exact .receive h fun h => .ite (.portRecord (.lossRecords (.updPort h))) (.lossRecords (.updPort h))
  case retrainComplete => exact .execRetrainComplete h
  case replayTimeout => exact .execReplayTimeout h
  case nakRepeatTimeout | idleAckTimer => exact .next (.ite (.updPort h) h)
  case routeUnreachable => exact .next (.ite h (.foldl h .rankLost))
  case bar2Access => exact .next (.ite (.bar2Next h) h)
  case laserModuleInserted => exact .next (.ite h (.setLaser h))

end

/-! ### Moves -/

section
variable {s : State} {n c k : Nat}

theorem MemoryOk.fillChunk (h : MemoryOk s) : MemoryOk (s.fillChunk c) := .ite h (.endChunk h)

theorem MemoryOk.landAt (h : MemoryOk s) : MemoryOk (s.landAt n) := by
  unfold State.landAt
  split
  · exact h
  · exact .ite h (.wakeDrains (.land h))

theorem MemoryOk.evictTlb (h : MemoryOk s) : MemoryOk (s.evictTlb c n) := .updCore h

theorem MemoryOk.evictL1 (h : MemoryOk s) : MemoryOk (s.evictL1 c n) := .updCore h

theorem MemoryOk.evictIc (h : MemoryOk s) : MemoryOk (s.evictIc c n) := .updCore h

theorem MemoryOk.evictCtlb (h : MemoryOk s) : MemoryOk (s.evictCtlb k n) := h

theorem MemoryOk.evictWalk (h : MemoryOk s) : MemoryOk (s.evictWalk k n) := h

theorem MemoryOk.evictBad {l : Nat} (h : MemoryOk s) : MemoryOk (s.evictBad l) := .quarantine h

theorem MemoryOk.corruptReg {slot ltid : Nat} {spec : BitVec 10} (h : MemoryOk s) :
    MemoryOk (s.corruptReg c slot ltid spec) := by
  unfold State.corruptReg
  dsimp only
  split
  · split
    · exact .foldl h .mapTids
    · exact h
  · split
    · exact .foldl h .mapTids
    · exact .mapTids h
    · exact h

theorem MemoryOk.applyAt (h : MemoryOk s) : MemoryOk (s.applyAt n) := by
  unfold State.applyAt
  split
  · exact .applyOne h
  · exact h

theorem MemoryOk.corrected {sub : Nat} (h : MemoryOk s) : MemoryOk (s.corrected sub) := h

end

/-! ### Issue and step -/

section
variable {s : State} {cur : Cur} {c q slot : Nat}

theorem MemoryOk.shadowed {ks : List Nat} (h : MemoryOk s) : MemoryOk (s.shadowed c ks) :=
  .ite h (.updChunk h)

theorem AnswersOk.runWord {i : Instr} {w : Word} (h : MemoryOk s) : AnswersOk (Machine.runWord i w c s) := by
  unfold Machine.runWord
  extract_lets ks s₁
  have h₁ : MemoryOk s₁ := .ite h (.closeBefore h id)
  refine .ite (.next h₁) ?_
  split
  · next t ht =>
    have hok : MemoryOk t := AnswersOk.exec i h₁ t ht
    exact .next (.ite (.shadowed hok) hok)
  · exact .exec i h₁

theorem AnswersOk.issueGroup (h : MemoryOk s) : AnswersOk (Machine.issueGroup s cur) := by
  unfold Machine.issueGroup
  split
  · exact .next (.fetchFault h)
  · exact .next (.fetchXlate h)
  · split
    · exact .runWord (.noteFetch h)
    · exact .next (.issueIllegal (.noteFetch h))

theorem MemoryOk.queued (h : MemoryOk s) : MemoryOk (s.queued c) :=
  .ite h (.with_cur (.closeForTrap h fun h => .seal (.enterHandlers h)))

theorem MemoryOk.prepare (h : MemoryOk s) : MemoryOk (s.prepare c q slot) :=
  .before (.completeLocal h)

theorem MemoryOk.given {b b' : Block} (h : MemoryOk s) : MemoryOk (s.given c slot b b' cur) := h

theorem AnswersOk.issueAt (h : MemoryOk s) : AnswersOk (Machine.issueAt s c q slot).1 := by
  unfold Machine.issueAt
  split
  · split
    · next t ht =>
      have hok : MemoryOk t := AnswersOk.issueGroup (.given h) t ht
      split
      · exact .next (.issued hok)
      · exact .next (.of_mem_eq hok rfl)
    · exact .fault
    · exact .refused
  · exact .next h

theorem AnswersOk.issueOver {slots : List Nat} (h : MemoryOk s) : AnswersOk (Machine.issueOver slots s c q) := by
  induction slots generalizing s with
  | nil => exact .next h
  | cons sl slots ih =>
    unfold Machine.issueOver
    extract_lets s₁
    have h₁ : MemoryOk s₁ := .prepare h
    have hat : AnswersOk (Machine.issueAt s₁ c q sl).1 := .issueAt h₁
    refine .ite (.next h) (.ite (.next h₁) ?_)
    split
    · next t ht =>
      rw [ht] at hat
      exact ih (hat t rfl)
    · next ha =>
      rw [ha] at hat
      exact hat

theorem AnswersOk.issueMove {q : Nat} (h : MemoryOk s) : AnswersOk (Machine.issueMove s c q) :=
  .issueOver (.queued h)

theorem AnswersOk.move (m : Move) (h : MemoryOk s) : AnswersOk (Machine.move m s) :=
  match m with
  | .issue _ _ => .issueMove h
  | .event i => .exec i h
  | .chunkFull _ => .next (.fillChunk h)
  | .land _ => .next (.landAt h)
  | .tlbEvict _ _ => .next (.evictTlb h)
  | .ctlbEvict _ _ => .next (.evictCtlb h)
  | .walkEvict _ _ => .next (.evictWalk h)
  | .l1Evict _ _ => .next (.evictL1 h)
  | .icEvict _ _ => .next (.evictIc h)
  | .tick _ | .corrupt _ _ | .msixSent => .next (.of_mem_eq h rfl)
  | .engineUnit _ => .next (.engineUnit h)
  | .corruptReg _ _ _ _ => .next (.corruptReg h)
  | .corrected _ => .next (.corrected h)
  | .corruptShadow _ _ => .next (.updChunk h)
  | .corruptStore _ _ => .next (.updCore h)
  | .evictBad _ => .next (.evictBad h)
  | .bar2Go => .next (.bar2Next h)
  | .groupGo _ => .next (.groupNext h)
  | .invGo _ => .next (.invNext h)
  | .bootNext _ => .next (.bootNext h)
  | .firmwareWritten => .next (.firmwareWritten h)
  | .laserTemp _ _ => .next (.laserTemp h)
  | .bar2Resize _ => .next (.bar2Resize h)
  | .lineMoved _ => .next (.lineMoved h)
  | .switchStep _ => .next (.switchMove h)
  | .applyArrived _ => .next (.applyAt h)
  | .nakSent _ | .taken _ => .next (.updPort h)

theorem AnswersOk.step (h : MemoryOk s) : AnswersOk (Machine.step s) := by
  have hs : ∀ ms n, MemoryOk { s with agenda := ms, tick := n } := fun _ _ => h
  unfold Machine.step
  split
  · exact .move _ (hs _ _)
  · refine .ite .fault ?_
    split
    · exact .move _ (hs s.agenda _)
    · exact .next (hs s.agenda _)

end

/-- Settles O4: every part of every move keeps the canonical form. -/
theorem stepKeepsMemoryOk : Obligations.StepKeepsMemoryOk := fun _ t h => AnswersOk.step h t

/-- Settles O5: nothing is listed in the memory of the reset state. -/
theorem resetMemoryOk : Obligations.ResetMemoryOk := rfl

end Sys2Proof
end

section
/-! Proof of O14: a fault on a fresh chunk stops its group and starts the handler (R342-R346). -/

namespace Sys2Proof.Machine

/-- A member of a faulting group as the fault leaves it: stopped at its PC, its reservations ended (R343). -/
def Thread.halted (th : Thread) : Thread :=
  if th.exited then th else { th with wait := .stopped, resv := none, kept := none }

theorem Thread.halted_ltid (th : Thread) : th.halted.ltid = th.ltid := by
  unfold Thread.halted
  split <;> rfl

/-- A change of a block leaves what its core serves and queues. -/
theorem CoreArch.updBlock_faults (a : CoreArch) (slot : Nat) (f : Block → Block) :
    (a.updBlock slot f).serving = a.serving ∧ (a.updBlock slot f).faultq = a.faultq := by
  unfold CoreArch.updBlock
  split <;> exact ⟨rfl, rfl⟩

/-- A fault outside the handler, on a fresh chunk, stops its group, is queued, and what has been done stays (R343). -/
theorem State.takeFault_of_fresh {s : State} {cur : Cur} (hfresh : (s.core cur.core).chunk.fresh = true)
    (hslot : cur.slot ≠ handlerSlot) (code sub : Nat) (emask eaddr : Word) : ∃ at_, s.takeFault cur code sub emask eaddr
      = ((s.mapTids cur.core cur.slot cur.tids Thread.halted).queueFault cur.core
          ⟨cur.slot, cur.quad, cur.tids, causeWord code sub false, cur.pc, emask, eaddr, false, at_⟩).seal cur.core := by
  unfold State.takeFault State.closeForTrap
  dsimp only
  rw [if_pos hfresh, if_neg hslot]
  exact ⟨_, rfl⟩

section
variable {s : State} {c : Nat} {f : FaultRec} {b : Block} (hs : (s.core c).arch.serving = none)
  (hq : (s.core c).arch.faultq = []) (hb : s.block? c f.slot = some b)
  (hm : (s.ctx (s.ctxOf b)).mode.getLsbD 2 = false) (hh : (s.ctx (s.ctxOf b)).handler ≠ 0)
include hs hq hb hm hh

/-- The only fault of a core that keeps its faults enters the handler at once (R344). -/
theorem State.queueFault_of_handler : ∃ d n, (s.queueFault c f).mem = s.mem ∧ (s.queueFault c f).core c
    = { s.core c with arch := (s.core c).arch.enters f [] b d n (s.ctx (s.ctxOf b)).handler } := by
  have hqueue : s.queueFault c f = (s.updArch c (fun a => { a with faultq := a.faultq ++ [f] })).enterHandlers c := by
    unfold State.queueFault
    rw [hb]
    exact if_neg (hm ▸ Bool.false_ne_true)
  obtain ⟨t, ht⟩ : ∃ t, t = s.updArch c (fun a => { a with faultq := a.faultq ++ [f] }) := ⟨_, rfl⟩
  have hcore : t.core c = { s.core c with arch := { (s.core c).arch with faultq := [f] } } := by
    rw [ht, State.core_updArch, hq]
    rfl
  have htq : (t.core c).arch.faultq = f :: [] := by rw [hcore]
  have hts : (t.core c).arch.serving = none := by rw [hcore]; exact hs
  have htb : t.block? c f.slot = some b := by rw [State.block?, hcore]; exact hb
  have htx : t.ctx (t.ctxOf b) = s.ctx (s.ctxOf b) := by rw [ht]; rfl
  obtain ⟨d, n, hmem, henter⟩ := State.enterNext_of_handler hts htq htb (htx ▸ hh)
  rw [hqueue, ← ht, State.enterHandlers_of_handler hts htq htb (htx ▸ hh)]
  refine ⟨d, n, by rw [hmem, ht]; rfl, ?_⟩
  rw [henter, hcore, htx]
  rfl

end

/-- Settles O14: the fault reduces to the entry of the one fault that its core then queues. -/
theorem faultEntersHandler : Obligations.FaultEntersHandler := by
  intro s cur b code sub emask eaddr hfresh hslot hb hs hq hm hh
  obtain ⟨at_, htake⟩ := State.takeFault_of_fresh hfresh hslot code sub emask eaddr
  obtain ⟨u, hu⟩ : ∃ u, u = s.mapTids cur.core cur.slot cur.tids Thread.halted := ⟨_, rfl⟩
  obtain ⟨hserving, hfaultq⟩ := (s.core cur.core).arch.updBlock_faults cur.slot (fun b => b.mapTids cur.tids Thread.halted)
  have harch : (u.core cur.core).arch = (s.core cur.core).arch.updBlock cur.slot (fun b => b.mapTids cur.tids Thread.halted) := by
    rw [hu, State.mapTids, State.updBlock, State.core_updArch]
  have hub : u.block? cur.core cur.slot = some (b.mapTids cur.tids Thread.halted) := by
    rw [hu, State.block?_mapTids, hb]
    rfl
  have hux : u.ctx (u.ctxOf (b.mapTids cur.tids Thread.halted)) = s.ctx (s.ctxOf b) := by rw [hu]; rfl
  rw [← hu] at htake
  obtain ⟨d, n, hmem, henter⟩ := State.queueFault_of_handler
    (f := ⟨cur.slot, cur.quad, cur.tids, causeWord code sub false, cur.pc, emask, eaddr, false, at_⟩)
    (by rw [harch, hserving, hs]) (by rw [harch, hfaultq, hq]) hub (hux ▸ hm) (hux ▸ hh)
  rw [hux] at henter
  obtain ⟨v, hv⟩ : ∃ v, v = u.queueFault cur.core
    ⟨cur.slot, cur.quad, cur.tids, causeWord code sub false, cur.pc, emask, eaddr, false, at_⟩ := ⟨_, rfl⟩
  rw [← hv] at htake hmem henter
  have hcore : ((v.seal cur.core).core cur.core).arch = (v.core cur.core).arch := State.arch_updChunk ..
  rw [henter] at hcore
  dsimp only
  rw [htake, hcore]
  refine ⟨rfl, rfl, rfl, rfl, ?_, fun l th hth hin hexit => ?_, fun k => ?_⟩
  · refine ⟨handlerThread (s.ctx (s.ctxOf b)).handler, ?_, rfl, rfl, rfl, rfl⟩
    rw [State.thread?, State.block?, hcore]
    exact (congrArg (Option.bind · _) (Tab.find?_put_same ..)).trans rfl
  · have hblock : (v.seal cur.core).block? cur.core cur.slot = u.block? cur.core cur.slot := by
      rw [State.block?, hcore]
      exact Tab.find?_put_ne _ _ hslot
    have hthread := State.thread?_mapTids s cur.core cur.slot cur.tids Thread.halted l Thread.halted_ltid
    rw [hth, Option.map_some, if_pos (by rw [State.thread?_ltid hth]; exact hin), ← hu, Thread.halted,
      if_neg (hexit ▸ Bool.false_ne_true)] at hthread
    rw [State.thread?, hblock]
    exact hthread
  · exact congrArg (Memory.byte · k) (hmem.trans (hu ▸ rfl))

end Sys2Proof.Machine
end

section
/-! Proof of O44: the words of the handler that act on the selected group (R354-R356). -/

namespace Sys2Proof.Machine

/-! ### The state in which such a word acts -/

/-- The handler's mark of the block that it changes leaves what is read (R137). -/
theorem Steady.serveMark {c sl : Nat} (s : State) (d : Nat) : Steady c sl s (s.serveMark d) := by
  unfold State.serveMark
  split
  · exact refl s
  · split
    · exact refl s
    · split
      · exact setCore s d rfl rfl rfl rfl rfl
      · exact refl s

theorem Steady.acts {c sl : Nat} (s : State) (e : Site) : Steady c sl s (s.acts e) := by
  unfold State.acts
  split
  · exact refl s
  · exact dirty s _

/-- The state in which the handler changes the served block. -/
def State.serves (s : State) (e : Site) : State := (s.acts e).serveMark e.cur.core

theorem State.serves_steady (s : State) (e : Site) : Steady e.cur.core e.cur.slot s (s.serves e) :=
  (Steady.acts s e).trans (Steady.serveMark _ _)

theorem State.finish_other (s : State) (e : Site) (f : Thread → Thread) {slot : Nat} (h : slot ≠ e.cur.slot) :
    (s.finish e f).block? e.cur.core slot = s.block? e.cur.core slot := State.block?_updBlock_ne _ _ (.inr h)

/-- Finishing a word leaves the core's selection. -/
theorem State.finish_selection (s : State) (e : Site) (f : Thread → Thread) :
    ((s.finish e f).core e.cur.core).arch.grpValid = (s.core e.cur.core).arch.grpValid
      ∧ ((s.finish e f).core e.cur.core).arch.grpQuad = (s.core e.cur.core).arch.grpQuad
      ∧ ((s.finish e f).core e.cur.core).arch.grpSlot = (s.core e.cur.core).arch.grpSlot
      ∧ ((s.finish e f).core e.cur.core).arch.grpTids = (s.core e.cur.core).arch.grpTids := by
  rw [State.finish, State.mapTids, State.updBlock, State.core_updArch, CoreArch.updBlock]
  split <;> exact ⟨rfl, rfl, rfl, rfl⟩

theorem State.block?_updArch_of_blocks (s : State) (c sl : Nat) {g : CoreArch → CoreArch} (hg : ∀ a, (g a).blocks = a.blocks) :
    (s.updArch c g).block? c sl = s.block? c sl := by
  rw [State.block?, State.core_updArch, CoreArch.block?, hg]
  rfl

/-- The group of a word that has changed another block, or nothing of a block. -/
theorem GroupGoes.finish_of_blocks {s u : State} {e : Site} {f : Thread → Thread} (hf : ∀ th, (f th).ltid = th.ltid)
    (hu : u.block? e.cur.core e.cur.slot = s.block? e.cur.core e.cur.slot) : GroupGoes s (u.finish e f) e f :=
  .of_threads (fun l => by rw [State.thread?, hu, State.thread?]) (State.finish_goes u e f hf)

theorem putD_next_ltid (d : Operand) (w : Word) (th : Thread) : ((putD d w th).next).ltid = th.ltid := by
  rw [Thread.next_ltid, putD_ltid]

/-! ### GRPSEL -/

/-- The selection rests on the block and on what the core keeps of descriptors. -/
theorem selection_congr {s t : State} {c : Nat} (h : (t.core c).arch = (s.core c).arch) (slot : Nat) (b : Block) (x : Bool)
    (a : Word) : selection t c slot b x a = selection s c slot b x a := by
  unfold selection describedBy
  rw [h]

/-- The state of the selected members, which stop (R354). -/
def State.selects (s : State) (c slot : Nat) (ts : List Nat) : State :=
  s.mapTids c slot ts (fun th => if th.exited then th else th.select)

theorem Thread.select_ltid (th : Thread) : (if th.exited then th else th.select).ltid = th.ltid := by
  unfold Thread.select
  split
  · rfl
  · split <;> rfl

section
variable {f : GrpF} {s : State} {e : Site} {slot : Nat} {b : Block} (h : Runs (.grpsel f) s e)
  (hsrv : servedSlot s e.cur.core = some slot) (hb : s.block? e.cur.core slot = some b)
include h hsrv hb

/-- GRPSEL of a group (R354). -/
theorem grpsel_of_some {q : Nat} {ts : List Nat} (hsel : selection s e.cur.core slot b f.x (e.read s e.ref f.a) = some (q, ts)) :
    ∃ ent, Completes (.grpsel f) s ((((s.serves e).selects e.cur.core slot ts).updArch e.cur.core (fun a => { a with
      grpValid := true, grpQuad := q, grpSlot := slot, grpTids := ts, grpEntry := ent
      descs := (grpWord true q (b.pick ts) ent, slot, ts) :: a.descs })).finish e
        (fun th => (putD f.d (grpWord true q (b.pick ts) ent) th).next)) := by
  have hm := s.serves_steady e
  have hsrv' : servedSlot (s.serves e) e.cur.core = some slot := by rw [servedSlot, hm.quiet.arch]; exact hsrv
  have hsel' : selection (s.serves e) e.cur.core slot b f.x (e.read (s.serves e) e.ref f.a) = some (q, ts) := by
    rw [selection_congr (hm.quiet.arch _), hm.read rfl rfl, hsel]
  have hexec : exec (.grpsel f) s = execGrpsel f s := rfl
  rw [State.serves] at hsrv' hsel'
  have hb' : ((s.acts e).serveMark e.cur.core).block? e.cur.core slot = some b := (hm.quiet.block? _ _).trans hb
  simp only [Completes, hexec, execGrpsel, issue_of_runs _ h, hsrv', hb', hsel']
  exact ⟨_, rfl⟩

/-- GRPSEL of nothing (R354). -/
theorem grpsel_of_none (hsel : selection s e.cur.core slot b f.x (e.read s e.ref f.a) = none) :
    Completes (.grpsel f) s (((s.serves e).updArch e.cur.core (fun a => { a with grpValid := false })).finish e
      (fun th => (putD f.d 0 th).next)) := by
  have hm := s.serves_steady e
  have hsrv' : servedSlot (s.serves e) e.cur.core = some slot := by rw [servedSlot, hm.quiet.arch]; exact hsrv
  have hsel' : selection (s.serves e) e.cur.core slot b f.x (e.read (s.serves e) e.ref f.a) = none := by
    rw [selection_congr (hm.quiet.arch _), hm.read rfl rfl, hsel]
  have hexec : exec (.grpsel f) s = execGrpsel f s := rfl
  rw [State.serves] at hsrv' hsel'
  have hb' : ((s.acts e).serveMark e.cur.core).block? e.cur.core slot = some b := (hm.quiet.block? _ _).trans hb
  rw [Completes, hexec, execGrpsel, issue_of_runs _ h]
  dsimp only
  rw [hsrv']
  dsimp only
  rw [hb']
  dsimp only
  rw [hsel']
  rfl

end

/-- GRPSEL of a group, by what it leaves (R354). -/
theorem grpsel_selects {f : GrpF} {s : State} {e : Site} {slot : Nat} {b : Block} (h : Runs (.grpsel f) s e)
    (hsrv : servedSlot s e.cur.core = some slot) (hb : s.block? e.cur.core slot = some b) (hne : slot ≠ e.cur.slot) {q : Nat}
    {ts : List Nat} (hsel : selection s e.cur.core slot b f.x (e.read s e.ref f.a) = some (q, ts)) :
    ∃ t ent, Completes (.grpsel f) s t
      ∧ GroupGoes s t e (fun th => (putD f.d (grpWord true q (b.pick ts) ent) th).next)
      ∧ ((t.core e.cur.core).arch.grpValid = true ∧ (t.core e.cur.core).arch.grpQuad = q
        ∧ (t.core e.cur.core).arch.grpSlot = slot ∧ (t.core e.cur.core).arch.grpTids = ts)
      ∧ ∀ l th, s.thread? e.cur.core slot l = some th → ts.contains l = true → th.exited = false →
        t.thread? e.cur.core slot l = some th.select := by
  obtain ⟨ent, hdone⟩ := grpsel_of_some h hsrv hb hsel
  have hm := s.serves_steady e
  refine ⟨_, ent, hdone, GroupGoes.finish_of_blocks (putD_next_ltid _ _) ?_, ?_, fun l th hth hin hx => ?_⟩
  · rw [State.block?_updArch_of_blocks, State.selects, State.mapTids, State.block?_updBlock_ne _ _ (.inr hne.symm), hm.quiet.block?]
    exact fun _ => rfl
  · obtain ⟨hvalid, hquad, hslot, htids⟩ := State.finish_selection ((((s.serves e).selects e.cur.core slot ts).updArch
      e.cur.core (fun a => { a with
        grpValid := true, grpQuad := q, grpSlot := slot, grpTids := ts, grpEntry := ent
        descs := (grpWord true q (b.pick ts) ent, slot, ts) :: a.descs }))) e
      (fun th => (putD f.d (grpWord true q (b.pick ts) ent) th).next)
    rw [hvalid, hquad, hslot, htids, State.core_updArch]
    exact ⟨rfl, rfl, rfl, rfl⟩
  · have hselected : ((s.serves e).selects e.cur.core slot ts).thread? e.cur.core slot l = some th.select := by
      rw [State.selects, State.thread?_mapTids _ _ _ _ _ _ Thread.select_ltid, hm.quiet.thread?, hth, Option.map_some,
        State.thread?_ltid hth, if_pos hin, if_neg (hx ▸ Bool.false_ne_true)]
    rw [State.thread?, State.finish_other _ _ _ hne, State.block?_updArch_of_blocks]
    · exact hselected
    · exact fun _ => rfl

/-- GRPSEL of nothing, by what it leaves (R354). -/
theorem grpsel_deselects {f : GrpF} {s : State} {e : Site} {slot : Nat} {b : Block} (h : Runs (.grpsel f) s e)
    (hsrv : servedSlot s e.cur.core = some slot) (hb : s.block? e.cur.core slot = some b)
    (hsel : selection s e.cur.core slot b f.x (e.read s e.ref f.a) = none) :
    ∃ t, Completes (.grpsel f) s t ∧ GroupGoes s t e (fun th => (putD f.d 0 th).next)
      ∧ (t.core e.cur.core).arch.grpValid = false := by
  have hm := s.serves_steady e
  refine ⟨_, grpsel_of_none h hsrv hb hsel, GroupGoes.finish_of_blocks (putD_next_ltid _ _) ?_, ?_⟩
  · rw [State.block?_updArch_of_blocks, hm.quiet.block?]
    exact fun _ => rfl
  · obtain ⟨hvalid, -⟩ := State.finish_selection ((s.serves e).updArch e.cur.core (fun a => { a with grpValid := false })) e
      (fun th => (putD f.d 0 th).next)
    rw [hvalid, State.core_updArch]

/-! ### GRPRD -/

theorem noteItem_quiet {s : State} {m : Site} (hb : m.names s) (hr : (s.launchOf m.b).race = false) (th : Thread) (b : Word) :
    Quiet s (s.noteItem m th b) := by
  unfold State.noteItem
  split
  · split
    · exact Quiet.noteScoped s m th _ _ _ _ hb hr
    · exact Quiet.refl s
  · exact Quiet.refl s

theorem memberSite_names {s : State} {c : Nat} {th : Thread} {m : Site} (h : memberSite s c th = some m) : m.names s := by
  obtain ⟨b, hb, rfl⟩ := Option.map_eq_some_iff.1 h
  exact hb

section
variable {f : Grp3} {s : State} {e : Site} (h : Runs (.grprd f) s e)
include h

/-- GRPRD of a lane without a member (R355). -/
theorem grprd_of_none (hm : memberOn s e.cur.core (field (e.read s e.ref f.y) 0 5) = none) :
    Completes (.grprd f) s ((s.acts e).finish e (fun th => (putD f.x 0 th).next)) := by
  have hexec : exec (.grprd f) s = execGrprd f s := rfl
  rw [Completes, hexec, execGrprd, issue_of_runs _ h]
  dsimp only
  rw [hm]
  rfl

/-- GRPRD of an item of a member (R355). -/
theorem grprd_of_member {th : Thread} {m : Site} (hth : memberOn s e.cur.core (field (e.read s e.ref f.y) 0 5) = some th)
    (hm : memberSite s e.cur.core th = some m) (hbusy : lehrItemBusy s e.cur.core (e.read s e.ref f.z) = false)
    (hbad : itemBad th (e.read s e.ref f.z) = false) : Completes (.grprd f) s (((s.acts e).noteItem m th (e.read s e.ref f.z)).finish e
      (fun o => (putD f.x (memberItem s m th (e.read s e.ref f.z)) o).next)) := by
  have hexec : exec (.grprd f) s = execGrprd f s := rfl
  rw [Completes, hexec, execGrprd, issue_of_runs _ h]
  dsimp only
  rw [hth]
  dsimp only
  rw [hm]
  dsimp only
  rw [hbusy, hbad]
  rfl

end

/-! ### GRPWR -/

/-- GRPWR's write of lane `k`, when the mask names it (R355). -/
def State.writeLane (s : State) (c : Nat) (mask b w : Word) (k : Nat) : State :=
  if !mask.getLsbD k then s
  else match memberOn s c k with
    | none => s
    | some th => match memberSite s c th with
      | some m => s.writeItem m th b w
      | none => s

theorem exec_grpwr {f : Grp3} {s : State} {e : Site} (h : Runs (.grpwr f) s e) : Completes (.grpwr f) s
    (((List.range 32).foldl (fun u k => u.writeLane e.cur.core (e.read s e.ref f.x) (e.read s e.ref f.y) (e.read s e.ref f.z) k)
      (s.serves e)).pass e) := by
  have hexec : exec (.grpwr f) s = execGrpwr f s := rfl
  rw [Completes, hexec, execGrpwr, issue_of_runs _ h]
  rfl

/-- A thread whose lane register has been written by GRPWR. -/
def Thread.given (i : BitVec 7) (w : Word) (th : Thread) : Thread := (th.setD (.lane i) w).cleared (.lane i)

section
variable (i : BitVec 7) (w : Word) (th : Thread)

theorem Thread.given_ltid : (th.given i w).ltid = th.ltid := by rw [given, Thread.cleared_ltid, Thread.setD_ltid]

theorem Thread.given_lane : (th.given i w).lane i.toNat = w := by
  rw [given, Thread.lane_cleared]
  exact Thread.lane_setLane ..

theorem Thread.cleared_place (d : Operand) : (th.cleared d).off = th.off ∧ (th.cleared d).exited = th.exited := by
  unfold Thread.cleared
  split <;> exact ⟨rfl, rfl⟩

theorem Thread.given_off : (th.given i w).off = th.off := (Thread.cleared_place _ _).1
theorem Thread.given_exited : (th.given i w).exited = th.exited := (Thread.cleared_place _ _).2

end

/-- From `u` to `v` threads of a slot may have been given `w` in a lane register, and nothing else has changed of what GRPWR reads. -/
structure Written (c slot : Nat) (i : BitVec 7) (w : Word) (u v : State) : Prop where
  launches : v.launches = u.launches
  arch : (v.core c).arch.grpSlot = (u.core c).arch.grpSlot ∧ (v.core c).arch.grpValid = (u.core c).arch.grpValid
    ∧ (v.core c).arch.grpTids = (u.core c).arch.grpTids
  others : ∀ sl, sl ≠ slot → v.block? c sl = u.block? c sl
  threads : ∃ g : Thread → Thread, (∀ th, (g th).ltid = th.ltid ∧ (g th).off = th.off ∧ (g th).exited = th.exited
      ∧ (th.lane i.toNat = w → (g th).lane i.toNat = w))
    ∧ v.block? c slot = (u.block? c slot).map (fun b => { b with threads := b.threads.map g })

namespace Written
variable {c slot : Nat} {i : BitVec 7} {w : Word} {u v x : State}

theorem refl (u : State) : Written c slot i w u u :=
  ⟨rfl, ⟨rfl, rfl, rfl⟩, fun _ _ => rfl, id, fun _ => ⟨rfl, rfl, rfl, id⟩, by simp⟩

theorem trans (h : Written c slot i w u v) (k : Written c slot i w v x) : Written c slot i w u x := by
  obtain ⟨g, hg, hgb⟩ := h.threads
  obtain ⟨g', hg', hgb'⟩ := k.threads
  obtain ⟨hslot, hvalid, htids⟩ := h.arch
  obtain ⟨kslot, kvalid, ktids⟩ := k.arch
  refine ⟨k.launches.trans h.launches, ⟨kslot.trans hslot, kvalid.trans hvalid, ktids.trans htids⟩, fun sl hsl => (k.others sl hsl).trans (h.others sl hsl),
    g' ∘ g, fun th => ?_, ?_⟩
  · obtain ⟨hl, ho, hx, hw⟩ := hg th
    obtain ⟨hl', ho', hx', hw'⟩ := hg' (g th)
    exact ⟨hl'.trans hl, ho'.trans ho, hx'.trans hx, hw' ∘ hw⟩
  · rw [hgb', hgb, Option.map_map]
    simp [Function.comp_def]

/-- The threads of some ids are given the value. -/
theorem given (u : State) (ts : List Nat) : Written c slot i w u (u.mapTids c slot ts (Thread.given i w)) := by
  refine ⟨rfl, ?_, fun sl hsl => State.block?_updBlock_ne _ _ (.inr hsl),
    fun th => if ts.contains th.ltid then th.given i w else th, fun th => ?_, State.block?_mapTids ..⟩
  · rw [State.mapTids, State.updBlock, State.core_updArch, CoreArch.updBlock]
    split <;> exact ⟨rfl, rfl, rfl⟩
  · dsimp only
    split
    · exact ⟨th.given_ltid i w, th.given_off i w, th.given_exited i w, fun _ => th.given_lane i w⟩
    · exact ⟨rfl, rfl, rfl, id⟩

theorem lanes (h : Written c slot i w u v) {b : Block} (hb : u.block? c slot = some b) :
    ∃ b', v.block? c slot = some b' ∧ (v.treeOf slot b').lanes = (u.treeOf slot b).lanes := by
  obtain ⟨g, -, hgb⟩ := h.threads
  refine ⟨_, hgb.trans (congrArg _ hb), ?_⟩
  rw [State.treeOf, State.treeOf, State.launchOf, State.launchOf, State.launch?, State.launch?, h.launches]

/-- A thread that has the value keeps it. -/
theorem keeps (h : Written c slot i w u v) {l : Nat} {th : Thread} (hth : u.thread? c slot l = some th)
    (hw : th.lane i.toNat = w) : ∃ th', v.thread? c slot l = some th' ∧ th'.lane i.toNat = w := by
  obtain ⟨g, hg, hgb⟩ := h.threads
  obtain ⟨b, hb, hbl⟩ := Option.bind_eq_some_iff.1 hth
  refine ⟨g th, ?_, (hg th).2.2.2 hw⟩
  rw [State.thread?, hgb, hb]
  exact (Block.thread?_map b g (fun th => (hg th).1) l).trans (congrArg _ hbl)

/-- The member of a lane is the same thread, as it then is. -/
theorem memberOn (h : Written c slot i w u v) (hs : (u.core c).arch.grpSlot = slot) {k : Nat} {th : Thread}
    (hm : Machine.memberOn u c k = some th) : ∃ th', Machine.memberOn v c k = some th' ∧ th'.ltid = th.ltid := by
  obtain ⟨g, hg, hgb⟩ := h.threads
  obtain ⟨hslot, hvalid, htids⟩ := h.arch
  refine ⟨g th, ?_, (hg th).1⟩
  unfold Machine.memberOn at hm ⊢
  dsimp only at hm ⊢
  rw [hslot, hvalid, htids, hs, hgb]
  rw [hs] at hm
  split at hm
  · cases hm
  next hvalid =>
    obtain ⟨b, hb, hfind⟩ := Option.bind_eq_some_iff.1 hm
    have hpick : (fun th : Thread => (u.core c).arch.grpTids.contains th.ltid && !th.exited) ∘ g
        = fun th => (u.core c).arch.grpTids.contains th.ltid && !th.exited := by
      funext th
      obtain ⟨hl, -, hx, -⟩ := hg th
      rw [Function.comp, hl, hx]
    have hoff : (fun th : Thread => th.off % 32 == k) ∘ g = fun th => th.off % 32 == k := by
      funext th
      obtain ⟨-, ho, -, -⟩ := hg th
      rw [Function.comp, ho]
    rw [if_neg hvalid, hb, Option.map_some, Option.bind_some, Block.pick, List.filter_map, List.find?_map, hpick, hoff]
    exact congrArg (Option.map g) hfind

end Written

section
variable {c slot : Nat} {i : BitVec 7} {b : Word} {u : State} (hitem : field b 10 2 = 0)
  (hreg : Operand.get (b.extractLsb' 0 10) = .lane i) (hs : (u.core c).arch.grpSlot = slot)
  (hlane : ∃ blk, u.block? c slot = some blk ∧ lanePresent (u.treeOf slot blk).lanes i.toNat = true)
include hitem hreg hs hlane

/-- GRPWR's write of a lane register of a member. -/
theorem writeLane_of_member {mask w : Word} {k : Nat} {th : Thread} (hk : mask.getLsbD k = true) (hth : memberOn u c k = some th) :
    u.writeLane c mask b w k = u.mapTids c slot [th.ltid] (Thread.given i w) := by
  obtain ⟨blk, hblk, hpresent⟩ := hlane
  have hsite : memberSite u c th
      = some ⟨⟨c, (u.core c).arch.grpQuad, slot, th.pc, [th.ltid]⟩, blk, u.treeOf slot blk, [th], [th]⟩ := by
    rw [memberSite, hs, hblk]
    rfl
  have hitems : u.writeLane c mask b w k
      = u.writeItem ⟨⟨c, (u.core c).arch.grpQuad, slot, th.pc, [th.ltid]⟩, blk, u.treeOf slot blk, [th], [th]⟩ th b w := by
    simp only [State.writeLane, hk, hth, hsite]
    rfl
  rw [hitems, State.writeItem, hitem]
  dsimp only
  rw [hreg]
  exact if_pos hpresent

theorem Written.writeLane (mask w : Word) (k : Nat) : Written c slot i w u (u.writeLane c mask b w k) := by
  cases hk : mask.getLsbD k with
  | false => rw [State.writeLane, hk]; exact Written.refl u
  | true =>
    cases hth : Machine.memberOn u c k with
    | none => rw [State.writeLane, hk, hth]; exact Written.refl u
    | some th => rw [writeLane_of_member hitem hreg hs hlane hk hth]; exact Written.given u _

/-- A lane that is written holds what it was given. -/
theorem writeLane_thread {mask w : Word} {k : Nat} {th : Thread} (hk : mask.getLsbD k = true) (hth : memberOn u c k = some th) :
    ∃ th', (u.writeLane c mask b w k).thread? c slot th.ltid = some th' ∧ th'.lane i.toNat = w := by
  rw [writeLane_of_member hitem hreg hs hlane hk hth]
  have hmem := hth
  unfold memberOn at hmem
  dsimp only at hmem
  split at hmem
  · cases hmem
  obtain ⟨blk, hblk, hfind⟩ := Option.bind_eq_some_iff.1 hmem
  have hin : th ∈ blk.threads := (List.mem_filter.1 (List.mem_of_find?_eq_some hfind)).1
  obtain ⟨o, ho⟩ : ∃ o, u.thread? c slot th.ltid = some o := by
    rw [State.thread?, ← hs, hblk]
    exact Option.isSome_iff_exists.1 (List.find?_isSome.2 ⟨th, hin, beq_self_eq_true _⟩)
  refine ⟨o.given i w, ?_, o.given_lane i w⟩
  rw [State.thread?_mapTids _ _ _ _ _ _ (fun th => th.given_ltid i w), ho, Option.map_some, State.thread?_ltid ho]
  simp

end

section
variable {c slot : Nat} {i : BitVec 7} {b : Word} (hitem : field b 10 2 = 0)
  (hreg : Operand.get (b.extractLsb' 0 10) = .lane i) (mask w : Word)
include hitem hreg

/-- What GRPWR's writes of some lanes leave, lane after lane. -/
theorem Written.writeLanes (ks : List Nat) {u : State} (hs : (u.core c).arch.grpSlot = slot)
    (hlane : ∃ blk, u.block? c slot = some blk ∧ lanePresent (u.treeOf slot blk).lanes i.toNat = true) :
    Written c slot i w u (ks.foldl (fun u k => u.writeLane c mask b w k) u)
      ∧ ∀ k ∈ ks, mask.getLsbD k = true → ∀ th, Machine.memberOn u c k = some th →
        ∃ th', (ks.foldl (fun u k => u.writeLane c mask b w k) u).thread? c slot th.ltid = some th' ∧ th'.lane i.toNat = w := by
  induction ks generalizing u with
  | nil => exact ⟨Written.refl u, fun k hk => absurd hk List.not_mem_nil⟩
  | cons j ks ih =>
    have hj := Written.writeLane hitem hreg hs hlane mask w j
    have hs' : ((u.writeLane c mask b w j).core c).arch.grpSlot = slot := hj.arch.1.trans hs
    obtain ⟨blk, hblk, hpresent⟩ := hlane
    obtain ⟨blk', hblk', htree⟩ := hj.lanes hblk
    obtain ⟨hrest, hthreads⟩ := ih hs' ⟨blk', hblk', htree ▸ hpresent⟩
    refine ⟨hj.trans hrest, fun k hk hbit th hth => ?_⟩
    rcases List.mem_cons.1 hk with rfl | hk
    · obtain ⟨o, ho, how⟩ := writeLane_thread hitem hreg hs ⟨blk, hblk, hpresent⟩ hbit hth
      exact hrest.keeps ho how
    · obtain ⟨th', hth', hid⟩ := hj.memberOn hs hth
      rw [← hid]
      exact hthreads k hk hbit th' hth'

end

/-! ### GRPRES -/

/-- A thread that GRPRES lets run on, at its PC or past it (R356). -/
def Thread.resumed (skip : Bool) (th : Thread) : Thread :=
  if th.exited || th.wait != .stopped then th
  else { th with wait := .run, pc := if skip then th.pc + 8 else th.pc, acted := th.acted && (if skip then th.pc + 8 else th.pc) == th.pc }

theorem Thread.resumed_ltid (skip : Bool) (th : Thread) : (th.resumed skip).ltid = th.ltid := by
  unfold Thread.resumed
  split <;> rfl

theorem Thread.resumed_of_stopped {th : Thread} (skip : Bool) (hx : th.exited = false) (hw : th.wait = .stopped) :
    (th.resumed skip).wait = .run ∧ (th.resumed skip).pc = if skip then th.pc + 8 else th.pc := by
  rw [Thread.resumed, hx, hw, if_neg (by decide)]
  exact ⟨rfl, rfl⟩

/-- The selected group runs on: its threads, and the core's fault registers (R356). -/
theorem State.resumeGroup_of_valid {s : State} {c : Nat} (hv : (s.core c).arch.grpValid = true) (skip : Bool) :
    ((s.resumeGroup c skip).core c).arch.grpValid = false
      ∧ ∀ sl, (s.resumeGroup c skip).block? c sl
        = (s.mapTids c (s.core c).arch.grpSlot (s.core c).arch.grpTids (Thread.resumed skip)).block? c sl := by
  unfold State.resumeGroup State.resume
  dsimp only
  rw [hv, if_neg (by decide)]
  refine ⟨by rw [State.core_updArch], fun sl => ?_⟩
  rw [State.block?, State.core_updArch, State.core_updArch]
  rfl

/-- GRPRES, by what it leaves (R356). -/
theorem grpres_resumes {f : GrpRes} {s : State} {e : Site} (h : Runs (.grpres f) s e)
    (hv : (s.core e.cur.core).arch.grpValid = true) (hne : (s.core e.cur.core).arch.grpSlot ≠ e.cur.slot) :
    ∃ t, Completes (.grpres f) s t ∧ GroupGoes s t e Thread.next ∧ (t.core e.cur.core).arch.grpValid = false
      ∧ ∀ l th, s.thread? e.cur.core (s.core e.cur.core).arch.grpSlot l = some th →
        (s.core e.cur.core).arch.grpTids.contains l = true → th.exited = false → th.wait = .stopped →
        t.thread? e.cur.core (s.core e.cur.core).arch.grpSlot l = some (th.resumed f.skip) := by
  have hm := s.serves_steady e
  have harch := hm.quiet.arch e.cur.core
  have hdone : Completes (.grpres f) s (((s.serves e).resumeGroup e.cur.core f.skip).pass e) := by
    have hexec : exec (.grpres f) s = execGrpres f s := rfl
    rw [Completes, hexec, execGrpres, issue_of_runs _ h]
    rfl
  obtain ⟨hgone, hblocks⟩ := State.resumeGroup_of_valid (s := s.serves e) (by rw [harch]; exact hv) f.skip
  rw [harch] at hblocks
  refine ⟨_, hdone, GroupGoes.finish_of_blocks Thread.next_ltid ?_, ?_, fun l th hth hin hx hw => ?_⟩
  · rw [hblocks]
    exact (State.block?_updBlock_ne _ _ (.inr hne.symm)).trans (hm.quiet.block? ..)
  · exact (State.finish_selection _ e _).1.trans hgone
  · rw [State.pass, State.thread?, State.finish_other _ _ _ hne, hblocks]
    refine (State.thread?_mapTids (s.serves e) _ _ _ _ l (Thread.resumed_ltid f.skip)).trans ?_
    rw [hm.quiet.thread?, hth, Option.map_some, State.thread?_ltid hth, if_pos hin]

/-- GRPWR of a lane register, by what it leaves (R355). -/
theorem grpwr_writes {f : Grp3} {s : State} {e : Site} {i : BitVec 7} {b : Block} (h : Runs (.grpwr f) s e)
    (hitem : field (e.read s e.ref f.y) 10 2 = 0) (hreg : Operand.get ((e.read s e.ref f.y).extractLsb' 0 10) = .lane i)
    (hne : (s.core e.cur.core).arch.grpSlot ≠ e.cur.slot) (hb : s.block? e.cur.core (s.core e.cur.core).arch.grpSlot = some b)
    (hlane : lanePresent (s.treeOf (s.core e.cur.core).arch.grpSlot b).lanes i.toNat = true) :
    ∃ t, Completes (.grpwr f) s t ∧ GroupGoes s t e Thread.next
      ∧ ∀ k th, k < 32 → (e.read s e.ref f.x).getLsbD k = true → memberOn s e.cur.core k = some th →
        ∃ th', t.thread? e.cur.core (s.core e.cur.core).arch.grpSlot th.ltid = some th' ∧ th'.lane i.toNat = e.read s e.ref f.z := by
  have hm := s.serves_steady e
  obtain ⟨hwritten, hthreads⟩ := Written.writeLanes (u := s.serves e) hitem hreg (e.read s e.ref f.x) (e.read s e.ref f.z)
    (List.range 32) (congrArg CoreArch.grpSlot (hm.quiet.arch _))
    ⟨b, (hm.quiet.block? ..).trans hb, by rw [State.treeOf, hm.quiet.launchOf]; exact hlane⟩
  refine ⟨_, exec_grpwr h, GroupGoes.finish_of_blocks Thread.next_ltid ?_, fun k th hk hbit hth => ?_⟩
  · rw [hwritten.others _ hne.symm, hm.quiet.block?]
  · have hth' : memberOn (s.serves e) e.cur.core k = some th := by
      rw [memberOn, hm.quiet.arch, hm.quiet.block?]
      exact hth
    rw [State.pass, State.thread?, State.finish_other _ _ _ hne]
    exact hthreads k (List.mem_range.2 hk) hbit th hth'

/-- Settles O44: each word by the state in which the handler acts, which reads as the state before it. -/
theorem groupWords : Obligations.GroupWords := by
  refine ⟨fun f s e slot b h hsrv hb hne => ⟨fun q ts hsel => grpsel_selects h hsrv hb hne hsel, grpsel_deselects h hsrv hb⟩,
    fun f s e h => ⟨fun hm => ?_, fun th m hth hm hr hbusy hbad => ?_⟩,
    fun f s e i b h hitem hreg hne hb hlane => grpwr_writes h hitem hreg hne hb hlane, fun f s e h hv hne => ?_⟩
  · have q := Quiet.acts s e
    exact ⟨_, grprd_of_none h hm, q.goes (State.finish_goes _ _ _ (putD_next_ltid _ _)), (q.only e).trans (State.finish_only _ _ _)⟩
  · have q := Quiet.acts s e
    have hq : Quiet s ((s.acts e).noteItem m th (e.read s e.ref f.z)) :=
      q.trans (noteItem_quiet ((q.block? _ _).trans (memberSite_names hm)) (by rw [q.launchOf]; exact hr) th _)
    exact ⟨_, grprd_of_member h hth hm hbusy hbad, hq.goes (State.finish_goes _ _ _ (putD_next_ltid _ _)),
      (hq.only e).trans (State.finish_only _ _ _)⟩
  · obtain ⟨t, hdone, hgoes, hgone, hthreads⟩ := grpres_resumes h hv hne
    refine ⟨t, hdone, hgoes, hgone, fun l th hth hin hx hw => ⟨_, hthreads l th hth hin hx hw, ?_⟩⟩
    exact Thread.resumed_of_stopped f.skip hx hw

end Sys2Proof.Machine
end

section
/-! Proof of O45, first part: TLBINV and the translations that it drops (R358, R382). -/

namespace Sys2Proof.Machine

/-- What an invalidation goes by, and changes: every core's and cluster's translations, what belongs to a partition, and how many
invalidations of the host have completed. -/
def State.translations (s : State) :
    (Nat → List TlbEntry) × Tab (List TlbEntry) × Tab (List WalkPtr) × (Nat → Nat × Word) × Tab (BitVec 24) :=
  (fun c => (s.core c).tlb, s.ctlb, s.wcache, fun x => ((s.ctx x).part, (s.ctx x).invs), s.clusterMask)

/-! ### What leaves the translations -/

theorem translations_updCore (s : State) (c : Nat) {f : CoreSt → CoreSt} (hf : ∀ k, (f k).tlb = k.tlb) :
    (s.updCore c f).translations = s.translations := by
  have htlb : (fun d => ((s.updCore c f).core d).tlb) = fun d => (s.core d).tlb := by
    funext d
    by_cases hd : d = c
    · rw [hd, State.core_updCore, hf]
    · rw [State.core_updCore_ne _ _ hd]
  exact congrArg (·, s.ctlb, s.wcache, fun x => ((s.ctx x).part, (s.ctx x).invs), s.clusterMask) htlb

theorem translations_updCtx (s : State) (x : Nat) {f : Ctx → Ctx} (hf : ∀ k, ((f k).part, (f k).invs) = (k.part, k.invs)) :
    (s.updCtx x f).translations = s.translations := by
  have hpart : (fun y => (((s.updCtx x f).ctx y).part, ((s.updCtx x f).ctx y).invs)) = fun y => ((s.ctx y).part, (s.ctx y).invs) := by
    funext y
    by_cases hy : y = x
    · rw [hy, State.ctx_updCtx, hf]
    · rw [State.ctx_updCtx_ne _ _ hy]
  exact congrArg (fun p => ((fun c => (s.core c).tlb : Nat → List TlbEntry), s.ctlb, s.wcache, p, s.clusterMask)) hpart

theorem translations_acts (s : State) (e : Site) : (s.acts e).translations = s.translations := by
  unfold State.acts State.dirty
  dsimp only
  split
  · rfl
  · split
    · exact translations_updCore s e.cur.core (f := fun k => { k with
        chunk := { k.chunk with fresh := false, snap := some (s.chunkStart e.cur.core) } }) fun _ => rfl
    · rfl

theorem translations_land (s : State) (f : Flight) : (s.land f).translations = s.translations := by
  have hkeep : ∀ (s : State) c x ks p, (s.keepWords c x ks p).translations = s.translations := fun s c x ks p =>
    (translations_updCtx _ x (by intro; rfl)).trans (translations_updCore s c (by intro; rfl))
  have hhome : ∀ (s : State) c k bs, (s.homeWrite c k bs).translations = s.translations := fun s c k bs =>
    translations_updCore (s.writeMem k bs) c (by intro; rfl)
  have hperform : ∀ (s : State) c h, (s.perform c h).translations = s.translations := fun s c h => by
    unfold State.perform
    split
    · exact hhome ..
    · exact hhome ..
    · rfl
  have hshow : ∀ (s : State) c x ks, (s.showClk c x ks).translations = s.translations := fun s c x ks => by
    unfold State.showClk
    split
    · rfl
    · exact translations_updCtx _ _ (by intro; rfl)
  rw [State.land, hshow, hperform, hkeep]

theorem translations_landWhere (s : State) (p : Flight → Bool) : (s.landWhere p).translations = s.translations :=
  (foldl_keeps State.translations translations_land _ _).trans rfl

/-! ### What an invalidation leaves -/

/-- The entries that an invalidation leaves of some translations (R358). -/
def keptTlb (x va : Nat) (all : Bool) (es : List TlbEntry) : List TlbEntry := es.filter (fun t => !t.dropped x va all)

/-- The table pointers that it leaves. -/
def keptWalks (x va : Nat) (all : Bool) (ps : List WalkPtr) : List WalkPtr := ps.filter (fun p => !p.dropped x va all)

/-- The cores of `cs` drop translations. -/
def State.dropTlbs (s : State) (x va : Nat) (all : Bool) (cs : List Nat) : State :=
  cs.foldl (fun s c => s.updCore c (fun k => { k with tlb := keptTlb x va all k.tlb })) s

/-- The clusters of `ks` drop translations and table pointers. -/
def State.dropCtlbs (s : State) (x va : Nat) (all : Bool) (ks : List Nat) : State :=
  ks.foldl (fun s k => { s with
    ctlb := Tab.set [] s.ctlb k (keptTlb x va all (Tab.get [] s.ctlb k))
    wcache := Tab.set [] s.wcache k (keptWalks x va all (Tab.get [] s.wcache k)) }) s

section
variable (x va : Nat) (all : Bool)

theorem keptTlb_keptTlb (es : List TlbEntry) : keptTlb x va all (keptTlb x va all es) = keptTlb x va all es := by
  rw [keptTlb, keptTlb, List.filter_filter]
  simp only [Bool.and_self]

theorem keptWalks_keptWalks (ps : List WalkPtr) : keptWalks x va all (keptWalks x va all ps) = keptWalks x va all ps := by
  rw [keptWalks, keptWalks, List.filter_filter]
  simp only [Bool.and_self]

theorem State.dropTlbs_tlb (cs : List Nat) (s : State) (c : Nat) :
    ((s.dropTlbs x va all cs).core c).tlb = if c ∈ cs then keptTlb x va all (s.core c).tlb else (s.core c).tlb := by
  induction cs generalizing s with
  | nil => rfl
  | cons d cs ih =>
    have hstep : s.dropTlbs x va all (d :: cs)
        = (s.updCore d (fun k => { k with tlb := keptTlb x va all k.tlb })).dropTlbs x va all cs := rfl
    rw [hstep, ih]
    by_cases hd : c = d
    · subst hd
      rw [State.core_updCore, keptTlb_keptTlb, ite_self, if_pos (List.mem_cons_self ..)]
    · rw [State.core_updCore_ne _ _ hd]
      simp only [List.mem_cons, hd, false_or]

theorem State.dropCtlbs_get (ks : List Nat) (s : State) (k : Nat) :
    Tab.get [] (s.dropCtlbs x va all ks).ctlb k
        = (if k ∈ ks then keptTlb x va all (Tab.get [] s.ctlb k) else Tab.get [] s.ctlb k)
      ∧ Tab.get [] (s.dropCtlbs x va all ks).wcache k
        = if k ∈ ks then keptWalks x va all (Tab.get [] s.wcache k) else Tab.get [] s.wcache k := by
  induction ks generalizing s with
  | nil => exact ⟨rfl, rfl⟩
  | cons j ks ih =>
    have hstep : s.dropCtlbs x va all (j :: ks) = State.dropCtlbs { s with
        ctlb := Tab.set [] s.ctlb j (keptTlb x va all (Tab.get [] s.ctlb j))
        wcache := Tab.set [] s.wcache j (keptWalks x va all (Tab.get [] s.wcache j)) } x va all ks := rfl
    obtain ⟨hctlb, hwcache⟩ := ih { s with
        ctlb := Tab.set [] s.ctlb j (keptTlb x va all (Tab.get [] s.ctlb j))
        wcache := Tab.set [] s.wcache j (keptWalks x va all (Tab.get [] s.wcache j)) }
    rw [hstep, hctlb, hwcache]
    by_cases hj : k = j
    · subst hj
      simp only [Tab.get_set_same, keptTlb_keptTlb, keptWalks_keptWalks, ite_self, List.mem_cons_self, if_true, and_self]
    · simp only [Tab.get_set_ne _ _ _ hj, List.mem_cons, hj, false_or, and_self]

theorem State.dropTlbs_rest (cs : List Nat) (s : State) :
    (s.dropTlbs x va all cs).ctlb = s.ctlb ∧ (s.dropTlbs x va all cs).wcache = s.wcache
      ∧ (s.dropTlbs x va all cs).partCtlbs = s.partCtlbs ∧ (s.dropTlbs x va all cs).flights = s.flights
      ∧ KeepsCores s (s.dropTlbs x va all cs) := by
  refine ⟨foldl_keeps State.ctlb (by intros; rfl) cs s, foldl_keeps State.wcache (by intros; rfl) cs s,
    foldl_keeps State.partCtlbs (by intros; rfl) cs s, foldl_keeps State.flights (by intros; rfl) cs s,
    KeepsCores.foldl (fun s c => KeepsCores.updCore s c (by intro; rfl)) cs s⟩

theorem State.dropCtlbs_rest (ks : List Nat) (s : State) :
    (s.dropCtlbs x va all ks).cores = s.cores ∧ (s.dropCtlbs x va all ks).flights = s.flights
      ∧ (s.dropCtlbs x va all ks).launches = s.launches :=
  ⟨foldl_keeps State.cores (by intros; rfl) ks s, foldl_keeps State.flights (by intros; rfl) ks s,
    foldl_keeps State.launches (by intros; rfl) ks s⟩

/-- A core without state has no translations. -/
theorem State.tlb_of_not_mem {s : State} {c : Nat} (h : c ∉ s.coreNums) : (s.core c).tlb = [] := by
  have hnone : Tab.find? s.cores c = none :=
    Option.eq_none_iff_forall_ne_some.2 fun k hk => h (List.mem_map.2 ⟨(c, k), Tab.mem_of_find? hk, rfl⟩)
  rw [State.core, Tab.get, hnone]
  rfl

/-- The state after the accesses that used what an invalidation drops have been performed. -/
def State.landGone (s : State) : State := s.landWhere (fun f => (keysOfHeld f.eff).any (inRanges (goneRanges s x va all)))

theorem State.invalidate_eq (s : State) : s.invalidate x va all
    = ((s.landGone x va all).dropTlbs x va all ((s.landGone x va all).partCores x)).dropCtlbs x va all
        (((s.landGone x va all).dropTlbs x va all ((s.landGone x va all).partCores x)).partCtlbs x) := rfl

theorem State.invalidate_tlb (s : State) (c : Nat) : ((s.invalidate x va all).core c).tlb
    = if s.inPart (s.ctx x).part c then keptTlb x va all (s.core c).tlb else (s.core c).tlb := by
  have hland : (s.landGone x va all).translations = s.translations := translations_landWhere s _
  have htlb : ((s.landGone x va all).core c).tlb = (s.core c).tlb := congrFun (congrArg (·.1) hland) c
  have hin : (s.landGone x va all).inPart ((s.landGone x va all).ctx x).part c = s.inPart (s.ctx x).part c := by
    have hpart : ((s.landGone x va all).ctx x).part = (s.ctx x).part := congrArg Prod.fst (congrFun (congrArg (·.2.2.2.1) hland) x)
    have hmask : (s.landGone x va all).clusterMask = s.clusterMask := congrArg (·.2.2.2.2) hland
    rw [State.inPart, State.inPart, State.partClusters, State.partClusters, hpart, hmask]
  obtain ⟨hcores, -, -⟩ := State.dropCtlbs_rest x va all
    (((s.landGone x va all).dropTlbs x va all ((s.landGone x va all).partCores x)).partCtlbs x)
    ((s.landGone x va all).dropTlbs x va all ((s.landGone x va all).partCores x))
  rw [State.invalidate_eq, State.core, hcores]
  refine (State.dropTlbs_tlb x va all _ _ c).trans ?_
  simp only [State.partCores, List.mem_filter, hin, htlb]
  by_cases hc : c ∈ (s.landGone x va all).coreNums
  · simp only [hc, true_and]
  · rw [← htlb, State.tlb_of_not_mem hc]
    simp only [hc, false_and, keptTlb, List.filter_nil, ite_self]

theorem State.invalidate_ctlb (s : State) {k : Nat} (hk : k ∈ s.partCtlbs x) :
    Tab.get [] (s.invalidate x va all).ctlb k = keptTlb x va all (Tab.get [] s.ctlb k)
      ∧ Tab.get [] (s.invalidate x va all).wcache k = keptWalks x va all (Tab.get [] s.wcache k) := by
  have hland : (s.landGone x va all).translations = s.translations := translations_landWhere s _
  have hctlb : (s.landGone x va all).ctlb = s.ctlb := congrArg (·.2.1) hland
  have hwcache : (s.landGone x va all).wcache = s.wcache := congrArg (·.2.2.1) hland
  have hclusters : (s.landGone x va all).partCtlbs x = s.partCtlbs x := by
    have hpart : ((s.landGone x va all).ctx x).part = (s.ctx x).part := congrArg Prod.fst (congrFun (congrArg (·.2.2.2.1) hland) x)
    have hmask : (s.landGone x va all).clusterMask = s.clusterMask := congrArg (·.2.2.2.2) hland
    rw [State.partCtlbs, State.partCtlbs, State.partClusters, State.partClusters, hpart, hmask]
  obtain ⟨hdctlb, hdwcache, hdclusters, -⟩ := State.dropTlbs_rest x va all ((s.landGone x va all).partCores x) (s.landGone x va all)
  obtain ⟨hget, hwget⟩ := State.dropCtlbs_get x va all (s.partCtlbs x)
    ((s.landGone x va all).dropTlbs x va all ((s.landGone x va all).partCores x)) k
  rw [if_pos hk, hdctlb, hctlb] at hget
  rw [if_pos hk, hdwcache, hwcache] at hwget
  rw [State.invalidate_eq, hdclusters, hclusters]
  exact ⟨hget, hwget⟩

theorem State.invalidate_keeps (s : State) : KeepsCores s (s.invalidate x va all)
    ∧ ∀ q ∈ (s.invalidate x va all).flights, q ∈ s.flights := by
  obtain ⟨-, -, -, hflights, hkeeps⟩ := State.dropTlbs_rest x va all ((s.landGone x va all).partCores x) (s.landGone x va all)
  obtain ⟨hcores, hcflights, hlaunches⟩ := State.dropCtlbs_rest x va all
    (((s.landGone x va all).dropTlbs x va all ((s.landGone x va all).partCores x)).partCtlbs x)
    ((s.landGone x va all).dropTlbs x va all ((s.landGone x va all).partCores x))
  rw [State.invalidate_eq]
  refine ⟨((KeepsCores.landWhere s _).trans hkeeps).trans (KeepsCores.of_cores hcores hlaunches), fun q hq => ?_⟩
  rw [hcflights, hflights, State.landGone, landWhere_flights] at hq
  exact (List.mem_filter.1 hq).1

end

/-! ### TLBINV -/

section
variable {f : GrpF} {s : State} {e : Site} (h : Runs (.tlbinv f) s e)
include h

/-- TLBINV does not issue while accesses through what it drops are still to be performed (R382). -/
theorem tlbinv_waits (hp : invPending s (s.ctxOf e.b) (e.read s e.ref f.a).toNat f.x (some e.b.launch) = true) :
    Completes (.tlbinv f) s s.hold := by
  have hexec : exec (.tlbinv f) s = execTlbinv f s := rfl
  rw [Completes, hexec, execTlbinv, issue_of_runs _ h]
  exact congrArg Host.Outcome.next (if_pos (Bool.or_eq_true_iff.2 (.inl hp)))

/-- TLBINV performs the core's released writes and drops what it names (R358). -/
theorem tlbinv_acts (hp : invPending s (s.ctxOf e.b) (e.read s e.ref f.a).toNat f.x (some e.b.launch) = false)
    (hl : landsBlocked s (fun q => q.core == e.cur.core) = false) : Completes (.tlbinv f) s
      ((((s.acts e).landWhere (fun q => q.core == e.cur.core)).invalidate (s.ctxOf e.b) (e.read s e.ref f.a).toNat f.x).pass e) := by
  have hexec : exec (.tlbinv f) s = execTlbinv f s := rfl
  rw [Completes, hexec, execTlbinv, issue_of_runs _ h]
  exact congrArg Host.Outcome.next (if_neg (by rw [Site.ctx, hp, hl]; decide))

end

theorem State.pass_keeps (s : State) (e : Site) : (s.pass e).translations = s.translations ∧ (s.pass e).flights = s.flights :=
  ⟨translations_updCore s e.cur.core (by intro; rfl), rfl⟩

/-- Every released write of a core has been performed, when none of them was blocked (R130). -/
theorem landWhere_core_flights {s : State} {c : Nat} (hl : landsBlocked s (fun q => q.core == c) = false) :
    ∀ q ∈ (s.landWhere (fun q => q.core == c)).flights, q.core ≠ c := by
  intro q hq hc
  rw [landWhere_flights] at hq
  obtain ⟨hin, hkept⟩ := List.mem_filter.1 hq
  have hfree : flightBlocked s q = false := by
    have hany := List.any_eq_false.1 hl q hin
    simpa [hc] using hany
  simp [hc, hfree] at hkept

/-- TLBINV by what it leaves (R358, R382). -/
theorem tlbinv_drops {f : GrpF} {s : State} {e : Site} (h : Runs (.tlbinv f) s e)
    (hp : invPending s (s.ctxOf e.b) (e.read s e.ref f.a).toNat f.x (some e.b.launch) = false)
    (hl : landsBlocked s (fun q => q.core == e.cur.core) = false) :
    ∃ t, Completes (.tlbinv f) s t ∧ GroupGoes s t e Thread.next ∧ (∀ q ∈ t.flights, q.core ≠ e.cur.core)
      ∧ (∀ c, (t.core c).tlb = if s.inPart (s.ctx (s.ctxOf e.b)).part c
          then keptTlb (s.ctxOf e.b) (e.read s e.ref f.a).toNat f.x (s.core c).tlb else (s.core c).tlb)
      ∧ ∀ k ∈ s.partCtlbs (s.ctxOf e.b),
        Tab.get [] t.ctlb k = keptTlb (s.ctxOf e.b) (e.read s e.ref f.a).toNat f.x (Tab.get [] s.ctlb k)
        ∧ Tab.get [] t.wcache k = keptWalks (s.ctxOf e.b) (e.read s e.ref f.a).toNat f.x (Tab.get [] s.wcache k) := by
  obtain ⟨u, hu⟩ : ∃ u, u = (s.acts e).landWhere (fun q => q.core == e.cur.core) := ⟨_, rfl⟩
  have hsame : u.translations = s.translations := by rw [hu, translations_landWhere, translations_acts]
  have htlb : ∀ c, (u.core c).tlb = (s.core c).tlb := congrFun (congrArg (·.1) hsame)
  have hctlb : u.ctlb = s.ctlb := congrArg (·.2.1) hsame
  have hwcache : u.wcache = s.wcache := congrArg (·.2.2.1) hsame
  have hpart : (u.ctx (s.ctxOf e.b)).part = (s.ctx (s.ctxOf e.b)).part := congrArg Prod.fst (congrFun (congrArg (·.2.2.2.1) hsame) (s.ctxOf e.b))
  have hmask : u.clusterMask = s.clusterMask := congrArg (·.2.2.2.2) hsame
  have hclusters : u.partClusters (u.ctx (s.ctxOf e.b)).part = s.partClusters (s.ctx (s.ctxOf e.b)).part := by
    rw [State.partClusters, State.partClusters, hpart, hmask]
  have q := Quiet.acts s e
  have hland : ∀ r ∈ u.flights, r.core ≠ e.cur.core := by
    rw [hu]
    refine landWhere_core_flights ?_
    rw [landsBlocked, q.flights]
    simp only [flightBlocked_of_quiet q]
    exact hl
  obtain ⟨hkeeps, hflights⟩ := u.invalidate_keeps (s.ctxOf e.b) (e.read s e.ref f.a).toNat f.x
  obtain ⟨hpass, hpassed⟩ := (u.invalidate (s.ctxOf e.b) (e.read s e.ref f.a).toNat f.x).pass_keeps e
  refine ⟨_, hu ▸ tlbinv_acts h hp hl, ?_, fun r hr => hland r (hflights r (hpassed ▸ hr)), fun c => ?_, fun k hk => ?_⟩
  · refine (((KeepsCores.of_quiet q).trans ?_).trans hkeeps).goes (State.finish_goes _ _ _ Thread.next_ltid)
    exact hu ▸ KeepsCores.landWhere _ _
  · have hin : u.inPart (u.ctx (s.ctxOf e.b)).part c = s.inPart (s.ctx (s.ctxOf e.b)).part c := by
      rw [State.inPart, State.inPart, hclusters]
    refine (congrFun (congrArg (·.1) hpass) c).trans ((u.invalidate_tlb _ _ _ c).trans ?_)
    rw [hin, htlb]
  · have hk' : k ∈ u.partCtlbs (s.ctxOf e.b) := by rw [State.partCtlbs, hclusters]; exact hk
    obtain ⟨hget, hwget⟩ := u.invalidate_ctlb (s.ctxOf e.b) (e.read s e.ref f.a).toNat f.x hk'
    rw [hctlb] at hget
    rw [hwcache] at hwget
    exact ⟨(congrArg (Tab.get [] · k) (congrArg (·.2.1) hpass)).trans hget,
      (congrArg (Tab.get [] · k) (congrArg (·.2.2.1) hpass)).trans hwget⟩

end Sys2Proof.Machine
end

section
/-! Proof of O45, second part: HALT ends the service, and the traps (R350, R352, R357). -/

namespace Sys2Proof.Machine

/-- A served block as a failure of its service leaves it (R357). -/
def Block.served (b : Block) : Block :=
  { b with failing := true, deferred := []
           threads := b.threads.map (fun th => if th.exited then th else { th with wait := .stopped, resv := none }) }

/-- The core whose service ends: the served block fails with its faults, and the handler is gone (R357). -/
def State.unserve (s : State) (c : Nat) (q : FaultRec) : State :=
  (s.failBlock c q.slot).updBoth c (fun a => { a with
    serving := none, blocks := Tab.del a.blocks handlerSlot, grpValid := false, descs := a.descs.filter (fun d => d.2.1 != q.slot) })

/-- The fields of the record that HALT posts (R350, R357). -/
def haltFields (code : Word) (a : CoreArch) (b : Block) (c : Nat) : List (Nat × List Byte) :=
  [(0x10, natLe 8 code.toNat), (0x18, natLe 8 a.cause.toNat), (0x20, natLe 8 a.epc.toNat), (0x30, natLe 4 b.lin), (0x34, natLe 4 c)]

section
variable {s : State} {c : Nat} {q : FaultRec} {b : Block} (hs : (s.core c).arch.serving = some q)
  (hb : s.block? c q.slot = some b)
include hs hb

theorem State.endService_of_halt (code : Word) : s.endService c 0x11 code 0
    = (s.unserve c q).post (s.ctxOf b) 0x11 0 (haltFields code (s.core c).arch b c) := by
  unfold State.endService
  dsimp only
  rw [hs]
  dsimp only
  rw [hb]
  rfl

omit hs in
/-- The core of a served block that fails. -/
theorem State.failBlock_of_block : (s.failBlock c q.slot).mem = s.mem
    ∧ (s.failBlock c q.slot).launches = s.launches.modify b.launch (fun l => { l with failed := true })
    ∧ ((s.failBlock c q.slot).core c).arch.faultq = (s.core c).arch.faultq.filter (fun g => g.slot != q.slot)
    ∧ ((s.failBlock c q.slot).core c).arch.blocks = Tab.put (s.core c).arch.blocks q.slot b.served := by
  have heq : s.failBlock c q.slot = (s.updBoth c (fun a => { a.updBlock q.slot Block.served with
      faultq := a.faultq.filter (fun f => f.slot != q.slot), fwd := a.fwd.filter (fun f => f.2.slot != q.slot) })).updLaunch
      b.launch (fun l => { l with failed := true }) := by
    rw [State.failBlock, hb]
    rfl
  have hput : ((s.core c).arch.updBlock q.slot Block.served).blocks = Tab.put (s.core c).arch.blocks q.slot b.served := by
    rw [CoreArch.updBlock, (show (s.core c).arch.block? q.slot = some b from hb)]
  have hcore : (s.failBlock c q.slot).core c = (s.updBoth c (fun a => { a.updBlock q.slot Block.served with
      faultq := a.faultq.filter (fun f => f.slot != q.slot)
      fwd := a.fwd.filter (fun f => f.2.slot != q.slot) })).core c := by rw [heq]; rfl
  rw [hcore, State.updBoth, State.core_updCore, heq]
  exact ⟨rfl, rfl, rfl, hput⟩

omit hs in
theorem State.unserve_keeps (hq : q.slot ≠ handlerSlot) : ((s.unserve c q).core c).arch.serving = none
    ∧ (s.unserve c q).block? c handlerSlot = none
    ∧ ((s.unserve c q).core c).arch.faultq = (s.core c).arch.faultq.filter (fun g => g.slot != q.slot)
    ∧ (s.unserve c q).block? c q.slot = some b.served
    ∧ (∀ ln, s.launch? b.launch = some ln → (s.unserve c q).launch? b.launch = some { ln with failed := true })
    ∧ (∀ sl, sl ≠ q.slot → sl ≠ handlerSlot → (s.unserve c q).block? c sl = s.block? c sl)
    ∧ (s.unserve c q).mem = s.mem := by
  obtain ⟨hmem, hlaunches, hfaultq, hblocks⟩ := State.failBlock_of_block hb
  have hcore : ((s.unserve c q).core c).arch = { ((s.failBlock c q.slot).core c).arch with
      serving := none, blocks := Tab.del ((s.failBlock c q.slot).core c).arch.blocks handlerSlot, grpValid := false
      descs := ((s.failBlock c q.slot).core c).arch.descs.filter (fun d => d.2.1 != q.slot) } :=
    congrArg CoreSt.arch (State.core_updCore (s.failBlock c q.slot) c _)
  have hblock : ∀ sl, (s.unserve c q).block? c sl
      = Tab.find? (Tab.del (Tab.put (s.core c).arch.blocks q.slot b.served) handlerSlot) sl := fun sl => by
    rw [State.block?, hcore, CoreArch.block?, hblocks]
  refine ⟨by rw [hcore], ?_, by rw [hcore]; exact hfaultq, ?_, fun ln hln => ?_, fun sl hsl hh => ?_, hmem⟩
  · rw [hblock, Tab.find?_del_same]
  · rw [hblock, Tab.find?_del_ne _ hq, Tab.find?_put_same]
  · have hkept : (s.unserve c q).launches = (s.failBlock c q.slot).launches := rfl
    rw [State.launch?, hkept, hlaunches, List.getElem?_modify, (show s.launches[b.launch]? = some ln from hln)]
    simp
  · rw [hblock, Tab.find?_del_ne _ hh, Tab.find?_put_ne _ _ hsl]
    rfl

end

/-- HALT on a fresh chunk (R357). -/
theorem exec_halt {f : One} {s : State} {e : Site} {q : FaultRec} {b : Block} (h : Runs (.halt f) s e)
    (hfresh : (s.core e.cur.core).chunk.fresh = true) (hs : (s.core e.cur.core).arch.serving = some q)
    (hb : s.block? e.cur.core q.slot = some b) : Completes (.halt f) s
      ((((s.unserve e.cur.core q).post (s.ctxOf b) 0x11 0 (haltFields ((e.read s e.ref f.o) &&& 0xFFFF)
        (s.core e.cur.core).arch b e.cur.core)).enterHandlers e.cur.core).seal e.cur.core) := by
  have hexec : exec (.halt f) s = execHalt f s := rfl
  rw [Completes, hexec, execHalt, issue_of_runs _ h, State.closeForTrap]
  dsimp only
  rw [if_pos hfresh, State.endService_of_halt hs hb]

/-- Settles O45: TLBINV by the frame of what it performs and drops, HALT by the state in which it posts, the traps by their word. -/
theorem trapsTlbinvHalt : Obligations.TrapsTlbinvHalt := by
  refine ⟨fun f s e h => ⟨tlbinv_waits h, fun hp hl => ?_⟩, fun f s e q b h hfresh hs hq hb => ?_, fun f s e h => ?_,
    fun f s e h => ⟨fun hbit => ?_, fun hbit => ?_⟩⟩
  · obtain ⟨t, hdone, hgoes, hflights, htlb, hctlb⟩ := tlbinv_drops h hp hl
    refine ⟨t, hdone, hgoes, hflights, fun c _ hin => ?_, hctlb, fun c hin => ?_⟩
    · rw [htlb, if_pos hin]
      rfl
    · rw [htlb, if_neg (hin ▸ Bool.false_ne_true)]
  · obtain ⟨hserving, hhandler, hfaultq, hblock, hlaunch, hothers, hmem⟩ := State.unserve_keeps hb hq
    exact ⟨_, _, exec_halt h hfresh hs hb, hserving, hhandler, hfaultq, hblock, rfl, rfl, rfl,
      fun ln hln => ⟨_, hlaunch ln hln, rfl⟩, hothers, hmem⟩
  · have hexec : exec (.trap f) s = execTrap f s := rfl
    rw [Completes, hexec, execTrap, issue_of_runs _ h]
    rfl
  · have hexec : exec (.bkpt f) s = execBkpt f s := rfl
    rw [Completes, hexec, execBkpt, issue_of_runs _ h, if_pos hbit]
    rfl
  · have hexec : exec (.bkpt f) s = execBkpt f s := rfl
    have q := Quiet.acts s e
    refine ⟨(s.acts e).pass e, ?_, q.goes (State.finish_goes _ _ _ Thread.next_ltid),
      (q.only e).trans (State.finish_only _ _ _)⟩
    rw [Completes, hexec, execBkpt, issue_of_runs _ h, if_neg (hbit ▸ Bool.false_ne_true)]

end Sys2Proof.Machine
end

section
/-! Proof of O48: what a doorbell does with its queue (R363, R418). -/

namespace Sys2Proof.Machine

/-- The device's reading of main memory touches lines only (R120). -/
theorem Quiet.lookAt (s : State) (k n : Nat) : Quiet s (s.lookAt k n) := Quiet.outTouch s _

/-- A doorbell of a created context that may take effect (R363): the tail that it names is within the queue's bounds. -/
def DoorbellGood (s : State) (x q : Nat) (v : Word) : Prop :=
  (qDesc s x q).enabled = true ∧ 4 ≤ (qDesc s x q).log ∧ (qDesc s x q).log ≤ 16 ∧ (qDesc s x q).head ≤ v.toNat
    ∧ v.toNat ≤ (qDesc s x q).head + 2 ^ (qDesc s x q).log ∧ (s.queue x q).tail ≤ v.toNat

theorem doorbellGood_iff (s : State) (x q : Nat) (v : Word) : DoorbellGood s x q v ↔ ¬ (!(qDesc s x q).enabled
    || (qDesc s x q).log < 4 || 16 < (qDesc s x q).log || v.toNat < max (s.queue x q).tail (qDesc s x q).head
    || (qDesc s x q).head + 2 ^ (qDesc s x q).log < v.toNat) = true := by
  simp only [DoorbellGood, Bool.or_eq_true, Bool.not_eq_true', decide_eq_true_eq, not_or, Bool.not_eq_false, Nat.not_lt,
    Nat.max_le]
  constructor
  · rintro ⟨henabled, hmin, hmax, hhead, hring, htail⟩
    exact ⟨⟨⟨⟨henabled, hmin⟩, hmax⟩, htail, hhead⟩, hring⟩
  · rintro ⟨⟨⟨⟨henabled, hmin⟩, hmax⟩, htail, hhead⟩, hring⟩
    exact ⟨henabled, hmin, hmax, hhead, hring, htail⟩

section
variable {s : State} {x q : Nat} {v : Word} (hc : (s.ctx x).created = true)
include hc

theorem doorbell_of_good (h : DoorbellGood s x q v) : s.doorbell x q v
    = (s.lookAt (qDesc s x q).key 64).setQueue x q ⟨v.toNat, true, (s.queue x q).on && (s.queue x q).waiting⟩ := by
  unfold State.doorbell
  rw [hc]
  exact if_neg ((doorbellGood_iff s x q v).1 h)

theorem doorbell_of_not_good (h : ¬ DoorbellGood s x q v) :
    s.doorbell x q v = (s.lookAt (qDesc s x q).key 64).postQueue x 0 0x34 q := by
  unfold State.doorbell
  rw [hc]
  exact if_pos (not_not.1 (mt (doorbellGood_iff s x q v).2 h))

end

theorem State.queue_setQueue (s : State) (x q : Nat) (v : QueueSt) : (s.setQueue x q v).queue x q = v := by
  rw [State.setQueue, State.queue, State.ctx_updCtx]
  exact Tab.get_set_same ..

/-- A doorbell at one of the 256 queues of the 64 contexts. -/
theorem exec_doorbell {off : Nat} (h8 : off % 8 = 0) (hx : off / 4096 < 64) (hq : off % 4096 / 8 < 256) (v : Word) (s : State) :
    exec (.doorbell off v) s = .next (if s.bar2Wait.isEmpty && (hostPending s).isEmpty
      then s.doorbell (off / 4096) (off % 4096 / 8) v
      else { s with bar2Wait := s.bar2Wait ++ [.doorbell (off / 4096) (off % 4096 / 8) v (hostPending s)] }) := by
  have hexec : exec (.doorbell off v) s = execDoorbell off v s := rfl
  rw [hexec, execDoorbell]
  refine congrArg Host.Outcome.next (if_neg ?_)
  simp only [Bool.or_eq_true, decide_eq_true_eq, not_or, Nat.not_le]
  exact ⟨⟨not_not.2 h8, hx⟩, hq⟩

/-- Settles O48: by whether the doorbell waits, and whether the tail that it names is within the bounds. -/
theorem doorbellRings : Obligations.DoorbellRings := by
  intro off v s h8 hx hq hc
  have hexec := exec_doorbell h8 hx hq v s
  refine ⟨fun hwait hpending => ?_, fun hwait => ?_⟩
  · have hnow : (s.bar2Wait.isEmpty && (hostPending s).isEmpty) = true := by rw [hwait, hpending]; rfl
    rw [if_pos hnow] at hexec
    refine ⟨fun hgood => ?_, fun hbad => ?_⟩
    · refine ⟨(s.lookAt (qDesc s (off / 4096) (off % 4096 / 8)).key 64).setQueue (off / 4096) (off % 4096 / 8) _,
        hexec.trans (congrArg Host.Outcome.next (doorbell_of_good hc hgood)), ?_, ?_, (Quiet.lookAt s _ _).mem⟩
      · rw [State.queue_setQueue]
      · rw [State.queue_setQueue]
    · exact hexec.trans (congrArg Host.Outcome.next (doorbell_of_not_good hc hbad))
  · refine hexec.trans (congrArg Host.Outcome.next (if_neg ?_))
    simp only [Bool.and_eq_true, List.isEmpty_iff, not_and_or]
    exact hwait

end Sys2Proof.Machine
end

section
/-! Proof of O50, first part: the order of a scheduling pass, and the turn of a launch in it (R369, R370). -/

namespace Sys2Proof.Machine

/-! ### Precedence -/

/-- Launch `a` goes before launch `b`, or they are equal in precedence: class, then those with a budget before those without, then the
earlier deadline, then the order in which they became ready (R369). -/
def Launch.Precedes (a b : Launch) : Prop :=
  a.cls < b.cls ∨ (a.cls = b.cls ∧ ((a.budget ≠ 0 ∧ b.budget = 0)
    ∨ (a.budget ≠ 0 ∧ b.budget ≠ 0 ∧ a.readyAt + a.budget < b.readyAt + b.budget)
    ∨ (a.budget ≠ 0 ∧ b.budget ≠ 0 ∧ a.readyAt + a.budget = b.readyAt + b.budget ∧ a.readySeq ≤ b.readySeq)
    ∨ (a.budget = 0 ∧ b.budget = 0 ∧ a.readySeq ≤ b.readySeq)))

theorem Launch.before_iff (a b : Launch) : a.before b = true ↔ a.Precedes b := by
  unfold Launch.before Launch.Precedes Launch.deadline
  by_cases hcls : a.cls = b.cls
  · by_cases ha : a.budget = 0 <;> by_cases hb : b.budget = 0
    · simp [hcls, ha, hb]
    · simp [hcls, ha, hb]
    · simp [hcls, ha, hb]
    · by_cases hd : a.readyAt + a.budget = b.readyAt + b.budget <;> simp [hcls, ha, hb, hd]
  · simp [hcls]

theorem Launch.Precedes.total (a b : Launch) : a.Precedes b ∨ b.Precedes a := by
  unfold Launch.Precedes
  omega

theorem Launch.Precedes.trans {a b c : Launch} (hab : a.Precedes b) (hbc : b.Precedes c) : a.Precedes c := by
  unfold Launch.Precedes at *
  omega

/-- Launches with their numbers, sorted by precedence (R369). -/
theorem pairwise_precedence (ls : List (Nat × Launch)) :
    (ls.insertionSort (fun a b => a.2.before b.2)).Pairwise (fun a b => a.2.Precedes b.2) := by
  have htotal : Std.Total (fun a b : Nat × Launch => a.2.before b.2 = true) :=
    ⟨fun a b => (Launch.Precedes.total a.2 b.2).imp (Launch.before_iff _ _).2 (Launch.before_iff _ _).2⟩
  have htrans : IsTrans (Nat × Launch) (fun a b => a.2.before b.2 = true) :=
    ⟨fun _ _ _ hab hbc => (Launch.before_iff _ _).2 (((Launch.before_iff _ _).1 hab).trans ((Launch.before_iff _ _).1 hbc))⟩
  exact (List.pairwise_insertionSort _ ls).imp fun h => (Launch.before_iff _ _).1 h

/-! ### The launches of a pass -/

/-- The firmware schedules a launch of a partition (R369, R374). -/
def schedulable (s : State) (p : Nat) (ln : Launch) : Bool :=
  (s.ctx ln.ctx).created && (s.ctx ln.ctx).part == p && !(s.ctx ln.ctx).mode.getLsbD 0
    && !ln.template && (ln.status == 2 || ln.status == 3)

/-- The launches of a partition that the firmware schedules, with their numbers. -/
def schedulableLaunches (s : State) (p : Nat) : List (Nat × Launch) :=
  ((List.range s.launches.length).filterMap (fun l => (s.launch? l).map (fun ln => (l, ln)))).filter (fun e => schedulable s p e.2)

theorem scheduled_sorts (s : State) (p : Nat) : scheduled s p
    = ((schedulableLaunches s p).insertionSort (fun a b => a.2.before b.2)).map (fun e => e.1) := rfl

theorem mem_schedulableLaunches {s : State} {p : Nat} {e : Nat × Launch} :
    e ∈ schedulableLaunches s p ↔ s.launch? e.1 = some e.2 ∧ schedulable s p e.2 = true := by
  rw [schedulableLaunches, List.mem_filter, List.mem_filterMap]
  refine and_congr_left fun _ => ⟨?_, fun h => ⟨e.1, List.mem_range.2 ?_, by rw [h]; rfl⟩⟩
  · rintro ⟨l, -, h⟩
    obtain ⟨ln, hln, rfl⟩ := Option.map_eq_some_iff.1 h
    exact hln
  · exact (List.getElem?_eq_some_iff.1 h).1

theorem mem_scheduled {s : State} {p l : Nat} : l ∈ scheduled s p ↔ ∃ ln, s.launch? l = some ln ∧ (s.ctx ln.ctx).created = true
    ∧ (s.ctx ln.ctx).part = p ∧ (s.ctx ln.ctx).mode.getLsbD 0 = false ∧ ln.template = false ∧ (ln.status = 2 ∨ ln.status = 3) := by
  have hsched : ∀ ln : Launch, schedulable s p ln = true ↔ (s.ctx ln.ctx).created = true
      ∧ (s.ctx ln.ctx).part = p ∧ (s.ctx ln.ctx).mode.getLsbD 0 = false ∧ ln.template = false ∧ (ln.status = 2 ∨ ln.status = 3) :=
    fun ln => by simp [schedulable, and_assoc]
  rw [scheduled_sorts, List.mem_map]
  refine ⟨?_, fun ⟨ln, hl, h⟩ => ⟨(l, ln), (List.mem_insertionSort _).2 (mem_schedulableLaunches.2 ⟨hl, (hsched ln).2 h⟩), rfl⟩⟩
  rintro ⟨e, he, rfl⟩
  obtain ⟨hl, h⟩ := mem_schedulableLaunches.1 ((List.mem_insertionSort _).1 he)
  exact ⟨e.2, hl, (hsched e.2).1 h⟩

theorem scheduled_pairwise (s : State) (p : Nat) : (scheduled s p).Pairwise (fun l m => ∀ a b, s.launch? l = some a →
    s.launch? m = some b → a.Precedes b) := by
  rw [scheduled_sorts, List.pairwise_map]
  refine (pairwise_precedence (schedulableLaunches s p)).imp_of_mem fun {e f} he hf h a b ha hb => ?_
  obtain ⟨he', -⟩ := mem_schedulableLaunches.1 ((List.mem_insertionSort _).1 he)
  obtain ⟨hf', -⟩ := mem_schedulableLaunches.1 ((List.mem_insertionSort _).1 hf)
  rw [he'] at ha
  rw [hf'] at hb
  obtain ⟨rfl⟩ := ha
  obtain ⟨rfl⟩ := hb
  exact h

theorem schedulingPass_goes {p : Nat} {s : State} (hf : s.fwSwitch = .none) (hs : s.stopped = false) :
    Completes (.schedulingPass p) s (s.passes p (passBound s)) := by
  have hexec : exec (.schedulingPass p) s = execSchedulingPass p s := rfl
  exact hexec.trans (congrArg Host.Outcome.next (if_neg (by rw [hf, hs]; decide)))

theorem passes_succ (s : State) (p n : Nat) : s.passes p (n + 1)
    = if (s.passOver (scheduled s p) []).blockSeq = s.blockSeq ∧ savedCount (s.passOver (scheduled s p) []) = savedCount s then s
      else (s.passOver (scheduled s p) []).passes p n := by
  rw [State.passes]
  exact ite_congr (by simp) (fun _ => rfl) (fun _ => rfl)

/-! ### A launch's turn -/

theorem passTurn_waits {l : Nat} {ahead : List Nat} {s : State} (h : ∃ m ∈ ahead, couldPlace s m = true) :
    s.passTurn l ahead = s := if_pos (List.any_eq_true.2 h)

theorem passTurn_goes {l : Nat} {ahead : List Nat} {s : State} (h : ∀ m ∈ ahead, couldPlace s m = false) :
    s.passTurn l ahead = (s.resumeAll l (savedBlocks s l).length).placeTurn l :=
  if_neg (ne_true_of_eq_false (List.any_eq_false.2 fun m hm => ne_true_of_eq_false (h m hm)))

theorem resumeAll_succ {l n : Nat} {s : State} {v : SavedAt} (h : (savedBlocks s l).find? (canResume s) = some v) :
    s.resumeAll l (n + 1) = (s.resumeBlock v).resumeAll l n := by
  rw [State.resumeAll, h]

section
variable {l : Nat} {ln : Launch} {s : State} (hl : s.launch? l = some ln)
include hl

theorem placeTurn_idle (h : ln.unplaced = false ∨ lowerPlaced s ln = false) : s.placeTurn l = s := by
  rw [State.placeTurn, hl]
  exact if_pos (by simpa using h)

theorem placeTurn_goes (hu : ln.unplaced = true) (hlow : lowerPlaced s ln = true) :
    s.placeTurn l = (placeMany s l (if ln.tree.persist ≠ 0 && ln.next = 0 then ln.tree.persist else 1)).getD s := by
  rw [State.placeTurn, hl]
  exact if_neg (by simp [hu, hlow])

theorem placeMany_one : placeMany s l 1 = (chooseCore s ln ln.next).map (fun p => s.placeBlock p.1 l ln p.2) := by
  have hnext : placeNext s l = (chooseCore s ln ln.next).map (fun p => s.placeBlock p.1 l ln p.2) := by rw [placeNext, hl]
  unfold placeMany
  rw [hnext]
  cases chooseCore s ln ln.next with
  | none => rfl
  | some p => rfl

end

end Sys2Proof.Machine
end

section
/-! Proof of O50, second part: what a core has in use, and the firmware's choice of a core (R16, R369, R370). -/

namespace Sys2Proof.Machine

/-! ### What stands on a core -/

theorem Tab.find?_eq_none {α : Type} {t : Tab α} {k : Nat} : Tab.find? t k = none ↔ ∀ e ∈ t, e.1 ≠ k := by
  induction t with
  | nil => simp [Tab.find?]
  | cons e t ih =>
    by_cases h : e.1 = k
    · simp [Tab.find?, h]
    · simpa [Tab.find?, h] using ih

/-- Some blocks added to what a core has in use, one after another. -/
theorem CoreUse.mem_adds (t : Nat × Block → Tree) (x : Nat × Block → Bool) (es : List (Nat × Block)) (u : CoreUse) :
    let v := es.foldl (fun u e => u.add (t e) (x e) (e.2.plan e.1)) u
    (∀ sl, sl ∈ v.slots ↔ sl ∈ u.slots ∨ ∃ e ∈ es, e.1 = sl) ∧ ∀ r, r ∈ v.rows ↔ r ∈ u.rows ∨ ∃ e ∈ es, r ∈ e.2.rowPlaces := by
  induction es generalizing u with
  | nil => simp
  | cons e es ih =>
    obtain ⟨hslots, hrows⟩ := ih (u.add (t e) (x e) (e.2.plan e.1))
    refine ⟨fun sl => (hslots sl).trans ?_, fun r => (hrows r).trans ?_⟩
    · rw [CoreUse.add, List.mem_cons, List.exists_mem_cons_iff, or_comm (a := sl = _), or_assoc, eq_comm (a := sl)]
      rfl
    · rw [CoreUse.add, List.mem_append, List.exists_mem_cons_iff, or_comm (a := r ∈ _), or_assoc]
      rfl

section
variable (s : State) (c x : Nat)

/-- The blocks of a core other than its handler. -/
def placedOn : List (Nat × Block) := (s.core c).arch.blocks.filter (fun e => e.1 < 16)

theorem useNow_slots (sl : Nat) : sl ∈ (s.useNow c x).slots ↔ ∃ e ∈ placedOn s c, e.1 = sl := by
  have h := (CoreUse.mem_adds (fun e => s.treeOf e.1 e.2) (fun e => s.isExact e.1 e.2) (placedOn s c) CoreUse.empty).1 sl
  exact h.trans (by simp [CoreUse.empty])

theorem mem_useNow_rows (r : Nat × Nat) : r ∈ (s.useNow c x).rows ↔ Occupied s c r := by
  have h := (CoreUse.mem_adds (fun e => s.treeOf e.1 e.2) (fun e => s.isExact e.1 e.2) (placedOn s c) CoreUse.empty).2 r
  exact h.trans (by simp [CoreUse.empty, placedOn, Occupied, Block.rowPlaces, and_assoc])

theorem contains_useNow_slots {sl : Nat} (h : sl < 16) : (s.useNow c x).slots.contains sl = (s.block? c sl).isSome := by
  have hnone : s.block? c sl = none ↔ ∀ e ∈ (s.core c).arch.blocks, e.1 ≠ sl := Tab.find?_eq_none
  rw [Bool.eq_iff_iff, List.contains_iff_mem, useNow_slots, ← Option.ne_none_iff_isSome, ne_eq, hnone, placedOn]
  simp only [List.mem_filter, decide_eq_true_eq, not_forall, not_not, exists_prop]
  exact ⟨fun ⟨e, ⟨he, _⟩, hsl⟩ => ⟨e, he, hsl⟩, fun ⟨e, he, hsl⟩ => ⟨e, ⟨he, hsl ▸ h⟩, hsl⟩⟩

theorem contains_use_slots {sl : Nat} (h : sl < 16) : (s.use c x).slots.contains sl = (s.block? c sl).isSome :=
  contains_useNow_slots s c x h

theorem mem_use_rows (r : Nat × Nat) : r ∈ (s.use c x).rows ↔ Occupied s c r := mem_useNow_rows s c x r

theorem coreTaken_iff : coreTaken s c x = true
    ↔ (s.core c).preempt.isSome = true ∨ ∃ e ∈ (s.core c).arch.blocks, s.ctxOf e.2 ≠ x := by
  simp [coreTaken]

end

/-! ### The rows of a block -/

/-- A quadrant has as many free positions as it has rows that no block takes. -/
theorem CoreUse.le_length_freePos (u : CoreUse) (q : Nat) : 16 - (u.rows.filter (fun e => e.1 == q)).length ≤ (u.freePos q).length := by
  have hsplit := List.length_eq_length_filter_add (l := List.range 16) (fun p => !u.rows.contains (q, p))
  have hsub : ((List.range 16).filter (fun p => !!u.rows.contains (q, p))).map (fun p => (q, p))
      ⊆ u.rows.filter (fun e => e.1 == q) := by
    intro r hr
    obtain ⟨p, hp, rfl⟩ := List.mem_map.1 hr
    simpa using (List.mem_filter.1 hp).2
  have hnodup : (((List.range 16).filter (fun p => !!u.rows.contains (q, p))).map (fun p => (q, p))).Nodup :=
    (List.nodup_range.filter _).map fun _ _ h => congrArg Prod.snd h
  have htaken := (List.subperm_of_subset hnodup hsub).length_le
  rw [List.length_map] at htaken
  rw [List.length_range] at hsplit
  rw [CoreUse.freePos]
  omega

/-- A block whose rows a core has free gets free rows (R369). -/
theorem CoreUse.rowPlan_free {u : CoreUse} {t : Tree} {q0 : Nat} (h : ∀ d, d < 4 → t.rowsAt d ≤ u.freeRows t ((q0 + d) % 4)) :
    ∀ r ∈ rowPlan t q0 u.freePos, r ∉ u.rows := by
  intro r hr
  obtain ⟨j, hj, rfl⟩ := List.mem_map.1 hr
  have hquad : (q0 + j) % 4 = (q0 + j % 4) % 4 := by omega
  have hlt : j / 4 < (u.freePos ((q0 + j) % 4)).length := by
    have hd := h (j % 4) (Nat.mod_lt _ (by decide))
    have hlen := u.le_length_freePos ((q0 + j) % 4)
    have hj' := List.mem_range.1 hj
    rw [CoreUse.freeRows, ← hquad] at hd
    rw [Tree.rowsAt] at hd
    omega
  have hmem : (u.freePos ((q0 + j) % 4)).getD (j / 4) 0 ∈ u.freePos ((q0 + j) % 4) := by
    rw [List.getD_eq_getElem _ _ hlt]
    exact List.getElem_mem hlt
  simpa using (List.mem_filter.1 hmem).2

/-- The place that a core offers: its lowest free slot, and free rows (R369, R370). -/
theorem CoreUse.plan?_some {u : CoreUse} {t : Tree} {x : Bool} {needs : List (Nat × Nat)} {p : Plan} (h : u.plan? t x needs = some p) :
    p.slot < 16 ∧ u.slots.contains p.slot = false ∧ (∀ sl, sl < p.slot → u.slots.contains sl = true) ∧ ∀ r ∈ p.rows, r ∉ u.rows := by
  unfold CoreUse.plan? at h
  dsimp only at h
  split at h
  case h_2 => cases h
  case h_1 slot sp hslot hsp =>
    split at h
    case isFalse => cases h
    case isTrue hfits =>
      cases h
      obtain ⟨hfree, hi, hbelow⟩ := List.find?_range_eq_some.1 hslot
      refine ⟨List.mem_range.1 hi, by simpa using hfree, fun sl hsl => by simpa using hbelow sl hsl, CoreUse.rowPlan_free fun d hd => ?_⟩
      simp only [Bool.and_eq_true, List.all_eq_true, decide_eq_true_eq] at hfits
      exact hfits.1.1 d (List.mem_range.2 hd)

theorem corePlan_some {s : State} {ln : Launch} {lin c : Nat} {p : Plan} (h : corePlan s ln lin c = some p) :
    s.inPart (s.ctx ln.ctx).part c = true ∧ coreTaken s c ln.ctx = false ∧ instanceOk s ln lin c = true
      ∧ (s.use c ln.ctx).plan? ln.tree (ln.det == 2) (ln.nodeNeeds lin) = some p := by
  unfold corePlan at h
  split at h
  case isTrue => cases h
  case isFalse hok =>
    simp only [Bool.or_eq_true, Bool.not_eq_true', not_or, Bool.not_eq_false, Bool.not_eq_true] at hok
    obtain ⟨⟨hpart, htaken⟩, hinst⟩ := hok
    exact ⟨hpart, htaken, hinst, h⟩

/-! ### The choice of a core -/

/-- The first of the heaviest, where the numbers ascend. -/
theorem foldl_heaviest {α : Type} (w n : α → Nat) (a : α) (as : List α) (hn : (a :: as).Pairwise (fun a b => n a < n b)) :
    let best := as.foldl (fun b e => if w b < w e then e else b) a
    best ∈ a :: as ∧ ∀ e ∈ a :: as, w e < w best ∨ (w e = w best ∧ n best ≤ n e) := by
  induction as generalizing a with
  | nil => exact ⟨List.mem_cons_self .., fun e he => .inr (by simp [List.mem_singleton.1 he])⟩
  | cons d as ih =>
    have htail := List.pairwise_cons.1 hn
    by_cases h : w a < w d
    · obtain ⟨hmem, hbest⟩ := ih d htail.2
      rw [List.foldl_cons, if_pos h]
      refine ⟨List.mem_cons_of_mem _ hmem, fun e he => ?_⟩
      rcases List.mem_cons.1 he with rfl | he
      · have hd := hbest d (List.mem_cons_self ..)
        omega
      · exact hbest e he
    · have hskip : (a :: as).Pairwise (fun a b => n a < n b) := hn.sublist (by simp)
      obtain ⟨hmem, hbest⟩ := ih a hskip
      rw [List.foldl_cons, if_neg h]
      refine ⟨?_, fun e he => ?_⟩
      · rcases List.mem_cons.1 hmem with hmem | hmem
        · exact List.mem_cons.2 (.inl hmem)
        · exact List.mem_cons_of_mem _ (List.mem_cons_of_mem _ hmem)
      · rcases List.mem_cons.1 he with rfl | he
        · exact hbest _ (List.mem_cons_self ..)
        · rcases List.mem_cons.1 he with rfl | he
          · have ha := hbest a (List.mem_cons_self ..)
            have hlt := htail.1 _ (List.mem_cons_self ..)
            omega
          · exact hbest e (List.mem_cons_of_mem _ he)

theorem partCores_pairwise (s : State) (p : Nat) : (partCores s p).Pairwise (· < ·) := by
  rw [partCores, List.pairwise_flatMap]
  refine ⟨fun k _ => List.pairwise_map.2 (List.pairwise_lt_range.imp fun h => by omega), ?_⟩
  refine (List.pairwise_lt_range.filter _).imp fun {k m} hkm c hc d hd => ?_
  obtain ⟨i, hi, rfl⟩ := List.mem_map.1 hc
  obtain ⟨j, hj, rfl⟩ := List.mem_map.1 hd
  have := List.mem_range.1 hi
  omega

/-- The places that the cores of a launch's partition offer, with their free rows. -/
def offers (s : State) (ln : Launch) (lin : Nat) : List (Nat × Plan × Nat) :=
  (partCores s (s.ctx ln.ctx).part).filterMap (fun c => (corePlan s ln lin c).map (fun p => (c, p, (s.use c ln.ctx).allRows ln.tree)))

theorem mem_offers {s : State} {ln : Launch} {lin : Nat} {o : Nat × Plan × Nat} : o ∈ offers s ln lin
    ↔ o.1 ∈ partCores s (s.ctx ln.ctx).part ∧ corePlan s ln lin o.1 = some o.2.1 ∧ o.2.2 = (s.use o.1 ln.ctx).allRows ln.tree := by
  rw [offers, List.mem_filterMap]
  refine ⟨?_, fun ⟨hc, hp, hw⟩ => ⟨o.1, hc, by rw [hp, Option.map_some, ← hw]⟩⟩
  rintro ⟨c, hc, h⟩
  obtain ⟨p, hp, rfl⟩ := Option.map_eq_some_iff.1 h
  exact ⟨hc, hp, rfl⟩

theorem offers_pairwise (s : State) (ln : Launch) (lin : Nat) : (offers s ln lin).Pairwise (fun a b => a.1 < b.1) := by
  refine (partCores_pairwise s _).filterMap _ fun c d hcd o ho r hr => ?_
  obtain ⟨p, -, rfl⟩ := Option.map_eq_some_iff.1 ho
  obtain ⟨q, -, rfl⟩ := Option.map_eq_some_iff.1 hr
  exact hcd

/-- The core with the most free rows, the lowest number on a tie (R369). -/
theorem chooseCore_some {s : State} {ln : Launch} {lin c : Nat} {p : Plan} (h : chooseCore s ln lin = some (c, p)) :
    corePlan s ln lin c = some p ∧ ∀ d q, d ∈ partCores s (s.ctx ln.ctx).part → corePlan s ln lin d = some q →
      (s.use d ln.ctx).allRows ln.tree < (s.use c ln.ctx).allRows ln.tree
        ∨ ((s.use d ln.ctx).allRows ln.tree = (s.use c ln.ctx).allRows ln.tree ∧ c ≤ d) := by
  have hchoice : chooseCore s ln lin = match offers s ln lin with
      | [] => none
      | o :: os =>
        let best := os.foldl (fun (b : Nat × Plan × Nat) e => if b.2.2 < e.2.2 then e else b) o
        some (best.1, best.2.1) := rfl
  rw [hchoice] at h
  cases ho : offers s ln lin with
  | nil => rw [ho] at h; cases h
  | cons o os =>
    have hpair := offers_pairwise s ln lin
    rw [ho] at h hpair
    obtain ⟨hmem, hbest⟩ := foldl_heaviest (fun o : Nat × Plan × Nat => o.2.2) (fun o => o.1) o os hpair
    cases h
    obtain ⟨-, hplan, hrows⟩ := mem_offers.1 (ho ▸ hmem)
    refine ⟨hplan, fun d q hd hq => ?_⟩
    have hoffer : (d, q, (s.use d ln.ctx).allRows ln.tree) ∈ o :: os := ho ▸ mem_offers.2 ⟨hd, hq, rfl⟩
    rw [← hrows]
    exact hbest _ hoffer

/-- What the choice of a core guarantees (R24, R369, R370). -/
theorem chooseCore_free {s : State} {ln : Launch} {lin c : Nat} {p : Plan} (h : corePlan s ln lin c = some p) :
    s.inPart (s.ctx ln.ctx).part c = true ∧ coreTaken s c ln.ctx = false ∧ instanceOk s ln lin c = true
      ∧ s.block? c p.slot = none ∧ (∀ sl, sl < p.slot → s.block? c sl ≠ none) ∧ ∀ r ∈ p.rows, ¬ Occupied s c r := by
  obtain ⟨hpart, htaken, hinst, hplan⟩ := corePlan_some h
  obtain ⟨hslot, hfree, hbelow, hrows⟩ := CoreUse.plan?_some hplan
  rw [contains_use_slots s c _ hslot] at hfree
  refine ⟨hpart, htaken, hinst, by simpa using hfree, fun sl hsl => ?_, fun r hr => ?_⟩
  · have htaken := hbelow sl hsl
    rw [contains_use_slots s c _ (Nat.lt_trans hsl hslot)] at htaken
    exact Option.ne_none_iff_isSome.2 htaken
  · exact fun ho => hrows r hr ((mem_use_rows s c _ r).2 ho)

end Sys2Proof.Machine
end

section
/-! Proof of O50, third part: placement, and the launch that it makes running (R361, R373). -/

namespace Sys2Proof.Machine

/-! ### The status of a launch is not what a write of memory changes -/

/-- The statuses of the launches, in order. -/
def State.statuses (s : State) : List Nat := s.launches.map Launch.status

theorem map_modify_of_eq {α β : Type} {g : α → β} {f : α → α} (hf : ∀ a, g (f a) = g a) (l : List α) (n : Nat) :
    (l.modify n f).map g = l.map g := by
  refine List.ext_getElem? fun i => ?_
  rw [List.getElem?_map, List.getElem?_map, List.getElem?_modify, Option.map_eq_map, Option.map_map]
  refine Option.map_congr fun a _ => ?_
  rw [Function.comp]
  split
  · exact hf a
  · rfl

theorem Ignores.launches : Ignores State.launches := ⟨fun _ _ => rfl, fun _ _ _ _ _ _ _ => rfl⟩

section
variable (s : State)

theorem State.statuses_failBlock (c sl : Nat) : (s.failBlock c sl).statuses = s.statuses := by
  unfold State.failBlock
  split
  · rfl
  · exact map_modify_of_eq (by intro; rfl) _ _

theorem State.launches_withdrawn (c : Nat) : (s.withdrawn c).launches = s.launches := by
  unfold State.withdrawn
  rw [Ignores.launches.count, foldl_keeps State.launches (by intros; rfl)]
  rfl

theorem State.launches_asks (c : Nat) : (s.asks c).launches = s.launches := by
  unfold State.asks
  split <;> rfl

theorem State.launches_squashEnd (c : Nat) : (s.squashEnd c).launches = s.launches := by
  unfold State.squashEnd
  dsimp only
  rw [State.launches_withdrawn, State.launches_asks]
  rfl

theorem State.launches_raiseVec (v : Word) : (s.raiseVec v).launches = s.launches := by
  unfold State.raiseVec State.raise
  split
  · split <;> rfl
  · rfl

/-- A record written without a broadcast, as a squash posts it, changes no launch (R350). -/
theorem State.launches_postBy_writeMem (x ty flags : Nat) (fields : List (Nat × List Byte)) :
    (s.postBy State.writeMem x ty flags fields).launches = s.launches := by
  unfold State.postBy
  dsimp only
  split
  · rw [State.launches_raiseVec]
    rfl
  · rfl

theorem State.statuses_squash (c : Nat) : (s.squash c).statuses = s.statuses := by
  have hend : (s.squashEnd c).statuses = s.statuses := congrArg (List.map Launch.status) (s.launches_squashEnd c)
  cases hb : (s.core c).chunk.bad with
  | none => rw [squash_of_good hb]; exact hend
  | some sub =>
    rw [squash_of_bad hb, State.statuses, State.launches_postBy_writeMem]
    exact (foldl_keeps State.statuses (fun s (e : Nat × Block) => s.statuses_failBlock c e.1) _ _).trans hend

theorem State.statuses_broadcast (part : Nat) (c : Option Nat) (wr : List Nat) : (s.broadcast part c wr).statuses = s.statuses := by
  unfold State.broadcast
  split
  · rfl
  · refine foldl_keeps State.statuses (fun s d => ?_) _ s
    split
    · rfl
    · dsimp only
      split
      · exact State.statuses_squash _ _
      · rfl

theorem State.statuses_outWrite (k : Nat) (bs : List Byte) : (s.outWrite k bs).statuses = s.statuses := by
  have hkeep : ∀ (t : State) (ks : Nat → List Nat), (t.keepOld ks).statuses = t.statuses := fun t ks => by
    refine List.ext_getElem? fun i => ?_
    rw [State.statuses, State.statuses, List.getElem?_map, List.getElem?_map, State.keepOld, List.getElem?_mapIdx, Option.map_map]
    refine Option.map_congr fun ln _ => ?_
    rw [Function.comp]
    split <;> rfl
  unfold State.outWrite
  dsimp only
  rw [foldl_keeps State.statuses (fun t p => t.statuses_broadcast p none _)]
  refine (congrArg (List.map Launch.status) (foldl_keeps State.launches (fun s d => ?_) _ _)).trans
    ((hkeep _ _).trans (congrArg (List.map Launch.status) (Quiet.outTouch s _).launches))
  split <;> rfl

end

/-- A ready launch that belongs to no template runs from the placement of its first block on (R361). -/
theorem running_status {l : Nat} {ln : Launch} {s : State} (hl : s.launch? l = some ln) (hst : ln.status = 2) (hp : ln.parent = none) :
    ∃ ln', (s.running l).launch? l = some ln' ∧ ln'.status = 3 := by
  have hrun : s.running l = (s.updLaunch l (fun ln => { ln with status := 3 })).outWrite (ln.rec_ + 0x34) (natLe 1 3) := by
    have hgo : s.running l = s.setStatus l 3 := by
      unfold State.running
      rw [hl, Option.bind_some, hp]
      dsimp only
      rw [hl]
      exact if_pos hst
    rw [hgo, State.setStatus, hl]
    dsimp only
    rw [hp]
    rfl
  have hstatus : ((s.updLaunch l (fun ln => { ln with status := 3 })).launch? l).map Launch.status = some 3 := by
    rw [State.launch?_updLaunch, hl]
    simp
  have hkept := congrArg (fun sts : List Nat => sts[l]?)
    ((s.updLaunch l (fun ln => { ln with status := 3 })).statuses_outWrite (ln.rec_ + 0x34) (natLe 1 3))
  rw [State.statuses, State.statuses] at hkept
  rw [List.getElem?_map, List.getElem?_map, ← hrun] at hkept
  obtain ⟨ln', hl', hst'⟩ := Option.map_eq_some_iff.1 (hkept.trans hstatus)
  exact ⟨ln', hl', hst'⟩

/-! ### Placement -/

/-- The resident blocks, the number of blocks placed so far, and what is placed of every launch. -/
def State.standing (s : State) : (Nat → Nat → Option Block) × Nat × List (Nat × Nat) :=
  (s.block?, s.blockSeq, s.launches.map (fun ln => (ln.next, ln.status)))

section
variable (s : State) (c x : Nat)

theorem State.standing_updCore {f : CoreSt → CoreSt} (hf : ∀ k, (f k).arch.blocks = k.arch.blocks) :
    (s.updCore c f).standing = s.standing := by
  have hblock : (s.updCore c f).block? = s.block? := by
    funext d sl
    by_cases h : d = c
    · rw [h, State.block?, State.core_updCore, CoreArch.block?, hf]
      rfl
    · rw [State.block?, State.core_updCore_ne s _ h]
      rfl
  rw [State.standing, hblock]
  rfl

theorem State.standing_copyOut (rs : List (Nat × Nat)) : (s.copyOut c x rs).standing = s.standing :=
  foldl_keeps State.standing (fun t r => by
    dsimp only
    split <;> rfl) _ s

theorem CoreSt.takeCtx_blocks (k : CoreSt) : (k.takeCtx x).arch.blocks = k.arch.blocks := by
  unfold CoreSt.takeCtx
  split
  · rfl
  · dsimp only
    split <;> rfl

theorem State.standing_takeCore : (s.takeCore c x).standing = s.standing := by
  unfold State.takeCore
  rw [State.standing_updCore _ _ fun k => k.takeCtx_blocks x]
  split
  · split <;> rfl
  · rfl

theorem State.standing_updLaunch (l : Nat) {f : Launch → Launch} (hf : ∀ ln, ((f ln).next, (f ln).status) = (ln.next, ln.status)) :
    (s.updLaunch l f).standing = s.standing :=
  congrArg (fun ls => (s.block?, s.blockSeq, ls)) (map_modify_of_eq hf s.launches l)

theorem State.standing_placeNodes (l lin : Nat) (ln : Launch) (p : Plan) : (s.placeNodes c l lin ln p).standing = s.standing :=
  foldl_keeps State.standing (fun t (n : Nat × Nat × Nat) =>
    (t.writeMem (sliceKey (c * sliceSize + n.2.1)) (natLe (ln.tree.regBytes n.1) 0)).standing_updLaunch l (by intro; rfl)) _ s

/-- The ranges of its core's slice that a placed block takes (R373). -/
def Plan.ranges (p : Plan) (ln : Launch) : List (Nat × Nat) :=
  (p.win, ln.tree.winSize) :: (if ln.det = 2 then [(p.pst, phaseStore)] else []) ++ p.nodes.map (fun n => (n.2.1, n.2.2))

/-- A core whose slice is ready for a block (R120, R391). -/
def State.cleared (ln : Launch) (p : Plan) : State :=
  ((s.copyOut c ln.ctx (p.ranges ln)).dropRanges c (p.ranges ln)).dropL1 c false

/-- A core that is ready for a block, with the allocations made with it (R17, R52, R370). -/
def State.prepared (l : Nat) (ln : Launch) (p : Plan) : State :=
  (if ((s.cleared c ln p).core c).arch.blocks.isEmpty then (s.cleared c ln p).takeCore c ln.ctx else s.cleared c ln p).placeNodes c l
    ln.next ln p

/-- A block stands at its place (R373). -/
def State.blockPut (l : Nat) (ln : Launch) (p : Plan) : State :=
  { (s.updBoth c (fun a => { a with blocks := Tab.put a.blocks p.slot (newBlock ln l ln.next s.blockSeq p) })).updLaunch l
      (fun ln => { ln with next := ln.next + 1 }) with blockSeq := s.blockSeq + 1 }

theorem State.placeBlock_puts (l : Nat) (ln : Launch) (p : Plan) :
    s.placeBlock c l ln p = (((s.prepared c l ln p).blockPut c l ln p).running l).memberChecks l := rfl

theorem State.standing_prepared (l : Nat) (ln : Launch) (p : Plan) : (s.prepared c l ln p).standing = s.standing := by
  have hcleared : (s.cleared c ln p).standing = s.standing := by
    rw [State.cleared, State.dropL1, State.standing_updCore _ _ (by intro; rfl)]
    exact s.standing_copyOut c ln.ctx _
  rw [State.prepared, State.standing_placeNodes]
  split
  · rw [State.standing_takeCore, hcleared]
  · exact hcleared

end

/-- The state of a placed block, before the launch runs (R373). -/
theorem placeBlock_places {c l : Nat} {ln : Launch} {p : Plan} {s : State} (hl : s.launch? l = some ln) : ∃ (s1 : State) (ln' : Launch),
    s.placeBlock c l ln p = (s1.running l).memberChecks l ∧ s1.block? c p.slot = some (newBlock ln l ln.next s.blockSeq p)
      ∧ s1.launch? l = some ln' ∧ ln'.next = ln.next + 1 ∧ ln'.status = ln.status ∧ s1.blockSeq = s.blockSeq + 1
      ∧ (∀ d sl, d ≠ c ∨ sl ≠ p.slot → s1.block? d sl = s.block? d sl) := by
  obtain ⟨t, ht⟩ : ∃ t, t = s.prepared c l ln p := ⟨_, rfl⟩
  have hstand := s.standing_prepared c l ln p
  rw [← ht] at hstand
  have hblock : t.block? = s.block? := congrArg Prod.fst hstand
  have hseq : t.blockSeq = s.blockSeq := congrArg (fun v => v.2.1) hstand
  have hnext : (t.launch? l).map (fun ln => (ln.next, ln.status)) = some (ln.next, ln.status) := by
    have hlists := congrArg (fun v : (Nat → Nat → Option Block) × Nat × List (Nat × Nat) => v.2.2[l]?) hstand
    rw [State.standing, State.standing, List.getElem?_map, List.getElem?_map] at hlists
    rw [State.launch?, hlists]
    exact congrArg (Option.map (fun ln : Launch => (ln.next, ln.status))) hl
  obtain ⟨ln0, hln0, hpair⟩ := Option.map_eq_some_iff.1 hnext
  obtain ⟨hn, hst⟩ := Prod.mk.inj hpair
  have hput : ∀ d sl, (t.blockPut c l ln p).block? d sl
      = (t.updArch c (fun a => { a with blocks := Tab.put a.blocks p.slot (newBlock ln l ln.next t.blockSeq p) })).block? d sl :=
    fun d sl => t.block?_updBoth c d sl (fun a => { a with
      blocks := Tab.put a.blocks p.slot (newBlock ln l ln.next t.blockSeq p) })
  refine ⟨t.blockPut c l ln p, { ln0 with next := ln0.next + 1 }, ht ▸ s.placeBlock_puts c l ln p, ?_, ?_, congrArg (· + 1) hn, hst,
    congrArg (· + 1) hseq, fun d sl h => ?_⟩
  · rw [hput, State.block?, State.core_updArch, hseq]
    exact Tab.find?_put_same ..
  · refine (State.launch?_updLaunch _ l l _).trans ((congrArg (Option.map _) hln0).trans ?_)
    rw [Option.map_some, if_pos rfl]
  · rw [hput, ← hblock]
    by_cases hd : d = c
    · rw [hd, State.block?, State.core_updArch]
      exact Tab.find?_put_ne _ _ (h.resolve_left (not_not_intro hd))
    · rw [State.block?, State.core_updArch_ne _ _ hd]
      rfl

end Sys2Proof.Machine
end

section
/-! Proof of O50, fourth part: a pre-empted block returns as it was saved (R371, R390, R391). -/

namespace Sys2Proof.Machine

/-! ### The core that a block returns to -/

/-- What a core has in its save area, and the faults that wait on it. -/
def CoreSt.shelf (k : CoreSt) : List Saved × List FaultRec := (k.saved, k.arch.faultq)

theorem CoreSt.takeCtx_shelf (k : CoreSt) (x : Nat) : (k.takeCtx x).shelf = k.shelf := by
  unfold CoreSt.takeCtx
  split
  · rfl
  · dsimp only
    split <;> rfl

theorem State.copyOut_cores (s : State) (c x : Nat) (rs : List (Nat × Nat)) : (s.copyOut c x rs).cores = s.cores :=
  foldl_keeps State.cores (fun t r => by
    dsimp only
    split <;> rfl) _ s

theorem State.takeCore_shelf (s : State) (c x : Nat) : ((s.takeCore c x).core c).shelf = (s.core c).shelf := by
  unfold State.takeCore
  rw [State.core_updCore, CoreSt.takeCtx_shelf]
  split
  · split <;> rfl
  · rfl

/-- The ranges of a core's slice that were copied out for a context (R391). -/
def State.copiedRanges (s : State) (c x : Nat) : List (Nat × Nat) :=
  (s.copiedOut.filter (fun r => r.core == c && r.ctx == x)).map (fun r => (r.base, r.size))

/-- A core whose copied-out allocations are back (R391). -/
def State.refilled (s : State) (c x : Nat) : State := (s.copyOut c x (s.copiedRanges c x)).copyBack c x

/-- A core that has taken up the block's context again (R370, R391). -/
def State.retaken (s : State) (c x : Nat) : State :=
  if ((s.refilled c x).core c).arch.blocks.isEmpty then (s.refilled c x).takeCore c x else s.refilled c x

theorem State.retaken_shelf (s : State) (c x : Nat) : ((s.retaken c x).core c).shelf = (s.core c).shelf := by
  have hcores : (s.refilled c x).cores = s.cores := s.copyOut_cores c x _
  have hcore : (s.refilled c x).core c = s.core c := by rw [State.core, State.core, hcores]
  unfold State.retaken
  split
  · rw [State.takeCore_shelf, hcore]
  · rw [hcore]

/-- A core that has its block again, with the faults that belong to it (R390). -/
def State.returned (s : State) (v : SavedAt) (sv : Saved) : State :=
  ((s.retaken v.core (s.ctxOf v.blk)).updBoth v.core (fun a => a.giveBack sv.arch v.slot v.blk)).updCore v.core (fun k => { k with
    saved := (k.saved.set v.pos { sv with arch := sv.arch.without v.slot }).filter (fun o => !o.arch.blocks.isEmpty) })

/-- What a returned block finds done for it: the next fault enters, and threads whose beat has come go on (R272, R281). -/
def State.revived (s : State) (v : SavedAt) (sv : Saved) : State :=
  (if ((s.returned v sv).core v.core).chunk.fresh then (s.returned v sv).enterHandlers v.core else s.returned v sv).updBoth v.core
    CoreArch.wakePops

/-- A returned block whose suspensions have been looked at again (R146). -/
def State.resumed (s : State) (v : SavedAt) (sv : Saved) : State :=
  if (s.revived v sv).isExact v.slot v.blk then s.revived v sv
  else v.blk.threads.foldl (fun s th => s.reevaluate v.core v.slot th.ltid) (s.revived v sv)

theorem State.resumeBlock_resumes {s : State} {v : SavedAt} {sv : Saved} (h : (s.core v.core).saved[v.pos]? = some sv) :
    s.resumeBlock v = ((s.resumed v sv).wakeDrains v.core).memberChecks v.blk.launch := by
  rw [State.resumeBlock, h]
  rfl

/-! ### A block that waits for nothing -/

/-- A thread of a core goes on when the beat that it waits for has come (R272). -/
def Thread.wakePop (a : CoreArch) (th : Thread) : Thread :=
  match th.wait with
  | .nbr dir ch => if (a.beat? (4 * dir + ch)).isSome then { th with wait := .run } else th
  | _ => th

theorem wakePops_wakes (a : CoreArch) : a.wakePops
    = { a with blocks := Tab.mapV a.blocks (fun _ b => { b with threads := b.threads.map (Thread.wakePop a) }) } := rfl

theorem Thread.wakePop_of_no_beat {th : Thread} (h : ∀ d k, th.wait ≠ .nbr d k) (a : CoreArch) : th.wakePop a = th := by
  unfold Thread.wakePop
  split
  next d k hw => exact absurd hw (h d k)
  next => rfl

/-- A block none of whose threads waits for a beat stands as it was (R272). -/
theorem wakePops_block {a : CoreArch} {sl : Nat} {b : Block} (hb : a.block? sl = some b) (h : ∀ th ∈ b.threads, ∀ d k, th.wait ≠ .nbr d k) :
    a.wakePops.block? sl = some b := by
  have hthreads : b.threads.map (Thread.wakePop a) = b.threads :=
    (List.map_congr_left fun th hth => th.wakePop_of_no_beat (h th hth) a).trans (List.map_id' _)
  rw [wakePops_wakes, CoreArch.block?, Tab.find?_mapV]
  refine (congrArg (Option.map _) hb).trans ?_
  rw [Option.map_some, hthreads]

/-- A thread that waits for no value of memory is not looked at again (R146). -/
theorem reevaluate_of_not_waiting {s : State} {c sl : Nat} {b : Block} (hb : s.block? c sl = some b)
    (h : ∀ th ∈ b.threads, ∀ i x y, th.wait ≠ .mem i x y) (tid : Nat) : s.reevaluate c sl tid = s := by
  unfold State.reevaluate
  rw [hb]
  dsimp only
  split
  · rfl
  next th hth =>
    split
    next i x y hw => exact absurd hw (h th (List.mem_of_find?_eq_some hth) i x y)
    next => rfl

/-- A block that returns without a fault being served. -/
theorem giveBack_of_unserved {f : CoreArch} (h : f.serving = none) (a : CoreArch) (sl : Nat) (b : Block) :
    (a.giveBack f sl b).blocks = Tab.put a.blocks sl b
      ∧ (a.giveBack f sl b).faultq = a.faultq ++ f.faultq.filter (fun r => r.slot == sl) := by
  unfold CoreArch.giveBack
  rw [h]
  dsimp only
  split <;> exact ⟨rfl, rfl⟩

theorem State.enterHandlers_of_none {s : State} {c : Nat} (h : (s.core c).arch.faultq = []) : s.enterHandlers c = s := by
  rw [State.enterHandlers, h]
  rfl

section
variable {s : State} {v : SavedAt} {sv : Saved} (hserv : sv.arch.serving = none)
include hserv

theorem State.returned_block : (s.returned v sv).block? v.core v.slot = some v.blk := by
  obtain ⟨hblocks, -⟩ := giveBack_of_unserved hserv ((s.retaken v.core (s.ctxOf v.blk)).core v.core).arch v.slot v.blk
  rw [State.returned, State.block?, State.core_updCore, State.updBoth, State.core_updCore]
  exact (congrArg (fun bs => Tab.find? bs v.slot) hblocks).trans (Tab.find?_put_same ..)

variable (hq : sv.arch.faultq = []) (hq' : (s.core v.core).arch.faultq = [])
include hq hq'

theorem State.returned_shelf : ((s.returned v sv).core v.core).shelf
    = (((s.core v.core).saved.set v.pos { sv with arch := sv.arch.without v.slot }).filter (fun o => !o.arch.blocks.isEmpty), []) := by
  obtain ⟨-, hfaults⟩ := giveBack_of_unserved hserv ((s.retaken v.core (s.ctxOf v.blk)).core v.core).arch v.slot v.blk
  obtain ⟨hsaved, hwaiting⟩ := Prod.mk.inj (s.retaken_shelf v.core (s.ctxOf v.blk))
  rw [hwaiting, hq', hq] at hfaults
  rw [State.returned, State.core_updCore, State.updBoth, State.core_updCore, CoreSt.shelf]
  dsimp only
  rw [hsaved, hfaults]
  rfl

variable (h : ∀ th ∈ v.blk.threads, (∀ i a b, th.wait ≠ .mem i a b) ∧ ∀ d k, th.wait ≠ .nbr d k)
include h

/-- A block that returns stands as it was saved, and its save area no longer holds it (R390). -/
theorem State.resumed_keeps : (s.resumed v sv).block? v.core v.slot = some v.blk
    ∧ ((s.resumed v sv).core v.core).saved
      = ((s.core v.core).saved.set v.pos { sv with arch := sv.arch.without v.slot }).filter (fun o => !o.arch.blocks.isEmpty) := by
  obtain ⟨hsaved, hfaults⟩ := Prod.mk.inj (State.returned_shelf hserv hq hq')
  have hrevived : s.revived v sv = (s.returned v sv).updBoth v.core CoreArch.wakePops := by
    unfold State.revived
    rw [State.enterHandlers_of_none hfaults, ite_self]
  have hblock : (s.revived v sv).block? v.core v.slot = some v.blk := by
    rw [hrevived, State.block?_updBoth, State.block?, State.core_updArch]
    exact wakePops_block (State.returned_block hserv) fun th hth => (h th hth).2
  have hsame : s.resumed v sv = s.revived v sv := by
    unfold State.resumed
    split
    · rfl
    · exact List.foldlRecOn (motive := fun t => t = s.revived v sv) _ _ rfl fun t ht th _ =>
        (congrArg (fun u : State => u.reevaluate v.core v.slot th.ltid) ht).trans
          (reevaluate_of_not_waiting hblock (fun th hth => (h th hth).1) _)
  rw [hsame]
  refine ⟨hblock, ?_⟩
  rw [hrevived, State.updBoth, State.core_updCore]
  exact hsaved

end

end Sys2Proof.Machine
end

section
/-! Proof of O50, fifth part: bind records, the pre-emption decision and deadlines (R371-R375). -/

namespace Sys2Proof.Machine

/-! ### A bind record of a kind -/

section
variable {c : Nat} {r : BitVec 256} {s : State} (hc : c < 384)
include hc

theorem bind_of_place (hop : bindField r 5 3 = 0) (hr : bindReserved r = true) : s.bind c r = s.bindPlace c r := by
  rw [State.bind, if_neg (Nat.not_le.2 hc), hop]
  exact if_pos hr

theorem bind_of_resume (hop : bindField r 5 3 = 1) (hr : bindReserved r = true) : s.bind c r = s.bindResume c r := by
  rw [State.bind, if_neg (Nat.not_le.2 hc), hop]
  exact if_pos hr

theorem bind_of_preempt (hop : bindField r 5 3 = 2) (hr : r.toNat = bindField r 8 6 * 2 ^ 8 + 2 * 2 ^ 5) :
    s.bind c r = (s.startPreempt c (bindField r 8 6), none) := by
  rw [State.bind, if_neg (Nat.not_le.2 hc), hop]
  exact if_neg (not_not_intro hr)

end

theorem bindOp_of_op {op c : Nat} {r : BitVec 256} {s : State} (hop : bindField r 5 3 = op) (hh : bindHeld s r = false) :
    bindOp op c r s = .next (s.bind c r).1 :=
  congrArg Host.Outcome.next ((if_neg (not_not_intro hop)).trans (if_neg (ne_true_of_eq_false hh)))

/-! ### A place record -/

/-- The checks of a place record whose launch is found, from the third on (R373). -/
def State.bindNamed (s : State) (c : Nat) (r : BitVec 256) (l : Nat) (ln : Launch) : BindRes :=
  let x := bindField r 8 6
  let q0 := bindField r 14 2
  let u := s.use c x
  let t := ln.tree
  let rows := rowPlan t q0 (bindPos r)
  let maskOk := (List.range 4).all (fun d => (bindPos r ((q0 + d) % 4)).length == t.rowsAt d)
    && rows.all (fun e => !u.rows.contains e)
  if ln.ctx ≠ x || !ln.unplaced || ln.next ≠ bindField r 64 32 || !lowerPlaced s ln then (s, some 3)
  else if !maskOk then (s, some 4)
  else if !u.regsOk t q0 then (s, some 5)
  else match u.scratchPlan t (ln.det == 2) (ln.nodeNeeds ln.next) with
    | none => (s, some 6)
    | some sp =>
      if !u.capsOk t q0 || !instanceOk s ln ln.next c || !s.inPart (s.ctx x).part c then (s, some 6)
      else (s.placeBlock c l ln ⟨bindField r 0 4, q0, rows, sp.1, sp.2.1, sp.2.2⟩, none)

theorem bindField_lt (r : BitVec 256) (lo n : Nat) : bindField r lo n < 2 ^ n := Nat.mod_lt _ (Nat.two_pow_pos n)

section
variable {s : State} {c : Nat} {r : BitVec 256}

theorem bindPlace_of_slot (h1 : (s.block? c (bindField r 0 4)).isSome = true) : s.bindPlace c r = (s, some 1) :=
  if_pos ((contains_use_slots s c _ (bindField_lt r 0 4)).trans h1)

variable (h1 : ¬ (s.block? c (bindField r 0 4)).isSome = true)
include h1

theorem bindPlace_of_free : s.bindPlace c r = if coreTaken s c (bindField r 8 6) then (s, some 2)
    else match (bindLaunch s r).bind (fun l => (s.launch? l).map (fun ln => (l, ln))) with
      | none => (s, some 3)
      | some (l, ln) => s.bindNamed c r l ln :=
  if_neg fun h => h1 ((contains_use_slots s c _ (bindField_lt r 0 4)).symm.trans h)

theorem bindPlace_of_core (h2 : coreTaken s c (bindField r 8 6) = true) : s.bindPlace c r = (s, some 2) :=
  (bindPlace_of_free h1).trans (if_pos h2)

variable (h2 : ¬ coreTaken s c (bindField r 8 6) = true)
include h2

theorem bindPlace_of_unnamed (hl : bindLaunch s r = none) : s.bindPlace c r = (s, some 3) := by
  rw [bindPlace_of_free h1, if_neg h2, hl]
  rfl

theorem bindPlace_of_named {l : Nat} {ln : Launch} (hl : bindLaunch s r = some l) (hln : s.launch? l = some ln) :
    s.bindPlace c r = s.bindNamed c r l ln := by
  rw [bindPlace_of_free h1, if_neg h2, hl, Option.bind_some, hln]
  rfl

end

/-- The rows that a record names for a block are as many as it has, and no block stands on them (R373). -/
theorem maskOk_iff {s : State} {c : Nat} {r : BitVec 256} {t : Tree} : (!((List.range 4).all (fun d =>
      (bindPos r ((bindField r 14 2 + d) % 4)).length == t.rowsAt d)
        && (rowPlan t (bindField r 14 2) (bindPos r)).all (fun e => !(s.use c (bindField r 8 6)).rows.contains e))) = true
    ↔ (∃ d, d < 4 ∧ (bindPos r ((bindField r 14 2 + d) % 4)).length ≠ t.rowsAt d)
      ∨ ∃ p ∈ rowPlan t (bindField r 14 2) (bindPos r), Occupied s c p := by
  rw [Bool.not_and, Bool.or_eq_true]
  refine or_congr (by simp) ?_
  simp only [Bool.not_eq_true', List.all_eq_false, Bool.not_eq_false, List.contains_iff_mem, mem_use_rows]

theorem regsOk_iff {u : CoreUse} {t : Tree} {q0 : Nat} : (!u.regsOk t q0) = true
    ↔ ∃ d, d < 4 ∧ 1024 < u.regs.getD ((q0 + d) % 4) 0 + t.rowsAt d * t.laneRegs := by
  simp [CoreUse.regsOk]

/-- A record that names another launch, or another block, than the next to be placed (R373). -/
def namesWrong (s : State) (r : BitVec 256) (ln : Launch) : Bool :=
  ln.ctx ≠ bindField r 8 6 || !ln.unplaced || ln.next ≠ bindField r 64 32 || !lowerPlaced s ln

theorem namesWrong_iff {s : State} {r : BitVec 256} {ln : Launch} : namesWrong s r ln = true
    ↔ ln.ctx ≠ bindField r 8 6 ∨ ln.unplaced = false ∨ ln.next ≠ bindField r 64 32 ∨ lowerPlaced s ln = false := by
  simp [namesWrong, or_assoc]

/-- The rows that a place record names are not those that the block has, or not free (R373). -/
def rowsWrong (s : State) (c : Nat) (r : BitVec 256) (t : Tree) : Prop :=
  (∃ d, d < 4 ∧ (bindPos r ((bindField r 14 2 + d) % 4)).length ≠ t.rowsAt d)
    ∨ ∃ p ∈ rowPlan t (bindField r 14 2) (bindPos r), Occupied s c p

section
variable {s : State} {c l : Nat} {r : BitVec 256} {ln : Launch}

theorem bindNamed_of_wrong (h3 : namesWrong s r ln = true) : s.bindNamed c r l ln = (s, some 3) := if_pos h3

variable (h3 : ¬ namesWrong s r ln = true)
include h3

theorem bindNamed_of_rows (h4 : rowsWrong s c r ln.tree) : s.bindNamed c r l ln = (s, some 4) :=
  (if_neg h3).trans (if_pos (maskOk_iff.2 h4))

variable (h4 : ¬ rowsWrong s c r ln.tree)
include h4

theorem bindNamed_of_regs (h5 : (!(s.use c (bindField r 8 6)).regsOk ln.tree (bindField r 14 2)) = true) :
    s.bindNamed c r l ln = (s, some 5) :=
  (if_neg h3).trans ((if_neg (fun h => h4 (maskOk_iff.1 h))).trans (if_pos h5))

variable (h5 : ¬ (!(s.use c (bindField r 8 6)).regsOk ln.tree (bindField r 14 2)) = true)
include h5

theorem bindNamed_of_scratch (h6 : (s.use c (bindField r 8 6)).scratchPlan ln.tree (ln.det == 2) (ln.nodeNeeds ln.next) = none) :
    s.bindNamed c r l ln = (s, some 6) := by
  refine (if_neg h3).trans ((if_neg (fun h => h4 (maskOk_iff.1 h))).trans ((if_neg h5).trans ?_))
  rw [h6]

/-- A place record that fails none of the first five checks, and whose scratch fits. -/
theorem bindNamed_of_fit {sp : Nat × Nat × List (Nat × Nat × Nat)}
    (h6 : (s.use c (bindField r 8 6)).scratchPlan ln.tree (ln.det == 2) (ln.nodeNeeds ln.next) = some sp) :
    s.bindNamed c r l ln
      = if !(s.use c (bindField r 8 6)).capsOk ln.tree (bindField r 14 2) || !instanceOk s ln ln.next c
          || !s.inPart (s.ctx (bindField r 8 6)).part c then (s, some 6)
        else (s.placeBlock c l ln ⟨bindField r 0 4, bindField r 14 2, rowPlan ln.tree (bindField r 14 2) (bindPos r), sp.1, sp.2.1,
          sp.2.2⟩, none) := by
  refine (if_neg h3).trans ((if_neg (fun h => h4 (maskOk_iff.1 h))).trans ((if_neg h5).trans ?_))
  rw [h6]

end

/-- The answer to a place record is the number of the first check that it fails (R373). -/
theorem bindPlace_answers (s : State) (c : Nat) (r : BitVec 256) : PlaceAnswer s c r (s.bindPlace c r).2 := by
  unfold PlaceAnswer
  dsimp only
  rw [← coreTaken_iff]
  refine ⟨fun h1 => by rw [bindPlace_of_slot h1], fun h1 h2 => by rw [bindPlace_of_core h1 h2],
    fun h1 h2 hl => by rw [bindPlace_of_unnamed h1 h2 hl], fun l ln h1 h2 hl hln => ?_⟩
  rw [bindPlace_of_named h1 h2 hl hln, ← namesWrong_iff, ← regsOk_iff]
  refine ⟨fun h3 => by rw [bindNamed_of_wrong h3], fun h3 h4 => by rw [bindNamed_of_rows h3 h4],
    fun h3 h4 h5 => by rw [bindNamed_of_regs h3 h4 h5], fun h3 h4 h5 h6 => ?_, fun h3 h4 h5 h6 => ?_⟩
  · cases hsp : (s.use c (bindField r 8 6)).scratchPlan ln.tree (ln.det == 2) (ln.nodeNeeds ln.next) with
    | none => rw [bindNamed_of_scratch h3 h4 h5 hsp]
    | some sp =>
      rw [hsp] at h6
      rw [bindNamed_of_fit h3 h4 h5 hsp, if_pos (by simpa [or_assoc] using h6)]
  · cases hsp : (s.use c (bindField r 8 6)).scratchPlan ln.tree (ln.det == 2) (ln.nodeNeeds ln.next) with
    | none => exact absurd (.inl hsp) h6
    | some sp =>
      rw [hsp] at h6
      rw [bindNamed_of_fit h3 h4 h5 hsp, if_neg (by simpa [or_assoc] using h6)]

theorem bindNamed_cases (s : State) (c : Nat) (r : BitVec 256) (l : Nat) (ln : Launch) : (∃ n, s.bindNamed c r l ln = (s, some n))
    ∨ ∃ p : Plan, p.slot = bindField r 0 4 ∧ p.q0 = bindField r 14 2 ∧ p.rows = rowPlan ln.tree p.q0 (bindPos r)
      ∧ s.bindNamed c r l ln = (s.placeBlock c l ln p, none) := by
  by_cases h3 : namesWrong s r ln = true
  · exact .inl ⟨3, bindNamed_of_wrong h3⟩
  by_cases h4 : rowsWrong s c r ln.tree
  · exact .inl ⟨4, bindNamed_of_rows h3 h4⟩
  by_cases h5 : (!(s.use c (bindField r 8 6)).regsOk ln.tree (bindField r 14 2)) = true
  · exact .inl ⟨5, bindNamed_of_regs h3 h4 h5⟩
  cases hsp : (s.use c (bindField r 8 6)).scratchPlan ln.tree (ln.det == 2) (ln.nodeNeeds ln.next) with
  | none => exact .inl ⟨6, bindNamed_of_scratch h3 h4 h5 hsp⟩
  | some sp =>
    rw [bindNamed_of_fit h3 h4 h5 hsp]
    split
    · exact .inl ⟨6, rfl⟩
    · exact .inr ⟨_, rfl, rfl, rfl, rfl⟩

/-- A place record changes nothing, or places the next block of its launch at the slot and on the rows that it names (R373). -/
theorem bindPlace_cases (s : State) (c : Nat) (r : BitVec 256) : (∃ n, s.bindPlace c r = (s, some n))
    ∨ ∃ l ln p, bindLaunch s r = some l ∧ s.launch? l = some ln ∧ p.slot = bindField r 0 4 ∧ p.q0 = bindField r 14 2
      ∧ p.rows = rowPlan ln.tree p.q0 (bindPos r) ∧ s.bindPlace c r = (s.placeBlock c l ln p, none) := by
  by_cases h1 : (s.block? c (bindField r 0 4)).isSome = true
  · exact .inl ⟨1, bindPlace_of_slot h1⟩
  by_cases h2 : coreTaken s c (bindField r 8 6) = true
  · exact .inl ⟨2, bindPlace_of_core h1 h2⟩
  cases hl : bindLaunch s r with
  | none => exact .inl ⟨3, bindPlace_of_unnamed h1 h2 hl⟩
  | some l =>
    cases hln : s.launch? l with
    | none =>
      refine .inl ⟨3, ?_⟩
      rw [bindPlace_of_free h1, if_neg h2, hl, Option.bind_some, hln]
      rfl
    | some ln =>
      rw [bindPlace_of_named h1 h2 hl hln]
      rcases bindNamed_cases s c r l ln with ⟨n, h⟩ | ⟨p, hslot, hq0, hrows, h⟩
      · exact .inl ⟨n, h⟩
      · exact .inr ⟨l, ln, p, rfl, hln, hslot, hq0, hrows, h⟩

/-! ### A resume record -/

theorem rowsTaken_iff {s : State} {c x : Nat} {b : Block} : b.rowPlaces.any (fun e => (s.useNow c x).rows.contains e) = true
    ↔ ∃ p ∈ b.rowPlaces, Occupied s c p := by
  simp only [List.any_eq_true, List.contains_iff_mem, mem_useNow_rows]

section
variable {s : State} {c : Nat} {r : BitVec 256}

theorem bindResume_of_slot (h1 : (s.block? c (bindField r 0 4)).isSome = true) : s.bindResume c r = (s, some 1) :=
  if_pos ((contains_useNow_slots s c _ (bindField_lt r 0 4)).trans h1)

variable (h1 : ¬ (s.block? c (bindField r 0 4)).isSome = true)
include h1

theorem bindResume_of_core (h2 : coreTaken s c (bindField r 8 6) = true) : s.bindResume c r = (s, some 2) :=
  (if_neg fun h => h1 ((contains_useNow_slots s c _ (bindField_lt r 0 4)).symm.trans h)).trans (if_pos h2)

variable (h2 : ¬ coreTaken s c (bindField r 8 6) = true)
include h2

theorem bindResume_of_unnamed (hl : bindLaunch s r = none) : s.bindResume c r = (s, some 3) := by
  refine (if_neg fun h => h1 ((contains_useNow_slots s c _ (bindField_lt r 0 4)).symm.trans h)).trans ((if_neg h2).trans ?_)
  rw [hl]

variable {l : Nat} (hl : bindLaunch s r = some l)
include hl

theorem bindResume_of_unmatched (h : ∀ v ∈ savedBlocks s l, resumeMatches s c r v = false) : s.bindResume c r = (s, some 0) := by
  refine (if_neg fun h => h1 ((contains_useNow_slots s c _ (bindField_lt r 0 4)).symm.trans h)).trans ((if_neg h2).trans ?_)
  rw [hl]
  dsimp only
  rw [List.find?_eq_none.2 fun v hv => ne_true_of_eq_false (h v hv)]

/-- A resume record that repeats a place record (R373). -/
theorem bindResume_of_matched {v : SavedAt} (hv : (savedBlocks s l).find? (resumeMatches s c r) = some v) : s.bindResume c r
    = if v.blk.rowPlaces.any (fun e => (s.useNow c (bindField r 8 6)).rows.contains e) then (s, some 4)
      else if !(s.useNow c (bindField r 8 6)).regsOk (s.launchOf v.blk).tree v.blk.q0 then (s, some 5)
      else if canResume s v then (s.resumeBlock v, none) else (s, some 6) := by
  refine (if_neg fun h => h1 ((contains_useNow_slots s c _ (bindField_lt r 0 4)).symm.trans h)).trans ((if_neg h2).trans ?_)
  rw [hl]
  dsimp only
  rw [hv]

end

/-! ### Pre-emption and deadlines -/

/-- The cores chosen are those given, and cores that may be pre-empted (R371). -/
theorem selectCores_preemptable {s : State} {l part cls : Nat} (going : List Nat) (order taken : List Nat)
    (h : ∀ c ∈ taken, c ∈ going ∨ preemptable s part cls c = true) :
    ∀ c ∈ selectCores s l part cls order taken, c ∈ going ∨ preemptable s part cls c = true := by
  have hadd : ∀ (g old : List Nat), (∀ c ∈ old, c ∈ going ∨ preemptable s part cls c = true) →
      (∀ c ∈ g, preemptable s part cls c = true) → ∀ c ∈ addNew old g, c ∈ going ∨ preemptable s part cls c = true := by
    intro g old hold hg
    refine List.foldlRecOn (motive := fun ls : List Nat => ∀ c ∈ ls, c ∈ going ∨ preemptable s part cls c = true) g _ hold
      fun ls hls a ha => ?_
    split
    · exact hls
    · intro c hc
      rcases List.mem_cons.1 hc with rfl | hc
      · exact .inr (hg _ ha)
      · exact hls c hc
  induction order generalizing taken with
  | nil => exact h
  | cons c rest ih =>
    unfold selectCores
    split
    · exact h
    · dsimp only
      split
      · exact ih taken h
      next hgo =>
        rw [Bool.or_eq_true, not_or, Bool.not_eq_true', Bool.not_eq_false, List.all_eq_true] at hgo
        exact ih _ (hadd _ _ h hgo.2)

/-- A chosen core is pre-empted from the context of its blocks (R371). -/
def State.preemptFor (s : State) (c : Nat) : State :=
  match (Tab.vals (s.core c).arch.blocks).head? with
  | some b => s.startPreempt c (s.ctxOf b)
  | none => s

section
variable {x rec l : Nat} {ls : List Nat} {ln : Launch} {s : State} (hln : s.launch? l = some ln)
include hln

theorem preemptionReserveReached_preempts (hf : s.fwSwitch = .none) (hs : s.stopped = false)
    (hl : recLaunches s x rec (reserveReached s) = l :: ls) :
    let part := (s.ctx x).part
    let going := s.coreNums.filter (fun c => (s.core c).preempt.isSome)
    let order := (s.coreNums.filter (preemptable s part ln.cls)).insertionSort (fun a b => keysGe (rankKeys s a) (rankKeys s b))
    let cores := (selectCores s l part ln.cls order going).filter (fun c => !going.contains c)
    Completes (.preemptionReserveReached x rec) s (cores.foldl State.preemptFor s) := by
  have hexec : exec (.preemptionReserveReached x rec) s = execPreemptionReserveReached x rec s := rfl
  have hgoes : ¬ (s.fwSwitch != .none || s.stopped) = true := by rw [hf, hs]; decide
  intro part going order cores
  rw [Completes, hexec, execPreemptionReserveReached, if_neg hgoes, hl]
  dsimp only
  rw [hln]
  rfl

theorem deadlinePassed_reports (hl : recLaunches s x rec (deadlineDue s) = l :: ls) :
    Completes (.deadlinePassed x rec) s ((s.updLaunch l (fun ln => { ln with lateMark := true })).post x 0x41 0
      [(0x10, natLe 8 ln.rec_), (0x18, natLe 8 (ln.queue % 2 ^ 16))]) := by
  have hexec : exec (.deadlinePassed x rec) s = execDeadlinePassed x rec s := rfl
  rw [Completes, hexec, execDeadlinePassed, hl]
  dsimp only
  rw [hln]

end

/-- Settles O50: the order of a pass, the turn of a launch, the choice of a core, placement, resumption, and the records by their checks. -/
theorem schedulingEvents : Obligations.SchedulingEvents := by
  refine ⟨fun p s hf hs => schedulingPass_goes hf hs, fun p n s => passes_succ s p n,
    fun p s => ⟨fun l => mem_scheduled, scheduled_pairwise s p⟩, fun l ahead s => ?turn, fun l ln s hl => ?place,
    fun ln lin c p s h => ?choice, fun c l ln p s hl => placeBlock_places hl, fun l ln s hl hst hp => running_status hl hst hp,
    fun v sv s hsv hslot hserv hq hq' h => ?resume, fun c r s hc hh => ⟨fun hop hr => ?bindPlace, fun hop hr => ?bindResume,
      fun hop hr => ?bindPreempt⟩, fun x rec l ls ln s hf hs hl hln => ⟨fun c hc => ?chosen, ?reserve⟩,
    fun x rec l ls ln s hl hln => deadlinePassed_reports hln hl⟩
  case turn =>
    refine ⟨passTurn_waits, passTurn_goes, fun h => ?_, fun v n hv => resumeAll_succ hv⟩
    rw [h]
    rfl
  case place =>
    refine ⟨placeTurn_idle hl, fun hu hlow hone => ?_, fun hu hlow hp hn => ?_⟩
    · have hcount : (if ln.tree.persist ≠ 0 && ln.next = 0 then ln.tree.persist else 1) = 1 := if_neg (by simpa [or_iff_not_imp_left] using hone)
      rw [placeTurn_goes hl hu hlow, hcount, placeMany_one hl]
      exact ⟨fun hnone => by rw [hnone]; rfl, fun c p hsome => by rw [hsome]; rfl⟩
    · rw [placeTurn_goes hl hu hlow, if_pos (by simp [hp, hn])]
  case choice =>
    obtain ⟨hplan, hbest⟩ := chooseCore_some h
    obtain ⟨hpart, htaken, hinst, hfree, hbelow, hrows⟩ := chooseCore_free hplan
    exact ⟨hplan, hpart, htaken, hinst, hfree, hbelow, hrows, hbest⟩
  case resume =>
    obtain ⟨hblock, hsaved⟩ := State.resumed_keeps hserv hq hq' h
    exact ⟨_, State.resumeBlock_resumes hsv, hblock, hsaved⟩
  case bindPlace =>
    have hdone : Completes (.bindPlace c r) s (s.bindPlace c r).1 := by
      have hexec : exec (.bindPlace c r) s = bindOp 0 c r s := rfl
      rw [Completes, hexec, bindOp_of_op hop hh, bind_of_place hc hop hr]
    refine ⟨_, bindPlace_answers s c r, rfl, hdone, fun hsome => ?_, fun hnone => ?_⟩
    · rcases bindPlace_cases s c r with ⟨n, h⟩ | ⟨l, ln, p, -, -, -, -, -, h⟩
      · rwa [h] at hdone
      · exact absurd (by rw [h]) hsome
    · rcases bindPlace_cases s c r with ⟨n, h⟩ | ⟨l, ln, p, hl, hln, hslot, hq0, hrows, h⟩
      · rw [h] at hnone
        exact absurd hnone (Option.some_ne_none n)
      · rw [h] at hdone
        exact ⟨l, ln, p, hl, hln, hslot, hq0, hrows, hdone⟩
  case bindResume =>
    have hexec : exec (.bindResume c r) s = bindOp 1 c r s := rfl
    intro x bad1 bad2
    have htaken : coreTaken s c x = true ↔ bad2 := coreTaken_iff s c x
    refine ⟨by rw [Completes, hexec, bindOp_of_op hop hh, bind_of_resume hc hop hr], bindResume_of_slot,
      fun h1 h2 => bindResume_of_core h1 (htaken.2 h2), fun h1 h2 => bindResume_of_unnamed h1 (mt htaken.1 h2),
      fun l h1 h2 => bindResume_of_unmatched h1 (mt htaken.1 h2), fun l v h1 h2 hl hv => ?_⟩
    intro bad4 bad5
    rw [bindResume_of_matched h1 (mt htaken.1 h2) hl hv]
    have hrows : v.blk.rowPlaces.any (fun e => (s.useNow c (bindField r 8 6)).rows.contains e) = true ↔ bad4 := rowsTaken_iff
    have hregs : (!(s.useNow c (bindField r 8 6)).regsOk (s.launchOf v.blk).tree v.blk.q0) = true ↔ bad5 := by
      rw [Bool.not_eq_true']
    refine ⟨fun h4 => if_pos (hrows.2 h4), fun h4 h5 => ?_, fun h4 h5 h6 => ?_, fun h4 h5 h6 => ?_⟩
    · exact (if_neg (mt hrows.1 h4)).trans (if_pos (hregs.2 h5))
    · exact (if_neg (mt hrows.1 h4)).trans ((if_neg (mt hregs.1 h5)).trans (if_neg (ne_true_of_eq_false h6)))
    · exact (if_neg (mt hrows.1 h4)).trans ((if_neg (mt hregs.1 h5)).trans (if_pos h6))
  case bindPreempt =>
    have hexec : exec (.bindPreempt c r) s = bindOp 2 c r s := rfl
    rw [Completes, hexec, bindOp_of_op hop hh, bind_of_preempt hc hop hr]
  case chosen =>
    obtain ⟨hsel, hnew⟩ := List.mem_filter.1 hc
    refine (selectCores_preemptable _ _ _ (fun d hd => .inl hd) c hsel).resolve_left fun hgoing => ?_
    rw [List.contains_iff_mem.2 hgoing] at hnew
    exact absurd hnew (by decide)
  case reserve => exact preemptionReserveReached_preempts hln hf hs hl

end Sys2Proof.Machine
end

section
/-! Proof of O52: pre-emption saves a core and empties it (R389, R390). -/

namespace Sys2Proof.Machine

/-- Without transfers in flight, none lands. -/
theorem State.landTransfers_of_none {s : State} {c : Nat} (h : ∀ e ∈ (s.core c).arch.blocks, e.2.ldx = []) :
    s.landTransfers c = s := by
  unfold State.landTransfers
  refine List.foldlRecOn (motive := (· = s)) _ _ rfl fun t ht e he => ?_
  rw [h e he]
  exact ht

/-- The save of a core whose chunk is fresh, once nothing is in flight there. -/
theorem exec_preemptComplete_of_fresh {c x : Nat} {s : State} (hp : (s.core c).preempt = some x)
    (hfresh : (s.core c).chunk.fresh = true) (hended : (s.core c).chunk.ended = false) (hbusy : lehrsBusy s c = false)
    (hldx : ∀ e ∈ (s.core c).arch.blocks, e.2.ldx = []) :
    Completes (.preemptComplete c) s ((s.finishUnits c).savePreempted c x) := by
  have hexec : exec (.preemptComplete c) s = execPreemptComplete c s := rfl
  have hnone : (Tab.vals (s.core c).arch.blocks).any (fun (b : Block) => b.ldx.any (fun t => t.failed.isNone)) = false := by
    rw [List.any_eq_false]
    intro b hb
    obtain ⟨e, he, rfl⟩ := List.mem_map.1 hb
    rw [hldx e he]
    exact Bool.false_ne_true
  rw [Completes, hexec, execPreemptComplete, hp]
  simp only [hended, hbusy, hfresh, State.landTransfers_of_none hldx, hnone, Bool.or_self, Bool.not_true, Bool.false_eq_true,
    if_false]

/-- A core whose chunk is open ends it first. -/
theorem exec_preemptComplete_of_open {c x : Nat} {s : State} (hp : (s.core c).preempt = some x)
    (hopen : (s.core c).chunk.fresh = false) (hended : (s.core c).chunk.ended = false) (hbusy : lehrsBusy s c = false) :
    Completes (.preemptComplete c) s (s.endChunk c) := by
  have hexec : exec (.preemptComplete c) s = execPreemptComplete c s := rfl
  have hend : s.endOpen c = s.endChunk c := by rw [State.endOpen, hopen, hended]; rfl
  rw [Completes, hexec, execPreemptComplete, hp]
  simp only [hended, hbusy, hopen, hend, Bool.or_self, Bool.not_false, Bool.false_eq_true, if_false, if_true]

/-- The core as pre-emption leaves it, with what it held kept for its context (R389, R390). -/
def CoreSt.emptied (k : CoreSt) (x : Nat) : CoreSt :=
  { k with
    arch := { CoreArch.new with
      iNum := k.arch.iNum, status := k.arch.status, cause := k.arch.cause, epc := k.arch.epc, emask := k.arch.emask
      eaddr := k.arch.eaddr, grpEntry := k.arch.grpEntry, nbr := k.arch.nbr }
    chunk := Chunk.new, preempt := none, prioReq := false, again := 0
    saved := k.saved ++ [⟨x, { k.arch with blocks := Tab.mapV k.arch.blocks (fun _ b => b.saved) }⟩] }

/-- The state in which the save of a core is reported. -/
def State.emptied (s : State) (c x : Nat) : State :=
  { (s.setCore c ((s.core c).emptied x)).writeSave x with priority := s.priority.filter (fun p => p != c) }

theorem State.emptied_core (s : State) (c x : Nat) : (s.emptied c x).core c = (s.core c).emptied x := State.core_setCore ..

theorem State.emptied_mem (s : State) (c x : Nat) : (s.emptied c x).mem = (s.writeSave x).mem := rfl

theorem State.savePreempted_cases (s : State) (c x : Nat) : s.savePreempted c x = s.emptied c x
    ∨ ∃ b n, s.savePreempted c x = (s.emptied c x).post x 0x42 0
      [(0x10, natLe 8 ((s.emptied c x).launchOf b).rec_), (0x18, natLe 8 c), (0x20, natLe 8 n)] := by
  unfold State.savePreempted
  dsimp only
  split
  · exact .inl rfl
  next b _ => exact .inr ⟨b, _, rfl⟩

/-- Settles O52: each event by its case, the save by the state in which it is reported. -/
theorem preemptionSaves : Obligations.PreemptionSaves := by
  refine ⟨fun c x s hp hfresh hended hbusy hldx => exec_preemptComplete_of_fresh hp hfresh hended hbusy hldx,
    fun c x s hp hopen hended hbusy => exec_preemptComplete_of_open hp hopen hended hbusy, fun c x s => ?_,
    fun c s x hp hended hprio => ?_⟩
  · refine ⟨s.emptied c x, ?_, ?_, ?_, s.emptied_mem c x, ?_, s.savePreempted_cases c x⟩
    all_goals rw [State.emptied_core]; rfl
  · have hexec : exec (.preemptSquashTimeout c) s = execPreemptSquashTimeout c s := rfl
    rw [Completes, hexec, execPreemptSquashTimeout, hp, hended, hprio]
    rfl

end Sys2Proof.Machine
end

section
/-! Proof of O53: translation requests, and their answers (R383, R384). -/

namespace Sys2Proof.Machine

/-- The requests of a tag have been posted. -/
def State.postedTag (s : State) (tag : Nat) : State :=
  { s with xreqs := s.xreqs.map (fun (r : XReq) => if r.tag = tag then ({ r with posted := true } : XReq) else r) }

theorem State.postedTag_posted {s : State} {tag : Nat} {r : XReq} (hr : r ∈ (s.postedTag tag).xreqs) (ht : r.tag = tag) :
    r.posted = true := by
  obtain ⟨o, -, rfl⟩ := List.mem_map.1 hr
  split at ht
  next h => rw [if_pos h]
  next h => exact absurd ht h

section
variable {p : Nat} {q : XReq} {s : State} (h : s.xreqs.find? (fun q => !q.posted && (s.ctx q.ctx).part == p) = some q)
include h

/-- The oldest request goes to the host (R384). -/
theorem request_of_host (hq : q.host = true) : Completes (.translationRequestService p) s ((s.postedTag q.tag).post q.ctx 0x60 0
    [(0x10, natLe 8 (q.gran * 65536)), (0x18, natLe 1 q.cls), (0x19, natLe 1 q.sub), (0x1A, natLe 2 q.tag),
      (0x1C, natLe 4 (waitingCount s q.tag))]) := by
  have hexec : exec (.translationRequestService p) s = execTranslationRequestService p s := rfl
  rw [Completes, hexec, execTranslationRequestService, h]
  exact if_pos hq

/-- It is answered by policy (R384). -/
theorem request_of_policy (hq : q.host = false) : Completes (.translationRequestService p) s
    { s.postedTag q.tag with xanswers := s.xanswers ++ [(q.tag, policyRefuses s q)] } := by
  have hexec : exec (.translationRequestService p) s = execTranslationRequestService p s := rfl
  rw [Completes, hexec, execTranslationRequestService, h]
  exact if_neg (hq ▸ Bool.false_ne_true)

end

/-- The host's answer to a request that has been posted and not answered (R384). -/
theorem answerWrite_of_posted {x : Nat} {v : Word} {s : State} (hq : ∃ q ∈ s.xreqs, q.tag = field v 0 16 ∧ q.ctx = x ∧ q.posted = true)
    (ha : ∀ a ∈ s.xanswers, a.1 ≠ field v 0 16) : Completes (.translationAnswerWrite x v) s
      { s with xanswers := s.xanswers ++ [(field v 0 16, v.getLsbD 16)] } := by
  have hexec : exec (.translationAnswerWrite x v) s = execTranslationAnswerWrite x v s := rfl
  have hposted : s.xreqs.any (fun q => q.tag == field v 0 16 && q.ctx == x && q.posted) = true := by
    obtain ⟨q, hq, ht, hx, hp⟩ := hq
    refine List.any_eq_true.2 ⟨q, hq, ?_⟩
    rw [ht, hx, hp, beq_self_eq_true, beq_self_eq_true]
    rfl
  have hfree : s.xanswers.any (fun a => a.1 == field v 0 16) = false :=
    List.any_eq_false.2 fun a h => beq_iff_eq.not.2 (ha a h)
  rw [Completes, hexec, execTranslationAnswerWrite]
  exact congrArg Host.Outcome.next (if_pos (by rw [hposted, hfree]; rfl))

/-- Settles O53: each event by the table of requests and answers in which it acts. -/
theorem translationService : Obligations.TranslationService := by
  refine ⟨fun p q s h => ⟨fun hq => ?_, fun hq => ?_⟩, fun x v s hq ha => ⟨_, answerWrite_of_posted hq ha, rfl, rfl⟩,
    fun p tag a q s ha hq => ?_⟩
  · exact ⟨_, request_of_host h hq, fun r hr ht => State.postedTag_posted hr ht, rfl, rfl⟩
  · exact ⟨_, request_of_policy h hq, rfl, fun r hr ht => State.postedTag_posted hr ht, rfl⟩
  · have hexec : exec (.translationAnswer p tag) s = execTranslationAnswer p tag s := rfl
    refine ⟨{ s with xanswers := s.xanswers.filter (fun b => b.1 != tag), xreqs := s.xreqs.filter (fun r => r.tag != tag) },
      ?_, fun r hr => ?_, fun r hr => ?_, rfl⟩
    · rw [Completes, hexec, execTranslationAnswer, ha, hq]
    · exact bne_iff_ne.1 (List.mem_filter.1 hr).2
    · exact bne_iff_ne.1 (List.mem_filter.1 hr).2

end Sys2Proof.Machine
end

section
/-! Proof of O54: what a reset leaves, and how the boot goes on (R423-R425). -/

namespace Sys2Proof.Machine

/-! ### What a reset leaves -/

/-- The state of a reset before the laser modules that do not work have taken their light away. -/
def State.rebootLit (s : State) : State :=
  let sl := s.flashSlots
  { State.reset with
    fwCtl := s.fwCtl &&& 0x100, fwSlotA := sl.1, fwSlotB := sl.2, fwValidA := slotValid sl.1, fwValidB := slotValid sl.2
    image := (bootImage (s.fwCtl.getLsbD 8) (slotValid sl.1) (slotValid sl.2)).getD false
    active := 0, repair := s.repair, portFlash := s.portFlash, bootStep := 1, bar2Log := s.bar2Log
    lasers := (s.lasers.map (fun (e : Nat × Laser) => (e.1, e.2.rebooted))).filter (fun e => e.2 != Laser.new)
    links := (List.range 32).map (fun j => (j, (Tab.get MemLink.new s.links j).rebooted))
    agenda := s.agenda, tick := s.tick }

/-- From `s` to `t` only the light at ports may have changed. -/
def OnlyLight (s t : State) : Prop :=
  ∃ ps, t = { s with ports := ps } ∧ ∀ p, (t.port p).en = (s.port p).en ∧ (t.port p).state = (s.port p).state

theorem OnlyLight.dark {s t : State} (h : OnlyLight s t) (p : Nat) (m : BitVec 16) :
    OnlyLight s (t.updPort p (fun q => { q with lit := q.lit &&& ~~~m })) := by
  obtain ⟨ps, hps, hports⟩ := h
  refine ⟨_, by rw [State.updPort, hps], fun q => ?_⟩
  by_cases hq : q = p
  · subst hq
    rw [State.port_updPort]
    exact hports q
  · rw [State.port_updPort_ne _ _ hq]
    exact hports q

/-- A reset. -/
theorem reboot_onlyLight (s : State) : OnlyLight s.rebootLit s.reboot := by
  have h0 : OnlyLight s.rebootLit s.rebootLit := ⟨s.rebootLit.ports, rfl, fun _ => ⟨rfl, rfl⟩⟩
  unfold State.reboot
  exact List.foldlRecOn (motive := OnlyLight s.rebootLit) _ _ h0 fun t ht e _ =>
    List.foldlRecOn (motive := OnlyLight s.rebootLit) _ _ ht fun u hu p _ => hu.dark p _

/-- What stands in a state that a reset of `s` leaves (R345, R403, R423-R425). -/
theorem reboot_leaves (s : State) : (∀ a, Memory.byte s.reboot.mem a = 0) ∧ s.reboot.launches = [] ∧ s.reboot.msix = []
    ∧ s.reboot.cores = [] ∧ s.reboot.ctxs = [] ∧ (∀ p, (s.reboot.port p).en = false ∧ (s.reboot.port p).state = 0)
    ∧ s.reboot.clusterMask = [] ∧ s.reboot.repair = s.repair ∧ s.reboot.active = 0 ∧ s.reboot.bootStep = 1 ∧ s.reboot.bootFail = 0
    ∧ s.reboot.fwValidA = slotValid s.reboot.fwSlotA ∧ s.reboot.fwValidB = slotValid s.reboot.fwSlotB := by
  obtain ⟨ps, hps, hports⟩ := reboot_onlyLight s
  rw [hps] at hports ⊢
  exact ⟨fun _ => rfl, rfl, rfl, rfl, rfl, hports, rfl, rfl, rfl, rfl, rfl, rfl, rfl⟩

/-! ### The boot -/

section
variable {s : State}

/-- A boot that fails stops at its step (R424). -/
theorem bootNext_fails (h : s.bootStep = 2 ∨ s.bootStep = 3 ∨ s.bootStep = 4) :
    s.bootNext true = { s with bootStep := 15, bootFail := s.bootStep } := by
  unfold State.bootNext
  rcases h with h | h | h <;> rw [h] <;> rfl

theorem bootNext_two (h : s.bootStep = 2) : s.bootNext false = { s with
    bootStep := 3
    links := (s.links.map (fun (e : Nat × MemLink) => (e.1, e.2.up))).filter (fun e => e.2 != MemLink.new) } := by
  unfold State.bootNext
  rw [h]
  rfl

theorem bootNext_three (h : s.bootStep = 3) :
    s.bootNext false = { s with bootStep := 4, active := activeClusters (s.repair ++ Config.selfTest s.tick) } := by
  unfold State.bootNext
  rw [h]
  rfl

theorem bootNext_four (h : s.bootStep = 4) : s.bootNext false = { s.trainFlash with bootStep := 5 } := by
  unfold State.bootNext
  rw [h]
  rfl

/-- Step 1 without a valid image (R425). -/
theorem bootNext_one_of_invalid (h : s.bootStep = 1) (ha : s.fwValidA = false) (hb : s.fwValidB = false) (fails : Bool) :
    s.bootNext fails = { s with bootStep := 15, bootFail := 1 } := by
  unfold State.bootNext
  rw [h]
  dsimp only
  rw [ha, hb]
  exact if_pos rfl

theorem bootNext_one_of_good (h : s.bootStep = 1) (hv : s.fwValidA = true ∨ s.fwValidB = true) :
    s.bootNext false = { s with bootStep := 2 } := by
  have hor : (s.fwValidA || s.fwValidB) = true := Bool.or_eq_true_iff.2 hv
  unfold State.bootNext
  rw [h]
  dsimp only
  rw [hor]
  rfl

/-- A boot that fails at step 1 with a valid image in some slot (R425). -/
theorem bootNext_one_of_fail (h : s.bootStep = 1) (hv : s.fwValidA = true ∨ s.fwValidB = true) : s.bootNext true
    = if (if s.image then s.fwValidA else s.fwValidB) && !s.fwTried then { s with image := !s.image, fwTried := true }
      else { s with bootStep := 15, bootFail := 1 } := by
  have hor : (s.fwValidA || s.fwValidB) = true := Bool.or_eq_true_iff.2 hv
  unfold State.bootNext
  rw [h]
  dsimp only
  rw [hor]
  rfl

end

/-- The clusters that step 3 makes active (R424). -/
theorem activeClusters_iff (repair : List Nat) (k : Nat) : (activeClusters repair).getLsbD k = true ↔
    k < 24 ∧ ∀ c ∈ unreplaced repair, c / 16 ≠ k := by
  unfold activeClusters
  by_cases hk : k < 24
  · simp [hk]
  · simp [hk, BitVec.getLsbD_of_ge _ _ (Nat.le_of_not_lt hk)]

/-- A port that is trained at the end of the boot. -/
def Port.train (q : Port) : Port := { q with en := true, state := 1 }

/-- The ports of a list are trained, and no other. -/
theorem trainPorts_port (ps : List Nat) (s : State) (p : Nat) :
    (ps.foldl (fun s p => s.updPort p Port.train) s).port p = if p ∈ ps then (s.port p).train else s.port p := by
  induction ps generalizing s with
  | nil => rfl
  | cons r ps ih =>
    rw [List.foldl_cons, ih]
    by_cases hr : p = r
    · subst hr
      rw [State.port_updPort, if_pos (List.mem_cons_self ..)]
      split <;> rfl
    · rw [State.port_updPort_ne _ _ hr]
      simp only [List.mem_cons, hr, false_or]

theorem trainFlash_port (s : State) (p : Nat) : s.trainFlash.port p
    = if p < 64 ∧ s.portFlash.getLsbD p = true then { s.port p with en := true, state := 1 } else s.port p := by
  have h := trainPorts_port ((List.range 64).filter (fun p => s.portFlash.getLsbD p)) s p
  simp only [List.mem_filter, List.mem_range] at h
  exact h

/-- The key of the reset register (R423). -/
theorem reset_key {v : Word} (hv : v.extractLsb' 16 16 = 0xD04A ∧ v.getLsbD 0 = true) :
    (field v 16 16 = 0xD04A && v.getLsbD 0) = true := by
  have hfield : field v 16 16 = (v.extractLsb' 16 16).toNat := by
    rw [field, BitVec.extractLsb'_toNat, Nat.shiftRight_eq_div_pow]
  rw [hfield, hv.1, hv.2]
  rfl

/-- The slot that step 1 did not try (R425). -/
theorem valid_of_other {s : State} (h : (if s.image then s.fwValidA else s.fwValidB) = true) :
    s.fwValidA = true ∨ s.fwValidB = true := by
  split at h
  · exact .inl h
  · exact .inr h

/-- Step 1 that cannot try the other slot stops (R425). -/
theorem bootNext_one_stops {s : State} (h : s.bootStep = 1)
    (ho : (if s.image then s.fwValidA else s.fwValidB) = false ∨ s.fwTried = true) :
    s.bootNext true = { s with bootStep := 15, bootFail := 1 } := by
  by_cases hv : s.fwValidA = true ∨ s.fwValidB = true
  · rw [bootNext_one_of_fail h hv]
    refine if_neg fun hc => ?_
    obtain ⟨hother, htried⟩ := Bool.and_eq_true_iff.1 hc
    rcases ho with ho | ho
    · exact Bool.false_ne_true (ho.symm.trans hother)
    · rw [ho] at htried
      exact Bool.false_ne_true htried
  · rw [not_or, Bool.not_eq_true, Bool.not_eq_true] at hv
    exact bootNext_one_of_invalid h hv.1 hv.2 true

/-- Settles O54: a reset changes only light after its fresh state, and the boot goes by its step. -/
theorem resetsLeave : Obligations.ResetsLeave := by
  refine ⟨fun s v hv => ?_, fun s h => ⟨fun ha hb b => ?_, fun hv => ?_, fun other hother => ⟨fun ho ht => ?_, fun ho => ?_⟩⟩,
    fun s h => ⟨?_, ?_, ?_, fun h3 k => ?_, fun h4 p => ?_⟩⟩
  · obtain ⟨hmem, hlaunches, hmsix, hcores, hctxs, hports, hmask, hrepair, hactive, hstep, hfail, hvalidA, hvalidB⟩ := reboot_leaves s
    refine ⟨s.reboot, congrArg Host.Outcome.next (if_pos (reset_key hv)), rfl, rfl, hmem, hlaunches, hmsix, fun c => ?_,
      fun x => ?_, hports, fun p => ?_, hrepair, hactive, hstep, hfail, hvalidA, hvalidB⟩
    · rw [State.core, hcores]
      exact ⟨rfl, rfl, rfl, rfl, rfl, rfl⟩
    · rw [State.ctx, hctxs]
      exact ⟨rfl, rfl, rfl, rfl⟩
    · rw [hmask]
      rfl
  · rw [bootNext_one_of_invalid h ha hb]
    exact ⟨rfl, rfl⟩
  · rw [bootNext_one_of_good h hv]
  · rw [hother] at ho
    rw [bootNext_one_of_fail h (valid_of_other ho), ho, ht]
    exact ⟨h, rfl, rfl⟩
  · rw [bootNext_one_stops h (hother ▸ ho)]
    exact ⟨rfl, rfl⟩
  · rw [bootNext_fails h]
  · rw [bootNext_fails h]
  · rcases h with h | h | h
    · rw [bootNext_two h, h]
    · rw [bootNext_three h, h]
    · rw [bootNext_four h, h]
  · rw [bootNext_three h3]
    exact activeClusters_iff _ k
  · rw [bootNext_four h4]
    exact trainFlash_port s p

end Sys2Proof.Machine
end

section
/-! Proof of O55: firmware update events (R425). -/

namespace Sys2Proof.Machine

/-- What the flash's slots hold, which image runs, and memory. -/
def State.images (s : State) : Memory × Bool × Bool × Bool × Option Nat × Option Nat :=
  (s.mem, s.image, s.fwValidA, s.fwValidB, s.fwSlotA, s.fwSlotB)

theorem Ignores.images : Ignores State.images := ⟨fun _ _ => rfl, fun _ _ _ _ _ _ _ => rfl⟩

theorem lookAt_images (s : State) (k n : Nat) : (s.lookAt k n).images = s.images := Ignores.images.outTouch s _

/-- The image that is staged in device memory (R425). -/
def State.staged (s : State) : Nat := leNat (s.readMem (s.fwAddr.toNat % 2 ^ 56) s.fwLen.toNat)

/-- An image that passes its check goes to the slot that is not running (R425). -/
def State.takeImage (t : State) (n : Nat) : State :=
  if t.image then { t with fwState := 2, fwSlotA := some n, fwValidA := true }
  else { t with fwState := 2, fwSlotB := some n, fwValidB := true }

section
variable {s : State} (hs : s.fwState = 1)
include hs

theorem firmwareWritten_of_bad (hc : Config.firmwareCrcOk s.staged = false) :
    s.firmwareWritten = { s.lookAt (s.fwAddr.toNat % 2 ^ 56) s.fwLen.toNat with fwState := 3 } := by
  unfold State.firmwareWritten
  rw [if_neg (not_not.2 hs)]
  exact if_pos (by rw [← State.staged, hc]; rfl)

theorem firmwareWritten_of_good (hc : Config.firmwareCrcOk s.staged = true) :
    s.firmwareWritten = (s.lookAt (s.fwAddr.toNat % 2 ^ 56) s.fwLen.toNat).takeImage s.staged := by
  unfold State.firmwareWritten
  rw [if_neg (not_not.2 hs)]
  exact if_neg (by rw [← State.staged, hc]; decide)

/-- The end of a write of the staged image (R425). -/
theorem firmwareWritten_ends : s.firmwareWritten.image = s.image ∧ s.firmwareWritten.mem = s.mem
    ∧ (Config.firmwareCrcOk s.staged = true → s.firmwareWritten.fwState = 2
      ∧ (s.image = true → s.firmwareWritten.fwSlotA = some s.staged ∧ s.firmwareWritten.fwValidA = true
        ∧ s.firmwareWritten.fwSlotB = s.fwSlotB ∧ s.firmwareWritten.fwValidB = s.fwValidB)
      ∧ (s.image = false → s.firmwareWritten.fwSlotB = some s.staged ∧ s.firmwareWritten.fwValidB = true
        ∧ s.firmwareWritten.fwSlotA = s.fwSlotA ∧ s.firmwareWritten.fwValidA = s.fwValidA))
    ∧ (Config.firmwareCrcOk s.staged = false → s.firmwareWritten.fwState = 3 ∧ s.firmwareWritten.fwValidA = s.fwValidA
      ∧ s.firmwareWritten.fwValidB = s.fwValidB ∧ s.firmwareWritten.fwSlotA = s.fwSlotA ∧ s.firmwareWritten.fwSlotB = s.fwSlotB) := by
  have hsame := lookAt_images s (s.fwAddr.toNat % 2 ^ 56) s.fwLen.toNat
  simp only [State.images, Prod.mk.injEq] at hsame
  obtain ⟨hmem, himage, hvalidA, hvalidB, hslotA, hslotB⟩ := hsame
  cases hc : Config.firmwareCrcOk s.staged with
  | false =>
    rw [firmwareWritten_of_bad hs hc]
    exact ⟨himage, hmem, fun h => absurd h Bool.false_ne_true, fun _ => ⟨rfl, hvalidA, hvalidB, hslotA, hslotB⟩⟩
  | true =>
    rw [firmwareWritten_of_good hs hc, State.takeImage]
    cases hi : s.image with
    | false =>
      rw [if_neg (by rw [himage, hi]; decide)]
      exact ⟨himage.trans hi, hmem, fun _ => ⟨rfl, fun h => absurd h Bool.false_ne_true, fun _ => ⟨rfl, rfl, hslotA, hvalidA⟩⟩,
        fun h => absurd h.symm Bool.false_ne_true⟩
    | true =>
      rw [if_pos (himage.trans hi)]
      exact ⟨himage.trans hi, hmem, fun _ => ⟨rfl, fun _ => ⟨rfl, rfl, hslotB, hvalidB⟩, fun h => absurd h.symm Bool.false_ne_true⟩,
        fun h => absurd h.symm Bool.false_ne_true⟩

end

section
variable {s : State} (hs : s.fwSwitch = .starting)
include hs

theorem switch_runs : s.fwSwitch ≠ .none := by rw [hs]; decide

/-- A switch that ends within its limit (R425). -/
theorem switchResumed_of_early (h : s.mclock ≤ s.fwStart + 10 ^ 8) : Completes .firmwareSwitchResumed s
    ((({ s with fwSwitch := .none, image := !s.image, fwCtl := if s.image then 0 else 0x100 } : State).postDev 0x80 0
      [(0x10, natLe 8 (if s.image then 0 else 1))]).serveBinds) := by
  have hexec : exec .firmwareSwitchResumed s = execFirmwareSwitchResumed s := rfl
  have hearly : switchLate s = false := decide_eq_false (Nat.not_lt.2 h)
  rw [Completes, hexec, execFirmwareSwitchResumed, hearly]
  exact congrArg Host.Outcome.next (if_neg (by simpa using switch_runs hs))

theorem switchTimeout_of_late (h : s.fwStart + 10 ^ 8 < s.mclock) : Completes .firmwareSwitchTimeout s
    ((({ s with fwSwitch := .none } : State).postDev 0x81 0 [(0x10, natLe 8 (if s.image then 0 else 1))]).serveBinds) := by
  have hexec : exec .firmwareSwitchTimeout s = execFirmwareSwitchTimeout s := rfl
  have hlate : switchLate s = true := decide_eq_true h
  rw [Completes, hexec, execFirmwareSwitchTimeout, hlate]
  exact congrArg Host.Outcome.next (if_neg (by simpa using switch_runs hs))

omit hs in
theorem switchTimeout_of_early (h : s.mclock ≤ s.fwStart + 10 ^ 8) : Completes .firmwareSwitchTimeout s s := by
  have hexec : exec .firmwareSwitchTimeout s = execFirmwareSwitchTimeout s := rfl
  have hearly : switchLate s = false := decide_eq_false (Nat.not_lt.2 h)
  rw [Completes, hexec, execFirmwareSwitchTimeout, hearly]
  exact congrArg Host.Outcome.next (if_pos (by simp))

omit hs in
theorem switchResumed_of_late (h : s.fwStart + 10 ^ 8 < s.mclock) : Completes .firmwareSwitchResumed s s := by
  have hexec : exec .firmwareSwitchResumed s = execFirmwareSwitchResumed s := rfl
  have hlate : switchLate s = true := decide_eq_true h
  rw [Completes, hexec, execFirmwareSwitchResumed, hlate]
  exact congrArg Host.Outcome.next (if_pos (by simp))

end

/-- A bind record that has waited alone is taken (R425). -/
theorem serveBinds_one {s : State} {x c : Nat} {r : BitVec 256} (h : s.bindWait = [(x, c, r)]) : s.serveBinds
    = (({ s with bindWait := [] } : State).bind c r).1.bindAnswer x (({ s with bindWait := [] } : State).bind c r).2 := by
  rw [State.serveBinds, h]
  rfl

theorem serveBinds_none {s : State} (h : s.bindWait = []) : s.serveBinds = s := by
  have hsame : ({ s with bindWait := [] } : State) = s := by rw [← h]
  rw [State.serveBinds, h]
  exact hsame

/-- Settles O55: each event by its case, and the switch by its limit. -/
theorem firmwareEvents : Obligations.FirmwareEvents := by
  refine ⟨fun s => rfl, fun s hs => firmwareWritten_ends hs, fun s hs => ?_, fun b s => ?_, fun s hs => ?_,
    fun s => ⟨serveBinds_none, fun x c r h => serveBinds_one h⟩⟩
  · have hexec : exec .firmwareSwitch s = execFirmwareSwitch s := rfl
    refine ⟨_, hexec.trans (congrArg Host.Outcome.next (if_pos hs)), rfl, rfl, rfl, rfl⟩
  · refine ⟨_, rfl, ?_, rfl⟩
    dsimp only
    cases b <;> rfl
  · refine ⟨fun h => ⟨⟨_, switchResumed_of_early hs h, rfl, rfl, rfl, rfl⟩, switchTimeout_of_early h⟩,
      fun h => ⟨⟨_, switchTimeout_of_late hs h, rfl, rfl, rfl, rfl⟩, switchResumed_of_late h⟩⟩

end Sys2Proof.Machine
end

section
/-! Proof of O56: the host's registers of a context (R356, R358, R372, R411, R420, R423). -/

namespace Sys2Proof.Machine

/-! ### Creation and deletion -/

theorem freshEngines_mem (s : State) (x : Nat) : (s.freshEngines x).mem = s.mem :=
  foldl_keeps State.mem (by intros; rfl) _ s

theorem contextCreated_creates {x : Nat} {v : Word} {s : State} (hx : x < 64) (hv : v.getLsbD 0 = true)
    (hc : (s.ctx x).created = false) (hboot : s.bootStep = 5) : Completes (.contextCreatedWrite x v) s
      ((s.freshEngines x).updCtx x (fun c => { c with
        created := true, part := field v 8 3, eseq := 0, streams := [], counters := [], arms := [], slots := [], outNum := []
        stepAddr := none, queues := [] })) := by
  have hexec : exec (.contextCreatedWrite x v) s = execContextCreatedWrite x v s := rfl
  rw [Completes, hexec, execContextCreatedWrite, if_pos hv, if_neg (hc ▸ Bool.false_ne_true)]
  exact if_neg (by simp [hboot, hx])

theorem contextCreated_moves {x : Nat} {v : Word} {s : State} (hv : v.getLsbD 0 = true) (hc : (s.ctx x).created = true) :
    Completes (.contextCreatedWrite x v) s (s.updCtx x (fun c => { c with part := field v 8 3 })) := by
  have hexec : exec (.contextCreatedWrite x v) s = execContextCreatedWrite x v s := rfl
  rw [Completes, hexec, execContextCreatedWrite, if_pos hv]
  exact if_pos hc

theorem contextCreated_deletes {x : Nat} {v : Word} {s : State} (hv : v.getLsbD 0 = false)
    (hl : ∀ ln ∈ s.launches, ln.ctx = x → isEnd ln.status = true) : Completes (.contextCreatedWrite x v) s
      (s.updCtx x (fun c => { c with created := false, part := field v 8 3 })) := by
  have hexec : exec (.contextCreatedWrite x v) s = execContextCreatedWrite x v s := rfl
  have hnone : s.launches.any (fun ln => ln.ctx == x && !isEnd ln.status) = false := by
    refine List.any_eq_false.2 fun ln hln h => ?_
    obtain ⟨hctx, hend⟩ := Bool.and_eq_true_iff.1 h
    rw [hl ln hln (beq_iff_eq.1 hctx)] at hend
    exact Bool.false_ne_true hend
  rw [Completes, hexec, execContextCreatedWrite, if_neg (hv ▸ Bool.false_ne_true)]
  exact if_neg (by rw [hnone, Bool.and_false]; exact Bool.false_ne_true)

/-! ### Invalidation -/

theorem invalidate_invs (s : State) (x va : Nat) (all : Bool) (y : Nat) :
    ((s.invalidate x va all).ctx y).invs = (s.ctx y).invs := by
  have hland : (s.landGone x va all).translations = s.translations := translations_landWhere s _
  have hinvs : ((s.landGone x va all).ctx y).invs = (s.ctx y).invs :=
    congrArg Prod.snd (congrFun (congrArg (·.2.2.2.1) hland) y)
  have hctxs : ∀ ks u, (State.dropCtlbs u x va all ks).ctxs = u.ctxs := fun ks u =>
    foldl_keeps State.ctxs (by intros; rfl) ks u
  have hcores : ∀ cs u, (State.dropTlbs u x va all cs).ctxs = u.ctxs := fun cs u =>
    foldl_keeps State.ctxs (by intros; rfl) cs u
  rw [State.invalidate_eq, State.ctx, hctxs, hcores]
  exact hinvs

/-- An invalidation that takes effect drops, and counts (R358, R420). -/
theorem invTake_keeps (s : State) (x : Nat) (v : Word) (rest : List Word) :
    ((s.invTake x v rest).ctx x).invs = (s.ctx x).invs + 1 ∧ ((s.invTake x v rest).ctx x).invWait = rest
      ∧ ∀ c, ((s.invTake x v rest).core c).tlb = if s.inPart (s.ctx x).part c
        then keptTlb x (invVa v) (v.getLsbD 0) (s.core c).tlb else (s.core c).tlb := by
  refine ⟨?_, ?_, fun c => s.invalidate_tlb x (invVa v) (v.getLsbD 0) c⟩
  · rw [State.invTake, State.ctx_updCtx, ← invalidate_invs s x (invVa v) (v.getLsbD 0) x]
  · rw [State.invTake, State.ctx_updCtx]

section
variable {x : Nat} {v : Word} {s : State}

theorem invalidationWrite_now (hw : (s.ctx x).invWait = []) (hh : invHeld s x v = false) :
    Completes (.invalidationWrite x v) s (s.invTake x v []) := by
  have hexec : exec (.invalidationWrite x v) s = execInvalidationWrite x v s := rfl
  rw [Completes, hexec, execInvalidationWrite]
  exact congrArg Host.Outcome.next (if_pos (by rw [hw, hh]; rfl))

theorem invalidationWrite_waits (hh : invHeld s x v = true) :
    Completes (.invalidationWrite x v) s (s.updCtx x (fun c => { c with invWait := c.invWait ++ [v] })) := by
  have hexec : exec (.invalidationWrite x v) s = execInvalidationWrite x v s := rfl
  rw [Completes, hexec, execInvalidationWrite]
  exact congrArg Host.Outcome.next (if_neg (by rw [hh, Bool.not_true, Bool.and_false]; exact Bool.false_ne_true))

end

/-- The first waiting invalidation goes on once what it drops is not in use (R382). -/
theorem invNext_of_waiting {s : State} {x : Nat} {v : Word} {vs : List Word} (hw : (s.ctx x).invWait = v :: vs) :
    s.invNext x = if invHeld s x v then s else s.invTake x v vs := by
  rw [State.invNext, hw]

/-! ### Forwarded faults -/

/-- A stopped thread that the host lets run on, at its PC or past it (R356). -/
def Thread.released (past : Bool) (th : Thread) : Thread :=
  if th.exited || th.wait != .stopped then th
  else { th with wait := .run, pc := if past then th.pc + 8 else th.pc, acted := th.acted && (if past then th.pc + 8 else th.pc) == th.pc }

theorem Thread.released_ltid (past : Bool) (th : Thread) : (th.released past).ltid = th.ltid := by
  unfold Thread.released
  split <;> rfl

theorem Thread.released_of_stopped {th : Thread} (past : Bool) (hx : th.exited = false) (hw : th.wait = .stopped) :
    (th.released past).wait = .run ∧ (th.released past).pc = if past then th.pc + 8 else th.pc := by
  rw [Thread.released, hx, hw, if_neg (by decide)]
  exact ⟨rfl, rfl⟩

/-- The core after the resumption of a forwarded fault. -/
def CoreArch.releases (a : CoreArch) (past : Bool) (g : Word × FaultRec) : CoreArch :=
  { a.updBlock g.2.slot (fun b => b.mapTids g.2.tids (Thread.released past)) with fwd := a.fwd.filter (fun h => h != g) }

section
variable {x : Nat} {v d : Word} {s : State} {f : FaultRec} {b : Block} (hf : (s.core (field v 16 9)).arch.fwd = [(d, f)])
  (hd : d = v &&& 0xFFFFFFFF00000FFF) (hb : s.block? (field v 16 9) f.slot = some b) (hx : s.ctxOf b = x)
include hf hd hb hx

/-- The resumption of the only forwarded fault of a core (R356). -/
theorem forwardedTrapResume_only : Completes (.forwardedTrapResume x v) s
    (s.updBoth (field v 16 9) (fun a => a.releases (v.getLsbD 12) (d, f))) := by
  have hexec : exec (.forwardedTrapResume x v) s = execForwardedTrapResume x v s := rfl
  have hmine : (d == v &&& 0xFFFFFFFF00000FFF && (match s.block? (field v 16 9) f.slot with
      | some b => s.ctxOf b == x
      | none => false)) = true := by
    rw [hb, hd, beq_self_eq_true]
    exact beq_iff_eq.2 hx
  rw [Completes, hexec, execForwardedTrapResume]
  dsimp only
  rw [hf, List.find?_cons_of_pos (by exact hmine)]
  rfl

omit hf hd hx in
theorem forwardedTrapResume_thread {l : Nat} {th : Thread} (hth : b.thread? l = some th) (hin : f.tids.contains l = true) :
    (s.updBoth (field v 16 9) (fun a => a.releases (v.getLsbD 12) (d, f))).thread? (field v 16 9) f.slot l
      = some (th.released (v.getLsbD 12)) := by
  have hthread : s.thread? (field v 16 9) f.slot l = some th := by rw [State.thread?, hb]; exact hth
  have hmapped := State.thread?_mapTids s (field v 16 9) f.slot f.tids (Thread.released (v.getLsbD 12)) l
    (Thread.released_ltid (v.getLsbD 12))
  rw [hthread, Option.map_some, State.thread?_ltid hthread, if_pos hin] at hmapped
  have hblock : (s.updBoth (field v 16 9) (fun a => a.releases (v.getLsbD 12) (d, f))).block? (field v 16 9) f.slot
      = (s.mapTids (field v 16 9) f.slot f.tids (Thread.released (v.getLsbD 12))).block? (field v 16 9) f.slot := by
    rw [State.block?, State.updBoth, State.core_updCore, State.mapTids, State.updBlock, State.block?, State.core_updArch]
    rfl
  rw [State.thread?, hblock]
  exact hmapped

omit hb hx hd in
theorem forwardedTrapResume_fwd :
    ((s.updBoth (field v 16 9) (fun a => a.releases (v.getLsbD 12) (d, f))).core (field v 16 9)).arch.fwd = [] := by
  rw [State.updBoth, State.core_updCore]
  exact (congrArg (List.filter _) hf).trans (List.filter_cons_of_neg (by simp))

end

/-! ### Bind records -/

/-- The bind record that a context's words and the last one make (R372). -/
def bindRecord (s : State) (x : Nat) (v : Word) : BitVec 256 :=
  v ++ ((s.ctx x).bindW.getD 2 0 ++ ((s.ctx x).bindW.getD 1 0 ++ (s.ctx x).bindW.getD 0 0 : BitVec 128) : BitVec 192)

section
variable {x c : Nat} {v : Word} {s : State} (hm : (s.ctx x).mode.getLsbD 0 = true) (hf : bindField (bindRecord s x v) 8 6 = x)
include hm hf

theorem bindRecordWrite_taken (hh : bindHeld s (bindRecord s x v) = false) : Completes (.bindRecordWrite x c v) s
    ((s.bind c (bindRecord s x v)).1.bindAnswer x (s.bind c (bindRecord s x v)).2) := by
  have hexec : exec (.bindRecordWrite x c v) s = execBindRecordWrite x c v s := rfl
  rw [bindRecord] at hf hh
  rw [Completes, hexec, execBindRecordWrite]
  dsimp only
  rw [hm, Bool.true_or, Bool.not_true, if_neg Bool.false_ne_true, if_neg (not_not.2 hf), if_neg (hh ▸ Bool.false_ne_true)]
  rfl

theorem bindRecordWrite_held (hh : bindHeld s (bindRecord s x v) = true) : Completes (.bindRecordWrite x c v) s
    { s.updCtx x (fun c => { c with bindRes := 0 }) with bindWait := s.bindWait ++ [(x, c, bindRecord s x v)] } := by
  have hexec : exec (.bindRecordWrite x c v) s = execBindRecordWrite x c v s := rfl
  rw [bindRecord] at hf hh
  rw [Completes, hexec, execBindRecordWrite]
  dsimp only
  rw [hm, Bool.true_or, Bool.not_true, if_neg Bool.false_ne_true, if_neg (not_not.2 hf), if_pos hh]
  rfl

end

theorem bindAnswer_res {x : Nat} (hx : x < 64) (s : State) (res : Option Nat) : ((s.bindAnswer x res).ctx x).bindRes
    = match res with
      | none => 1
      | some n => BitVec.ofNat 64 (16 * n) := by
  have hctx := (congrArg (fun t => (State.ctx t x).bindRes) (if_neg (Nat.not_le.2 hx) : s.bindAnswer x res = _)).trans
    (congrArg Ctx.bindRes (State.ctx_updCtx ..))
  cases res with
  | none => exact hctx
  | some n => exact hctx

/-- Settles O56: one lemma per register and case. -/
theorem contextRegisters : Obligations.ContextRegisters := by
  refine ⟨fun x v s hx hv hc hboot => ?_, fun x v s hv hc => contextCreated_moves hv hc, fun x v s hv hl => ?_,
    fun x v s hw => ⟨rfl, fun hh => ?_, fun hh => ?_⟩, fun x v vs s hw => ⟨fun hh => ?_, fun hh => ?_⟩,
    fun x v s d f b l th hf hd hb hx hth hin hexit hstop => ?_, fun x v s => ?_, fun x c v s hx hm hf => ⟨fun hh => ?_, fun hh => ?_⟩⟩
  · refine ⟨_, contextCreated_creates hx hv hc hboot, ?_, ?_, ?_, ?_, ?_, ?_, freshEngines_mem s x⟩
    all_goals rw [State.ctx_updCtx]
  · exact ⟨_, contextCreated_deletes hv hl, by rw [State.ctx_updCtx], rfl⟩
  · obtain ⟨hinvs, hwait, htlb⟩ := invTake_keeps s x v []
    exact ⟨_, invalidationWrite_now hw hh, hinvs, hwait, fun c _ hin => (htlb c).trans (if_pos hin)⟩
  · refine ⟨_, invalidationWrite_waits hh, ?_, ?_, rfl, rfl⟩
    · rw [State.ctx_updCtx]
    · rw [State.ctx_updCtx, hw]
      rfl
  · rw [invNext_of_waiting hw, if_pos hh]
  · rw [invNext_of_waiting hw, if_neg (hh ▸ Bool.false_ne_true)]
    obtain ⟨hinvs, hwait, -⟩ := invTake_keeps s x v vs
    exact ⟨hinvs, hwait⟩
  · obtain ⟨hrun, hpc⟩ := Thread.released_of_stopped (v.getLsbD 12) hexit hstop
    exact ⟨_, _, forwardedTrapResume_only hf hd hb hx, forwardedTrapResume_thread hb hth hin, hrun, hpc,
      forwardedTrapResume_fwd hf⟩
  · exact ⟨_, rfl, by rw [State.ctx_updCtx], rfl, rfl⟩
  · exact ⟨_, bindRecordWrite_taken hm hf hh, bindAnswer_res hx _ _⟩
  · exact ⟨_, bindRecordWrite_held hm hf hh, congrArg Ctx.bindRes (State.ctx_updCtx s x (fun c => { c with bindRes := 0 })),
      rfl, rfl, rfl⟩

end Sys2Proof.Machine
end

section
/-! Proof of O57: the host's registers and memory, reach groups, and the release of a quarantined line (R388, R418-R421, R427). -/

namespace Sys2Proof.Machine

/-! ### Registers -/

theorem exec_registerWrite_device {off : Nat} (h8 : off % 8 = 0) (h : off < 0x1000) (v : Word) (s : State) :
    Completes (.registerWrite off v) s (s.deviceWrite off v) := by
  have hexec : exec (.registerWrite off v) s = execRegisterWrite off v s := rfl
  rw [Completes, hexec, execRegisterWrite, if_neg (not_not.2 h8), if_pos h]

/-- A plain device register reads as written (R420). -/
theorem deviceRegister_reads {off : Nat} (h : off = 0x018 ∨ off = 0x030 ∨ off = 0x0C8 ∨ off = 0x0D0 ∨ off = 0x0E0) (v : Word)
    (s : State) : off % 8 = 0 ∧ off < 0x1000 ∧ hostRead (s.deviceWrite off v) off
        = (if off = 0x018 then BitVec.ofNat 64 ((v &&& 0x00FFFFFFFFFFFFFF).toNat / 2 ^ s.bar2Log * 2 ^ s.bar2Log) else v)
      ∧ (s.deviceWrite off v).mem = s.mem ∧ (s.deviceWrite off v).cores = s.cores := by
  rcases h with rfl | rfl | rfl | rfl | rfl
  all_goals exact ⟨rfl, by decide, rfl, rfl, rfl⟩

/-- The mode register of a context (R420). -/
theorem modeRegister_write {x : Nat} (hx : x < 64) (v : Word) (s : State) :
    Completes (.registerWrite (0x10000 + 0x1000 * x + 0x18) v) s (s.updCtx x (fun c => { c with mode := v.extractLsb' 0 6 })) := by
  have hexec : exec (.registerWrite (0x10000 + 0x1000 * x + 0x18) v) s
    = execRegisterWrite (0x10000 + 0x1000 * x + 0x18) v s := rfl
  have hctx : (0x10000 + 0x1000 * x + 0x18 - 0x10000) / 0x1000 = x := by omega
  have hoff : (0x10000 + 0x1000 * x + 0x18) % 0x1000 = 0x18 := by omega
  have hin : (decide (0x10000 ≤ 0x10000 + 0x1000 * x + 0x18) && decide (0x10000 + 0x1000 * x + 0x18 < 0x50000)) = true := by
    rw [Bool.and_eq_true, decide_eq_true_eq, decide_eq_true_eq]
    omega
  rw [Completes, hexec, execRegisterWrite, if_neg (by omega), if_neg (by omega), if_pos hin, hctx, hoff]
  rfl

/-! ### Reach groups -/

theorem groupRefused_congr {s t : State} (hp : t.ports = s.ports) (hg : t.groups = s.groups) (i : Nat) (g : GroupEntry) :
    groupRefused t i g = groupRefused s i g := by
  unfold groupRefused foreignPort State.port
  rw [hp, hg]

/-- The entry that a creation makes of its words and its table (R421). -/
def groupMade (s : State) (i : Nat) (v : Word) : GroupEntry :=
  ⟨v &&& groupMask0, (s.groupEntry i).w1, readRoutes s (s.groupEntry i).w1.toNat ((v &&& groupMask0).extractLsb' 16 13).toNat⟩

theorem State.groupEntry_setGroup (s : State) (i : Nat) (g : GroupEntry) : (s.setGroup i g).groupEntry i = g :=
  Tab.get_set_same ..

section
variable {i : Nat} {v : Word} {s : State}

/-- A write that takes effect at once. -/
theorem groupTake_of_free (hi : i < 256) (hw : s.groupWait = []) (hf : groupFree s i v = true) :
    s.groupTake i v = s.groupWrite i v := by
  rw [State.groupTake, if_neg (Nat.not_le.2 hi), hw, hf]
  rfl

/-- A deletion that waits. -/
theorem groupTake_of_busy (hi : i < 256) (hw : s.groupWait = []) (hf : groupFree s i v = false) :
    s.groupTake i v = { s with groupWait := [(i, v)] } := by
  rw [State.groupTake, if_neg (Nat.not_le.2 hi), hw, hf]
  rfl

theorem groupFree_of_idle (h : groupBusy s (s.groupEntry i) = false) : groupFree s i v = true := by
  rw [groupFree, h, Bool.and_false, Bool.not_false, Bool.or_true]

theorem groupFree_of_busy (hv : v.getLsbD 63 = false) (hvalid : (s.groupEntry i).valid = true)
    (h : groupBusy s (s.groupEntry i) = true) : groupFree s i v = false := by
  rw [groupFree, hv, hvalid, h]
  rfl

theorem groupLoad_of_accepted (hr : groupRefused s i (groupMade s i v) = none) : s.groupLoad i v
    = (s.lookAt (s.groupEntry i).w1.toNat (4 * ((v &&& groupMask0).extractLsb' 16 13).toNat)).setGroup i (groupMade s i v) := by
  have hquiet := Quiet.outTouch s (linesOf (s.groupEntry i).w1.toNat (4 * ((v &&& groupMask0).extractLsb' 16 13).toNat))
  have hr' := (groupRefused_congr hquiet.ports hquiet.groups i (groupMade s i v)).trans hr
  unfold State.groupLoad
  dsimp only
  rw [groupMade] at hr'
  rw [State.lookAt, hr', groupMade]

/-- A group is deleted (R421). -/
theorem groupUnload_keeps (hv : v.getLsbD 63 = false) : ((s.groupUnload i v).groupEntry i).valid = false
    ∧ (s.groupUnload i v).groupWait = s.groupWait ∧ (s.groupUnload i v).mem = s.mem := by
  have hvalid : (v &&& groupMask0).getLsbD 63 = false := by rw [BitVec.getLsbD_and, hv, Bool.false_and]
  rw [State.groupUnload, State.groupEntry_setGroup]
  refine ⟨hvalid, ?_, ?_⟩
  all_goals
    dsimp only [State.setGroup]
    split <;> rfl

theorem groupWrite_of_delete (hv : v.getLsbD 63 = false) : s.groupWrite i v = s.groupUnload i v :=
  if_neg (hv ▸ Bool.false_ne_true)

theorem exec_groupDelete (hv : v.getLsbD 63 = false) : Completes (.groupDelete i v) s (s.groupTake i v) :=
  congrArg Host.Outcome.next (if_neg (hv ▸ Bool.false_ne_true))

/-- The only write that waits for an entry. -/
theorem groupNext_of_one (hw : s.groupWait = [(i, v)]) : s.groupNext i
    = if groupFree s i v then ({ s with groupWait := [] } : State).groupWrite i v else s := by
  have herase : [(i, v)].erase (i, v) = [] := List.erase_cons_head ..
  have hfind : [(i, v)].find? (fun w => w.1 == i) = some (i, v) :=
    List.find?_cons_of_pos (p := fun w : Nat × Word => w.1 == i) (beq_self_eq_true i)
  rw [State.groupNext, hw, hfind]
  dsimp only
  rw [herase]

end

/-! ### Device memory -/

/-- An access of an aligned word within the window has one part (R418). -/
theorem bar2Parts_of_aligned {s : State} {off : Nat} (h8 : off % 8 = 0) (hin : off < 2 ^ s.bar2Log) :
    bar2Parts s off = [(off, 8, 0)] := by
  rw [bar2Parts, h8]
  exact List.filter_cons_of_pos (by exact decide_eq_true hin)

section
variable {off : Nat} {s : State} (h8 : off % 8 = 0) (hin : off < 2 ^ s.bar2Log) (hw : s.bar2Wait = [])
  (hheld : s.heldLines.contains ((s.bar2Base.toNat + off) % 2 ^ 56 / 256) = false)
include h8 hin hw hheld

theorem bar2Access_writes (v : Word) (hq : s.quar.contains ((s.bar2Base.toNat + off) % 2 ^ 56 / 256) = false)
    (hp : prioOpen s = false) : Completes (.bar2Access off true v) s
      (({ s with bar2Wait := [] } : State).outWrite ((s.bar2Base.toNat + off) % 2 ^ 56) (natLe 8 v.toNat)) := by
  have hexec : exec (.bar2Access off true v) s = execBar2Access off true v s := rfl
  have hbytes : (((natLe 8 v.toNat).drop 0).take 8) = natLe 8 v.toNat :=
    List.take_of_length_le (by rw [List.drop_zero, natLe_length])
  have hopen : prioOpen { s with bar2Wait := [HostAcc.write ((s.bar2Base.toNat + off) % 2 ^ 56) (natLe 8 v.toNat)] } = false := hp
  rw [Completes, hexec, execBar2Access, bar2Parts_of_aligned h8 hin, hw]
  simp only [List.map_cons, List.map_nil, List.nil_append, List.isEmpty_nil, if_true, hbytes, State.bar2Next, hheld, hopen, hq,
    Bool.or_self, Bool.false_eq_true, if_false]

theorem bar2Access_reads (v : Word) : Completes (.bar2Access off false v) s
    (({ s with bar2Wait := [] } : State).bar2Read ((s.bar2Base.toNat + off) % 2 ^ 56) 8 true) := by
  have hexec : exec (.bar2Access off false v) s = execBar2Access off false v s := rfl
  rw [Completes, hexec, execBar2Access, bar2Parts_of_aligned h8 hin, hw]
  simp only [List.map_cons, List.map_nil, List.nil_append, List.isEmpty_nil, if_true, State.bar2Next, hheld, Bool.false_eq_true,
    if_false, beq_self_eq_true]

end

theorem Ignores.badLines : Ignores State.badLines := ⟨fun _ _ => rfl, fun _ _ _ _ _ _ _ => rfl⟩

/-- A read of a line whose data are good gives its bytes (R388, R418). -/
theorem bar2Read_of_good {s : State} {k : Nat} (n : Nat) (hq : s.quar.contains (k / 256) = false)
    (hb : Tab.find? s.badLines (k / 256) = none) : (s.bar2Read k n true).bar2Data = s.readMem k n ∧ (s.bar2Read k n true).mem = s.mem := by
  have hnone : ∀ x, (s.outTouch [k / 256]).quarantine x [k / 256] 0 = s.outTouch [k / 256] := fun x => by
    rw [State.quarantine, List.foldl_cons, List.foldl_nil, Ignores.badLines.outTouch, hb]
  rw [State.bar2Read, hq, hb, hnone]
  exact ⟨rfl, (Quiet.outTouch s _).mem⟩

/-! ### Quarantine -/

/-- A byte of a memory from which some addresses have been dropped. -/
theorem Memory.byte_filter (m : Memory) (p : Nat → Bool) (k : Nat) :
    Memory.byte (m.filter (fun (e : Host.Cell) => p e.1)) k = if p k then Memory.byte m k else 0 := by
  induction m with
  | nil => exact (ite_self (0 : Byte)).symm
  | cons e m ih =>
    obtain ⟨j, b⟩ := e
    unfold Memory.byte Tab.get at ih ⊢
    by_cases hp : p j = true
    · rw [List.filter_cons_of_pos (p := fun e : Host.Cell => p e.1) hp]
      by_cases hj : j = k
      · subst hj
        simp [Tab.find?, hp]
      · simpa [Tab.find?, hj] using ih
    · rw [List.filter_cons_of_neg (p := fun e : Host.Cell => p e.1) hp, ih]
      by_cases hj : j = k
      · subst hj
        simp [hp]
      · simp [Tab.find?, hj]

/-- Settles O57: one lemma per register, group event and access. -/
theorem hostAccess : Obligations.HostAccess := by
  refine ⟨fun off v s h => ?_, fun x v s hx => ?_, fun i v s hi hv hr hw => ?_, fun i v s hi hv hw => ⟨fun hb => ?_, fun hvalid hb => ?_⟩,
    fun i v s hw hv => ⟨fun hb => ?_, fun hvalid hb => ?_⟩, fun off v s h8 hin hw hheld hq => ⟨fun hbad hp => ?_, fun hb => ?_⟩,
    fun a s hq => ?_⟩
  · obtain ⟨h8, hlow, hread, hmem, hcores⟩ := deviceRegister_reads h v s
    exact ⟨_, exec_registerWrite_device h8 hlow v s, hread, hmem, hcores⟩
  · exact ⟨_, modeRegister_write hx v s, by rw [State.ctx_updCtx], fun y hy => State.ctx_updCtx_ne _ _ hy, rfl⟩
  · have hfree : groupFree s i v = true := Bool.or_eq_true_iff.2 (.inl hv)
    have hdone : Completes (.groupCreate i v) s (s.groupLoad i v) := by
      refine congrArg Host.Outcome.next ((if_pos hv).trans ?_)
      rw [groupTake_of_free hi hw hfree]
      exact if_pos hv
    rw [groupLoad_of_accepted hr] at hdone
    exact ⟨_, hdone, State.groupEntry_setGroup .., (Quiet.outTouch s _).mem⟩
  · obtain ⟨hgone, hwait, hmem⟩ := groupUnload_keeps (i := i) (s := s) hv
    refine ⟨_, exec_groupDelete hv, ?_⟩
    rw [groupTake_of_free hi hw (groupFree_of_idle hb), groupWrite_of_delete hv]
    exact ⟨hgone, hwait.trans hw, hmem⟩
  · rw [Completes, exec_groupDelete hv, groupTake_of_busy hi hw (groupFree_of_busy hv hvalid hb)]
  · obtain ⟨hgone, hwait, -⟩ := groupUnload_keeps (i := i) (s := { s with groupWait := [] }) hv
    rw [groupNext_of_one hw, if_pos (groupFree_of_idle hb), groupWrite_of_delete hv]
    exact ⟨hgone, hwait⟩
  · rw [groupNext_of_one hw, groupFree_of_busy hv hvalid hb, if_neg Bool.false_ne_true]
  · obtain ⟨hread, hothers⟩ := outWrite_natLe (s := { s with bar2Wait := [] }) hbad ((s.bar2Base.toNat + off) % 2 ^ 56) 8 v.toNat
    exact ⟨_, bar2Access_writes h8 hin hw hheld v hq hp, hread, hothers⟩
  · obtain ⟨hdata, hmem⟩ := bar2Read_of_good (s := { s with bar2Wait := [] }) (k := (s.bar2Base.toNat + off) % 2 ^ 56) 8 hq hb
    exact ⟨_, bar2Access_reads h8 hin hw hheld v, hdata, hmem⟩
  · refine ⟨_, congrArg Host.Outcome.next (if_pos hq), ?_, fun k hk => ?_, fun k hk => ?_⟩
    · simp
    · exact (Memory.byte_filter s.mem (fun k => k / 256 != a.toNat % 2 ^ 56 / 256) k).trans (if_neg fun h => bne_iff_ne.1 h hk)
    · exact (Memory.byte_filter s.mem (fun k => k / 256 != a.toNat % 2 ^ 56 / 256) k).trans (if_pos (bne_iff_ne.2 hk))

end Sys2Proof.Machine
end

section
/-! Proof of O58: laser modules, memory links and temperature (R388, R394, R401, R426-R428). -/

namespace Sys2Proof.Machine

/-! ### A laser module's state -/

theorem Durable.lasers : Durable State.lasers :=
  ⟨fun _ _ => rfl, fun _ _ => rfl, fun _ _ _ => rfl, fun _ _ _ => rfl, fun _ _ => rfl, fun _ _ _ => rfl, fun _ _ => rfl, fun _ _ => rfl⟩

/-- A record of the device changes no laser module (R430). -/
theorem State.postDev_lasers (s : State) (ty flags : Nat) (fields : List (Nat × List Byte)) :
    (s.postDev ty flags fields).lasers = s.lasers := by
  unfold State.postDev
  dsimp only
  split
  · rw [Durable.lasers.raiseVec]
    exact Durable.lasers.outWrite _ _ _
  · rfl

/-- A port apart from the wavelengths that have light. -/
def Port.unlit (q : Port) : Port := { q with lit := 0 }

/-- The light of a port is not what it knows of its wavelengths (R394). -/
theorem State.unlit_updPort (s : State) (p q : Nat) {f : Port → Port} (hf : ∀ r : Port, (f r).unlit = r.unlit) :
    ((s.updPort p f).port q).unlit = (s.port q).unlit := by
  by_cases h : q = p
  · rw [h, State.port_updPort]
    exact hf _
  · rw [State.port_updPort_ne _ _ h]

section
variable (s : State) (m : Nat) (l : Laser)

/-- A module's new state, before its report (R394, R426). -/
def State.shine : State :=
  if decide (l.state = 1) == decide ((s.laser m).state = 1) then { s with lasers := Tab.set Laser.new s.lasers m l }
  else (bankPorts m).foldl (fun s p => s.updPort p (fun q => { q with
    lit := if l.state = 1 then q.lit ||| bankMask m else q.lit &&& ~~~bankMask m })) { s with lasers := Tab.set Laser.new s.lasers m l }

theorem State.setLaser_reports : s.setLaser m l = if (s.laser m).state = l.state then s.shine m l
    else (s.shine m l).postDev 0x84 0 [(0x10, natLe 8 m), (0x18, natLe 1 l.state), (0x19, natLe 1 (s.laser m).state)] := rfl

theorem State.shine_keeps : (s.shine m l).lasers = Tab.set Laser.new s.lasers m l
    ∧ ∀ p, ((s.shine m l).port p).unlit = (s.port p).unlit := by
  unfold State.shine
  split
  · exact ⟨rfl, fun _ => rfl⟩
  · exact ⟨foldl_keeps State.lasers (by intros; rfl) _ _,
      fun p => foldl_keeps (fun s => (s.port p).unlit) (fun t q => t.unlit_updPort q p (by intro; rfl)) _ _⟩

/-- A module that has a new state; its bank's ports have or lack light, and are as before else (R394, R426). -/
theorem State.setLaser_keeps : (s.setLaser m l).laser m = l ∧ ∀ p, ((s.setLaser m l).port p).unlit = (s.port p).unlit := by
  obtain ⟨hlasers, hports⟩ := s.shine_keeps m l
  have hlaser : ∀ t : State, t.lasers = (s.shine m l).lasers → t.laser m = l := fun t ht => by
    rw [State.laser, ht, hlasers, Tab.get_set_same]
  rw [State.setLaser_reports]
  split
  · exact ⟨hlaser _ rfl, hports⟩
  · refine ⟨hlaser _ (State.postDev_lasers _ _ _ _), fun p => ?_⟩
    rw [State.port_congr (State.postDev_ports ..)]
    exact hports p

end

/-! ### A module that has warmed up -/

/-- A port has the wavelengths of a module's bank, or is not up and has lost none of them. -/
def Port.hasBank (m : Nat) (q : Port) : Bool :=
  (q.txLost &&& bankMask m) = 0 && (q.state ≠ 2 || (q.act &&& bankMask m) = bankMask m)

/-- A port that rejoins the wavelengths of a module's bank (R401). -/
def Port.rejoined (m : Nat) (q : Port) : Port :=
  { q with
    txLost := q.txLost &&& ~~~bankMask m
    tmask := if q.state = 2 then q.act ||| bankMask m else if q.tmask = 0 then 0 else q.tmask ||| bankMask m
    state := if q.en && (q.state = 2 || q.state = 4) then 1 else q.state }

/-- A port rejoins a module's wavelengths when it lacks some of them (R401). -/
def Port.rejoin (m : Nat) (q : Port) : Port := if q.hasBank m then q else q.rejoined m

/-- A port of a module's bank rejoins. -/
def State.rejoin (m : Nat) (s : State) (p : Nat) : State :=
  if (s.port p).hasBank m then s else s.updPort p (Port.rejoined m)

theorem State.port_rejoin (m : Nat) (s : State) (p : Nat) : (s.rejoin m p).port p = (s.port p).rejoin m := by
  unfold State.rejoin Port.rejoin
  split
  · rfl
  · exact State.port_updPort ..

theorem State.port_rejoin_ne (m : Nat) (s : State) {p q : Nat} (h : q ≠ p) : (s.rejoin m p).port q = s.port q := by
  unfold State.rejoin
  split
  · rfl
  · exact State.port_updPort_ne _ _ h

theorem State.rejoin_lasers (m : Nat) (s : State) (p : Nat) : (s.rejoin m p).lasers = s.lasers := by
  unfold State.rejoin
  split <;> rfl

theorem mem_bankPorts {m p : Nat} (h : p / 16 = m / 4) : p ∈ bankPorts m :=
  List.mem_map.2 ⟨p % 16, List.mem_range.2 (Nat.mod_lt _ (by decide)), by omega⟩

theorem bankPorts_nodup (m : Nat) : (bankPorts m).Nodup :=
  List.Nodup.map (fun _ _ h => Nat.add_left_cancel h) List.nodup_range

/-- No wavelength of the bank is lost to a port that has rejoined (R401). -/
theorem Port.txLost_rejoin (m : Nat) (q : Port) : (q.rejoin m).txLost = q.txLost &&& ~~~bankMask m := by
  unfold Port.rejoin
  split
  next h =>
    obtain ⟨hlost, -⟩ := (Bool.and_eq_true _ _).mp h
    refine BitVec.eq_of_getLsbD_eq fun i hi => ?_
    have hbit := congrArg (fun w : BitVec 16 => w.getLsbD i) (of_decide_eq_true hlost)
    simp only [BitVec.getLsbD_and, BitVec.getLsbD_not, hi, decide_true, Bool.true_and] at hbit ⊢
    cases hx : q.txLost.getLsbD i with
    | false => rfl
    | true => simpa [hx] using hbit
  next => rfl

/-- A port that is up without the whole bank retrains with it (R401). -/
theorem Port.rejoin_retrains {m : Nat} {q : Port} (hen : q.en = true) (hst : q.state = 2)
    (hact : q.act &&& bankMask m ≠ bankMask m) : (q.rejoin m).state = 1 ∧ (q.rejoin m).tmask = q.act ||| bankMask m := by
  rw [Port.rejoin, if_neg (by simp [Port.hasBank, hst, hact]), Port.rejoined, hen, hst]
  exact ⟨rfl, rfl⟩

theorem Port.rejoin_congr {m : Nat} {q r : Port} (h : q.unlit = r.unlit) : (q.rejoin m).unlit = (r.rejoin m).unlit := by
  have hunlit : ∀ q : Port, (q.rejoin m).unlit = q.unlit.rejoin m := fun q => by
    unfold Port.rejoin
    split
    next hq => exact (if_pos hq).symm
    next hq => exact (if_neg hq).symm
  rw [hunlit, hunlit, h]

theorem laserWarmUpDone_rejoins {m : Nat} {s : State} (hw : (s.laser m).warming = true) : ∃ t, Completes (.laserWarmUpDone m) s t
    ∧ t.laser m = { s.laser m with state := 1, warming := false }
    ∧ ∀ p, p / 16 = m / 4 → (t.port p).unlit = ((s.port p).rejoin m).unlit := by
  obtain ⟨hlaser, hports⟩ := s.setLaser_keeps m { s.laser m with state := 1, warming := false }
  have hexec : exec (.laserWarmUpDone m) s = .next ((bankPorts m).foldl (State.rejoin m)
      (s.setLaser m { s.laser m with state := 1, warming := false })) := by
    have hdone : exec (.laserWarmUpDone m) s = execLaserWarmUpDone m s := rfl
    rw [hdone, execLaserWarmUpDone, hw]
    rfl
  refine ⟨_, hexec, ?_, fun p hp => ?_⟩
  · refine Eq.trans ?_ hlaser
    exact congrArg (fun x => Tab.get Laser.new x m) (foldl_keeps State.lasers (State.rejoin_lasers m) (bankPorts m) _)
  · rw [foldl_once (fun s => s.port p) (g := Port.rejoin m) (fun s => s.port_rejoin m p) (fun s q hq => s.port_rejoin_ne m (Ne.symm hq))
      (bankPorts_nodup m) (mem_bankPorts hp)]
    exact Port.rejoin_congr (hports p)

/-! ### Memory links -/

theorem State.link_setLink (s : State) (j : Nat) (x : MemLink) : (s.setLink j x).link j = x := Tab.get_set_same ..

section
variable {j : Nat} {s : State}

theorem drain_goes (hj : j < 32) (hst : (s.link j).state = 2) (haway : (s.link j).away = false)
    (hroom : (s.link j).size ≤ reserveFree s j) : Completes (.drain j) s
      (s.setLink j { s.link j with state := 3, cmd := 1, moved := 0, old := (s.link j).size, away := true }) := by
  have hexec : exec (.drain j) s = execDrain j s := rfl
  refine hexec.trans (congrArg Host.Outcome.next ((if_neg ?_).trans (if_neg (Nat.not_lt.2 hroom))))
  simp [hj, hst, haway]

theorem drain_refused (hj : j < 32) (hst : (s.link j).state = 2) (haway : (s.link j).away = false)
    (hroom : reserveFree s j < (s.link j).size) : Completes (.drain j) s (s.postDev 0x82 0
      [(0x10, natLe 8 j), (0x18, natLe 8 (s.link j).size), (0x20, natLe 8 (reserveFree s j))]) := by
  have hexec : exec (.drain j) s = execDrain j s := rfl
  refine hexec.trans (congrArg Host.Outcome.next ((if_neg ?_).trans (if_pos hroom)))
  simp [hj, hst, haway]

theorem restore_goes (haway : (s.link j).away = true) (hst : (s.link j).state = 2 ∨ (s.link j).state = 4) :
    Completes (.restore j) s (s.setLink j { s.link j with state := 5, cmd := 2, moved := 0 }) := by
  have hexec : exec (.restore j) s = execRestore j s := rfl
  exact hexec.trans (congrArg Host.Outcome.next (if_pos (by simpa [haway] using hst)))

/-- A move that still has lines to move does not end, and moves one of them (R427; log 94). -/
theorem drainEnd_waits (hst : (s.link j).state = 3 ∨ (s.link j).state = 5) (hm : (s.link j).moved < (s.link j).old * 4096) :
    Completes (.drainEnd j) s s ∧ (s.lineMoved j).link j = { s.link j with moved := (s.link j).moved + 1 } := by
  have hexec : exec (.drainEnd j) s = execDrainEnd j s := rfl
  refine ⟨hexec.trans (congrArg Host.Outcome.next (if_pos (Nat.ne_of_lt hm))), ?_⟩
  have hmoves : ((decide ((s.link j).state = 3) || decide ((s.link j).state = 5))
      && decide ((s.link j).moved < (s.link j).old * 4096)) = true := by
    simpa [hm] using hst
  rw [State.lineMoved]
  dsimp only
  rw [if_pos hmoves, State.link_setLink]

theorem drainEnd_of_drain (hst : (s.link j).state = 3) (hm : (s.link j).moved = (s.link j).old * 4096) :
    Completes (.drainEnd j) s ((s.setLink j { s.link j with state := 4 }).postDev 0x83 0
      [(0x10, natLe 8 j), (0x18, natLe 8 1), (0x20, natLe 8 ((s.link j).old * 4096))]) := by
  have hexec : exec (.drainEnd j) s = execDrainEnd j s := rfl
  exact hexec.trans (congrArg Host.Outcome.next ((if_neg (not_not_intro hm)).trans (if_pos hst)))

theorem drainEnd_of_restore (hst : (s.link j).state = 5) (hm : (s.link j).moved = (s.link j).old * 4096) :
    Completes (.drainEnd j) s ((s.setLink j { s.link j with state := 2, away := false }).postDev 0x83 0
      [(0x10, natLe 8 j), (0x18, natLe 8 2), (0x20, natLe 8 ((s.link j).old * 4096))]) := by
  have hexec : exec (.drainEnd j) s = execDrainEnd j s := rfl
  have hne : (s.link j).state ≠ 3 := by omega
  exact hexec.trans (congrArg Host.Outcome.next ((if_neg (not_not_intro hm)).trans ((if_neg hne).trans (if_pos hst))))

end

/-- Settles O58: each event by the module, or the link, that it leaves. -/
theorem plantEvents : Obligations.PlantEvents := by
  refine ⟨fun m v s hm hv hp => ?enabled, fun m v s hm hv => ?disabled, fun m s hw => ?warm, fun m b s hm hp => ?failure,
    fun m s hm hp => ?inserted, fun j s hj hst haway => ⟨fun hroom => ?drain, drain_refused hj hst haway⟩,
    fun j s haway hst => ?restore, fun j s hst => ⟨drainEnd_waits hst, fun hm => ?moved⟩,
    fun j s hj hst => ?retrain, fun j s hst => ?removed, fun j n s hj hst => ?module, fun j s hst hsize => ?trained,
    fun s => ⟨_, rfl, rfl, rfl, rfl⟩, fun d n s hn => ⟨_, congrArg Host.Outcome.next (if_neg (Nat.not_lt.2 hn)), rfl, rfl⟩⟩
  case enabled =>
    have hpresent : ¬ (!(s.laser m).present) = true := by simp [hp]
    refine ⟨_, congrArg Host.Outcome.next ((if_neg (Nat.not_le.2 hm)).trans ((if_pos hv).trans (if_neg hpresent))), ?_⟩
    rw [(State.setLaser_keeps s m _).1]
    exact ⟨rfl, rfl⟩
  case disabled =>
    exact ⟨_, congrArg Host.Outcome.next ((if_neg (Nat.not_le.2 hm)).trans (if_neg (hv ▸ Bool.false_ne_true))), rfl,
      fun h => if_pos h⟩
  case warm =>
    obtain ⟨t, hdone, hlaser, hports⟩ := laserWarmUpDone_rejoins hw
    refine ⟨t, hdone, hlaser, fun p hp => ⟨?_, fun hen hst hact => ?_⟩⟩
    · exact (congrArg Port.txLost (hports p hp) :).trans (Port.txLost_rejoin m _)
    · obtain ⟨hstate, hmask⟩ := Port.rejoin_retrains hen hst hact
      exact ⟨(congrArg Port.state (hports p hp) :).trans hstate, (congrArg Port.tmask (hports p hp) :).trans hmask⟩
  case failure =>
    have hpresent : (decide (16 ≤ m) || !(s.laser m).present) = false := by simp [hp, hm]
    cases b with
    | false => exact ⟨_, congrArg Host.Outcome.next ((if_neg (ne_true_of_eq_false hpresent)).trans (if_neg Bool.false_ne_true)), rfl, hp⟩
    | true => exact ⟨_, congrArg Host.Outcome.next ((if_neg (ne_true_of_eq_false hpresent)).trans (if_pos rfl)), rfl, rfl⟩
  case inserted => exact ⟨_, congrArg Host.Outcome.next (if_neg (by simp [hp, hm])), rfl, rfl⟩
  case drain =>
    refine ⟨_, drain_goes hj hst haway hroom, ?_⟩
    rw [State.link_setLink]
    exact ⟨rfl, rfl, rfl, rfl, rfl, rfl⟩
  case restore =>
    refine ⟨_, restore_goes haway hst, ?_⟩
    rw [State.link_setLink]
    exact ⟨rfl, rfl, rfl, rfl⟩
  case moved =>
    rcases hst with hst | hst
    · refine ⟨_, by rw [if_pos hst]; exact drainEnd_of_drain hst hm, ?_⟩
      rw [State.link_setLink, if_pos hst]
      exact ⟨rfl, fun h => absurd (hst.symm.trans h) (by decide), rfl⟩
    · have hne : (s.link j).state ≠ 3 := by omega
      refine ⟨_, by rw [if_neg hne]; exact drainEnd_of_restore hst hm, ?_⟩
      rw [State.link_setLink, if_neg hne]
      exact ⟨rfl, fun _ => rfl, rfl⟩
  case retrain =>
    refine ⟨_, congrArg Host.Outcome.next (if_pos (by simp [hj, hst])), ?_⟩
    rw [State.link_setLink]
    exact ⟨rfl, rfl⟩
  case removed =>
    refine ⟨_, congrArg Host.Outcome.next (if_pos hst), ?_⟩
    rw [State.link_setLink]
    exact ⟨rfl, rfl, rfl⟩
  case module =>
    refine ⟨_, congrArg Host.Outcome.next (if_pos (by simp [hj, hst])), ?_⟩
    rw [State.link_setLink]
    exact ⟨rfl, rfl, rfl⟩
  case trained =>
    refine ⟨_, congrArg Host.Outcome.next (if_pos (by simp [hst, hsize])), ?_⟩
    rw [State.link_setLink]
    exact ⟨rfl, rfl⟩

end Sys2Proof.Machine
end

section
/-! Proof of O59: how a port takes the flits that reach it, and how it discards them (R397-R402, R414, R416). -/

namespace Sys2Proof.Machine

/-! ### Arrival -/

theorem receive_of_take {s : State} {p ty : Nat} {f : Flit} (hp : p < 64) (h : (s.port p).rx ty f = .take)
    (k : Port → State → State) : s.receive p ty f k
      = .next ((k (s.port p) (s.updPort p (fun q => q.ack (flitAck f)))).updPort p Port.pump) := by
  rw [State.receive, if_neg (Nat.not_le.2 hp), h]

theorem receive_of_discard {s : State} {p ty : Nat} {f : Flit} {nak : Bool} (hp : p < 64) (h : (s.port p).rx ty f = .discard nak)
    (k : Port → State → State) : s.receive p ty f k = .next (s.updPort p (fun q => q.discard nak)) := by
  rw [State.receive, if_neg (Nat.not_le.2 hp), h]

/-- A sequenced flit is taken by the number that it carries, whatever its type (R395, R398). -/
theorem exec_sequencedFlit {i : Instr} {p ty : Nat} {f : Flit} (h : sequencedFlit i = some (p, f, ty)) (s : State) :
    exec i s = s.receive p ty f (fun _ s => s.acceptFlit p f) := by
  unfold sequencedFlit at h
  split at h
  case h_1 => cases h; rfl
  case h_2 => cases h; rfl
  case h_3 => cases h; rfl
  case h_4 => exact absurd h (by simp)

/-- After a loss of light nothing but training is taken (R399, R416). -/
theorem Port.rx_of_blind {q : Port} {ty : Nat} {f : Flit} (hen : q.en = true) (hst : q.state ≠ 0) (hb : q.blind = true) (hty : ty ≠ 5) :
    q.rx ty f = .discard false := by
  have hdark : q.dark = true := hb
  rw [Port.rx, hen, hdark, if_neg (by simpa using hst)]
  split
  · rfl
  · exact if_pos (by simpa using hty)

/-! ### Discarding -/

section
variable (q : Port) (nak : Bool)

theorem Port.discard_counts : (q.discard nak).discarded = q.discarded + 1 ∧ (q.discard nak).expect = q.expect := by
  unfold Port.discard
  dsimp only
  split <;> exact ⟨rfl, rfl⟩

theorem Port.discard_without_nak :
    (q.discard false).nakDue = q.nakDue ∧ (q.discard false).naked = q.naked := ⟨rfl, rfl⟩

/-- A NAK falls due unless one is due, or one for the expected number has been sent (R398, R414). -/
theorem Port.discard_with_nak : ((q.discard true).nakDue = true ∨ q.naked = some q.expect)
    ∧ (q.nakDue = false → (q.discard true).naked = some q.expect) := by
  unfold Port.discard
  dsimp only
  cases hdue : q.nakDue with
  | true =>
    rw [if_neg (by simp)]
    exact ⟨.inl rfl, fun h => absurd h (by decide)⟩
  | false =>
    by_cases hn : q.naked = some q.expect
    · rw [hn]
      simp
    · rw [if_pos (by simpa using hn)]
      exact ⟨.inl rfl, fun _ => rfl⟩

end

/-! ### A sequenced flit in its turn -/

/-- The flow of a packet is no number of the link (R398). -/
theorem Port.tracked_keeps (q : Port) (x : Packet) : (q.tracked x).1.expect = q.expect ∧ (q.tracked x).1.naked = q.naked
    ∧ (q.tracked x).1.nakDue = q.nakDue := by
  unfold Port.tracked
  dsimp only
  split <;> exact ⟨rfl, rfl, rfl⟩

theorem State.toSwitch_keeps (s : State) (p : Nat) (x : Packet) :
    (s.toSwitch p x).ports = s.ports ∧ (s.toSwitch p x).mem = s.mem ∧ (s.toSwitch p x).cores = s.cores := by
  unfold State.toSwitch
  split
  · split <;> exact ⟨rfl, rfl, rfl⟩
  · exact ⟨rfl, rfl, rfl⟩

/-- An accepted flit raises the expected number by one (R398). -/
theorem State.acceptFlit_keeps (s : State) (p : Nat) (f : Flit) :
    ((s.acceptFlit p f).port p).expect = (s.port p).expect + 1
      ∧ ((s.acceptFlit p f).port p).naked = (if (s.port p).nakDue then (s.port p).naked else none)
      ∧ ((s.acceptFlit p f).port p).nakDue = (s.port p).nakDue
      ∧ (s.acceptFlit p f).mem = s.mem ∧ (s.acceptFlit p f).cores = s.cores := by
  obtain ⟨hexpect, hnaked, hdue⟩ := (s.port p).tracked_keeps (packetOf f)
  obtain ⟨u, hu⟩ : ∃ u : State, u = s.updPort p (fun _ => { ((s.port p).tracked (packetOf f)).1 with
      expect := ((s.port p).tracked (packetOf f)).1.expect + 1
      naked := if ((s.port p).tracked (packetOf f)).1.nakDue then ((s.port p).tracked (packetOf f)).1.naked else none }) := ⟨_, rfl⟩
  have hsame : (s.acceptFlit p f).ports = u.ports ∧ (s.acceptFlit p f).mem = u.mem ∧ (s.acceptFlit p f).cores = u.cores := by
    rw [hu, State.acceptFlit]
    dsimp only
    split
    · exact ⟨rfl, rfl, rfl⟩
    · exact State.toSwitch_keeps _ _ _
  obtain ⟨hports, hmem, hcores⟩ := hsame
  rw [State.port_congr hports, hmem, hcores, hu, State.port_updPort]
  dsimp only
  rw [hexpect, hnaked, hdue]
  exact ⟨rfl, rfl, rfl, rfl, rfl⟩

/-- New flits change neither the number that a receiver expects nor its NAK (R397). -/
theorem Port.pump_keeps (q : Port) : q.pump.expect = q.expect ∧ q.pump.naked = q.naked ∧ q.pump.nakDue = q.nakDue :=
  ⟨(congrArg Port.expect q.apart_pump :), (congrArg Port.naked q.apart_pump :), (congrArg Port.nakDue q.apart_pump :)⟩

theorem sequencedFlit_taken {i : Instr} {p ty : Nat} {f : Flit} (hi : sequencedFlit i = some (p, f, ty)) {s : State} (hp : p < 64)
    (h : (s.port p).rx ty f = .take) : ∃ t, Completes i s t ∧ (t.port p).expect = (s.port p).expect + 1
      ∧ (t.port p).naked = (if (s.port p).nakDue then (s.port p).naked else none) ∧ (t.port p).nakDue = (s.port p).nakDue
      ∧ t.mem = s.mem ∧ t.cores = s.cores := by
  obtain ⟨hexpect, hnaked, hdue, hmem, hcores⟩ := (s.updPort p (fun q => q.ack (flitAck f))).acceptFlit_keeps p f
  rw [State.port_updPort] at hexpect hnaked hdue
  obtain ⟨t, ht⟩ : ∃ t, t = (s.updPort p (fun q => q.ack (flitAck f))).acceptFlit p f := ⟨_, rfl⟩
  have hdone := (exec_sequencedFlit hi s).trans (receive_of_take hp h _)
  rw [← ht] at hdone hexpect hnaked hdue hmem hcores
  obtain ⟨hexpect', hnaked', hdue'⟩ := (t.port p).pump_keeps
  refine ⟨_, hdone, ?_⟩
  rw [State.port_updPort, hexpect', hnaked', hdue']
  exact ⟨hexpect, hnaked, hdue, hmem, hcores⟩

/-! ### Flits without a number -/

theorem Port.pump_of_not_up {q : Port} (h : q.state ≠ 2) : q.pump = q := if_neg h

/-- A NAK at a port that is up sends again at once; one at a port that trains, or has stopped, after the training (R398). -/
theorem nak_taken {p : Nat} {f : Flit} {s : State} (hp : p < 64) (h : (s.port p).rx 3 f = .take) :
    ((s.port p).state = 2 → ∃ t, Completes (.nak p f) s t
      ∧ t.port p = (((s.port p).ack (flitAck f)).replayFrom (BitVec.ofNat 16 (flitNat f 0 2))).pump)
    ∧ ((s.port p).state = 1 ∨ (s.port p).state = 3 → ∃ t, Completes (.nak p f) s t
      ∧ t.port p = { (s.port p).ack (flitAck f) with nakFrom := some (BitVec.ofNat 16 (flitNat f 0 2)) }) := by
  have hexec : exec (.nak p f) s = execNak p f s := rfl
  rw [execNak, receive_of_take hp h] at hexec
  refine ⟨fun hst => ⟨_, hexec, ?_⟩, fun hst => ⟨_, hexec, ?_⟩⟩
  · rw [State.port_updPort, State.port_updPort, State.port_updPort]
    rw [if_pos hst]
  · have hdown : (s.port p).state ≠ 2 := by omega
    rw [State.port_updPort, State.port_updPort, State.port_updPort]
    rw [if_neg hdown, if_pos (by simpa using hst)]
    exact Port.pump_of_not_up hdown

/-- A receiver whose peer has trained over some wavelengths (R400, R416). -/
def Port.trained (q : Port) (m : BitVec 16) : Port :=
  { q with lost := q.lost &&& ~~~m, blind := false, rxAct := m, naked := if q.nakDue then q.naked else none, lossRx := [] }

theorem training_taken {p : Nat} {f : Flit} {s : State} (hp : p < 64) (h : (s.port p).rx 5 f = .take) :
    ∃ t, Completes (.training p f) s t
      ∧ t.port p = (((s.port p).ack (flitAck f)).trained (BitVec.ofNat 16 (flitNat f 0 2))).pump
      ∧ ((s.port p).lossRx = [] → BitVec.ofNat 16 (flitNat f 0 2) &&& ~~~(s.port p).rxAct = 0 → t.mem = s.mem) := by
  have hexec : exec (.training p f) s = execTraining p f s := rfl
  refine ⟨_, hexec.trans (receive_of_take hp h _), ?_, fun hl hb => ?_⟩
  · rw [State.port_updPort]
    congr 1
    dsimp only
    split
    · rw [State.port_congr (State.portRecord_ports ..), State.port_congr (State.lossRecords_ports ..), State.port_updPort,
        State.port_updPort]
      rfl
    · rw [State.port_congr (State.lossRecords_ports ..), State.port_updPort, State.port_updPort]
      rfl
  · rw [State.updPort_mem]
    dsimp only
    rw [if_neg (not_not_intro hb), hl]
    rfl

/-- Settles O59: what is taken by `receive_of_take`, what is not by `receive_of_discard`. -/
theorem flitsTaken : Obligations.FlitsTaken := by
  refine ⟨fun i p ty f hi s hp h => sequencedFlit_taken hi hp h, fun p f s hp h => ?idle, fun p f s hp h => nak_taken hp h,
    fun p f s hp h => ?notice, fun p f s hp h => ?training, fun i p ty f hi s nak hp h => ?discarded, fun q h => if_pos h,
    fun q ty f hen hst hb hty => Port.rx_of_blind hen hst hb hty⟩
  case idle =>
    have hexec : exec (.idleFlit p f) s = execIdleFlit p f s := rfl
    exact hexec.trans (receive_of_take hp h _)
  case notice =>
    have hexec : exec (.lossOfLightNotice p f) s = execLossOfLightNotice p f s := rfl
    exact hexec.trans (receive_of_take hp h _)
  case training =>
    obtain ⟨t, hdone, hport, hmem⟩ := training_taken hp h
    have hapart := (congrArg Port.apart hport).trans (Port.apart_pump _)
    exact ⟨t, hdone, (congrArg Port.lost hapart :), (congrArg Port.blind hapart :), (congrArg Port.rxAct hapart :),
      (congrArg Port.naked hapart :), (congrArg Port.lossRx hapart :), hmem⟩
  case discarded =>
    obtain ⟨hcount, hexpect⟩ := (s.port p).discard_counts nak
    refine ⟨_, (exec_sequencedFlit hi s).trans (receive_of_discard hp h _), ?_⟩
    rw [State.port_updPort]
    refine ⟨hcount, hexpect, rfl, rfl, ?_, ?_, ?_⟩
    · rintro rfl
      exact (s.port p).discard_with_nak.1
    · rintro rfl
      exact (s.port p).discard_with_nak.2
    · rintro rfl
      exact (s.port p).discard_without_nak

end Sys2Proof.Machine
end
